-- ==== Sys2Proof/Word.lean ====
section
/-! DEFINITION. Word: the word types of the GZN-4128 (R6, R10, R11). -/

namespace Sys2Proof

/-- A 64-bit scalar register, descriptor word or doubleword of memory (R6, R10). -/
abbrev Word := BitVec 64

/-- The smallest addressable unit of memory, of the buffers and of Dray memory (R6). -/
abbrev Byte := BitVec 8

/-- One instruction word (R11). -/
abbrev IWord := BitVec 32

end Sys2Proof
end

