-- ==== Sys2Proof/Syntax.lean ====
section
/-! DEFINITION. Syntax: one constructor of `Instr` per row of spec/opcode_table.json, engine by engine.

The table lists two kinds of row. A row with a bit pattern is an instruction word; its constructor
carries the token selectors (R11, R16) and the fields of its body form (R23, R26, R30, R31) as the bit
strings the manual numbers. A row without one is a step of the part that no word fetches (an arrival, a
timer, a walker or engine action); its constructor carries the numbers that say where it happens. -/

namespace Sys2Proof

/-- The token selectors of a word: bits 31:30 POP and bits 29:28 PUSH (R11, R16). -/
structure Tok where
  pop  : BitVec 2
  push : BitVec 2
deriving DecidableEq, Repr

/-- The engine that fetches a word; it selects the opcode map (R12). -/
inductive Engine where
  | k | l | x | s | dray
deriving DecidableEq, Repr

/-- A thread of execution by the physical numbers of a master handle (R339): a coach's strand or stream
named by lead quadrant (die x 128 + quadrant) and part (0-7 K strands, 8 L, 9 X, 10 S), or a Dray strand. -/
inductive ThreadId where
  | coach (quad part : Nat)
  | dray (die strand : Nat)
deriving DecidableEq, Repr

/-- The access kinds a translation is checked for (R331, R334). -/
inductive AccessKind where
  | read | write | atomic
deriving DecidableEq, Repr

/-- What reading one line through the symbol code finds (R280). -/
inductive EccOutcome where
  | clean | corrected | uncorrectable
deriving DecidableEq, Repr

/-- The status of a PCIe completion (R437, R438). -/
inductive HostStatus where
  | success | unsupported | abort
deriving DecidableEq, Repr

/-- The charge classes of the energy estimator (R456). -/
inductive EnergyClass where
  | boundQuadrant | rowWide | rowByte | rowNarrow | vectorTile | beatNear | beatHbm | linkFlit | issue
deriving DecidableEq, Repr

/-- A unit that a watchdog guards (R375). -/
inductive WatchUnit where
  | sequencer (quad : Nat)
  | drayStrand (die strand : Nat)
  | walker (die : Nat)
  | linkEngine (port : Nat)
deriving DecidableEq, Repr

/-- The follow-on word of a CPYC: an MWLD or an MMA of the X map (R15, R220). Its own token selectors
have no effect (R188) and are kept as they stand in the word. -/
inductive FollowOn where
  | mwld (k : Tok) (a : BitVec 6) (f : BitVec 3)
  | mma (k : Tok) (a b c : BitVec 6) (f : BitVec 3)
deriving DecidableEq, Repr

/-- A flit of the Gizia Link: the header fields of R407 and the 256-byte payload. -/
structure Flit where
  ty      : BitVec 6
  vc      : BitVec 3
  domain  : BitVec 4
  seq     : BitVec 12
  ack     : BitVec 12
  crch    : BitVec 3
  crinc   : BitVec 6
  oper    : Bool
  src     : BitVec 8
  dst     : BitVec 8
  h1      : Word
  payload : BitVec 2048
deriving DecidableEq, Repr

/-- A write of a control structure of Dray memory (R266): where, how many bytes, the value, and the
writer's level (0 O, 1 D, 2 S) and served domain or slice. -/
structure CtlWrite where
  die    : Nat
  addr   : Nat
  bytes  : Nat
  val    : Word
  level  : Nat
  served : Nat
deriving DecidableEq, Repr

/-- The instructions and steps of the part, one constructor per row of spec/opcode_table.json. -/
inductive Instr where
  /-- VADD (R165): Masked element-wise addition of tiles. -/
  | vadd (k : Tok) (d a b : BitVec 6) (y : BitVec 3)
  /-- VSUB (R165): Masked element-wise subtraction. -/
  | vsub (k : Tok) (d a b : BitVec 6) (y : BitVec 3)
  /-- VMUL (R165): Masked element-wise multiplication. -/
  | vmul (k : Tok) (d a b : BitVec 6) (y : BitVec 3)
  /-- VFMA (R165): Masked fused a × b + d. -/
  | vfma (k : Tok) (d a b : BitVec 6) (y : BitVec 3)
  /-- VFMS (R165): Masked fused a × b - d. -/
  | vfms (k : Tok) (d a b : BitVec 6) (y : BitVec 3)
  /-- VMIN (R165): Masked element-wise minimum. -/
  | vmin (k : Tok) (d a b : BitVec 6) (y : BitVec 3)
  /-- VMAX (R165): Masked element-wise maximum. -/
  | vmax (k : Tok) (d a b : BitVec 6) (y : BitVec 3)
  /-- VABS (R165): Masked element-wise absolute value. -/
  | vabs (k : Tok) (d a : BitVec 6) (y : BitVec 3)
  /-- VNEG (R165): Masked element-wise negation. -/
  | vneg (k : Tok) (d a : BitVec 6) (y : BitVec 3)
  /-- VAND (R165): Masked bitwise AND of cells. -/
  | vand (k : Tok) (d a b : BitVec 6) (y : BitVec 3)
  /-- VOR (R165): Masked bitwise OR of cells. -/
  | vor (k : Tok) (d a b : BitVec 6) (y : BitVec 3)
  /-- VXOR (R165): Masked bitwise XOR of cells. -/
  | vxor (k : Tok) (d a b : BitVec 6) (y : BitVec 3)
  /-- VSHL (R165): Masked lane shift left by an immediate. -/
  | vshl (k : Tok) (d a i : BitVec 6) (y : BitVec 3)
  /-- VSHR (R165): Masked lane logical shift right. -/
  | vshr (k : Tok) (d a i : BitVec 6) (y : BitVec 3)
  /-- VSRA (R165): Masked lane arithmetic shift right. -/
  | vsra (k : Tok) (d a i : BitVec 6) (y : BitVec 3)
  /-- VCMP (R168): Masked compare writing a mask register. -/
  | vcmp (k : Tok) (a b : BitVec 6) (c m y : BitVec 3)
  /-- VSEL (R169): Selects cells from a where active and b elsewhere. -/
  | vsel (k : Tok) (d a b : BitVec 6) (y : BitVec 3)
  /-- VMOV (R169): Masked cell move, transposing or skewing by direction. -/
  | vmov (k : Tok) (d a : BitVec 6) (y : BitVec 3)
  /-- VBCS (R170): Broadcasts a scalar into active cells. -/
  | vbcs (k : Tok) (d : BitVec 6) (sr : BitVec 4) (y : BitVec 3)
  /-- VMOVS (R170): Moves the first active cell into a scalar register. -/
  | vmovs (k : Tok) (a : BitVec 6) (sr : BitVec 4) (y : BitVec 3)
  /-- VINS (R170): Inserts a scalar at the first active position. -/
  | vins (k : Tok) (d : BitVec 6) (sr : BitVec 4) (y : BitVec 3)
  /-- VEXP2 (R81): Masked 2^x by the fixed algorithm. -/
  | vexp2 (k : Tok) (d a : BitVec 6)
  /-- VLOG2 (R82): Masked log2 x by the fixed algorithm. -/
  | vlog2 (k : Tok) (d a : BitVec 6)
  /-- VRCP (R83): Masked reciprocal by the fixed algorithm. -/
  | vrcp (k : Tok) (d a : BitVec 6)
  /-- VRSQ (R84): Masked reciprocal square root by the fixed algorithm. -/
  | vrsq (k : Tok) (d a : BitVec 6)
  /-- VCVT (R173): Masked conversion by pair, rounding and overflow policy. -/
  | vcvt (k : Tok) (d a : BitVec 6) (r : BitVec 3) (f : BitVec 2) (c : BitVec 4)
  /-- VPACK (R174): Packs F32 vectors into scaled MX blocks. -/
  | vpack (k : Tok) (d a b : BitVec 6) (y : BitVec 3)
  /-- VUNPK (R174): Unpacks scaled MX blocks into F32 cells. -/
  | vunpk (k : Tok) (d a b : BitVec 6) (y : BitVec 3)
  /-- VREDS (R175): Sums the active elements of each vector into vector 0. -/
  | vreds (k : Tok) (d a : BitVec 6) (y : BitVec 3)
  /-- VREDM (R175): Reduces each vector to its maximum or minimum. -/
  | vredm (k : Tok) (d a i : BitVec 6) (y : BitVec 3)
  /-- VSCAN (R175): Running sum, maximum or minimum along each vector. -/
  | vscan (k : Tok) (d a i : BitVec 6) (y : BitVec 3)
  /-- VPERM (R176): Permutes cells within vectors by index. -/
  | vperm (k : Tok) (d a b : BitVec 6) (y : BitVec 3)
  /-- VROT (R176): Rotates cells within vectors. -/
  | vrot (k : Tok) (d a i : BitVec 6) (y : BitVec 3)
  /-- VLD (R177): Loads tile lanes from ABUF or ACC. -/
  | vld (k : Tok) (tr e : BitVec 6) (sr : BitVec 4) (y : BitVec 3)
  /-- VST (R177): Stores active tile lanes into ABUF or ACC. -/
  | vst (k : Tok) (tr e : BitVec 6) (sr : BitVec 4) (y : BitVec 3)
  /-- VATOM_ADD (R178): Per-lane atomic add to global memory returning old values. -/
  | vatomAdd (k : Tok) (tr e : BitVec 6) (sr : BitVec 4) (y : BitVec 3)
  /-- VATOM_MIN (R178): Per-lane atomic minimum. -/
  | vatomMin (k : Tok) (tr e : BitVec 6) (sr : BitVec 4) (y : BitVec 3)
  /-- VATOM_MAX (R178): Per-lane atomic maximum. -/
  | vatomMax (k : Tok) (tr e : BitVec 6) (sr : BitVec 4) (y : BitVec 3)
  /-- VATOM_SWP (R178): Per-lane atomic swap. -/
  | vatomSwp (k : Tok) (tr e : BitVec 6) (sr : BitVec 4) (y : BitVec 3)
  /-- VDEFER (R180): Hands a tile store to the deferral queue. -/
  | vdefer (k : Tok) (tr e : BitVec 6) (sr : BitVec 4) (y : BitVec 3)
  /-- VDRAIN (R181): Retires when every earlier VDEFER has performed or been discarded. -/
  | vdrain (k : Tok)
  /-- SETM (R159): Selects the active mask register. -/
  | setm (k : Tok) (m : BitVec 3)
  /-- MAND (R159): ANDs two mask registers. -/
  | mand (k : Tok) (d a b : BitVec 3)
  /-- MOR (R159): ORs two mask registers. -/
  | mor (k : Tok) (d a b : BitVec 3)
  /-- MXOR (R159): XORs two mask registers. -/
  | mxor (k : Tok) (d a b : BitVec 3)
  /-- MNOT (R159): Inverts a mask register. -/
  | mnot (k : Tok) (d a : BitVec 3)
  /-- MPOPC (R159): Counts the set bits of a mask into a scalar. -/
  | mpopc (k : Tok) (sr : BitVec 4) (m : BitVec 3)
  /-- VIOTA (R171): Writes each active position's index. -/
  | viota (k : Tok) (d : BitVec 6) (y : BitVec 3)
  /-- VCLR (R171): Zeroes a whole tile register and clears its poison. -/
  | vclr (k : Tok) (d : BitVec 4)
  /-- MWLD (R192): Loads the shadow weight set from WBUF or a carriage queue. -/
  | mwld (k : Tok) (a : BitVec 6) (f : BitVec 3)
  /-- MMA (R193): Dense matrix multiply-accumulate in fixed order. -/
  | mma (k : Tok) (a b c : BitVec 6) (f : BitVec 3)
  /-- MMAS (R195): 2:4 sparse matrix multiply-accumulate. -/
  | mmas (k : Tok) (a b c : BitVec 6) (f : BitVec 3)
  /-- MGATH (R197): Gathers indexed rows into the gather latch. -/
  | mgath (k : Tok) (a b : BitVec 6)
  /-- MZERO (R198): Zeroes an ACC range. -/
  | mzero (k : Tok) (c : BitVec 6)
  /-- MKAT (R199): Runs a known-answer tile on each quadrant and quarantines mismatches. -/
  | mkat (k : Tok) (seed : BitVec 18) (f : BitVec 3) (low high : BitVec 32)
  /-- MSTAT_OCCUPANCY (R200): Returns matrix queue entries in use. -/
  | mstatOccupancy (k : Tok) (d : BitVec 4)
  /-- MSTAT_STICKY (R200): Returns and clears the sticky SPX and IOV pair. -/
  | mstatSticky (k : Tok) (d : BitVec 4)
  /-- MSTAT_RETIRED (R200): Returns matrix operations retired since task start. -/
  | mstatRetired (k : Tok) (d : BitVec 4)
  /-- MWAIT (R201): Stalls until at most n matrix queue entries are in use. -/
  | mwait (k : Tok) (n : BitVec 4)
  /-- CPY (R220): Copies elements between descriptors through the copy queue. -/
  | cpy (k : Tok) (d sr : BitVec 6) (c l : BitVec 4)
  /-- CPYC (R220): Copies and then enters its follow-on MWLD or MMA into the matrix queue. -/
  | cpyc (k : Tok) (d sr : BitVec 6) (c l : BitVec 4) (fo : FollowOn)
  /-- CPYG (R221): Gathers rows under an index list. -/
  | cpyg (k : Tok) (d sr : BitVec 6) (c l : BitVec 4)
  /-- CPYS (R221): Scatters rows under an index list. -/
  | cpys (k : Tok) (d sr : BitVec 6) (c l : BitVec 4)
  /-- CPYR (R222): Copies to or from a remote part as an escaping access. -/
  | cpyr (k : Tok) (d sr : BitVec 6) (c l : BitVec 4)
  /-- CPYH (R223): Absorbs bytes into the stream's SHAKE256 state, optionally copying them. -/
  | cpyh (k : Tok) (d sr : BitVec 6) (c l : BitVec 4) (v : BitVec 1)
  /-- CFILL (R225): Fills a destination with a pattern. -/
  | cfill (k : Tok) (d : BitVec 6) (c l : BitVec 4) (v : BitVec 1)
  /-- CPFX (R226): Prefetches committed global lines into L2. -/
  | cpfx (k : Tok) (sr : BitVec 6) (c l : BitVec 4)
  /-- CWB (R226): Writes back dirty committed lines to HBM. -/
  | cwb (k : Tok) (sr : BitVec 6) (c : BitVec 4)
  /-- CWAIT (R227): Stalls until at most n of the stream's copy commands are unretired. -/
  | cwait (k : Tok) (n : BitVec 5)
  /-- HFIN (R224): Squeezes the hash digest to a destination and clears the state. -/
  | hfin (k : Tok) (d : BitVec 6)
  /-- CQBIND_SEND (R420): Binds an endpoint to send on one or two circuits. -/
  | cqbindSend (k : Tok) (q : BitVec 3) (e : BitVec 6) (sr : BitVec 4)
  /-- CQBIND_RECV (R420): Binds an endpoint to receive and grants initial credits. -/
  | cqbindRecv (k : Tok) (q : BitVec 3) (e : BitVec 6) (sr : BitVec 4)
  /-- CQUNB_DRAIN (R421): Drains then unbinds an endpoint, sending CQCLOSE. -/
  | cqunbDrain (k : Tok) (q : BitVec 3)
  /-- CQUNB_DISCARD (R421): Drops pending rows and unbinds an endpoint. -/
  | cqunbDiscard (k : Tok) (q : BitVec 3)
  /-- CQSEND (R422): Sends descriptor rows through a send endpoint. -/
  | cqsend (k : Tok) (q : BitVec 3) (e : BitVec 6) (sr : BitVec 4)
  /-- CQRECV (R422): Receives rows from an endpoint into a descriptor. -/
  | cqrecv (k : Tok) (q : BitVec 3) (e : BitVec 6) (sr : BitVec 4)
  /-- CQSTAT_STATUS (R423): Returns the endpoint status word. -/
  | cqstatStatus (k : Tok) (q : BitVec 3) (sr : BitVec 4)
  /-- CQSTAT_ROWS (R423): Returns rows held by the endpoint. -/
  | cqstatRows (k : Tok) (q : BitVec 3) (sr : BitVec 4)
  /-- CQSTAT_CREDITS (R423): Returns the endpoint's send credits. -/
  | cqstatCredits (k : Tok) (q : BitVec 3) (sr : BitVec 4)
  /-- AADD (R116): 64-bit atomic add returning the old value. -/
  | aadd (k : Tok) (d b v c : BitVec 4) (m : BitVec 2) (e : BitVec 3)
  /-- AAND (R116): 64-bit atomic AND. -/
  | aand (k : Tok) (d b v c : BitVec 4) (m : BitVec 2) (e : BitVec 3)
  /-- AOR (R116): 64-bit atomic OR. -/
  | aor (k : Tok) (d b v c : BitVec 4) (m : BitVec 2) (e : BitVec 3)
  /-- AXOR (R116): 64-bit atomic XOR. -/
  | axor (k : Tok) (d b v c : BitVec 4) (m : BitVec 2) (e : BitVec 3)
  /-- ASWP (R116): 64-bit atomic swap. -/
  | aswp (k : Tok) (d b v c : BitVec 4) (m : BitVec 2) (e : BitVec 3)
  /-- ACAS (R116): 64-bit compare-and-swap against d. -/
  | acas (k : Tok) (d b v c : BitVec 4) (m : BitVec 2) (e : BitVec 3)
  /-- AMIN (R116): 64-bit atomic signed minimum. -/
  | amin (k : Tok) (d b v c : BitVec 4) (m : BitVec 2) (e : BitVec 3)
  /-- AMAX (R116): 64-bit atomic signed maximum. -/
  | amax (k : Tok) (d b v c : BitVec 4) (m : BitVec 2) (e : BitVec 3)
  /-- AMINU (R116): 64-bit atomic unsigned minimum. -/
  | aminu (k : Tok) (d b v c : BitVec 4) (m : BitVec 2) (e : BitVec 3)
  /-- AMAXU (R116): 64-bit atomic unsigned maximum. -/
  | amaxu (k : Tok) (d b v c : BitVec 4) (m : BitVec 2) (e : BitVec 3)
  /-- AADD_W (R116): 32-bit atomic add. -/
  | aaddW (k : Tok) (d b v c : BitVec 4) (m : BitVec 2) (e : BitVec 3)
  /-- ASWP_W (R116): 32-bit atomic swap. -/
  | aswpW (k : Tok) (d b v c : BitVec 4) (m : BitVec 2) (e : BitVec 3)
  /-- ACAS_W (R116): 32-bit compare-and-swap. -/
  | acasW (k : Tok) (d b v c : BitVec 4) (m : BitVec 2) (e : BitVec 3)
  /-- FORK (R120): Starts the lowest idle strand at a word offset and returns its number. -/
  | fork (k : Tok) (d a : BitVec 4) (o : BitVec 13)
  /-- JOIN (R120): Parks until the named strand is idle. -/
  | join (k : Tok) (a : BitVec 4)
  /-- SYIELD (R120): Moves the strand to the end of the round-robin order. -/
  | syield (k : Tok)
  /-- SEXIT (R120): Makes the strand idle and clears its loop stack. -/
  | sexit (k : Tok)
  /-- BSEL (R104): Bitwise select of b over old d under mask a. -/
  | bsel (k : Tok) (d a b : BitVec 4)
  /-- LAUNCH (R264): Holds a launch record for append at commit, or appends at once on a Dray strand. -/
  | launch (k : Tok) (a b : BitVec 4)
  /-- LAUNCH_IMM (R264): Appends a launch record at once as an escaping access. -/
  | launchImm (k : Tok) (a b : BitVec 4)
  /-- QNOTIFY (R264): Notifies a virtual queue, held until commit inside a launch. -/
  | qnotify (k : Tok) (a : BitVec 4)
  /-- TXSTAT (R299): Returns the launch status word. -/
  | txstat (k : Tok) (d : BitVec 4)
  /-- TXABORT (R299): Aborts the launch finally with a user code. -/
  | txabort (k : Tok) (c : BitVec 13)
  /-- TXCLAIM (R298): Claims a TVA range for direct writes after translation and conflict checks. -/
  | txclaim (k : Tok) (a b : BitVec 4)
  /-- GATE_READ (R265): Reads a gate counter. -/
  | gateRead (k : Tok) (d a : BitVec 4)
  /-- GATE_ADD (R265): Adds to a gate, held until commit inside a launch. -/
  | gateAdd (k : Tok) (d a b : BitVec 4)
  /-- GATE_WAITGE (R265): Parks until a gate reaches a bound, as an acquire. -/
  | gateWaitge (k : Tok) (d a b : BitVec 4)
  /-- ERET (R341): Resumes a master stopped on a precise fault at EPC. -/
  | eret (k : Tok) (d a : BitVec 4)
  /-- FRES (R341): Restarts parked engine queues from their recorded progress. -/
  | fres (k : Tok) (d a : BitVec 4)
  /-- FKILL (R341): Kills a coach, Dray strand or function. -/
  | fkill (k : Tok) (d a : BitVec 4)
  /-- FREEZE (R341): Stops a master and keeps it stopped. -/
  | freeze (k : Tok) (d a : BitVec 4)
  /-- THAW (R341): Lets a frozen master go on. -/
  | thaw (k : Tok) (d a : BitVec 4)
  /-- PRE (R358): Requests pre-emption of a slice at the node rung. -/
  | pre (k : Tok) (d a b : BitVec 4)
  /-- PRE_RESUME (R358): With RESUME set, returns the slice's dies to RUN and releases held coaches. -/
  | preResume (k : Tok) (d a b : BitVec 4)
  /-- PRE_TASK (R358): Requests pre-emption at the task rung. -/
  | preTask (k : Tok) (d a b : BitVec 4)
  /-- PRE_INSN (R358): Requests pre-emption at the instruction rung. -/
  | preInsn (k : Tok) (d a b : BitVec 4)
  /-- PRE_KILL (R358): Requests pre-emption at the kill rung. -/
  | preKill (k : Tok) (d a b : BitVec 4)
  /-- MOULT (R363): Saves a held coach as a moult record and dissolves it. -/
  | moult (k : Tok) (d a b : BitVec 4)
  /-- UNMOULT (R364): Forms a coach from idle quadrants and restores a moult record. -/
  | unmoult (k : Tok) (d a b : BitVec 4)
  /-- QMAP (R366): Maps a virtual queue to a hardware queue slot. -/
  | qmap (k : Tok) (d a b : BitVec 4)
  /-- QUNMAP (R366): Unmaps a virtual queue and returns taken launches unstarted. -/
  | qunmap (k : Tok) (d a : BitVec 4)
  /-- SEMMAP (R367): Exchanges semaphore counts or a coach's semaphore view with an image. -/
  | semmap (k : Tok) (d a b : BitVec 4)
  /-- BARMAP (R368): Exchanges a barrier state or a barrier view with an image. -/
  | barmap (k : Tok) (d a b : BitVec 4)
  /-- IDMAP (R350): Loads the identifier and quadrant tables of a slice or domain. -/
  | idmap (k : Tok) (a b : BitVec 4)
  /-- TIMEOFS (R351): Sets a slice's time offset on all dies. -/
  | timeofs (k : Tok) (d a b : BitVec 4)
  /-- S1INV (R344): Invalidates every stage-1 entry in the caller's scope. -/
  | s1inv (k : Tok)
  /-- S1INV_PAGE (R344): Invalidates entries covering one TVA of one slice. -/
  | s1invPage (k : Tok) (a b : BitVec 4)
  /-- S1INV_SLICE (R344): Invalidates every entry of one slice. -/
  | s1invSlice (k : Tok) (b : BitVec 4)
  /-- S2INV (R344): Invalidates every entry of the caller's domain or of all domains. -/
  | s2inv (k : Tok)
  /-- S2INV_PAGE (R344): Invalidates entries covering one SPA of one domain. -/
  | s2invPage (k : Tok) (a b : BitVec 4)
  /-- S2INV_DOMAIN (R344): Invalidates every entry of one domain. -/
  | s2invDomain (k : Tok) (b : BitVec 4)
  /-- WINSET (R345): Installs one window of a domain on every die. -/
  | winset (k : Tok) (a b : BitVec 4)
  /-- RIGHTS (R347): Grants rights bits to a domain or slice mask. -/
  | rights (k : Tok) (d a b : BitVec 4)
  /-- RIGHTS_REVOKE (R347): Revokes rights bits from a mask. -/
  | rightsRevoke (k : Tok) (d a b : BitVec 4)
  /-- RIGHTS_READ (R347): Reads a target's mask and effective rights. -/
  | rightsRead (k : Tok) (d a : BitVec 4)
  /-- FMASK (R349): Writes a function's operator or domain feature mask. -/
  | fmask (k : Tok) (d a b : BitVec 4)
  /-- SLOTW (R417): Checks and schedules a set of slot-table entry writes. -/
  | slotw (k : Tok) (d a b : BitVec 4)
  /-- WSET (R401): Creates a weight-set copy from a verified signed manifest. -/
  | wset (k : Tok) (d a b : BitVec 4)
  /-- WSET_SHARD (R401): Copies and hashes one shard into a building copy. -/
  | wsetShard (k : Tok) (d a b : BitVec 4)
  /-- WSET_VERIFY (R401): Moves a fully built copy to VERIFIED. -/
  | wsetVerify (k : Tok) (d a : BitVec 4)
  /-- WSET_FREE (R401): Frees a copy and returns its pool units. -/
  | wsetFree (k : Tok) (d a : BitVec 4)
  /-- WSWAP (R401): Makes the verified copy active and drains the former one. -/
  | wswap (k : Tok) (d a : BitVec 4)
  /-- ENSET (R457): Sets a slice's or domain's energy refill and ceiling. -/
  | enset (k : Tok) (d a b : BitVec 4)
  /-- WALKSAVE (R365): Saves and frees a launch's walker entry on the die. -/
  | walksave (k : Tok) (d a b : BitVec 4)
  /-- WALKLOAD (R365): Installs a saved walker entry. -/
  | walkload (k : Tok) (d a b : BitVec 4)
  /-- KATSET (R378): Sets the KAT floor interval and family or releases a quarantined quadrant. -/
  | katset (k : Tok) (d a b : BitVec 4)
  /-- CSRX (R352): Reads a CSR of a stopped strand or stream. -/
  | csrx (k : Tok) (d a b : BitVec 4) (n : BitVec 7)
  /-- CSRX_W (R352): Writes a CSR of a stopped strand or stream, including fault registers. -/
  | csrxW (k : Tok) (d a b : BitVec 4) (n : BitVec 7)
  /-- CSRX_S (R352): Sets bits of a CSR of a stopped thread. -/
  | csrxS (k : Tok) (d a b : BitVec 4) (n : BitVec 7)
  /-- CSRX_C (R352): Clears bits of a CSR of a stopped thread. -/
  | csrxC (k : Tok) (d a b : BitVec 4) (n : BitVec 7)
  /-- NOP (R33): Does nothing beyond its token pop and push. -/
  | nop (k : Tok)
  /-- ADD (R102): Writes a + b mod 2^64 to d. -/
  | add (k : Tok) (d a b : BitVec 4)
  /-- SUB (R102): Writes a - b mod 2^64 to d. -/
  | sub (k : Tok) (d a b : BitVec 4)
  /-- AND (R102): Writes the bitwise AND of a and b to d. -/
  | andd (k : Tok) (d a b : BitVec 4)
  /-- OR (R102): Writes the bitwise OR of a and b to d. -/
  | orr (k : Tok) (d a b : BitVec 4)
  /-- XOR (R102): Writes the bitwise XOR of a and b to d. -/
  | xorr (k : Tok) (d a b : BitVec 4)
  /-- SHL (R102): Shifts a left by b mod 64 into d. -/
  | shl (k : Tok) (d a b : BitVec 4)
  /-- SHR (R102): Shifts a right by b mod 64 with zero fill into d. -/
  | shr (k : Tok) (d a b : BitVec 4)
  /-- SRA (R102): Shifts a right by b mod 64 with sign fill into d. -/
  | sra (k : Tok) (d a b : BitVec 4)
  /-- SLT (R102): Writes 1 to d if a < b signed, else 0. -/
  | slt (k : Tok) (d a b : BitVec 4)
  /-- SLTU (R102): Writes 1 to d if a < b unsigned, else 0. -/
  | sltu (k : Tok) (d a b : BitVec 4)
  /-- MIN (R102): Writes the signed minimum of a and b to d. -/
  | min (k : Tok) (d a b : BitVec 4)
  /-- MAX (R102): Writes the signed maximum of a and b to d. -/
  | max (k : Tok) (d a b : BitVec 4)
  /-- MINU (R102): Writes the unsigned minimum of a and b to d. -/
  | minu (k : Tok) (d a b : BitVec 4)
  /-- MAXU (R102): Writes the unsigned maximum of a and b to d. -/
  | maxu (k : Tok) (d a b : BitVec 4)
  /-- ANDN (R102): Writes a AND NOT b to d. -/
  | andn (k : Tok) (d a b : BitVec 4)
  /-- LEA0 (R102): Writes a + b to d. -/
  | lea0 (k : Tok) (d a b : BitVec 4)
  /-- LEA1 (R102): Writes a + (b << 1) to d. -/
  | lea1 (k : Tok) (d a b : BitVec 4)
  /-- LEA2 (R102): Writes a + (b << 2) to d. -/
  | lea2 (k : Tok) (d a b : BitVec 4)
  /-- LEA3 (R102): Writes a + (b << 3) to d. -/
  | lea3 (k : Tok) (d a b : BitVec 4)
  /-- MUL (R102): Writes the low 64 bits of a × b to d. -/
  | mul (k : Tok) (d a b : BitVec 4)
  /-- MULH (R102): Writes the high 64 bits of the signed product to d. -/
  | mulh (k : Tok) (d a b : BitVec 4)
  /-- MULHU (R102): Writes the high 64 bits of the unsigned product to d. -/
  | mulhu (k : Tok) (d a b : BitVec 4)
  /-- DIV (R102): Signed division on the stream's divider; parks the strand until the quotient is ready. -/
  | div (k : Tok) (d a b : BitVec 4)
  /-- DIVU (R102): Unsigned division on the stream's divider; parks the strand. -/
  | divu (k : Tok) (d a b : BitVec 4)
  /-- REM (R102): Signed remainder on the divider; parks the strand. -/
  | rem (k : Tok) (d a b : BitVec 4)
  /-- REMU (R102): Unsigned remainder on the divider; parks the strand. -/
  | remu (k : Tok) (d a b : BitVec 4)
  /-- CLZ (R102): Counts leading zero bits of a into d. -/
  | clz (k : Tok) (d a : BitVec 4)
  /-- CTZ (R102): Counts trailing zero bits of a into d. -/
  | ctz (k : Tok) (d a : BitVec 4)
  /-- POPC (R102): Counts set bits of a into d. -/
  | popc (k : Tok) (d a : BitVec 4)
  /-- SEXT8 (R102): Sign-extends the low 8 bits of a into d. -/
  | sext8 (k : Tok) (d a : BitVec 4)
  /-- SEXT16 (R102): Sign-extends the low 16 bits of a into d. -/
  | sext16 (k : Tok) (d a : BitVec 4)
  /-- SEXT32 (R102): Sign-extends the low 32 bits of a into d. -/
  | sext32 (k : Tok) (d a : BitVec 4)
  /-- ZEXT8 (R102): Zero-extends the low 8 bits of a into d. -/
  | zext8 (k : Tok) (d a : BitVec 4)
  /-- ZEXT16 (R102): Zero-extends the low 16 bits of a into d. -/
  | zext16 (k : Tok) (d a : BitVec 4)
  /-- ZEXT32 (R102): Zero-extends the low 32 bits of a into d. -/
  | zext32 (k : Tok) (d a : BitVec 4)
  /-- BREV (R102): Reverses the bit order of a into d. -/
  | brev (k : Tok) (d a : BitVec 4)
  /-- ADDI (R103): Adds a sign-extended 13-bit immediate to a. -/
  | addi (k : Tok) (d a : BitVec 4) (i : BitVec 13)
  /-- ANDI (R103): ANDs a with a sign-extended immediate. -/
  | andi (k : Tok) (d a : BitVec 4) (i : BitVec 13)
  /-- ORI (R103): ORs a with a sign-extended immediate. -/
  | ori (k : Tok) (d a : BitVec 4) (i : BitVec 13)
  /-- XORI (R103): XORs a with a sign-extended immediate. -/
  | xori (k : Tok) (d a : BitVec 4) (i : BitVec 13)
  /-- SLTI (R103): Writes 1 if a is less than the immediate, signed. -/
  | slti (k : Tok) (d a : BitVec 4) (i : BitVec 13)
  /-- SLTIU (R103): Writes 1 if a is less than the sign-extended immediate, unsigned. -/
  | sltiu (k : Tok) (d a : BitVec 4) (i : BitVec 13)
  /-- SHLI (R103): Shifts a left by an immediate count. -/
  | shli (k : Tok) (d a : BitVec 4) (sr : BitVec 6)
  /-- SHRI (R103): Shifts a right with zero fill by an immediate count. -/
  | shri (k : Tok) (d a : BitVec 4) (sr : BitVec 6)
  /-- SRAI (R103): Shifts a right with sign fill by an immediate count. -/
  | srai (k : Tok) (d a : BitVec 4) (sr : BitVec 6)
  /-- MULI (R103): Writes the low 64 bits of a times a signed immediate. -/
  | muli (k : Tok) (d a : BitVec 4) (i : BitVec 13)
  /-- LI (R104): Loads a sign-extended 17-bit immediate into d. -/
  | li (k : Tok) (d : BitVec 4) (i : BitVec 17)
  /-- LIK_H1 (R104): Replaces bits 31:16 of d with a 16-bit immediate. -/
  | likH1 (k : Tok) (d : BitVec 4) (i : BitVec 16)
  /-- LIK_H2 (R104): Replaces bits 47:32 of d with a 16-bit immediate. -/
  | likH2 (k : Tok) (d : BitVec 4) (i : BitVec 16)
  /-- LIK_H3 (R104): Replaces bits 63:48 of d with a 16-bit immediate. -/
  | likH3 (k : Tok) (d : BitVec 4) (i : BitVec 16)
  /-- B_EQ (R106): Branches by a word offset if a equals b. -/
  | bEq (k : Tok) (a b : BitVec 4) (o : BitVec 13)
  /-- B_NE (R106): Branches if a differs from b. -/
  | bNe (k : Tok) (a b : BitVec 4) (o : BitVec 13)
  /-- B_LT (R106): Branches if a < b signed. -/
  | bLt (k : Tok) (a b : BitVec 4) (o : BitVec 13)
  /-- B_GE (R106): Branches if a >= b signed. -/
  | bGe (k : Tok) (a b : BitVec 4) (o : BitVec 13)
  /-- B_LTU (R106): Branches if a < b unsigned. -/
  | bLtu (k : Tok) (a b : BitVec 4) (o : BitVec 13)
  /-- B_GEU (R106): Branches if a >= b unsigned. -/
  | bGeu (k : Tok) (a b : BitVec 4) (o : BitVec 13)
  /-- J (R106): Jumps by a signed 21-bit word offset. -/
  | j (k : Tok) (o : BitVec 21)
  /-- JAL (R106): Jumps by a word offset and writes the link byte address to s15. -/
  | jal (k : Tok) (o : BitVec 21)
  /-- JR (R106): Jumps to a register-plus-offset byte address and writes the link to d. -/
  | jr (k : Tok) (d a : BitVec 4) (o : BitVec 13)
  /-- LOOP (R107): Opens a hardware loop whose count comes from a register. -/
  | loop (k : Tok) (a : BitVec 4) (o : BitVec 13)
  /-- LOOPI (R107): Opens a hardware loop with an immediate count and body length. -/
  | loopi (k : Tok) (c : BitVec 11) (l : BitVec 10)
  /-- END (R109): Ends the stream's part of the tile task; on K waits for other strands to be idle. -/
  | endTask (k : Tok)
  /-- SEM_P (R123): Decrements a semaphore or parks until it can. -/
  | semP (k : Tok) (a : BitVec 4) (i : BitVec 5)
  /-- SEM_V (R123): Increments a semaphore, serving the oldest waiting P. -/
  | semV (k : Tok) (a : BitVec 4) (i : BitVec 5)
  /-- SEM_TRYP (R123): Decrements a semaphore if positive and reports success in d. -/
  | semTryp (k : Tok) (d a : BitVec 4) (i : BitVec 5)
  /-- SEM_READ (R123): Reads a semaphore count into d. -/
  | semRead (k : Tok) (d a : BitVec 4) (i : BitVec 5)
  /-- CBAR_A (R239): Arrives at a cluster barrier, completing the generation when the count reaches EXPECT. -/
  | cbarA (k : Tok) (h : BitVec 4)
  /-- CBAR_W (R239): Waits until the barrier generation passes the strand's snapshot. -/
  | cbarW (k : Tok) (h : BitVec 4)
  /-- CBAR_AW (R239): Arrives at a barrier and waits for the generation to complete. -/
  | cbarAw (k : Tok) (h : BitVec 4)
  /-- LD (R110): Loads and sign-extends 1-8 bytes from global memory; parks until data returns. -/
  | ld (k : Tok) (tr b c : BitVec 4) (o : BitVec 7) (sr : BitVec 2)
  /-- LDU (R110): Loads and zero-extends 1-8 bytes from global memory. -/
  | ldu (k : Tok) (tr b c : BitVec 4) (o : BitVec 7) (sr : BitVec 2)
  /-- ST (R110): Posts a store of 1-8 bytes, staged inside a launch. -/
  | st (k : Tok) (tr b c : BitVec 4) (o : BitVec 7) (sr : BitVec 2)
  /-- LDA (R111): Acquire load at the given scope. -/
  | lda (k : Tok) (tr b c : BitVec 4) (e : BitVec 3) (o : BitVec 4) (sr : BitVec 2)
  /-- STL (R111): Release store at the given scope. -/
  | stl (k : Tok) (tr b c : BitVec 4) (e : BitVec 3) (o : BitVec 4) (sr : BitVec 2)
  /-- LDSP (R114): Reads a scalar from ABUF, WBUF or ACC through the range checker. -/
  | ldsp (k : Tok) (tr b : BitVec 4) (kk : BitVec 2) (o : BitVec 9) (sr : BitVec 2)
  /-- STSP (R114): Writes a scalar into ABUF or ACC through the range checker. -/
  | stsp (k : Tok) (tr b : BitVec 4) (kk : BitVec 2) (o : BitVec 9) (sr : BitVec 2)
  /-- FENCE_ACQ (R317): Orders earlier reads before later accesses of the selected classes and paths. -/
  | fenceAcq (k : Tok) (a : BitVec 4) (e : BitVec 3) (h : BitVec 5)
  /-- FENCE_REL (R317): Waits until earlier accesses have performed at scope before later writes. -/
  | fenceRel (k : Tok) (a : BitVec 4) (e : BitVec 3) (h : BitVec 5)
  /-- FENCE_FULL (R317): Waits until earlier accesses have performed at scope before any later access. -/
  | fenceFull (k : Tok) (a : BitVec 4) (e : BitVec 3) (h : BitVec 5)
  /-- TFENCE (R90): Waits for the stream's engine operations to retire, then traps on enabled sticky flags. -/
  | tfence (k : Tok)
  /-- CSRR (R126): Reads a stream state register into d. -/
  | csrr (k : Tok) (d : BitVec 4) (n : BitVec 9)
  /-- CSRW (R126): Writes a state register's RW fields and returns the old value. -/
  | csrw (k : Tok) (d a : BitVec 4) (n : BitVec 9)
  /-- CSRS (R126): Sets bits of a state register and returns the old value. -/
  | csrs (k : Tok) (d a : BitVec 4) (n : BitVec 9)
  /-- CSRC (R126): Clears bits of a state register and returns the old value. -/
  | csrc (k : Tok) (d a : BitVec 4) (n : BitVec 9)
  /-- QFEAT (R127): Returns a masked feature leaf. -/
  | qfeat (k : Tok) (d a : BitVec 4) (i : BitVec 13)
  /-- TIME_NS (R128): Returns virtual nanoseconds, never decreasing for the strand. -/
  | timeNs (k : Tok) (d : BitVec 4)
  /-- TIME_CLOCKS (R128): Returns core clocks during which the task has held its coach. -/
  | timeClocks (k : Tok) (d : BitVec 4)
  /-- TIME_ENERGY (R128): Returns the energy remaining in the account. -/
  | timeEnergy (k : Tok) (d : BitVec 4)
  /-- ECALL (R125): Raises the precise ECALL fault with restart at the next word. -/
  | ecall (k : Tok) (c : BitVec 13)
  /-- EBREAK (R125): Raises the precise BREAK fault with restart at the EBREAK. -/
  | ebreak (k : Tok) (c : BitVec 13)
  /-- WAITE (R124): Waits until a masked latched event or a timeout. -/
  | waite (k : Tok) (a m : BitVec 4)
  /-- DSET (R130): Writes four registers into a descriptor. -/
  | dset (k : Tok) (e : BitVec 6) (sr : BitVec 4)
  /-- DGET (R130): Reads a descriptor into four registers. -/
  | dget (k : Tok) (e : BitVec 6) (sr : BitVec 4)
  /-- DADD (R130): Adds a register to a descriptor's BASE mod 2^56. -/
  | dadd (k : Tok) (e : BitVec 6) (sr : BitVec 4)
  /-- ID_COACH (R129): Returns the virtual coach number. -/
  | idCoach (k : Tok) (d : BitVec 4)
  /-- ID_CORE (R129): Returns the virtual core. -/
  | idCore (k : Tok) (d : BitVec 4)
  /-- ID_CLUSTER (R129): Returns the virtual cluster. -/
  | idCluster (k : Tok) (d : BitVec 4)
  /-- ID_DIE (R129): Returns the virtual die. -/
  | idDie (k : Tok) (d : BitVec 4)
  /-- ID_SLICE (R129): Returns the slice number. -/
  | idSlice (k : Tok) (d : BitVec 4)
  /-- ID_SHAPE (R129): Returns the coach shape code. -/
  | idShape (k : Tok) (d : BitVec 4)
  /-- STRAND_READY (R94): A parked strand or stalled stream resumes when the reply or event it awaits arrives. -/
  | strandReady (th : ThreadId)
  /-- WAITE_TIMEOUT (R124): A WAITE's stream-clock timeout passes and it completes. -/
  | waiteTimeout (th : ThreadId)
  /-- TIMER_EVENT (R124): The timestamp counter passes a multiple of 1,024 ns and latches event bit 3. -/
  | timerEvent
  /-- TOKEN_TIMEOUT (R146): A POP has waited 10 ms and raises TOKEN_TIMEOUT. -/
  | tokenTimeout (th : ThreadId)
  /-- BARRIER_TIMEOUT (R243): A barrier wait exceeds TIMEOUT and raises BARRIER_TIMEOUT. -/
  | barrierTimeout (th : ThreadId)
  /-- WALKER_PICK (R259): When quadrants of a shape free up, the walker picks a ready spatial point and binds a coach. -/
  | walkerPick (die : Nat)
  /-- LOADER_PLANE_LOAD (R143): The loader finishes writing code into a shadow plane and posts the swap token. -/
  | loaderPlaneLoad (quad tag : Nat)
  /-- TASK_START (R253): A task starts on a coach once the previous one has drained and its code is present. -/
  | taskStart (quad : Nat)
  /-- TASK_DRAIN (R253): A task's streams have stopped and its operations and stores are retired and acknowledged. -/
  | taskDrain (quad : Nat)
  /-- SHARE_WINDOW (R260): A 1 ms share window ends and slice deficits are reassessed. -/
  | shareWindow (die : Nat)
  /-- NOTIFY (R257): A notify reaches a virtual queue, prompting its slot or setting its pending bit. -/
  | notifyEvent (slice queue : Nat)
  /-- DOORBELL (R435): A host write to a doorbell page notifies a virtual queue after earlier posted writes perform. -/
  | doorbell (fn queue : Nat)
  /-- SLOT_TAKE (R256): A hardware queue slot reads TAIL and takes launches from the ring with tags. -/
  | slotTake (die slot : Nat)
  /-- SLOT_SCAN (R258): The Dray fills a free slot from the highest-priority pending queue. -/
  | slotScan (die : Nat)
  /-- LAUNCH_READY (R259): A taken launch's dependence gate reaches its target and it becomes ready. -/
  | launchReady (tag : Nat)
  /-- APPEND_RETRY (R468): A held record's failed append is retried every 1 ms. -/
  | appendRetry (tag : Nat)
  /-- STAGE_REQUEST (R288): A staging request is applied at the line's home slice, or waits on a conflict. -/
  | stageRequest (req : Nat)
  /-- CONFLICT_WAIT_APPLY (R294): A waiting request is applied once its owner commits or completes its abort. -/
  | conflictWaitApply (req : Nat)
  /-- WAIT_CYCLE_CHECK (R295): After 100 µs of waiting the home die follows the owner chain and aborts the youngest of a cycle. -/
  | waitCycleCheck (tag : Nat)
  /-- COMMIT_PENDING (R303): When commit conditions hold, PENDING is broadcast to all dies. -/
  | commitPending (tag : Nat)
  /-- PENDING_ACK (R303): A die acknowledges PENDING after marking entries and invalidating L1 lines. -/
  | pendingAck (tag die : Nat)
  /-- STAGED_MERGE (R303): Committed staged entries are lazily merged into cache ways or HBM. -/
  | stagedMerge (tag : Nat)
  /-- DISCARD_ACK (R306): A die acknowledges an abort's discards. -/
  | discardAck (tag die : Nat)
  /-- HOME_ACCESS (R274): An access arrives at its home slice and is applied in coherence order. -/
  | homeAccess (req : Nat)
  /-- MEMORY_SIDE_ATOMIC (R278): A channel's atomic unit performs an access to a memory-side line. -/
  | memorySideAtomic (req : Nat)
  /-- WAY_MOVE (R271): A way changing class completes its move and PEND clears after the last. -/
  | wayMove (die : Nat)
  /-- SCRUB_LINE (R283): A channel scrubs its next line, correcting or poisoning it. -/
  | scrubLine (line : Nat) (found : EccOutcome)
  /-- SCRUB_RATE_EVAL (R284): Each second the scrub pass rate is re-evaluated from temperature and errors. -/
  | scrubRateEval (stack tempC corrected : Nat)
  /-- PAGE_WALK (R328): A nested page walk completes with a DPA or a fault. -/
  | pageWalk (cluster slice : Nat) (tva : Word) (kind : AccessKind)
  /-- FAULT_DELIVERY (R338): A fault record is delivered to its routed agent ring or function vector. -/
  | faultDelivery (rec : Nat)
  /-- PENDING_RECORD_DELIVERY (R338): A record waiting for ring room is delivered once room appears. -/
  | pendingRecordDelivery (rec : Nat)
  /-- COACH_HELD (R353): A coach reaches the stop point of the rung in force and is held. -/
  | coachHeld (quad : Nat)
  /-- PRE_T1_EXPIRY (R355): T1 passes before STOPPED and the request continues at rung 2. -/
  | preT1Expiry (die slice : Nat)
  /-- PRE_T2_EXPIRY (R355): T2 passes before STOPPED and the request continues at rung 3, killing coaches. -/
  | preT2Expiry (die slice : Nat)
  /-- MMA_BOUNDARY_TIMEOUT (R207): The 4 µs bound expires and the array freezes mid-tile. -/
  | mmaBoundaryTimeout (quad : Nat)
  /-- COPY_COMMAND_START (R210): A copy command starts once earlier commands issued their last beat and conflicts clear. -/
  | copyCommandStart (quad : Nat)
  /-- BEAT_ISSUE (R211): A started command translates and issues its next beats in a clock. -/
  | beatIssue (quad : Nat)
  /-- BEAT_ACK (R211): A beat is acknowledged or fails, updating progress. -/
  | beatAck (quad : Nat)
  /-- MATRIX_OP_START (R202): A matrix operation starts when timing and conflicts allow, flipping weights or faulting. -/
  | matrixOpStart (quad : Nat)
  /-- MATRIX_OP_COMPLETE (R188): A matrix operation completes and retires in entry order with its push and flags. -/
  | matrixOpComplete (quad : Nat)
  /-- KAT_FLOOR_TEST (R377): A due KAT floor test runs MKAT on a quadrant and quarantines on mismatch. -/
  | katFloorTest (quad : Nat) (defect : Bool)
  /-- VECTOR_START (R163): A waiting vector instruction starts in the vector unit. -/
  | vectorStart (quad : Nat)
  /-- VECTOR_RETIRE (R161): A vector instruction retires, pushes and ORs its flags. -/
  | vectorRetire (quad : Nat)
  /-- DEFER_WRITE_ACK (R180): A deferral entry's write is acknowledged; the last retires the VDEFER. -/
  | deferWriteAck (quad : Nat)
  /-- WATCHDOG_EXPIRY (R375): A unit with pending work makes no progress for 10 ms and raises UE_DETECTED. -/
  | watchdogExpiry (unit : WatchUnit)
  /-- IDLE (R411): An IDLE flit is received and its ACK and credits applied. -/
  | idleFlit (port : Nat) (fl : Flit)
  /-- LACK (R409): A LACK flit is received; a NAK triggers replay from the acknowledged SEQ. -/
  | lackFlit (port : Nat) (fl : Flit)
  /-- FLIT_DISCARD (R409): A flit with bad CRC or out-of-order SEQ is discarded and a NAK sent. -/
  | flitDiscard (port : Nat) (crcBad : Bool)
  /-- RESERVED_FLIT (R408): A flit of reserved type is sequenced, counted in ERRS and discarded. -/
  | reservedFlit (port : Nat) (fl : Flit)
  /-- ROW (R418): A ROW flit lands at a receive endpoint or is discarded. -/
  | rowFlit (port : Nat) (fl : Flit)
  /-- READ (R427): A remote READ is checked against the grant table and performed. -/
  | readFlit (port : Nat) (fl : Flit)
  /-- WRITE (R427): A remote WRITE of whole lines is checked and applied. -/
  | writeFlit (port : Nat) (fl : Flit)
  /-- WRITEP (R427): A remote partial write is checked and applied. -/
  | writepFlit (port : Nat) (fl : Flit)
  /-- ATOMIC (R429): A remote atomic is checked for epoch and duplicates and applied once. -/
  | atomicFlit (port : Nat) (fl : Flit)
  /-- READRSP (R428): A read reply completes a remote load. -/
  | readrspFlit (port : Nat) (fl : Flit)
  /-- WRACK (R428): A write acknowledgement completes a remote store. -/
  | wrackFlit (port : Nat) (fl : Flit)
  /-- ATOMRSP (R429): An atomic reply returns the old value. -/
  | atomrspFlit (port : Nat) (fl : Flit)
  /-- NACK (R427): A refusal reply ends or retries a remote request. -/
  | nackFlit (port : Nat) (fl : Flit)
  /-- CQCRED (R418): A credit report updates a send endpoint or is held for a later bind. -/
  | cqcredFlit (port : Nat) (fl : Flit)
  /-- CQCLOSE (R421): A close report makes the partner CLOSED or broken. -/
  | cqcloseFlit (port : Nat) (fl : Flit)
  /-- PULL (R447): A source SERVING a slice receives a page pull and sends PAGE chunks or REFUSE. -/
  | pullFlit (port : Nat) (fl : Flit)
  /-- PAGE (R447): A page chunk lands; the last writes the page and clears RP. -/
  | pageFlit (port : Nat) (fl : Flit)
  /-- REFUSE (R447): A refused pull fills the page with poison. -/
  | refuseFlit (port : Nat) (fl : Flit)
  /-- ACK_PROGRESS_TIMEOUT (R409): 10 µs without ACK progress starts a retrain. -/
  | ackProgressTimeout (port : Nat)
  /-- RETRAIN_DONE (R409): Retraining succeeds and replay resumes. -/
  | retrainDone (port : Nat)
  /-- RETRAIN_TIMEOUT (R409): Retraining fails within 1 ms and the port goes down. -/
  | retrainTimeout (port : Nat)
  /-- CREDIT_RETURN_TIMEOUT (R411): Owed credits wait over 1 µs and are returned in IDLE flits. -/
  | creditReturnTimeout (port : Nat)
  /-- FLIT_HOLD_TIMEOUT (R413): A request or reply flit held 10 µs is discarded. -/
  | flitHoldTimeout (held : Nat)
  /-- CIRCUIT_SLOT (R415): In each slot an output sends a circuit ROW or best-effort traffic, discarding rows older than a frame. -/
  | circuitSlot (die table slot : Nat)
  /-- SLOT_TABLE_UPDATE (R417): A SLOTW's entries take effect together at a frame start. -/
  | slotTableUpdate (die : Nat)
  /-- REQUEST_RESEND (R428): A remote request with no reply for 20 µs is resent on the same TAG. -/
  | requestResend (tag : Nat)
  /-- DUPLICATE_FULL_RESEND (R429): After status 7 the requester resends the atomic 1 µs later. -/
  | duplicateFullResend (tag : Nat)
  /-- REMOTE_GIVE_UP (R428): No reply 260 µs after first send raises LINK_DOWN or ATOMIC_INDETERMINATE. -/
  | remoteGiveUp (tag : Nat)
  /-- DUPLICATE_ENTRY_EXPIRY (R429): A duplicate-table entry expires after 200 µs. -/
  | duplicateEntryExpiry (node tag : Nat)
  /-- CQ_TIMEOUT (R425): An endpoint operation waits CQTO ms and the endpoint breaks. -/
  | cqTimeout (quad endp : Nat)
  /-- HOST_READ (R436): A host read of device memory is translated and completed with committed bytes. -/
  | hostRead (fn off len : Nat)
  /-- HOST_WRITE (R436): A host posted write is translated and applied directly. -/
  | hostWrite (fn off len : Nat) (data : BitVec 512)
  /-- HOST_COMPLETION (R437): A completion arrives for a non-posted device access to the host. -/
  | hostCompletion (id : Nat) (status : HostStatus) (data : BitVec 512)
  /-- COMPLETION_TIMEOUT (R437): A non-posted host access has no completion in 10 ms and raises HOST_TIMEOUT. -/
  | completionTimeout (id : Nat)
  /-- PXDONE (R439): The host completes a pending proxy entry and its old value returns to d. -/
  | pxdone (index : Nat) (w2 : Word)
  /-- PROXY_TIMEOUT (R439): A proxy entry pending 10 ms raises HOST_TIMEOUT. -/
  | proxyTimeout (index : Nat)
  /-- FRCONS (R440): The host advances its fault-ring consumer count, freeing room for waiting records. -/
  | frcons (fn : Nat) (count : BitVec 32)
  /-- LOAD_REQUEST (R392): Writing GO starts the loader on a Rearo chain or capability list. -/
  | loadRequest (die slice : Nat)
  /-- LOAD_DONE (R392): The loader writes its output and result, clears BUSY and latches event 2. -/
  | loadDone (die slice : Nat)
  /-- MIGRATION_EXPORT (R444): EXPORT returns launches, unmaps queues, writes the state image and enters SERVING. -/
  | migrationExport (slice : Nat)
  /-- MIGRATION_IMPORT (R446): IMPORT reads the state image, sets gates, weights and time, and enters INBOUND. -/
  | migrationImport (slice : Nat)
  /-- MIGRATION_RELEASE (R444): RELEASE ends SERVING. -/
  | migrationRelease (slice : Nat)
  /-- MIGRATION_CLEAR (R447): CLEAR returns INBOUND or LOST to NONE. -/
  | migrationClear (slice : Nat)
  /-- PULL_RESEND (R447): An incomplete pull is resent every 1 ms. -/
  | pullResend (pull : Nat)
  /-- MIGRATION_LOSS (R448): A pull passes its deadline; pending pages are poisoned and launches aborted. -/
  | migrationLoss (slice : Nat)
  /-- MEMORY_WAY_WRITE (R270): A write of COCW and STGW starts a way change or is refused with BAD. -/
  | memoryWayWrite (die : Nat) (val : Word)
  /-- ALLOTMENT_WRITE (R276): An allotment write moves or resizes a staging allotment, zeroing inherited bytes. -/
  | allotmentWrite (die slice : Nat) (val : Word)
  /-- REPADD (R281): Writing a sector DPA installs a repair entry for it. -/
  | repadd (die : Nat) (val : Word)
  /-- COCOON_BLOCK_WRITE (R302): A write of the overflow area or quotas is applied or refused with BAD. -/
  | cocoonBlockWrite (w : CtlWrite)
  /-- WEIGHT_BLOCK_WRITE (R397): A write of the weight pool or key, refused while copies hold units. -/
  | weightBlockWrite (w : CtlWrite)
  /-- ROUTE_BLOCK_WRITE (R337): A fault route block write, requiring FAULTRT. -/
  | routeBlockWrite (w : CtlWrite)
  /-- SLICE_BLOCK_WRITE (R469): A slice control block write, with SHARE limited by the die and domain sums. -/
  | sliceBlockWrite (w : CtlWrite)
  /-- STRAND_TABLE_WRITE (R267): A strand-table write that starts or stops a Dray strand by EN. -/
  | strandTableWrite (w : CtlWrite)
  /-- WATCHPOINT_WRITE (R380): A watchpoint entry write that arms it, translating engine entries to a DPA. -/
  | watchpointWrite (w : CtlWrite)
  /-- RETRAIN_WRITE (R412): Writing RETRAIN starts a port retrain. -/
  | retrainWrite (port : Nat)
  /-- CONTROL_STRUCTURE_WRITE (R266): A write to any other control structure, applied only where its level is granted. -/
  | controlStructureWrite (w : CtlWrite)
  /-- ENERGY_CHARGE (R456): A quadrant estimator charges the slice's energy balance. -/
  | energyCharge (slice : Nat) (cls : EnergyClass) (count : Nat)
  /-- ENERGY_REFILL (R456): Every 1 ms each account is refilled up to its ceiling. -/
  | energyRefill
  /-- THERMAL_SAMPLE (R454): Every 1 ms temperatures and power are read and the core clock adjusted. -/
  | thermalSample (junctionC powerW : Nat)
  /-- COLD_RESET (R449): Power-up runs clock lock, firmware authentication, memory init and link bring-up. -/
  | coldReset
  /-- WARM_RESET (R450): Writing WARM ends launches, clears slices, advances the epoch and reruns boot steps 2 to 4. -/
  | warmReset
  /-- ATTEST (R453): Writing ATTEST makes the security engine write a signed attestation report. -/
  | attest
  /-- UNDEF_WORD (R43): A fetched word that assigns nothing raises UNDEF precisely, with FPROG set to the word. -/
  | undefWord (w : BitVec 32)
  /-- KAT_FLOOR_FREEZE (R377): A bound quadrant whose due KAT test found no clock free of started operations within 1 ms freezes its array and runs the test between two frozen clocks. -/
  | katFloorFreeze (quad : Nat) (defect : Bool)
deriving DecidableEq, Repr

end Sys2Proof
end

