-- ==== Sys2Proof/WellFormed.lean ====
section
/-! DEFINITION. WellFormed: the field values that an instruction accepts beyond the fixed bits of its
encoding. A word that breaks one assigns nothing and raises UNDEF (R43). -/

namespace Sys2Proof

/-- No pop and no push (R16). -/
def Tok.none : Tok := { pop := 0#2, push := 0#2 }

/-- A CSR number of R22 that CSRR may read. -/
def csrReadable (n : Nat) : Bool := n ≤ 0xA || (0x10 ≤ n && n ≤ 0x15)

/-- A CSR number of R22 that CSRW, CSRS and CSRC take. -/
def csrWritable (n : Nat) : Bool := n ≤ 0xA

/-- The lane width of a ty code (R27). -/
def laneWidth (y : BitVec 3) : Nat :=
  match y.toNat with
  | 0 => 32
  | 1 => 32
  | 2 => 32
  | 3 => 16
  | 4 => 16
  | 5 => 16
  | _ => 8

/-- Shifts take integer ty codes and a count below the lane width (R165). -/
def shiftWf (i : BitVec 6) (y : BitVec 3) : Bool :=
  y.toNat != 0 && y.toNat != 3 && y.toNat != 4 && i.toNat < laneWidth y

/-- A follow-on word names a family (R31). -/
def FollowOn.wf (fo : FollowOn) : Bool :=
  match fo with
  | .mwld _ _ f => f.toNat ≤ 6
  | .mma _ _ _ _ f => f.toNat ≤ 6

/-- Every field holds a value that the instruction accepts. -/
def Instr.wf (i : Instr) : Bool :=
  match i with
  | .loop _ _ o => o.toNat != 0
  | .loopi _ _ l => l.toNat != 0
  | .lda _ _ _ _ e _ _ => e.toNat != 7
  | .stl _ _ _ _ e _ _ => e.toNat != 7
  | .ldsp _ _ _ kk _ _ => kk.toNat != 3
  | .stsp _ _ _ kk _ _ => kk.toNat != 3
  | .fenceAcq _ _ e h => e.toNat != 7 && h.toNat != 0
  | .fenceRel _ _ e h => e.toNat != 7 && h.toNat != 0
  | .fenceFull _ _ e h => e.toNat != 7 && h.toNat != 0
  | .csrr _ _ n => csrReadable n.toNat
  | .csrw _ _ _ n => csrWritable n.toNat
  | .csrs _ _ _ n => csrWritable n.toNat
  | .csrc _ _ _ n => csrWritable n.toNat
  | .waite _ _ m => m.toNat != 0
  | .dset _ _ sr => sr.toNat ≤ 12
  | .dget _ _ sr => sr.toNat ≤ 12
  | .aadd _ _ _ _ _ _ e => e.toNat != 7
  | .aand _ _ _ _ _ _ e => e.toNat != 7
  | .aor _ _ _ _ _ _ e => e.toNat != 7
  | .axor _ _ _ _ _ _ e => e.toNat != 7
  | .aswp _ _ _ _ _ _ e => e.toNat != 7
  | .acas _ _ _ _ _ _ e => e.toNat != 7
  | .amin _ _ _ _ _ _ e => e.toNat != 7
  | .amax _ _ _ _ _ _ e => e.toNat != 7
  | .aminu _ _ _ _ _ _ e => e.toNat != 7
  | .amaxu _ _ _ _ _ _ e => e.toNat != 7
  | .aaddW _ _ _ _ _ _ e => e.toNat != 7
  | .aswpW _ _ _ _ _ _ e => e.toNat != 7
  | .acasW _ _ _ _ _ _ e => e.toNat != 7
  | .csrx _ _ _ _ n => csrReadable n.toNat
  | .csrxW _ _ _ _ n => csrWritable n.toNat
  | .csrxS _ _ _ _ n => csrWritable n.toNat
  | .csrxC _ _ _ _ n => csrWritable n.toNat
  | .vshl _ _ _ i y => shiftWf i y
  | .vshr _ _ _ i y => shiftWf i y
  | .vsra _ _ _ i y => shiftWf i y
  | .vcmp _ _ _ c m y => y.toNat ≤ 2 && m.toNat != 0 && (y.toNat == 0 || c.toNat ≤ 5)
  | .vins _ _ _ y => y.toNat ≤ 2
  | .vmovs _ _ _ y => y.toNat ≤ 2
  | .viota _ _ y => y.toNat != 3 && y.toNat != 4
  | .vcvt _ _ _ r f c =>
    if 8 ≤ c.toNat && c.toNat ≤ 12 then r.toNat == 0 && f.toNat == 0 else r.toNat ≤ 5
  | .vpack _ _ _ _ y => y.toNat ≤ 4
  | .vunpk _ _ _ _ y => y.toNat ≤ 4
  | .vreds _ _ _ y => y.toNat ≤ 2
  | .vredm _ _ _ i y => y.toNat ≤ 2 && i.toNat ≤ 1
  | .vscan _ _ _ i y => y.toNat ≤ 2 && i.toNat ≤ 2
  | .vrot _ _ _ i _ => i.toNat ≤ 31
  | .vatomAdd _ _ _ _ y => y.toNat ≤ 2
  | .vatomMin _ _ _ _ y => y.toNat ≤ 2
  | .vatomMax _ _ _ _ y => y.toNat ≤ 2
  | .vatomSwp _ _ _ _ y => y.toNat ≤ 2
  | .mand _ d _ _ => d.toNat != 0
  | .mor _ d _ _ => d.toNat != 0
  | .mxor _ d _ _ => d.toNat != 0
  | .mnot _ d _ => d.toNat != 0
  | .mwld _ _ f => f.toNat ≤ 6
  | .mma _ _ _ _ f => f.toNat ≤ 6
  | .mmas _ _ _ _ f => f.toNat ≤ 6
  | .mkat _ _ f _ _ => f.toNat ≤ 6
  | .mwait _ n => n.toNat ≤ 8
  | .cpyc _ _ _ _ _ fo => fo.wf
  | _ => true

/-- Instructions whose resources the Dray lacks (R34, R36). -/
def Instr.coachOnly (i : Instr) : Bool :=
  match i with
  | .ldsp _ _ _ _ _ _ => true
  | .stsp _ _ _ _ _ _ => true
  | .dset _ _ _ => true
  | .dget _ _ _ => true
  | .dadd _ _ _ => true
  | .semP _ _ _ => true
  | .semV _ _ _ => true
  | .semTryp _ _ _ _ => true
  | .semRead _ _ _ _ => true
  | .cbarA _ _ => true
  | .cbarW _ _ => true
  | .cbarAw _ _ => true
  | .txstat _ _ => true
  | .txabort _ _ => true
  | .txclaim _ _ _ => true
  | .launchImm _ _ _ => true
  | _ => false

end Sys2Proof
end

