-- ==== Sys2Proof/Decode.lean ====
section
/-! DEFINITION. Decode: from fetched words to an instruction, with a named reason for every word that
assigns nothing (R12, R33-R39, R43), and the encoder from the same tables. Some definitions are marked
noncomputable for one reason: Lean's compiler builds no object of an inductive's constructors past number
243, and `Instr` has 359. The kernel evaluates them like any other; the machine's step does not use them. -/

namespace Sys2Proof

/-- Why a list of words is no instruction of an engine. -/
inductive DecodeError where
  /-- There is no word. -/
  | empty
  /-- The opcode or sub-code is reserved in the engine's map, or a bit that must be zero is not (R33-R39). -/
  | unassigned
  /-- A field holds a value that the instruction does not accept (R21-R31, R165-R178). -/
  | illFormed
  /-- The Dray has no such resource, or the word carries a token there (R20, R34, R36). -/
  | notOnEngine
  /-- The words that must follow MKAT or CPYC are missing (R14). -/
  | trailing
  /-- The word after CPYC is no MWLD or MMA (R15). -/
  | followOn
deriving DecidableEq, Repr

/-- The token selectors of a word (R11). -/
def tokOf (w : IWord) : Tok := { pop := w.extractLsb' 30 2, push := w.extractLsb' 28 2 }

/-- The major opcode of a word (R11). -/
def opOf (w : IWord) : Nat := (w.extractLsb' 21 7).toNat

/-- The body of a word (R11). -/
def bodyOf (w : IWord) : BitVec 21 := w.extractLsb' 0 21

/-- A word from its frame fields (R11). -/
def wordOf (k : Tok) (op : BitVec 7) (b : BitVec 21) : IWord := k.pop ++ k.push ++ op ++ b

/-- Opcodes 0x00-0x3F, the same on every engine (R33). -/
def decodeCommon (k : Tok) (op : Nat) (b : BitVec 21) : Option Instr :=
  match op with
  | 0x00 =>
    if b.extractLsb' 0 21 = 0#21 then some (.nop k) else none
  | 0x01 =>
    if b.extractLsb' 0 9 = 0#9 then
      some (.add k (b.extractLsb' 17 4) (b.extractLsb' 13 4) (b.extractLsb' 9 4))
    else if b.extractLsb' 0 9 = 1#9 then
      some (.sub k (b.extractLsb' 17 4) (b.extractLsb' 13 4) (b.extractLsb' 9 4))
    else if b.extractLsb' 0 9 = 2#9 then
      some (.andd k (b.extractLsb' 17 4) (b.extractLsb' 13 4) (b.extractLsb' 9 4))
    else if b.extractLsb' 0 9 = 3#9 then
      some (.orr k (b.extractLsb' 17 4) (b.extractLsb' 13 4) (b.extractLsb' 9 4))
    else if b.extractLsb' 0 9 = 4#9 then
      some (.xorr k (b.extractLsb' 17 4) (b.extractLsb' 13 4) (b.extractLsb' 9 4))
    else if b.extractLsb' 0 9 = 5#9 then
      some (.shl k (b.extractLsb' 17 4) (b.extractLsb' 13 4) (b.extractLsb' 9 4))
    else if b.extractLsb' 0 9 = 6#9 then
      some (.shr k (b.extractLsb' 17 4) (b.extractLsb' 13 4) (b.extractLsb' 9 4))
    else if b.extractLsb' 0 9 = 7#9 then
      some (.sra k (b.extractLsb' 17 4) (b.extractLsb' 13 4) (b.extractLsb' 9 4))
    else if b.extractLsb' 0 9 = 8#9 then
      some (.slt k (b.extractLsb' 17 4) (b.extractLsb' 13 4) (b.extractLsb' 9 4))
    else if b.extractLsb' 0 9 = 9#9 then
      some (.sltu k (b.extractLsb' 17 4) (b.extractLsb' 13 4) (b.extractLsb' 9 4))
    else if b.extractLsb' 0 9 = 10#9 then
      some (.min k (b.extractLsb' 17 4) (b.extractLsb' 13 4) (b.extractLsb' 9 4))
    else if b.extractLsb' 0 9 = 11#9 then
      some (.max k (b.extractLsb' 17 4) (b.extractLsb' 13 4) (b.extractLsb' 9 4))
    else if b.extractLsb' 0 9 = 12#9 then
      some (.minu k (b.extractLsb' 17 4) (b.extractLsb' 13 4) (b.extractLsb' 9 4))
    else if b.extractLsb' 0 9 = 13#9 then
      some (.maxu k (b.extractLsb' 17 4) (b.extractLsb' 13 4) (b.extractLsb' 9 4))
    else if b.extractLsb' 0 9 = 14#9 then
      some (.andn k (b.extractLsb' 17 4) (b.extractLsb' 13 4) (b.extractLsb' 9 4))
    else if b.extractLsb' 0 9 = 16#9 then
      some (.lea0 k (b.extractLsb' 17 4) (b.extractLsb' 13 4) (b.extractLsb' 9 4))
    else if b.extractLsb' 0 9 = 17#9 then
      some (.lea1 k (b.extractLsb' 17 4) (b.extractLsb' 13 4) (b.extractLsb' 9 4))
    else if b.extractLsb' 0 9 = 18#9 then
      some (.lea2 k (b.extractLsb' 17 4) (b.extractLsb' 13 4) (b.extractLsb' 9 4))
    else if b.extractLsb' 0 9 = 19#9 then
      some (.lea3 k (b.extractLsb' 17 4) (b.extractLsb' 13 4) (b.extractLsb' 9 4))
    else none
  | 0x02 =>
    if b.extractLsb' 0 9 = 0#9 then
      some (.mul k (b.extractLsb' 17 4) (b.extractLsb' 13 4) (b.extractLsb' 9 4))
    else if b.extractLsb' 0 9 = 1#9 then
      some (.mulh k (b.extractLsb' 17 4) (b.extractLsb' 13 4) (b.extractLsb' 9 4))
    else if b.extractLsb' 0 9 = 2#9 then
      some (.mulhu k (b.extractLsb' 17 4) (b.extractLsb' 13 4) (b.extractLsb' 9 4))
    else if b.extractLsb' 0 9 = 3#9 then
      some (.div k (b.extractLsb' 17 4) (b.extractLsb' 13 4) (b.extractLsb' 9 4))
    else if b.extractLsb' 0 9 = 4#9 then
      some (.divu k (b.extractLsb' 17 4) (b.extractLsb' 13 4) (b.extractLsb' 9 4))
    else if b.extractLsb' 0 9 = 5#9 then
      some (.rem k (b.extractLsb' 17 4) (b.extractLsb' 13 4) (b.extractLsb' 9 4))
    else if b.extractLsb' 0 9 = 6#9 then
      some (.remu k (b.extractLsb' 17 4) (b.extractLsb' 13 4) (b.extractLsb' 9 4))
    else none
  | 0x03 =>
    if b.extractLsb' 0 13 = 0#13 then
      some (.clz k (b.extractLsb' 17 4) (b.extractLsb' 13 4))
    else if b.extractLsb' 0 13 = 1#13 then
      some (.ctz k (b.extractLsb' 17 4) (b.extractLsb' 13 4))
    else if b.extractLsb' 0 13 = 2#13 then
      some (.popc k (b.extractLsb' 17 4) (b.extractLsb' 13 4))
    else if b.extractLsb' 0 13 = 3#13 then
      some (.sext8 k (b.extractLsb' 17 4) (b.extractLsb' 13 4))
    else if b.extractLsb' 0 13 = 4#13 then
      some (.sext16 k (b.extractLsb' 17 4) (b.extractLsb' 13 4))
    else if b.extractLsb' 0 13 = 5#13 then
      some (.sext32 k (b.extractLsb' 17 4) (b.extractLsb' 13 4))
    else if b.extractLsb' 0 13 = 6#13 then
      some (.zext8 k (b.extractLsb' 17 4) (b.extractLsb' 13 4))
    else if b.extractLsb' 0 13 = 7#13 then
      some (.zext16 k (b.extractLsb' 17 4) (b.extractLsb' 13 4))
    else if b.extractLsb' 0 13 = 8#13 then
      some (.zext32 k (b.extractLsb' 17 4) (b.extractLsb' 13 4))
    else if b.extractLsb' 0 13 = 9#13 then
      some (.brev k (b.extractLsb' 17 4) (b.extractLsb' 13 4))
    else none
  | 0x04 =>
    some (.addi k (b.extractLsb' 17 4) (b.extractLsb' 13 4) (b.extractLsb' 0 13))
  | 0x05 =>
    some (.andi k (b.extractLsb' 17 4) (b.extractLsb' 13 4) (b.extractLsb' 0 13))
  | 0x06 =>
    some (.ori k (b.extractLsb' 17 4) (b.extractLsb' 13 4) (b.extractLsb' 0 13))
  | 0x07 =>
    some (.xori k (b.extractLsb' 17 4) (b.extractLsb' 13 4) (b.extractLsb' 0 13))
  | 0x08 =>
    some (.slti k (b.extractLsb' 17 4) (b.extractLsb' 13 4) (b.extractLsb' 0 13))
  | 0x09 =>
    some (.sltiu k (b.extractLsb' 17 4) (b.extractLsb' 13 4) (b.extractLsb' 0 13))
  | 0x0A =>
    if b.extractLsb' 6 7 = 0#7 then some (.shli k (b.extractLsb' 17 4) (b.extractLsb' 13 4) (b.extractLsb' 0 6)) else none
  | 0x0B =>
    if b.extractLsb' 6 7 = 0#7 then some (.shri k (b.extractLsb' 17 4) (b.extractLsb' 13 4) (b.extractLsb' 0 6)) else none
  | 0x0C =>
    if b.extractLsb' 6 7 = 0#7 then some (.srai k (b.extractLsb' 17 4) (b.extractLsb' 13 4) (b.extractLsb' 0 6)) else none
  | 0x0D =>
    some (.muli k (b.extractLsb' 17 4) (b.extractLsb' 13 4) (b.extractLsb' 0 13))
  | 0x0E =>
    some (.li k (b.extractLsb' 17 4) (b.extractLsb' 0 17))
  | 0x0F =>
    if b.extractLsb' 16 1 = 0#1 then some (.likH1 k (b.extractLsb' 17 4) (b.extractLsb' 0 16)) else none
  | 0x10 =>
    if b.extractLsb' 16 1 = 0#1 then some (.likH2 k (b.extractLsb' 17 4) (b.extractLsb' 0 16)) else none
  | 0x11 =>
    if b.extractLsb' 16 1 = 0#1 then some (.likH3 k (b.extractLsb' 17 4) (b.extractLsb' 0 16)) else none
  | 0x12 =>
    some (.bEq k (b.extractLsb' 17 4) (b.extractLsb' 13 4) (b.extractLsb' 0 13))
  | 0x13 =>
    some (.bNe k (b.extractLsb' 17 4) (b.extractLsb' 13 4) (b.extractLsb' 0 13))
  | 0x14 =>
    some (.bLt k (b.extractLsb' 17 4) (b.extractLsb' 13 4) (b.extractLsb' 0 13))
  | 0x15 =>
    some (.bGe k (b.extractLsb' 17 4) (b.extractLsb' 13 4) (b.extractLsb' 0 13))
  | 0x16 =>
    some (.bLtu k (b.extractLsb' 17 4) (b.extractLsb' 13 4) (b.extractLsb' 0 13))
  | 0x17 =>
    some (.bGeu k (b.extractLsb' 17 4) (b.extractLsb' 13 4) (b.extractLsb' 0 13))
  | 0x18 =>
    some (.j k (b.extractLsb' 0 21))
  | 0x19 =>
    some (.jal k (b.extractLsb' 0 21))
  | 0x1A =>
    some (.jr k (b.extractLsb' 17 4) (b.extractLsb' 13 4) (b.extractLsb' 0 13))
  | 0x1B =>
    if b.extractLsb' 17 4 = 0#4 then some (.loop k (b.extractLsb' 13 4) (b.extractLsb' 0 13)) else none
  | 0x1C =>
    some (.loopi k (b.extractLsb' 10 11) (b.extractLsb' 0 10))
  | 0x1D =>
    if b.extractLsb' 0 21 = 0#21 then some (.endTask k) else none
  | 0x1E =>
    if b.extractLsb' 0 6 = 0#6 ∧ b.extractLsb' 11 2 = 0#2 ∧ b.extractLsb' 17 4 = 0#4 then
      some (.semP k (b.extractLsb' 13 4) (b.extractLsb' 6 5))
    else if b.extractLsb' 0 6 = 0#6 ∧ b.extractLsb' 11 2 = 1#2 ∧ b.extractLsb' 17 4 = 0#4 then
      some (.semV k (b.extractLsb' 13 4) (b.extractLsb' 6 5))
    else if b.extractLsb' 0 6 = 0#6 ∧ b.extractLsb' 11 2 = 2#2 then
      some (.semTryp k (b.extractLsb' 17 4) (b.extractLsb' 13 4) (b.extractLsb' 6 5))
    else if b.extractLsb' 0 6 = 0#6 ∧ b.extractLsb' 11 2 = 3#2 then
      some (.semRead k (b.extractLsb' 17 4) (b.extractLsb' 13 4) (b.extractLsb' 6 5))
    else none
  | 0x1F =>
    if b.extractLsb' 0 7 = 0#7 ∧ b.extractLsb' 11 10 = 0#10 then
      some (.cbarA k (b.extractLsb' 7 4))
    else if b.extractLsb' 0 7 = 0#7 ∧ b.extractLsb' 11 10 = 1#10 then
      some (.cbarW k (b.extractLsb' 7 4))
    else if b.extractLsb' 0 7 = 0#7 ∧ b.extractLsb' 11 10 = 2#10 then
      some (.cbarAw k (b.extractLsb' 7 4))
    else none
  | 0x20 =>
    some (.ld k (b.extractLsb' 17 4) (b.extractLsb' 13 4) (b.extractLsb' 9 4) (b.extractLsb' 2 7) (b.extractLsb' 0 2))
  | 0x21 =>
    some (.ldu k (b.extractLsb' 17 4) (b.extractLsb' 13 4) (b.extractLsb' 9 4) (b.extractLsb' 2 7) (b.extractLsb' 0 2))
  | 0x22 =>
    some (.st k (b.extractLsb' 17 4) (b.extractLsb' 13 4) (b.extractLsb' 9 4) (b.extractLsb' 2 7) (b.extractLsb' 0 2))
  | 0x23 =>
    some (.lda k (b.extractLsb' 17 4) (b.extractLsb' 13 4) (b.extractLsb' 9 4) (b.extractLsb' 6 3) (b.extractLsb' 2 4) (b.extractLsb' 0 2))
  | 0x24 =>
    some (.stl k (b.extractLsb' 17 4) (b.extractLsb' 13 4) (b.extractLsb' 9 4) (b.extractLsb' 6 3) (b.extractLsb' 2 4) (b.extractLsb' 0 2))
  | 0x25 =>
    some (.ldsp k (b.extractLsb' 17 4) (b.extractLsb' 13 4) (b.extractLsb' 11 2) (b.extractLsb' 2 9) (b.extractLsb' 0 2))
  | 0x26 =>
    some (.stsp k (b.extractLsb' 17 4) (b.extractLsb' 13 4) (b.extractLsb' 11 2) (b.extractLsb' 2 9) (b.extractLsb' 0 2))
  | 0x27 =>
    if b.extractLsb' 0 3 = 0#3 ∧ b.extractLsb' 8 2 = 0#2 ∧ b.extractLsb' 17 4 = 0#4 then
      some (.fenceAcq k (b.extractLsb' 13 4) (b.extractLsb' 10 3) (b.extractLsb' 3 5))
    else if b.extractLsb' 0 3 = 0#3 ∧ b.extractLsb' 8 2 = 1#2 ∧ b.extractLsb' 17 4 = 0#4 then
      some (.fenceRel k (b.extractLsb' 13 4) (b.extractLsb' 10 3) (b.extractLsb' 3 5))
    else if b.extractLsb' 0 3 = 0#3 ∧ b.extractLsb' 8 2 = 2#2 ∧ b.extractLsb' 17 4 = 0#4 then
      some (.fenceFull k (b.extractLsb' 13 4) (b.extractLsb' 10 3) (b.extractLsb' 3 5))
    else none
  | 0x28 =>
    if b.extractLsb' 0 21 = 0#21 then some (.tfence k) else none
  | 0x29 =>
    if b.extractLsb' 9 8 = 0#8 then some (.csrr k (b.extractLsb' 17 4) (b.extractLsb' 0 9)) else none
  | 0x2A =>
    if b.extractLsb' 9 4 = 0#4 then some (.csrw k (b.extractLsb' 17 4) (b.extractLsb' 13 4) (b.extractLsb' 0 9)) else none
  | 0x2B =>
    if b.extractLsb' 9 4 = 0#4 then some (.csrs k (b.extractLsb' 17 4) (b.extractLsb' 13 4) (b.extractLsb' 0 9)) else none
  | 0x2C =>
    if b.extractLsb' 9 4 = 0#4 then some (.csrc k (b.extractLsb' 17 4) (b.extractLsb' 13 4) (b.extractLsb' 0 9)) else none
  | 0x2D =>
    some (.qfeat k (b.extractLsb' 17 4) (b.extractLsb' 13 4) (b.extractLsb' 0 13))
  | 0x2E =>
    if b.extractLsb' 0 17 = 0#17 then
      some (.timeNs k (b.extractLsb' 17 4))
    else if b.extractLsb' 0 17 = 1#17 then
      some (.timeClocks k (b.extractLsb' 17 4))
    else if b.extractLsb' 0 17 = 2#17 then
      some (.timeEnergy k (b.extractLsb' 17 4))
    else none
  | 0x30 =>
    if b.extractLsb' 13 8 = 0#8 then some (.ecall k (b.extractLsb' 0 13)) else none
  | 0x31 =>
    if b.extractLsb' 13 8 = 0#8 then some (.ebreak k (b.extractLsb' 0 13)) else none
  | 0x32 =>
    if b.extractLsb' 4 9 = 0#9 ∧ b.extractLsb' 17 4 = 0#4 then some (.waite k (b.extractLsb' 13 4) (b.extractLsb' 0 4)) else none
  | 0x33 =>
    if b.extractLsb' 0 11 = 0#11 then some (.dset k (b.extractLsb' 15 6) (b.extractLsb' 11 4)) else none
  | 0x34 =>
    if b.extractLsb' 0 11 = 0#11 then some (.dget k (b.extractLsb' 15 6) (b.extractLsb' 11 4)) else none
  | 0x35 =>
    if b.extractLsb' 0 11 = 0#11 then some (.dadd k (b.extractLsb' 15 6) (b.extractLsb' 11 4)) else none
  | _ => none

/-- Opcodes 0x40-0x7F of the K stream and the Dray (R35, R37). PRE with RESUME has the words of PRE (R358). -/
def decodeK (k : Tok) (op : Nat) (b : BitVec 21) : Option Instr :=
  match op with
  | 0x40 =>
    some (.aadd k (b.extractLsb' 17 4) (b.extractLsb' 13 4) (b.extractLsb' 9 4) (b.extractLsb' 5 4) (b.extractLsb' 3 2) (b.extractLsb' 0 3))
  | 0x41 =>
    some (.aand k (b.extractLsb' 17 4) (b.extractLsb' 13 4) (b.extractLsb' 9 4) (b.extractLsb' 5 4) (b.extractLsb' 3 2) (b.extractLsb' 0 3))
  | 0x42 =>
    some (.aor k (b.extractLsb' 17 4) (b.extractLsb' 13 4) (b.extractLsb' 9 4) (b.extractLsb' 5 4) (b.extractLsb' 3 2) (b.extractLsb' 0 3))
  | 0x43 =>
    some (.axor k (b.extractLsb' 17 4) (b.extractLsb' 13 4) (b.extractLsb' 9 4) (b.extractLsb' 5 4) (b.extractLsb' 3 2) (b.extractLsb' 0 3))
  | 0x44 =>
    some (.aswp k (b.extractLsb' 17 4) (b.extractLsb' 13 4) (b.extractLsb' 9 4) (b.extractLsb' 5 4) (b.extractLsb' 3 2) (b.extractLsb' 0 3))
  | 0x45 =>
    some (.acas k (b.extractLsb' 17 4) (b.extractLsb' 13 4) (b.extractLsb' 9 4) (b.extractLsb' 5 4) (b.extractLsb' 3 2) (b.extractLsb' 0 3))
  | 0x46 =>
    some (.amin k (b.extractLsb' 17 4) (b.extractLsb' 13 4) (b.extractLsb' 9 4) (b.extractLsb' 5 4) (b.extractLsb' 3 2) (b.extractLsb' 0 3))
  | 0x47 =>
    some (.amax k (b.extractLsb' 17 4) (b.extractLsb' 13 4) (b.extractLsb' 9 4) (b.extractLsb' 5 4) (b.extractLsb' 3 2) (b.extractLsb' 0 3))
  | 0x48 =>
    some (.aminu k (b.extractLsb' 17 4) (b.extractLsb' 13 4) (b.extractLsb' 9 4) (b.extractLsb' 5 4) (b.extractLsb' 3 2) (b.extractLsb' 0 3))
  | 0x49 =>
    some (.amaxu k (b.extractLsb' 17 4) (b.extractLsb' 13 4) (b.extractLsb' 9 4) (b.extractLsb' 5 4) (b.extractLsb' 3 2) (b.extractLsb' 0 3))
  | 0x4A =>
    some (.aaddW k (b.extractLsb' 17 4) (b.extractLsb' 13 4) (b.extractLsb' 9 4) (b.extractLsb' 5 4) (b.extractLsb' 3 2) (b.extractLsb' 0 3))
  | 0x4B =>
    some (.aswpW k (b.extractLsb' 17 4) (b.extractLsb' 13 4) (b.extractLsb' 9 4) (b.extractLsb' 5 4) (b.extractLsb' 3 2) (b.extractLsb' 0 3))
  | 0x4C =>
    some (.acasW k (b.extractLsb' 17 4) (b.extractLsb' 13 4) (b.extractLsb' 9 4) (b.extractLsb' 5 4) (b.extractLsb' 3 2) (b.extractLsb' 0 3))
  | 0x4D =>
    some (.fork k (b.extractLsb' 17 4) (b.extractLsb' 13 4) (b.extractLsb' 0 13))
  | 0x4E =>
    if b.extractLsb' 0 13 = 0#13 ∧ b.extractLsb' 17 4 = 0#4 then some (.join k (b.extractLsb' 13 4)) else none
  | 0x4F =>
    if b.extractLsb' 0 21 = 0#21 then some (.syield k) else none
  | 0x50 =>
    if b.extractLsb' 0 21 = 0#21 then some (.sexit k) else none
  | 0x51 =>
    if b.extractLsb' 0 9 = 0#9 then some (.bsel k (b.extractLsb' 17 4) (b.extractLsb' 13 4) (b.extractLsb' 9 4)) else none
  | 0x52 =>
    if b.extractLsb' 0 9 = 0#9 ∧ b.extractLsb' 17 4 = 0#4 then
      some (.launch k (b.extractLsb' 13 4) (b.extractLsb' 9 4))
    else if b.extractLsb' 0 9 = 1#9 ∧ b.extractLsb' 17 4 = 0#4 then
      some (.launchImm k (b.extractLsb' 13 4) (b.extractLsb' 9 4))
    else none
  | 0x53 =>
    if b.extractLsb' 0 13 = 0#13 ∧ b.extractLsb' 17 4 = 0#4 then some (.qnotify k (b.extractLsb' 13 4)) else none
  | 0x54 =>
    if b.extractLsb' 0 17 = 0#17 then some (.txstat k (b.extractLsb' 17 4)) else none
  | 0x55 =>
    if b.extractLsb' 13 8 = 0#8 then some (.txabort k (b.extractLsb' 0 13)) else none
  | 0x56 =>
    if b.extractLsb' 0 9 = 0#9 ∧ b.extractLsb' 17 4 = 0#4 then some (.txclaim k (b.extractLsb' 13 4) (b.extractLsb' 9 4)) else none
  | 0x57 =>
    if b.extractLsb' 0 13 = 0#13 then
      some (.gateRead k (b.extractLsb' 17 4) (b.extractLsb' 13 4))
    else if b.extractLsb' 0 9 = 1#9 then
      some (.gateAdd k (b.extractLsb' 17 4) (b.extractLsb' 13 4) (b.extractLsb' 9 4))
    else if b.extractLsb' 0 9 = 2#9 then
      some (.gateWaitge k (b.extractLsb' 17 4) (b.extractLsb' 13 4) (b.extractLsb' 9 4))
    else none
  | 0x60 =>
    if b.extractLsb' 0 13 = 0#13 then some (.eret k (b.extractLsb' 17 4) (b.extractLsb' 13 4)) else none
  | 0x61 =>
    if b.extractLsb' 0 13 = 0#13 then some (.fres k (b.extractLsb' 17 4) (b.extractLsb' 13 4)) else none
  | 0x62 =>
    if b.extractLsb' 0 13 = 0#13 then some (.fkill k (b.extractLsb' 17 4) (b.extractLsb' 13 4)) else none
  | 0x63 =>
    if b.extractLsb' 0 13 = 0#13 then some (.freeze k (b.extractLsb' 17 4) (b.extractLsb' 13 4)) else none
  | 0x64 =>
    if b.extractLsb' 0 13 = 0#13 then some (.thaw k (b.extractLsb' 17 4) (b.extractLsb' 13 4)) else none
  | 0x65 =>
    if b.extractLsb' 0 9 = 0#9 then
      some (.pre k (b.extractLsb' 17 4) (b.extractLsb' 13 4) (b.extractLsb' 9 4))
    else if b.extractLsb' 0 9 = 1#9 then
      some (.preTask k (b.extractLsb' 17 4) (b.extractLsb' 13 4) (b.extractLsb' 9 4))
    else if b.extractLsb' 0 9 = 2#9 then
      some (.preInsn k (b.extractLsb' 17 4) (b.extractLsb' 13 4) (b.extractLsb' 9 4))
    else if b.extractLsb' 0 9 = 3#9 then
      some (.preKill k (b.extractLsb' 17 4) (b.extractLsb' 13 4) (b.extractLsb' 9 4))
    else none
  | 0x66 =>
    if b.extractLsb' 0 9 = 0#9 then some (.moult k (b.extractLsb' 17 4) (b.extractLsb' 13 4) (b.extractLsb' 9 4)) else none
  | 0x67 =>
    if b.extractLsb' 0 9 = 0#9 then some (.unmoult k (b.extractLsb' 17 4) (b.extractLsb' 13 4) (b.extractLsb' 9 4)) else none
  | 0x68 =>
    if b.extractLsb' 0 9 = 0#9 then some (.qmap k (b.extractLsb' 17 4) (b.extractLsb' 13 4) (b.extractLsb' 9 4)) else none
  | 0x69 =>
    if b.extractLsb' 0 13 = 0#13 then some (.qunmap k (b.extractLsb' 17 4) (b.extractLsb' 13 4)) else none
  | 0x6A =>
    if b.extractLsb' 0 9 = 0#9 then some (.semmap k (b.extractLsb' 17 4) (b.extractLsb' 13 4) (b.extractLsb' 9 4)) else none
  | 0x6B =>
    if b.extractLsb' 0 9 = 0#9 then some (.barmap k (b.extractLsb' 17 4) (b.extractLsb' 13 4) (b.extractLsb' 9 4)) else none
  | 0x6C =>
    if b.extractLsb' 0 9 = 0#9 ∧ b.extractLsb' 17 4 = 0#4 then some (.idmap k (b.extractLsb' 13 4) (b.extractLsb' 9 4)) else none
  | 0x6D =>
    if b.extractLsb' 0 9 = 0#9 then some (.timeofs k (b.extractLsb' 17 4) (b.extractLsb' 13 4) (b.extractLsb' 9 4)) else none
  | 0x6E =>
    if b.extractLsb' 0 21 = 0#21 then
      some (.s1inv k)
    else if b.extractLsb' 0 9 = 1#9 ∧ b.extractLsb' 17 4 = 0#4 then
      some (.s1invPage k (b.extractLsb' 13 4) (b.extractLsb' 9 4))
    else if b.extractLsb' 0 9 = 2#9 ∧ b.extractLsb' 13 8 = 0#8 then
      some (.s1invSlice k (b.extractLsb' 9 4))
    else none
  | 0x6F =>
    if b.extractLsb' 0 21 = 0#21 then
      some (.s2inv k)
    else if b.extractLsb' 0 9 = 1#9 ∧ b.extractLsb' 17 4 = 0#4 then
      some (.s2invPage k (b.extractLsb' 13 4) (b.extractLsb' 9 4))
    else if b.extractLsb' 0 9 = 2#9 ∧ b.extractLsb' 13 8 = 0#8 then
      some (.s2invDomain k (b.extractLsb' 9 4))
    else none
  | 0x70 =>
    if b.extractLsb' 0 9 = 0#9 ∧ b.extractLsb' 17 4 = 0#4 then some (.winset k (b.extractLsb' 13 4) (b.extractLsb' 9 4)) else none
  | 0x71 =>
    if b.extractLsb' 0 9 = 0#9 then
      some (.rights k (b.extractLsb' 17 4) (b.extractLsb' 13 4) (b.extractLsb' 9 4))
    else if b.extractLsb' 0 9 = 1#9 then
      some (.rightsRevoke k (b.extractLsb' 17 4) (b.extractLsb' 13 4) (b.extractLsb' 9 4))
    else if b.extractLsb' 0 13 = 2#13 then
      some (.rightsRead k (b.extractLsb' 17 4) (b.extractLsb' 13 4))
    else none
  | 0x72 =>
    if b.extractLsb' 0 9 = 0#9 then some (.fmask k (b.extractLsb' 17 4) (b.extractLsb' 13 4) (b.extractLsb' 9 4)) else none
  | 0x73 =>
    if b.extractLsb' 0 9 = 0#9 then some (.slotw k (b.extractLsb' 17 4) (b.extractLsb' 13 4) (b.extractLsb' 9 4)) else none
  | 0x74 =>
    if b.extractLsb' 0 9 = 0#9 then
      some (.wset k (b.extractLsb' 17 4) (b.extractLsb' 13 4) (b.extractLsb' 9 4))
    else if b.extractLsb' 0 9 = 1#9 then
      some (.wsetShard k (b.extractLsb' 17 4) (b.extractLsb' 13 4) (b.extractLsb' 9 4))
    else if b.extractLsb' 0 13 = 2#13 then
      some (.wsetVerify k (b.extractLsb' 17 4) (b.extractLsb' 13 4))
    else if b.extractLsb' 0 13 = 3#13 then
      some (.wsetFree k (b.extractLsb' 17 4) (b.extractLsb' 13 4))
    else none
  | 0x75 =>
    if b.extractLsb' 0 13 = 0#13 then some (.wswap k (b.extractLsb' 17 4) (b.extractLsb' 13 4)) else none
  | 0x76 =>
    if b.extractLsb' 0 9 = 0#9 then some (.enset k (b.extractLsb' 17 4) (b.extractLsb' 13 4) (b.extractLsb' 9 4)) else none
  | 0x77 =>
    if b.extractLsb' 0 9 = 0#9 then some (.walksave k (b.extractLsb' 17 4) (b.extractLsb' 13 4) (b.extractLsb' 9 4)) else none
  | 0x78 =>
    if b.extractLsb' 0 9 = 0#9 then some (.walkload k (b.extractLsb' 17 4) (b.extractLsb' 13 4) (b.extractLsb' 9 4)) else none
  | 0x79 =>
    if b.extractLsb' 0 9 = 0#9 then some (.katset k (b.extractLsb' 17 4) (b.extractLsb' 13 4) (b.extractLsb' 9 4)) else none
  | 0x7A =>
    if b.extractLsb' 7 2 = 0#2 then
      some (.csrx k (b.extractLsb' 17 4) (b.extractLsb' 13 4) (b.extractLsb' 9 4) (b.extractLsb' 0 7))
    else if b.extractLsb' 7 2 = 1#2 then
      some (.csrxW k (b.extractLsb' 17 4) (b.extractLsb' 13 4) (b.extractLsb' 9 4) (b.extractLsb' 0 7))
    else if b.extractLsb' 7 2 = 2#2 then
      some (.csrxS k (b.extractLsb' 17 4) (b.extractLsb' 13 4) (b.extractLsb' 9 4) (b.extractLsb' 0 7))
    else if b.extractLsb' 7 2 = 3#2 then
      some (.csrxC k (b.extractLsb' 17 4) (b.extractLsb' 13 4) (b.extractLsb' 9 4) (b.extractLsb' 0 7))
    else none
  | _ => none

/-- Opcodes 0x40-0x7F of the X stream (R38), but for MKAT. -/
def decodeX (k : Tok) (op : Nat) (b : BitVec 21) : Option Instr :=
  match op with
  | 0x40 =>
    some (.vadd k (b.extractLsb' 15 6) (b.extractLsb' 9 6) (b.extractLsb' 3 6) (b.extractLsb' 0 3))
  | 0x41 =>
    some (.vsub k (b.extractLsb' 15 6) (b.extractLsb' 9 6) (b.extractLsb' 3 6) (b.extractLsb' 0 3))
  | 0x42 =>
    some (.vmul k (b.extractLsb' 15 6) (b.extractLsb' 9 6) (b.extractLsb' 3 6) (b.extractLsb' 0 3))
  | 0x43 =>
    some (.vfma k (b.extractLsb' 15 6) (b.extractLsb' 9 6) (b.extractLsb' 3 6) (b.extractLsb' 0 3))
  | 0x44 =>
    some (.vfms k (b.extractLsb' 15 6) (b.extractLsb' 9 6) (b.extractLsb' 3 6) (b.extractLsb' 0 3))
  | 0x45 =>
    some (.vmin k (b.extractLsb' 15 6) (b.extractLsb' 9 6) (b.extractLsb' 3 6) (b.extractLsb' 0 3))
  | 0x46 =>
    some (.vmax k (b.extractLsb' 15 6) (b.extractLsb' 9 6) (b.extractLsb' 3 6) (b.extractLsb' 0 3))
  | 0x47 =>
    if b.extractLsb' 3 6 = 0#6 then some (.vabs k (b.extractLsb' 15 6) (b.extractLsb' 9 6) (b.extractLsb' 0 3)) else none
  | 0x48 =>
    if b.extractLsb' 3 6 = 0#6 then some (.vneg k (b.extractLsb' 15 6) (b.extractLsb' 9 6) (b.extractLsb' 0 3)) else none
  | 0x49 =>
    some (.vand k (b.extractLsb' 15 6) (b.extractLsb' 9 6) (b.extractLsb' 3 6) (b.extractLsb' 0 3))
  | 0x4A =>
    some (.vor k (b.extractLsb' 15 6) (b.extractLsb' 9 6) (b.extractLsb' 3 6) (b.extractLsb' 0 3))
  | 0x4B =>
    some (.vxor k (b.extractLsb' 15 6) (b.extractLsb' 9 6) (b.extractLsb' 3 6) (b.extractLsb' 0 3))
  | 0x4C =>
    some (.vshl k (b.extractLsb' 15 6) (b.extractLsb' 9 6) (b.extractLsb' 3 6) (b.extractLsb' 0 3))
  | 0x4D =>
    some (.vshr k (b.extractLsb' 15 6) (b.extractLsb' 9 6) (b.extractLsb' 3 6) (b.extractLsb' 0 3))
  | 0x4E =>
    some (.vsra k (b.extractLsb' 15 6) (b.extractLsb' 9 6) (b.extractLsb' 3 6) (b.extractLsb' 0 3))
  | 0x4F =>
    some (.vcmp k (b.extractLsb' 15 6) (b.extractLsb' 9 6) (b.extractLsb' 6 3) (b.extractLsb' 3 3) (b.extractLsb' 0 3))
  | 0x50 =>
    some (.vsel k (b.extractLsb' 15 6) (b.extractLsb' 9 6) (b.extractLsb' 3 6) (b.extractLsb' 0 3))
  | 0x51 =>
    if b.extractLsb' 3 6 = 0#6 then some (.vmov k (b.extractLsb' 15 6) (b.extractLsb' 9 6) (b.extractLsb' 0 3)) else none
  | 0x52 =>
    if b.extractLsb' 3 2 = 0#2 ∧ b.extractLsb' 9 6 = 0#6 then some (.vbcs k (b.extractLsb' 15 6) (b.extractLsb' 5 4) (b.extractLsb' 0 3)) else none
  | 0x53 =>
    if b.extractLsb' 3 2 = 0#2 ∧ b.extractLsb' 15 6 = 0#6 then some (.vmovs k (b.extractLsb' 9 6) (b.extractLsb' 5 4) (b.extractLsb' 0 3)) else none
  | 0x54 =>
    if b.extractLsb' 3 2 = 0#2 ∧ b.extractLsb' 9 6 = 0#6 then some (.vins k (b.extractLsb' 15 6) (b.extractLsb' 5 4) (b.extractLsb' 0 3)) else none
  | 0x55 =>
    if b.extractLsb' 0 9 = 0#9 then some (.vexp2 k (b.extractLsb' 15 6) (b.extractLsb' 9 6)) else none
  | 0x56 =>
    if b.extractLsb' 0 9 = 0#9 then some (.vlog2 k (b.extractLsb' 15 6) (b.extractLsb' 9 6)) else none
  | 0x57 =>
    if b.extractLsb' 0 9 = 0#9 then some (.vrcp k (b.extractLsb' 15 6) (b.extractLsb' 9 6)) else none
  | 0x58 =>
    if b.extractLsb' 0 9 = 0#9 then some (.vrsq k (b.extractLsb' 15 6) (b.extractLsb' 9 6)) else none
  | 0x59 =>
    some (.vcvt k (b.extractLsb' 15 6) (b.extractLsb' 9 6) (b.extractLsb' 6 3) (b.extractLsb' 4 2) (b.extractLsb' 0 4))
  | 0x5A =>
    some (.vpack k (b.extractLsb' 15 6) (b.extractLsb' 9 6) (b.extractLsb' 3 6) (b.extractLsb' 0 3))
  | 0x5B =>
    some (.vunpk k (b.extractLsb' 15 6) (b.extractLsb' 9 6) (b.extractLsb' 3 6) (b.extractLsb' 0 3))
  | 0x5C =>
    if b.extractLsb' 3 6 = 0#6 then some (.vreds k (b.extractLsb' 15 6) (b.extractLsb' 9 6) (b.extractLsb' 0 3)) else none
  | 0x5D =>
    some (.vredm k (b.extractLsb' 15 6) (b.extractLsb' 9 6) (b.extractLsb' 3 6) (b.extractLsb' 0 3))
  | 0x5E =>
    some (.vscan k (b.extractLsb' 15 6) (b.extractLsb' 9 6) (b.extractLsb' 3 6) (b.extractLsb' 0 3))
  | 0x5F =>
    some (.vperm k (b.extractLsb' 15 6) (b.extractLsb' 9 6) (b.extractLsb' 3 6) (b.extractLsb' 0 3))
  | 0x60 =>
    some (.vrot k (b.extractLsb' 15 6) (b.extractLsb' 9 6) (b.extractLsb' 3 6) (b.extractLsb' 0 3))
  | 0x61 =>
    if b.extractLsb' 3 2 = 0#2 then some (.vld k (b.extractLsb' 15 6) (b.extractLsb' 9 6) (b.extractLsb' 5 4) (b.extractLsb' 0 3)) else none
  | 0x62 =>
    if b.extractLsb' 3 2 = 0#2 then some (.vst k (b.extractLsb' 15 6) (b.extractLsb' 9 6) (b.extractLsb' 5 4) (b.extractLsb' 0 3)) else none
  | 0x63 =>
    if b.extractLsb' 3 2 = 0#2 then
      some (.vatomAdd k (b.extractLsb' 15 6) (b.extractLsb' 9 6) (b.extractLsb' 5 4) (b.extractLsb' 0 3))
    else if b.extractLsb' 3 2 = 1#2 then
      some (.vatomMin k (b.extractLsb' 15 6) (b.extractLsb' 9 6) (b.extractLsb' 5 4) (b.extractLsb' 0 3))
    else if b.extractLsb' 3 2 = 2#2 then
      some (.vatomMax k (b.extractLsb' 15 6) (b.extractLsb' 9 6) (b.extractLsb' 5 4) (b.extractLsb' 0 3))
    else if b.extractLsb' 3 2 = 3#2 then
      some (.vatomSwp k (b.extractLsb' 15 6) (b.extractLsb' 9 6) (b.extractLsb' 5 4) (b.extractLsb' 0 3))
    else none
  | 0x64 =>
    if b.extractLsb' 3 2 = 0#2 then some (.vdefer k (b.extractLsb' 15 6) (b.extractLsb' 9 6) (b.extractLsb' 5 4) (b.extractLsb' 0 3)) else none
  | 0x65 =>
    if b.extractLsb' 0 21 = 0#21 then some (.vdrain k) else none
  | 0x66 =>
    if b.extractLsb' 0 18 = 0#18 then some (.setm k (b.extractLsb' 18 3)) else none
  | 0x67 =>
    if b.extractLsb' 0 12 = 0#12 then
      some (.mand k (b.extractLsb' 18 3) (b.extractLsb' 15 3) (b.extractLsb' 12 3))
    else if b.extractLsb' 0 12 = 1#12 then
      some (.mor k (b.extractLsb' 18 3) (b.extractLsb' 15 3) (b.extractLsb' 12 3))
    else if b.extractLsb' 0 12 = 2#12 then
      some (.mxor k (b.extractLsb' 18 3) (b.extractLsb' 15 3) (b.extractLsb' 12 3))
    else if b.extractLsb' 0 15 = 3#15 then
      some (.mnot k (b.extractLsb' 18 3) (b.extractLsb' 15 3))
    else none
  | 0x68 =>
    if b.extractLsb' 0 14 = 0#14 then some (.mpopc k (b.extractLsb' 17 4) (b.extractLsb' 14 3)) else none
  | 0x69 =>
    if b.extractLsb' 3 12 = 0#12 then some (.viota k (b.extractLsb' 15 6) (b.extractLsb' 0 3)) else none
  | 0x6A =>
    if b.extractLsb' 0 17 = 0#17 then some (.vclr k (b.extractLsb' 17 4)) else none
  | 0x70 =>
    if b.extractLsb' 3 12 = 0#12 then some (.mwld k (b.extractLsb' 15 6) (b.extractLsb' 0 3)) else none
  | 0x71 =>
    some (.mma k (b.extractLsb' 15 6) (b.extractLsb' 9 6) (b.extractLsb' 3 6) (b.extractLsb' 0 3))
  | 0x72 =>
    some (.mmas k (b.extractLsb' 15 6) (b.extractLsb' 9 6) (b.extractLsb' 3 6) (b.extractLsb' 0 3))
  | 0x73 =>
    if b.extractLsb' 0 9 = 0#9 then some (.mgath k (b.extractLsb' 15 6) (b.extractLsb' 9 6)) else none
  | 0x74 =>
    if b.extractLsb' 0 3 = 0#3 ∧ b.extractLsb' 9 12 = 0#12 then some (.mzero k (b.extractLsb' 3 6)) else none
  | 0x76 =>
    if b.extractLsb' 0 17 = 0#17 then
      some (.mstatOccupancy k (b.extractLsb' 17 4))
    else if b.extractLsb' 0 17 = 1#17 then
      some (.mstatSticky k (b.extractLsb' 17 4))
    else if b.extractLsb' 0 17 = 2#17 then
      some (.mstatRetired k (b.extractLsb' 17 4))
    else none
  | 0x77 =>
    if b.extractLsb' 4 17 = 0#17 then some (.mwait k (b.extractLsb' 0 4)) else none
  | _ => none

/-- Opcodes 0x40-0x7F of the L and S streams (R39), but for CPYC. -/
def decodeLS (k : Tok) (op : Nat) (b : BitVec 21) : Option Instr :=
  match op with
  | 0x40 =>
    if b.extractLsb' 0 1 = 0#1 then some (.cpy k (b.extractLsb' 15 6) (b.extractLsb' 9 6) (b.extractLsb' 5 4) (b.extractLsb' 1 4)) else none
  | 0x42 =>
    if b.extractLsb' 0 1 = 0#1 then some (.cpyg k (b.extractLsb' 15 6) (b.extractLsb' 9 6) (b.extractLsb' 5 4) (b.extractLsb' 1 4)) else none
  | 0x43 =>
    if b.extractLsb' 0 1 = 0#1 then some (.cpys k (b.extractLsb' 15 6) (b.extractLsb' 9 6) (b.extractLsb' 5 4) (b.extractLsb' 1 4)) else none
  | 0x44 =>
    if b.extractLsb' 0 1 = 0#1 then some (.cpyr k (b.extractLsb' 15 6) (b.extractLsb' 9 6) (b.extractLsb' 5 4) (b.extractLsb' 1 4)) else none
  | 0x45 =>
    some (.cpyh k (b.extractLsb' 15 6) (b.extractLsb' 9 6) (b.extractLsb' 5 4) (b.extractLsb' 1 4) (b.extractLsb' 0 1))
  | 0x46 =>
    if b.extractLsb' 9 6 = 0#6 then some (.cfill k (b.extractLsb' 15 6) (b.extractLsb' 5 4) (b.extractLsb' 1 4) (b.extractLsb' 0 1)) else none
  | 0x47 =>
    if b.extractLsb' 0 1 = 0#1 ∧ b.extractLsb' 15 6 = 0#6 then some (.cpfx k (b.extractLsb' 9 6) (b.extractLsb' 5 4) (b.extractLsb' 1 4)) else none
  | 0x48 =>
    if b.extractLsb' 0 5 = 0#5 ∧ b.extractLsb' 15 6 = 0#6 then some (.cwb k (b.extractLsb' 9 6) (b.extractLsb' 5 4)) else none
  | 0x49 =>
    if b.extractLsb' 5 16 = 0#16 then some (.cwait k (b.extractLsb' 0 5)) else none
  | 0x4A =>
    if b.extractLsb' 0 15 = 0#15 then some (.hfin k (b.extractLsb' 15 6)) else none
  | 0x4B =>
    if b.extractLsb' 0 8 = 0#8 then
      some (.cqbindSend k (b.extractLsb' 18 3) (b.extractLsb' 12 6) (b.extractLsb' 8 4))
    else if b.extractLsb' 0 8 = 1#8 then
      some (.cqbindRecv k (b.extractLsb' 18 3) (b.extractLsb' 12 6) (b.extractLsb' 8 4))
    else none
  | 0x4C =>
    if b.extractLsb' 0 18 = 0#18 then
      some (.cqunbDrain k (b.extractLsb' 18 3))
    else if b.extractLsb' 0 18 = 1#18 then
      some (.cqunbDiscard k (b.extractLsb' 18 3))
    else none
  | 0x4D =>
    if b.extractLsb' 0 8 = 0#8 then some (.cqsend k (b.extractLsb' 18 3) (b.extractLsb' 12 6) (b.extractLsb' 8 4)) else none
  | 0x4E =>
    if b.extractLsb' 0 8 = 0#8 then some (.cqrecv k (b.extractLsb' 18 3) (b.extractLsb' 12 6) (b.extractLsb' 8 4)) else none
  | 0x4F =>
    if b.extractLsb' 0 8 = 0#8 ∧ b.extractLsb' 12 6 = 0#6 then
      some (.cqstatStatus k (b.extractLsb' 18 3) (b.extractLsb' 8 4))
    else if b.extractLsb' 0 8 = 1#8 ∧ b.extractLsb' 12 6 = 0#6 then
      some (.cqstatRows k (b.extractLsb' 18 3) (b.extractLsb' 8 4))
    else if b.extractLsb' 0 8 = 2#8 ∧ b.extractLsb' 12 6 = 0#6 then
      some (.cqstatCredits k (b.extractLsb' 18 3) (b.extractLsb' 8 4))
    else none
  | _ => none

/-- How many words follow a word and belong to it (R15). -/
def trailingWords (e : Engine) (op : Nat) : Nat :=
  match e, op with
  | .x, 0x75 => 2
  | .l, 0x41 => 1
  | .s, 0x41 => 1
  | _, _ => 0

/-- A follow-on word: an MWLD or MMA of the X map (R15). -/
def decodeFollow (w : IWord) : Option FollowOn :=
  match decodeX (tokOf w) (opOf w) (bodyOf w) with
  | some (.mwld k a f) => if f.toNat ≤ 6 then some (.mwld k a f) else none
  | some (.mma k a b c f) => if f.toNat ≤ 6 then some (.mma k a b c f) else none
  | _ => none

/-- The instructions that span several words (R15). Their own fields are judged before their trailing words are looked for, as
check 2 of R44 comes before check 6. DESIGN CHOICE: a follow-on word that holds no MWLD or MMA raises UNDEF at check 2 too (log
entry 133). -/
def decodeLong (e : Engine) (w : IWord) (rest : List IWord) : Except DecodeError Instr :=
  match e with
  | .x =>
    if (bodyOf w).extractLsb' 0 3 = 7#3 then .error .unassigned
    else
      match rest with
      | low :: high :: _ =>
        .ok (.mkat (tokOf w) ((bodyOf w).extractLsb' 3 18) ((bodyOf w).extractLsb' 0 3) low high)
      | _ => .error .trailing
  | _ =>
    if (bodyOf w).extractLsb' 0 1 = 1#1 then .error .unassigned
    else
      match rest with
      | next :: _ =>
        match decodeFollow next with
        | some fo => .ok (.cpyc (tokOf w) ((bodyOf w).extractLsb' 15 6) ((bodyOf w).extractLsb' 9 6)
            ((bodyOf w).extractLsb' 5 4) ((bodyOf w).extractLsb' 1 4) fo)
        | none => .error .followOn
      | [] => .error .trailing

/-- The one-word instructions of an engine's map, those of `decodeId` apart (R12). -/
def decodeLow (e : Engine) (w : IWord) : Option Instr :=
  match decodeCommon (tokOf w) (opOf w) (bodyOf w) with
  | some i => some i
  | none =>
    match e with
    | .k => decodeK (tokOf w) (opOf w) (bodyOf w)
    | .dray => decodeK (tokOf w) (opOf w) (bodyOf w)
    | .x => decodeX (tokOf w) (opOf w) (bodyOf w)
    | .l => decodeLS (tokOf w) (opOf w) (bodyOf w)
    | .s => decodeLS (tokOf w) (opOf w) (bodyOf w)

/-- The code of an ID word (R34). -/
def idCode (w : IWord) : Option Nat :=
  let n := ((bodyOf w).extractLsb' 0 17).toNat
  if opOf w = 0x2F ∧ n ≤ 5 then some n else none

/-- The instruction of an ID word by its code. -/
noncomputable def decodeId (w : IWord) (n : Nat) : Instr :=
  let d := (bodyOf w).extractLsb' 17 4
  match n with
  | 0 => .idCoach (tokOf w) d
  | 1 => .idCore (tokOf w) d
  | 2 => .idCluster (tokOf w) d
  | 3 => .idDie (tokOf w) d
  | 4 => .idSlice (tokOf w) d
  | _ => .idShape (tokOf w) d

/-- The field checks and the engine checks that end check 2 of R44. -/
def decodeChecked (e : Engine) (i : Instr) (t : Tok) : Except DecodeError Instr :=
  if i.wf then
    if e = .dray ∧ (t ≠ Tok.none ∨ i.coachOnly = true) then .error .notOnEngine else .ok i
  else .error .illFormed

/-- Decoding of every word but those of `decodeId`. -/
def decodeMain (e : Engine) (w : IWord) (rest : List IWord) : Except DecodeError Instr :=
  if trailingWords e (opOf w) = 0 then
    match decodeLow e w with
    | some i => decodeChecked e i (tokOf w)
    | none => .error .unassigned
  else
    match decodeLong e w rest with
    | .ok i => decodeChecked e i (tokOf w)
    | .error r => .error r

/-- The instruction that an engine reads from the words at its program counter (R12, R15, R43). -/
noncomputable def decode (e : Engine) (ws : List IWord) : Except DecodeError Instr :=
  match ws with
  | [] => .error .empty
  | w :: rest =>
    match idCode w with
    | some n => decodeChecked e (decodeId w n) (tokOf w)
    | none => decodeMain e w rest

/-- Four bytes as a little-endian word (R6). -/
def wordOfBytes (b0 b1 b2 b3 : Byte) : IWord := b3 ++ b2 ++ b1 ++ b0

/-- The whole words of a byte string, lowest address first (R6, R11). -/
def wordsOfBytes : List Byte → List IWord
  | b0 :: b1 :: b2 :: b3 :: bs => wordOfBytes b0 b1 b2 b3 :: wordsOfBytes bs
  | _ => []

/-- Decoding of raw bytes: total, and every rejection has a name. -/
noncomputable def decodeBytes (e : Engine) (bs : List Byte) : Except DecodeError Instr := decode e (wordsOfBytes bs)

/-- The encoding of a follow-on word. -/
def encodeFollow (fo : FollowOn) : IWord :=
  match fo with
  | .mwld k a f => wordOf k 0x70#7 (a ++ 0#12 ++ f)
  | .mma k a b c f => wordOf k 0x71#7 (a ++ b ++ c ++ f)

/-- The words of a well-formed instruction (R11, R23-R31); a step that no word fetches has none. -/
def encode (i : Instr) : List IWord :=
  match i with
  | .nop k => [wordOf k 0x00#7 (0#21)]
  | .add k d a b => [wordOf k 0x01#7 (d ++ a ++ b ++ 0#9)]
  | .sub k d a b => [wordOf k 0x01#7 (d ++ a ++ b ++ 1#9)]
  | .andd k d a b => [wordOf k 0x01#7 (d ++ a ++ b ++ 2#9)]
  | .orr k d a b => [wordOf k 0x01#7 (d ++ a ++ b ++ 3#9)]
  | .xorr k d a b => [wordOf k 0x01#7 (d ++ a ++ b ++ 4#9)]
  | .shl k d a b => [wordOf k 0x01#7 (d ++ a ++ b ++ 5#9)]
  | .shr k d a b => [wordOf k 0x01#7 (d ++ a ++ b ++ 6#9)]
  | .sra k d a b => [wordOf k 0x01#7 (d ++ a ++ b ++ 7#9)]
  | .slt k d a b => [wordOf k 0x01#7 (d ++ a ++ b ++ 8#9)]
  | .sltu k d a b => [wordOf k 0x01#7 (d ++ a ++ b ++ 9#9)]
  | .min k d a b => [wordOf k 0x01#7 (d ++ a ++ b ++ 10#9)]
  | .max k d a b => [wordOf k 0x01#7 (d ++ a ++ b ++ 11#9)]
  | .minu k d a b => [wordOf k 0x01#7 (d ++ a ++ b ++ 12#9)]
  | .maxu k d a b => [wordOf k 0x01#7 (d ++ a ++ b ++ 13#9)]
  | .andn k d a b => [wordOf k 0x01#7 (d ++ a ++ b ++ 14#9)]
  | .lea0 k d a b => [wordOf k 0x01#7 (d ++ a ++ b ++ 16#9)]
  | .lea1 k d a b => [wordOf k 0x01#7 (d ++ a ++ b ++ 17#9)]
  | .lea2 k d a b => [wordOf k 0x01#7 (d ++ a ++ b ++ 18#9)]
  | .lea3 k d a b => [wordOf k 0x01#7 (d ++ a ++ b ++ 19#9)]
  | .mul k d a b => [wordOf k 0x02#7 (d ++ a ++ b ++ 0#9)]
  | .mulh k d a b => [wordOf k 0x02#7 (d ++ a ++ b ++ 1#9)]
  | .mulhu k d a b => [wordOf k 0x02#7 (d ++ a ++ b ++ 2#9)]
  | .div k d a b => [wordOf k 0x02#7 (d ++ a ++ b ++ 3#9)]
  | .divu k d a b => [wordOf k 0x02#7 (d ++ a ++ b ++ 4#9)]
  | .rem k d a b => [wordOf k 0x02#7 (d ++ a ++ b ++ 5#9)]
  | .remu k d a b => [wordOf k 0x02#7 (d ++ a ++ b ++ 6#9)]
  | .clz k d a => [wordOf k 0x03#7 (d ++ a ++ 0#13)]
  | .ctz k d a => [wordOf k 0x03#7 (d ++ a ++ 1#13)]
  | .popc k d a => [wordOf k 0x03#7 (d ++ a ++ 2#13)]
  | .sext8 k d a => [wordOf k 0x03#7 (d ++ a ++ 3#13)]
  | .sext16 k d a => [wordOf k 0x03#7 (d ++ a ++ 4#13)]
  | .sext32 k d a => [wordOf k 0x03#7 (d ++ a ++ 5#13)]
  | .zext8 k d a => [wordOf k 0x03#7 (d ++ a ++ 6#13)]
  | .zext16 k d a => [wordOf k 0x03#7 (d ++ a ++ 7#13)]
  | .zext32 k d a => [wordOf k 0x03#7 (d ++ a ++ 8#13)]
  | .brev k d a => [wordOf k 0x03#7 (d ++ a ++ 9#13)]
  | .addi k d a i => [wordOf k 0x04#7 (d ++ a ++ i)]
  | .andi k d a i => [wordOf k 0x05#7 (d ++ a ++ i)]
  | .ori k d a i => [wordOf k 0x06#7 (d ++ a ++ i)]
  | .xori k d a i => [wordOf k 0x07#7 (d ++ a ++ i)]
  | .slti k d a i => [wordOf k 0x08#7 (d ++ a ++ i)]
  | .sltiu k d a i => [wordOf k 0x09#7 (d ++ a ++ i)]
  | .shli k d a sr => [wordOf k 0x0A#7 (d ++ a ++ 0#7 ++ sr)]
  | .shri k d a sr => [wordOf k 0x0B#7 (d ++ a ++ 0#7 ++ sr)]
  | .srai k d a sr => [wordOf k 0x0C#7 (d ++ a ++ 0#7 ++ sr)]
  | .muli k d a i => [wordOf k 0x0D#7 (d ++ a ++ i)]
  | .li k d i => [wordOf k 0x0E#7 (d ++ i)]
  | .likH1 k d i => [wordOf k 0x0F#7 (d ++ 0#1 ++ i)]
  | .likH2 k d i => [wordOf k 0x10#7 (d ++ 0#1 ++ i)]
  | .likH3 k d i => [wordOf k 0x11#7 (d ++ 0#1 ++ i)]
  | .bEq k a b o => [wordOf k 0x12#7 (a ++ b ++ o)]
  | .bNe k a b o => [wordOf k 0x13#7 (a ++ b ++ o)]
  | .bLt k a b o => [wordOf k 0x14#7 (a ++ b ++ o)]
  | .bGe k a b o => [wordOf k 0x15#7 (a ++ b ++ o)]
  | .bLtu k a b o => [wordOf k 0x16#7 (a ++ b ++ o)]
  | .bGeu k a b o => [wordOf k 0x17#7 (a ++ b ++ o)]
  | .j k o => [wordOf k 0x18#7 (o)]
  | .jal k o => [wordOf k 0x19#7 (o)]
  | .jr k d a o => [wordOf k 0x1A#7 (d ++ a ++ o)]
  | .loop k a o => [wordOf k 0x1B#7 (0#4 ++ a ++ o)]
  | .loopi k c l => [wordOf k 0x1C#7 (c ++ l)]
  | .endTask k => [wordOf k 0x1D#7 (0#21)]
  | .semP k a i => [wordOf k 0x1E#7 (0#4 ++ a ++ 0#2 ++ i ++ 0#6)]
  | .semV k a i => [wordOf k 0x1E#7 (0#4 ++ a ++ 1#2 ++ i ++ 0#6)]
  | .semTryp k d a i => [wordOf k 0x1E#7 (d ++ a ++ 2#2 ++ i ++ 0#6)]
  | .semRead k d a i => [wordOf k 0x1E#7 (d ++ a ++ 3#2 ++ i ++ 0#6)]
  | .cbarA k h => [wordOf k 0x1F#7 (0#10 ++ h ++ 0#7)]
  | .cbarW k h => [wordOf k 0x1F#7 (1#10 ++ h ++ 0#7)]
  | .cbarAw k h => [wordOf k 0x1F#7 (2#10 ++ h ++ 0#7)]
  | .ld k tr b c o sr => [wordOf k 0x20#7 (tr ++ b ++ c ++ o ++ sr)]
  | .ldu k tr b c o sr => [wordOf k 0x21#7 (tr ++ b ++ c ++ o ++ sr)]
  | .st k tr b c o sr => [wordOf k 0x22#7 (tr ++ b ++ c ++ o ++ sr)]
  | .lda k tr b c e o sr => [wordOf k 0x23#7 (tr ++ b ++ c ++ e ++ o ++ sr)]
  | .stl k tr b c e o sr => [wordOf k 0x24#7 (tr ++ b ++ c ++ e ++ o ++ sr)]
  | .ldsp k tr b kk o sr => [wordOf k 0x25#7 (tr ++ b ++ kk ++ o ++ sr)]
  | .stsp k tr b kk o sr => [wordOf k 0x26#7 (tr ++ b ++ kk ++ o ++ sr)]
  | .fenceAcq k a e h => [wordOf k 0x27#7 (0#4 ++ a ++ e ++ 0#2 ++ h ++ 0#3)]
  | .fenceRel k a e h => [wordOf k 0x27#7 (0#4 ++ a ++ e ++ 1#2 ++ h ++ 0#3)]
  | .fenceFull k a e h => [wordOf k 0x27#7 (0#4 ++ a ++ e ++ 2#2 ++ h ++ 0#3)]
  | .tfence k => [wordOf k 0x28#7 (0#21)]
  | .csrr k d n => [wordOf k 0x29#7 (d ++ 0#8 ++ n)]
  | .csrw k d a n => [wordOf k 0x2A#7 (d ++ a ++ 0#4 ++ n)]
  | .csrs k d a n => [wordOf k 0x2B#7 (d ++ a ++ 0#4 ++ n)]
  | .csrc k d a n => [wordOf k 0x2C#7 (d ++ a ++ 0#4 ++ n)]
  | .qfeat k d a i => [wordOf k 0x2D#7 (d ++ a ++ i)]
  | .timeNs k d => [wordOf k 0x2E#7 (d ++ 0#17)]
  | .timeClocks k d => [wordOf k 0x2E#7 (d ++ 1#17)]
  | .timeEnergy k d => [wordOf k 0x2E#7 (d ++ 2#17)]
  | .idCoach k d => [wordOf k 0x2F#7 (d ++ 0#17)]
  | .idCore k d => [wordOf k 0x2F#7 (d ++ 1#17)]
  | .idCluster k d => [wordOf k 0x2F#7 (d ++ 2#17)]
  | .idDie k d => [wordOf k 0x2F#7 (d ++ 3#17)]
  | .idSlice k d => [wordOf k 0x2F#7 (d ++ 4#17)]
  | .idShape k d => [wordOf k 0x2F#7 (d ++ 5#17)]
  | .ecall k c => [wordOf k 0x30#7 (0#8 ++ c)]
  | .ebreak k c => [wordOf k 0x31#7 (0#8 ++ c)]
  | .waite k a m => [wordOf k 0x32#7 (0#4 ++ a ++ 0#9 ++ m)]
  | .dset k e sr => [wordOf k 0x33#7 (e ++ sr ++ 0#11)]
  | .dget k e sr => [wordOf k 0x34#7 (e ++ sr ++ 0#11)]
  | .dadd k e sr => [wordOf k 0x35#7 (e ++ sr ++ 0#11)]
  | .aadd k d b v c m e => [wordOf k 0x40#7 (d ++ b ++ v ++ c ++ m ++ e)]
  | .aand k d b v c m e => [wordOf k 0x41#7 (d ++ b ++ v ++ c ++ m ++ e)]
  | .aor k d b v c m e => [wordOf k 0x42#7 (d ++ b ++ v ++ c ++ m ++ e)]
  | .axor k d b v c m e => [wordOf k 0x43#7 (d ++ b ++ v ++ c ++ m ++ e)]
  | .aswp k d b v c m e => [wordOf k 0x44#7 (d ++ b ++ v ++ c ++ m ++ e)]
  | .acas k d b v c m e => [wordOf k 0x45#7 (d ++ b ++ v ++ c ++ m ++ e)]
  | .amin k d b v c m e => [wordOf k 0x46#7 (d ++ b ++ v ++ c ++ m ++ e)]
  | .amax k d b v c m e => [wordOf k 0x47#7 (d ++ b ++ v ++ c ++ m ++ e)]
  | .aminu k d b v c m e => [wordOf k 0x48#7 (d ++ b ++ v ++ c ++ m ++ e)]
  | .amaxu k d b v c m e => [wordOf k 0x49#7 (d ++ b ++ v ++ c ++ m ++ e)]
  | .aaddW k d b v c m e => [wordOf k 0x4A#7 (d ++ b ++ v ++ c ++ m ++ e)]
  | .aswpW k d b v c m e => [wordOf k 0x4B#7 (d ++ b ++ v ++ c ++ m ++ e)]
  | .acasW k d b v c m e => [wordOf k 0x4C#7 (d ++ b ++ v ++ c ++ m ++ e)]
  | .fork k d a o => [wordOf k 0x4D#7 (d ++ a ++ o)]
  | .join k a => [wordOf k 0x4E#7 (0#4 ++ a ++ 0#13)]
  | .syield k => [wordOf k 0x4F#7 (0#21)]
  | .sexit k => [wordOf k 0x50#7 (0#21)]
  | .bsel k d a b => [wordOf k 0x51#7 (d ++ a ++ b ++ 0#9)]
  | .launch k a b => [wordOf k 0x52#7 (0#4 ++ a ++ b ++ 0#9)]
  | .launchImm k a b => [wordOf k 0x52#7 (0#4 ++ a ++ b ++ 1#9)]
  | .qnotify k a => [wordOf k 0x53#7 (0#4 ++ a ++ 0#13)]
  | .txstat k d => [wordOf k 0x54#7 (d ++ 0#17)]
  | .txabort k c => [wordOf k 0x55#7 (0#8 ++ c)]
  | .txclaim k a b => [wordOf k 0x56#7 (0#4 ++ a ++ b ++ 0#9)]
  | .gateRead k d a => [wordOf k 0x57#7 (d ++ a ++ 0#13)]
  | .gateAdd k d a b => [wordOf k 0x57#7 (d ++ a ++ b ++ 1#9)]
  | .gateWaitge k d a b => [wordOf k 0x57#7 (d ++ a ++ b ++ 2#9)]
  | .eret k d a => [wordOf k 0x60#7 (d ++ a ++ 0#13)]
  | .fres k d a => [wordOf k 0x61#7 (d ++ a ++ 0#13)]
  | .fkill k d a => [wordOf k 0x62#7 (d ++ a ++ 0#13)]
  | .freeze k d a => [wordOf k 0x63#7 (d ++ a ++ 0#13)]
  | .thaw k d a => [wordOf k 0x64#7 (d ++ a ++ 0#13)]
  | .pre k d a b => [wordOf k 0x65#7 (d ++ a ++ b ++ 0#9)]
  | .preResume k d a b => [wordOf k 0x65#7 (d ++ a ++ b ++ 0#9)]
  | .preTask k d a b => [wordOf k 0x65#7 (d ++ a ++ b ++ 1#9)]
  | .preInsn k d a b => [wordOf k 0x65#7 (d ++ a ++ b ++ 2#9)]
  | .preKill k d a b => [wordOf k 0x65#7 (d ++ a ++ b ++ 3#9)]
  | .moult k d a b => [wordOf k 0x66#7 (d ++ a ++ b ++ 0#9)]
  | .unmoult k d a b => [wordOf k 0x67#7 (d ++ a ++ b ++ 0#9)]
  | .qmap k d a b => [wordOf k 0x68#7 (d ++ a ++ b ++ 0#9)]
  | .qunmap k d a => [wordOf k 0x69#7 (d ++ a ++ 0#13)]
  | .semmap k d a b => [wordOf k 0x6A#7 (d ++ a ++ b ++ 0#9)]
  | .barmap k d a b => [wordOf k 0x6B#7 (d ++ a ++ b ++ 0#9)]
  | .idmap k a b => [wordOf k 0x6C#7 (0#4 ++ a ++ b ++ 0#9)]
  | .timeofs k d a b => [wordOf k 0x6D#7 (d ++ a ++ b ++ 0#9)]
  | .s1inv k => [wordOf k 0x6E#7 (0#21)]
  | .s1invPage k a b => [wordOf k 0x6E#7 (0#4 ++ a ++ b ++ 1#9)]
  | .s1invSlice k b => [wordOf k 0x6E#7 (0#8 ++ b ++ 2#9)]
  | .s2inv k => [wordOf k 0x6F#7 (0#21)]
  | .s2invPage k a b => [wordOf k 0x6F#7 (0#4 ++ a ++ b ++ 1#9)]
  | .s2invDomain k b => [wordOf k 0x6F#7 (0#8 ++ b ++ 2#9)]
  | .winset k a b => [wordOf k 0x70#7 (0#4 ++ a ++ b ++ 0#9)]
  | .rights k d a b => [wordOf k 0x71#7 (d ++ a ++ b ++ 0#9)]
  | .rightsRevoke k d a b => [wordOf k 0x71#7 (d ++ a ++ b ++ 1#9)]
  | .rightsRead k d a => [wordOf k 0x71#7 (d ++ a ++ 2#13)]
  | .fmask k d a b => [wordOf k 0x72#7 (d ++ a ++ b ++ 0#9)]
  | .slotw k d a b => [wordOf k 0x73#7 (d ++ a ++ b ++ 0#9)]
  | .wset k d a b => [wordOf k 0x74#7 (d ++ a ++ b ++ 0#9)]
  | .wsetShard k d a b => [wordOf k 0x74#7 (d ++ a ++ b ++ 1#9)]
  | .wsetVerify k d a => [wordOf k 0x74#7 (d ++ a ++ 2#13)]
  | .wsetFree k d a => [wordOf k 0x74#7 (d ++ a ++ 3#13)]
  | .wswap k d a => [wordOf k 0x75#7 (d ++ a ++ 0#13)]
  | .enset k d a b => [wordOf k 0x76#7 (d ++ a ++ b ++ 0#9)]
  | .walksave k d a b => [wordOf k 0x77#7 (d ++ a ++ b ++ 0#9)]
  | .walkload k d a b => [wordOf k 0x78#7 (d ++ a ++ b ++ 0#9)]
  | .katset k d a b => [wordOf k 0x79#7 (d ++ a ++ b ++ 0#9)]
  | .csrx k d a b n => [wordOf k 0x7A#7 (d ++ a ++ b ++ 0#2 ++ n)]
  | .csrxW k d a b n => [wordOf k 0x7A#7 (d ++ a ++ b ++ 1#2 ++ n)]
  | .csrxS k d a b n => [wordOf k 0x7A#7 (d ++ a ++ b ++ 2#2 ++ n)]
  | .csrxC k d a b n => [wordOf k 0x7A#7 (d ++ a ++ b ++ 3#2 ++ n)]
  | .vadd k d a b y => [wordOf k 0x40#7 (d ++ a ++ b ++ y)]
  | .vsub k d a b y => [wordOf k 0x41#7 (d ++ a ++ b ++ y)]
  | .vmul k d a b y => [wordOf k 0x42#7 (d ++ a ++ b ++ y)]
  | .vfma k d a b y => [wordOf k 0x43#7 (d ++ a ++ b ++ y)]
  | .vfms k d a b y => [wordOf k 0x44#7 (d ++ a ++ b ++ y)]
  | .vmin k d a b y => [wordOf k 0x45#7 (d ++ a ++ b ++ y)]
  | .vmax k d a b y => [wordOf k 0x46#7 (d ++ a ++ b ++ y)]
  | .vabs k d a y => [wordOf k 0x47#7 (d ++ a ++ 0#6 ++ y)]
  | .vneg k d a y => [wordOf k 0x48#7 (d ++ a ++ 0#6 ++ y)]
  | .vand k d a b y => [wordOf k 0x49#7 (d ++ a ++ b ++ y)]
  | .vor k d a b y => [wordOf k 0x4A#7 (d ++ a ++ b ++ y)]
  | .vxor k d a b y => [wordOf k 0x4B#7 (d ++ a ++ b ++ y)]
  | .vshl k d a i y => [wordOf k 0x4C#7 (d ++ a ++ i ++ y)]
  | .vshr k d a i y => [wordOf k 0x4D#7 (d ++ a ++ i ++ y)]
  | .vsra k d a i y => [wordOf k 0x4E#7 (d ++ a ++ i ++ y)]
  | .vcmp k a b c m y => [wordOf k 0x4F#7 (a ++ b ++ c ++ m ++ y)]
  | .vsel k d a b y => [wordOf k 0x50#7 (d ++ a ++ b ++ y)]
  | .vmov k d a y => [wordOf k 0x51#7 (d ++ a ++ 0#6 ++ y)]
  | .vbcs k d sr y => [wordOf k 0x52#7 (d ++ 0#6 ++ sr ++ 0#2 ++ y)]
  | .vmovs k a sr y => [wordOf k 0x53#7 (0#6 ++ a ++ sr ++ 0#2 ++ y)]
  | .vins k d sr y => [wordOf k 0x54#7 (d ++ 0#6 ++ sr ++ 0#2 ++ y)]
  | .vexp2 k d a => [wordOf k 0x55#7 (d ++ a ++ 0#9)]
  | .vlog2 k d a => [wordOf k 0x56#7 (d ++ a ++ 0#9)]
  | .vrcp k d a => [wordOf k 0x57#7 (d ++ a ++ 0#9)]
  | .vrsq k d a => [wordOf k 0x58#7 (d ++ a ++ 0#9)]
  | .vcvt k d a r f c => [wordOf k 0x59#7 (d ++ a ++ r ++ f ++ c)]
  | .vpack k d a b y => [wordOf k 0x5A#7 (d ++ a ++ b ++ y)]
  | .vunpk k d a b y => [wordOf k 0x5B#7 (d ++ a ++ b ++ y)]
  | .vreds k d a y => [wordOf k 0x5C#7 (d ++ a ++ 0#6 ++ y)]
  | .vredm k d a i y => [wordOf k 0x5D#7 (d ++ a ++ i ++ y)]
  | .vscan k d a i y => [wordOf k 0x5E#7 (d ++ a ++ i ++ y)]
  | .vperm k d a b y => [wordOf k 0x5F#7 (d ++ a ++ b ++ y)]
  | .vrot k d a i y => [wordOf k 0x60#7 (d ++ a ++ i ++ y)]
  | .vld k tr e sr y => [wordOf k 0x61#7 (tr ++ e ++ sr ++ 0#2 ++ y)]
  | .vst k tr e sr y => [wordOf k 0x62#7 (tr ++ e ++ sr ++ 0#2 ++ y)]
  | .vatomAdd k tr e sr y => [wordOf k 0x63#7 (tr ++ e ++ sr ++ 0#2 ++ y)]
  | .vatomMin k tr e sr y => [wordOf k 0x63#7 (tr ++ e ++ sr ++ 1#2 ++ y)]
  | .vatomMax k tr e sr y => [wordOf k 0x63#7 (tr ++ e ++ sr ++ 2#2 ++ y)]
  | .vatomSwp k tr e sr y => [wordOf k 0x63#7 (tr ++ e ++ sr ++ 3#2 ++ y)]
  | .vdefer k tr e sr y => [wordOf k 0x64#7 (tr ++ e ++ sr ++ 0#2 ++ y)]
  | .vdrain k => [wordOf k 0x65#7 (0#21)]
  | .setm k m => [wordOf k 0x66#7 (m ++ 0#18)]
  | .mand k d a b => [wordOf k 0x67#7 (d ++ a ++ b ++ 0#12)]
  | .mor k d a b => [wordOf k 0x67#7 (d ++ a ++ b ++ 1#12)]
  | .mxor k d a b => [wordOf k 0x67#7 (d ++ a ++ b ++ 2#12)]
  | .mnot k d a => [wordOf k 0x67#7 (d ++ a ++ 3#15)]
  | .mpopc k sr m => [wordOf k 0x68#7 (sr ++ m ++ 0#14)]
  | .viota k d y => [wordOf k 0x69#7 (d ++ 0#12 ++ y)]
  | .vclr k d => [wordOf k 0x6A#7 (d ++ 0#17)]
  | .mwld k a f => [wordOf k 0x70#7 (a ++ 0#12 ++ f)]
  | .mma k a b c f => [wordOf k 0x71#7 (a ++ b ++ c ++ f)]
  | .mmas k a b c f => [wordOf k 0x72#7 (a ++ b ++ c ++ f)]
  | .mgath k a b => [wordOf k 0x73#7 (a ++ b ++ 0#9)]
  | .mzero k c => [wordOf k 0x74#7 (0#12 ++ c ++ 0#3)]
  | .mkat k seed f low high => [wordOf k 0x75#7 (seed ++ f), low, high]
  | .mstatOccupancy k d => [wordOf k 0x76#7 (d ++ 0#17)]
  | .mstatSticky k d => [wordOf k 0x76#7 (d ++ 1#17)]
  | .mstatRetired k d => [wordOf k 0x76#7 (d ++ 2#17)]
  | .mwait k n => [wordOf k 0x77#7 (0#17 ++ n)]
  | .cpy k d sr c l => [wordOf k 0x40#7 (d ++ sr ++ c ++ l ++ 0#1)]
  | .cpyc k d sr c l fo => [wordOf k 0x41#7 (d ++ sr ++ c ++ l ++ 0#1), encodeFollow fo]
  | .cpyg k d sr c l => [wordOf k 0x42#7 (d ++ sr ++ c ++ l ++ 0#1)]
  | .cpys k d sr c l => [wordOf k 0x43#7 (d ++ sr ++ c ++ l ++ 0#1)]
  | .cpyr k d sr c l => [wordOf k 0x44#7 (d ++ sr ++ c ++ l ++ 0#1)]
  | .cpyh k d sr c l v => [wordOf k 0x45#7 (d ++ sr ++ c ++ l ++ v)]
  | .cfill k d c l v => [wordOf k 0x46#7 (d ++ 0#6 ++ c ++ l ++ v)]
  | .cpfx k sr c l => [wordOf k 0x47#7 (0#6 ++ sr ++ c ++ l ++ 0#1)]
  | .cwb k sr c => [wordOf k 0x48#7 (0#6 ++ sr ++ c ++ 0#5)]
  | .cwait k n => [wordOf k 0x49#7 (0#16 ++ n)]
  | .hfin k d => [wordOf k 0x4A#7 (d ++ 0#15)]
  | .cqbindSend k q e sr => [wordOf k 0x4B#7 (q ++ e ++ sr ++ 0#8)]
  | .cqbindRecv k q e sr => [wordOf k 0x4B#7 (q ++ e ++ sr ++ 1#8)]
  | .cqunbDrain k q => [wordOf k 0x4C#7 (q ++ 0#18)]
  | .cqunbDiscard k q => [wordOf k 0x4C#7 (q ++ 1#18)]
  | .cqsend k q e sr => [wordOf k 0x4D#7 (q ++ e ++ sr ++ 0#8)]
  | .cqrecv k q e sr => [wordOf k 0x4E#7 (q ++ e ++ sr ++ 0#8)]
  | .cqstatStatus k q sr => [wordOf k 0x4F#7 (q ++ 0#6 ++ sr ++ 0#8)]
  | .cqstatRows k q sr => [wordOf k 0x4F#7 (q ++ 0#6 ++ sr ++ 1#8)]
  | .cqstatCredits k q sr => [wordOf k 0x4F#7 (q ++ 0#6 ++ sr ++ 2#8)]
  | .strandReady _ => []
  | .waiteTimeout _ => []
  | .timerEvent => []
  | .tokenTimeout _ => []
  | .barrierTimeout _ => []
  | .walkerPick _ => []
  | .loaderPlaneLoad _ _ => []
  | .taskStart _ => []
  | .taskDrain _ => []
  | .shareWindow _ => []
  | .notifyEvent _ _ => []
  | .doorbell _ _ => []
  | .slotTake _ _ => []
  | .slotScan _ => []
  | .launchReady _ => []
  | .appendRetry _ => []
  | .stageRequest _ => []
  | .conflictWaitApply _ => []
  | .waitCycleCheck _ => []
  | .commitPending _ => []
  | .pendingAck _ _ => []
  | .stagedMerge _ => []
  | .discardAck _ _ => []
  | .homeAccess _ => []
  | .memorySideAtomic _ => []
  | .wayMove _ => []
  | .scrubLine _ _ => []
  | .scrubRateEval _ _ _ => []
  | .pageWalk _ _ _ _ => []
  | .faultDelivery _ => []
  | .pendingRecordDelivery _ => []
  | .coachHeld _ => []
  | .preT1Expiry _ _ => []
  | .preT2Expiry _ _ => []
  | .mmaBoundaryTimeout _ => []
  | .copyCommandStart _ => []
  | .beatIssue _ => []
  | .beatAck _ => []
  | .matrixOpStart _ => []
  | .matrixOpComplete _ => []
  | .katFloorTest _ _ => []
  | .vectorStart _ => []
  | .vectorRetire _ => []
  | .deferWriteAck _ => []
  | .watchdogExpiry _ => []
  | .idleFlit _ _ => []
  | .lackFlit _ _ => []
  | .flitDiscard _ _ => []
  | .reservedFlit _ _ => []
  | .rowFlit _ _ => []
  | .readFlit _ _ => []
  | .writeFlit _ _ => []
  | .writepFlit _ _ => []
  | .atomicFlit _ _ => []
  | .readrspFlit _ _ => []
  | .wrackFlit _ _ => []
  | .atomrspFlit _ _ => []
  | .nackFlit _ _ => []
  | .cqcredFlit _ _ => []
  | .cqcloseFlit _ _ => []
  | .pullFlit _ _ => []
  | .pageFlit _ _ => []
  | .refuseFlit _ _ => []
  | .ackProgressTimeout _ => []
  | .retrainDone _ => []
  | .retrainTimeout _ => []
  | .creditReturnTimeout _ => []
  | .flitHoldTimeout _ => []
  | .circuitSlot _ _ _ => []
  | .slotTableUpdate _ => []
  | .requestResend _ => []
  | .duplicateFullResend _ => []
  | .remoteGiveUp _ => []
  | .duplicateEntryExpiry _ _ => []
  | .cqTimeout _ _ => []
  | .hostRead _ _ _ => []
  | .hostWrite _ _ _ _ => []
  | .hostCompletion _ _ _ => []
  | .completionTimeout _ => []
  | .pxdone _ _ => []
  | .proxyTimeout _ => []
  | .frcons _ _ => []
  | .loadRequest _ _ => []
  | .loadDone _ _ => []
  | .migrationExport _ => []
  | .migrationImport _ => []
  | .migrationRelease _ => []
  | .migrationClear _ => []
  | .pullResend _ => []
  | .migrationLoss _ => []
  | .memoryWayWrite _ _ => []
  | .allotmentWrite _ _ _ => []
  | .repadd _ _ => []
  | .cocoonBlockWrite _ => []
  | .weightBlockWrite _ => []
  | .routeBlockWrite _ => []
  | .sliceBlockWrite _ => []
  | .strandTableWrite _ => []
  | .watchpointWrite _ => []
  | .retrainWrite _ => []
  | .controlStructureWrite _ => []
  | .energyCharge _ _ _ => []
  | .energyRefill => []
  | .thermalSample _ _ => []
  | .coldReset => []
  | .warmReset => []
  | .attest => []
  | .undefWord _ => []
  | .katFloorFreeze _ _ => []

/-- An answer of the decoder without its reason. -/
def decoded (r : Except DecodeError Instr) : Option Instr :=
  match r with
  | .ok i => some i
  | .error _ => none

/-- An engine's map assigns the words. -/
def assigns (e : Engine) (ws : List IWord) : Bool :=
  match ws with
  | [] => false
  | w :: rest =>
    match idCode w with
    | some _ => e != .dray || tokOf w == Tok.none
    | none => (decoded (decodeMain e w rest)).isSome

/-- The words of a number: word 0 in bits 31:0, then upwards; three words hold the longest instruction. -/
def wordsOfNat (w : Nat) : List IWord :=
  [BitVec.ofNat 32 w, BitVec.ofNat 32 (w / 2 ^ 32), BitVec.ofNat 32 (w / 2 ^ 64)]

/-- The engine of a table word. The K, X and L/S maps share words (R12); the K map is tried first, then X,
then L (log entry 4). -/
def tableEngine (nbits w : Nat) : Option Engine :=
  [Engine.k, .x, .l].find? (fun e => assigns e (wordsOfNat (w % 2 ^ nbits)))

/-- The instruction of a table word. -/
noncomputable def decodeTableWord (nbits w : Nat) : Option Instr :=
  match tableEngine nbits w with
  | some e => decoded (decode e (wordsOfNat (w % 2 ^ nbits)))
  | none => none

end Sys2Proof
end

