-- ==== Sys2Proof/Config.lean ====
section
/-! DEFINITION. Config: what the manual leaves open, as constants without a body. Nothing in Lean can
evaluate one, so a statement about the machine holds whatever they are. Each has a log entry. -/

namespace Sys2Proof.Config

/-- Nanoseconds of timestamp time that pass during step n of the machine (clock counts are left out of the
model, R4; log entry 5). -/
opaque stepTime : Nat → Word

/-- Core clocks that pass during step n of the machine (R128; log entry 5). -/
opaque stepClocks : Nat → Word

/-- A value the manual does not state, number n of the run (log entry 6). -/
opaque freeWord : Nat → Word

/-- The walk level that FPROG names for a TVA from 2^56 on, which no walk has begun with (R328; log entry 153). -/
opaque rangeLevel : (tva : Nat) → BitVec 3

/-- Whether a walk of step n uses the walk cache's copy of the table entry at an address (R246; log entry 158). -/
opaque walkHit : (step at_ : Nat) → Bool

/-- Choice number n between two outcomes the manual allows (log entry 6). -/
opaque freeBit : Nat → Bool

/-- Word i of the native code that the loader generates for a chain whose commands have the given
digest, for stream 0 K, 1 L, 2 X, 3 S (R394: native code carries no promise; log entry 7). -/
opaque loaderCode : (digest : Nat) → (stream index : Nat) → BitVec 32

/-- Length in words of the code that the loader generates for each stream (R394; log entry 7). -/
opaque loaderLen : (digest : Nat) → (stream : Nat) → Nat

/-- The tile registers that the generated code declares (R145; log entry 7). -/
opaque loaderTiles : (digest : Nat) → BitVec 16

/-- Whether a Falcon-1024 signature over a digest verifies under a public key (R398, R449; log entry 8).
The manual names the scheme and gives no algorithm. -/
opaque falconVerifies : (key signature digest : List (BitVec 8)) → Bool

/-- The security engine's signature over an attestation digest (R453; log entry 8). -/
opaque falconSign : (digest : List (BitVec 8)) → List (BitVec 8)

/-- The version and the SHAKE256 digest of the firmware image of module flash, whether that image passes the checks of
R449 step 2, and its bytes: what step 3 copies into a die's private memory (log entry 9). -/
opaque firmwareVersion : BitVec 32
opaque firmwareDigest : List (BitVec 8)
opaque imageAuthentic : Bool
opaque firmwareByte : (addr : Nat) → BitVec 8

/-- Whether something that is due at step n, the k-th of all that is, takes its turn now (log entry 3). -/
opaque dueNow : (step k : Nat) → Bool

/-- Whether the array of a quadrant computes the test tile of step n wrongly (R376; log entry 3). -/
opaque arrayFaulty : (step quad : Nat) → Bool

/-- The partial sums, the skew registers and the clock phase that number n of the array's rows leaves in a quadrant: the
manual names them and gives no clock by clock account of the array (R205, R207; log entry 144). -/
opaque arraySums : Nat → BitVec 131072
opaque arraySkew : Nat → BitVec 65536
opaque arrayPhase : Nat → BitVec 16

/-- The part's fused serial number and rollback count (R453; log entry 9). -/
opaque fusedSerial : Word
opaque rollbackCount : Word

/-- The stepping that leaf 0 of QFEAT reports (R348; log entry 9). -/
opaque stepping : BitVec 8

/-- The instruction features that the part implements, leaf 1 of QFEAT, is all of them (R348: bits 0-18).
A part may implement fewer; this model has every one (log entry 10). -/
def featuresImplemented : Word := 0x7FFFF#64

end Sys2Proof.Config
end

