-- ==== Sys2Proof/Machine/State.lean ====
section
/-! DEFINITION. State: everything the manual gives the part, as plain data, and the machine after a cold
reset. INVENTORY.md lists each piece with its rule and its reset value. Numbers: a quadrant is
die x 128 + quadrant of the die (R339); a core is quadrant div 4; a cluster is quadrant div 16. -/

namespace Sys2Proof.Machine

/-- Why the machine stops with a fault. Every fault of the manual is a next state (the thread stops and a
record is routed), so only one case is left. -/
inductive Fault where
  /-- Raised by `exec` when a word is to run on a thread that is not bound or not live. No step of the
  machine does that: `step` runs words only on live threads. Safe: the model stops, and no value is made up. -/
  | noIssuer
deriving DecidableEq, Repr

/-- Why the machine has no meaning for a step. -/
inductive Refusal where
  /-- Raised by the dispatcher for an instruction that has no meaning yet. Safe. -/
  | notModelled (mnemonic : String)
  /-- Raised by a device access whose DPA lies in the MMIO aperture (R327): the manual places doorbell,
  mailbox and management pages there and gives no offsets inside the aperture. Safe. -/
  | mmioLayout
deriving DecidableEq, Repr

/-- A sparse map: keys strictly rising, and no entry equal to what an unlisted key reads as. -/
abbrev SMap (α : Type) := List (Nat × α)

/-- Memory: bytes by address in the canonical form of `SMap`. -/
abbrev Memory := List Host.Cell

/-- An open hardware loop (R107). -/
structure LoopEntry where
  start     : Word
  stop      : Word
  remaining : Word
deriving DecidableEq, Repr

/-- What a parked strand or stalled stream waits for (R94, R122). -/
inductive Wait where
  | token (src : Nat)
  | owed (dst : Nat)
  | join (strand : Nat)
  | others
  | semaphore (sem : Nat)
  | event (mask : BitVec 4) (limit : Option (Word × Word))
  | barrier (handle : Nat)
  | fence
  | tfence
  | matrixQueue (n : Nat)
  | copyQueue (n : Nat)
  | vectorUnit
  | checker
  | scalarResult (reg : Nat)
  | preciseOp (op : Nat)
  | gate (slice gate : Nat) (bound : Word)
  | home (req : Nat)
  | pendingLine (line : Nat)
  | page (slice page : Nat)
  | walk (cluster slice page : Nat)
  | remote (tag : Nat)
  | host (id : Nat)
  | proxy (index : Nat)
  | frame (die : Nat)
  | divide
deriving DecidableEq, Repr

/-- Run state of a thread (R91, R99). -/
inductive RunState where
  | idle
  | ready
  | parked (w : Wait)
  | stopped (level : Nat)
deriving DecidableEq, Repr

/-- State of a strand, or of the single thread of another stream (R91). `popped` is the selector of the token
that the current word has taken while it waits (0 none), `granted` a semaphore grant, `since` when the wait
began, `snaps` and `arrived` the barrier snapshots (R238), `skip` the skip latch (R383), `reply` the bytes that
have come back for the current word, `hostLast` for each path the function and address of the last posted host write that no
read has flushed (R315), `late` the tile rows whose old values a VATOM has so far received poisoned (R178). `begun` says that the
word has passed its checks and waits in the midst of its execution (R45). `behind` names the posted writes of other agents that
happen before the thread's next access and have not performed (R319); `strict` says that it has acquired at CLUSTER scope or
wider and reads no pending byte of another agent any more (R320). -/
structure Strand where
  regs     : SMap Word
  poison   : BitVec 16
  pc       : Word
  loops    : List LoopEntry
  latch    : BitVec 4
  epc      : Word
  fcode    : Word
  faddr    : Word
  fprog    : Word
  run      : RunState
  frozen   : Bool
  popped   : Nat
  granted  : Bool
  since    : Word
  lastTime : Word
  snaps    : SMap (Option (BitVec 16))
  arrived  : Bool
  skip     : Bool
  reply    : List Byte
  replyPoison : Bool
  hostLast : SMap (Nat × Nat)
  late     : BitVec 32
  begun    : Bool
  behind   : List Nat
  strict   : Bool
deriving DecidableEq, Repr

/-- State of a stream (R91, R96, R98). `codeBase` and `codeLen` are its code range (R13), `divider` the threads whose divides
its divider serves, in issue order (R105). -/
structure Stream where
  trapen   : BitVec 9
  flags    : BitVec 9
  seed     : Word
  calls    : BitVec 32
  lnr      : Bool
  en       : Bool
  idx      : SMap Word
  codeBase : Nat
  codeLen  : Nat
  last     : Nat
  divider  : List Nat
deriving DecidableEq, Repr

/-- A descriptor (R139). -/
structure Desc where
  w0 : Word
  w1 : Word
  w2 : Word
  w3 : Word
deriving DecidableEq, Repr

/-- The typed stores that the range checker orders (R147). -/
inductive Buf where
  | abuf | wbuf | acc | glatch | tile
deriving DecidableEq, Repr

/-- One extent of a range-checker entry (R147). -/
structure Extent where
  buf  : Buf
  lo   : Nat
  len  : Nat
  rd   : Bool
  wr   : Bool
deriving DecidableEq, Repr

/-- A fault record (R374). `level` is its handling level once it has been delivered (R341), 3 before. -/
structure FaultRec where
  handle  : BitVec 24
  epc     : BitVec 17
  cls     : Nat
  overrun : Bool
  frozen  : Bool
  info    : Bool
  eng     : Bool
  code    : BitVec 16
  faddr   : Word
  fprog   : Word
  vtag    : BitVec 16
  slice   : Nat
  domain  : Nat
  time    : Word
  level   : Nat
deriving DecidableEq, Repr

/-- A record on its way: the level it is for (0-63 slice, 64-79 domain, 80 operator), the die it stands
on, and whether it has been tried and waits for room (R338). -/
structure PendingRec where
  id      : Nat
  body    : FaultRec
  level   : Nat
  die     : Nat
  waiting : Bool
deriving DecidableEq, Repr

/-- An instruction of the vector unit (R161) with what it captured at issue; `loops` is the loop stack before it, for a word
that is withdrawn (R164). -/
structure VecOp where
  ins     : Instr
  desc    : Desc
  sval    : Word
  spois   : Bool
  pc      : Word
  push    : Nat
  seq     : Nat
  extents : List Extent
  started : Bool
  loops   : List LoopEntry
deriving DecidableEq, Repr

/-- An entry of the deferral queue (R180): a VDEFER with its snapshot. `progress` is the first vector not wholly
acknowledged, `sent` counts the pieces of its writes that have set out, `poison` the poisoned rows of the snapshot, `hit` the
watchpoint that a write of this vector has hit: FADDR, and the bits of FPROG above those of the access. -/
structure DeferEntry where
  seq      : Nat
  tile     : BitVec 6
  lanes    : Nat
  desc     : Desc
  base     : Word
  pc       : Word
  push     : Nat
  cells    : SMap (BitVec 32)
  active   : BitVec 1024
  poison   : BitVec 32
  progress : Nat
  sent     : Nat
  page     : Option Nat
  hit      : Option (Word × Word)
deriving DecidableEq, Repr

/-- A weight set held in the array (R189, R192): elements as raw bits by k x 256 + n, E8M0 scales by
block x 256 + n. -/
structure WeightSet where
  family : BitVec 3
  kw     : Nat
  nw     : Nat
  ty     : Nat
  scaled : Bool
  elems  : SMap (BitVec 16)
  scales : SMap (BitVec 8)
  poison : Bool
deriving DecidableEq, Repr

/-- An entry of the matrix queue (R188) with its captured operands (R186). `source`: 0 X, 1 L, 2 S; `iword` is its word, `phase` the array clock phase at
which it stands (R207). -/
structure MatOp where
  iword   : IWord
  op      : Nat
  family  : BitVec 3
  a       : Desc
  b       : Desc
  c       : Desc
  scale   : Desc
  hasB    : Bool
  pc      : Word
  push    : Nat
  source  : Nat
  seq     : Nat
  extents : List Extent
  started : Bool
  done    : Bool
  progress : Nat
  flags   : BitVec 9
  set     : Option WeightSet
  phase   : BitVec 16
deriving DecidableEq, Repr

/-- A cached translation (R246), in a cluster's TLB or in the micro-TLB of a quadrant of it: its first page, the size of its
stage-1 leaf, its SPA with the stage-2 leaf's size and fields, and its DPA; it covers the smaller leaf. Clusters 0-31 are the
coaches', 32-35 the dies' Dray cores and loaders. -/
structure TlbEntry where
  quad    : Option Nat := none
  cluster : Nat
  slice   : Nat
  domain  : Nat
  tva     : Nat
  size1   : Nat
  spa     : Nat
  size2   : Nat
  dpa     : Nat
  attr    : Nat
  rd      : Bool
  wr      : Bool
  rd2     : Bool
  wr2     : Bool
  dirty   : Bool
  leaf2   : Nat
deriving DecidableEq, Repr

/-- A walk of a cluster for a miss of a quadrant (R247): the page of a slice, and the access that missed. It is queued, or
`running` in a walker, or it has `ended` without a translation; `ue` marks an uncorrectable error in its walker (R248). -/
structure Walk where
  cluster : Nat
  quad    : Nat
  slice   : Nat
  page    : Nat
  kind    : AccessKind
  running : Bool
  ended   : Bool
  ue      : Bool
deriving DecidableEq, Repr

/-- A table entry in the walk cache of a cluster: the address it was read at, what it holds and where it lies, and the addresses
that it leads on from. -/
structure WalkCached where
  cluster : Nat
  stage2  : Bool
  slice   : Nat
  domain  : Nat
  at_     : Nat
  entry   : Word
  loc     : Nat
  base    : Nat
  size    : Nat
deriving DecidableEq, Repr

/-- A piece of memory that a beat writes: its address and length as the command names it, and, once it is `ready`, where
its translation leads. -/
structure OutPiece where
  tva     : Nat
  len     : Nat
  ready   : Bool
  dpa     : Nat
  memSide : Bool
  entry   : Option TlbEntry
deriving DecidableEq, Repr

/-- A beat that has been issued and is not yet behind the command's progress (R211): its number, first byte and length in
the element bytes of its destination row, the index row it moves (R221), the source pieces it has still to ask for, the
bytes still to come, those that have come by source address, the writes it makes, whether they have set out, and its
failure: code, FADDR and the bits of FPROG above OP. `mark` is the ROWSEQ of a queue row sent, `page` a page it waits
for. -/
structure Beat where
  num   : Nat
  pos   : Nat
  count : Nat
  row   : Nat
  todo  : List (Nat × Nat)
  want  : Nat
  got   : List (Nat × Byte)
  pois  : Bool
  out   : List OutPiece
  wrote : Bool
  acked : Bool
  fail  : Option (BitVec 16 × Word × Word)
  mark  : BitVec 32
  page  : Option Nat
deriving DecidableEq, Repr

/-- A command of the copy queue (R208) with its captured operands. `stream`: 1 L, 3 S. `pos` is the next destination byte to
issue, `index` the row whose index has been read and the index (R221), `near` the neighbour quadrant that a NABUF source
named at acceptance (R244). -/
structure CopyCmd where
  ins      : Instr
  op       : Nat
  dst      : Desc
  src      : Desc
  list     : Desc
  pol      : BitVec 32
  cval     : Word
  cpoison  : Bool
  count    : Nat
  pc       : Word
  push     : Nat
  stream   : Nat
  seq      : Nat
  extents  : List Extent
  started  : Bool
  pos      : Nat
  nextBeat : Nat
  beats    : List Beat
  follow   : Option MatOp
  endp     : Nat
  noDst    : Bool
  index    : Option (Nat × Nat)
  near     : Option Nat
deriving DecidableEq, Repr

/-- A hash state (R223): the sponge of FIPS 202, its rate position and its poison. -/
structure HashState where
  lanes  : BitVec 1600
  pos    : Nat
  poison : Bool
deriving DecidableEq, Repr

/-- A carriage endpoint (R418), its peer handle and the node that it names. `rows` holds (ROWSEQ, row): for receive, landed and not taken; for send,
sent and not reported landed. `mark` is rows taken (receive) or rows reported landed (send). `accepted` is the state
that the commands accepted so far will leave: 0 unbound, 1 send, 2 receive (R419). `downOp` is the operation that waited
when the last circuit was lost, `waitFrom` and `waited` time the present wait (R425). -/
structure Endpoint where
  bound   : Bool
  recv    : Bool
  handle  : Nat
  peer    : Nat
  circA   : BitVec 16
  circB   : BitVec 16
  liveA   : Bool
  liveB   : Bool
  next    : BitVec 32
  mark    : BitVec 32
  rows    : List (BitVec 32 × BitVec 2048)
  credits : Nat
  closed  : Bool
  final   : BitVec 32
  broken  : Bool
  accepted : Nat
  downOp  : Option Nat
  waitFrom : Option Word
  waited  : Word
deriving DecidableEq, Repr

/-- Where a bound coach stands (R253). -/
inductive CoachPhase where
  | loading
  | running
  | between
deriving DecidableEq, Repr

/-- A bound coach (R91, R132). `spm` holds the LDSP and STSP that the range checker has accepted and that wait:
thread part, acceptance number, extent; `vatom` is what a VATOM between its lanes read at issue, its descriptor and its shift (R41); `past` what the tokens of each FIFO have released: the posted writes of the stores that
pushed them (R316). The task has held its coach for `clocks` core clocks and those since
`boundAt` (R128). `held` is the rung whose stop point it reached, while it is held (R353). The launch uses `useA`, `useW` and
`useC` bytes of ABUF, WBUF and ACC (R251). `stopAt` is when its streams stopped issuing under a pre-emption (R355);
its quadrant time is in the share window up to `tallied` (R260). -/
structure Coach where
  quad      : Nat
  shape     : BitVec 2
  slice     : Nat
  tag       : Nat
  point     : Nat
  temporal  : Nat
  phase     : CoachPhase
  args      : Word
  strands   : SMap Strand
  sk        : Stream
  sl        : Stream
  sx        : Stream
  ss        : Stream
  descs     : SMap Desc
  fifo      : SMap Nat
  owed      : SMap Nat
  semView   : SMap (BitVec 16)
  barView   : SMap (BitVec 8)
  ends      : SMap Endpoint
  maskSel   : BitVec 3
  resume    : BitVec 10
  spx       : Bool
  iov       : Bool
  retired   : Word
  unit      : List VecOp
  defer     : List DeferEntry
  deferPark : Option FaultRec
  deferFrozen : Bool
  matq      : List MatOp
  matPark   : Option FaultRec
  matFrozen : Bool
  froze     : Bool
  setA      : Option WeightSet
  setB      : Option WeightSet
  activeB   : Bool
  flip      : Bool
  kat       : Option Word
  copyq     : List CopyCmd
  copyPark  : Option FaultRec
  copyFrozen : Bool
  hashL     : HashState
  hashS     : HashState
  held      : Option Nat
  frozen    : Bool
  nextSeq   : Nat
  spm       : List (Nat × Nat × Extent)
  vatom     : Option (Desc × Word)
  past      : SMap (List Nat)
  clocks    : Word
  boundAt   : Word
  useA      : Nat
  useW      : Nat
  useC      : Nat
  stopAt    : Option Word
  tallied   : Word
deriving DecidableEq, Repr

/-- A quadrant's own state (R131, R138, R143, R149). Buffers are bytes from offset 0, poison by 256-byte
row; tile cells by tile x 1024 + row x 32 + column; tile poison by tile x 32 + row. `semSlice` is the slice whose semaphore
counts stand here, `stale` the counts that an earlier slice left, `semPast` the posted writes that each semaphore's Vs have
released (R316). `sums` holds the 64 x 64 partial sums of the array and
`skew` its operand skew registers (R205, R207). `defect` is what a fault of the array, which comes from outside, changes in
its known-answer checksum: 0 for a sound array (R199, R376). -/
structure Quadrant where
  abuf      : SMap Byte
  wbuf      : SMap Byte
  acc       : SMap Byte
  glatch    : SMap Byte
  pAbuf     : SMap Bool
  pWbuf     : SMap Bool
  pAcc      : SMap Bool
  pGlatch   : SMap Bool
  tiles     : SMap (BitVec 32)
  pTile     : SMap Bool
  masks     : SMap (BitVec 1024)
  pMask     : BitVec 8
  sems      : SMap (BitVec 16)
  stale     : BitVec 32
  semWait   : List (Nat × ThreadId)
  semPast   : SMap (List Nat)
  planeA    : SMap IWord
  planeB    : SMap IWord
  ownerA    : Option Nat
  ownerB    : Option Nat
  activeB   : Bool
  swap      : Bool
  quarantined : Bool
  mustPass  : Bool
  lastSlice : Option Nat
  semSlice  : Option Nat
  lastKat   : Word
  sums      : BitVec 131072
  skew      : BitVec 65536
  defect    : Word
deriving DecidableEq, Repr

/-- States of a commit-table entry (R287). -/
inductive TagState where
  | free | running | pending | committed | aborting | irrev
deriving DecidableEq, Repr

/-- A commit-table entry (R285, R287). -/
structure TagEntry where
  st  : TagState
  gen : BitVec 4
deriving DecidableEq, Repr

/-- A fire-on-commit record held by a launch (R264, R265). -/
inductive HeldRec where
  | launch (slice queue : Nat) (w0 w1 w2 w3 : Word) (by_ : ThreadId)
  | notify (slice queue : Nat) (by_ : ThreadId)
  | gateAdd (slice gate : Nat) (val : Word) (by_ : ThreadId)
deriving DecidableEq, Repr

/-- A taken and unretired launch (R249, R256, R285, R287). `promoting` says that it is between the two phases of its promotion
(R300); `code` is its code image as the slot read it, `retryAt` the time
from which a record that waits is appended again (R468). -/
structure Launch where
  tag      : Nat
  die      : Nat
  slot     : Nat
  slice    : Nat
  queue    : Nat
  ringIdx  : Nat
  lnr      : Word
  hdr      : List Word
  args     : Word
  age      : Word
  attempt  : Nat
  opened   : Bool
  irrev    : Bool
  promoting : Bool
  ready    : Bool
  started  : BitVec 4
  held     : List HeldRec
  claims   : List (Nat × Nat)
  runs     : List (Nat × Nat)
  acks     : BitVec 4
  cause    : BitVec 16
  other    : BitVec 16
  user     : BitVec 13
  reported : Bool
  retryAt  : Word
  code     : List IWord
deriving DecidableEq, Repr

/-- A walker's launch entry (R365). -/
structure WalkEntry where
  die   : Nat
  tag   : Nat
  next  : Nat
  total : Nat
  saved : Nat
  bound : Nat
deriving DecidableEq, Repr

/-- A hardware queue slot (R256, R258): the launches that it has taken, in ring order, with 4096 for one that has retired
behind an unretired one; the ring index of the first of them; and TAIL as the slot last read it. `told` says that it has
reported that it cannot use its queue, and waits for a notify (R468); `noTag` that it waits for a tag (R285). -/
structure Slot where
  queue  : Option (Nat × Nat)
  pinned : Bool
  taken  : List Nat
  head   : BitVec 32
  tail   : BitVec 32
  told   : Bool
  noTag  : Bool
deriving DecidableEq, Repr

/-- A line that a launch of a slice has staged under a version tag (R288, R300); `way` is the cocoon way that holds it, 0 where it lies in the overflow area (R269); `evict` is the eviction class it takes at commit (R275), `leaf` where
its page's stage-2 leaf lies (R442). -/
structure Staged where
  line     : Nat
  tag      : Nat
  slice    : Nat
  data     : BitVec 512
  mask     : BitVec 64
  pending  : Bool
  committed : Bool
  overflow : Bool
  way      : Nat
  evict    : Nat
  leaf     : Option Nat
deriving DecidableEq, Repr

/-- Who is told when a posted write has been applied: nobody, the thread that waits, the stream of a store, or a copy
beat or a vector of a VDEFER (by the operation's number). -/
inductive AckTo where
  | nobody
  | thread
  | store
  | beat (seq num : Nat)
deriving DecidableEq, Repr

/-- Operations of the atomics (R116, R178). -/
inductive AtomOp where
  | add | and | or | xor | swp | cas | min | max | minu | maxu | fadd | fmin | fmax
deriving DecidableEq, Repr

/-- An atomic on its way to its home: its size, byte offset in the line, operand and compare value, semantics (1 acquire, 2
release, 3 both) and scope. -/
structure HomeAtom where
  op    : AtomOp
  bytes : Nat
  off   : Nat
  v     : Nat
  cmp   : Nat
  sem   : Nat
  scope : Nat
deriving DecidableEq, Repr

/-- A posted write of one line on its way to its home, to another part or to the host (R113, R288, R310, R311), or an atomic
that waits there. `tag` is the launch attempt it belongs to; `direct` says that it is escaping (R292); a request with an empty
mask stands for a parked access. `path` is 0 P, 1 C, 2 M, 3 A, 4 Q (R308); `tva` the address of byte 0 of the line as its issuer
named it. `near` says that its bytes stand in its core's L1 (R312), `after` names the posted writes of other agents that happen
before it (R319). -/
structure HomeReq where
  id       : Nat
  by_      : ThreadId
  tag      : Option (Nat × BitVec 4)
  slice    : Nat
  line     : Nat
  data     : BitVec 512
  mask     : BitVec 64
  cls      : Nat
  memSide  : Bool
  direct   : Bool
  release  : Option Nat
  ack      : AckTo
  path     : Nat
  evict    : Nat
  leaf     : Option Nat
  tva      : Word
  atom     : Option HomeAtom
  near     : Bool
  after    : List Nat
deriving DecidableEq, Repr

/-- A request that waits at its home on the launches that own its bytes (R294, R296), each named by its version
tag, or for room (R300); `roomOwner` tells how. -/
structure WaitReq where
  req    : HomeReq
  owners : List Nat
  since  : Word
deriving DecidableEq, Repr

/-- A line in a cache way of its home slice (R269, R275); lists are kept most recently used first. -/
structure CacheLine where
  line  : Nat
  way   : Nat
  cls   : Nat
  dirty : Bool
deriving DecidableEq, Repr

/-- A line of a core's scalar data cache, in the ways of a quadrant: the launch whose tag it carries, its bytes and the poison of
each (R151). -/
structure L1Line where
  quad : Nat
  line : Nat
  tag  : Option Nat
  data : BitVec 512
  pois : BitVec 64
deriving DecidableEq, Repr

/-- A Dray strand: its thread and its own stream state (R91, R126). -/
structure DrayStrand where
  th : Strand
  st : Stream
deriving DecidableEq, Repr

/-- A pre-emption request on one die for one slice (R354, R355): when it began, and its timers in microseconds. -/
structure PreReq where
  die    : Nat
  slice  : Nat
  began  : Word
  t1     : Nat
  t2     : Nat
deriving DecidableEq, Repr

/-- A PRE whose strand is still to be told: the strand's die and number, the slice and the dies that it named (R358). -/
structure PreWait where
  die    : Nat
  strand : Nat
  slice  : Nat
  dies   : List Nat
deriving DecidableEq, Repr

/-- State of one die outside its coaches. `rows` holds circuit rows that wait at an output (R415): table,
input, time of arrival, flit. `holder` tells which slice last held a 64 KiB unit of the staging ways (R276), as the
slice's number + 1. `scans` holds the scans of the Dray that are to run: for a slot that has become free, or for a queue that a
notify has made pending while a slot was free, as slice and queue (R258). -/
structure Die where
  pm        : SMap Byte
  pmPoison  : SMap Bool
  strands   : SMap DrayStrand
  slots     : SMap Slot
  scans     : List (Option (Nat × Nat))
  moves     : List (Nat × Nat)
  ways      : SMap Nat
  lastSlice : Nat
  turns     : SMap Nat
  winStart  : Word
  winTime   : SMap Word
  katEvery  : Nat
  katFamily : BitVec 3
  katNext   : Nat
  slotTab   : SMap (BitVec 32)
  slotNew   : List (Nat × Nat × BitVec 32 × Nat)
  watchLost : Bool
  scrubBoost : SMap Nat
  rows      : List (Nat × Nat × Word × Flit)
  holder    : SMap Nat
deriving DecidableEq, Repr

/-- Replay and credit state of one link port (R409, R410): `queue` holds flits that wait to be sent, each with
the time it came, `out` what has gone out on the link. `res` is by domain x 8 + channel; it holds the credits
in use. -/
structure Port where
  txSeq   : BitVec 12
  rxSeq   : BitVec 12
  nakOpen : Bool
  naks    : Nat
  nakSeq  : BitVec 12
  replay  : List Flit
  queue   : List (Word × Flit)
  res     : SMap Nat
  sh      : Nat
  shu     : SMap Nat
  owed    : SMap Nat
  progress : Word
  out     : List Flit
deriving DecidableEq, Repr

/-- Who waits for a remote or host reply: a parked thread, a posted store (its agent, its class and its request number), a flush
of posted host writes, a copy beat, or the sender of an incoming remote request. -/
inductive Requester where
  | thread (th : ThreadId)
  | store (th : ThreadId) (cls id : Nat)
  | flush (th : ThreadId)
  | beat (quad seq num : Nat)
  | remote (port : Nat) (fl : Flit)
deriving DecidableEq, Repr

/-- An outstanding request to another part (R428); the bytes from `off` on of its reply are wanted, `len` of
them. -/
structure RemoteReq where
  tag     : Nat
  fl      : Flit
  who     : Requester
  tva     : Word
  off     : Nat
  len     : Nat
  die     : Nat
  first   : Word
  last    : Word
  resent  : Bool
  full    : Bool
deriving DecidableEq, Repr

/-- An entry of a source node's duplicate table (R429). -/
structure DupEntry where
  node  : Nat
  tag   : Nat
  reply : Flit
  at_   : Word
deriving DecidableEq, Repr

/-- An outstanding non-posted access to the host (R437), or a pending proxy entry (R439). -/
structure HostReq where
  id     : Nat
  who    : Requester
  tva    : Word
  addr   : Nat
  bytes  : Nat
  op     : Nat
  operand : Word
  compare : Word
  policy : Bool
  fn     : Nat
  since  : Word
  written : Bool
deriving DecidableEq, Repr

/-- What the part puts on the host port (R431), oldest first; the host takes it. -/
inductive HostMsg where
  | memWrite (fn addr bytes : Nat) (data : BitVec 512)
  | memRead (id fn addr bytes : Nat)
  | atomicOp (id fn addr bytes op : Nat) (operand compare : Word)
  | completion (fn : Nat) (status : HostStatus) (data : BitVec 512) (poison : Bool)
  | vector (fn vec : Nat)
deriving DecidableEq, Repr

/-- A function's control page (R434) and freeze (R341). -/
structure FnPage where
  fr     : Word
  cons   : BitVec 32
  prod   : BitVec 32
  px     : Word
  pxProd : BitVec 32
  pslice : Word
  frozen : Bool
deriving DecidableEq, Repr

/-- States of a weight-set copy (R399). -/
inductive CopyState where
  | empty | building | verified | active | draining | failed
deriving DecidableEq, Repr

/-- One copy of a weight set (R399, R401). A shard: offset, length, digest, passed. `fetches` are those of the shard being moved that
have failed. -/
structure WCopy where
  st     : CopyState
  base   : Nat
  units  : Nat
  shards : List (Nat × Nat × BitVec 256 × Bool)
  fetches : Nat := 0
deriving DecidableEq, Repr

/-- A weight set of a slice (R399). -/
structure WSet where
  slice  : Nat
  handle : Nat
  a      : WCopy
  b      : WCopy
deriving DecidableEq, Repr

/-- A latch of a graph on one copy (R402); `carried` counts launches returned by a migration (R446). -/
structure Latch where
  slice   : Nat
  args    : Word
  handle  : Nat
  copyB   : Bool
  carried : Nat
deriving DecidableEq, Repr

/-- A page pull in progress (R447). -/
structure Pull where
  die    : Nat
  domain : Nat
  slice  : Nat
  page   : Nat
  first  : Word
  last   : Word
  got    : BitVec 16
  data   : SMap (BitVec 2048)
  poison : BitVec 64
deriving DecidableEq, Repr

/-- An energy account (R456, R457). -/
structure Account where
  bal    : Int
  refill : BitVec 32
  ceil   : BitVec 32
  frac   : Nat
deriving DecidableEq, Repr

/-- The management interface (R451) and the clocks (R454). -/
structure Boot where
  state   : BitVec 4
  fdie    : BitVec 2
  fcode   : BitVec 16
  fwver   : BitVec 32
  attest  : Bool
  repaddr : Word
  nonce   : BitVec 256
  mhz     : Nat
  halted  : Bool
deriving DecidableEq, Repr

/-- A step that the part makes on its own, waiting for its turn; `Event.instr` (Step) gives the table's row. -/
inductive Event where
  | coldReset
  | timerEvent
  | energyRefill
  | strandReady (th : ThreadId)
  | waiteTimeout (th : ThreadId)
  | tokenTimeout (th : ThreadId)
  | barrierTimeout (th : ThreadId)
  | walkerPick (die : Nat)
  | loaderPlaneLoad (quad tag : Nat)
  | taskStart (quad : Nat)
  | taskDrain (quad : Nat)
  | shareWindow (die : Nat)
  | notifyEvent (slice queue : Nat)
  | slotTake (die slot : Nat)
  | slotScan (die : Nat)
  | launchReady (tag : Nat)
  | appendRetry (tag : Nat)
  | stageRequest (req : Nat)
  | conflictWaitApply (req : Nat)
  | waitCycleCheck (tag : Nat)
  | commitPending (tag : Nat)
  | pendingAck (tag die : Nat)
  | stagedMerge (tag : Nat)
  | discardAck (tag die : Nat)
  | homeAccess (req : Nat)
  | memorySideAtomic (req : Nat)
  | wayMove (die : Nat)
  | faultDelivery (id : Nat)
  | pendingRecordDelivery (id : Nat)
  | coachHeld (quad : Nat)
  | preT1Expiry (die slice : Nat)
  | preT2Expiry (die slice : Nat)
  | mmaBoundaryTimeout (quad : Nat)
  | copyCommandStart (quad : Nat)
  | beatIssue (quad : Nat)
  | beatAck (quad : Nat)
  | matrixOpStart (quad : Nat)
  | matrixOpComplete (quad : Nat)
  | vectorStart (quad : Nat)
  | vectorRetire (quad : Nat)
  | deferWriteAck (quad : Nat)
  | creditReturnTimeout (port : Nat)
  | requestResend (tag : Nat)
  | duplicateFullResend (tag : Nat)
  | remoteGiveUp (tag : Nat)
  | duplicateEntryExpiry (node tag : Nat)
  | cqTimeout (quad endp : Nat)
  | completionTimeout (id : Nat)
  | proxyTimeout (index : Nat)
  | loadDone (die slice : Nat)
  | pageWalk (cluster slice : Nat) (tva : Word) (kind : AccessKind)
  | slotTableUpdate (die : Nat)
  | pullResend (pull : Nat)
  | migrationLoss (slice : Nat)
  | loadRequest (die slice : Nat)
  | migrationExport (slice : Nat)
  | migrationImport (slice : Nat)
  | migrationRelease (slice : Nat)
  | migrationClear (slice : Nat)
  | attest
  | warmReset
  | retrainWrite (port : Nat)
  | katFloorTest (quad : Nat) (defect : Bool)
  | katFloorFreeze (quad : Nat) (defect : Bool)
  | ackProgressTimeout (port : Nat)
  | retrainTimeout (port : Nat)
  | flitHoldTimeout (held : Nat)
  | circuitSlot (die table slot : Nat)
  | energyCharge (slice : Nat) (cls : EnergyClass) (count : Nat)
  | pxdone (index : Nat) (w2 : Word)
deriving DecidableEq, Repr

/-- What an upset strikes (R370, R375): an HBM line, its copy in a cache way, a staged entry, a staging line by key, a granule of
a buffer or a row of a tile, a mask, a doubleword of private memory, a word of a plane, an entry of a TLB or of a walk cache, a
walk, a barrier, a semaphore, a slot, a tag, the datapath of a thread, the counters of a coach's copy queue, the array of a
coach, the source that a copy beat reads, or a posted write. -/
inductive Store where
  | hbm (line : Nat) (found : EccOutcome)
  | l2 (line : Nat)
  | staged (line tag : Nat)
  | l2s (key : Nat)
  | granule (quad : Nat) (b : Buf) (g : Nat)
  | mask (quad m : Nat)
  | privateMem (die a : Nat)
  | plane (quad : Nat) (b : Bool) (i : Nat)
  | tlb (i : Nat)
  | walkCache (i : Nat)
  | walk (i : Nat)
  | barrier (b : Nat)
  | semaphore (sem : Nat)
  | slot (die k : Nat)
  | tag (t : Nat)
  | datapath (th : ThreadId)
  | copyCounter (quad : Nat)
  | array (quad : Nat)
  | source (quad seq num : Nat)
  | posted (req : Nat)
deriving DecidableEq, Repr

/-- What the world outside the part does to it: a flit, or the bytes of one, arrives at a port or is found bad, a link has trained,
the host acts on a function, a scrub read or a sensor reports, a unit hangs, an upset strikes, the part is reset. -/
inductive Input where
  | flit (port : Nat) (fl : Flit)
  | badFlit (port : Nat) (crcBad : Bool)
  | frame (port : Nat) (f : BitVec 2240)
  | trained (port : Nat)
  | hostRead (fn off len : Nat)
  | hostWrite (fn off len : Nat) (data : BitVec 512)
  | hostCompletion (id : Nat) (status : HostStatus) (data : BitVec 512)
  | scrub (line : Nat) (found : EccOutcome)
  | scrubRate (stack tempC corrected : Nat)
  | thermal (junctionC powerW : Nat)
  | hang (unit : WatchUnit)
  | upset (x : Store)
  | warmReset
  | coldReset
deriving DecidableEq, Repr

/-- A request that a loader serves (R392), with the fields it began with. -/
structure LoadReq where
  die    : Nat
  slice  : Nat
  chain  : Nat
  out    : Nat
  max    : Nat
deriving DecidableEq, Repr

/-- The whole part. `stale` holds the bytes that HBM still has of lines whose newer bytes stand above it, `stalePois` the poison
that it has of them. `stalled` holds host and remote requests that wait for a page on its way (R447). `inputs` is what the outside has done and no step has taken in, oldest first; `dueAt` is the time at which the steps that are due were last listed; `notes` holds notifies
that have not been served: slice, queue and the die that acts on them (R257). -/
structure State where
  tsc      : Word
  dueAt    : Word
  clocks   : Word
  steps    : Nat
  free     : Nat
  cur      : ThreadId
  agenda   : List Event
  inputs   : List Input
  mem      : Memory
  stale    : Memory
  poison   : SMap Bool
  stalePois : SMap Bool
  cache    : List CacheLine
  repair   : List (Nat × Nat)
  eccSeen  : List (Nat × Word)
  l1       : List L1Line
  l2s      : SMap Byte
  l2sPoison : SMap Bool
  releases : SMap (ThreadId × Nat)
  homeq    : List HomeReq
  waiting  : List WaitReq
  nextReq  : Nat
  staged   : List Staged
  tags     : SMap TagEntry
  launches : List Launch
  notes    : List (Nat × Nat × Nat)
  walkers  : List WalkEntry
  gates    : SMap (BitVec 48)
  coaches  : List Coach
  quads    : SMap Quadrant
  bars     : SMap Word
  barOwner : SMap (BitVec 8)
  barError : SMap Bool
  tlb      : List TlbEntry
  walks    : List Walk
  walkTurn : SMap Nat
  walkCache : List WalkCached
  root1    : SMap Word
  root2    : SMap Word
  dies     : SMap Die
  rights   : SMap (BitVec 16)
  windows  : SMap (Word × Word)
  featO    : SMap Word
  featD    : SMap Word
  offsets  : SMap Word
  dieTab   : SMap (BitVec 8)
  coreTab  : SMap (BitVec 16)
  domTab   : SMap (BitVec 16)
  faults   : List PendingRec
  pres     : List PreReq
  preWaits : List PreWait
  ports    : SMap Port
  epoch    : BitVec 16
  known    : SMap (BitVec 16)
  remote   : List RemoteReq
  spent    : List (Nat × Nat × Word)
  nextTag  : Nat
  dups     : List DupEntry
  heldCq   : SMap Flit
  fns      : SMap FnPage
  hostReqs : List HostReq
  proxies  : List HostReq
  nextHost : Nat
  hostOut  : List HostMsg
  wsets    : List WSet
  latches  : List Latch
  pulls    : List Pull
  loads    : List LoadReq
  stalled  : List Input
  accounts : SMap Account
  domAccts : SMap Account
  boot     : Boot
deriving DecidableEq, Repr

/-! ## Reset

Values that the manual gives are cited; the others are the model's choice, log entry 1. -/

/-- A thread at task start (R92): registers zero, nothing poisoned, idle. -/
def Strand.start : Strand where
  regs := []
  poison := 0#16
  pc := 0#64
  loops := []
  latch := 0#4
  epc := 0#64
  fcode := 0#64
  faddr := 0#64
  fprog := 0#64
  run := .idle
  frozen := false
  popped := 0
  granted := false
  since := 0#64
  lastTime := 0#64
  snaps := []
  arrived := false
  skip := false
  reply := []
  replyPoison := false
  hostLast := []
  late := 0#32
  begun := false
  behind := []
  strict := false

/-- A stream at task start (R88, R92, R98). -/
def Stream.start : Stream where
  trapen := 0#9
  flags := 0#9
  seed := 0#64
  calls := 0#32
  lnr := false
  en := false
  idx := []
  codeBase := 0
  codeLen := 0
  last := 7
  divider := []

/-- A descriptor of zeros (R139). -/
def Desc.zero : Desc := { w0 := 0#64, w1 := 0#64, w2 := 0#64, w3 := 0#64 }

/-- The empty hash state (R223). -/
def HashState.empty : HashState := { lanes := 0#1600, pos := 0, poison := false }

/-- An unbound endpoint (R418, R423). -/
def Endpoint.unbound : Endpoint where
  bound := false
  recv := false
  handle := 0
  peer := 0
  circA := 0xFFFF#16
  circB := 0xFFFF#16
  liveA := false
  liveB := false
  next := 0#32
  mark := 0#32
  rows := []
  credits := 0
  closed := false
  final := 0#32
  broken := false
  accepted := 0
  downOp := none
  waitFrom := none
  waited := 0#64

/-- A quadrant after a cold reset (R138, R149): buffers zero, counts zero, no plane owner. -/
def Quadrant.reset : Quadrant where
  abuf := []
  wbuf := []
  acc := []
  glatch := []
  pAbuf := []
  pWbuf := []
  pAcc := []
  pGlatch := []
  tiles := []
  pTile := []
  masks := []
  pMask := 0#8
  sems := []
  stale := 0#32
  semWait := []
  semPast := []
  planeA := []
  planeB := []
  ownerA := none
  ownerB := none
  activeB := false
  swap := false
  quarantined := false
  mustPass := false
  lastSlice := none
  semSlice := none
  lastKat := 0#64
  sums := 0#131072
  skew := 0#65536
  defect := 0#64

/-- A free tag (R285, R287). -/
def TagEntry.reset : TagEntry := { st := .free, gen := 0#4 }

/-- A free slot (R258). -/
def Slot.reset : Slot :=
  { queue := none, pinned := false, taken := [], head := 0#32, tail := 0#32, told := false, noTag := false }

/-- A Dray strand after a cold reset (R267). -/
def DrayStrand.reset : DrayStrand := { th := Strand.start, st := Stream.start }

/-- A die after a cold reset: private memory at its reset contents, the KAT floor at 1,000 us (R378). -/
def Die.reset : Die where
  pm := []
  pmPoison := []
  strands := []
  slots := []
  scans := []
  moves := []
  ways := []
  lastSlice := 63
  turns := []
  winStart := 0#64
  winTime := []
  katEvery := 1000
  katFamily := 0#3
  katNext := 0
  slotTab := []
  slotNew := []
  watchLost := false
  scrubBoost := []
  rows := []
  holder := []

/-- A link port after a cold reset (R410): 8 reserved flits per domain and channel, 1,280 shared. -/
def Port.reset : Port where
  txSeq := 0#12
  rxSeq := 0#12
  nakOpen := false
  naks := 0
  nakSeq := 0#12
  replay := []
  queue := []
  res := []
  sh := 1280
  shu := []
  owed := []
  progress := 0#64
  out := []

/-- A function page after a cold reset (R434). -/
def FnPage.reset : FnPage where
  fr := 0#64
  cons := 0#32
  prod := 0#32
  px := 0#64
  pxProd := 0#32
  pslice := 0#64
  frozen := false

/-- An empty weight-set copy (R399). -/
def WCopy.reset : WCopy := { st := .empty, base := 0, units := 0, shards := [] }

/-- DEDUCED: a slice's account is created unmetered (R456), with the balance and the CEIL of R457's example, 0. Log
entry 131. -/
def Account.reset : Account := { bal := 0, refill := 0xFFFFFFFF#32, ceil := 0#32, frac := 0 }

/-- A domain's account is created unmetered, with the highest CEIL (R457). -/
def Account.resetDomain : Account := { Account.reset with ceil := 0xFFFFFFFF#32 }

/-- The management interface after a cold reset (R451), with clocks at 1.75 GHz (R4). -/
def Boot.reset : Boot where
  state := 0#4
  fdie := 0#2
  fcode := 0#16
  fwver := 0#32
  attest := false
  repaddr := 0#64
  nonce := 0#256
  mhz := 1750
  halted := false

/-- The part at power-up: every field at its Reset column, and the boot sequence of R449 as the first
step to run (log entry 2). -/
def State.reset : State where
  tsc := 0#64
  dueAt := 0#64
  clocks := 0#64
  steps := 0
  free := 0
  cur := .dray 0 0
  agenda := [.coldReset]
  inputs := []
  mem := []
  stale := []
  poison := []
  stalePois := []
  cache := []
  repair := []
  eccSeen := []
  l1 := []
  l2s := []
  l2sPoison := []
  releases := []
  homeq := []
  waiting := []
  nextReq := 0
  staged := []
  tags := []
  launches := []
  notes := []
  walkers := []
  gates := []
  coaches := []
  quads := []
  bars := []
  barOwner := []
  barError := []
  tlb := []
  walks := []
  walkTurn := []
  walkCache := []
  root1 := []
  root2 := []
  dies := []
  rights := []
  windows := []
  featO := []
  featD := []
  offsets := []
  dieTab := []
  coreTab := []
  domTab := []
  faults := []
  pres := []
  preWaits := []
  ports := []
  epoch := 0#16
  known := []
  remote := []
  spent := []
  nextTag := 0
  dups := []
  heldCq := []
  fns := []
  hostReqs := []
  proxies := []
  nextHost := 0
  hostOut := []
  wsets := []
  latches := []
  pulls := []
  loads := []
  stalled := []
  accounts := []
  domAccts := []
  boot := Boot.reset

end Sys2Proof.Machine
end

