-- ==== Sys2Proof/Machine/Maps.lean ====
section
/-! DEFINITION. Maps: reading and writing the sparse maps of the state. A map keeps its keys strictly
rising and lists no entry equal to its default, so that equal contents are equal data. -/

namespace Sys2Proof.Machine

/-- The value at a key; `d` says what an unlisted key reads as. -/
def SMap.get {α : Type} (d : Nat → α) (m : SMap α) (k : Nat) : α :=
  match m with
  | [] => d k
  | e :: m => if e.1 = k then e.2 else SMap.get d m k

/-- The map without a key. -/
def SMap.erase {α : Type} (m : SMap α) (k : Nat) : SMap α :=
  match m with
  | [] => []
  | e :: m => if e.1 = k then SMap.erase m k else e :: SMap.erase m k

/-- The map with one more entry, in its place. -/
def SMap.insert {α : Type} (m : SMap α) (k : Nat) (v : α) : SMap α :=
  match m with
  | [] => [(k, v)]
  | e :: m => if k < e.1 then (k, v) :: e :: m else e :: SMap.insert m k v

/-- Writing a value: the default is not listed. -/
def SMap.put {α : Type} [DecidableEq α] (d : Nat → α) (m : SMap α) (k : Nat) (v : α) : SMap α :=
  if v = d k then SMap.erase m k else SMap.insert (SMap.erase m k) k v

/-- The canonical form of a map. -/
def SMap.wf {α : Type} [DecidableEq α] (d : Nat → α) (m : SMap α) : Bool :=
  match m with
  | [] => true
  | [e] => decide (e.2 ≠ d e.1)
  | e :: f :: m => decide (e.2 ≠ d e.1) && decide (e.1 < f.1) && SMap.wf d (f :: m)

/-- Writing consecutive keys. -/
def SMap.putAll {α : Type} [DecidableEq α] (d : Nat → α) (m : SMap α) (k : Nat) (vs : List α) : SMap α :=
  match vs with
  | [] => m
  | v :: vs => SMap.putAll d (SMap.put d m k v) (k + 1) vs

/-- Reading consecutive keys. -/
def SMap.getAll {α : Type} (d : Nat → α) (m : SMap α) (k : Nat) (n : Nat) : List α :=
  match n with
  | 0 => []
  | n + 1 => SMap.get d m k :: SMap.getAll d m (k + 1) n

/-- Writing one value at consecutive keys. -/
def SMap.fill {α : Type} [DecidableEq α] (d : Nat → α) (m : SMap α) (k n : Nat) (v : α) : SMap α :=
  match n with
  | 0 => m
  | n + 1 => SMap.fill d (SMap.put d m k v) (k + 1) n v

/-- The entries whose key lies in a range, dropped: they read as the default again. -/
def SMap.clear {α : Type} (m : SMap α) (lo n : Nat) : SMap α :=
  m.filter (fun e => e.1 < lo || lo + n ≤ e.1)

/-- What an unlisted byte of memory reads as: zero, since boot zeroes HBM (R449). -/
def memByte (_ : Nat) : Byte := 0#8

/-- One byte of memory. -/
def Memory.get (m : Memory) (a : Nat) : Byte := SMap.get memByte m a

/-- Writing one byte of memory. -/
def Memory.put (m : Memory) (a : Nat) (v : Byte) : Memory := SMap.put memByte m a v

/-- The canonical form of memory. -/
def Memory.wf (m : Memory) : Bool := SMap.wf memByte m

/-- The constant default of a flag map. -/
def noFlag (_ : Nat) : Bool := false

/-- The constant default of a word map. -/
def zeroWord (_ : Nat) : Word := 0#64

/-- The constant default of a number map. -/
def zeroNat (_ : Nat) : Nat := 0

end Sys2Proof.Machine
end

