-- ==== Sys2Proof/Machine/Bits.lean ====
section
/-! DEFINITION. Bits: bit fields, extension and byte order (R6, R9). -/

namespace Sys2Proof.Machine

/-- Bits hi:lo of a word as a number. -/
def bits (w : Word) (hi lo : Nat) : Nat := (w.extractLsb' lo (hi + 1 - lo)).toNat

/-- One bit of a word. -/
def bit (w : Word) (i : Nat) : Bool := w.getLsbD i

/-- A word with bits hi:lo replaced. -/
def setBits (w : Word) (hi lo v : Nat) : Word :=
  let m := (BitVec.ofNat 64 (2 ^ (hi + 1 - lo) - 1)) <<< lo
  (w &&& ~~~ m) ||| ((BitVec.ofNat 64 v <<< lo) &&& m)

/-- A word from a number, mod 2^64. -/
def word (n : Nat) : Word := BitVec.ofNat 64 n

/-- Sign extension of the low n bits of a word (R9). -/
def sextWord (w : Word) (n : Nat) : Word := (BitVec.ofNat n w.toNat).signExtend 64

/-- Zero extension of the low n bits of a word (R9). -/
def zextWord (w : Word) (n : Nat) : Word := (BitVec.ofNat n w.toNat).setWidth 64

/-- A flag as a word. -/
def flagWord (b : Bool) : Word := if b then 1#64 else 0#64

/-- A flag as a number. -/
def flagNat (b : Bool) : Nat := if b then 1 else 0

/-- Little-endian bytes as a number (R6). -/
def natOfBytes (bs : List Byte) : Nat :=
  match bs with
  | [] => 0
  | b :: bs => b.toNat + 256 * natOfBytes bs

/-- The low n bytes of a number, least significant first (R6). -/
def bytesOfNat (n v : Nat) : List Byte :=
  match n with
  | 0 => []
  | n + 1 => BitVec.ofNat 8 v :: bytesOfNat n (v / 256)

/-- Eight bytes as a word. -/
def wordOf8 (bs : List Byte) : Word := word (natOfBytes bs)

/-- A word as eight bytes. -/
def bytesOf8 (w : Word) : List Byte := bytesOfNat 8 w.toNat

/-- Bits i, i+1, ... of a number, where set, as positions below n. -/
def setPositions (v n : Nat) : List Nat := (List.range n).filter (fun i => v.testBit i)

/-- The first element of a list with a property, and the property's index. -/
def firstIndex {α : Type} (p : α → Bool) (l : List α) : Option Nat := l.findIdx? p

/-- Replace the elements that have a property. -/
def updateWhere {α : Type} (p : α → Bool) (f : α → α) (l : List α) : List α :=
  l.map (fun x => if p x then f x else x)

/-- The least number below n with a property. -/
def leastBelow (n : Nat) (p : Nat → Bool) : Option Nat := (List.range n).find? p

end Sys2Proof.Machine
end

