-- ==== Sys2Proof/Machine/Control.lean ====
section
/-! DEFINITION. Control: dies, Dray private memory and the control structures in its top 28 KiB (R266,
R469), the levels, the rights and the feature masks. -/

namespace Sys2Proof.Machine

/-- A die (0-3). -/
def State.die (s : State) (d : Nat) : Die := SMap.get (fun _ => Die.reset) s.dies d

/-- Replacing a die. -/
def State.setDie (s : State) (d : Nat) (v : Die) : State :=
  { s with dies := SMap.put (fun _ => Die.reset) s.dies d v }

/-- Changing a die. -/
def State.updDie (s : State) (d : Nat) (f : Die → Die) : State := s.setDie d (f (s.die d))

/-- A quadrant by die x 128 + number. -/
def State.quad (s : State) (q : Nat) : Quadrant := SMap.get (fun _ => Quadrant.reset) s.quads q

/-- Replacing a quadrant. -/
def State.setQuad (s : State) (q : Nat) (v : Quadrant) : State :=
  { s with quads := SMap.put (fun _ => Quadrant.reset) s.quads q v }

/-- Changing a quadrant. -/
def State.updQuad (s : State) (q : Nat) (f : Quadrant → Quadrant) : State := s.setQuad q (f (s.quad q))

/-- A link port (R405). -/
def State.port (s : State) (p : Nat) : Port := SMap.get (fun _ => Port.reset) s.ports p

/-- Changing a link port. -/
def State.updPort (s : State) (p : Nat) (f : Port → Port) : State :=
  { s with ports := SMap.put (fun _ => Port.reset) s.ports p (f (s.port p)) }

/-! ## Private memory -/

/-- Reset contents of the pre-emption block's second word, byte k (R354): T1 200, T2 5,000, T1MAX 1,000,
T2MAX 20,000. -/
def preBlockReset (k : Nat) : Byte :=
  (bytesOfNat 8 (200 + 5000 * 2 ^ 16 + 1000 * 2 ^ 32 + 20000 * 2 ^ 48)).getD k 0#8

/-- Reset contents of a domain control block, byte k (R469): SCEIL 256 in g1, TB1 and TB2 0xFFFF in g2. -/
def domainBlockReset (k : Nat) : Byte :=
  if k = 9 then 1#8 else if 16 ≤ k ∧ k < 20 then 0xFF#8 else 0#8

/-- Reset contents of strand-table entry 0, byte k (R469): EN, CLIMIT 0xE400, DLIMIT 0x39000. -/
def strandEntryReset (k : Nat) : Byte :=
  if k = 7 then 0x80#8 else if k = 13 then 0xE4#8 else if k = 21 then 0x90#8 else if k = 22 then 0x03#8
  else 0#8

/-- Private memory after a cold reset: the Reset columns of the control structures, zero elsewhere. -/
def pmReset (a : Nat) : Byte :=
  if a < 0x39000 then 0#8
  else if 0x3A400 ≤ a ∧ a < 0x3A600 then
    -- SCAP 320 of the fabric domain blocks, w1 bits 10:0 (R416)
    if a % 32 = 8 then 0x40#8 else if a % 32 = 9 then 0x01#8 else 0#8
  else if 0x3D000 ≤ a ∧ a < 0x3E000 then
    -- RETRY 2 of the slice control blocks, c0 bits 47:44 (R469)
    if a % 64 = 5 then 0x20#8 else 0#8
  else if 0x3E000 ≤ a ∧ a < 0x3F000 then domainBlockReset (a % 256)
  else if 0x3F000 ≤ a ∧ a < 0x3F020 then strandEntryReset (a % 32)
  else if a = 0x3F100 then 0x04#8
  else if a = 0x3F108 then 0x01#8
  else if 0x3FC00 ≤ a ∧ a < 0x40000 ∧ a % 16 ≥ 8 then preBlockReset (a % 16 - 8)
  else 0#8

/-- A byte of a die's private memory. -/
def State.pmByte (s : State) (d a : Nat) : Byte := SMap.get pmReset (s.die d).pm a

/-- Bytes of a die's private memory. -/
def State.pmBytes (s : State) (d a n : Nat) : List Byte := SMap.getAll pmReset (s.die d).pm a n

/-- Writing bytes of a die's private memory, as the hardware does: no check and no field rule. -/
def State.pmPut (s : State) (d a : Nat) (bs : List Byte) : State :=
  s.updDie d (fun x => { x with pm := SMap.putAll pmReset x.pm a bs })

/-- A doubleword of a die's private memory. -/
def State.pmWord (s : State) (d a : Nat) : Word := wordOf8 (s.pmBytes d a 8)

/-- Writing a doubleword of a die's private memory, as the hardware does. -/
def State.pmSetWord (s : State) (d a : Nat) (w : Word) : State := s.pmPut d a (bytesOf8 w)

/-- Writing bits hi:lo of a doubleword of a die's private memory, as the hardware does. -/
def State.pmSetBits (s : State) (d a hi lo v : Nat) : State :=
  s.pmSetWord d a (setBits (s.pmWord d a) hi lo v)

/-- Writing the same bits on all four dies (R470). -/
def State.pmSetBitsAll (s : State) (a hi lo v : Nat) : State :=
  [0, 1, 2, 3].foldl (fun s d => s.pmSetBits d a hi lo v) s

/-! ## Slice and domain control blocks (R469) -/

def sliceBlock (i : Nat) : Nat := 0x3D000 + 64 * i
def domainBlock (d : Nat) : Nat := 0x3E000 + 256 * d
def strandEntry (k : Nat) : Nat := 0x3F000 + 32 * k

/-- The slice exists (c0 V). -/
def State.sliceV (s : State) (d i : Nat) : Bool := bit (s.pmWord d (sliceBlock i)) 63

/-- The slice's owning domain (c0 DOMAIN). -/
def State.sliceDomain (s : State) (d i : Nat) : Nat := bits (s.pmWord d (sliceBlock i)) 51 48

/-- The slice's retry limit (c0 RETRY). -/
def State.sliceRetry (s : State) (d i : Nat) : Nat := bits (s.pmWord d (sliceBlock i)) 47 44

/-- The slice's share on a die (c0 SHARE). -/
def State.sliceShare (s : State) (d i : Nat) : Nat := bits (s.pmWord d (sliceBlock i)) 7 0

/-- SPA of the slice's virtual queue table (c1 VQT). -/
def State.sliceVqt (s : State) (d i : Nat) : Nat := bits (s.pmWord d (sliceBlock i + 8)) 51 0

/-- SPA of the slice's pending bitmap (c2 PEND). -/
def State.slicePend (s : State) (d i : Nat) : Nat := bits (s.pmWord d (sliceBlock i + 16)) 51 0

/-- The slice's stage-1 root word (c4). -/
def State.sliceRoot (s : State) (d i : Nat) : Word := s.pmWord d (sliceBlock i + 32)

/-- The domain's share ceiling (g1 SCEIL). -/
def State.domainCeil (s : State) (d k : Nat) : Nat := bits (s.pmWord d (domainBlock k + 8)) 8 0

/-- The domain's bounds on T1 and T2 (g2). -/
def State.domainTb1 (s : State) (d k : Nat) : Nat := bits (s.pmWord d (domainBlock k + 16)) 15 0
def State.domainTb2 (s : State) (d k : Nat) : Nat := bits (s.pmWord d (domainBlock k + 16)) 31 16

/-- The domain's stage-2 root word (g3). -/
def State.domainRoot (s : State) (d k : Nat) : Word := s.pmWord d (domainBlock k + 24)

/-- Slices of a domain on a die. -/
def State.domainSlices (s : State) (d k : Nat) : List Nat :=
  (List.range 64).filter (fun i => s.sliceV d i && s.sliceDomain d i == k)

/-! ## The strand table (R267, R469) -/

/-- LEVEL of a strand: 0 O, 1 D, 2 S. -/
def State.strandLevel (s : State) (d k : Nat) : Nat := bits (s.pmWord d (strandEntry k)) 9 8

/-- EN of a strand; LEVEL 3 acts as EN = 0. -/
def State.strandEn (s : State) (d k : Nat) : Bool :=
  bit (s.pmWord d (strandEntry k)) 63 && s.strandLevel d k != 3

/-- SERVED of a strand: its domain (level D) or slice (level S). -/
def State.strandServed (s : State) (d k : Nat) : Nat := bits (s.pmWord d (strandEntry k)) 5 0

def State.strandCbase (s : State) (d k : Nat) : Nat := bits (s.pmWord d (strandEntry k + 8)) 15 0
def State.strandClimit (s : State) (d k : Nat) : Nat := bits (s.pmWord d (strandEntry k + 8)) 48 32
def State.strandDbase (s : State) (d k : Nat) : Nat := bits (s.pmWord d (strandEntry k + 16)) 17 0

/-- DLIMIT of a strand, which never reaches into the control structures (R266). -/
def State.strandDlimit (s : State) (d k : Nat) : Nat :=
  Nat.min (bits (s.pmWord d (strandEntry k + 16)) 50 32) 0x39000

/-! ## Rights (R346) -/

/-- Rights bit numbers. -/
def rightQueue : Nat := 0
def rightSched : Nat := 1
def rightPreempt : Nat := 2
def rightKill : Nat := 3
def rightMap1 : Nat := 4
def rightMap2 : Nat := 5
def rightFeat : Nat := 6
def rightDebug : Nat := 7
def rightMigrate : Nat := 8
def rightSlottab : Nat := 9
def rightWeight : Nat := 10
def rightEnergy : Nat := 11
def rightFaultrt : Nat := 12
def rightDelegate : Nat := 13
def rightIdmap : Nat := 14
def rightTimeofs : Nat := 15

/-- The rights mask of slice i (key i) or domain k (key 64 + k). -/
def State.rightsMask (s : State) (key : Nat) : BitVec 16 := SMap.get (fun _ => 0#16) s.rights key

/-- Effective rights of a level that serves a domain or slice (R346): level O holds all; a task (level 3)
and level S use the slice's mask AND its domain's. -/
def State.effRights (s : State) (d level served : Nat) : BitVec 16 :=
  match level with
  | 0 => 0xFFFF#16
  | 1 => s.rightsMask (64 + served)
  | _ => s.rightsMask served &&& s.rightsMask (64 + s.sliceDomain d served)

/-- A right is held. -/
def State.hasRight (s : State) (d level served right : Nat) : Bool :=
  (s.effRights d level served).getLsbD right

/-- A slice lies within a caller's authority (R340). -/
def State.ownsSlice (s : State) (d level served slice : Nat) : Bool :=
  match level with
  | 0 => true
  | 1 => s.sliceV d slice && s.sliceDomain d slice == served
  | _ => slice == served

/-- A domain lies within a caller's authority (R344). -/
def ownsDomain (level served dom : Nat) : Bool :=
  match level with
  | 0 => true
  | 1 => dom == served
  | _ => false

/-! ## Functions and features (R348, R349, R432) -/

/-- The attach entry of a virtual function, on die 0 (R432, R470). -/
def State.attachEntry (s : State) (f : Nat) : Nat := natOfBytes (s.pmBytes 0 (0x39A00 + 2 * f) 2)

/-- A function's attached level (0 O, 1 D, 2 S) and number; none for an invalid entry. -/
def State.fnAttach (s : State) (f : Nat) : Option (Nat × Nat) :=
  if f = 0 then some (0, 0)
  else
    let e := s.attachEntry f
    if e.testBit 15 ∧ (e / 64 % 4 = 1 ∨ e / 64 % 4 = 2) then some (e / 64 % 4, e % 64) else none

/-- The lowest-numbered function attached to a level's number (R337). -/
def State.fnOf (s : State) (level num : Nat) : Option Nat :=
  (List.range 256).find? (fun f => s.fnAttach f == some (level, if level = 0 then 0 else num))

/-- Leaf 1 of QFEAT as a slice sees it (R349). A slice to which no function is attached has no mask
(log entry 11). -/
def State.features (s : State) (slice : Nat) : Word :=
  match s.fnOf 2 slice with
  | some f => Config.featuresImplemented &&& SMap.get (fun _ => -1#64) s.featO f
      &&& SMap.get (fun _ => -1#64) s.featD f
  | none => Config.featuresImplemented

/-- The feature bits that an instruction needs (R348). A family of 3-6 and a rounding of 5 have bits too. -/
def familyFeature (f : BitVec 3) : List Nat :=
  match f.toNat with
  | 3 => [14]
  | 4 => [14]
  | 5 => [15]
  | 6 => [15]
  | _ => []

end Sys2Proof.Machine
end

