-- ==== Sys2Proof/Machine/Access.lean ====
section
/-! DEFINITION. Access: coaches, threads, registers, tokens and launches, each reached by one accessor. -/

namespace Sys2Proof.Machine

/-! ## Coaches -/

/-- The bound coach with a lead quadrant. -/
def State.coach? (s : State) (q : Nat) : Option Coach := s.coaches.find? (fun c => c.quad == q)

/-- Changing the coach with a lead quadrant. -/
def State.updCoach (s : State) (q : Nat) (f : Coach → Coach) : State :=
  { s with coaches := updateWhere (fun c => c.quad == q) f s.coaches }

/-- Quadrants of a shape with a lead (R132): quadrant numbers from the lead, ascending. -/
def shapeQuads (shape : BitVec 2) (lead : Nat) : List Nat :=
  match shape.toNat with
  | 0 => [lead]
  | 1 => [lead, lead + 1]
  | 2 => [lead, lead + 2]
  | _ => [lead, lead + 1, lead + 2, lead + 3]

/-- The quadrants of a coach, the lead first. -/
def Coach.quads (c : Coach) : List Nat := shapeQuads c.shape c.quad

/-- The die, core and cluster of a quadrant. -/
def quadDie (q : Nat) : Nat := q / 128
def quadCore (q : Nat) : Nat := q / 4
def quadCluster (q : Nat) : Nat := q / 16

/-- The coach, if any, that holds a quadrant. -/
def State.coachHolding (s : State) (q : Nat) : Option Coach := s.coaches.find? (fun c => c.quads.contains q)

/-! ## Threads -/

/-- The stream of a coach's part (R339): parts 0-7 are K strands. -/
inductive StreamId where
  | k | l | x | s
deriving DecidableEq, Repr

def streamOfPart (part : Nat) : StreamId :=
  match part with
  | 8 => .l
  | 9 => .x
  | 10 => .s
  | _ => .k

/-- Stream index: K 0, L 1, X 2, S 3 (R16). -/
def StreamId.index (i : StreamId) : Nat :=
  match i with
  | .k => 0
  | .l => 1
  | .x => 2
  | .s => 3

/-- The part of a stream's single thread, and of K strand 0. -/
def partOfStream (i : Nat) : Nat :=
  match i with
  | 1 => 8
  | 2 => 9
  | 3 => 10
  | _ => 0

def Coach.stream (c : Coach) (i : StreamId) : Stream :=
  match i with
  | .k => c.sk
  | .l => c.sl
  | .x => c.sx
  | .s => c.ss

def Coach.setStream (c : Coach) (i : StreamId) (v : Stream) : Coach :=
  match i with
  | .k => { c with sk := v }
  | .l => { c with sl := v }
  | .x => { c with sx := v }
  | .s => { c with ss := v }

/-- A strand or stream thread of a coach. -/
def Coach.strand (c : Coach) (part : Nat) : Strand := SMap.get (fun _ => Strand.start) c.strands part

def Coach.setStrand (c : Coach) (part : Nat) (v : Strand) : Coach :=
  { c with strands := SMap.put (fun _ => Strand.start) c.strands part v }

def Coach.updStrand (c : Coach) (part : Nat) (f : Strand → Strand) : Coach := c.setStrand part (f (c.strand part))

/-- A Dray strand. -/
def State.drayStrand (s : State) (d k : Nat) : DrayStrand :=
  SMap.get (fun _ => DrayStrand.reset) (s.die d).strands k

def State.updDray (s : State) (d k : Nat) (f : DrayStrand → DrayStrand) : State :=
  s.updDie d (fun x =>
    let v := f (SMap.get (fun _ => DrayStrand.reset) x.strands k)
    { x with strands := SMap.put (fun _ => DrayStrand.reset) x.strands k v })

/-- The thread with an identity; none while its coach is not bound. -/
def State.strand? (s : State) (th : ThreadId) : Option Strand :=
  match th with
  | .coach q p => (s.coach? q).map (fun c => c.strand p)
  | .dray d k => some (s.drayStrand d k).th

/-- Changing a thread. -/
def State.updStrand (s : State) (th : ThreadId) (f : Strand → Strand) : State :=
  match th with
  | .coach q p => s.updCoach q (fun c => c.updStrand p f)
  | .dray d k => s.updDray d k (fun x => { x with th := f x.th })

/-- The stream state of a thread. -/
def State.stream? (s : State) (th : ThreadId) : Option Stream :=
  match th with
  | .coach q p => (s.coach? q).map (fun c => c.stream (streamOfPart p))
  | .dray d k => some (s.drayStrand d k).st

/-- Changing the stream state of a thread. -/
def State.updStream (s : State) (th : ThreadId) (f : Stream → Stream) : State :=
  match th with
  | .coach q p => s.updCoach q (fun c => c.setStream (streamOfPart p) (f (c.stream (streamOfPart p))))
  | .dray d k => s.updDray d k (fun x => { x with st := f x.st })

/-- The running thread, as a strand; a fresh one stands in where there is none. -/
def State.me (s : State) : Strand := (s.strand? s.cur).getD Strand.start

/-- The running thread's stream. -/
def State.myStream (s : State) : Stream := (s.stream? s.cur).getD Stream.start

/-- Changing the running thread. -/
def State.updMe (s : State) (f : Strand → Strand) : State := s.updStrand s.cur f

/-- Changing the running thread's stream. -/
def State.updMyStream (s : State) (f : Stream → Stream) : State := s.updStream s.cur f

/-- The lead quadrant of a coach thread. -/
def threadQuad (th : ThreadId) : Nat :=
  match th with
  | .coach q _ => q
  | .dray _ _ => 0

/-- The part of a coach thread. -/
def threadPart (th : ThreadId) : Nat :=
  match th with
  | .coach _ p => p
  | .dray _ k => k

/-- The thread is a Dray strand. -/
def onDray (th : ThreadId) : Bool :=
  match th with
  | .coach _ _ => false
  | .dray _ _ => true

/-- The die of a thread. -/
def threadDie (th : ThreadId) : Nat :=
  match th with
  | .coach q _ => quadDie q
  | .dray d _ => d

/-- The stream index of a thread (a Dray strand counts as K). -/
def threadStream (th : ThreadId) : Nat :=
  match th with
  | .coach _ p => (streamOfPart p).index
  | .dray _ _ => 0

/-- The engine that a thread fetches for (R12). -/
def threadEngine (th : ThreadId) : Engine :=
  match th with
  | .dray _ _ => .dray
  | .coach _ p =>
    match streamOfPart p with
    | .k => .k
    | .l => .l
    | .x => .x
    | .s => .s

/-- The running coach; a default one never occurs for a live coach thread. -/
def State.myCoach? (s : State) : Option Coach :=
  match s.cur with
  | .coach q _ => s.coach? q
  | .dray _ _ => none

/-- The level at which a thread executes (R37, R96): 0 O, 1 D, 2 S, 3 T. -/
def State.levelOf (s : State) (th : ThreadId) : Nat :=
  match th with
  | .coach _ _ => 3
  | .dray d k => s.strandLevel d k

/-- The slice of a coach thread, or the served domain or slice of a Dray strand. -/
def State.servedOf (s : State) (th : ThreadId) : Nat :=
  match th with
  | .coach q _ => ((s.coach? q).map (fun c => c.slice)).getD 0
  | .dray d k => s.strandServed d k

/-- The slice for which a thread acts: a coach's, or that of a level-S strand. -/
def State.sliceOf (s : State) (th : ThreadId) : Option Nat :=
  match th with
  | .coach q _ => (s.coach? q).map (fun c => c.slice)
  | .dray d k => if s.strandLevel d k = 2 then some (s.strandServed d k) else none

/-- The domain for which a thread acts. -/
def State.domainOf (s : State) (th : ThreadId) : Option Nat :=
  match th with
  | .coach q _ => (s.coach? q).map (fun c => s.sliceDomain (quadDie q) c.slice)
  | .dray d k =>
    match s.strandLevel d k with
    | 1 => some (s.strandServed d k)
    | 2 => some (s.sliceDomain d (s.strandServed d k))
    | _ => none

/-- A thread's effective rights hold a right, evaluated now (R346). -/
def State.threadRight (s : State) (th : ThreadId) (right : Nat) : Bool :=
  s.hasRight (threadDie th) (s.levelOf th) (s.servedOf th) right

/-- The master handle of a thread (R339). -/
def threadHandle (th : ThreadId) : BitVec 24 :=
  match th with
  | .coach q p => BitVec.ofNat 24 (q * 32 + p)
  | .dray d k => BitVec.ofNat 24 (2 ^ 22 + d * 4096 + k)

/-- RUNG and STATE of a slice's pre-emption block on a die (R354). -/
def State.preRung (s : State) (die slice : Nat) : Nat := bits (s.pmWord die (0x3FC00 + 16 * slice)) 6 4
def State.preState (s : State) (die slice : Nat) : Nat := bits (s.pmWord die (0x3FC00 + 16 * slice)) 1 0

/-- A request at rung 2 or above is bringing a coach to its stop point (R353). -/
def State.halting (s : State) (c : Coach) : Bool :=
  c.held.isNone && s.preState (quadDie c.quad) c.slice != 0 && decide (2 ≤ s.preRung (quadDie c.quad) c.slice)

/-- The queues of a coach start nothing more: it is held or frozen, or is being stopped (R341, R353). -/
def State.quiet (s : State) (c : Coach) : Bool := c.held.isSome || c.frozen || s.halting c || s.boot.halted

/-- What a thread's word waited for has come: bytes, a grant or a quotient. It finishes before anything stops it (R101). -/
def Strand.answered (st : Strand) : Bool := !st.reply.isEmpty || st.granted

/-- The thread holds its coach or strand entry and may be executed: its coach runs a task and nothing holds
or freezes it (R341, R353). A thread whose answer has come finishes its word first (R101). -/
def State.live (s : State) (th : ThreadId) : Bool :=
  match th with
  | .coach q p =>
    match s.coach? q with
    | some c => c.phase == .running && c.held.isNone && !s.boot.halted &&
        (!(c.frozen || (c.strand p).frozen || s.halting c) || (c.strand p).answered)
    | none => false
  | .dray d k =>
    let st := (s.drayStrand d k).th
    s.strandEn d k && !s.boot.halted && (!st.frozen || st.answered)

/-! ## Registers (R21, R91, R95) -/

/-- ReadS: s0 reads zero. -/
def Strand.reg (st : Strand) (n : BitVec 4) : Word :=
  if n = 0#4 then 0#64 else SMap.get zeroWord st.regs n.toNat

/-- The poison bit of a register; s0 has none. -/
def Strand.pois (st : Strand) (n : BitVec 4) : Bool :=
  if n = 0#4 then false else st.poison.getLsbD n.toNat

/-- WriteS: s0 ignores writes. -/
def Strand.setReg (st : Strand) (n : BitVec 4) (v : Word) (p : Bool) : Strand :=
  if n = 0#4 then st
  else { st with
    regs := SMap.put zeroWord st.regs n.toNat v
    poison := if p then st.poison ||| (1#16 <<< n.toNat) else st.poison &&& ~~~ (1#16 <<< n.toNat) }

/-- ReadS of the running thread. -/
def State.reg (s : State) (n : BitVec 4) : Word := s.me.reg n

/-- The poison of a register of the running thread. -/
def State.pois (s : State) (n : BitVec 4) : Bool := s.me.pois n

/-- WriteS of the running thread. -/
def State.setReg (s : State) (n : BitVec 4) (v : Word) (p : Bool) : State :=
  s.updMe (fun st => st.setReg n v p)

/-- WriteS of a named thread, for a value that arrives later. -/
def State.setRegOf (s : State) (th : ThreadId) (n : BitVec 4) (v : Word) (p : Bool) : State :=
  s.updStrand th (fun st => st.setReg n v p)

/-! ## Tokens (R16, R100, R146) -/

/-- The FIFO from stream i to stream j, as a key. -/
def fifoKey (i j : Nat) : Nat := 4 * i + j

/-- The stream that selector n of stream i names (R16). -/
def selected (i n : Nat) : Nat := (i + n) % 4

def Coach.fifoCount (c : Coach) (key : Nat) : Nat := SMap.get zeroNat c.fifo key
def Coach.owedCount (c : Coach) (key : Nat) : Nat := SMap.get zeroNat c.owed key
def Coach.setFifo (c : Coach) (key n : Nat) : Coach := { c with fifo := SMap.put zeroNat c.fifo key n }
def Coach.setOwed (c : Coach) (key n : Nat) : Coach := { c with owed := SMap.put zeroNat c.owed key n }

/-- The threads of stream j of a coach: the K stream has eight strands. -/
def partsOfStream (j : Nat) : List Nat :=
  match j with
  | 1 => [8]
  | 2 => [9]
  | 3 => [10]
  | _ => [0, 1, 2, 3, 4, 5, 6, 7]

/-- Setting event-latch bits of a stream's threads (R124). -/
def Coach.latch (c : Coach) (j : Nat) (m : BitVec 4) : Coach :=
  (partsOfStream j).foldl (fun c p => c.updStrand p (fun st => { st with latch := st.latch ||| m })) c

/-- A token arrives in a FIFO (R17, R124): its count rises and event 0 latches in the receiving stream. -/
def Coach.pushToken (c : Coach) (i j : Nat) : Coach :=
  (c.setFifo (fifoKey i j) (c.fifoCount (fifoKey i j) + 1)).latch j 1#4

/-- The token goes back to its FIFO (R18). -/
def Coach.returnToken (c : Coach) (i j : Nat) : Coach :=
  c.setFifo (fifoKey i j) (c.fifoCount (fifoKey i j) + 1)

/-- A token is taken. -/
def Coach.popToken (c : Coach) (i j : Nat) : Coach :=
  c.setFifo (fifoKey i j) (c.fifoCount (fifoKey i j) - 1)

/-- Strands of stream i below number n that wait on its FIFO from stream src: tokens go to them in order of strand number
(R17). Only the K stream has more than one strand. -/
def Coach.tokenWaiters (c : Coach) (src i n : Nat) : Nat :=
  if i = 0 then ((List.range n).filter (fun p => (c.strand p).run == .parked (.token src))).length else 0

/-- The retirement push of an engine operation (R17, R19, R100): the owed count falls and the token
arrives. `push` is the selector of the issuing stream i; 0 pushes nothing. -/
def Coach.enginePush (c : Coach) (i push : Nat) : Coach :=
  if push = 0 then c
  else
    let key := fifoKey i (selected i push)
    (c.setOwed key (c.owedCount key - 1)).pushToken i (selected i push)

/-- The retirement push would pass a count of 15 and is held in the engine (R100). -/
def Coach.pushHeld (c : Coach) (i push : Nat) : Bool :=
  push != 0 && c.fifoCount (fifoKey i (selected i push)) ≥ 15

/-- The push that an engine operation of stream i owes from its acceptance. -/
def Coach.owe (c : Coach) (i push : Nat) : Coach :=
  if push = 0 then c
  else
    let key := fifoKey i (selected i push)
    c.setOwed key (c.owedCount key + 1)

/-! ## Tags and launches (R285, R287) -/

/-- The home die of a tag. -/
def tagDie (tag : Nat) : Nat := tag % 4

def State.tag (s : State) (t : Nat) : TagEntry := SMap.get (fun _ => TagEntry.reset) s.tags t
def State.setTag (s : State) (t : Nat) (e : TagEntry) : State :=
  { s with tags := SMap.put (fun _ => TagEntry.reset) s.tags t e }

/-- The version tag: TAG in bits 11:0, GEN in bits 15:12. -/
def State.vtag (s : State) (t : Nat) : BitVec 16 := BitVec.ofNat 16 (t + 4096 * (s.tag t).gen.toNat)

/-- The taken launch that holds a tag. -/
def State.launch? (s : State) (t : Nat) : Option Launch := s.launches.find? (fun l => l.tag == t)

def State.updLaunch (s : State) (t : Nat) (f : Launch → Launch) : State :=
  { s with launches := updateWhere (fun l => l.tag == t) f s.launches }

/-- The launch of a thread's coach. -/
def State.launchOf (s : State) (th : ThreadId) : Option Launch :=
  match th with
  | .coach q _ =>
    match s.coach? q with
    | some c => s.launch? c.tag
    | none => none
  | .dray _ _ => none

/-- Header fields of a launch's LNR (R249). -/
def Launch.h (l : Launch) (i : Nat) : Word := l.hdr.getD i 0#64
def Launch.mode (l : Launch) : Bool := bit (l.h 1) 29
def Launch.policyAbort (l : Launch) : Bool := bit (l.h 1) 30
def Launch.irrAllow (l : Launch) : Bool := bit (l.h 1) 31
def Launch.precise (l : Launch) : Bool := bit (l.h 1) 28
def Launch.shape (l : Launch) : BitVec 2 := BitVec.ofNat 2 (bits (l.h 1) 27 26)
def Launch.prio (l : Launch) : Nat := bits (l.h 1) 33 32
def Launch.tilesDecl (l : Launch) : Nat := bits (l.h 1) 49 34

/-- A launch performs an escaping access: it is open from then on (R292). -/
def State.openLaunch (s : State) (th : ThreadId) : State :=
  match s.launchOf th with
  | some l => s.updLaunch l.tag (fun l => { l with opened := true })
  | none => s

/-! ## Posted writes and what happens before an access (R313, R316, R319) -/

/-- Every posted request that has not been applied. -/
def State.unapplied (s : State) : List HomeReq := s.homeq ++ s.waiting.map (fun w => w.req)

/-- A posted write that has not performed. -/
def HomeReq.open_ (r : HomeReq) : Bool := r.mask != 0#64

/-- Posted writes of an agent that have not performed, by request number: on their way to a home, or in another part. -/
def State.writesOut (s : State) (p : ThreadId → Nat → Bool) : List Nat :=
  (s.unapplied.filter (fun r => r.open_ && p r.by_ r.path)).map (fun r => r.id) ++
    s.remote.filterMap (fun r => match r.who with
      | .store th _ id => if p th 4 then some id else none
      | _ => none)

/-- A posted write happens before a thread's next access (R319). -/
def State.isBehind (s : State) (th : ThreadId) (id : Nat) : Bool :=
  (((s.strand? th).map (fun t => t.behind)).getD []).contains id

/-- What a release of a thread covers: its own posted writes on some paths, and those that happen before them (R319). -/
def State.released (s : State) (th : ThreadId) (p : Nat → Bool) : List Nat :=
  s.writesOut (fun t path => t == th && p path) ++
    (s.writesOut (fun _ _ => true)).filter (s.isBehind th)

/-- An acquire: what has been released happens before the thread's later accesses. -/
def State.follows (s : State) (th : ThreadId) (ids : List Nat) : State :=
  let left := (s.writesOut (fun _ _ => true)).eraseDups
  s.updStrand th (fun st => { st with behind := left.filter (fun id => ids.contains id || st.behind.contains id) })

/-- Draws one free value and moves the counter on (log entry 6). -/
def State.drawWord (s : State) : State × Word := ({ s with free := s.free + 1 }, Config.freeWord s.free)
def State.drawBit (s : State) : State × Bool := ({ s with free := s.free + 1 }, Config.freeBit s.free)

/-- Event 2 latches in the Dray strands that serve a slice, its domain or level O (R124, R257). -/
def State.latchServers (s : State) (slice : Nat) (m : BitVec 4) : State :=
  [0, 1, 2, 3].foldl (fun s d => (List.range 8).foldl (fun s k =>
    let served :=
      match s.strandLevel d k with
      | 0 => true
      | 1 => s.strandServed d k == s.sliceDomain d slice
      | 2 => s.strandServed d k == slice
      | _ => false
    if served && s.strandEn d k then
      s.updDray d k (fun x => { x with th := { x.th with latch := x.th.latch ||| m } })
    else s) s) s

/-- Event 2 latches in the level-O strands (R282). -/
def State.latchOperators (s : State) (m : BitVec 4) : State :=
  [0, 1, 2, 3].foldl (fun s d => (List.range 8).foldl (fun s k =>
    if s.strandLevel d k = 0 ∧ s.strandEn d k then
      s.updDray d k (fun x => { x with th := { x.th with latch := x.th.latch ||| m } })
    else s) s) s

/-- Event bits latch in every thread of a slice's coaches. -/
def State.latchSlice (s : State) (slice : Nat) (m : BitVec 4) : State :=
  let f := fun (c : Coach) => [0, 1, 2, 3].foldl (fun c j => c.latch j m) c
  { s with coaches := updateWhere (fun c => c.slice == slice) f s.coaches }

end Sys2Proof.Machine
end

