-- ==== Sys2Proof/Machine/Energy.lean ====
section
/-! DEFINITION. Energy: the accounts and their charges (R456). -/

namespace Sys2Proof.Machine

def State.account (s : State) (slice : Nat) : Account := SMap.get (fun _ => Account.reset) s.accounts slice

def State.setAccount (s : State) (slice : Nat) (a : Account) : State :=
  { s with accounts := SMap.put (fun _ => Account.reset) s.accounts slice a }

def State.domAccount (s : State) (dom : Nat) : Account := SMap.get (fun _ => Account.resetDomain) s.domAccts dom

def State.setDomAccount (s : State) (dom : Nat) (a : Account) : State :=
  { s with domAccts := SMap.put (fun _ => Account.resetDomain) s.domAccts dom a }

/-- An account is metered unless its REFILL is all-ones. -/
def Account.metered (a : Account) : Bool := a.refill != 0xFFFFFFFF#32

/-- Charges are counted in units of 10 pJ (R456). -/
def energyUnits (c : EnergyClass) : Nat :=
  match c with
  | .boundQuadrant => 39000
  | .rowWide => 84
  | .rowByte => 90
  | .rowNarrow => 95
  | .vectorTile => 50
  | .beatNear => 35
  | .beatHbm => 175
  | .linkFlit => 200
  | .issue => 1

/-- A charge: the fraction below 1 microjoule is carried, and the balance saturates at -2^31. -/
def State.charge (s : State) (slice : Nat) (c : EnergyClass) (count : Nat) : State :=
  let a := s.account slice
  let n := a.frac + energyUnits c * count
  s.setAccount slice { a with
    bal := if a.bal - (n / 100000 : Nat) < -2147483648 then -2147483648 else a.bal - (n / 100000 : Nat)
    frac := n % 100000 }

end Sys2Proof.Machine
end

