-- ==== Sys2Proof/Machine/Wire.lean ====
section
/-! DEFINITION. Wire: flits, ports, credits and routes (R407-R413), and the reports of carriage endpoints. -/

namespace Sys2Proof.Machine

/-- The part's node number (R412), as the deciding die holds it in the block of its port 0 (R470; log entry 150). -/
def State.node (s : State) (die : Nat) : Nat := bits (s.pmWord die 0x3A200) 63 56

/-- Address of a port's block on its die. -/
def portBlock (p : Nat) : Nat := 0x3A200 + 16 * (p % 4)

/-- STATE of a port: 0 down, 1 training, 2 up. -/
def State.portState (s : State) (p : Nat) : Nat := bits (s.pmWord (p / 4) (portBlock p)) 1 0

def State.setPortState (s : State) (p v : Nat) : State := s.pmSetBits (p / 4) (portBlock p) 1 0 v

/-- One more CRC failure, reserved type or ignored credit (ERRS). -/
def State.countErr (s : State) (p : Nat) : State :=
  s.pmSetBits (p / 4) (portBlock p + 8) 31 0 (bits (s.pmWord (p / 4) (portBlock p + 8)) 31 0 + 1)

/-- One more replay episode (REPLAYS). -/
def State.countReplay (s : State) (p : Nat) : State :=
  s.pmSetBits (p / 4) (portBlock p + 8) 63 32 (bits (s.pmWord (p / 4) (portBlock p + 8)) 63 32 + 1)

/-- The port by which a best-effort flit for a node leaves, injected on a die (R413, R470). -/
def State.route (s : State) (die node : Nat) : Option Nat :=
  let e := (s.pmByte die (0x3A300 + node)).toNat
  if e = 0xFF ∨ node = s.node die then none
  else if s.portState (e % 16) ≠ 0 then some (e % 16)
  else if s.portState (e / 16) ≠ 0 then some (e / 16)
  else none

/-- A flit with the fields that its sender sets (R407); link fields are zero until it is sent. -/
def mkFlit (ty vc domain src dst : Nat) (h1 : Word) (payload : List Byte) : Flit where
  ty := BitVec.ofNat 6 ty
  vc := BitVec.ofNat 3 vc
  domain := BitVec.ofNat 4 domain
  seq := 0#12
  ack := 0#12
  crch := 0#3
  crinc := 0#6
  oper := false
  src := BitVec.ofNat 8 src
  dst := BitVec.ofNat 8 dst
  h1 := h1
  payload := BitVec.ofNat 2048 (natOfBytes payload)

/-- Bytes of a flit's payload. -/
def flitBytes (fl : Flit) (off n : Nat) : List Byte := bytesOfNat n (fl.payload.toNat / 2 ^ (8 * off))

/-- A field of a flit's payload as a number. -/
def flitField (fl : Flit) (off n : Nat) : Nat := natOfBytes (flitBytes fl off n)

/-- The channels that carry credits (R410). -/
def credited (vc : Nat) : Bool := vc == 0 || vc == 1 || vc == 3 || vc == 4

/-- The shared-buffer cap of a domain (R416). -/
def State.scap (s : State) (die d : Nat) : Nat := bits (s.pmWord die (0x3A400 + 32 * d + 8)) 10 0

/-- Taking one credit for a flit; none when it must wait (R410). `res` counts reserved flits in use. -/
def takeCredit (p : Port) (scap d vc : Nat) : Option Port :=
  if !credited vc then some p
  else if SMap.get zeroNat p.res (8 * d + vc) < 8 then
    some { p with res := SMap.put zeroNat p.res (8 * d + vc) (SMap.get zeroNat p.res (8 * d + vc) + 1) }
  else if p.sh > 0 ∧ SMap.get zeroNat p.shu d < scap then
    some { p with sh := p.sh - 1, shu := SMap.put zeroNat p.shu d (SMap.get zeroNat p.shu d + 1) }
  else none

/-- One unit of credit comes back for a domain and channel (R410). -/
def returnCredit (p : Port) (d vc : Nat) : Port :=
  if SMap.get zeroNat p.res (8 * d + vc) > 0 then
    { p with res := SMap.put zeroNat p.res (8 * d + vc) (SMap.get zeroNat p.res (8 * d + vc) - 1) }
  else { p with sh := p.sh + 1, shu := SMap.put zeroNat p.shu d (SMap.get zeroNat p.shu d - 1) }

/-- The credit fields that an outgoing flit of a domain carries (R411): the first channel that is owed. -/
def owedField (p : Port) (d : Nat) : Nat × Nat :=
  match [0, 1, 3, 4].find? (fun vc => SMap.get zeroNat p.owed (8 * d + vc) > 0) with
  | some vc => (vc, Nat.min (SMap.get zeroNat p.owed (8 * d + vc)) 63)
  | none => (0, 0)

/-- A sequenced flit goes onto the link: it takes the next SEQ, carries the ACK and owed credits, and
enters the replay buffer (R407, R409, R411). -/
def transmit (p : Port) (fl : Flit) : Port :=
  let (vc, n) := owedField p fl.domain.toNat
  let key := 8 * fl.domain.toNat + vc
  let fl' := { fl with seq := p.txSeq, ack := p.rxSeq - 1#12, crch := BitVec.ofNat 3 vc, crinc := BitVec.ofNat 6 n }
  { p with
    txSeq := p.txSeq + 1#12
    replay := p.replay ++ [fl']
    owed := if n = 0 then p.owed else SMap.put zeroNat p.owed key (SMap.get zeroNat p.owed key - n)
    out := p.out ++ [fl'] }

/-- Sends waiting flits, oldest first, while the port is up, the replay buffer has room and credits last;
a flit without credit lets later ones of other domains and channels pass. -/
def pumpQueue (scap : Nat → Nat) (q : List (Word × Flit)) (p : Port) : List (Word × Flit) × Port :=
  match q with
  | [] => ([], p)
  | e :: q =>
    if p.replay.length ≥ 512 then (e :: q, p)
    else
      match takeCredit p (scap e.2.domain.toNat) e.2.domain.toNat e.2.vc.toNat with
      | some p' => pumpQueue scap q (transmit p' e.2)
      | none =>
        let r := pumpQueue scap q p
        (e :: r.1, r.2)

/-- Sends what a port can send now. -/
def State.pump (s : State) (p : Nat) : State :=
  if s.portState p = 2 then
    s.updPort p (fun x =>
      let r := pumpQueue (s.scap (p / 4)) x.queue { x with queue := [] }
      { r.2 with queue := r.1, progress := if x.replay.isEmpty then s.tsc else x.progress })
  else s

/-- The die of a port. Port 32 + 4d stands for what the part sends to its own node from die d, which no link carries (log entry 30). -/
def portDie (port : Nat) : Nat := port / 4 % 4

def loopPort (die : Nat) : Nat := 32 + 4 * die

/-- A best-effort flit enters the part on a die; none when its node cannot be reached (R413, R430). One for the part's own
node, whose route entry is ignored (R412), arrives at the part itself. -/
def State.sendFlit? (s : State) (die : Nat) (fl : Flit) : Option State :=
  if fl.dst.toNat = s.node die then some { s with inputs := s.inputs ++ [.flit (loopPort die) fl] }
  else
    match s.route die fl.dst.toNat with
    | some p => some ((s.updPort p (fun x => { x with queue := x.queue ++ [(s.tsc, fl)] })).pump p)
    | none => none

/-- A best-effort flit that is lost when its node cannot be reached. -/
def State.sendFlit (s : State) (die : Nat) (fl : Flit) : State := (s.sendFlit? die fl).getD s

/-- A LACK, which is not sequenced (R408, R409). -/
def State.sendLack (s : State) (p : Nat) (nak : Bool) : State :=
  s.updPort p (fun x =>
    let fl := mkFlit 1 0 0 (s.node (portDie p)) 0 (flagWord nak) []
    { x with out := x.out ++ [{ fl with ack := x.rxSeq - 1#12 }] })

/-- The slice's fabric block word (R416). -/
def State.sliceFabric (s : State) (die slice i : Nat) : Word := s.pmWord die (0x39C00 + 16 * slice + 8 * i)

/-! ## Endpoints (R418) -/

def Coach.endp (c : Coach) (q : Nat) : Endpoint := SMap.get (fun _ => Endpoint.unbound) c.ends q
def Coach.setEndp (c : Coach) (q : Nat) (e : Endpoint) : Coach :=
  { c with ends := SMap.put (fun _ => Endpoint.unbound) c.ends q e }

/-- The circuit on which an endpoint reports: the first live one. -/
def Endpoint.circuit (e : Endpoint) : BitVec 16 := if e.liveA then e.circA else e.circB

/-- A coach's endpoint sends a report to its partner, at its slice's charge (R456). -/
def State.sendReport (s : State) (c : Coach) (e : Endpoint) (ty : Nat) (payload : List Byte) : State :=
  let die := quadDie c.quad
  (s.charge c.slice .linkFlit 1).sendFlit die
    (mkFlit ty 3 (s.sliceDomain die c.slice) (s.node die) e.peer (word (e.circuit.toNat * 2 ^ 48)) payload)

/-- A CQCLOSE with the final ROWSEQ (R408, R421, R425). -/
def State.sendClose (s : State) (c : Coach) (e : Endpoint) (brk : Bool) : State :=
  s.sendReport c e 12 (bytesOfNat 4 (if e.recv then e.mark else e.next).toNat ++ [if brk then 1#8 else 0#8])

/-- A CQCRED with the next expected ROWSEQ and the rows taken (R408, R418). -/
def State.sendCred (s : State) (c : Coach) (e : Endpoint) : State :=
  s.sendReport c e 11 (bytesOfNat 4 e.next.toNat ++ bytesOfNat 4 e.mark.toNat)

/-- Every endpoint of a coach that is still bound is unbound as its coach goes (R421). -/
def State.unbindAll (s : State) (c : Coach) : State :=
  (List.range 8).foldl (fun s q => if (c.endp q).bound then s.sendClose c (c.endp q) true else s) s

end Sys2Proof.Machine
end

