-- ==== Sys2Proof/Machine/Launch.lean ====
section
/-! DEFINITION. Launch: fault codes and records, and the abort of a launch (R305, R306, R335, R336, R374). -/

namespace Sys2Proof.Machine

/-! ## Fault codes (R336) -/

def codeS1NotPresent : Nat := 0x0101
def codeS1Permission : Nat := 0x0102
def codeS2NotPresent : Nat := 0x0111
def codeS2Permission : Nat := 0x0112
def codeWindow : Nat := 0x0121
def codePullLost : Nat := 0x0132
def codeUndef : Nat := 0x0201
def codePriv : Nat := 0x0202
def codeFetchRange : Nat := 0x0203
def codeDescSpace : Nat := 0x0204
def codeDescRange : Nat := 0x0205
def codeEngineAccess : Nat := 0x0206
def codeTokenTimeout : Nat := 0x0207
def codeFpInvalid : Nat := 0x0301
def codePoison : Nat := 0x0401
def codeUe : Nat := 0x0402
def codeKat : Nat := 0x0403
def codeTxConflict : Nat := 0x0501
def codeCocoonFull : Nat := 0x0502
def codeTxSelf : Nat := 0x0503
def codeTxKilled : Nat := 0x0504
def codeTxIrrev : Nat := 0x0505
def codeScopeMismatch : Nat := 0x0601
def codeBarrierTimeout : Nat := 0x0602
def codeSemRange : Nat := 0x0603
def codeLinkDown : Nat := 0x0701
def codeCqBroken : Nat := 0x0702
def codeRemoteNack : Nat := 0x0703
def codeIndeterminate : Nat := 0x0704
def codeSlotTable : Nat := 0x0705
def codeHostUnsupported : Nat := 0x0801
def codeHostAbort : Nat := 0x0802
def codeHostTimeout : Nat := 0x0803
def codePreemptKill : Nat := 0x0901
def codeQueueOverflow : Nat := 0x0902
def codeWatchPrecise : Nat := 0x0A01
def codeWatchEngine : Nat := 0x0A02
def codeWatchRemote : Nat := 0x0A03
def codeBreak : Nat := 0x0A04
def codeEcall : Nat := 0x0A05
def codeWsetNospace : Nat := 0x0B01
def codeWsetShard : Nat := 0x0B02
def codeWsetSignature : Nat := 0x0B03
def codeRights : Nat := 0x0C01

/-- The class of a fault code (R335, R336). -/
def faultClass (code : Nat) : Nat :=
  if code = 0x0101 ∨ code = 0x0102 then 0
  else if code = 0x0111 ∨ code = 0x0112 ∨ code = 0x0132 then 1
  else if code = 0x0121 ∨ code / 256 = 4 ∨ code / 256 = 12 then 7
  else if code / 256 = 3 then 3
  else if code / 256 = 5 then 4
  else if code / 256 = 7 ∨ code / 256 = 8 ∨ code / 256 = 11 then 5
  else if code / 256 = 10 then 6
  else 2

/-- The home level of a class: 0 O, 1 D, 2 S (R335). -/
def classHome (cls : Nat) : Nat :=
  match cls with
  | 1 => 1
  | 7 => 0
  | _ => 2

/-- The key of a level's route block: slice 0-63, domain 64-79, operator 80 (R337). -/
def levelKey (level slice domain : Nat) : Nat :=
  match level with
  | 0 => 80
  | 1 => 64 + domain
  | _ => slice

/-- A fault record (R374); TIME is bits 41:10 of the timestamp when it is taken. -/
def mkRecord (s : State) (handle : BitVec 24) (epc : Word) (code : Nat) (eng : Bool) (faddr fprog : Word)
    (vtag : BitVec 16) (slice domain : Nat) : FaultRec where
  handle := handle
  epc := epc.setWidth 17
  cls := faultClass code
  overrun := false
  frozen := code == codeWindow
  info := false
  eng := eng
  code := BitVec.ofNat 16 code
  faddr := faddr
  fprog := fprog
  vtag := vtag
  slice := slice
  domain := domain
  time := word (bits s.tsc 41 10)
  level := 3

/-- A record sets out for a level on a die; FAULT_DELIVERY takes it from there (R338). -/
def State.post (s : State) (r : FaultRec) (level die : Nat) : State :=
  { s with
    nextReq := s.nextReq + 1
    faults := s.faults ++ [{ id := s.nextReq, body := r, level := level, die := die, waiting := false }] }

/-- The record of a coach, an engine queue or a slice's launch, with the informed copies of class 7
(R335). -/
def State.postSlice (s : State) (r : FaultRec) (die : Nat) : State :=
  let s := s.post r (levelKey (classHome r.cls) r.slice r.domain) die
  if r.cls = 7 then
    (s.post { r with info := true } (64 + r.domain) die).post { r with info := true } r.slice die
  else s

/-- The record of a Dray strand (R335): its class's home when that is above the served level, else the
level directly above; level O reports to strand 0 of its die (key 81), strand 0 itself to BOOTSTAT (82). -/
def State.postDray (s : State) (r : FaultRec) (die k : Nat) : State :=
  let served := s.strandServed die k
  match s.strandLevel die k with
  | 0 => s.post r (if k = 0 then 82 else 81) die
  | 1 =>
    let s := s.post r 80 die
    if r.cls = 7 then s.post { r with info := true } (64 + served) die else s
  | _ =>
    let dom := s.sliceDomain die served
    if r.cls = 7 then
      ((s.post r 80 die).post { r with info := true } (64 + dom) die).post { r with info := true } served die
    else s.post r (64 + dom) die

/-! ## Abort (R301, R305, R306) -/

/-- The threads of a coach leave the waiting queues of its core's semaphores (R149, R150). -/
def State.dropWaiters (s : State) (q : Nat) : State :=
  [0, 1, 2, 3].foldl (fun s k => s.updQuad (4 * quadCore q + k) (fun x =>
    { x with semWait := x.semWait.filter (fun w => threadQuad w.2 != q) })) s

/-- A coach's quadrant time since it was last counted goes into its die's share window (R260). -/
def State.tally (s : State) (q : Nat) : State :=
  match s.coach? q with
  | none => s
  | some c =>
    let n := (s.tsc - c.tallied) * word c.quads.length
    (s.updDie (quadDie q) (fun d => { d with
      winTime := SMap.put zeroWord d.winTime c.slice (SMap.get zeroWord d.winTime c.slice + n) })).updCoach q (fun c =>
        { c with tallied := s.tsc })

/-- A coach leaves at once: its streams, queues and deferral entries go with it, and its endpoints close. -/
def State.dropCoach (s : State) (q : Nat) : State :=
  match s.coach? q with
  | none => s
  | some c =>
    let s := ((s.tally q).unbindAll c).dropWaiters q
    { s with
      coaches := s.coaches.filter (fun c => c.quad != q)
      homeq := s.homeq.filter (fun r => r.tag.isNone || onDray r.by_ || threadQuad r.by_ != q)
      waiting := s.waiting.filter (fun w => onDray w.req.by_ || threadQuad w.req.by_ != q) }

/-- Every coach of a launch stops at once. -/
def State.stopCoaches (s : State) (tag : Nat) : State :=
  (s.coaches.filter (fun c => c.tag == tag)).foldl (fun s c => s.dropCoach c.quad) s

/-- An abort cause strikes a launch (R305). In RUNNING the entry becomes ABORTING, its coaches stop, its
walker entries go and its held records are dropped; the dies then discard its staged bytes (DISCARD_ACK), and its
claims go when that is done (R293). An irrevocable launch keeps what it wrote and ends once its coaches have stopped (R301).
In any other state, or after an earlier cause, nothing happens. -/
def State.abortLaunch (s : State) (tag cause : Nat) (other : BitVec 16) (user : BitVec 13) : State :=
  match s.launch? tag with
  | none => s
  | some l =>
    if l.cause ≠ 0#16 then s
    else
      let stop (s : State) : State :=
        let s := s.stopCoaches tag
        let s := s.updLaunch tag (fun l => { l with
          cause := BitVec.ofNat 16 cause, other := other, user := user, acks := 0#4, held := [], promoting := false })
        { s with walkers := s.walkers.filter (fun w => w.tag != tag) }
      match (s.tag tag).st with
      | .running => (stop s).setTag tag { s.tag tag with st := .aborting }
      | .irrev => stop s
      | _ => s

/-- The launch of a slice's coach aborts with a cause; nothing happens for a Dray strand. -/
def State.abortOf (s : State) (th : ThreadId) (cause : Nat) : State :=
  match s.launchOf th with
  | some l => s.abortLaunch l.tag cause 0#16 0#13
  | none => s

/-- The version tag of a thread's launch; 0 outside launches. -/
def State.vtagOf (s : State) (th : ThreadId) : BitVec 16 :=
  match s.launchOf th with
  | some l => s.vtag l.tag
  | none => 0#16

/-! ## A coach at binding -/

/-- A coach that has just been bound (R92, R139, R140, R253): every register, descriptor and queue is empty. -/
def newCoach (quad : Nat) (shape : BitVec 2) (slice tag point temporal : Nat) (args now tsc : Word) : Coach where
  quad := quad
  shape := shape
  slice := slice
  tag := tag
  point := point
  temporal := temporal
  phase := .loading
  args := args
  strands := []
  sk := Stream.start
  sl := Stream.start
  sx := Stream.start
  ss := Stream.start
  descs := []
  fifo := []
  owed := []
  semView := []
  barView := []
  ends := []
  maskSel := 0#3
  resume := 0#10
  spx := false
  iov := false
  retired := 0#64
  unit := []
  defer := []
  deferPark := none
  deferFrozen := false
  matq := []
  matPark := none
  matFrozen := false
  froze := false
  setA := none
  setB := none
  activeB := false
  flip := false
  kat := none
  copyq := []
  copyPark := none
  copyFrozen := false
  hashL := HashState.empty
  hashS := HashState.empty
  held := none
  frozen := false
  nextSeq := 0
  spm := []
  vatom := none
  past := []
  clocks := 0#64
  boundAt := now
  useA := (shapeQuads shape quad).length * 0x30000
  useW := (shapeQuads shape quad).length * 0x30000
  useC := (shapeQuads shape quad).length * 0x100000
  stopAt := none
  tallied := tsc

/-- A launch at its take (R256, R285): nothing started, held, claimed or acknowledged. -/
def newLaunch (tag die slot slice queue ringIdx : Nat) (lnr : Word) (hdr : List Word) (args age : Word)
    (attempt : Nat) (code : List IWord) : Launch where
  tag := tag
  die := die
  slot := slot
  slice := slice
  queue := queue
  ringIdx := ringIdx
  lnr := lnr
  hdr := hdr
  args := args
  age := age
  attempt := attempt
  opened := false
  irrev := false
  promoting := false
  ready := false
  started := 0#4
  held := []
  claims := []
  runs := []
  acks := 0#4
  cause := 0#16
  other := 0#16
  user := 0#13
  reported := false
  retryAt := 0#64
  code := code

end Sys2Proof.Machine
end

