-- ==== Sys2Proof/Machine/Uses.lean ====
section
/-! DEFINITION. Uses: the scalar registers that a word of an X stream reads or writes (R161). -/

namespace Sys2Proof.Machine

/-- The scalar registers that a word of the common block or of the X block names. -/
def regsOf (i : Instr) : List (BitVec 4) :=
  match i with
  | .add _ d a b => [d, a, b]
  | .sub _ d a b => [d, a, b]
  | .andd _ d a b => [d, a, b]
  | .orr _ d a b => [d, a, b]
  | .xorr _ d a b => [d, a, b]
  | .shl _ d a b => [d, a, b]
  | .shr _ d a b => [d, a, b]
  | .sra _ d a b => [d, a, b]
  | .slt _ d a b => [d, a, b]
  | .sltu _ d a b => [d, a, b]
  | .min _ d a b => [d, a, b]
  | .max _ d a b => [d, a, b]
  | .minu _ d a b => [d, a, b]
  | .maxu _ d a b => [d, a, b]
  | .andn _ d a b => [d, a, b]
  | .lea0 _ d a b => [d, a, b]
  | .lea1 _ d a b => [d, a, b]
  | .lea2 _ d a b => [d, a, b]
  | .lea3 _ d a b => [d, a, b]
  | .mul _ d a b => [d, a, b]
  | .mulh _ d a b => [d, a, b]
  | .mulhu _ d a b => [d, a, b]
  | .div _ d a b => [d, a, b]
  | .divu _ d a b => [d, a, b]
  | .rem _ d a b => [d, a, b]
  | .remu _ d a b => [d, a, b]
  | .clz _ d a => [d, a]
  | .ctz _ d a => [d, a]
  | .popc _ d a => [d, a]
  | .sext8 _ d a => [d, a]
  | .sext16 _ d a => [d, a]
  | .sext32 _ d a => [d, a]
  | .zext8 _ d a => [d, a]
  | .zext16 _ d a => [d, a]
  | .zext32 _ d a => [d, a]
  | .brev _ d a => [d, a]
  | .addi _ d a _ => [d, a]
  | .andi _ d a _ => [d, a]
  | .ori _ d a _ => [d, a]
  | .xori _ d a _ => [d, a]
  | .slti _ d a _ => [d, a]
  | .sltiu _ d a _ => [d, a]
  | .shli _ d a _ => [d, a]
  | .shri _ d a _ => [d, a]
  | .srai _ d a _ => [d, a]
  | .muli _ d a _ => [d, a]
  | .li _ d _ => [d]
  | .likH1 _ d _ => [d]
  | .likH2 _ d _ => [d]
  | .likH3 _ d _ => [d]
  | .bEq _ a b _ => [a, b]
  | .bNe _ a b _ => [a, b]
  | .bLt _ a b _ => [a, b]
  | .bGe _ a b _ => [a, b]
  | .bLtu _ a b _ => [a, b]
  | .bGeu _ a b _ => [a, b]
  | .jr _ d a _ => [d, a]
  | .loop _ a _ => [a]
  | .semP _ a _ => [a]
  | .semV _ a _ => [a]
  | .semTryp _ d a _ => [d, a]
  | .semRead _ d a _ => [d, a]
  | .ld _ tr b _ _ _ => [tr, b]
  | .ldu _ tr b _ _ _ => [tr, b]
  | .st _ tr b _ _ _ => [tr, b]
  | .lda _ tr b _ _ _ _ => [tr, b]
  | .stl _ tr b _ _ _ _ => [tr, b]
  | .ldsp _ tr b _ _ _ => [tr, b]
  | .stsp _ tr b _ _ _ => [tr, b]
  | .fenceAcq _ a _ _ => [a]
  | .fenceRel _ a _ _ => [a]
  | .fenceFull _ a _ _ => [a]
  | .csrr _ d _ => [d]
  | .csrw _ d a _ => [d, a]
  | .csrs _ d a _ => [d, a]
  | .csrc _ d a _ => [d, a]
  | .qfeat _ d a _ => [d, a]
  | .timeNs _ d => [d]
  | .timeClocks _ d => [d]
  | .timeEnergy _ d => [d]
  | .idCoach _ d => [d]
  | .idCore _ d => [d]
  | .idCluster _ d => [d]
  | .idDie _ d => [d]
  | .idSlice _ d => [d]
  | .idShape _ d => [d]
  | .waite _ a _ => [a]
  | .dset _ _ sr => [sr, sr + 1#4, sr + 2#4, sr + 3#4]
  | .dget _ _ sr => [sr, sr + 1#4, sr + 2#4, sr + 3#4]
  | .dadd _ _ sr => [sr]
  | .vbcs _ _ sr _ => [sr]
  | .vmovs _ _ sr _ => [sr]
  | .vins _ _ sr _ => [sr]
  | .vld _ _ _ sr _ => [sr]
  | .vst _ _ _ sr _ => [sr]
  | .vatomAdd _ _ _ sr _ => [sr]
  | .vatomMin _ _ _ sr _ => [sr]
  | .vatomMax _ _ _ sr _ => [sr]
  | .vatomSwp _ _ _ sr _ => [sr]
  | .vdefer _ _ _ sr _ => [sr]
  | .mpopc _ sr _ => [sr]
  | .mstatOccupancy _ d => [d]
  | .mstatSticky _ d => [d]
  | .mstatRetired _ d => [d]
  | .jal _ _ => [15#4]
  | _ => []

end Sys2Proof.Machine
end

