-- ==== Sys2Proof/Machine/Ops.lean ====
section
/-! DEFINITION. Ops: taking an exception and returning from one (R18, R97, R99, R152, R341), and the frame
of every fetched word: the checks of R44, tokens, completion and the program counter (R17, R106, R108). -/

namespace Sys2Proof.Machine

/-! ## Taking an exception -/

/-- The thread with its fault registers written (R97): EPC, FCODE (ENG clear), FADDR and FPROG; it stops,
and its handling level is open (3) until the record is delivered. A WATCH_PRECISE stop sets the skip latch
(R383); any other fault clears it. -/
def Strand.stop (st : Strand) (code : Nat) (faddr fprog epc : Word) : Strand :=
  { st with
    epc := epc &&& 0x1FFFF#64
    fcode := word code
    faddr := faddr
    fprog := fprog
    run := .stopped 3
    popped := 0
    granted := false
    skip := code == codeWatchPrecise
    reply := []
    replyPoison := false
    late := 0#32
    begun := false }

/-- The token that a thread's current word took goes back before any other word can see the count (R18). -/
def State.giveBack (s : State) (th : ThreadId) : State :=
  match th, s.strand? th with
  | .coach q p, some st =>
    if st.popped = 0 then s
    else
      let i := (streamOfPart p).index
      s.updCoach q (fun c => c.returnToken (selected i st.popped) i)
  | _, _ => s

/-- Time in which the coach is held or frozen does not count: the time waited so far is kept. -/
def Endpoint.pauseWait (e : Endpoint) (now : Word) : Endpoint :=
  match e.waitFrom with
  | some t => { e with waited := e.waited + (now - t), waitFrom := none }
  | none => e

/-- Waiting on endpoints does not count while a coach is held or frozen (R425). -/
def Coach.pauseEnds (c : Coach) (now : Word) : Coach :=
  { c with ends := c.ends.map (fun e => (e.1, e.2.pauseWait now)) }

/-- A coach is frozen: its streams and queues come to their stops as at rung 2 (R341). -/
def Coach.freeze (c : Coach) (now : Word) : Coach :=
  { c.pauseEnds now with frozen := true, stopAt := c.stopAt.or (some now) }

/-- WINDOW_VIOLATION freezes its master as FREEZE does (R338): the coach of a stream or strand, or the Dray strand. -/
def State.freezeMaster (s : State) (th : ThreadId) : State :=
  match th with
  | .coach q _ => s.updCoach q (fun c => c.freeze s.tsc)
  | .dray d k => s.updDray d k (fun x => { x with th := { x.th with frozen := true } })

/-- The record of a thread's precise fault sets out (R335, R374). -/
def State.postThread (s : State) (th : ThreadId) (code : Nat) (faddr fprog epc : Word) : State :=
  let r := mkRecord s (threadHandle th) epc code false faddr fprog (s.vtagOf th)
    ((s.sliceOf th).getD 0) ((s.domainOf th).getD 0)
  match th with
  | .coach q _ => s.postSlice r (quadDie q)
  | .dray d k => s.postDray r d k

/-- Taking a precise fault (R97, R99): the word has no effect and its token goes back, the strand or stream
stops with EPC at the restart point, and the record is routed. WINDOW_VIOLATION freezes the master (R338);
POISON_CONSUMED aborts the launch of a coach (R373). -/
def State.takeFault (s : State) (th : ThreadId) (code : Nat) (faddr fprog epc : Word) : State :=
  let s := s.postThread th code faddr fprog epc
  let s := (s.giveBack th).updStrand th (fun st => st.stop code faddr fprog epc)
  if code = codeWindow then s.freezeMaster th
  else if code = codePoison then s.abortOf th codePoison
  else s

/-- A value as given, or a free one where the manual states none (log entry 6). -/
def State.orFree (s : State) (v : Option Word) : State × Word :=
  match v with
  | some v => (s, v)
  | none => s.drawWord

/-- A report to a slice, routed by its code's class (R335). What the manual states no value for is free. -/
def State.reportSlice (s : State) (die slice code : Nat) (faddr fprog : Option Word) (vtag : BitVec 16) : State :=
  let e := s.drawWord
  let a := e.1.orFree faddr
  let p := a.1.orFree fprog
  p.1.postSlice (mkRecord p.1 0#24 e.2 code false a.2 p.2 vtag slice (s.sliceDomain die slice)) die

/-- Taking a precise fault whose FADDR or FPROG the manual may leave open. -/
def State.takeOpen (s : State) (th : ThreadId) (code : Nat) (faddr fprog : Option Word) (epc : Word) : State :=
  let a := s.orFree faddr
  let p := a.1.orFree fprog
  p.1.takeFault th code a.2 p.2 epc

/-- Returning from a precise fault (ERET, R341): the thread resumes at EPC.ADDR, and its fault registers
keep their values. -/
def Strand.resume (st : Strand) : Strand := { st with pc := st.epc, run := .ready }

/-- An engine fault's copy in the issuing stream (R152): code with ENG, address, progress and issuing PC,
unless that stream is stopped on a precise fault of its own. -/
def Strand.engineCopy (st : Strand) (code : Nat) (faddr fprog epc : Word) : Strand :=
  match st.run with
  | .stopped _ => st
  | _ => { st with epc := epc &&& 0x1FFFF#64, fcode := word (code + 0x10000), faddr := faddr, fprog := fprog }

/-- The queues of a coach that park on an engine fault (R152). -/
inductive QueueId where
  | copy | matrix | defer
deriving DecidableEq, Repr

/-- The handle part of a queue (R339). -/
def QueueId.part (k : QueueId) : Nat :=
  match k with
  | .copy => 16
  | .matrix => 17
  | .defer => 18

def Coach.park (c : Coach) (k : QueueId) (r : Option FaultRec) : Coach :=
  match k with
  | .copy => { c with copyPark := r }
  | .matrix => { c with matPark := r }
  | .defer => { c with deferPark := r }

def Coach.parked (c : Coach) (k : QueueId) : Option FaultRec :=
  match k with
  | .copy => c.copyPark
  | .matrix => c.matPark
  | .defer => c.deferPark

def Coach.freezeQueue (c : Coach) (k : QueueId) (b : Bool) : Coach :=
  match k with
  | .copy => { c with copyFrozen := b }
  | .matrix => { c with matFrozen := b }
  | .defer => { c with deferFrozen := b }

def Coach.queueFrozen (c : Coach) (k : QueueId) : Bool :=
  match k with
  | .copy => c.copyFrozen
  | .matrix => c.matFrozen
  | .defer => c.deferFrozen

/-- Taking an engine fault (R152, R374): the queue parks with its record, the issuing stream gets its copy,
and the record is routed. WINDOW_VIOLATION freezes the queue (R338); POISON_CONSUMED aborts the launch. -/
def State.engineFault (s : State) (q : Nat) (k : QueueId) (part code : Nat) (faddr fprog epc : Word) : State :=
  match s.coach? q with
  | none => s
  | some c =>
    let r := mkRecord s (BitVec.ofNat 24 (q * 32 + k.part)) epc code true faddr fprog (s.vtag c.tag) c.slice
      (s.sliceDomain (quadDie q) c.slice)
    let s := s.updCoach q (fun c =>
      (c.park k (some r)).updStrand part (fun st => st.engineCopy code faddr fprog epc))
    let s := if code = codeWindow then s.updCoach q (fun c => c.freezeQueue k true) else s
    let s := s.postSlice r (quadDie q)
    if code = codePoison then s.abortLaunch c.tag codePoison 0#16 0#13 else s

/-! ## Completion and the program counter -/

/-- The loop stack after the instruction at `pc` completes without transferring control, and the next word
address (R108); the instruction takes `n` words with the trailing words that it steps over (R15). -/
def loopNext (loops : List LoopEntry) (pc : Word) (n : Nat) : List LoopEntry × Word :=
  match loops with
  | [] => ([], pc + word n)
  | e :: es =>
    if e.stop = pc then
      if e.remaining - 1#64 ≠ 0#64 then ({ e with remaining := e.remaining - 1#64 } :: es, e.start)
      else loopNext es pc n
    else (e :: es, pc + word n)

/-- The loop stack after a taken branch or J: entries are popped until the target lies in the innermost
remaining body (R108). -/
def loopLeave (loops : List LoopEntry) (target : Word) : List LoopEntry :=
  match loops with
  | [] => []
  | e :: es => if e.start ≤ target ∧ target ≤ e.stop then e :: es else loopLeave es target

/-- The thread once its word has completed: what the word held while it waited is cleared. -/
def Strand.clearWait (st : Strand) : Strand :=
  { st with popped := 0, granted := false, skip := false, reply := [], replyPoison := false, late := 0#32, begun := false }

/-- The thread moves past an instruction of `n` words (R15, R106, R108). -/
def Strand.advance (n : Nat) (st : Strand) : Strand :=
  { st.clearWait with pc := (loopNext st.loops st.pc n).2, loops := (loopNext st.loops st.pc n).1 }

/-- The push of a word that completes (R17): one token into its FIFO. -/
def State.pushToken (s : State) (k : Tok) : State :=
  match s.cur with
  | .coach q p =>
    if k.push = 0#2 then s
    else
      let i := (streamOfPart p).index
      s.updCoach q (fun c => c.pushToken i (selected i k.push.toNat))
  | .dray _ _ => s

/-- What every completion does beside: on an X stream the VATOM resume lane returns to 0 (R179). -/
def State.settled (s : State) : State :=
  match s.cur with
  | .coach q 9 => s.updCoach q (fun c => { c with resume := 0#10 })
  | _ => s

/-- Completion of the running word, which leaves the thread as `f` says: it pushes (R17). -/
def State.completeBy (s : State) (k : Tok) (f : Strand → Strand) : State := ((s.updMe f).pushToken k).settled

/-- Completion of the running instruction of `n` words: it pushes and the thread moves on. -/
def State.complete (s : State) (k : Tok) (n : Nat) : State := s.completeBy k (Strand.advance n)

/-- What a word does once every check before its execution has passed (R44). -/
inductive Res where
  /-- It completes, and the next word follows. -/
  | done (s : State)
  /-- It completes and branches, and loops that the target leaves are popped (R106, R108). -/
  | goto (s : State) (target : Word)
  /-- It completes and jumps, and the loop stack is kept (R108). -/
  | call (s : State) (target : Word)
  /-- It completes, and the thread fetches no more. -/
  | halt (s : State)
  /-- An engine has accepted it: its push is owed, and the thread moves on, or waits in place for the
  operation when it is in precise mode (R384). -/
  | queued (s : State) (wait : Option Nat)
  /-- It waits, and is executed again when the wait is over. -/
  | wait (s : State) (w : Wait)
  /-- It raises a precise fault: code, FADDR, FPROG; `none` is a value that the manual does not state. -/
  | fault (s : State) (code : Nat) (faddr fprog : Option Word)
  /-- It raises a precise fault whose restart point is the next word (R125). -/
  | trap (s : State) (code : Nat) (faddr fprog : Option Word)
  /-- Its own thread has gone with it. -/
  | gone (s : State)
  /-- The manual does not say what it does. -/
  | refuse (r : Refusal)

/-- Waiting: the thread parks, and its clock starts. DESIGN CHOICE: an abandoned wait that is executed again starts afresh, a
barrier's too (log entry 138). -/
def Strand.parkOn (st : Strand) (w : Wait) (now : Word) : Strand := { st with run := .parked w, since := now }

/-- The thread after a branch or J: loops that the target leaves are popped (R106, R108). -/
def Strand.branchTo (st : Strand) (target : Word) : Strand :=
  { st.clearWait with pc := target, loops := loopLeave st.loops target }

/-- The thread after a JAL or JR, which keep the loop stack (R108). -/
def Strand.jumpKeep (st : Strand) (target : Word) : Strand := { st.clearWait with pc := target }

/-- The thread after its last word (R109). -/
def Strand.finish (st : Strand) : Strand := { st.clearWait with run := .idle, loops := [] }

/-- Bringing a word's outcome about. -/
def Res.apply (r : Res) (k : Tok) (n : Nat) (pc : Word) (th : ThreadId) : Host.Outcome State Fault Refusal :=
  match r with
  | .done s => .next (s.complete k n)
  | .goto s t => .next (s.completeBy k (fun st => st.branchTo t))
  | .call s t => .next (s.completeBy k (fun st => st.jumpKeep t))
  | .halt s => .next (s.completeBy k Strand.finish)
  | .queued s none => .next (s.updMe (Strand.advance n)).settled
  | .queued s (some o) => .next (s.updMe (fun st => (st.advance n).parkOn (.preciseOp o) s.tsc)).settled
  | .wait s w => .next (s.updMe (fun st => { st.parkOn w s.tsc with begun := true }))
  | .fault s code a p => .next (s.takeOpen th code a p pc)
  | .trap s code a p => .next (s.takeOpen th code a p (pc + 1#64))
  | .gone s => .next s
  | .refuse r => .refused r

/-! ## The checks before execution (R44) -/

/-- The code range of a thread, in word addresses: a coach's stream counts from 0 (R13), a Dray strand has
[CBASE, CLIMIT) (R267). -/
def State.codeRange (s : State) (th : ThreadId) : Nat × Nat :=
  match th with
  | .coach _ _ => (0, ((s.stream? th).map (fun t => t.codeLen)).getD 0)
  | .dray d k => (s.strandCbase d k, s.strandClimit d k)

/-- A word address lies in a thread's code range. -/
def State.inRange (s : State) (th : ThreadId) (a : Word) : Bool :=
  (s.codeRange th).1 ≤ a.toNat && a.toNat < (s.codeRange th).2

/-- The word at an address of a thread's code: the lead quadrant's active plane (R143), or private memory. -/
def State.codeWord (s : State) (th : ThreadId) (a : Nat) : IWord :=
  match th with
  | .coach q _ =>
    let x := s.quad q
    let base := ((s.stream? th).map (fun t => t.codeBase)).getD 0
    SMap.get (fun _ => 0#32) (if x.activeB then x.planeB else x.planeA) (base + a)
  | .dray d _ => BitVec.ofNat 32 (natOfBytes (s.pmBytes d (4 * a) 4))

/-- The word of R43's record for an instruction. -/
def instrWord (i : Instr) : IWord := (encode i).headD 0#32

/-- Every feature bit that a word needs is set for the executing task; Dray strands are never masked
(R348). -/
def State.hasFeatures (s : State) (fs : List Nat) : Bool :=
  match s.cur with
  | .coach q _ => fs.all (fun f => (s.features (((s.coach? q).map (fun c => c.slice)).getD 0)).getLsbD f)
  | .dray _ _ => true

/-- UNDEF (R43): FADDR is the word's address and FPROG the word. -/
def State.undef (s : State) (w : IWord) : State :=
  s.takeFault s.cur codeUndef s.me.pc (w.setWidth 64) s.me.pc

/-- What stands in the way of a word's tokens (R17, R100): a FIFO with no token beside those of the strands that wait on it, a FIFO that is
full, or, for an engine operation, eight pushes already owed. A token already taken is not taken twice. -/
def State.tokenWait (s : State) (k : Tok) (engineOp : Bool) : Option Wait :=
  match s.cur with
  | .dray _ _ => none
  | .coach q p =>
    match s.coach? q with
    | none => none
    | some c =>
      let i := (streamOfPart p).index
      let inKey := fifoKey (selected i k.pop.toNat) i
      let outKey := fifoKey i (selected i k.push.toNat)
      if k.pop ≠ 0#2 ∧ (c.strand p).popped = 0 ∧ c.fifoCount inKey ≤ c.tokenWaiters (selected i k.pop.toNat) i 8 then
        some (.token (selected i k.pop.toNat))
      else if k.push = 0#2 then none
      else if engineOp then
        if c.owedCount outKey ≥ 8 then some (.owed (selected i k.push.toNat)) else none
      else if c.fifoCount outKey ≥ 15 then some (.owed (selected i k.push.toNat))
      else none

/-- A thread takes a token of the FIFO from stream src, and acquires what the tokens of that FIFO have released (R17, R316). -/
def State.popFrom (s : State) (q p src sel : Nat) : State :=
  let i := (streamOfPart p).index
  let left := (s.writesOut (fun _ _ => true)).eraseDups
  s.updCoach q (fun c =>
    let old := SMap.get (fun _ => []) c.past (fifoKey src i)
    (c.popToken src i).updStrand p (fun st => { st with
      popped := sel, behind := left.filter (fun id => old.contains id || st.behind.contains id) }))

/-- Taking a word's token, once. -/
def State.takeToken (s : State) (k : Tok) : State :=
  match s.cur with
  | .dray _ _ => s
  | .coach q p =>
    if k.pop = 0#2 ∨ s.me.popped ≠ 0 then s
    else
      let i := (streamOfPart p).index
      s.popFrom q p (selected i k.pop.toNat) k.pop.toNat

/-- Where a word may be fetched, and what it needs (R12, R37, R44, R348). -/
structure WordClass where
  engines  : List Engine
  coachOnly : Bool
  minLevel : Nat
  right    : Option Nat
  features : List Nat
  engineOp : Bool
  words    : Nat := 1

/-- The common block (R33). -/
def commonWord : WordClass :=
  { engines := [.k, .l, .x, .s, .dray], coachOnly := false, minLevel := 3, right := none, features := [], engineOp := false }

/-- The common block's words that the Dray lacks (R34). -/
def coachWord : WordClass := { commonWord with coachOnly := true }

/-- Opcodes 0x40-0x5F of the K stream and the Dray (R35). -/
def kWord (features : List Nat) : WordClass :=
  { commonWord with engines := [.k, .dray], features := features }

/-- The system block (R37). -/
def sysWord (minLevel : Nat) (right : Option Nat) : WordClass :=
  { commonWord with engines := [.k, .dray], minLevel := minLevel, right := right }

/-- A word of the X stream (R38). -/
def xWord (features : List Nat) (engineOp : Bool) : WordClass :=
  { commonWord with engines := [.x], features := features, engineOp := engineOp }

/-- A word of the L and S streams (R39). -/
def lsWord (features : List Nat) (engineOp : Bool) : WordClass :=
  { commonWord with engines := [.l, .s], features := features, engineOp := engineOp }

/-- Check 2 of R44 for a decoded word: the engine has it, the Dray takes no token, no feature is masked. -/
def State.assigned (s : State) (cls : WordClass) (k : Tok) : Bool :=
  cls.engines.contains (threadEngine s.cur) &&
  (!onDray s.cur || (!cls.coachOnly && k.pop == 0#2 && k.push == 0#2)) && s.hasFeatures cls.features

/-- A right that a word needs is in the effective rights at this issue (check 4 of R44). -/
def State.mayUse (s : State) (right : Option Nat) : Bool :=
  match right with
  | none => true
  | some r => s.threadRight s.cur r

/-- A word's issue: checks 2 to 5 of R44 in order, then its body. A word that has begun its execution keeps the rights under
which it began (R45). -/
def issueWord (cls : WordClass) (w : IWord) (k : Tok) (body : State → Res) (s : State) :
    Host.Outcome State Fault Refusal :=
  if (s.strand? s.cur).isNone ∨ s.me.run ≠ .ready ∨ s.live s.cur = false then .fault .noIssuer
  else if s.assigned cls k = false then .next (s.undef w)
  else if s.levelOf s.cur > cls.minLevel then
    .next (s.takeFault s.cur codePriv s.me.pc (w.setWidth 64) s.me.pc)
  else if s.me.begun = false ∧ s.mayUse cls.right = false then
    .next (s.takeFault s.cur codeRights s.me.pc (w.setWidth 64) s.me.pc)
  else
    match s.tokenWait k cls.engineOp with
    | some wt => .next (s.updMe (fun st => st.parkOn wt s.tsc))
    | none => (body (s.takeToken k)).apply k cls.words s.me.pc s.cur

/-- The scalar register that a vector instruction still has to write (R161). -/
def VecOp.result (o : VecOp) : Option (BitVec 4) :=
  match o.ins with
  | .vmovs _ _ sr _ => some sr
  | .mpopc _ sr _ => some sr
  | _ => none

/-- A register that a word of an X stream names and that an earlier VMOVS or MPOPC has not written yet. -/
def State.scalarDue (s : State) (i : Instr) : Option Nat :=
  match s.cur with
  | .coach q 9 =>
    match s.coach? q with
    | some c =>
      ((regsOf i).find? (fun r => c.unit.any (fun o => o.result == some r))).map (fun r => r.toNat)
    | none => none
  | _ => none

/-- The issue of an instruction: one that names a register still to be written waits for it. -/
def issue (cls : WordClass) (i : Instr) (k : Tok) (body : State → Res) (s : State) :
    Host.Outcome State Fault Refusal :=
  issueWord cls (instrWord i) k (fun s =>
    match s.scalarDue i with
    | some r => .wait s (.scalarResult r)
    | none => body s) s

/-- Poison on a consumed operand raises POISON_CONSUMED before any other effect (R95). -/
def consume (p : Bool) (s : State) (r : Res) : Res := if p then .fault s codePoison none none else r

end Sys2Proof.Machine
end

