-- ==== Sys2Proof/Machine/Buffers.lean ====
section
/-! DEFINITION. Buffers: the typed buffers and tile registers of a coach, their poison, and the range checker
(R131, R135, R138, R147, R148, R154, R160). -/

namespace Sys2Proof.Machine

/-- Bytes of a buffer in one quadrant (R131); a coach's tile registers are the lead quadrant's. -/
def Buf.size (b : Buf) : Nat :=
  match b with
  | .abuf => 0x30000
  | .wbuf => 0x30000
  | .acc => 0x100000
  | .glatch => 0x10000
  | .tile => 0x10000

/-- Bytes of a coach's concatenated buffer (R135). -/
def Coach.bufSize (c : Coach) (b : Buf) : Nat :=
  match b with
  | .tile => b.size
  | _ => c.quads.length * b.size

/-- Bytes of a buffer that the coach's launch uses (R251). -/
def Coach.usedSize (c : Coach) (b : Buf) : Nat :=
  match b with
  | .abuf => Nat.min c.useA (c.bufSize b)
  | .wbuf => Nat.min c.useW (c.bufSize b)
  | .acc => Nat.min c.useC (c.bufSize b)
  | _ => c.bufSize b

/-- The quadrant and the offset in it of a byte of the concatenation (R135). -/
def Coach.locate (c : Coach) (b : Buf) (off : Nat) : Nat × Nat :=
  (c.quads.getD (off / b.size) c.quad, off % b.size)

def zeroByte (_ : Nat) : Byte := 0#8
def zeroCell (_ : Nat) : BitVec 32 := 0#32

/-! ## Tiles -/

/-- A cell of a tile register. -/
def Quadrant.cell (x : Quadrant) (t row col : Nat) : BitVec 32 :=
  SMap.get zeroCell x.tiles (t * 1024 + row * 32 + col)

def Quadrant.setCell (x : Quadrant) (t row col : Nat) (v : BitVec 32) : Quadrant :=
  { x with tiles := SMap.put zeroCell x.tiles (t * 1024 + row * 32 + col) v }

/-- Poison of a tile row (R160). -/
def Quadrant.rowPois (x : Quadrant) (t row : Nat) : Bool := SMap.get noFlag x.pTile (t * 32 + row)

def Quadrant.setRowPois (x : Quadrant) (t row : Nat) (p : Bool) : Quadrant :=
  { x with pTile := SMap.put noFlag x.pTile (t * 32 + row) p }

/-- A byte of a tile register, by its offset in the quadrant's tile file: byte 4 x cell + k (R154). -/
def Quadrant.tileByte (x : Quadrant) (off : Nat) : Byte :=
  BitVec.ofNat 8 ((SMap.get zeroCell x.tiles (off / 4)).toNat / 2 ^ (8 * (off % 4)))

def Quadrant.setTileByte (x : Quadrant) (off : Nat) (v : Byte) : Quadrant :=
  let old := (SMap.get zeroCell x.tiles (off / 4)).toNat
  let sh := 8 * (off % 4)
  let new := BitVec.ofNat 32 (old - (old / 2 ^ sh % 256) * 2 ^ sh + v.toNat * 2 ^ sh)
  { x with tiles := SMap.put zeroCell x.tiles (off / 4) new }

/-! ## Bytes of one quadrant -/

def Quadrant.byte (x : Quadrant) (b : Buf) (off : Nat) : Byte :=
  match b with
  | .abuf => SMap.get zeroByte x.abuf off
  | .wbuf => SMap.get zeroByte x.wbuf off
  | .acc => SMap.get zeroByte x.acc off
  | .glatch => SMap.get zeroByte x.glatch off
  | .tile => x.tileByte off

def Quadrant.setByte (x : Quadrant) (b : Buf) (off : Nat) (v : Byte) : Quadrant :=
  match b with
  | .abuf => { x with abuf := SMap.put zeroByte x.abuf off v }
  | .wbuf => { x with wbuf := SMap.put zeroByte x.wbuf off v }
  | .acc => { x with acc := SMap.put zeroByte x.acc off v }
  | .glatch => { x with glatch := SMap.put zeroByte x.glatch off v }
  | .tile => x.setTileByte off v

/-- Bytes of a poison granule: a 256-byte row of a buffer, a 128-byte row of a tile (R138, R160). -/
def Buf.granule (b : Buf) : Nat :=
  match b with
  | .tile => 128
  | _ => 256

def Quadrant.pois (x : Quadrant) (b : Buf) (g : Nat) : Bool :=
  match b with
  | .abuf => SMap.get noFlag x.pAbuf g
  | .wbuf => SMap.get noFlag x.pWbuf g
  | .acc => SMap.get noFlag x.pAcc g
  | .glatch => SMap.get noFlag x.pGlatch g
  | .tile => SMap.get noFlag x.pTile g

def Quadrant.setPois (x : Quadrant) (b : Buf) (g : Nat) (p : Bool) : Quadrant :=
  match b with
  | .abuf => { x with pAbuf := SMap.put noFlag x.pAbuf g p }
  | .wbuf => { x with pWbuf := SMap.put noFlag x.pWbuf g p }
  | .acc => { x with pAcc := SMap.put noFlag x.pAcc g p }
  | .glatch => { x with pGlatch := SMap.put noFlag x.pGlatch g p }
  | .tile => { x with pTile := SMap.put noFlag x.pTile g p }

/-! ## Bytes of a coach's concatenated buffers -/

/-- One byte. -/
def State.bufByte (s : State) (c : Coach) (b : Buf) (off : Nat) : Byte :=
  (s.quad (c.locate b off).1).byte b (c.locate b off).2

/-- Consecutive bytes. -/
def State.bufBytes (s : State) (c : Coach) (b : Buf) (off n : Nat) : List Byte :=
  (List.range n).map (fun i => s.bufByte c b (off + i))

/-- The granules of a buffer that an interval touches, as offsets of their first bytes. -/
def granulesOf (b : Buf) (off n : Nat) : List Nat :=
  if n = 0 then []
  else (List.range ((off + n - 1) / b.granule - off / b.granule + 1)).map (fun i => (off / b.granule + i) * b.granule)

/-- Any byte of an interval lies in a poisoned granule. -/
def State.bufPois (s : State) (c : Coach) (b : Buf) (off n : Nat) : Bool :=
  (granulesOf b off n).any (fun g =>
    (s.quad (c.locate b g).1).pois b ((c.locate b g).2 / b.granule))

/-- Writing one byte. -/
def State.setBufByte (s : State) (c : Coach) (b : Buf) (off : Nat) (v : Byte) : State :=
  s.updQuad (c.locate b off).1 (fun x => x.setByte b (c.locate b off).2 v)

/-- Writing consecutive bytes, poison apart. -/
def State.putBuf (s : State) (c : Coach) (b : Buf) (off : Nat) (bs : List Byte) : State :=
  match bs with
  | [] => s
  | v :: bs => (s.setBufByte c b off v).putBuf c b (off + 1) bs

/-- The poison that a write of an interval leaves: a granule that it covers whole takes the data's poison,
another one keeps its own as well (R160, R371). -/
def State.markBuf (s : State) (c : Coach) (b : Buf) (off n : Nat) (p : Bool) : State :=
  (granulesOf b off n).foldl (fun s g =>
    let whole := decide (off ≤ g) && decide (g + b.granule ≤ off + n)
    s.updQuad (c.locate b g).1 (fun x =>
      let i := (c.locate b g).2 / b.granule
      x.setPois b i (if whole then p else p || x.pois b i))) s

/-- Writing consecutive bytes with one poison for the data. -/
def State.writeBuf (s : State) (c : Coach) (b : Buf) (off : Nat) (bs : List Byte) (p : Bool) : State :=
  (s.putBuf c b off bs).markBuf c b off bs.length p

/-! ## The range checker (R147, R148) -/

/-- Two extents share a byte of one buffer, and one of them writes it. -/
def Extent.clash (a b : Extent) : Bool :=
  a.buf == b.buf && (a.wr || b.wr) && decide (a.lo < b.lo + b.len) && decide (b.lo < a.lo + a.len)

def extentsClash (as bs : List Extent) : Bool := as.any (fun a => bs.any (fun b => a.clash b))

/-- Acceptance numbers and extents of the unretired operations in the checker. -/
def Coach.entries (c : Coach) : List (Nat × List Extent) :=
  (c.unit.map (fun o => (o.seq, o.extents)) ++ c.matq.map (fun o => (o.seq, o.extents)) ++
    c.copyq.map (fun o => (o.seq, o.extents)) ++ c.spm.map (fun o => (o.2.1, [o.2.2]))).filter
      (fun e => !e.2.isEmpty)

/-- An operation must wait for one that was accepted earlier. -/
def Coach.blocked (c : Coach) (seq : Nat) (es : List Extent) : Bool :=
  c.entries.any (fun e => decide (e.1 < seq) && extentsClash e.2 es)

/-- The checker's 64 entries are in use. -/
def Coach.checkerFull (c : Coach) : Bool := decide (64 ≤ c.entries.length)

end Sys2Proof.Machine
end

