-- ==== Sys2Proof/Machine/Arith.lean ====
section
/-! DEFINITION. Arith: the integer functions of R86, R102, R103, R106 and R116. -/

namespace Sys2Proof.Machine

/-- Sign extension of a field to 64 bits. -/
def sx {n : Nat} (i : BitVec n) : Word := i.signExtend 64

def shlWord (a b : Word) : Word := a <<< (b.toNat % 64)
def shrWord (a b : Word) : Word := a >>> (b.toNat % 64)
def sraWord (a b : Word) : Word := a.sshiftRight (b.toNat % 64)
def sltWord (a b : Word) : Word := flagWord (a.slt b)
def sltuWord (a b : Word) : Word := flagWord (a.ult b)
def minWord (a b : Word) : Word := if a.slt b then a else b
def maxWord (a b : Word) : Word := if a.slt b then b else a
def minuWord (a b : Word) : Word := if a.ult b then a else b
def maxuWord (a b : Word) : Word := if a.ult b then b else a
def leaWord (n : Nat) (a b : Word) : Word := a + (b <<< n)

/-- The high half of the signed and of the unsigned 128-bit product (R102). -/
def mulhWord (a b : Word) : Word := BitVec.ofInt 64 ((a.toInt * b.toInt) / 2 ^ 64)
def mulhuWord (a b : Word) : Word := word (a.toNat * b.toNat / 2 ^ 64)

/-- Division truncates; a zero divisor gives all-ones or the dividend; -2^63 by -1 gives -2^63 and 0 (R86). -/
def divWord (a b : Word) : Word := if b = 0#64 then -1#64 else a.sdiv b
def divuWord (a b : Word) : Word := if b = 0#64 then -1#64 else a / b
def remWord (a b : Word) : Word := if b = 0#64 then a else a.srem b
def remuWord (a b : Word) : Word := if b = 0#64 then a else a % b

/-- Leading and trailing zero bits, and the number of set bits. -/
def clzWord (a : Word) : Word := word (((List.range 64).find? (fun i => a.getLsbD (63 - i))).getD 64)
def ctzWord (a : Word) : Word := word (((List.range 64).find? (fun i => a.getLsbD i)).getD 64)
def popcWord (a : Word) : Word := word ((List.range 64).filter (fun i => a.getLsbD i)).length

/-- Bit i moved to bit 63 - i. -/
def brevWord (a : Word) : Word := a.reverse

/-- BSEL: bits of b where the mask is set, bits of d elsewhere (R104). -/
def bselWord (d m b : Word) : Word := (b &&& m) ||| (d &&& ~~~ m)

/-- The branch conditions of R106. -/
inductive Cond where
  | eq | ne | lt | ge | ltu | geu
deriving DecidableEq, Repr

def Cond.holds (c : Cond) (a b : Word) : Bool :=
  match c with
  | .eq => a == b
  | .ne => a != b
  | .lt => a.slt b
  | .ge => !a.slt b
  | .ltu => a.ult b
  | .geu => !a.ult b

/-- Sign of an n-byte value held as a number. -/
def toSigned (n v : Nat) : Int := if v < 2 ^ (8 * n - 1) then (v : Int) else (v : Int) - 2 ^ (8 * n)

/-- The new value of an n-byte integer atomic; `cmp` is the compare value of ACAS. The float operations are those of
`atomNew`. -/
def AtomOp.apply (op : AtomOp) (n old v cmp : Nat) : Nat :=
  match op with
  | .add => (old + v) % 2 ^ (8 * n)
  | .and => old &&& v
  | .or => old ||| v
  | .xor => old ^^^ v
  | .swp => v
  | .cas => if old = cmp then v else old
  | .min => if toSigned n old < toSigned n v then old else v
  | .max => if toSigned n old < toSigned n v then v else old
  | .minu => if old < v then old else v
  | .maxu => if old < v then v else old
  | .fadd => old
  | .fmin => old
  | .fmax => old

end Sys2Proof.Machine
end

