-- ==== Sys2Proof/Machine/Operands.lean ====
section
/-! DEFINITION. Operands: the operand forms of the scalar words (R23, R95, R102-R104, R106). -/

namespace Sys2Proof.Machine

/-- WriteS of a computed value, and completion. -/
def writeS (d : BitVec 4) (v : Word) (p : Bool) (s : State) : Res := .done (s.setReg d v p)

/-- REG form: d := f(a, b) (R102). -/
def regForm (cls : WordClass) (i : Instr) (k : Tok) (d a b : BitVec 4) (f : Word → Word → Word) :
    State → Host.Outcome State Fault Refusal :=
  issue cls i k (fun s => writeS d (f (s.reg a) (s.reg b)) (s.pois a || s.pois b) s)

/-- The words of opcode 0x02 (feature bit 0 of R348). -/
def mulDivWord : WordClass := { commonWord with features := [0] }

/-- A divide (R105): the strand parks, and the stream's divider serves divides in issue order; with the result it is executed
again and completes. -/
def divForm (i : Instr) (k : Tok) (d a b : BitVec 4) (f : Word → Word → Word) : State → Host.Outcome State Fault Refusal :=
  issue mulDivWord i k (fun s =>
    if s.me.granted then writeS d (f (s.reg a) (s.reg b)) (s.pois a || s.pois b) s
    else .wait (s.updMyStream (fun t => { t with divider := t.divider ++ [threadPart s.cur] })) .divide)

/-- REG form with one source: d := f(a) (R102). -/
def bitsForm (i : Instr) (k : Tok) (d a : BitVec 4) (f : Word → Word) : State → Host.Outcome State Fault Refusal :=
  issue commonWord i k (fun s => writeS d (f (s.reg a)) (s.pois a) s)

/-- I13 form: d := f(a, i) (R103). -/
def immForm (i : Instr) (k : Tok) (d a : BitVec 4) (imm : Word) (f : Word → Word → Word) :
    State → Host.Outcome State Fault Refusal :=
  issue commonWord i k (fun s => writeS d (f (s.reg a) imm) (s.pois a) s)

/-- LIK: halfword n of d replaced (R104). -/
def likForm (i : Instr) (k : Tok) (d : BitVec 4) (n : Nat) (h : BitVec 16) :
    State → Host.Outcome State Fault Refusal :=
  issue commonWord i k (fun s => writeS d (setBits (s.reg d) (16 * n + 15) (16 * n) h.toNat) (s.pois d) s)

/-- A transfer of control to a word address; FETCH_RANGE when it leaves the code range (R14). -/
def jumpTo (s : State) (target : Word) (r : Res) : Res :=
  if s.inRange s.cur target then r else .fault s codeFetchRange target none

/-- BR form (R106). -/
def branchForm (i : Instr) (k : Tok) (a b : BitVec 4) (o : BitVec 13) (c : Cond) :
    State → Host.Outcome State Fault Refusal :=
  issue commonWord i k (fun s =>
    consume (s.pois a || s.pois b) s
      (if c.holds (s.reg a) (s.reg b) then
        jumpTo s (s.me.pc + sx o) (.goto s (s.me.pc + sx o))
      else .done s))

/-- A register value written to d without poison, from the state as it is. -/
def readForm (cls : WordClass) (i : Instr) (k : Tok) (d : BitVec 4) (f : State → Word) :
    State → Host.Outcome State Fault Refusal :=
  issue cls i k (fun s => writeS d (f s) false s)

end Sys2Proof.Machine
end

