-- ==== Sys2Proof/Machine/Csr.lean ====
section
/-! DEFINITION. Csr: the state registers (R22, R87, R88, R96-R98, R126, R352), the identifiers (R129, R350), time
(R128, R351), the feature leaves (R127, R348) and the energy accounts (R456). -/

namespace Sys2Proof.Machine

/-! ## Identifiers -/

/-- Entry v of a slice's core table (R350). -/
def State.coreEntry (s : State) (slice v : Nat) : Nat :=
  (SMap.get (fun _ => 0#16) s.coreTab (slice * 128 + v)).toNat

/-- A core-table entry is valid and names a physical core (die x 32 + core). -/
def entryIsCore (e core : Nat) : Bool :=
  e.testBit 15 && decide (e / 32 % 4 = core / 32) && decide (e % 32 = core % 32)

/-- The virtual core of a slice on a physical core. -/
def State.virtCore (s : State) (slice core : Nat) : Option Nat :=
  leastBelow 128 (fun v => entryIsCore (s.coreEntry slice v) core)

/-- The physical core of a virtual core. -/
def State.physCore (s : State) (slice v : Nat) : Option Nat :=
  let e := s.coreEntry slice v
  if v < 128 ∧ e.testBit 15 then some (e / 32 % 4 * 32 + e % 32) else none

/-- Entry k of a slice's die table. -/
def State.dieEntry (s : State) (slice k : Nat) : Nat := (SMap.get (fun _ => 0#8) s.dieTab (slice * 4 + k)).toNat

/-- The virtual die of a slice on a physical die. -/
def State.virtDie (s : State) (slice die : Nat) : Option Nat :=
  leastBelow 4 (fun k => (s.dieEntry slice k).testBit 7 && decide (s.dieEntry slice k % 4 = die))

/-- The physical die of a virtual die. -/
def State.physDie (s : State) (slice k : Nat) : Option Nat :=
  let e := s.dieEntry slice k
  if k < 4 ∧ e.testBit 7 then some (e % 4) else none

/-- A slice has quadrants of a die: its die table lists the die. -/
def State.sliceOnDie (s : State) (slice die : Nat) : Bool := (s.virtDie slice die).isSome

/-- A quadrant belongs to a slice (R350). -/
def State.ownsQuad (s : State) (slice quad : Nat) : Bool :=
  match s.virtCore slice (quadCore quad) with
  | some v => (s.coreEntry slice v).testBit (8 + quad % 4)
  | none => false

/-- The slice that owns a quadrant. -/
def State.quadOwner (s : State) (quad : Nat) : Option Nat := leastBelow 64 (fun i => s.ownsQuad i quad)

/-- A number, or all-ones where there is none (log entry 12). -/
def orOnes (n : Option Nat) : Word :=
  match n with
  | some n => word n
  | none => -1#64

/-- ID code 0 on a coach: four times the virtual core, plus the lead quadrant (R350). -/
def State.virtCoach (s : State) (c : Coach) : Option Nat :=
  (s.virtCore c.slice (quadCore c.quad)).map (fun v => 4 * v + c.quad % 4)

/-- ID (R129). -/
def State.identifier (s : State) (th : ThreadId) (code : Nat) : Word :=
  match th with
  | .coach q _ =>
    match s.coach? q with
    | none => -1#64
    | some c =>
      match code with
      | 0 => orOnes (s.virtCoach c)
      | 1 => orOnes (s.virtCore c.slice (quadCore q))
      | 2 => orOnes ((s.virtCore c.slice (quadCore q)).map (fun v => v / 4))
      | 3 => orOnes (s.virtDie c.slice (quadDie q))
      | 4 => word c.slice
      | _ => c.shape.setWidth 64
  | .dray d k =>
    match code with
    | 3 => word d
    | 4 => if s.strandLevel d k = 0 then -1#64 else word (s.strandServed d k)
    | _ => -1#64

/-! ## Energy accounts (R456) -/

/-- What TIME code 2 reads of one account. -/
def Account.left (a : Account) : Nat := if a.metered then a.bal.toNat else 0xFFFFFFFF

/-- The sum over the metered slices of a list, saturated. -/
def State.energySum (s : State) (slices : List Nat) : Nat :=
  Nat.min ((slices.filter (fun i => (s.account i).metered)).foldl (fun n i => n + (s.account i).bal.toNat) 0) (2 ^ 64 - 1)

/-- TIME code 2. -/
def State.energyOf (s : State) (th : ThreadId) : Word :=
  match th with
  | .coach q _ => word (((s.coach? q).map (fun c => (s.account c.slice).left)).getD 0)
  | .dray d k =>
    match s.strandLevel d k with
    | 0 => word (s.energySum ((List.range 64).filter (fun i => s.sliceV d i)))
    | 1 => word (s.energySum (s.domainSlices d (s.strandServed d k)))
    | _ => word (s.account (s.strandServed d k)).left

/-! ## Time -/

/-- The offset that a thread's reads of the timestamp get (R351); none outside slices. -/
def State.timeOffset (s : State) (th : ThreadId) : Word :=
  match s.sliceOf th with
  | some i => SMap.get zeroWord s.offsets i
  | none => 0#64

/-- TIME code 0: never below what the strand read before. -/
def State.timeNs (s : State) (th : ThreadId) (last : Word) : Word := maxuWord (s.tsc + s.timeOffset th) last

/-- TIME code 1: it pauses while the coach is held (R356). -/
def State.timeClocks (s : State) (th : ThreadId) : Word :=
  match th with
  | .coach q _ => ((s.coach? q).map (fun c => if c.held.isSome then c.clocks else c.clocks + (s.clocks - c.boundAt))).getD 0#64
  | .dray _ _ => s.clocks

/-! ## Feature leaves -/

/-- QFEAT (R348). -/
def State.leaf (s : State) (th : ThreadId) (n : Word) : Word :=
  match n.toNat with
  | 0 => (0x4128#64 <<< 48) ||| (Config.stepping.setWidth 64 <<< 40) ||| 2#64
  | 1 =>
    match th with
    | .coach q _ => s.features (((s.coach? q).map (fun c => c.slice)).getD 0)
    | .dray _ _ => Config.featuresImplemented
  | 2 => 0x0040100840200808#64
  | _ => 0#64

/-! ## The state registers -/

/-- A strand counts as live: ready, parked or stopped on a fault, in short not idle (log entry 13). -/
def Strand.isLive (st : Strand) : Bool := st.run != .idle

def Strand.isParked (st : Strand) : Bool :=
  match st.run with
  | .parked _ => true
  | _ => false

/-- STATUS (R96). -/
def State.csrStatus (s : State) (th : ThreadId) (st : Strand) : Word :=
  let l := s.launchOf th
  let irrev := (l.map (fun l => l.irrev)).getD false
  let opened := (l.map (fun l => l.opened)).getD false
  let engine := if onDray th then 4 else threadStream th
  word (st.loops.length * 256 + flagNat irrev * 64 + flagNat opened * 32 + engine * 4 + s.levelOf th)

/-- Bits of the strands of a stream that have a property. -/
def strandBits (f : Nat → Bool) : Nat := (List.range 8).foldl (fun n i => n + if f i then 2 ^ i else 0) 0

/-- STRAND (R98). The K stream shows its eight strands; another stream shows its one thread as number 0, and
a Dray strand itself under its own number (log entry 13). -/
def State.csrStrand (s : State) (th : ThreadId) (st : Strand) : Word :=
  match th with
  | .coach q p =>
    if p < 8 then
      match s.coach? q with
      | some c => word (strandBits (fun i => (c.strand i).isParked) * 65536 +
          strandBits (fun i => (c.strand i).isLive) * 256 + p)
      | none => 0#64
    else word (flagNat st.isParked * 65536 + flagNat st.isLive * 256)
  | .dray _ k => word (flagNat st.isParked * 2 ^ (16 + k) + flagNat st.isLive * 2 ^ (8 + k) + k)

/-- TOKCNT (R98): zero on the Dray (R126). -/
def State.csrTokcnt (s : State) (th : ThreadId) : Word :=
  match th with
  | .coach q p =>
    match s.coach? q with
    | some c =>
      let i := (streamOfPart p).index
      word ([1, 2, 3].foldl (fun v n =>
        v + c.fifoCount (fifoKey (selected i n) i) * 16 ^ (n - 1)
          + c.owedCount (fifoKey i (selected i n)) * 16 ^ (n + 3)) 0)
    | none => 0#64
  | .dray _ _ => 0#64

/-- The value of a state register of a thread, with reserved fields zero (R22, R126). -/
def State.csr (s : State) (th : ThreadId) (n : Nat) : Word :=
  let st := (s.strand? th).getD Strand.start
  let t := (s.stream? th).getD Stream.start
  match n with
  | 0 => s.csrStatus th st
  | 1 => t.trapen.setWidth 64
  | 2 => t.flags.setWidth 64
  | 3 => st.epc
  | 4 => st.fcode
  | 5 => st.faddr
  | 6 => st.fprog
  | 7 => t.seed
  | 8 => s.csrStrand th st
  | 9 => word (flagNat t.en * 2 + flagNat t.lnr)
  | 10 => s.csrTokcnt th
  | _ => SMap.get zeroWord t.idx (n - 16)

/-- Writing a state register: only RW fields take bits, and a write of SEED clears the call counter (R71,
R88, R98, R126). -/
def State.csrWrite (s : State) (th : ThreadId) (n : Nat) (v : Word) : State :=
  match n with
  | 1 => s.updStream th (fun t => { t with trapen := v.setWidth 9 &&& 0x1EF#9 })
  | 2 => s.updStream th (fun t => { t with flags := v.setWidth 9 })
  | 7 => s.updStream th (fun t => { t with seed := v, calls := 0#32 })
  | 9 => s.updStream th (fun t => { t with en := bit v 1 })
  | _ => s

/-- CSRX's writing, which also reaches EPC.ADDR, FCODE, FADDR and FPROG; FPROG of an X stream sets the VATOM
resume lane (R179, R352). -/
def State.csrWriteX (s : State) (th : ThreadId) (n : Nat) (v : Word) : State :=
  match n with
  | 3 => s.updStrand th (fun st => { st with epc := v &&& 0x1FFFF#64 })
  | 4 => s.updStrand th (fun st => { st with fcode := v &&& 0x1FFFF#64 })
  | 5 => s.updStrand th (fun st => { st with faddr := v })
  | 6 =>
    let s := s.updStrand th (fun st => { st with fprog := v })
    match th with
    | .coach q 9 => s.updCoach q (fun c => { c with resume := v.setWidth 10 })
    | _ => s
  | _ => s.csrWrite th n v

/-- The three writing operations (R126). -/
inductive CsrOp where
  | read | write | set | clear
deriving DecidableEq, Repr

def CsrOp.new (op : CsrOp) (old v : Word) : Word :=
  match op with
  | .read => old
  | .write => v
  | .set => old ||| v
  | .clear => old &&& ~~~ v

end Sys2Proof.Machine
end

