-- ==== Sys2Proof/Machine/Float.lean ====
section
/-! DEFINITION. Float: number formats, exact values, rounding, conversions, matrix steps and the special
functions (R64-R86). A finite value is held exactly as sign, magnitude and power of two. -/

namespace Sys2Proof.Machine

/-! ## Flags (R87) -/

def flagNV : BitVec 9 := 0x001#9
def flagDZ : BitVec 9 := 0x002#9
def flagOF : BitVec 9 := 0x004#9
def flagUF : BitVec 9 := 0x008#9
def flagNX : BitVec 9 := 0x010#9
def flagCVT : BitVec 9 := 0x020#9
def flagSPX : BitVec 9 := 0x040#9
def flagIOV : BitVec 9 := 0x080#9
def flagSCOPEX : BitVec 9 := 0x100#9

/-! ## Formats (R64) -/

/-- What the top of a format's encodings holds. -/
inductive Specials where
  /-- Infinities and NaNs in the top exponent, as IEEE 754. -/
  | ieee
  /-- No infinity, and NaN only with all exponent and mantissa bits set (E4M3). -/
  | nanOnly
  /-- Neither. -/
  | finite
deriving DecidableEq, Repr

/-- A floating-point format: exponent and mantissa widths, bias, specials, canonical NaN and the largest
finite magnitude as it is encoded. -/
structure Fmt where
  ebits : Nat
  mbits : Nat
  bias  : Nat
  spec  : Specials
  nan   : Nat
  maxEnc : Nat
deriving DecidableEq, Repr

def fmtF32 : Fmt := { ebits := 8, mbits := 23, bias := 127, spec := .ieee, nan := 0x7FC00000, maxEnc := 0x7F7FFFFF }
def fmtF16 : Fmt := { ebits := 5, mbits := 10, bias := 15, spec := .ieee, nan := 0x7E00, maxEnc := 0x7BFF }
def fmtBF16 : Fmt := { ebits := 8, mbits := 7, bias := 127, spec := .ieee, nan := 0x7FC0, maxEnc := 0x7F7F }
def fmtE5M2 : Fmt := { ebits := 5, mbits := 2, bias := 15, spec := .ieee, nan := 0x7E, maxEnc := 0x7B }
def fmtE4M3 : Fmt := { ebits := 4, mbits := 3, bias := 7, spec := .nanOnly, nan := 0x7F, maxEnc := 0x7E }
def fmtE3M2 : Fmt := { ebits := 3, mbits := 2, bias := 3, spec := .finite, nan := 0, maxEnc := 0x1F }
def fmtE2M3 : Fmt := { ebits := 2, mbits := 3, bias := 1, spec := .finite, nan := 0, maxEnc := 0x1F }
def fmtE2M1 : Fmt := { ebits := 2, mbits := 1, bias := 1, spec := .finite, nan := 0, maxEnc := 0x7 }

/-- The sign bit's weight in an encoding. -/
def Fmt.signBit (f : Fmt) : Nat := 2 ^ (f.ebits + f.mbits)

/-- A value: NaN (signalling or not), infinity, or m x 2^e with a sign. -/
inductive FVal where
  | nan (signalling : Bool)
  | inf (neg : Bool)
  | fin (neg : Bool) (m : Nat) (e : Int)
deriving DecidableEq, Repr

/-- The value of an encoding (R64, R65). -/
def Fmt.decode (f : Fmt) (v : Nat) : FVal :=
  let neg := v / f.signBit % 2 == 1
  let e := v / 2 ^ f.mbits % 2 ^ f.ebits
  let m := v % 2 ^ f.mbits
  let top := 2 ^ f.ebits - 1
  let value : FVal :=
    if e = 0 then .fin neg m (1 - (f.bias : Int) - f.mbits)
    else .fin neg (m + 2 ^ f.mbits) ((e : Int) - f.bias - f.mbits)
  match f.spec with
  | .ieee =>
    if e = top then
      if m = 0 then .inf neg
      else .nan (decide (f.ebits + f.mbits ≥ 15) && m < 2 ^ (f.mbits - 1))
    else value
  | .nanOnly => if e = top ∧ m = 2 ^ f.mbits - 1 then .nan false else value
  | .finite => value

/-! ## Rounding (R69, R70, R71) -/

/-- Rounding modes; SR carries the 24 random bits of R71. -/
inductive Mode where
  | rne | rtz | rdn | rup | rna
  | sr (rnd : Nat)
deriving DecidableEq, Repr

/-- Rounding m / 2^k to an integer under a mode. -/
def roundShift (mode : Mode) (neg : Bool) (m k : Nat) : Nat :=
  let q := m / 2 ^ k
  let r := m % 2 ^ k
  if r = 0 then q
  else
    match mode with
    | .rne => if 2 * r > 2 ^ k ∨ (2 * r = 2 ^ k ∧ q % 2 = 1) then q + 1 else q
    | .rtz => q
    | .rdn => if neg then q + 1 else q
    | .rup => if neg then q else q + 1
    | .rna => if 2 * r ≥ 2 ^ k then q + 1 else q
    | .sr rnd => if r * 2 ^ 24 > rnd * 2 ^ k then q + 1 else q

/-- Rounding m x 2^e to a multiple of 2^u: the multiple, and whether the result differs. -/
def roundTo (mode : Mode) (neg : Bool) (m : Nat) (e u : Int) : Nat × Bool :=
  if u ≤ e then (m * 2 ^ (e - u).toNat, false)
  else (roundShift mode neg m (u - e).toNat, decide (m % 2 ^ (u - e).toNat ≠ 0))

/-- The exponent of the last place of m x 2^e on a format's extended grid (R69). -/
def Fmt.ulp (f : Fmt) (m : Nat) (e : Int) : Int :=
  max ((Nat.log2 m : Int) + e) (1 - (f.bias : Int)) - f.mbits

/-- The encoding of q x 2^u, a grid value, without its sign; the exponent may pass the top. -/
def Fmt.encodeMag (f : Fmt) (q : Nat) (u : Int) : Nat :=
  if q < 2 ^ f.mbits then q
  else if q < 2 ^ (f.mbits + 1) then
    (u + f.mbits + f.bias).toNat * 2 ^ f.mbits + (q - 2 ^ f.mbits)
  else (u + 1 + f.mbits + f.bias).toNat * 2 ^ f.mbits + (q / 2 - 2 ^ f.mbits)

/-- A rounded magnitude before overflow is decided: its encoding, and whether it is inexact. -/
def Fmt.round (f : Fmt) (mode : Mode) (neg : Bool) (m : Nat) (e : Int) : Nat × Bool :=
  if m = 0 then (0, false)
  else
    let u := f.ulp m e
    let r := roundTo mode neg m e u
    (f.encodeMag r.1 u, r.2)

/-- A sign put on an encoded magnitude. -/
def Fmt.signed (f : Fmt) (neg : Bool) (mag : Nat) : Nat := if neg then mag + f.signBit else mag

/-- The infinity of a format. -/
def Fmt.infEnc (f : Fmt) : Nat := (2 ^ f.ebits - 1) * 2 ^ f.mbits

/-- Inexact and underflow flags of a rounded magnitude (R70). -/
def Fmt.smallFlags (f : Fmt) (mag : Nat) (inexact : Bool) : BitVec 9 :=
  if inexact then
    if mag < 2 ^ f.mbits then flagNX ||| flagUF else flagNX
  else 0#9

/-- An arithmetic result, rounded with RNE; past the largest finite value it is an infinity (R70). -/
def Fmt.arith (f : Fmt) (neg : Bool) (m : Nat) (e : Int) : Nat × BitVec 9 :=
  let r := f.round .rne neg m e
  if r.1 > f.maxEnc then (f.signed neg f.infEnc, flagOF ||| flagNX)
  else (f.signed neg r.1, f.smallFlags r.1 r.2)

/-! ## Exact sums (R65) -/

/-- A finite term as a signed integer at a common exponent no greater than its own. -/
def termAt (e0 : Int) (t : Bool × Nat × Int) : Int :=
  let v : Int := (t.2.1 * 2 ^ (t.2.2 - e0).toNat : Nat)
  if t.1 then -v else v

/-- The least exponent of a list of terms. -/
def minExp (ts : List (Bool × Nat × Int)) : Int :=
  match ts with
  | [] => 0
  | [t] => t.2.2
  | t :: ts => min t.2.2 (minExp ts)

/-- The exact sum of finite terms: sign, magnitude, exponent. A zero sum is negative only when every term
is a negative zero (R65, rounding with RNE). -/
def exactSum (ts : List (Bool × Nat × Int)) : Bool × Nat × Int :=
  let e0 := minExp ts
  let v := (ts.map (termAt e0)).foldl (· + ·) 0
  if v = 0 then (ts.all (fun t => t.1 && t.2.1 == 0), 0, e0) else (decide (v < 0), v.natAbs, e0)

/-- An exact product: NaN and the flag for infinity times zero, or the product. -/
def product (a b : FVal) : FVal × BitVec 9 :=
  match a, b with
  | .nan x, .nan y => (.nan false, if x || y then flagNV else 0#9)
  | .nan x, _ => (.nan false, if x then flagNV else 0#9)
  | _, .nan y => (.nan false, if y then flagNV else 0#9)
  | .inf n, .inf k => (.inf (n != k), 0#9)
  | .inf n, .fin k m _ => if m = 0 then (.nan false, flagNV) else (.inf (n != k), 0#9)
  | .fin n m _, .inf k => if m = 0 then (.nan false, flagNV) else (.inf (n != k), 0#9)
  | .fin n m e, .fin k p g => (.fin (n != k) (m * p) (e + g), 0#9)

/-- The flag that a NaN term brings: NV when it is signalling (R65, R166). -/
def nanFlag (v : FVal) : BitVec 9 :=
  match v with
  | .nan true => flagNV
  | _ => 0#9

def FVal.isNan (v : FVal) : Bool :=
  match v with
  | .nan _ => true
  | _ => false

/-- The finite part of a value, for sums without NaN or infinity. -/
def FVal.term (v : FVal) : Bool × Nat × Int :=
  match v with
  | .fin n m e => (n, m, e)
  | _ => (false, 0, 0)

/-- The negation of a value. -/
def FVal.neg (v : FVal) : FVal :=
  match v with
  | .nan x => .nan x
  | .inf n => .inf (!n)
  | .fin n m e => .fin (!n) m e

/-- A sum of terms rounded once with RNE: NaN terms give the canonical NaN, opposite infinities give it with
NV, one infinity wins, and finite terms are summed exactly (R65, R70, R166). -/
def Fmt.sum (f : Fmt) (ts : List FVal) : Nat × BitVec 9 :=
  let fl := (ts.map nanFlag).foldl (· ||| ·) 0#9
  if ts.any FVal.isNan then (f.nan, fl)
  else
    let pos := ts.contains (.inf false)
    let neg := ts.contains (.inf true)
    if pos && neg then (f.nan, flagNV)
    else if pos then (f.infEnc, 0#9)
    else if neg then (f.signed true f.infEnc, 0#9)
    else
      let x := exactSum (ts.map FVal.term)
      f.arith x.1 x.2.1 x.2.2

/-- a x b rounded once (R166). -/
def Fmt.mulOp (f : Fmt) (a b : Nat) : Nat × BitVec 9 :=
  let p := product (f.decode a) (f.decode b)
  match p.1 with
  | .nan _ => (f.nan, p.2)
  | .inf n => (f.signed n f.infEnc, p.2)
  | .fin n m e => f.arith n m e

/-- a + b and a - b rounded once. -/
def Fmt.addOp (f : Fmt) (a b : Nat) : Nat × BitVec 9 := f.sum [f.decode a, f.decode b]
def Fmt.subOp (f : Fmt) (a b : Nat) : Nat × BitVec 9 :=
  match f.decode b with
  | .nan x => f.sum [f.decode a, .nan x]
  | v => f.sum [f.decode a, v.neg]

/-- a x b + c with one rounding (R166); `sub` negates c. -/
def Fmt.fmaOp (f : Fmt) (a b c : Nat) (sub : Bool) : Nat × BitVec 9 :=
  let p := product (f.decode a) (f.decode b)
  let z := if sub then (f.decode c).neg else f.decode c
  let r := f.sum [p.1, z]
  (r.1, r.2 ||| p.2)

/-- The order of finite and infinite values: -0 counts as less than +0 when `zeros` is set (R166). -/
def FVal.less (zeros : Bool) (a b : FVal) : Bool :=
  match a, b with
  | .inf n, .inf k => n && !k
  | .inf n, _ => n
  | _, .inf k => !k
  | .fin n m e, .fin k p g =>
    let e0 := min e g
    let x := termAt e0 (n, m, e)
    let y := termAt e0 (k, p, g)
    decide (x < y) || (zeros && decide (x = y) && n && !k)
  | _, _ => false

/-- VMIN and VMAX on a float lane (R166). -/
def Fmt.minMax (f : Fmt) (isMax : Bool) (a b : Nat) : Nat × BitVec 9 :=
  let x := f.decode a
  let y := f.decode b
  if x.isNan || y.isNan then (f.nan, nanFlag x ||| nanFlag y)
  else if isMax then (if x.less true y then (b, 0#9) else (a, 0#9))
  else if y.less true x then (b, 0#9) else (a, 0#9)

/-- VABS and VNEG on a float lane (R166): the sign bit, or the canonical NaN. -/
def Fmt.signOp (f : Fmt) (neg : Bool) (a : Nat) : Nat × BitVec 9 :=
  let x := f.decode a
  if x.isNan then (f.nan, nanFlag x)
  else if neg then ((if a ≥ f.signBit then a - f.signBit else a + f.signBit), 0#9)
  else (a % f.signBit, 0#9)

/-! ## Conversions (R72, R73) -/

/-- The delivered value and flags of a float conversion that overflows (R72). -/
def Fmt.overflow (f : Fmt) (policy : Nat) (neg : Bool) (fromInf : Bool) : Nat × BitVec 9 :=
  let fl := if policy = 3 then (if fromInf then flagCVT else flagCVT ||| flagNX)
    else if fromInf then 0#9 else flagOF ||| flagNX
  let v := match policy, f.spec with
    | 1, .ieee => f.signed neg f.infEnc
    | 2, .ieee => f.nan
    | 1, .nanOnly => f.nan
    | 2, .nanOnly => f.nan
    | _, _ => f.signed neg f.maxEnc
  (v, fl)

/-- A value converted to a float format under a mode and an overflow policy (R73). -/
def Fmt.convert (f : Fmt) (mode : Mode) (policy : Nat) (x : FVal) : Nat × BitVec 9 :=
  match x with
  | .nan sig =>
    match f.spec with
    | .finite => (0, flagNV)
    | _ => (f.nan, if sig then flagNV else 0#9)
  | .inf n => f.overflow policy n true
  | .fin n m e =>
    let r := f.round mode n m e
    if r.1 > f.maxEnc then f.overflow policy n false else (f.signed n r.1, f.smallFlags r.1 r.2)

/-- A value converted to an integer range (R72, R73): the result as an integer, and flags; an inexact result of 0 underflows
(R70). -/
def convertInt (lo hi : Int) (mode : Mode) (policy : Nat) (x : FVal) : Int × BitVec 9 :=
  let past (neg fromInf : Bool) : Int × BitVec 9 :=
    (if neg then lo else hi,
      if policy = 3 then (if fromInf then flagCVT else flagCVT ||| flagNX)
      else if fromInf then 0#9 else flagOF ||| flagNX)
  match x with
  | .nan _ => (0, flagNV)
  | .inf n => past n true
  | .fin n m e =>
    let r := roundTo mode n m e 0
    let v : Int := if n then -(r.1 : Int) else r.1
    if v < lo then past true false
    else if v > hi then past false false
    else (v, if r.2 then (if v = 0 then flagNX ||| flagUF else flagNX) else 0#9)

/-- An integer converted to F32 with RNE (pair 8). -/
def intToF32 (v : Int) : Nat × BitVec 9 := fmtF32.arith (decide (v < 0)) v.natAbs 0

/-- The 24 random bits of SplitMix64 for an element under a call counter (R71). -/
def splitMix (seed : Word) (e : Nat) (c : BitVec 32) : Nat :=
  let key := seed + word e + (c.setWidth 64 <<< 32)
  let z := key + 0x9E3779B97F4A7C15#64
  let z := (z ^^^ (z >>> 30)) * 0xBF58476D1CE4E5B9#64
  let z := (z ^^^ (z >>> 27)) * 0x94D049BB133111EB#64
  let z := z ^^^ (z >>> 31)
  bits z 63 40

/-- The rounding mode of a rounding field (R69); `rnd` serves SR. -/
def modeOf (code rnd : Nat) : Mode :=
  match code with
  | 0 => .rne
  | 1 => .rtz
  | 2 => .rdn
  | 3 => .rup
  | 4 => .rna
  | _ => .sr rnd

/-! ## Special functions (R80-R84) -/

/-- fma(a, b, c) on F32 encodings, without flags. -/
def fma32 (a b c : Nat) : Nat := (fmtF32.fmaOp a b c false).1

/-- a x b on F32 encodings, without flags. -/
def mul32 (a b : Nat) : Nat := (fmtF32.mulOp a b).1

/-- An exact value m x 2^e that F32 holds, encoded. -/
def f32Of (neg : Bool) (m : Nat) (e : Int) : Nat := (fmtF32.arith neg m e).1

/-- The negation of an F32 encoding. -/
def neg32 (a : Nat) : Nat := if a ≥ 2 ^ 31 then a - 2 ^ 31 else a + 2 ^ 31

def exptTable : List Nat :=
  [0x0000, 0x059B, 0x0B56, 0x1130, 0x172C, 0x1D48, 0x2388, 0x29EA,
   0x3070, 0x371A, 0x3DEA, 0x44E1, 0x4BFE, 0x5343, 0x5AB0, 0x6248,
   0x6A0A, 0x71F7, 0x7A11, 0x8259, 0x8ACE, 0x9373, 0x9C49, 0xA550,
   0xAE8A, 0xB7F7, 0xC19A, 0xCB72, 0xD582, 0xDFC9, 0xEA4B, 0xF507]

def logRwTable : List Nat :=
  [0x0000, 0x0F84, 0x1E1E, 0x2BE3, 0x38E4, 0x4530, 0x50D8, 0x5BE6,
   0x6666, 0x7064, 0x79E8, 0x82FA, 0x8BA3, 0x93E9, 0x9BD3, 0xA367,
   0xAAAB, 0xB1A2, 0xB852, 0xBEBF, 0xC4EC, 0xCADE, 0xD098, 0xD61C,
   0xDB6E, 0xE090, 0xE584, 0xEA4E, 0xEEEF, 0xF369, 0xF7BE, 0xFBF0]

def logLgTable : List Nat :=
  [0x0000, 0x0B5D, 0x1664, 0x2119, 0x2B80, 0x359F, 0x3F78, 0x4910,
   0x526A, 0x5B89, 0x646F, 0x6D20, 0x759D, 0x7DEA, 0x8608, 0x8DFA,
   0x95C0, 0x9D5E, 0xA4D4, 0xAC24, 0xB350, 0xBA59, 0xC140, 0xC807,
   0xCEAF, 0xD538, 0xDBA5, 0xE1F5, 0xE82A, 0xEE45, 0xF446, 0xFA2F]

def rcpTable : List Nat :=
  [0xFC, 0xF4, 0xED, 0xE5, 0xDE, 0xD7, 0xD1, 0xCA, 0xC4, 0xBE, 0xB8, 0xB2, 0xAC, 0xA7, 0xA1, 0x9C,
   0x97, 0x92, 0x8D, 0x88, 0x84, 0x7F, 0x7B, 0x76, 0x72, 0x6E, 0x6A, 0x66, 0x62, 0x5E, 0x5B, 0x57,
   0x54, 0x50, 0x4D, 0x49, 0x46, 0x43, 0x40, 0x3D, 0x3A, 0x37, 0x34, 0x31, 0x2E, 0x2B, 0x29, 0x26,
   0x23, 0x21, 0x1E, 0x1C, 0x19, 0x17, 0x15, 0x12, 0x10, 0x0E, 0x0B, 0x09, 0x07, 0x05, 0x03, 0x01]

def rsqTable : List Nat :=
  [0xFC, 0xF4, 0xED, 0xE6, 0xDF, 0xD9, 0xD3, 0xCD, 0xC7, 0xC2, 0xBC, 0xB7, 0xB2, 0xAD, 0xA9, 0xA4,
   0xA0, 0x9C, 0x98, 0x94, 0x90, 0x8C, 0x88, 0x85, 0x81, 0x7E, 0x7B, 0x77, 0x74, 0x71, 0x6E, 0x6B,
   0x67, 0x62, 0x5D, 0x58, 0x53, 0x4E, 0x4A, 0x46, 0x42, 0x3E, 0x3A, 0x37, 0x33, 0x30, 0x2C, 0x29,
   0x26, 0x23, 0x20, 0x1D, 0x1B, 0x18, 0x15, 0x13, 0x10, 0x0E, 0x0C, 0x0A, 0x07, 0x05, 0x03, 0x01]

/-- normalise(x) of R80 for m x 2^e with m > 0: the value 1 <= f x 2^-23 < 2 as f, and the exponent. The
magnitude has at most 24 bits. -/
def normalise (m : Nat) (e : Int) : Nat × Int :=
  (m * 2 ^ (23 - Nat.log2 m), e + Nat.log2 m)

/-- x x 2^n of an F32 encoding, rounded with RNE, with the flags of that rounding. -/
def scale32 (x : Nat) (n : Int) (neg : Bool) : Nat × BitVec 9 :=
  match fmtF32.decode x with
  | .fin s m e => fmtF32.arith (s != neg) m (e + n)
  | _ => (x, 0#9)

/-- The algorithm of VEXP2 (R81) for a finite x. -/
def exp2Core (neg : Bool) (m : Nat) (e : Int) : Nat × BitVec 9 :=
  -- k = Round(32 x, RNE), an integer
  let r := roundTo .rne neg m (e + 5) 0
  let k : Int := if neg then -(r.1 : Int) else r.1
  -- f = x - k / 32, exact
  let fx := exactSum [(neg, m, e), (decide (k > 0), k.natAbs, -5)]
  let f := f32Of fx.1 fx.2.1 fx.2.2
  let j := (k % 32).toNat
  let n := (k - j) / 32
  let tv := f32Of false (65536 + exptTable.getD j 0) (-16)
  let u := fma32 f 0x3D635847 0x3E75FDF0
  let u := fma32 f u 0x3F317218
  let u := mul32 u f
  scale32 (fma32 tv u tv) n false

/-- The algorithm of VLOG2 (R82) for finite x > 0. -/
def log2Core (m : Nat) (e : Int) : Nat × BitVec 9 :=
  let z := normalise m e
  let j := (z.1 - 2 ^ 23) / 2 ^ 18
  let d := f32Of false (z.1 - 2 ^ 23 - j * 2 ^ 18) (-23)
  let w := f32Of false (131072 - logRwTable.getD j 0) (-17)
  let y := mul32 d w
  let v := fma32 y 0x3EF6384F 0xBF38AA3B
  let v := fma32 y v 0x3FB8AA3B
  let q := mul32 v y
  let gi : Int := z.2 * 65536 + logLgTable.getD j 0
  fmtF32.sum [.fin (decide (gi < 0)) gi.natAbs (-16), fmtF32.decode q]

/-- The algorithm of VRCP (R83) for finite non-zero x. -/
def rcpCore (neg : Bool) (m : Nat) (e : Int) : Nat × BitVec 9 :=
  let z := normalise m e
  let mm := f32Of false z.1 (-23)
  let i := (z.1 - 2 ^ 23) / 2 ^ 17
  let x0 := f32Of false (256 + rcpTable.getD i 0) (-9)
  let one := 0x3F800000
  let e1 := fma32 (neg32 mm) x0 one
  let x1 := fma32 x0 e1 x0
  let e2 := fma32 (neg32 mm) x1 one
  let x2 := fma32 x1 e2 x1
  scale32 x2 (-z.2) neg

/-- The algorithm of VRSQ (R84) for finite x > 0. -/
def rsqCore (m : Nat) (e : Int) : Nat × BitVec 9 :=
  let z := normalise m e
  let odd := z.2 % 2 = 1
  let mm := f32Of false z.1 (if odd then -22 else -23)
  let ee := if odd then z.2 - 1 else z.2
  let i := (z.1 - 2 ^ 23) / 2 ^ 18 + (if odd then 32 else 0)
  let x0 := f32Of false (256 + rsqTable.getD i 0) (-9)
  let one := 0x3F800000
  let half := 0x3F000000
  let h := mul32 mm x0
  let rr := fma32 (neg32 h) x0 one
  let x1 := fma32 (mul32 half x0) rr x0
  let h := mul32 mm x1
  let rr := fma32 (neg32 h) x1 one
  let x2 := fma32 (mul32 half x1) rr x1
  scale32 x2 (-(ee / 2)) false

/-- The four special functions. -/
inductive SpecialFn where
  | exp2 | log2 | rcp | rsq
deriving DecidableEq, Repr

/-- A special function on an F32 lane: the table of R80, else the algorithm. -/
def specialFn (g : SpecialFn) (a : Nat) : Nat × BitVec 9 :=
  let pinf := 0x7F800000
  let ninf := 0xFF800000
  match g, fmtF32.decode a with
  | _, .nan sig => (fmtF32.nan, if sig then flagNV else 0#9)
  | .exp2, .inf n => (if n then 0 else pinf, 0#9)
  | .log2, .inf n => if n then (fmtF32.nan, flagNV) else (pinf, 0#9)
  | .rcp, .inf n => (if n then 0x80000000 else 0, 0#9)
  | .rsq, .inf n => if n then (fmtF32.nan, flagNV) else (0, 0#9)
  | .exp2, .fin n m e =>
    if m = 0 then (0x3F800000, 0#9)
    else if !n && !((FVal.fin n m e).less false (.fin false 128 0)) then (pinf, flagOF ||| flagNX)
    else if n && !((FVal.fin true 151 0).less false (.fin n m e)) then (0, flagUF ||| flagNX)
    else exp2Core n m e
  | .log2, .fin n m e =>
    if m = 0 then (ninf, flagDZ) else if n then (fmtF32.nan, flagNV) else log2Core m e
  | .rcp, .fin n m e => if m = 0 then (if n then ninf else pinf, flagDZ) else rcpCore n m e
  | .rsq, .fin n m e =>
    if m = 0 then (if n then ninf else pinf, flagDZ) else if n then (fmtF32.nan, flagNV) else rsqCore m e

/-! ## Matrix steps (R75-R78) -/

/-- A product with its scale exponent; a NaN scale makes it NaN (R68). DEDUCED: infinity times zero sets NV under a NaN scale
too (log entry 137). -/
def scaledProduct (a b : FVal) (scale : Option Int) : FVal × BitVec 9 :=
  let p := product a b
  match scale with
  | none => (.nan false, p.2)
  | some k =>
    match p.1 with
    | .fin n m e => (.fin n m (e + k), p.2)
    | v => (v, p.2)

/-- The flag of infinities of both signs among some terms (R78). -/
def oppositeFlag (ts : List FVal) : BitVec 9 :=
  if ts.contains (.inf false) && ts.contains (.inf true) then flagNV else 0#9

/-- One accumulating step of a float family: acc := Round(acc + sum of products, RNE, F32) (R75, R78). A NaN
accumulator stays NaN. DEDUCED: opposite infinities set NV also beside a NaN (log entry 137). -/
def floatStep (acc : Nat) (ps : List (FVal × BitVec 9)) : Nat × BitVec 9 :=
  let pf := (ps.map (fun p => p.2)).foldl (· ||| ·) 0#9 ||| oppositeFlag (fmtF32.decode acc :: ps.map (fun p => p.1))
  match fmtF32.decode acc with
  | .nan _ => (fmtF32.nan, pf)
  | v =>
    let r := fmtF32.sum (v :: ps.map (fun p => p.1))
    (r.1, r.2 ||| pf)

/-- One accumulating step of an integer family (R77). -/
def intStep (acc : Int) (sum : Int) : Int × BitVec 9 :=
  let v := acc + sum
  ((BitVec.ofInt 32 v).toInt, if v < -(2 ^ 31) ∨ v > 2 ^ 31 - 1 then flagIOV else 0#9)

end Sys2Proof.Machine
end

