-- ==== Sys2Proof/Machine/Translate.lean ====
section
/-! DEFINITION. Translate: apertures, the nested walk, leaf checks, windows and the TLB (R246, R273, R327-R334). -/

namespace Sys2Proof.Machine

/-! ## Apertures (R327) and channel sets (R273) -/

inductive Aperture where
  | hbm | mmio | fabric | host | none
deriving DecidableEq, Repr

def apertureOf (dpa : Nat) : Aperture :=
  if dpa < 0x8000000000 then .hbm
  else if 0x10000000000 ≤ dpa ∧ dpa < 0x20000000000 then .mmio
  else if 0x4000000000000 ≤ dpa ∧ dpa < 0x8000000000000 then .fabric
  else if 0x8000000000000 ≤ dpa ∧ dpa < 0x10000000000000 then .host
  else .none

/-- The die that an HBM address lies on, DPA[38:37] (R274). -/
def homeDie (dpa : Nat) : Nat := dpa / 2 ^ 37 % 4

/-- The channel set of an HBM address: 4 x stack + DPA[35:34]. -/
def channelSet (dpa : Nat) : Nat := dpa / 2 ^ 34 % 32

/-- The channel within its stack that holds an HBM address (R273). -/
def channelOf (dpa : Nat) : Nat := 8 * (dpa / 2 ^ 34 % 4) + ((dpa / 2 ^ 8 % 8) ^^^ (dpa / 2 ^ 18 % 8))

/-- The line hash (R272). -/
def lineHash (dpa : Nat) : Nat :=
  (dpa / 2 ^ 6 % 256) ^^^ (dpa / 2 ^ 14 % 256) ^^^ (dpa / 2 ^ 22 % 256) ^^^ (dpa / 2 ^ 30 % 256) ^^^
    (dpa / 2 ^ 38 % 256) ^^^ (dpa / 2 ^ 46 % 4)

/-- The home slice on its die (R274). -/
def homeSlice (dpa : Nat) : Nat := (lineHash dpa % 16) ^^^ (lineHash dpa / 16 % 16)

/-! ## Committed bytes -/

/-- A byte of HBM as ordinary accesses see it. -/
def State.byteAt (s : State) (a : Nat) : Byte := s.mem.get a

/-- The byte that HBM itself holds, which memory-side accesses see: an older one while the cache ways hold the
line dirty (R278, R326). -/
def State.hbmAt (s : State) (a : Nat) : Byte := SMap.get (fun x => s.mem.get x) s.stale a

/-- Poison of the 64-byte line of an address (R280). -/
def State.linePois (s : State) (a : Nat) : Bool := SMap.get noFlag s.poison (a / 64)

/-- The poison that HBM itself holds for a line, which memory-side accesses meet. -/
def State.hbmPois (s : State) (a : Nat) : Bool := SMap.get (fun l => SMap.get noFlag s.poison l) s.stalePois (a / 64)

/-- A doubleword of committed memory. -/
def State.wordAt (s : State) (memSide : Bool) (a : Nat) : Word :=
  wordOf8 ((List.range 8).map (fun i => if memSide then s.hbmAt (a + i) else s.byteAt (a + i)))

/-! ## Windows (R333, R334) -/

/-- A window, by domain x 64 + index. -/
def State.window (s : State) (dom w : Nat) : Word × Word :=
  SMap.get (fun _ => (0#64, 0#64)) s.windows (dom * 64 + w)

def winBase (w : Word × Word) : Nat := bits w.1 51 21 * 2 ^ 21
def winLimit (w : Word × Word) : Nat := winBase w + (bits w.2 30 0 + 1) * 2 ^ 21

/-- One window passes an access of n bytes. -/
def winPasses (w : Word × Word) (dpa n : Nat) (kind : AccessKind) (memSide : Bool) : Bool :=
  bit w.1 63 && decide (winBase w ≤ dpa) && decide (dpa + n ≤ winLimit w) &&
  (match kind with
    | .read => bit w.1 62
    | .write => bit w.1 61
    | .atomic => bit w.1 62 && bit w.1 61) &&
  (!memSide || bit w.1 60) &&
  (apertureOf dpa != .hbm || bit w.2 (32 + channelSet dpa))

/-- The window check (R334). -/
def State.windowOk (s : State) (dom dpa n : Nat) (kind : AccessKind) (memSide : Bool) : Bool :=
  apertureOf dpa != .none && (List.range 64).any (fun w => winPasses (s.window dom w) dpa n kind memSide)

/-! ## The walk (R328-R330) -/

/-- How a walk ends short of an address. A pull waits for a page on its way in (R447), a miss for a walker (R247), and the read of
a table for the line's PENDING entry (R290). Level 8 stands for the level that the walk is at. -/
inductive Stop where
  | fault (code level page : Nat)
  | pull (page : Nat)
  | walk (page : Nat) (kind : AccessKind)
  | line (line : Nat)
deriving DecidableEq, Repr

/-- A leaf that a walk has found: the output address, the leaf's size, its fields and where its entry lies. -/
structure Leaf where
  out   : Nat
  size  : Nat
  rd    : Bool
  wr    : Bool
  attr  : Nat
  dirty : Bool
  rp    : Bool
  entry : Nat
deriving DecidableEq, Repr

/-- Low bit of a level's index, and so the log of its leaf size (R328). -/
def levelShift (l : Nat) : Nat := 39 - 9 * l

/-- The index of an address at a level; level 0 indexes the whole root. -/
def levelIndex (a l : Nat) : Nat := if l = 0 then a / 2 ^ 39 else a / 2 ^ levelShift l % 512

/-- ADDR of an entry. -/
def entryAddr (e : Word) : Nat := bits e 51 12 * 4096

/-- A present entry keeps the map of R329. -/
def entryOk (stage2 : Bool) (l : Nat) (e : Word) : Bool :=
  bits e 63 52 == 0 && bits e 11 10 == 0 && !bit e 4 &&
  (if bit e 1 then
    l != 0 && decide (entryAddr e % 2 ^ levelShift l = 0) &&
    (if stage2 then bits e 8 7 != 3 && (l == 3 || !bit e 9) else !bit e 9 && bits e 8 7 == 0 && !bit e 6) &&
    (l == 3 || !bit e 5)
  else l != 3 && bits e 9 5 == 0 && bits e 3 2 == 0)

/-- A radix walk from a table, level by level. `read` fetches an entry and names the DPA it lies at. -/
def walkFrom (read : Nat → Except Stop (Word × Nat)) (code : Nat) (stage2 : Bool) (a page : Nat) (levels : List Nat)
    (base : Nat) : Except Stop Leaf :=
  match levels with
  | [] => .error (.fault code 3 page)
  | l :: levels =>
    match read (base + 8 * levelIndex a l) with
    | .error (.fault c 8 _) => .error (.fault c l page)
    | .error e => .error e
    | .ok (e, loc) =>
      if bit e 0 = false ∨ entryOk stage2 l e = false then .error (.fault code l page)
      else if bit e 1 then
        .ok { out := entryAddr e + a % 2 ^ levelShift l, size := 2 ^ levelShift l, rd := bit e 2, wr := bit e 3,
              attr := bits e 8 7, dirty := bit e 6, rp := bit e 9, entry := loc }
      else walkFrom read code stage2 a page levels (entryAddr e)

/-- A root word lets an address begin its walk (R330). A root with a reserved bit set is taken as not present
(log entry 14). -/
def rootOk (root : Word) (a : Nat) : Bool :=
  bit root 63 && bits root 62 52 == 0 && bits root 11 8 == 0 && decide (levelIndex a 0 / 512 ≤ bits root 7 0)

/-- Bits 51:12 of an address, as FPROG holds them. -/
def pageBits (a : Nat) : Nat := a / 4096 % 2 ^ 40

/-- The roots that walks use: those in force at the last invalidation that covered the slice or domain (R330),
by die x 64 + slice and die x 16 + domain. -/
def State.walkRoot1 (s : State) (die slice : Nat) : Word := SMap.get zeroWord s.root1 (die * 64 + slice)
def State.walkRoot2 (s : State) (die dom : Nat) : Word := SMap.get zeroWord s.root2 (die * 16 + dom)

/-- A line holds a PENDING entry of a launch other than the reader's (R290). -/
def State.pendingLine (s : State) (me : Option Nat) (line : Nat) : Bool :=
  s.staged.any (fun e => e.line == line && e.pending && some e.tag != me)

/-- Reading a table entry at a DPA: window check as a read, then committed bytes (R328), once a PENDING entry of the line has
settled. A table outside HBM reads as not present (log entry 14). -/
def State.readEntry (s : State) (dom : Nat) (memSide : Bool) (dpa : Nat) : Except Stop (Word × Nat) :=
  if s.windowOk dom dpa 8 .read memSide = false then .error (.fault codeWindow 7 (pageBits dpa))
  else if apertureOf dpa ≠ .hbm then .ok (0#64, dpa)
  else if !memSide && s.pendingLine none (dpa / 64) then .error (.line (dpa / 64))
  else if (if memSide then s.hbmPois dpa else s.linePois dpa) then .error (.fault codePoison 8 0)
  else .ok (s.wordAt memSide dpa, dpa)

/-- Who makes an access, for its translation: `plain` marks P-path loads and stores (R331), `quad` is the quadrant whose micro-TLB
serves it (R133). -/
structure Who where
  die     : Nat
  cluster : Nat
  slice   : Nat
  domain  : Nat
  plain   : Bool
  quad    : Option Nat := none
deriving DecidableEq, Repr

/-- A table entry by way of the walk cache: a walk may use what the cache holds, or read the table (R246; log entry 158). -/
def State.cachedEntry (s : State) (w : Who) (stage2 : Bool) (read : Nat → Except Stop (Word × Nat)) (a : Nat) :
    Except Stop (Word × Nat) :=
  match s.walkCache.find? (fun e => e.cluster == w.cluster && e.stage2 == stage2 && e.domain == w.domain &&
      (stage2 || e.slice == w.slice) && e.at_ == a) with
  | some e => if Config.walkHit s.steps a then .ok (e.entry, e.loc) else read a
  | none => read a

/-- Reading a stage-2 table entry. -/
def State.readEntry2 (s : State) (w : Who) : Nat → Except Stop (Word × Nat) := s.cachedEntry w true (s.readEntry w.domain false)

/-- The stage-2 walk of an SPA. -/
def State.walk2 (s : State) (w : Who) (spa : Nat) : Except Stop Leaf :=
  let root := s.walkRoot2 w.die w.domain
  if rootOk root spa = false then .error (.fault codeS2NotPresent 0 (pageBits spa))
  else walkFrom (s.readEntry2 w) codeS2NotPresent true spa (pageBits spa) [0, 1, 2, 3] (bits root 51 12 * 4096)

/-- The checks of a stage-2 leaf for an access of n bytes (R331). -/
def leaf2Check (f : Leaf) (spa n : Nat) (kind : AccessKind) (plain : Bool) : Option Stop :=
  let ok :=
    match kind with
    | .read => f.rd
    | .write => f.wr
    | .atomic => f.rd && f.wr
  if ok = false ∨ (f.attr = 2 ∧ ¬(plain ∧ kind ≠ .atomic ∧ n ≤ 8)) ∨ (f.attr = 1 ∧ apertureOf f.out ≠ .hbm) then
    some (.fault codeS2Permission 7 (pageBits spa))
  else if f.rp then some (.pull (spa / 4096))
  else none

/-- Reading a stage-1 table entry at an SPA: through stage 2 and the windows (R328). -/
def State.readEntry1 (s : State) (w : Who) : Nat → Except Stop (Word × Nat) :=
  s.cachedEntry w false (fun spa =>
    match s.walk2 w spa with
    | .error e => .error e
    | .ok f =>
      match leaf2Check f spa 8 .read false with
      | some e => .error e
      | none => s.readEntry w.domain (f.attr == 1) f.out)

/-- The stage-1 walk of a TVA. -/
def State.walk1 (s : State) (w : Who) (tva : Nat) : Except Stop Leaf :=
  let root := s.walkRoot1 w.die w.slice
  if rootOk root tva = false then .error (.fault codeS1NotPresent 0 0)
  else walkFrom (s.readEntry1 w) codeS1NotPresent false tva 0 [0, 1, 2, 3] (bits root 51 12 * 4096)

/-! ## Pages on their way in (R447) -/

/-- Level-3 leaves with RP = 1 below a table: the page number and where the entry lies. -/
def State.rpUnder (s : State) (levels : List Nat) (n spa base : Nat) : List (Nat × Nat) :=
  match levels with
  | [] => []
  | l :: levels =>
    (List.range n).flatMap (fun i =>
      let e := s.wordAt false (base + 8 * i)
      if bit e 0 = false ∨ entryOk true l e = false then []
      else if bit e 1 then (if bit e 9 then [((spa + i * 2 ^ levelShift l) / 4096, base + 8 * i)] else [])
      else s.rpUnder levels 512 (spa + i * 2 ^ levelShift l) (entryAddr e))

/-- The pages of a domain's map that have RP = 1. -/
def State.rpPages (s : State) (dom : Nat) : List (Nat × Nat) :=
  match ([0, 1, 2, 3].map (fun die => s.walkRoot2 die dom)).find? (fun r => bit r 63) with
  | some root => s.rpUnder [0, 1, 2, 3] (512 * (bits root 7 0 + 1)) 0 (bits root 51 12 * 4096)
  | none => []

/-! ## Translation -/

/-- A passed translation: where the access goes, what it leaves in the TLBs and the leaf, and the micro-TLB that serves it. -/
structure Xlate where
  dpa     : Nat
  memSide : Bool
  entry   : Option TlbEntry
  setD    : Option Nat
  near    : Option Nat := none
deriving DecidableEq, Repr

/-- Bytes that an entry covers: one stage-1 leaf within one stage-2 leaf (R246). -/
def TlbEntry.span (e : TlbEntry) : Nat := Nat.min e.size1 e.size2

/-- An entry covers an address. -/
def TlbEntry.covers (e : TlbEntry) (tva : Nat) : Bool :=
  decide (e.tva * 4096 ≤ tva) && decide (tva < e.tva * 4096 + e.span)

/-- An entry serves an access. One that lacks the permission is not used (R332). -/
def TlbEntry.serves (e : TlbEntry) (w : Who) (tva : Nat) (kind : AccessKind) : Bool :=
  e.cluster == w.cluster && e.slice == w.slice && e.domain == w.domain && e.covers tva &&
    (match kind with
      | .read => e.rd && e.rd2
      | .write => e.wr && e.wr2
      | .atomic => e.rd && e.wr && e.rd2 && e.wr2)

/-- The cached entry that an access hits: in its micro-TLB, and after that in the cluster's (R246). -/
def State.tlbHit (s : State) (w : Who) (tva : Nat) (kind : AccessKind) : Option TlbEntry :=
  (s.tlb.find? (fun e => e.quad == w.quad && e.serves w tva kind)).or
    (s.tlb.find? (fun e => e.quad.isNone && e.serves w tva kind))

/-- The first page of what an entry covers. -/
def firstPage (f1 f2 : Leaf) (a : Nat) : Nat := (a - a % Nat.min f1.size f2.size) / 4096

/-- The entry of a completed walk. -/
def tlbOf (w : Who) (tva : Nat) (f1 : Leaf) (f2 : Leaf) : TlbEntry where
  cluster := w.cluster
  slice := w.slice
  domain := w.domain
  tva := firstPage f1 f2 tva
  size1 := f1.size
  spa := firstPage f1 f2 f1.out
  size2 := f2.size
  dpa := firstPage f1 f2 f2.out
  attr := f2.attr
  rd := f1.rd
  wr := f1.wr
  rd2 := f2.rd
  wr2 := f2.wr
  dirty := f2.dirty
  leaf2 := f2.entry

/-- The stage-2 leaf that a cached entry stands for. -/
def TlbEntry.leaf (e : TlbEntry) (off : Nat) : Leaf :=
  { out := e.dpa * 4096 + off, size := e.size2, rd := e.rd2, wr := e.wr2, attr := e.attr, dirty := e.dirty,
    rp := false, entry := e.leaf2 }

/-- The last checks: stage-2 leaf, windows, and the dirty bit to set (R331, R334). -/
def State.finishXlate (s : State) (w : Who) (f2 : Leaf) (spa n : Nat) (kind : AccessKind) (entry : Option TlbEntry) :
    Except Stop Xlate :=
  match leaf2Check f2 spa n kind w.plain with
  | some e => .error e
  | none =>
    if s.windowOk w.domain f2.out n kind (f2.attr == 1) = false then .error (.fault codeWindow 7 (pageBits f2.out))
    else .ok { dpa := f2.out, memSide := f2.attr == 1, entry := entry, near := w.quad
               setD := if kind ≠ .read ∧ f2.dirty = false then some f2.entry else none }

/-- The permission check of a stage-1 leaf. -/
def leaf1Ok (f : Leaf) (kind : AccessKind) : Bool :=
  match kind with
  | .read => f.rd
  | .write => f.wr
  | .atomic => f.rd && f.wr

/-- A walk of a page of a slice, in a cluster. -/
def Walk.isFor (x : Walk) (cluster slice page : Nat) : Bool := x.cluster == cluster && x.slice == slice && x.page == page

/-- The walk for an access has ended without a translation. -/
def State.walkEnded (s : State) (w : Who) (page : Nat) : Bool :=
  s.walks.any (fun x => x.ended && x.isFor w.cluster w.slice page)

/-- The walk for an access has met an uncorrectable error in its walker (R248). -/
def State.walkLost (s : State) (w : Who) (page : Nat) : Bool :=
  s.walks.any (fun x => x.ended && x.ue && x.isFor w.cluster w.slice page)

/-- Both stages of a walk, and the checks of R328. -/
def State.walkNow (s : State) (w : Who) (tva n : Nat) (kind : AccessKind) : Except Stop Xlate :=
  match s.walk1 w tva with
  | .error e => .error e
  | .ok f1 =>
    match s.walk2 w f1.out with
    | .error e => .error e
    | .ok f2 =>
      if leaf1Ok f1 kind = false then .error (.fault codeS1Permission 7 0)
      else s.finishXlate w f2 f1.out n kind (some (tlbOf w tva f1 f2))

/-- Translate (R328) for n bytes within one page: a miss of a quadrant asks for a walker (R247). -/
def State.translate (s : State) (w : Who) (tva n : Nat) (kind : AccessKind) : Except Stop Xlate :=
  if 2 ^ 56 ≤ tva then .error (.fault codeS1NotPresent (Config.rangeLevel tva).toNat 0)
  else
    match s.tlbHit w tva kind with
    | some e => s.finishXlate w (e.leaf (tva - e.tva * 4096)) (e.spa * 4096 + (tva - e.tva * 4096)) n kind (some e)
    | none =>
      if w.quad.isSome && !s.walkEnded w (tva / 4096) then .error (.walk (tva / 4096) kind)
      else if s.walkLost w (tva / 4096) then .error (.fault codeUe (Config.rangeLevel tva).toNat 0)
      else s.walkNow w tva n kind

/-- Translation of an SPA alone: stage 2 and the windows (R267, R350, R427, R436). -/
def State.translate2 (s : State) (w : Who) (spa n : Nat) (kind : AccessKind) : Except Stop Xlate :=
  match s.walk2 w spa with
  | .error e => .error e
  | .ok f2 => s.finishXlate w f2 spa n kind none

/-- FPROG of a precise translation fault (R328). -/
def walkProg (level page : Nat) : Word := word (level * 2 ^ 61 + page * 2 ^ 12)

/-- The set of a cluster TLB that an entry belongs to; a micro-TLB is one set (log entry 158). -/
def TlbEntry.set (e : TlbEntry) : Nat := if e.quad.isSome then 0 else e.tva * 4096 / e.span % 512

/-- Keeping an entry, the most recently used first: a micro-TLB holds 64, and a set of a cluster TLB eight (R131, R246). -/
def keepTlb (l : List TlbEntry) (e : TlbEntry) : List TlbEntry :=
  let mates := fun (x : TlbEntry) => x.cluster == e.cluster && x.quad == e.quad && x.set == e.set
  let rest := l.filter (fun x => !(mates x && x.slice == e.slice && x.domain == e.domain && x.tva == e.tva && x.span == e.span))
  match (rest.filter mates)[if e.quad.isSome then 63 else 7]? with
  | some v => e :: rest.filter (fun x => x != v)
  | none => e :: rest

/-! ## Walkers (R247) -/

/-- Walkers of a cluster at work, and those of a quadrant of it. -/
def State.walkersBusy (s : State) (cluster : Nat) (quad : Nat → Bool) : Nat :=
  (s.walks.filter (fun x => x.cluster == cluster && x.running && quad x.quad)).length

/-- The queued miss that the next free walker of a cluster takes: the first of a quadrant that holds fewer than two walkers, and
else that of the next quadrant in turn. -/
def State.nextWalk (s : State) (cluster : Nat) : Option Walk :=
  let queued := s.walks.filter (fun x => x.cluster == cluster && !x.running && !x.ended)
  let turn := SMap.get zeroNat s.walkTurn cluster
  (queued.find? (fun x => decide (s.walkersBusy cluster (fun q => q == x.quad) < 2))).or
    (((List.range 16).map (fun i => (turn + 1 + i) % 16)).findSome? (fun q => queued.find? (fun x => x.quad % 16 == q)))

/-- A free walker takes a queued miss. -/
def State.giveWalker (s : State) (cluster : Nat) : State :=
  if 32 ≤ s.walkersBusy cluster (fun _ => true) then s
  else
    match s.nextWalk cluster with
    | none => s
    | some x =>
      { s with
        walks := updateWhere (fun y => y == x) (fun y => { y with running := true }) s.walks
        walkTurn := SMap.put zeroNat s.walkTurn cluster (x.quad % 16) }

/-- A miss asks for a walk, or joins the one of its page. -/
def State.askWalk (s : State) (w : Who) (page : Nat) (kind : AccessKind) : State :=
  if s.walks.any (fun x => !x.ended && x.isFor w.cluster w.slice page) then s
  else
    let x : Walk :=
      { cluster := w.cluster, quad := w.quad.getD 0, slice := w.slice, page := page, kind := kind, running := false,
        ended := false, ue := false }
    { s with walks := s.walks ++ [x] }.giveWalker w.cluster

/-- The walks of a page that have ended go. -/
def State.dropEnded (s : State) (w : Who) (page : Nat) : State :=
  { s with walks := s.walks.filter (fun x => !(x.ended && x.isFor w.cluster w.slice page)) }

/-- The tables that a walk of a stage passes through, as a walk cache keeps them. -/
def trail (read : Nat → Except Stop (Word × Nat)) (w : Who) (stage2 : Bool) (a : Nat) (levels : List Nat) (base : Nat) :
    List WalkCached :=
  match levels with
  | [] => []
  | l :: levels =>
    let at_ := base + 8 * levelIndex a l
    match read at_ with
    | .error _ => []
    | .ok (e, loc) =>
      if bit e 0 = false ∨ entryOk stage2 l e = false ∨ bit e 1 then []
      else
        { cluster := w.cluster, stage2 := stage2, slice := w.slice, domain := w.domain, at_ := at_, entry := e, loc := loc,
          base := a - a % 2 ^ levelShift l, size := 2 ^ levelShift l } :: trail read w stage2 a levels (entryAddr e)

/-- What a completed walk leaves in the walk cache of its cluster. -/
def State.fillWalkCache (s : State) (w : Who) (tva spa : Nat) : State :=
  let two := fun (a : Nat) => trail (s.readEntry2 w) w true a [0, 1, 2, 3] (bits (s.walkRoot2 w.die w.domain) 51 12 * 4096)
  let one := trail (s.readEntry1 w) w false tva [0, 1, 2, 3] (bits (s.walkRoot1 w.die w.slice) 51 12 * 4096)
  { s with walkCache := (one ++ (one.flatMap (fun e => two e.at_)) ++ two spa ++ s.walkCache).eraseDups }

end Sys2Proof.Machine
end

