-- ==== Sys2Proof/Machine/Memory.lean ====
section
/-! DEFINITION. Memory: the home of a line: what reads see, how writes are applied, staging, conflicts, capacity
and promotion (R274, R275, R288-R301, R311, R312, R322). -/

namespace Sys2Proof.Machine

/-! ## Lines -/

/-- A byte mask as a bit mask of the line. -/
def expandMask (m : BitVec 64) : BitVec 512 :=
  BitVec.ofNat 512 (natOfBytes ((List.range 64).map (fun i => if m.getLsbD i then 255#8 else 0#8)))

/-- Bytes placed in a line from an offset on: the line's data. -/
def lineData (off : Nat) (bs : List Byte) : BitVec 512 := BitVec.ofNat 512 (natOfBytes bs * 2 ^ (8 * off))

/-- The mask of n bytes from an offset on. -/
def lineMask (off n : Nat) : BitVec 64 := BitVec.ofNat 64 ((2 ^ n - 1) * 2 ^ off)

/-- Byte i of a line's data. -/
def lineByte (d : BitVec 512) (i : Nat) : Byte := d.extractLsb' (8 * i) 8

/-- Masked data over older data. -/
def overlay (old new : BitVec 512) (m : BitVec 64) : BitVec 512 :=
  (old &&& ~~~ (expandMask m)) ||| (new &&& expandMask m)

/-- The bytes of a line that lie in an interval. -/
def intervalMask (lo len line : Nat) : BitVec 64 :=
  let a := Nat.max lo (64 * line)
  let b := Nat.min (lo + len) (64 * line + 64)
  if a < b then lineMask (a - 64 * line) (b - a) else 0#64

/-- Positions of the bytes in a mask. -/
def maskBytes (m : BitVec 64) : List Nat := setPositions m.toNat 64

/-! ## The cache ways (R269, R275) -/

/-- The class of a way under COCW and STGW: 0 cache, 1 cocoon, 2 staging; way 0 is the repair way, and no other (R269). -/
def wayClass (cocoon staging w : Nat) : Nat :=
  if w ≤ cocoon then 1 else if w ≤ cocoon + staging then 2 else 0

/-- The class that each way 1 to 15 of a die has now; after reset 4 are the cocoon's and none is for staging (R270, R271). -/
def wayReset (w : Nat) : Nat := wayClass 4 0 w
def State.wayNow (s : State) (die w : Nat) : Nat := SMap.get wayReset (s.die die).ways w

/-- The ways of a die that have a class now, ascending. -/
def State.waysOf (s : State) (die cls : Nat) : List Nat :=
  ((List.range 15).map (fun i => i + 1)).filter (fun w => s.wayNow die w == cls)

/-- Cocoon ways of a die that take staged lines: those that do not leave the class (R271). -/
def State.cocoonWays (s : State) (die : Nat) : List Nat :=
  (s.waysOf die 1).filter (fun w => (s.die die).moves.all (fun m => m.1 != w))

/-- Two lines lie in one set of one slice (R269). -/
def sameSet (a b : Nat) : Bool :=
  homeDie (64 * a) == homeDie (64 * b) && homeSlice (64 * a) == homeSlice (64 * b) && a % 4096 == b % 4096

/-- Eviction classes: 0 RETAIN, 1 NORMAL, 2 EVICT_FIRST (R216). -/
def evictNormal : Nat := 1

/-- A line is held above HBM: in the cache ways, or committed and still in the cocoon. -/
def State.held (s : State) (line : Nat) : Bool :=
  s.cache.any (fun c => c.line == line) || s.staged.any (fun e => e.line == line && e.committed)

/-- HBM takes the line's current bytes, with their poison (R275). -/
def State.writeBack (s : State) (line : Nat) : State :=
  { s with
    stale := s.stale.filter (fun e => e.1 / 64 != line)
    stalePois := s.stalePois.filter (fun e => e.1 != line) }

/-- The line leaves the cache ways: written back when dirty; else what HBM holds is what is left (R326). -/
def State.dropLine (s : State) (c : CacheLine) : State :=
  let s := { s with cache := s.cache.filter (fun x => x.line != c.line) }
  if c.dirty then s.writeBack c.line
  else if s.staged.any (fun e => e.line == c.line && e.committed) then s
  else { s with
    mem := (s.stale.filter (fun e => e.1 / 64 == c.line)).foldl (fun m e => m.put e.1 e.2) s.mem
    stale := s.stale.filter (fun e => e.1 / 64 != c.line)
    poison := SMap.put noFlag s.poison c.line (s.hbmPois (64 * c.line))
    stalePois := s.stalePois.filter (fun e => e.1 != c.line) }

/-- The victim of a full set: the least recently used line of the highest class (R275). -/
def victimOf (l : List CacheLine) (line : Nat) : Option CacheLine :=
  let set := (l.filter (fun c => sameSet c.line line && c.line != line)).reverse
  match set.find? (fun c => c.cls == 2) with
  | some c => some c
  | none =>
    match set.find? (fun c => c.cls == 1) with
    | some c => some c
    | none => set.head?

/-- A sector is served from a repair entry, which stands in HBM's place (R281). -/
def State.repaired (s : State) (line : Nat) : Bool := s.repair.any (fun r => r.1 == 64 * line)

/-- An access touches a line: a present line keeps its class and becomes the most recently used; an absent one
is filled, and a full set gives up a victim (R275). A repaired sector is served from its entry and not filled. -/
def State.touch (s : State) (line cls : Nat) (write : Bool) : State :=
  match s.cache.find? (fun c => c.line == line) with
  | some c =>
    { s with cache := { c with dirty := c.dirty || write } :: s.cache.filter (fun x => x.line != line) }
  | none =>
    if s.repaired line then s else
    let fill := fun (s : State) (w : Nat) =>
      { s with cache := { line := line, way := w, cls := cls, dirty := write } :: s.cache }
    match (s.waysOf (homeDie (64 * line)) 0).find? (fun w => !s.cache.any (fun x => sameSet x.line line && x.way == w)) with
    | some w => fill s w
    | none =>
      match victimOf s.cache line with
      | none => s
      | some v => fill (s.dropLine v) v.way

/-! ## The L1 caches (R151, R312) -/

/-- The quadrants in whose ways a coach's accesses allocate and hit: all of its core's when they belong to one slice, else its
own (R3, R151). -/
def State.l1Ways (s : State) (c : Coach) : List Nat :=
  let core := (List.range 4).map (fun i => 4 * quadCore c.quad + i)
  if core.all (fun q => s.quadOwner q == some c.slice) then core else c.quads

/-- An access of a coach hits a line: in its own ways, untagged or with its launch's tag (R151). -/
def State.l1Hits (s : State) (c : Coach) (line : Nat) (e : L1Line) : Bool :=
  e.line == line && (s.l1Ways c).contains e.quad && (e.tag.isNone || e.tag == some c.tag)

def State.l1Hit (s : State) (c : Coach) (line : Nat) : Option L1Line := s.l1.find? (s.l1Hits c line)

/-- A line leaves every L1, but for the copies that `keep` names. -/
def State.l1Drop (s : State) (line : Nat) (keep : L1Line → Bool) : State :=
  { s with l1 := s.l1.filter (fun e => e.line != line || keep e) }

/-- No copy is kept. -/
def noCopy (_ : L1Line) : Bool := false

/-- The lines that carry a launch's tag go. -/
def State.l1DropTag (s : State) (tag : Nat) : State :=
  { s with l1 := s.l1.filter (fun e => e.tag != some tag) }

/-- An acquire at CORE scope or wider drops the untagged lines in the ways of the coach's quadrants (R151). -/
def State.l1Acquire (s : State) (c : Coach) : State :=
  { s with l1 := s.l1.filter (fun e => e.tag.isSome || !c.quads.contains e.quad) }

/-- A quadrant that goes to another slice loses what its ways hold (R151). -/
def State.l1Leave (s : State) (quad slice : Nat) : State :=
  if (s.quad quad).lastSlice = some slice then s else { s with l1 := s.l1.filter (fun e => e.quad != quad) }

/-- The quadrant whose ways take a line of a set, and what is left of the others: a free way of the list, else that of the
line that was used longest ago (log entry 163). -/
def l1Place (ways : List Nat) (l : List L1Line) (line : Nat) : Option Nat × List L1Line :=
  let set := l.filter (fun e => ways.contains e.quad && e.line % 64 == line % 64)
  match ways.find? (fun q => decide ((set.filter (fun e => e.quad == q)).length < 4)) with
  | some q => (some q, l)
  | none =>
    match set.getLast? with
    | some v => (some v.quad, l.filter (fun e => e != v))
    | none => (none, l)

/-- A load fills a line in the ways of its coach (R151). -/
def State.l1Fill (s : State) (c : Coach) (line : Nat) (tag : Option Nat) (data : BitVec 512) (pois : BitVec 64) : State :=
  let rest := s.l1.filter (fun e => !s.l1Hits c line e)
  match l1Place (s.l1Ways c) rest line with
  | (some q, l) => { s with l1 := { quad := q, line := line, tag := tag, data := data, pois := pois } :: l }
  | (none, _) => s

/-- A line that is hit becomes the most recently used. -/
def State.l1Use (s : State) (e : L1Line) : State := { s with l1 := e :: s.l1.filter (fun x => x != e) }

/-- A store of a launch writes its bytes into the line that it hits, and the line takes the launch's tag; `fresh` bytes are
staged, and hold no poison (R151, R312, R371). -/
def State.l1Write (s : State) (c : Coach) (line : Nat) (data : BitVec 512) (mask fresh : BitVec 64) : State :=
  match s.l1Hit c line with
  | none => s
  | some e =>
    { s with l1 := { e with tag := some c.tag, data := overlay e.data data mask, pois := e.pois &&& ~~~ fresh } ::
        s.l1.filter (fun x => x != e) }

/-! ## Merging committed lines (R275, R303) -/

/-- Bytes that no way holds have gone to the repair entry of their sector. -/
def State.settleLine (s : State) (line : Nat) : State :=
  if s.repaired line && !s.held line then s.writeBack line else s

/-- The tag of a committed launch that has retired is free again once none of its lines is left in the cocoon. -/
def State.freeTag (s : State) (tag : Nat) : State :=
  if (s.tag tag).st = .committed ∧ (s.launch? tag).isNone ∧ s.staged.all (fun e => e.tag != tag) then
    s.setTag tag { st := .free, gen := (s.tag tag).gen + 1#4 }
  else s

/-- A committed line leaves the cocoon and enters the cache ways under its class. -/
def State.mergeEntry (s : State) (e : Staged) : State :=
  let s := { s with staged := s.staged.filter (fun x => !(x.line == e.line && x.tag == e.tag && x.committed)) }
  ((s.touch e.line e.evict true).settleLine e.line).freeTag e.tag

/-- No committed bytes of a line are left in the cocoon. -/
def State.mergeLine (s : State) (line : Nat) : State :=
  (s.staged.filter (fun e => e.line == line && e.committed)).foldl State.mergeEntry s

/-! ## Scopes and release records (R314, R322) -/

/-- Agent b lies in agent a's instance of a scope. -/
def inInstance (a b : ThreadId) (scope : Nat) : Bool :=
  match a, b with
  | .coach q _, .coach r _ =>
    match scope with
    | 0 => q == r
    | 1 => quadCore q == quadCore r
    | 2 => quadCluster q == quadCluster r
    | 3 => quadDie q == quadDie r
    | _ => true
  | _, _ => a == b || (scope == 3 && threadDie a == threadDie b) || decide (4 ≤ scope)

/-- The key of a release record: a committed byte, or a byte staged under a tag. -/
def releaseKey (tag : Option Nat) (a : Nat) : Nat :=
  match tag with
  | some t => (t + 1) * 2 ^ 52 + a
  | none => a

/-- A write leaves its release record on its bytes, or clears theirs. -/
def State.markRelease (s : State) (tag : Option Nat) (line : Nat) (mask : BitVec 64)
    (rel : Option (ThreadId × Nat)) : State :=
  { s with releases := (maskBytes mask).foldl (fun m i =>
      let k := releaseKey tag (64 * line + i)
      match rel with
      | some r => SMap.insert (SMap.erase m k) k r
      | none => SMap.erase m k) s.releases }

/-- The release records of a tag's staged bytes go. -/
def State.dropReleases (s : State) (tag : Nat) : State :=
  { s with releases := s.releases.filter (fun e => e.1 / 2 ^ 52 != tag + 1) }

/-! ## What reads see (R289, R291) -/

/-- A launch's own staged entry of a line. -/
def State.stagedOf (s : State) (tag : Option Nat) (line : Nat) : Option Staged :=
  match tag with
  | some t => s.staged.find? (fun e => e.line == line && e.tag == t && !e.committed)
  | none => none

/-- The byte that a launch, or an agent outside launches, reads. -/
def State.viewByte (s : State) (tag : Option Nat) (a : Nat) : Byte :=
  match s.stagedOf tag (a / 64) with
  | some e => if e.mask.getLsbD (a % 64) then lineByte e.data (a % 64) else s.byteAt a
  | none => s.byteAt a

/-- A byte comes from the launch's own staged entry. -/
def State.viewStaged (s : State) (tag : Option Nat) (a : Nat) : Bool :=
  match s.stagedOf tag (a / 64) with
  | some e => e.mask.getLsbD (a % 64)
  | none => false

/-- Consecutive bytes as a reader sees them; a memory-side read sees HBM. -/
def State.viewBytes (s : State) (tag : Option Nat) (memSide : Bool) (a n : Nat) : List Byte :=
  (List.range n).map (fun i => if memSide then s.hbmAt (a + i) else s.viewByte tag (a + i))

/-- Poison of consecutive bytes: staged bytes hold none (R371). -/
def State.viewPois (s : State) (tag : Option Nat) (memSide : Bool) (a n : Nat) : Bool :=
  (List.range n).any (fun i =>
    if memSide then s.hbmPois (a + i) else !s.viewStaged tag (a + i) && s.linePois (a + i))

/-- An acquire by an agent reads a byte whose release does not cover both parties (R322). -/
def State.scopeMiss (s : State) (th : ThreadId) (scope : Nat) (tag : Option Nat) (a n : Nat) : Bool :=
  (List.range n).any (fun i =>
    let k := releaseKey (if s.viewStaged tag (a + i) then tag else none) (a + i)
    match s.releases.find? (fun e => e.1 == k) with
    | some e => !(inInstance e.2.1 th e.2.2 && inInstance th e.2.1 scope)
    | none => false)

/-! ## Writes of committed data -/

/-- One byte of ordinary data changes: HBM keeps its older byte until the line is written back. -/
def State.putByte (s : State) (a : Nat) (v : Byte) : State :=
  let old := s.hbmAt a
  let mem := s.mem.put a v
  { s with mem := mem, stale := SMap.put (fun x => mem.get x) s.stale a old }

/-- One byte of HBM changes: a copy of the line above HBM keeps its older byte (R326). -/
def State.putHbm (s : State) (a : Nat) (v : Byte) : State :=
  if s.held (a / 64) then { s with stale := SMap.put (fun x => s.mem.get x) s.stale a v }
  else { s with mem := s.mem.put a v }

/-- The poison of a line above HBM changes: HBM keeps its own. -/
def State.putPois (s : State) (line : Nat) (p : Bool) : State :=
  let old := s.hbmPois (64 * line)
  let poison := SMap.put noFlag s.poison line p
  { s with poison := poison, stalePois := SMap.put (fun l => SMap.get noFlag poison l) s.stalePois line old }

/-- The poison that HBM holds for a line changes: a copy of the line above it keeps its own. -/
def State.putHbmPois (s : State) (line : Nat) (p : Bool) : State :=
  if s.held line then { s with stalePois := SMap.put (fun l => SMap.get noFlag s.poison l) s.stalePois line p }
  else { s with poison := SMap.put noFlag s.poison line p }

/-- The masked bytes of a line become committed data; a write of all of them clears the line's poison (R371). -/
def State.putLine (s : State) (line : Nat) (data : BitVec 512) (mask : BitVec 64) : State :=
  let s := (maskBytes mask).foldl (fun s i => s.putByte (64 * line + i) (lineByte data i)) s
  if mask = -1#64 then s.putPois line false else s

/-- The masked bytes of a line reach HBM past every cache. -/
def State.putLineHbm (s : State) (line : Nat) (data : BitVec 512) (mask : BitVec 64) : State :=
  let s := (maskBytes mask).foldl (fun s i => s.putHbm (64 * line + i) (lineByte data i)) s
  if mask = -1#64 then s.putHbmPois line false else s

/-- A direct write at the home of a line: other L1s lose it, the cache ways take it (R275, R291, R312). -/
def State.writeDirect (s : State) (line : Nat) (data : BitVec 512) (mask : BitVec 64) (evict : Nat)
    (keep : L1Line → Bool) (rel : Option (ThreadId × Nat)) : State :=
  ((((s.l1Drop line keep).touch line evict true).putLine line data mask).settleLine line).markRelease none line mask rel

/-- A write through a memory-side unit reaches HBM without allocation (R278). -/
def State.writeSide (s : State) (line : Nat) (data : BitVec 512) (mask : BitVec 64) (rel : Option (ThreadId × Nat)) :
    State :=
  ((s.l1Drop line noCopy).putLineHbm line data mask).markRelease none line mask rel

/-- D of a stage-2 leaf is set at the entry's home (R331). -/
def State.setDirty (s : State) (leaf : Nat) : State :=
  s.writeDirect (leaf / 64) (lineData (leaf % 64) [s.byteAt leaf ||| 0x40#8]) (lineMask (leaf % 64) 1) evictNormal
    noCopy none

/-! ## Staging and conflicts -/

/-- The bytes of a line that a launch claims. -/
def Launch.claimMask (l : Launch) (line : Nat) : BitVec 64 :=
  l.runs.foldl (fun m r => m ||| intervalMask r.1 r.2 line) 0#64

/-- Other launches that claim a byte of a line (R294). -/
def State.claimers (s : State) (me : Option Nat) (line : Nat) (mask : BitVec 64) : List Nat :=
  (s.launches.filter (fun l => some l.tag != me && l.claimMask line &&& mask != 0#64)).map (fun l => l.tag)

/-- Other launches that have staged a byte of a line. -/
def State.stagers (s : State) (me : Nat) (line : Nat) (mask : BitVec 64) : List Nat :=
  (s.staged.filter (fun e => e.line == line && e.tag != me && !e.committed && e.mask &&& mask != 0#64)).map
    (fun e => e.tag)

/-- Launch a is older than launch b (R286). -/
def Launch.older (a b : Launch) : Bool :=
  decide (a.age.toNat < b.age.toNat) || (a.age == b.age && (decide (a.die < b.die) || (a.die == b.die &&
    (decide (a.slot < b.slot) || (a.slot == b.slot && decide (a.ringIdx < b.ringIdx))))))

/-- A launch has neither reached its commit point nor ended. -/
def State.unended (s : State) (tag : Nat) : Bool :=
  match (s.tag tag).st with
  | .running => true
  | .irrev => true
  | .pending => true
  | .aborting => true
  | _ => false

/-- A launch runs: it is neither being committed nor aborted. -/
def State.uncommitted (s : State) (tag : Nat) : Bool :=
  match (s.tag tag).st with
  | .running => true
  | .irrev => true
  | _ => false

/-- What stands for an owner in a waiting request: an owner of its bytes is named by its version tag, the owner of a wait for room
by 2^16 more (R300); 2^17 more stands for the promotion of the requester itself, and 2^18 for an owner that the request waits on
no longer. -/
def roomOwner (v : BitVec 16) : Nat := v.toNat + 2 ^ 16
def selfOwner (v : BitVec 16) : Nat := v.toNat + 2 ^ 17
def noOwner : Nat := 2 ^ 18

/-- A request of launch a waits on launch b. -/
def State.waitsOn (s : State) (a b : Nat) : Bool :=
  s.waiting.any (fun w => (w.req.tag.map (fun t => t.1)) == some a &&
    w.owners.any (fun o => decide (o < 2 ^ 17) && o % 2 ^ 16 == (s.vtag b).toNat))

/-- What a home answers to a request. -/
inductive Access where
  | go (s : State)
  | wait (s : State) (owners : List Nat)
  | gone (s : State)

/-- The version tags of launches. -/
def State.vtags (s : State) (tags : List Nat) : List Nat := tags.map (fun t => (s.vtag t).toNat)

/-- A request of a launch starts to wait: of two launches that wait for each other the younger aborts at once (R295). -/
def State.startWait (s : State) (l : Launch) (others owners : List Nat) : Access :=
  match others.find? (fun o => s.waitsOn o l.tag) with
  | none => .wait s owners
  | some o =>
    match s.launch? o with
    | none => .wait s owners
    | some lo =>
      if lo.older l then .gone (s.abortLaunch l.tag codeTxConflict (s.vtag o) 0#13)
      else .wait (s.abortLaunch o codeTxConflict (s.vtag l.tag) 0#13) owners

/-- A requester meets owners (R294): under ABORT its launch aborts, under WAIT it waits. DEDUCED: an irrevocable launch, which
never waits (R295), aborts the owners with its reads as it does with its writes (R300; log entry 147). -/
def State.meet (s : State) (l : Launch) (others : List Nat) : Access :=
  match others with
  | [] => .go s
  | o :: _ =>
    if l.irrev then .go (others.foldl (fun s o => s.abortLaunch o codeTxConflict (s.vtag l.tag) 0#13) s)
    else if l.policyAbort then .gone (s.abortLaunch l.tag codeTxConflict (s.vtag o) 0#13)
    else s.startWait l others (s.vtags others)

/-- The cocoon way that a line's next staged entry takes: the lowest that holds none of its set (R269, R271). -/
def State.cocoonWay (s : State) (line : Nat) : Option Nat :=
  (s.cocoonWays (homeDie (64 * line))).find? (fun w =>
    !s.staged.any (fun e => !e.overflow && sameSet e.line line && e.way == w))

/-- Every cocoon way that the line's set may use holds a staged entry. -/
def State.setFull (s : State) (line : Nat) : Bool := (s.cocoonWay line).isNone

/-- Overflow lines of a slice on a die (USED of R302). -/
def State.overflowUsed (s : State) (die slice : Nat) : Nat :=
  (s.staged.filter (fun e => e.overflow && e.slice == slice && homeDie (64 * e.line) == die)).length

/-- The slice's quota on a die. -/
def State.overflowQuota (s : State) (die slice : Nat) : Nat := bits (s.pmWord die (0x3F500 + 8 * slice)) 31 0

/-- Room for a launch's entry of a line (R300): in the cocoon ways or in overflow. -/
def State.hasRoom (s : State) (l : Launch) (line : Nat) : Bool :=
  (s.stagedOf (some l.tag) line).isSome || !s.setFull line ||
  decide (s.overflowUsed (homeDie (64 * line)) l.slice < s.overflowQuota (homeDie (64 * line)) l.slice)

/-- The oldest uncommitted launch of a slice, when it is older than a launch. -/
def State.oldestBefore (s : State) (l : Launch) : Option Launch :=
  (s.launches.filter (fun x => x.slice == l.slice && s.unended x.tag && x.older l)).foldl
    (fun m x => match m with
      | none => some x
      | some y => if x.older y then some x else some y) none

/-- The release records of a staged entry's bytes become those of committed data (R322). -/
def State.moveReleases (s : State) (e : Staged) : State :=
  { s with releases := (maskBytes e.mask).foldl (fun m i =>
      match m.find? (fun r => r.1 == releaseKey (some e.tag) (64 * e.line + i)) with
      | some r => SMap.insert (SMap.erase m (releaseKey none (64 * e.line + i))) (releaseKey none (64 * e.line + i)) r.2
      | none => m) s.releases }

/-- Bytes of a launch that committed become data: D is set in their pages, L1s lose the lines, and the entries
wait to be merged (R303, R312, R442). The commit is itself a release at DEVICE scope of them all (R324); at a promotion (`keep`)
the releases that wrote them stand (R322). -/
def State.commitStaged (s : State) (tag : Nat) (keep : Bool) : State :=
  let s := (s.staged.filter (fun e => e.tag == tag && !e.committed)).foldl (fun s e =>
    let s := match e.leaf with
      | some a => s.setDirty a
      | none => s
    let s := ((s.l1Drop e.line noCopy).putLine e.line e.data e.mask).markRelease none e.line e.mask none
    if keep then s.moveReleases e else s) s
  let f := fun (e : Staged) => { e with pending := false, committed := true }
  ({ s with staged := updateWhere (fun e => e.tag == tag) f s.staged }.dropReleases tag).l1DropTag tag

/-- Promotion begins (R300): its first phase marks the staged set PENDING. DEDUCED: the commit-table entry is RUNNING until the
commit point, so an abort cause that strikes between the phases aborts the launch (R287; log entry 147). -/
def State.startPromotion (s : State) (tag : Nat) : State :=
  s.updLaunch tag (fun l => { l with promoting := true, acks := 0#4 })

/-- The commit point of a promotion (R300): the staged set is data, the launch writes directly from now on, and what waited on
its staged bytes waits no longer. -/
def State.promote (s : State) (tag : Nat) : State :=
  let v := (s.vtag tag).toNat
  let s := s.commitStaged tag true
  let s := (s.setTag tag { s.tag tag with st := .irrev }).updLaunch tag (fun l => { l with irrev := true, promoting := false })
  { s with waiting := s.waiting.map (fun w =>
    { w with owners := w.owners.map (fun o => if o = v then noOwner else o) }) }

/-- Capacity (R300). A staging request between the phases of a promotion waits. -/
def State.capacity (s : State) (l : Launch) (line : Nat) : Access :=
  if l.promoting then .wait s [selfOwner (s.vtag l.tag)]
  else if s.hasRoom l line then .go s
  else
    match s.oldestBefore l with
    | some o => s.startWait l [o.tag] [roomOwner (s.vtag o.tag)]
    | none =>
      if l.irrAllow then .wait (s.startPromotion l.tag) [selfOwner (s.vtag l.tag)]
      else .gone (s.abortLaunch l.tag codeCocoonFull 0#16 0#13)

/-- Admission of a launch's write of masked bytes of a line (R293, R294, R300). -/
def State.admitWrite (s : State) (l : Launch) (line : Nat) (mask : BitVec 64) : Access :=
  match s.meet l (s.stagers l.tag line mask ++ s.claimers (some l.tag) line mask) with
  | .go s => if l.irrev ∨ mask &&& ~~~ (l.claimMask line) = 0#64 then .go s else s.capacity l line
  | r => r

/-- Admission of a launch's read (R290, R294). -/
def State.admitRead (s : State) (l : Launch) (line : Nat) (mask : BitVec 64) : Access :=
  s.meet l (s.claimers (some l.tag) line mask)

/-- Bytes are staged under a launch's tag (R288). -/
def State.stageBytes (s : State) (l : Launch) (line : Nat) (data : BitVec 512) (mask : BitVec 64) (evict : Nat)
    (leaf : Option Nat) (rel : Option (ThreadId × Nat)) : State :=
  let s := s.markRelease (some l.tag) line mask rel
  match s.stagedOf (some l.tag) line with
  | some _ =>
    let f := fun (e : Staged) => { e with data := overlay e.data data mask, mask := e.mask ||| mask, evict := evict }
    { s with staged := updateWhere (fun e => e.line == line && e.tag == l.tag && !e.committed) f s.staged }
  | none =>
    let e : Staged :=
      { line := line, tag := l.tag, slice := l.slice, data := data &&& expandMask mask, mask := mask, pending := false,
        committed := false, overflow := s.setFull line, way := (s.cocoonWay line).getD 0, evict := evict, leaf := leaf }
    { s with staged := s.staged ++ [e] }

/-- A launch's write, admitted: claimed bytes and those of an irrevocable launch go to committed data, the others
are staged (R288, R293, R300). -/
def State.writeLaunch (s : State) (l : Launch) (line : Nat) (data : BitVec 512) (mask : BitVec 64) (evict : Nat)
    (leaf : Option Nat) (keep : L1Line → Bool) (rel : Option (ThreadId × Nat)) : State :=
  let l := (s.launch? l.tag).getD l
  let direct := if l.irrev then mask else mask &&& l.claimMask line
  let s := if direct = 0#64 then s else s.writeDirect line data direct evict keep rel
  let rest := mask &&& ~~~ direct
  if rest = 0#64 then s
  else (s.l1Drop line keep).stageBytes l line data rest evict leaf rel

/-! ## Posted requests -/

/-- The launch attempt of a thread. -/
def State.attemptOf (s : State) (th : ThreadId) : Option (Nat × BitVec 4) :=
  (s.launchOf th).map (fun l => (l.tag, (s.tag l.tag).gen))

/-- A request sets out for its home. -/
def State.send (s : State) (r : HomeReq) : State :=
  { s with nextReq := s.nextReq + 1, homeq := s.homeq ++ [{ r with id := s.nextReq }] }

/-- Two masks of one line's bytes meet. -/
def sameBytes (a b : HomeReq) : Bool := a.line == b.line && a.mask &&& b.mask != 0#64

/-- A request may be applied: none of its agent, class and path that was sent before it is left (R313); none that stands before
it in its core's L1 and writes the same bytes (R310, R312); none that happens before it and writes the same bytes; and before a
release none of its agent and path, nor any that happens before it (R316, R319). What stands in the L1 has performed for a
release at CORE scope (R315). -/
def State.inOrder (s : State) (r : HomeReq) : Bool :=
  s.unapplied.all (fun x => !x.open_ || decide (r.id ≤ x.id) ||
    !((x.by_ == r.by_ && x.path == 4 && r.release.any (fun sc => decide (5 ≤ sc))) ||
      (x.by_ == r.by_ && x.path == r.path && (x.cls == r.cls ||
        r.release.any (fun sc => decide (1 < sc) || !x.near))) ||
      (x.near && r.near && sameBytes x r) ||
      (r.after.contains x.id && (sameBytes x r || r.release.any (fun sc => decide (1 < sc) || !x.near))))) &&
  s.remote.all (fun x => match x.who with
    | .store th cls id =>
      !(th == r.by_ && r.path == 4 && decide (id < r.id) && (cls == r.cls || r.release.isSome)) &&
        !(r.release.isSome && r.after.contains id) && !(th == r.by_ && r.release.any (fun sc => decide (5 ≤ sc)) && decide (id < r.id))
    | _ => true)

/-- The copies of its line that a request's application leaves alone: those in its coach's ways that its bytes were written into
(R312). -/
def State.keepOf (s : State) (r : HomeReq) : L1Line → Bool :=
  match r.by_ with
  | .coach q _ =>
    match s.coach? q with
    | some c => fun e => r.near && s.l1Hits c r.line e && e.tag == some c.tag
    | none => noCopy
  | .dray _ _ => noCopy

/-- The release record that a request leaves. -/
def HomeReq.rel (r : HomeReq) : Option (ThreadId × Nat) := r.release.map (fun sc => (r.by_, sc))

/-- A request is done with. -/
def State.dropReq (s : State) (id : Nat) : State :=
  { s with homeq := s.homeq.filter (fun r => r.id != id), waiting := s.waiting.filter (fun w => w.req.id != id) }

/-- A request waits on owners; one that already waits keeps its place (R296). -/
def State.await (s : State) (r : HomeReq) (owners : List Nat) : State :=
  if s.waiting.any (fun w => w.req.id == r.id) then
    let f := fun (w : WaitReq) => { w with owners := owners }
    { s with waiting := updateWhere (fun w => w.req.id == r.id) f s.waiting }
  else
    { s with
      homeq := s.homeq.filter (fun x => x.id != r.id)
      waiting := s.waiting ++ [{ req := r, owners := owners, since := s.tsc }] }

/-- An owner has reached its commit point or completed its abort, or the requester's promotion is over (R294, R300). -/
def State.resolved (s : State) (owner : Nat) : Bool :=
  let t := owner % 4096
  if noOwner ≤ owner then true
  else if 2 ^ 17 ≤ owner then ((s.launch? t).map (fun l => !l.promoting)).getD true
  else (s.vtag t).toNat != owner % 2 ^ 16 || (s.tag t).st == .committed || (s.tag t).st == .free

/-- A waiting request may be tried again: the last of its owners has resolved, or its launch has become irrevocable (R294-R296). -/
def State.mayRetry (s : State) (w : WaitReq) : Bool :=
  w.owners.all s.resolved || ((w.req.tag.bind (fun t => s.launch? t.1)).map (fun l => l.irrev)).getD false

/-- A launch of a slice has committed or completed an abort: the slice's requests that wait for room are tried again (R300). -/
def State.freeWaits (s : State) (slice : Nat) : State :=
  { s with waiting := s.waiting.map (fun w =>
    if w.req.slice = slice then
      { w with owners := w.owners.map (fun o => if 2 ^ 16 ≤ o ∧ o < 2 ^ 17 then noOwner else o) }
    else w) }

/-- A launch's attempt is still the one that made a request (R285). -/
def State.currentAttempt (s : State) (t : Nat × BitVec 4) : Option Launch :=
  if (s.tag t.1).gen = t.2 ∧ s.uncommitted t.1 then s.launch? t.1 else none

/-- A write that no launch stages is applied: at the line's memory-side unit or at its home slice. -/
def State.applyDirect (s : State) (r : HomeReq) : State :=
  if r.memSide then (s.dropReq r.id).writeSide r.line r.data r.mask r.rel
  else (s.dropReq r.id).writeDirect r.line r.data r.mask r.evict (s.keepOf r) r.rel

/-- A posted write is applied at its home, or waits there; one of an attempt that is gone is dropped. -/
def State.applyReq (s : State) (r : HomeReq) : State :=
  match r.tag with
  | none => s.applyDirect r
  | some t =>
    match s.currentAttempt t with
    | none => s.dropReq r.id
    | some l =>
      if r.direct then s.applyDirect r
      else
        match s.admitWrite l r.line r.mask with
        | .go s => (s.dropReq r.id).writeLaunch l r.line r.data r.mask r.evict r.leaf (s.keepOf r) r.rel
        | .wait s owners => s.await r owners
        | .gone s => s.dropReq r.id

/-! ## Requests that wait -/

/-- Requests that wait are tried again, before anything that has arrived since. -/
def State.retryHeld (s : State) : State := { s with inputs := s.stalled ++ s.inputs, stalled := [] }

/-! ## Atomics -/

/-- The value of n bytes. -/
def State.atomOld (s : State) (tag : Option Nat) (memSide : Bool) (a n : Nat) : Nat :=
  natOfBytes (s.viewBytes tag memSide a n)

end Sys2Proof.Machine
end

