-- ==== Sys2Proof/Machine/Remote.lean ====
section
/-! DEFINITION. Remote: requests of the part to other parts (R426-R430) and to the host (R437-R439). -/

namespace Sys2Proof.Machine

/-! ## Atomic operations -/

/-- The new value of an n-byte atomic, and the flags of a float one (R116, R166, R178). -/
def atomNew (op : AtomOp) (n old v cmp : Nat) : Nat × BitVec 9 :=
  match op with
  | .fadd => fmtF32.addOp old v
  | .fmin => fmtF32.minMax false old v
  | .fmax => fmtF32.minMax true old v
  | _ => (op.apply n old v cmp, 0#9)

/-- The op byte of an ATOMIC flit and of a proxy entry (R408). F32 minimum and maximum have no code of their own
and are sent as MIN and MAX (log entry 15). -/
def AtomOp.code (op : AtomOp) : Nat :=
  match op with
  | .add => 0
  | .and => 1
  | .or => 2
  | .xor => 3
  | .swp => 4
  | .cas => 5
  | .min => 6
  | .max => 7
  | .minu => 8
  | .maxu => 9
  | .fadd => 10
  | .fmin => 6
  | .fmax => 7

/-- The operation of an op byte. -/
def atomOfCode (c : Nat) : Option AtomOp :=
  match c with
  | 0 => some .add
  | 1 => some .and
  | 2 => some .or
  | 3 => some .xor
  | 4 => some .swp
  | 5 => some .cas
  | 6 => some .min
  | 7 => some .max
  | 8 => some .minu
  | 9 => some .maxu
  | 10 => some .fadd
  | _ => none

/-! ## Requests to other parts -/

/-- The domain that a thread's requests carry, and OPER (R427). -/
def State.requester (s : State) (th : ThreadId) : Nat × Bool :=
  match s.domainOf th with
  | some d => (d, false)
  | none => (0, true)

/-- A flit type of a request, its VC (R408). -/
def requestFlit (s : State) (th : ThreadId) (ty node : Nat) (h1 : Word) (payload : List Byte) : Flit :=
  let r := s.requester th
  { mkFlit ty 0 r.1 (s.node (threadDie th)) node h1 payload with oper := r.2 }

/-- The 42 address bits of a FABRIC DPA: GRANT and OFFSET (R426). -/
def fabricAddr (dpa : Nat) : Nat := dpa % 2 ^ 42
def fabricNode (dpa : Nat) : Nat := dpa / 2 ^ 42 % 256

/-- A TAG is free towards a node: neither outstanding nor first used within 400 us (R429). -/
def State.tagFree (s : State) (node tag : Nat) : Bool :=
  s.remote.all (fun r => r.tag != tag) &&
  s.spent.all (fun e => e.1 != node || e.2.1 != tag || decide (400000 ≤ (s.tsc - e.2.2).toNat))

/-- The next free TAG towards a node, from `nextTag` on. -/
def State.pickTag (s : State) (node : Nat) : Option Nat :=
  ((List.range 1024).find? (fun i => s.tagFree node ((s.nextTag + i) % 65536))).map
    (fun i => (s.nextTag + i) % 65536)

/-- What becomes of a request to another part. -/
inductive Sent where
  | sent (s : State) (tag : Nat)
  | noRoute
  | noTag

/-- A request sets out from a die on a TAG of its own (R426, R428, R430). -/
def State.sendTagged (s : State) (die : Nat) (who : Requester) (node : Nat) (mk : Nat → Flit) (off len : Nat)
    (tva : Word) : Sent :=
  match s.pickTag node with
  | none => .noTag
  | some tag =>
    match s.sendFlit? die (mk tag) with
    | none => .noRoute
    | some s =>
      let r : RemoteReq :=
        { tag := tag, fl := mk tag, who := who, tva := tva, off := off, len := len, die := die, first := s.tsc,
          last := s.tsc, resent := false, full := false }
      .sent { s with
        nextTag := (tag + 1) % 65536
        remote := s.remote ++ [r]
        spent := (node, tag, s.tsc) :: s.spent.filter (fun e => decide ((s.tsc - e.2.2).toNat < 400000)) } tag

/-- A request of a thread; a coach's is charged to its slice (R456). `body tag` gives its h1 and payload. -/
def State.sendRemote (s : State) (th : ThreadId) (who : Requester) (ty node : Nat)
    (body : Nat → Word × List Byte) (off len : Nat) (tva : Word) : Sent :=
  let s := match th with
    | .coach q _ => ((s.coach? q).map (fun (c : Coach) => s.charge c.slice .linkFlit 1)).getD s
    | .dray _ _ => s
  s.sendTagged (threadDie th) who node (fun tag => requestFlit s th ty node (body tag).1 (body tag).2) off len tva

/-- h1 of READ and WRITE: TAG, LMASK and the 256-byte-aligned address (R408). -/
def lineHead (tag lmask addr : Nat) : Word := word (tag * 2 ^ 48 + lmask * 2 ^ 42 + addr / 256 * 256)

/-- A READ of bytes of one line. -/
def State.remoteRead (s : State) (th : ThreadId) (who : Requester) (dpa n : Nat) (tva : Word) : Sent :=
  let a := fabricAddr dpa
  s.sendRemote th who 3 (fabricNode dpa) (fun tag => (lineHead tag (2 ^ (a / 64 % 4)) a, [])) (a % 256) n tva

/-- A WRITEP of bytes of one line. -/
def State.remoteWrite (s : State) (th : ThreadId) (who : Requester) (dpa : Nat) (bs : List Byte) (tva : Word) :
    Sent :=
  let a := fabricAddr dpa
  let pay := bytesOfNat 64 (lineData (a % 64) bs).toNat ++ bytesOfNat 8 (lineMask (a % 64) bs.length).toNat
  s.sendRemote th who 5 (fabricNode dpa) (fun tag => (word (tag * 2 ^ 48 + a / 64 * 64), pay)) 0 0 tva

/-- The last known epoch of a node, 0 when there is none (R429). -/
def State.epochOf (s : State) (node : Nat) : BitVec 16 := SMap.get (fun _ => 0#16) s.known node

/-- Payload of an ATOMIC. -/
def State.atomPayload (s : State) (node : Nat) (at_ : HomeAtom) : List Byte :=
  bytesOfNat 8 at_.v ++ bytesOfNat 8 at_.cmp ++ [BitVec.ofNat 8 at_.op.code, BitVec.ofNat 8 at_.bytes] ++
    bytesOfNat 2 (s.epochOf node).toNat

/-- An ATOMIC. -/
def State.remoteAtomic (s : State) (th : ThreadId) (who : Requester) (dpa : Nat) (at_ : HomeAtom) (tva : Word) :
    Sent :=
  s.sendRemote th who 6 (fabricNode dpa)
    (fun tag => (word (tag * 2 ^ 48 + fabricAddr dpa), s.atomPayload (fabricNode dpa) at_)) 0 at_.bytes tva

/-! ## The host (R437) -/

/-- The PCIe address of a HOST DPA. -/
def hostAddr (dpa : Nat) : Nat := dpa - 0x8000000000000

/-- The host window of an access: its policy (PROXY) and function. Die 0 decides (R470). -/
def State.hostWindow (s : State) (addr n : Nat) : Option (Bool × Nat) :=
  ((List.range 32).find? (fun w =>
    let w0 := s.pmWord 0 (0x39800 + 16 * w)
    let w1 := s.pmWord 0 (0x39800 + 16 * w + 8)
    bit w0 63 && decide (bits w0 50 12 ≤ addr / 4096) && decide ((addr + n - 1) / 4096 ≤ bits w1 50 12))).map
    (fun w => (bit (s.pmWord 0 (0x39800 + 16 * w)) 62, bits (s.pmWord 0 (0x39800 + 16 * w)) 61 54))

/-- Something goes out on the host port. -/
def State.toHost (s : State) (m : HostMsg) : State := { s with hostOut := s.hostOut ++ [m] }

/-- A posted write to the host. -/
def State.hostWrite (s : State) (fn addr : Nat) (bs : List Byte) : State :=
  s.toHost (.memWrite fn addr bs.length (BitVec.ofNat 512 (natOfBytes bs)))

/-- A request to the host that waits for an answer; `op` is 255 for a read, else the atomic's code. -/
def newHostReq (s : State) (who : Requester) (tva : Word) (addr n op : Nat) (v cmp : Word) (policy : Bool)
    (fn : Nat) : HostReq :=
  { id := s.nextHost, who := who, tva := tva, addr := addr, bytes := n, op := op, operand := v, compare := cmp,
    policy := policy, fn := fn, since := s.tsc, written := false }

/-- A read of host memory sets out. -/
def State.hostRead (s : State) (who : Requester) (tva : Word) (addr n fn : Nat) : State × Nat :=
  let r := newHostReq s who tva addr n 255 0#64 0#64 false fn
  ({ s with nextHost := s.nextHost + 1, hostReqs := s.hostReqs ++ [r] }.toHost (.memRead r.id fn addr n), r.id)

/-- An AtomicOp sets out. -/
def State.hostAtomicOp (s : State) (r : HostReq) : State :=
  { s with nextHost := s.nextHost + 1, hostReqs := s.hostReqs ++ [r] }.toHost
    (.atomicOp r.id r.fn r.addr r.bytes r.op r.operand r.compare)

/-- The operations that PCIe AtomicOps carry (R118, R178). -/
def carried (op : AtomOp) : Bool := op == .add || op == .swp || op == .cas

/-! ## The proxy ring (R439) -/

/-- A function's control page. -/
def State.fn (s : State) (f : Nat) : FnPage := SMap.get (fun _ => FnPage.reset) s.fns f

def State.updFn (s : State) (f : Nat) (g : FnPage → FnPage) : State :=
  { s with fns := SMap.put (fun _ => FnPage.reset) s.fns f (g (s.fn f)) }

/-- Ring sizes: log2 of 4 to 12 is valid. -/
def ringLog (w : Word) : Option Nat := if 4 ≤ bits w 3 0 ∧ bits w 3 0 ≤ 12 then some (bits w 3 0) else none

/-- Proxy entries that have been written and not completed. -/
def State.pendingProxies (s : State) : Nat := (s.proxies.filter (fun p => p.written)).length

/-- A waiting proxy entry is written when the ring has room: the entry goes to the host, PXPROD advances and the
vector fires. Only a CAS has a compare value in w2 (R461). -/
def State.writeProxy (s : State) (p : HostReq) : State :=
  let pf := s.fn 0
  match ringLog pf.px with
  | none => s
  | some lg =>
    let idx := pf.pxProd.toNat % 2 ^ lg
    if p.written ∨ pf.frozen ∨ 2 ^ lg ≤ s.pendingProxies ∨ s.proxies.any (fun x => x.written && x.id == idx) then s
    else
      let body := bytesOfNat 8 p.addr ++ bytesOf8 p.operand ++ bytesOf8 (if p.op = 5 then p.compare else 0#64) ++
        bytesOfNat 8 (p.op + 256 * p.bytes)
      let s := s.hostWrite 0 (bits pf.px 63 12 * 4096 + 32 * idx) body
      let s := s.updFn 0 (fun f => { f with pxProd := f.pxProd + 1#32 })
      let f := fun (x : HostReq) => { x with written := true, id := idx }
      { s with proxies := updateWhere (fun x => x.id == p.id && !x.written) f s.proxies }.toHost
        (.vector 0 (0x700 ||| bits pf.px 11 4))

/-- Waiting entries are written in arrival order. -/
def State.pumpProxies (s : State) : State := (s.proxies.filter (fun p => !p.written)).foldl State.writeProxy s

/-- An atomic enters the proxy ring. Until its entry is written its identity is 2^16 + a request number. -/
def State.proxy (s : State) (r : HostReq) : State :=
  let r := { r with id := s.nextHost + 2 ^ 16 }
  { s with nextHost := s.nextHost + 1, proxies := s.proxies ++ [r] }.pumpProxies

/-! ## Answers -/

/-- Bytes come back for the word that a thread waits with. -/
def State.giveReply (s : State) (th : ThreadId) (bs : List Byte) (p : Bool) : State :=
  s.updStrand th (fun st =>
    match st.run with
    | .parked _ => { st with reply := st.reply ++ bs, replyPoison := st.replyPoison || p }
    | _ => st)

/-- A precise fault is taken by the thread that waits with its word (R430, R437). -/
def State.faultWaiter (s : State) (th : ThreadId) (code : Nat) (faddr fprog : Word) : State :=
  match s.strand? th with
  | some st =>
    match st.run with
    | .parked _ => s.takeFault th code faddr fprog st.pc
    | _ => s
  | none => s

/-- The record of a posted store that failed after its word had completed (R113): an engine fault of its master,
which goes on. -/
def State.storeFault (s : State) (th : ThreadId) (code : Nat) (faddr fprog : Word) : State :=
  let epc := ((s.strand? th).map (fun t => t.pc)).getD 0#64
  let r := mkRecord s (threadHandle th) epc code true faddr fprog (s.vtagOf th) ((s.sliceOf th).getD 0)
    ((s.domainOf th).getD 0)
  let s := s.updStrand th (fun st => st.engineCopy code faddr fprog epc)
  match th with
  | .coach q _ => s.postSlice r (quadDie q)
  | .dray d k => s.postDray r d k

end Sys2Proof.Machine
end

