-- ==== Sys2Proof/Machine/Ctl.lean ====
section
/-! DEFINITION. Ctl: the control structures in Dray private memory: which word an address names, who may read
and write it (R266), and the words that read as state held elsewhere; and where an access of a thread goes (R267). -/

namespace Sys2Proof.Machine

/-! ## The map of the control structures -/

/-- The doubleword that an address of the control area lies in, with its entry and word numbers. -/
inductive CtlWord where
  | migration (slice w : Nat)
  | hostWindow (n w : Nat)
  | attach
  | sliceFabric (slice w : Nat)
  | operatorRoute (w : Nat)
  | port (k w : Nat)
  | routeTable
  | domFabric (dom w : Nat)
  | weight (slice w : Nat)
  | loader (slice w : Nat)
  | kat
  | engineWatch (k w : Nat)
  | coachWatch (slice k w : Nat)
  | slice (i w : Nat)
  | domain (d w : Nat)
  | strand (k w : Nat)
  | ways
  | scrub
  | repLog
  | logTail
  | repAdd
  | allot (slice : Nat)
  | cocoonBase
  | cocoonSize
  | quota (slice : Nat)
  | route (level w : Nat)
  | pre (slice w : Nat)
  | none
deriving DecidableEq, Repr

/-- The map (R266, R270, R302, R337, R354, R377, R379, R392, R397, R412, R416, R432, R437, R441, R469). -/
def ctlWord (a : Nat) : CtlWord :=
  if a < 0x39000 then .none
  else if a < 0x39800 then .migration ((a - 0x39000) / 32) (a / 8 % 4)
  else if a < 0x39A00 then .hostWindow ((a - 0x39800) / 16) (a / 8 % 2)
  else if a < 0x39C00 then .attach
  else if a < 0x3A000 then .sliceFabric ((a - 0x39C00) / 16) (a / 8 % 2)
  else if a < 0x3A010 then .operatorRoute (a / 8 % 2)
  else if a < 0x3A200 then .none
  else if a < 0x3A240 then .port ((a - 0x3A200) / 16) (a / 8 % 2)
  else if a < 0x3A300 then .none
  else if a < 0x3A400 then .routeTable
  else if a < 0x3A600 then .domFabric ((a - 0x3A400) / 32) (a / 8 % 4)
  else if a < 0x3B600 then .weight ((a - 0x3A600) / 64) (a / 8 % 8)
  else if a < 0x3BE00 then .loader ((a - 0x3B600) / 32) (a / 8 % 4)
  else if a < 0x3BF00 then .kat
  else if a < 0x3C000 then .engineWatch ((a - 0x3BF00) / 16) (a / 8 % 2)
  else if a < 0x3D000 then .coachWatch ((a - 0x3C000) / 64) (a / 16 % 4) (a / 8 % 2)
  else if a < 0x3E000 then .slice ((a - 0x3D000) / 64) (a / 8 % 8)
  else if a < 0x3F000 then .domain ((a - 0x3E000) / 256) (a / 8 % 32)
  else if a < 0x3F100 then .strand ((a - 0x3F000) / 32) (a / 8 % 4)
  else if a < 0x3F108 then .ways
  else if a < 0x3F110 then .scrub
  else if a < 0x3F118 then .repLog
  else if a < 0x3F120 then .logTail
  else if a < 0x3F128 then .repAdd
  else if a < 0x3F200 then .none
  else if a < 0x3F400 then .allot ((a - 0x3F200) / 8)
  else if a < 0x3F408 then .cocoonBase
  else if a < 0x3F410 then .cocoonSize
  else if a < 0x3F500 then .none
  else if a < 0x3F700 then .quota ((a - 0x3F500) / 8)
  else if a < 0x3FC00 then .route ((a - 0x3F700) / 16) (a / 8 % 2)
  else if a < 0x40000 then .pre ((a - 0x3FC00) / 16) (a / 8 % 2)
  else .none

/-- SLICE of an engine watchpoint entry, while it is armed (R379). -/
def State.watchSlice (s : State) (die k : Nat) : Option Nat :=
  let w := s.pmWord die (0x3BF00 + 16 * k)
  if bit w 63 then some (bits w 59 54) else none

/-- A slice is within a strand's reach for grants: of its domain at level D, its own at level S. -/
def State.reaches (s : State) (die level served slice : Nat) : Bool := s.ownsSlice die level served slice

/-- A domain number is the strand's own at level D. -/
def reachesDom (level served dom : Nat) : Bool := level == 0 || (level == 1 && dom == served)

/-- A strand of a level may write a word (R266 and each structure's own rule). -/
def State.ctlWritable (s : State) (die level served : Nat) (w : CtlWord) : Bool :=
  level == 0 ||
  match w with
  | .migration i _ => level == 1 && s.reaches die level served i
  | .sliceFabric i _ => s.reaches die level served i
  | .domFabric d n => n == 0 && reachesDom level served d
  | .weight i _ => s.reaches die level served i
  | .loader i _ => s.reaches die level served i
  | .engineWatch k _ => ((s.watchSlice die k).map (fun i => s.reaches die level served i)).getD true
  | .coachWatch i _ _ => s.reaches die level served i
  | .slice i _ => level == 1 && s.reaches die level served i
  | .allot i => level == 1 && s.reaches die level served i
  | .quota i => level == 1 && s.reaches die level served i
  | .route l _ => if l < 64 then s.reaches die level served l else reachesDom level served (l - 64)
  | .pre i _ => level == 1 && s.reaches die level served i
  | _ => false

/-- A word belongs to a strand's own domain, its slices or its slice (R266). -/
def State.ctlBelongs (s : State) (die level served : Nat) (w : CtlWord) : Bool :=
  match w with
  | .migration i _ => s.reaches die level served i
  | .sliceFabric i _ => s.reaches die level served i
  | .domFabric d _ => reachesDom level served d
  | .weight i _ => s.reaches die level served i
  | .loader i _ => s.reaches die level served i
  | .engineWatch k _ => ((s.watchSlice die k).map (fun i => s.reaches die level served i)).getD false
  | .coachWatch i _ _ => s.reaches die level served i
  | .slice i _ => s.reaches die level served i
  | .domain d _ => reachesDom level served d
  | .strand k _ =>
    (s.strandLevel die k == 1 && reachesDom level served (s.strandServed die k)) ||
      (s.strandLevel die k == 2 && s.reaches die level served (s.strandServed die k))
  | .allot i => s.reaches die level served i
  | .quota i => s.reaches die level served i
  | .route l _ => if l < 64 then s.reaches die level served l else reachesDom level served (l - 64)
  | .pre i _ => s.reaches die level served i
  | _ => false

/-- A strand of a level may read a word (R266). -/
def State.ctlReadable (s : State) (die level served : Nat) (w : CtlWord) : Bool :=
  level == 0 || s.ctlWritable die level served w || s.ctlBelongs die level served w

/-! ## Words that show state held elsewhere -/

/-- Units of 2 MiB that a slice's copies hold (R397). -/
def State.weightUsed (s : State) (slice : Nat) : Nat :=
  (s.wsets.filter (fun w => w.slice == slice)).foldl (fun n w => n + w.a.units + w.b.units) 0

/-- Coaches of a slice on a die. -/
def State.coachesOn (s : State) (die slice : Nat) : List Coach :=
  s.coaches.filter (fun c => quadDie c.quad == die && c.slice == slice)

/-- The request in force for a slice on a die. -/
def State.preReq (s : State) (die slice : Nat) : Option PreReq :=
  s.pres.find? (fun r => r.die == die && r.slice == slice)

/-- Word 0 of the pre-emption block (R354): LIVE, HELD and ELAPSED are computed; RUNG, FROZE and STATE stand. -/
def State.preWord (s : State) (die slice : Nat) : Word :=
  let stored := s.pmWord die (0x3FC00 + 16 * slice)
  let cs := s.coachesOn die slice
  let live := (cs.filter (fun c => c.held.isNone && !c.frozen)).length
  let held := (cs.filter (fun c => c.held.isSome)).length
  let us := match s.preReq die slice with
    | some r => Nat.min ((s.tsc - r.began).toNat / 1000) 0xFFFF
    | none => 0
  word (live * 2 ^ 40 + held * 2 ^ 32 + us * 2 ^ 16 + bits stored 8 0)

/-! Fields of a slice's migration block (R441); it reads the same on every die. -/

def migBlock (slice : Nat) : Nat := 0x39000 + 32 * slice

def State.migPeer (s : State) (slice : Nat) : Nat := bits (s.pmWord 0 (migBlock slice)) 63 56
def State.migDeadline (s : State) (slice : Nat) : Nat :=
  let d := bits (s.pmWord 0 (migBlock slice)) 47 32
  if d = 0 then 50 else d
def State.migState (s : State) (slice : Nat) : Nat := bits (s.pmWord 0 (migBlock slice)) 2 0
def State.migLost (s : State) (slice : Nat) : Nat := bits (s.pmWord 0 (migBlock slice + 16)) 31 0
def State.setMigState (s : State) (slice v : Nat) : State := s.pmSetBitsAll (migBlock slice) 2 0 v
def State.setMigErr (s : State) (slice v : Nat) : State := s.pmSetBitsAll (migBlock slice) 31 16 v
def State.setMigLost (s : State) (slice v : Nat) : State := s.pmSetBitsAll (migBlock slice + 16) 31 0 v

/-- The die whose control blocks give a slice's domain: the lowest one on which the slice is valid. -/
def State.migDie (s : State) (slice : Nat) : Nat := (leastBelow 4 (fun d => s.sliceV d slice)).getD 0

/-- RPEND: pages of a slice with RP = 1 while it is INBOUND (log entry 26). -/
def State.migRpend (s : State) (slice : Nat) : Nat :=
  if s.migState slice = 2 then (s.rpPages (s.sliceDomain (s.migDie slice) slice)).length else 0

/-- A doubleword of private memory as a load reads it. -/
def State.ctlRead (s : State) (die a : Nat) : Word :=
  let stored := s.pmWord die a
  match ctlWord a with
  | .migration _ 0 => setBits stored 10 8 0
  | .migration i 2 => setBits stored 63 32 (s.migRpend i)
  | .weight i w =>
    if i % 4 ≠ die then 0#64
    else if w = 1 then setBits stored 63 32 (s.weightUsed i)
    else stored
  | .scrub => setBits stored 32 16 (s.repair.filter (fun r => homeDie r.1 == die)).length
  | .quota i => setBits stored 63 32 (s.overflowUsed die i)
  | .pre i 0 => s.preWord die i
  | _ => stored

/-- One byte of private memory as a load reads it. -/
def State.pmView (s : State) (die a : Nat) : Byte :=
  BitVec.ofNat 8 ((s.ctlRead die (a / 8 * 8)).toNat / 2 ^ (8 * (a % 8)))

/-! ## Where an access goes (R110, R267) -/

/-- A data window holds an interval. -/
def State.inDataWindow (s : State) (die k a n : Nat) : Bool :=
  decide (s.strandDbase die k ≤ a) && decide (a + n ≤ s.strandDlimit die k)

/-- The doublewords that an interval touches. -/
def dwordsOf (a n : Nat) : List Nat :=
  if n = 0 then [] else (List.range ((a + n - 1) / 8 - a / 8 + 1)).map (fun i => 8 * (a / 8 + i))

/-- A strand may make an access of a kind to n bytes of private memory. -/
def State.pmAllowed (s : State) (die k a n : Nat) (kind : AccessKind) : Bool :=
  let level := s.strandLevel die k
  let served := s.strandServed die k
  let ws := (dwordsOf a n).map ctlWord
  level == 0 || s.inDataWindow die k a n ||
  (decide (0x39000 ≤ a) && ws.all (fun w =>
    match kind with
    | .read => s.ctlReadable die level served w
    | .write => s.ctlWritable die level served w
    | .atomic => s.ctlReadable die level served w && s.ctlWritable die level served w))

/-- An access's place: private memory, or a device physical address. -/
inductive Place where
  | pm (die addr : Nat)
  | dpa (x : Xlate)

/-- The translation identity of a thread's accesses. -/
def State.whoOf (s : State) (th : ThreadId) (plain : Bool) : Who :=
  { die := threadDie th
    cluster := (match th with
      | .coach q _ => quadCluster q
      | .dray d _ => 32 + d)
    slice := (s.sliceOf th).getD 0
    domain := (s.domainOf th).getD 0
    plain := plain
    quad := (match th with
      | .coach q _ => some q
      | .dray _ _ => none) }

/-- An address that no row of R267 allows. Its FPROG shows no page (log entry 16). -/
def noRow : Stop := .fault codeWindow 7 0

/-- The place of n bytes at an address, none of which leaves its page, under a translation identity of a thread. -/
def State.resolveAs (s : State) (w : Who) (th : ThreadId) (va : Word) (n : Nat) (kind : AccessKind) : Except Stop Place :=
  let a := va.toNat
  match th with
  | .coach _ _ =>
    match s.translate w a n kind with
    | .ok x => .ok (.dpa x)
    | .error e => .error e
  | .dray d k =>
    if a < 0x40000 then
      if s.pmAllowed d k a n kind then .ok (.pm d a) else .error noRow
    else
      match s.strandLevel d k with
      | 0 =>
        if 2 ^ 52 ≤ a then .error noRow
        else if apertureOf a = .none then .error (.fault codeWindow 7 (pageBits a))
        else .ok (.dpa { dpa := a, memSide := false, entry := none, setD := none })
      | 1 =>
        let slice := bits va 61 56
        if bits va 63 62 ≠ 0 ∨ s.ownsSlice d 1 (s.strandServed d k) slice = false ∨ 2 ^ 52 ≤ bits va 55 0 then
          .error noRow
        else
          match s.translate2 w (bits va 55 0) n kind with
          | .ok x => .ok (.dpa x)
          | .error e => .error e
      | _ =>
        if 2 ^ 56 ≤ a then .error noRow
        else
          match s.translate w a n kind with
          | .ok x => .ok (.dpa x)
          | .error e => .error e

/-- The place of n bytes at an address as a thread reaches them. -/
def State.resolve (s : State) (th : ThreadId) (va : Word) (n : Nat) (kind : AccessKind) (plain : Bool) :
    Except Stop Place :=
  s.resolveAs (s.whoOf th plain) th va n kind

/-- Where bytes lie that a thread has already reached. -/
def State.placeRead (s : State) (th : ThreadId) (va : Word) (n : Nat) : Except Stop Place :=
  s.resolveAs { s.whoOf th true with quad := none } th va n .read

/-- What a passed translation leaves behind: the TLB entries, and D in the leaf and in its cached copies (R331). -/
def State.settleXlate (s : State) (x : Xlate) : State :=
  let s := match x.setD with
    | some leaf => s.setDirty leaf
    | none => s
  match x.entry with
  | some e =>
    let mark := fun (y : TlbEntry) => { y with dirty := y.dirty || (x.setD.isSome && y.leaf2 == e.leaf2 && y.cluster == e.cluster) }
    let far := if e.quad.isNone then keepTlb s.tlb e else s.tlb
    let tlb := if x.near.isSome then keepTlb far { e with quad := x.near } else far
    { s with
      tlb := tlb.map mark
      walks := s.walks.filter (fun y => !(y.ended && y.cluster == e.cluster && y.slice == e.slice && e.covers (y.page * 4096))) }
  | none => s

end Sys2Proof.Machine
end

