-- ==== Sys2Proof/Machine/Post.lean ====
section
/-! DEFINITION. Post: how a write sets out for its home, and how a read of one line is answered, for scalar and
engine accesses alike (R288-R294, R308-R311, R430, R437). -/

namespace Sys2Proof.Machine

/-- Pieces of n bytes from an address on, each within one 64-byte line: address and length. -/
def linePieces (lo n : Nat) : List (Nat × Nat) :=
  if n = 0 then []
  else
    (List.range ((lo + n - 1) / 64 - lo / 64 + 1)).map (fun i =>
      let a := Nat.max lo (64 * (lo / 64 + i))
      let b := Nat.min (lo + n) (64 * (lo / 64 + i) + 64)
      (a, b - a))

/-! ## Engine watchpoints -/

/-- The engine entry that an access hits at the home of a line: its number, and the touched and watched bytes of its 16
(R381, R382). -/
def State.engineHit (s : State) (slice line : Nat) (mask : BitVec 64) (kind : AccessKind) : Option (Nat × BitVec 16) :=
  let die := homeDie (64 * line)
  (List.range 16).findSome? (fun k =>
    let w0 := s.pmWord die (0x3BF00 + 16 * k)
    let w1 := s.pmWord die (0x3BF00 + 16 * k + 8)
    let on :=
      match kind with
      | .read => bit w0 62
      | .write => bit w0 61
      | .atomic => bit w0 60
    let hit := (mask >>> (bits w1 63 16 % 4 * 16)).setWidth 16 &&& w1.setWidth 16
    if bit w0 63 && on && bits w0 59 54 == slice && apertureOf (64 * line) == .hbm && bits w1 63 16 / 4 == line &&
      hit != 0#16 then some (k, hit) else none)

/-- The entry that n bytes of one line hit. -/
def State.engineWatch (s : State) (slice dpa n : Nat) (kind : AccessKind) : Option (Nat × BitVec 16) :=
  s.engineHit slice (dpa / 64) (lineMask (dpa % 64) n) kind

/-- FADDR of a hit: the TVA of its lowest byte; and FPROG's bits above those of the access: bytes and entry. -/
def watchAddr (tva dpa : Nat) (hit : Nat × BitVec 16) : Word :=
  let low := ((List.range 16).find? (fun i => hit.2.getLsbD i)).getD 0
  word (tva + (dpa / 16 * 16 + low - dpa))

def watchHigh (hit : Nat × BitVec 16) : Word := word (hit.2.toNat * 2 ^ 48 + hit.1 * 2 ^ 44)

/-- What a write carries beside its bytes: its agent, class, path, whether it escapes, its release scope, who is told
and its eviction class. -/
structure WriteSpec where
  th     : ThreadId
  cls    : Nat
  path   : Nat
  esc    : Bool
  rel    : Option Nat
  ack    : AckTo
  evict  : Nat

/-- What becomes of a write that is posted. -/
inductive Posted where
  /-- It is on its way; `true` says that nothing further will be heard of it. -/
  | sent (s : State) (done : Bool)
  | fault (code : Nat)
  | busy
  | refuse

/-- Who waits for the reply of a remote or host request made for a posted write. -/
def askerOf (th : ThreadId) (a : AckTo) : Requester :=
  match a with
  | .beat seq num => .beat (threadQuad th) seq num
  | _ => .thread th

/-- The path of an access: A to a memory-side line, Q to another part, else that of its agent (R308, R309). -/
def pathTo (x : Xlate) (path : Nat) : Nat := if x.memSide then 3 else if apertureOf x.dpa = .fabric then 4 else path

/-- The request of a write. -/
def State.writeReq (s : State) (w : WriteSpec) (x : Xlate) (tva : Word) (bs : List Byte) : HomeReq where
  id := s.nextReq
  by_ := w.th
  tag := s.attemptOf w.th
  slice := (s.sliceOf w.th).getD 0
  line := x.dpa / 64
  data := lineData (x.dpa % 64) bs
  mask := lineMask (x.dpa % 64) bs.length
  cls := w.cls
  memSide := x.memSide
  direct := w.esc || x.memSide || apertureOf x.dpa != .hbm
  release := w.rel
  ack := w.ack
  path := pathTo x w.path
  evict := w.evict
  leaf := x.entry.map (fun e => e.leaf2)
  tva := tva - word (x.dpa % 64)
  atom := none
  near := false
  after := ((s.strand? w.th).map (fun t => t.behind)).getD []

/-- A write opens its launch when it escapes, and sets out. -/
def State.sendWrite (s : State) (r : HomeReq) : State := (if r.direct then s.openLaunch r.by_ else s).send r

/-- The last write that a thread has posted to the host on a path, as no read has flushed it (R315). -/
def State.noteHost (s : State) (th : ThreadId) (path fn addr : Nat) : State :=
  s.updStrand th (fun st => { st with hostLast := SMap.insert (SMap.erase st.hostLast path) path (fn, addr) })

/-- A write of bytes of one line sets out, after its translation has passed. -/
def State.postWrite (s : State) (w : WriteSpec) (x : Xlate) (tva : Word) (bs : List Byte) : Posted :=
  match apertureOf x.dpa with
  | .hbm => .sent (s.sendWrite (s.writeReq w x tva bs)) false
  | .fabric =>
    match (s.openLaunch w.th).remoteWrite w.th (askerOf w.th w.ack) x.dpa bs tva with
    | .sent s _ => .sent s false
    | .noRoute => .fault codeLinkDown
    | .noTag => .busy
  | .host =>
    match s.hostWindow (hostAddr x.dpa) bs.length with
    | none => .fault codeHostAbort
    | some win =>
      let s := (s.openLaunch w.th).hostWrite win.2 (hostAddr x.dpa) bs
      .sent (s.noteHost w.th w.path win.2 (hostAddr x.dpa)) true
  | .mmio => .refuse
  | .none => .fault codeWindow

/-! ## Atomics at their homes (R116-R119, R278, R322) -/

/-- SCOPEX of a thread that acquires bytes whose release does not cover both parties (R322). -/
def State.scopeFlag (s before : State) (th : ThreadId) (sem scope : Nat) (tag : Option Nat) (dpa n : Nat) : State :=
  if sem % 2 = 1 ∧ before.scopeMiss th scope tag dpa n then
    s.updStream th (fun t => { t with flags := t.flags ||| flagSCOPEX })
  else s

/-- The home of an ordinary line performs an atomic that it has admitted: on the launch's staged image, or on committed data. The
old value and its poison (R117). -/
def State.homeAtom (s : State) (r : HomeReq) (a : HomeAtom) : State × Nat × Bool :=
  let dpa := 64 * r.line + a.off
  let tag := r.tag.map (fun t => t.1)
  let old := s.atomOld tag false dpa a.bytes
  let data := lineData a.off (bytesOfNat a.bytes (atomNew a.op a.bytes old a.v a.cmp).1)
  let t :=
    match r.tag.bind s.currentAttempt with
    | some l => s.writeLaunch l r.line data r.mask r.evict r.leaf noCopy r.rel
    | none => s.writeDirect r.line data r.mask r.evict noCopy r.rel
  (t.scopeFlag s r.by_ a.sem a.scope tag dpa a.bytes, old, s.viewPois tag false dpa a.bytes)

/-- The launches whose PENDING entries of a line an access of another waits for, by version tag (R290). -/
def State.pendingOwners (s : State) (me : Option Nat) (line : Nat) : List Nat :=
  s.vtags ((s.staged.filter (fun e => e.line == line && e.pending && some e.tag != me)).map (fun e => e.tag))

/-! ## Posted stores (R110-R113, R312) -/

/-- The bytes of a launch's store that its cocoon stages: neither claimed nor written directly (R288, R293, R300). -/
def State.stagedBits (s : State) (r : HomeReq) : BitVec 64 :=
  match s.launchOf r.by_ with
  | some l => if l.irrev then 0#64 else r.mask &&& ~~~ (l.claimMask r.line)
  | none => 0#64

/-- What a release covers stands in its core's L1 or has performed, so that its own bytes may be read there (R312, R315,
R316). -/
def State.mayShow (s : State) (r : HomeReq) : Bool :=
  r.release.isNone ||
    (s.unapplied.all (fun x => !x.open_ || x.near || !((x.by_ == r.by_ && x.path == r.path) || r.after.contains x.id)) &&
      s.remote.all (fun x => match x.who with
        | .store _ _ id => !r.after.contains id
        | _ => true))

/-- A store of a coach writes its bytes into the line of its core's L1 that it hits (R312). DEDUCED: a release whose earlier
accesses have not performed for its core leaves no such line instead, so that none of the core reads it early (log entry 146). -/
def State.intoL1 (s : State) (r : HomeReq) : State × HomeReq :=
  match r.by_ with
  | .dray _ _ => (s, r)
  | .coach q _ =>
    match s.coach? q with
    | none => (s, r)
    | some c =>
      if r.direct ∨ (s.l1Hit c r.line).isNone then (s, r)
      else if s.mayShow r then (s.l1Write c r.line r.data r.mask (s.stagedBits r), { r with near := true })
      else (s.l1Drop r.line (fun e => !s.l1Hits c r.line e), r)

/-- A scalar store is posted: whatever its target, it is on its way when its word completes (R110, R113). What can be judged at
once is a precise fault: no route, no host window (R430, R437). -/
def State.postStore (s : State) (w : WriteSpec) (x : Xlate) (tva : Word) (bs : List Byte) : Posted :=
  let r := s.writeReq w x tva bs
  match apertureOf x.dpa with
  | .hbm => let p := s.intoL1 r; .sent (p.1.sendWrite p.2) false
  | .fabric =>
    match s.remoteWrite w.th (.store w.th w.cls r.id) x.dpa bs tva with
    | .noRoute => .fault codeLinkDown
    | _ => .sent (s.sendWrite r) false
  | .host => if (s.hostWindow (hostAddr x.dpa) bs.length).isNone then .fault codeHostAbort else .sent (s.sendWrite r) false
  | .mmio => .refuse
  | .none => .fault codeWindow

/-- The first byte of a request's mask, and its bytes. -/
def HomeReq.firstByte (r : HomeReq) : Nat := (maskBytes r.mask).headD 0
def HomeReq.bytes (r : HomeReq) : List Byte := (maskBytes r.mask).map (lineByte r.data)

/-- A posted store for another part or the host leaves, when its turn has come. A link that has failed since, or a host window
that has gone, is an engine fault of its thread (R113). -/
def State.sendOut (s : State) (r : HomeReq) : State :=
  let dpa := 64 * r.line + r.firstByte
  let tva := r.tva + word r.firstByte
  match apertureOf dpa with
  | .fabric =>
    match s.remoteWrite r.by_ (.store r.by_ r.cls r.id) dpa r.bytes tva with
    | .sent s _ => s.dropReq r.id
    | .noRoute => (s.dropReq r.id).storeFault r.by_ codeLinkDown tva 0#64
    | .noTag => s
  | _ =>
    match s.hostWindow (hostAddr dpa) r.bytes.length with
    | some win => ((s.dropReq r.id).hostWrite win.2 (hostAddr dpa) r.bytes).noteHost r.by_ r.path win.2 (hostAddr dpa)
    | none =>
      let p := (s.dropReq r.id).drawWord
      p.1.storeFault r.by_ codeHostAbort tva p.2

/-- A read that flushes a thread's posted writes to the host on some paths: on its way already, or begun now; none when nothing
is left to flush (R315). -/
def State.flushHost (s : State) (th : ThreadId) (p : Nat → Bool) : Option (State × Nat) :=
  match ((s.strand? th).map (fun t => t.hostLast)).bind (fun l => l.find? (fun e => p e.1)) with
  | none => none
  | some h =>
    match s.hostReqs.find? (fun r => r.who == .flush th) with
    | some r => some (s, r.id)
    | none => some (s.hostRead (.flush th) 0#64 (h.2.2 / 4 * 4) 4 h.2.1)

/-- FPROG of a plain access that fails past its translation: 0 for LINK_DOWN (R430); for an access to the host the manual states none (log
entry 6). -/
def accessProg (code : Nat) : Option Word := if code = codeLinkDown then some 0#64 else none

/-- What becomes of a read of bytes of one line. -/
inductive Fetched where
  | got (s : State) (bs : List Byte) (pois : Bool)
  /-- A request has set out: the wait for its reply. -/
  | asked (s : State) (w : Wait)
  | fault (code : Nat)
  /-- It cannot be made yet: what it waits for. -/
  | busy (s : State) (w : Wait)
  /-- The reader's launch has gone. -/
  | gone (s : State)
  | refuse

/-- The wait-record of a read or claim that has met other launches' bytes (R294, R295): a request with no bytes. -/
def parkedReq (s : State) (th : ThreadId) (slice line cls : Nat) (path : Nat) (ack : AckTo) : HomeReq :=
  { id := s.nextReq, by_ := th, tag := s.attemptOf th, slice := slice, line := line, data := 0#512, mask := 0#64,
    cls := cls, memSide := false, direct := false, release := none, ack := ack, path := path, evict := evictNormal,
    leaf := none, tva := 0#64, atom := none, near := false, after := [] }

/-- A launch's access waits for owners, under a record of its own. -/
def State.parkAt (s : State) (r : HomeReq) (owners : List Nat) : State :=
  { s with nextReq := s.nextReq + 1, waiting := s.waiting ++ [{ req := r, owners := owners, since := s.tsc }] }

/-- Wait-records of an agent's path that are done with. -/
def State.unpark (s : State) (th : ThreadId) (path : Nat) : State :=
  { s with waiting := s.waiting.filter (fun w => w.req.mask != 0#64 || w.req.by_ != th || w.req.path != path) }

/-- A read of n bytes of one line, after its translation has passed. `alloc` says whether the home's cache ways take
the line; an escaping read meets no conflict (R292, R294). -/
def State.fetchLine (s : State) (th : ThreadId) (who : Requester) (cls : Nat) (path : Nat) (esc : Bool) (evict : Nat)
    (alloc : Bool) (x : Xlate) (tva : Word) (n : Nat) : Fetched :=
  match apertureOf x.dpa with
  | .hbm =>
    let line := x.dpa / 64
    let tag := (s.attemptOf th).map (fun t => t.1)
    let read := fun (s : State) =>
      let s := if x.memSide || esc then s.openLaunch th else s
      let s := if x.memSide || !alloc then s else s.touch line evict false
      Fetched.got s (s.viewBytes tag x.memSide x.dpa n) (s.viewPois tag x.memSide x.dpa n)
    if x.memSide then read s
    else if s.pendingLine tag line then .busy s (.pendingLine line)
    else if esc then read s
    else
      match s.launchOf th with
      | none => read s
      | some l =>
        match s.admitRead l line (lineMask (x.dpa % 64) n) with
        | .go s => read s
        | .wait s owners =>
          let ack := match who with
            | .beat _ seq num => AckTo.beat seq num
            | _ => AckTo.thread
          let r := parkedReq s th l.slice line cls path ack
          .busy (s.parkAt r owners) (.home r.id)
        | .gone s => .gone s
  | .fabric =>
    match (s.openLaunch th).remoteRead th who x.dpa n tva with
    | .sent s tag => .asked s (.remote tag)
    | .noRoute => .fault codeLinkDown
    | .noTag => .busy s (.remote 65536)
  | .host =>
    match s.hostWindow (hostAddr x.dpa) n with
    | none => .fault codeHostAbort
    | some win =>
      let r := (s.openLaunch th).hostRead who tva (hostAddr x.dpa) n win.2
      .asked r.1 (.host r.2)
  | .mmio => .refuse
  | .none => .fault codeWindow

end Sys2Proof.Machine
end

