-- ==== Sys2Proof/Machine/Sync.lean ====
section
/-! DEFINITION. Sync: semaphores, barriers, events and service calls (R123-R125, R149, R150, R238, R239). -/

namespace Sys2Proof.Machine

/-! ## Semaphores -/

/-- The hardware semaphore that a virtual number names, as core x 128 + quadrant x 32 + number (R149);
none for a number outside the view, an invalid entry, or a quadrant that is not the slice's. -/
def State.semaphore (s : State) (c : Coach) (v : Nat) : Option Nat :=
  let e := (SMap.get (fun _ => 0#16) c.semView v).toNat
  let q := quadCore c.quad * 4 + e / 32 % 4
  if v < 64 ∧ e.testBit 15 ∧ s.quadOwner q = some c.slice then some (q * 32 + e % 32) else none

/-- The count of a semaphore; a stale one counts as 0 (R149). -/
def State.semCount (s : State) (sem : Nat) : BitVec 16 :=
  let x := s.quad (sem / 32)
  if x.stale.getLsbD (sem % 32) then 0#16 else SMap.get (fun _ => 0#16) x.sems (sem % 32)

/-- Writing a count makes the semaphore current. -/
def State.setSem (s : State) (sem : Nat) (v : BitVec 16) : State :=
  s.updQuad (sem / 32) (fun x => { x with
    sems := SMap.put (fun _ => 0#16) x.sems (sem % 32) v
    stale := x.stale &&& ~~~ (1#32 <<< (sem % 32)) })

/-- The oldest P that waits on a semaphore. -/
def State.semWaiter (s : State) (sem : Nat) : Option ThreadId :=
  ((s.quad (sem / 32)).semWait.find? (fun w => w.1 == sem)).map (fun w => w.2)

/-- A P joins the waiting queue, once. -/
def State.joinSem (s : State) (sem : Nat) (th : ThreadId) : State :=
  s.updQuad (sem / 32) (fun x =>
    if x.semWait.contains (sem, th) then x else { x with semWait := x.semWait ++ [(sem, th)] })

/-- A coach's view names a semaphore. -/
def viewNames (c : Coach) (sem : Nat) : Bool :=
  quadCore c.quad == sem / 128 && c.semView.any (fun e =>
    e.2.getLsbD 15 && e.2.toNat / 32 % 4 == sem / 32 % 4 && e.2.toNat % 32 == sem % 32)

/-- Event 1 latches in every thread of the coaches whose view names the semaphore (R124). -/
def State.latchSem (s : State) (sem : Nat) : State :=
  let f := fun (c : Coach) => [0, 1, 2, 3].foldl (fun c j => c.latch j 2#4) c
  { s with coaches := updateWhere (fun c => viewNames c sem) f s.coaches }

/-- V: the oldest waiter is served at once, else the count rises (R150). -/
def State.semV (s : State) (sem : Nat) : State :=
  let s := s.latchSem sem
  match s.semWaiter sem with
  | some th =>
    let s := s.updQuad (sem / 32) (fun x => { x with semWait := x.semWait.erase (sem, th) })
    s.updStrand th (fun st => { st with granted := true })
  | none => s.setSem sem (s.semCount sem + 1#16)

/-- What the Vs of a semaphore have released: P accesses of the strands that made them (R123, R316). -/
def State.semPast (s : State) (sem : Nat) : List Nat := SMap.get (fun _ => []) (s.quad (sem / 32)).semPast (sem % 32)

/-- A V releases. -/
def State.semRelease (s : State) (sem : Nat) : State :=
  let ids := s.released s.cur (fun p => p == 0) ++ (s.semPast sem).filter (fun id => (s.writesOut (fun _ _ => true)).contains id)
  s.updQuad (sem / 32) (fun x => { x with semPast := SMap.put (fun _ => []) x.semPast (sem % 32) ids.eraseDups })

/-- A P that has taken a count acquires. -/
def State.semAcquire (s : State) (sem : Nat) : State := s.follows s.cur (s.semPast sem)

/-- A SEM word: the semaphore is looked up, or SEM_RANGE with FADDR the number and FPROG 0 is raised. The number is an unbounded
sum (R10). DESIGN CHOICE: FADDR takes its low 64 bits (log entry 136). -/
def semForm (i : Instr) (k : Tok) (a : BitVec 4) (n : BitVec 5) (body : State → Word → Nat → Res) :
    State → Host.Outcome State Fault Refusal :=
  issue coachWord i k (fun s =>
    let v := (s.reg a).toNat + n.toNat
    match s.myCoach? with
    | none => .fault s codeSemRange (word v) 0#64
    | some c =>
      match s.semaphore c v with
      | none => .fault s codeSemRange (word v) 0#64
      | some sem => body s (word v) sem)

/-- SEM.P: a strand whose P was granted by a V goes on; a count above 0 falls; else it waits in the queue. -/
def execSemP (k : Tok) (a : BitVec 4) (i : BitVec 5) (s : State) : Host.Outcome State Fault Refusal :=
  semForm (.semP k a i) k a i (fun s _ sem =>
    if s.me.granted then .done (s.semAcquire sem)
    else if s.semCount sem ≠ 0#16 then .done ((s.setSem sem (s.semCount sem - 1#16)).semAcquire sem)
    else .wait ((s.setSem sem 0#16).joinSem sem s.cur) (.semaphore sem)) s

/-- SEM.V: a count of 0xFFFF stays and raises SEM_RANGE. -/
def execSemV (k : Tok) (a : BitVec 4) (i : BitVec 5) (s : State) : Host.Outcome State Fault Refusal :=
  semForm (.semV k a i) k a i (fun s v sem =>
    if s.semCount sem = 0xFFFF#16 then .fault s codeSemRange v 0#64 else .done ((s.semRelease sem).semV sem)) s

/-- SEM.TRYP: d tells whether the count fell. -/
def execSemTryp (k : Tok) (d a : BitVec 4) (i : BitVec 5) (s : State) : Host.Outcome State Fault Refusal :=
  semForm (.semTryp k d a i) k a i (fun s _ sem =>
    if s.semCount sem ≠ 0#16 then
      writeS d 1#64 (s.pois a) ((s.setSem sem (s.semCount sem - 1#16)).semAcquire sem)
    else writeS d 0#64 (s.pois a) (s.setSem sem 0#16)) s

/-- SEM.READ: d := count. -/
def execSemRead (k : Tok) (d a : BitVec 4) (i : BitVec 5) (s : State) : Host.Outcome State Fault Refusal :=
  semForm (.semRead k d a i) k a i (fun s _ sem =>
    writeS d ((s.semCount sem).setWidth 64) (s.pois a) (s.setSem sem (s.semCount sem))) s

/-! ## Barriers -/

/-- The barrier that a handle names, as cluster x 16 + number; none for an invalid entry, or one that names a
barrier that the coach's slice does not own (R238, R368). -/
def State.barrier (s : State) (c : Coach) (h : Nat) : Option Nat :=
  let e := (SMap.get (fun _ => 0#8) c.barView h).toNat
  let b := quadCluster c.quad * 16 + e % 16
  let o := (SMap.get (fun _ => 0#8) s.barOwner b).toNat
  if e.testBit 7 ∧ o.testBit 7 ∧ o % 64 = c.slice then some b else none

def State.bar (s : State) (b : Nat) : Word := SMap.get zeroWord s.bars b
def State.setBar (s : State) (b : Nat) (w : Word) : State := { s with bars := SMap.put zeroWord s.bars b w }

/-- GEN, COUNT and the arrivals that complete a generation. -/
def barGen (w : Word) : Nat := bits w 63 48
def barCount (w : Word) : Nat := bits w 37 28
def barExpect (w : Word) : Nat := if bits w 27 18 = 0 then 1024 else bits w 27 18

/-- TIMEOUT in nanoseconds. -/
def barLimit (w : Word) : Nat := if bits w 15 0 = 0 then 10000000 else 1000 * bits w 15 0

/-- A thread waits at a barrier. -/
def State.waitsAt (s : State) (c : Coach) (b : Nat) (st : Strand) : Bool :=
  match st.run with
  | .parked (.barrier h) => s.barrier c h == some b
  | _ => false

/-- The advance of a generation releases every thread that waits at the barrier (R239). -/
def State.releaseBar (s : State) (b : Nat) : State :=
  let f := fun (c : Coach) => (List.range 11).foldl (fun c p =>
    if s.waitsAt c b (c.strand p) then c.updStrand p (fun st => { st with granted := true }) else c) c
  { s with coaches := updateWhere (fun c => quadCluster c.quad == b / 16) f s.coaches }

/-- An arrival: the strand's snapshot, and the count or, at the last arrival, the next generation (R239). -/
def State.arrive (s : State) (b h : Nat) : State :=
  let w := s.bar b
  let s := s.updMe (fun st => { st with
    snaps := SMap.put (fun _ => none) st.snaps h (some (BitVec.ofNat 16 (barGen w))) })
  if barCount w + 1 = barExpect w then
    (s.setBar b (setBits (setBits w 37 28 0) 63 48 (barGen w + 1))).releaseBar b
  else s.setBar b (setBits w 37 28 (barCount w + 1))

/-- UE_DETECTED in the state that a thread uses: the thread takes the fault, and its launch aborts (R248, R375). -/
def State.userUe (s : State) (th : ThreadId) : State :=
  (s.takeOpen th codeUe none none (((s.strand? th).map (fun t => t.pc)).getD 0#64)).abortOf th codeUe

/-- A CBAR word: SEM_RANGE with FPROG 1 for an invalid handle, UE_DETECTED for a barrier with a parity
error (R239, R248). -/
def barForm (i : Instr) (k : Tok) (h : BitVec 4) (body : State → Nat → Res) :
    State → Host.Outcome State Fault Refusal :=
  issue coachWord i k (fun s =>
    match s.myCoach?.bind (fun c => s.barrier c h.toNat) with
    | none => .fault s codeSemRange (h.setWidth 64) 1#64
    | some b => if SMap.get noFlag s.barError b then .gone (s.userUe s.cur) else body s b)

/-- The wait of a CBAR, an acquire at CLUSTER scope (R241, R320): it is over without a snapshot, once GEN has moved past it, or when the advance has
released the strand. -/
def barWait (s : State) (b : Nat) (h : BitVec 4) : Res :=
  let passed := s.updMe (fun st => { st with arrived := false, strict := true })
  match SMap.get (fun _ => none) s.me.snaps h.toNat with
  | some g => if s.me.granted ∨ barGen (s.bar b) ≠ g.toNat then .done passed else .wait s (.barrier h.toNat)
  | none => .done passed

/-- What an arrival releases has not performed: P-path stores of the strand, whatever their target, and those that happen before
them (R241, R316, R319). -/
def State.arrivalWaits (s : State) : Bool := !(s.released s.cur (fun p => p == 0 || p == 4)).isEmpty

/-- An arrival, once what it releases has been applied; an abandoned CBAR.AW has already been counted (R242). -/
def arriving (s : State) (b : Nat) (h : BitVec 4) (f : State → Res) : Res :=
  if s.me.arrived then f s
  else if s.arrivalWaits then .wait s .fence
  else f (s.arrive b h.toNat)

/-- CBAR.A: an arrival. -/
def execCbarA (k : Tok) (h : BitVec 4) (s : State) : Host.Outcome State Fault Refusal :=
  barForm (.cbarA k h) k h (fun s b => arriving s b h .done) s

/-- CBAR.W: the wait alone. -/
def execCbarW (k : Tok) (h : BitVec 4) (s : State) : Host.Outcome State Fault Refusal :=
  barForm (.cbarW k h) k h (fun s b => barWait s b h) s

/-- CBAR.AW: the arrival, counted once (R242), then the wait. -/
def execCbarAw (k : Tok) (h : BitVec 4) (s : State) : Host.Outcome State Fault Refusal :=
  barForm (.cbarAw k h) k h (fun s b =>
    arriving s b h (fun s => barWait (s.updMe (fun st => { st with arrived := true })) b h)) s

/-! ## Events and services -/

/-- WAITE: it completes when a latched event is in its mask or its timeout has passed, and clears those bits.
A timeout register other than s0 that holds 0 ends the wait at once (R124). -/
def execWaite (k : Tok) (a m : BitVec 4) (s : State) : Host.Outcome State Fault Refusal :=
  issue commonWord (.waite k a m) k (fun s =>
    if s.me.latch &&& m ≠ 0#4 ∨ s.me.granted ∨ (a ≠ 0#4 ∧ s.reg a = 0#64) then
      .done (s.updMe (fun st => { st with latch := st.latch &&& ~~~ m }))
    else .wait s (.event m (if a = 0#4 then none else some (s.clocks, s.reg a)))) s

/-- ECALL: the precise fault whose restart point is the next word (R125). -/
def execEcall (k : Tok) (c : BitVec 13) (s : State) : Host.Outcome State Fault Refusal :=
  issue commonWord (.ecall k c) k (fun s => .trap s codeEcall 0#64 (c.setWidth 64)) s

/-- EBREAK: EPC holds the EBREAK itself. -/
def execEbreak (k : Tok) (c : BitVec 13) (s : State) : Host.Outcome State Fault Refusal :=
  issue commonWord (.ebreak k c) k (fun s => .fault s codeBreak 0#64 (c.setWidth 64)) s

end Sys2Proof.Machine
end

