-- ==== Sys2Proof/Machine/Abandon.lean ====
section
/-! DEFINITION. Abandon: bringing a thread to an instruction boundary (R101). -/

namespace Sys2Proof.Machine

/-- An atomic of the thread has been sent and has not been answered, wherever it waits: its word finishes first (R101, R119). -/
def State.atomicOut (s : State) (th : ThreadId) : Bool :=
  s.unapplied.any (fun r => r.by_ == th && r.atom.isSome) ||
  s.remote.any (fun r => r.who == .thread th && r.fl.ty == 6#6) ||
  s.hostReqs.any (fun r => r.who == .thread th && r.op != 255) ||
  s.proxies.any (fun r => r.who == .thread th)

/-- A parked thread finishes its word before it is at a boundary: an atomic that has been sent, a store that has been
posted, an operation that it waits for in precise mode, a VATOM whose push is held, or a word of the system block. -/
def State.finishesFirst (s : State) (th : ThreadId) (st : Strand) (w : Wait) : Bool :=
  match w with
  | .preciseOp _ => true
  | .proxy _ => true
  | .frame _ => true
  | .fence => !st.reply.isEmpty
  | .divide => true
  | .owed _ => st.granted
  | _ => s.atomicOut th

/-- What a thread has asked for goes: its place in a waiting queue, its wait-record, its reads of other parts and of
the host. A semaphore that it has been granted goes back (R150). -/
def State.withdraw (s : State) (th : ThreadId) (st : Strand) (w : Wait) : State :=
  let s := s.unpark th 0
  let s := { s with
    remote := s.remote.filter (fun r => r.who != .thread th)
    hostReqs := s.hostReqs.filter (fun r => r.who != .thread th) }
  let s := match th with
    | .coach q p => s.updCoach q (fun c => { c with spm := c.spm.filter (fun e => e.1 != p) })
    | .dray _ _ => s
  match w with
  | .semaphore sem =>
    if st.granted then s.semV sem
    else s.updQuad (sem / 32) (fun x => { x with semWait := x.semWait.filter (fun e => e != (sem, th)) })
  | _ => s

/-- The tile register of the VATOM that an X stream is in the middle of. -/
def Coach.vatomTile (c : Coach) : Option Nat := (c.spm.find? (fun e => e.1 == 9)).map (fun e => e.2.2.lo / 4096)

/-- A VATOM ends short of its last lane (R178, R179): rows whose old values came poisoned are marked, and it leaves the
range checker. -/
def State.endLanes (s : State) (q : Nat) : State :=
  match s.coach? q with
  | none => s
  | some c =>
    match c.vatomTile with
    | none => s
    | some t =>
      let late := (c.strand 9).late
      let s := s.updQuad q (fun x => (List.range 32).foldl (fun x r =>
        if late.getLsbD r then x.setRowPois t r true else x) x)
      s.updCoach q (fun c => { c with spm := c.spm.filter (fun e => e.1 != 9), vatom := none }.updStrand 9 (fun st =>
        { st with late := 0#32 }))

/-- A VATOM that is stopped between lanes shows its resume lane in FPROG (R179). -/
def State.showLane (s : State) (th : ThreadId) : State :=
  match th with
  | .coach q 9 =>
    match s.coach? q with
    | some c =>
      if c.vatomTile.isSome then
        (s.endLanes q).updStrand th (fun st => { st with fprog := setBits st.fprog 9 0 c.resume.toNat })
      else s
    | none => s
  | _ => s

/-- A waiting word is abandoned (R101): its token goes back, what it asked for is withdrawn, and the thread is ready at
it. One that is ready again and has not been executed gives its token back too (R18). -/
def State.abandon (s : State) (th : ThreadId) : State :=
  match s.strand? th with
  | none => s
  | some st =>
    match st.run with
    | .parked w =>
      if s.finishesFirst th st w then s
      else
        (((s.giveBack th).showLane th).withdraw th st w).updStrand th (fun st => { st with
          run := .ready, popped := 0, granted := false, reply := [], replyPoison := false, begun := false })
    | .ready =>
      if st.answered then s else (s.giveBack th).updStrand th (fun st => { st with popped := 0, begun := false })
    | _ => s

/-- A thread is at an instruction boundary. One that waits in place for an operation in precise mode is at the boundary
after it (R101). -/
def State.atBoundary (s : State) (th : ThreadId) : Bool :=
  match s.strand? th with
  | none => true
  | some st =>
    match st.run with
    | .parked (.preciseOp _) => true
    | .parked _ => false
    | .ready => !st.answered && st.popped == 0
    | _ => true

end Sys2Proof.Machine
end

