-- ==== Sys2Proof/Machine/Keccak.lean ====
section
/-! DEFINITION. Keccak: the sponge SHAKE256 of FIPS 202, which CPYH and HFIN use (R223, R224) and the loader's digests rest
on. Byte k of the state is bits 8k+7:8k of `lanes`. -/

namespace Sys2Proof.Machine

/-- Round constants of the permutation. -/
def keccakRc : List Word :=
  [0x0000000000000001#64, 0x0000000000008082#64, 0x800000000000808A#64, 0x8000000080008000#64,
   0x000000000000808B#64, 0x0000000080000001#64, 0x8000000080008081#64, 0x8000000000008009#64,
   0x000000000000008A#64, 0x0000000000000088#64, 0x0000000080008009#64, 0x000000008000000A#64] ++
  [0x000000008000808B#64, 0x800000000000008B#64, 0x8000000000008089#64, 0x8000000000008003#64,
   0x8000000000008002#64, 0x8000000000000080#64, 0x000000000000800A#64, 0x800000008000000A#64,
   0x8000000080008081#64, 0x8000000000008080#64, 0x0000000080000001#64, 0x8000000080008008#64]

/-- Rotation of lane x + 5y. -/
def keccakRot : List Nat :=
  [0, 1, 62, 28, 27, 36, 44, 6, 55, 20, 3, 10, 43] ++ [25, 39, 41, 45, 15, 21, 8, 18, 2, 61, 56, 14]

def laneAt (a : List Word) (x y : Nat) : Word := a.getD (x % 5 + 5 * (y % 5)) 0#64

/-- One round. -/
def keccakRound (a : List Word) (rc : Word) : List Word :=
  let c := (List.range 5).map (fun x =>
    laneAt a x 0 ^^^ laneAt a x 1 ^^^ laneAt a x 2 ^^^ laneAt a x 3 ^^^ laneAt a x 4)
  let t := (List.range 25).map (fun i =>
    a.getD i 0#64 ^^^ c.getD ((i % 5 + 4) % 5) 0#64 ^^^ (c.getD ((i % 5 + 1) % 5) 0#64).rotateLeft 1)
  -- rho and pi: lane (x, y) of the result comes from lane ((x + 3y) mod 5, x)
  let b := (List.range 25).map (fun i =>
    let j := (i % 5 + 3 * (i / 5)) % 5 + 5 * (i % 5)
    (t.getD j 0#64).rotateLeft (keccakRot.getD j 0))
  (List.range 25).map (fun i =>
    let v := b.getD i 0#64 ^^^ (~~~ (laneAt b (i % 5 + 1) (i / 5)) &&& laneAt b (i % 5 + 2) (i / 5))
    if i = 0 then v ^^^ rc else v)

/-- The lanes of a state. -/
def lanesOfBits (v : BitVec 1600) : List Word := (List.range 25).map (fun i => v.extractLsb' (64 * i) 64)

/-- The state of a list of lanes. -/
def bitsOfLanes (a : List Word) : BitVec 1600 :=
  a.foldr (fun w (v : BitVec 1600) => (v <<< 64) ||| w.setWidth 1600) 0#1600

/-- The permutation. -/
def keccakF (v : BitVec 1600) : BitVec 1600 := bitsOfLanes (keccakRc.foldl keccakRound (lanesOfBits v))

/-- Bytes of a block. -/
def shakeRate : Nat := 136

/-- One byte is absorbed. -/
def HashState.absorbByte (h : HashState) (b : Byte) : HashState :=
  let v := h.lanes ^^^ (b.setWidth 1600 <<< (8 * h.pos))
  if h.pos + 1 = shakeRate then { h with lanes := keccakF v, pos := 0 } else { h with lanes := v, pos := h.pos + 1 }

/-- Bytes are absorbed in order. -/
def HashState.absorb (h : HashState) (bs : List Byte) : HashState := bs.foldl HashState.absorbByte h

/-- The state after the message's padding. -/
def HashState.padded (h : HashState) : BitVec 1600 :=
  keccakF (h.lanes ^^^ (0x1F#1600 <<< (8 * h.pos)) ^^^ (0x80#1600 <<< (8 * (shakeRate - 1))))

/-- Blocks of output. -/
def squeezeBlocks (n : Nat) (v : BitVec 1600) : List Byte :=
  match n with
  | 0 => []
  | n + 1 => (List.range shakeRate).map (fun i => v.extractLsb' (8 * i) 8) ++ squeezeBlocks n (keccakF v)

/-- The first n bytes of output. -/
def HashState.squeeze (h : HashState) (n : Nat) : List Byte :=
  (squeezeBlocks ((n + shakeRate - 1) / shakeRate) h.padded).take n

/-- SHAKE256 of a message. -/
def shake256 (bs : List Byte) (n : Nat) : List Byte := (HashState.empty.absorb bs).squeeze n

end Sys2Proof.Machine
end

