-- ==== Sys2Proof/Machine/Flags.lean ====
section
/-! DEFINITION. Flags: the sticky flags of a stream and TFENCE (R87-R90). -/

namespace Sys2Proof.Machine

/-- Sticky: flags are ORed into the FLAGS of a thread's stream (R87, R89). -/
def State.sticky (s : State) (th : ThreadId) (fl : BitVec 9) : State :=
  s.updStream th (fun t => { t with flags := t.flags ||| fl })

/-- Flags of an engine operation reach the stream that issued it: 0 K, 1 L, 2 X, 3 S. -/
def Coach.stickyOf (c : Coach) (i : Nat) (fl : BitVec 9) : Coach :=
  match i with
  | 1 => { c with sl := { c.sl with flags := c.sl.flags ||| fl } }
  | 2 => { c with sx := { c.sx with flags := c.sx.flags ||| fl } }
  | 3 => { c with ss := { c.ss with flags := c.ss.flags ||| fl } }
  | _ => { c with sk := { c.sk with flags := c.sk.flags ||| fl } }

/-- The stream that issued a matrix operation: a follow-on word belongs to the stream of its CPYC (R89). -/
def MatOp.stream (o : MatOp) : Nat :=
  match o.source with
  | 0 => 2
  | 1 => 1
  | _ => 3

/-- The part, as a thread of its coach, that issued an engine operation of a stream. -/
def streamPart (i : Nat) : Nat := partOfStream i

/-- An engine operation that a stream issued is outstanding (R90). -/
def Coach.outstanding (c : Coach) (i : Nat) : Bool :=
  (i == 2 && (!c.unit.isEmpty || !c.defer.isEmpty)) || c.matq.any (fun o => o.stream == i) ||
    c.copyq.any (fun o => o.stream == i)

/-- Engine operations of a thread's stream are outstanding; a Dray strand has none. -/
def State.enginesBusy (s : State) (th : ThreadId) : Bool :=
  match th with
  | .coach q p => ((s.coach? q).map (fun c => c.outstanding (streamOfPart p).index)).getD false
  | .dray _ _ => false

/-- The fault code that a bit of TRAPEN enables (R88): bits 0 to 3 and, past the bit 4 that traps nothing, bits 5 to 7 in the order of
the codes. -/
def trapCode (b : Nat) : Nat := if b = 8 then codeScopeMismatch else if b < 4 then codeFpInvalid + b else codeFpInvalid + (b - 1)

/-- TFENCE (R90). -/
def execTfence (k : Tok) (s : State) : Host.Outcome State Fault Refusal :=
  issue commonWord (.tfence k) k (fun s =>
    if s.enginesBusy s.cur then .wait s .tfence
    else
      let hit := s.myStream.flags &&& s.myStream.trapen
      match leastBelow 9 (fun b => hit.getLsbD b) with
      | some b => .fault s (trapCode b) 0#64 (hit.setWidth 64)
      | none => .done s) s

end Sys2Proof.Machine
end

