-- ==== Sys2Proof/Machine/Registers.lean ====
section
/-! DEFINITION. Registers: the words that read and write state registers, time, identity, features and
descriptors (R126-R130). -/

namespace Sys2Proof.Machine

/-- CSRW, CSRS and CSRC: d receives the old value; a poisoned value is consumed (R95, R126). -/
def csrForm (i : Instr) (k : Tok) (d a : BitVec 4) (n : BitVec 9) (op : CsrOp) :
    State → Host.Outcome State Fault Refusal :=
  issue commonWord i k (fun s =>
    let old := s.csr s.cur n.toNat
    consume (s.pois a) s
      (writeS d old false (s.csrWrite s.cur n.toNat (op.new old (s.reg a)))))

/-- CSRR. -/
def execCsrr (k : Tok) (d : BitVec 4) (n : BitVec 9) (s : State) : Host.Outcome State Fault Refusal :=
  readForm commonWord (.csrr k d n) k d (fun s => s.csr s.cur n.toNat) s

/-- CSRW. -/
def execCsrw (k : Tok) (d a : BitVec 4) (n : BitVec 9) (s : State) : Host.Outcome State Fault Refusal :=
  csrForm (.csrw k d a n) k d a n .write s

/-- CSRS. -/
def execCsrs (k : Tok) (d a : BitVec 4) (n : BitVec 9) (s : State) : Host.Outcome State Fault Refusal :=
  csrForm (.csrs k d a n) k d a n .set s

/-- CSRC. -/
def execCsrc (k : Tok) (d a : BitVec 4) (n : BitVec 9) (s : State) : Host.Outcome State Fault Refusal :=
  csrForm (.csrc k d a n) k d a n .clear s

/-- QFEAT: the leaf number is the register plus the unsigned field. -/
def execQfeat (k : Tok) (d a : BitVec 4) (i : BitVec 13) (s : State) : Host.Outcome State Fault Refusal :=
  issue commonWord (.qfeat k d a i) k (fun s =>
    writeS d (s.leaf s.cur (s.reg a + i.setWidth 64)) (s.pois a) s) s

/-- TIME ns: the strand remembers what it read (R351). -/
def execTimeNs (k : Tok) (d : BitVec 4) (s : State) : Host.Outcome State Fault Refusal :=
  issue commonWord (.timeNs k d) k (fun s =>
    let v := s.timeNs s.cur s.me.lastTime
    writeS d v false (s.updMe (fun st => { st with lastTime := v }))) s

/-- TIME clocks. -/
def execTimeClocks (k : Tok) (d : BitVec 4) (s : State) : Host.Outcome State Fault Refusal :=
  readForm commonWord (.timeClocks k d) k d (fun s => s.timeClocks s.cur) s

/-- TIME energy. -/
def execTimeEnergy (k : Tok) (d : BitVec 4) (s : State) : Host.Outcome State Fault Refusal :=
  readForm commonWord (.timeEnergy k d) k d (fun s => s.energyOf s.cur) s

/-- ID with a code; the word stands in for the instruction in records (R43). -/
def idForm (k : Tok) (d : BitVec 4) (code : BitVec 13) : State → Host.Outcome State Fault Refusal :=
  issueWord commonWord (wordOf k 0x2F#7 (d ++ 0#4 ++ code)) k (fun s =>
    writeS d (s.identifier s.cur code.toNat) false s)

/-- ID coach. -/
def execIdCoach (k : Tok) (d : BitVec 4) (s : State) : Host.Outcome State Fault Refusal := idForm k d 0#13 s

/-- ID core. -/
def execIdCore (k : Tok) (d : BitVec 4) (s : State) : Host.Outcome State Fault Refusal := idForm k d 1#13 s

/-- ID cluster. -/
def execIdCluster (k : Tok) (d : BitVec 4) (s : State) : Host.Outcome State Fault Refusal := idForm k d 2#13 s

/-- ID die. -/
def execIdDie (k : Tok) (d : BitVec 4) (s : State) : Host.Outcome State Fault Refusal := idForm k d 3#13 s

/-- ID slice. -/
def execIdSlice (k : Tok) (d : BitVec 4) (s : State) : Host.Outcome State Fault Refusal := idForm k d 4#13 s

/-- ID shape. -/
def execIdShape (k : Tok) (d : BitVec 4) (s : State) : Host.Outcome State Fault Refusal := idForm k d 5#13 s

/-! ## Descriptors (R130, R139) -/

def Coach.desc (c : Coach) (e : Nat) : Desc := SMap.get (fun _ => Desc.zero) c.descs e
def Coach.setDesc (c : Coach) (e : Nat) (v : Desc) : Coach :=
  { c with descs := SMap.put (fun _ => Desc.zero) c.descs e v }

/-- The running coach's descriptor. -/
def State.desc (s : State) (e : Nat) : Desc := (s.myCoach?.map (fun c => c.desc e)).getD Desc.zero

/-- Writing a descriptor of the running coach. -/
def State.setDesc (s : State) (e : Nat) (v : Desc) : State := s.updCoach (threadQuad s.cur) (fun c => c.setDesc e v)

/-- DSET: four registers; a poisoned one is consumed. -/
def execDset (k : Tok) (e : BitVec 6) (sr : BitVec 4) (s : State) : Host.Outcome State Fault Refusal :=
  issue coachWord (.dset k e sr) k (fun s =>
    let v : Desc := { w0 := s.reg sr, w1 := s.reg (sr + 1#4), w2 := s.reg (sr + 2#4), w3 := s.reg (sr + 3#4) }
    consume (s.pois sr || s.pois (sr + 1#4) || s.pois (sr + 2#4) || s.pois (sr + 3#4)) s
      (.done (s.setDesc e.toNat v))) s

/-- DGET: the four words into four registers. -/
def execDget (k : Tok) (e : BitVec 6) (sr : BitVec 4) (s : State) : Host.Outcome State Fault Refusal :=
  issue coachWord (.dget k e sr) k (fun s =>
    let v := s.desc e.toNat
    .done ((((s.setReg sr v.w0 false).setReg (sr + 1#4) v.w1 false).setReg (sr + 2#4) v.w2 false).setReg
      (sr + 3#4) v.w3 false)) s

/-- DADD: BASE rises mod 2^56; all other bits stay. -/
def execDadd (k : Tok) (e : BitVec 6) (sr : BitVec 4) (s : State) : Host.Outcome State Fault Refusal :=
  issue coachWord (.dadd k e sr) k (fun s =>
    let v := s.desc e.toNat
    .done (s.setDesc e.toNat { v with w0 := setBits v.w0 55 0 ((v.w0 + s.reg sr).toNat % 2 ^ 56) })) s

end Sys2Proof.Machine
end

