-- ==== Sys2Proof/Machine/Descr.lean ====
section
/-! DEFINITION. Descr: the fields of a descriptor, its elements and extent (R139-R142), the checks of R42, and the
acceptance of an engine operation (R147, R384). -/

namespace Sys2Proof.Machine

/-! ## Fields (R139, R141) -/

def Desc.ty (d : Desc) : Nat := bits d.w0 63 60
def Desc.space (d : Desc) : Nat := bits d.w0 59 56
def Desc.base (d : Desc) : Nat := bits d.w0 55 0
def Desc.scope (d : Desc) : Nat := bits d.w1 58 56
def Desc.cls (d : Desc) : Nat := bits d.w1 55 52
def Desc.esc (d : Desc) : Bool := bit d.w1 51
def Desc.scaled (d : Desc) : Bool := bit d.w1 50
def Desc.accum (d : Desc) : Bool := bit d.w1 49
def Desc.edge (d : Desc) : Bool := bit d.w1 48
def Desc.planes (d : Desc) : Nat := Nat.max 1 (bits d.w1 47 32)
def Desc.rows (d : Desc) : Nat := Nat.max 1 (bits d.w1 31 16)
def Desc.dim0 (d : Desc) : Nat := bits d.w1 15 0
def Desc.pstride (d : Desc) : Nat := bits d.w2 63 32
def Desc.rstride (d : Desc) : Nat := bits d.w2 31 0
def Desc.scaleNo (d : Desc) : Nat := bits d.w3 5 0
def Desc.listNo (d : Desc) : Nat := bits d.w3 13 8
def Desc.tileNo (d : Desc) : Nat := bits d.w3 3 0
def Desc.endpNo (d : Desc) : Nat := bits d.w3 2 0
def Desc.peer (d : Desc) : Nat := bits d.w3 15 0

/-- Space codes. -/
def spGlobal : Nat := 0
def spAbuf : Nat := 1
def spWbuf : Nat := 2
def spAcc : Nat := 3
def spTile : Nat := 4
def spL2s : Nat := 5
def spCq : Nat := 6
def spGlatch : Nat := 7
def spFabric : Nat := 8
def spNabuf : Nat := 9

/-- Element types (R140). -/
def tyF32 : Nat := 0
def tyBF16 : Nat := 1
def tyF16 : Nat := 2
def tyE4M3 : Nat := 3
def tyE5M2 : Nat := 4
def tyE2M1 : Nat := 5
def tyE3M2 : Nat := 6
def tyE2M3 : Nat := 7
def tyINT8 : Nat := 8
def tyUINT8 : Nat := 9
def tyINT4 : Nat := 10
def tyINT32 : Nat := 11
def tyE8M0 : Nat := 12
def tyINT16 : Nat := 13

/-- Element widths in bits (R140). -/
def typeWidth (t : Nat) : Nat :=
  match t with
  | 0 => 32
  | 1 => 16
  | 2 => 16
  | 3 => 8
  | 4 => 8
  | 5 => 4
  | 6 => 6
  | 7 => 6
  | 8 => 8
  | 9 => 8
  | 10 => 4
  | 11 => 32
  | 12 => 8
  | _ => 16

def Desc.width (d : Desc) : Nat := typeWidth d.ty

/-! ## Elements and extents (R142) -/

/-- Bytes of one row. -/
def Desc.rowBytes (d : Desc) : Nat := (d.dim0 * d.width + 7) / 8

/-- Bytes from BASE to the end of the extent. -/
def Desc.extentLen (d : Desc) : Nat := (d.planes - 1) * d.pstride + (d.rows - 1) * d.rstride + d.rowBytes

/-- Elements of the descriptor. -/
def Desc.count (d : Desc) : Nat := d.dim0 * d.rows * d.planes

/-- Byte offset from BASE of row j of plane p. -/
def Desc.rowOff (d : Desc) (j p : Nat) : Nat := p * d.pstride + j * d.rstride

/-- The buffer that a space names. -/
def bufOf (space : Nat) : Option Buf :=
  match space with
  | 1 => some .abuf
  | 2 => some .wbuf
  | 3 => some .acc
  | 4 => some .tile
  | 7 => some .glatch
  | _ => none

/-- Byte offset of BASE in its buffer: a TILE descriptor's lies in its register. -/
def Desc.bufBase (d : Desc) : Nat := if d.space = spTile then d.tileNo * 4096 + d.base else d.base

/-- An element of `width` bits that begins `bitOff` bits into bytes. -/
def elementOf (bs : List Byte) (bitOff width : Nat) : Nat := natOfBytes bs / 2 ^ bitOff % 2 ^ width

/-- Element i of row j of plane p in a coach's buffer, with its poison. -/
def State.bufElem (s : State) (c : Coach) (d : Desc) (b : Buf) (i j p : Nat) : Nat × Bool :=
  let lo := d.bufBase + d.rowOff j p + i * d.width / 8
  let n := (i * d.width % 8 + d.width + 7) / 8
  (elementOf (s.bufBytes c b lo n) (i * d.width % 8) d.width, s.bufPois c b lo n)

/-! ## The checks of R42 -/

/-- Check 1. -/
def Desc.check1 (d : Desc) : Bool :=
  bits d.w1 63 59 == 0 && decide (d.space < 10) && decide (d.ty < 14)

/-- A GLOBAL or FABRIC descriptor's SCOPE field holds code 7 (R24, R139). DEDUCED: it raises UNDEF at use, as a word that
does not decode would (R44), ahead of the checks of R42 (log entry 46). -/
def Desc.scopeBad (d : Desc) : Bool := (d.space == spGlobal || d.space == spFabric) && d.scope == 7

/-- UNDEF of a word whose operands make it meaningless: its address and the word (R43). -/
def undefUse (s : State) (i : Instr) : Res := .fault s codeUndef (some s.me.pc) (some ((instrWord i).setWidth 64))

/-- The extent lies in the buffer, with BASE moved by a register value (R42, R177). -/
def Coach.fits (c : Coach) (d : Desc) (shift : Word) : Bool :=
  let lo := (word d.base + shift).toNat
  d.dim0 != 0 &&
  match bufOf d.space with
  | some .tile => decide (lo + d.extentLen ≤ 4096)
  | some b => decide (lo + d.extentLen ≤ c.usedSize b)
  | none => decide (lo + d.extentLen ≤ 2 ^ 56)

/-- The first code of a list of checks that failed. -/
def firstFail (l : List (Bool × Nat)) : Option Nat := (l.find? (fun e => !e.1)).map (fun e => e.2)

/-- A tile register is declared by the coach's launch (R145). -/
def State.declared (s : State) (c : Coach) (t : Nat) : Bool :=
  match s.launch? c.tag with
  | some l => l.tilesDecl.testBit t
  | none => false

/-- A descriptor check that failed is raised precisely; the manual gives it no FADDR and no FPROG. -/
def descFault (s : State) (code : Nat) : Res := .fault s code none none

/-- The extent that a descriptor based at `lo` gives the range checker; spaces outside the buffers give none
(R147). -/
def Desc.extentAt (d : Desc) (lo : Nat) (rd wr : Bool) : List Extent :=
  match bufOf d.space with
  | some b => [{ buf := b, lo := lo, len := d.extentLen, rd := rd, wr := wr }]
  | none => []

/-- The extent of a descriptor as it stands. -/
def Desc.extent (d : Desc) (rd wr : Bool) : List Extent := d.extentAt d.bufBase rd wr

/-- The whole of a tile register as an extent (R162). -/
def tileExtent (o : BitVec 6) (rd wr : Bool) : Extent :=
  { buf := .tile, lo := o.toNat / 4 * 4096, len := 4096, rd := rd, wr := wr }

/-! ## Acceptance -/

/-- Precise mode of the running stream (R98). -/
def State.preciseMode (s : State) : Bool := s.myStream.lnr || s.myStream.en

/-- The running coach's word is accepted as operation number `seq`: the queue takes it, its push is owed (R17),
and, where precise mode applies to it, the stream waits in place for it (R384). -/
def accept (s : State) (c : Coach) (k : Tok) (precise : Bool) (enter : Coach → Nat → Coach) : Res :=
  let seq := c.nextSeq
  let s := s.updCoach c.quad (fun c =>
    (enter { c with nextSeq := seq + 1 } seq).owe (threadStream s.cur) k.push.toNat)
  .queued s (if precise && s.preciseMode then some seq else none)

/-- The running coach, for words that only coaches have. -/
def withCoach (s : State) (f : Coach → Res) : Res :=
  match s.myCoach? with
  | some c => f c
  | none => .gone s

/-- A scalar access takes its place in the range checker (R114, R148): its thread part and extents. It may go once
nothing accepted before it clashes. -/
def Coach.spmSeq (c : Coach) (part : Nat) : Option Nat :=
  (c.spm.find? (fun e => e.1 == part)).map (fun e => e.2.1)

/-- The access leaves the checker. -/
def Coach.spmDone (c : Coach) (part : Nat) : Coach := { c with spm := c.spm.filter (fun e => e.1 != part) }

/-- The thread's accesses enter the checker under one acceptance number. -/
def Coach.spmEnter (c : Coach) (part : Nat) (es : List Extent) : Coach :=
  { c with nextSeq := c.nextSeq + 1, spm := c.spm ++ es.map (fun e => (part, c.nextSeq, e)) }

/-- Running `f` once the checker admits the extents of the running thread's access; until then it waits. -/
def admitted (s : State) (c : Coach) (es : List Extent) (f : State → Res) : Res :=
  let part := threadPart s.cur
  match c.spmSeq part with
  | none =>
    if c.checkerFull then .wait s .checker
    else
      let c' := c.spmEnter part es
      let s := s.updCoach c.quad (fun _ => c')
      if c'.blocked c.nextSeq es then .wait s .checker else f s
  | some seq => if c.blocked seq es then .wait s .checker else f s

/-- The thread's accesses have left the checker. -/
def State.leaveChecker (s : State) : State :=
  s.updCoach (threadQuad s.cur) (fun c => c.spmDone (threadPart s.cur))

end Sys2Proof.Machine
end

