-- ==== Sys2Proof/Machine/CopyGeom.lean ====
section
/-! DEFINITION. CopyGeom: what a copy command moves: its kind, its rows and bytes, and the beats they fall into
(R211, R213, R221, R225, R422). -/

namespace Sys2Proof.Machine

/-- What a command of the copy queue does. -/
inductive CopyKind where
  | data | fill | lines | fin | send | recv | bind | unbind
deriving DecidableEq, Repr

/-- The command writes back or prefetches lines. -/
def CopyCmd.isWb (o : CopyCmd) : Bool := o.op == 0x48
def CopyCmd.isHash (o : CopyCmd) : Bool := o.op == 0x45
def CopyCmd.isGather (o : CopyCmd) : Bool := o.op == 0x42
def CopyCmd.isScatter (o : CopyCmd) : Bool := o.op == 0x43

/-- The command moves rows under an index list. -/
def CopyCmd.indexed (o : CopyCmd) : Bool := o.isGather || o.isScatter

/-- The kind, from the opcode (R218, R419) and the spaces (R212). -/
def CopyCmd.kind (o : CopyCmd) : CopyKind :=
  match o.op with
  | 0x46 => .fill
  | 0x47 => .lines
  | 0x48 => .lines
  | 0x4A => .fin
  | 0x4B => .bind
  | 0x4C => .unbind
  | 0x4D => .send
  | 0x4E => .recv
  | _ => if o.endp < 8 then (if o.dst.space = spCq then .send else .recv) else .data

/-- The endpoint of a command, if any. -/
def CopyCmd.endp? (o : CopyCmd) : Option Nat := if o.endp < 8 then some o.endp else none

/-- The descriptor whose rows a carriage command moves. -/
def CopyCmd.rowDesc (o : CopyCmd) : Desc :=
  match o.kind with
  | .send => o.src
  | .lines => o.src
  | _ => o.dst

/-- Queue rows of a flat row (R187). -/
def Desc.perRow (d : Desc) : Nat := (d.rowBytes + 255) / 256

/-- Byte offset from BASE of a flat row (R221). -/
def Desc.flatOff (d : Desc) (x : Nat) : Nat := d.rowOff (x % d.rows) (x / d.rows)

/-- Flat rows. -/
def Desc.flatRows (d : Desc) : Nat := d.rows * d.planes

/-- Elements of flat row R that the command moves. -/
def CopyCmd.elemsIn (o : CopyCmd) (r : Nat) : Nat :=
  if o.indexed then (if r < o.count then o.rowDesc.dim0 else 0)
  else Nat.min o.rowDesc.dim0 (o.count - r * o.rowDesc.dim0)

/-- Bits of flat row R that the command moves, and the bytes that hold them. -/
def CopyCmd.bitsIn (o : CopyCmd) (r : Nat) : Nat := o.elemsIn r * o.rowDesc.width
def CopyCmd.bytesIn (o : CopyCmd) (r : Nat) : Nat := (o.bitsIn r + 7) / 8

/-- The end of the command's positions. A position is row x row bytes + byte for data, queue rows for carriage, and 0
or 1 for a bind or unbind. -/
def CopyCmd.total (o : CopyCmd) : Nat :=
  match o.kind with
  | .send => o.count * o.rowDesc.perRow
  | .recv => o.count * o.rowDesc.perRow
  | .bind => 1
  | .unbind => 1
  | _ =>
    if o.indexed then o.count * o.rowDesc.rowBytes
    else o.count / o.rowDesc.dim0 * o.rowDesc.rowBytes + (o.count % o.rowDesc.dim0 * o.rowDesc.width + 7) / 8

/-- Row and byte of a position. -/
def CopyCmd.rowAt (o : CopyCmd) (pos : Nat) : Nat := pos / o.rowDesc.rowBytes
def CopyCmd.byteAt (o : CopyCmd) (pos : Nat) : Nat := pos % o.rowDesc.rowBytes

/-- Rows of an endpoint that the command has still to send or take (R424). -/
def CopyCmd.rowsLeft (o : CopyCmd) : Bool :=
  decide (o.pos < o.total) || o.beats.any (fun b => !b.wrote || o.kind == .recv)

/-- Byte address, from 0 in its space, of byte k of destination row R, which index x selects under CPYS. -/
def CopyCmd.dstByte (o : CopyCmd) (r x k : Nat) : Nat :=
  o.rowDesc.base + o.rowDesc.flatOff (if o.isScatter then x else r) + k

/-- The source bit that bit t of destination row R takes. -/
def CopyCmd.srcBit (o : CopyCmd) (r x t : Nat) : Nat :=
  let w := o.src.width
  let i := t / w
  if o.indexed then (o.src.base + o.src.flatOff (if o.isGather then x else r)) * 8 + t
  else
    let e := r * o.dst.dim0 + i
    (o.src.base + o.src.flatOff (e / o.src.dim0)) * 8 + e % o.src.dim0 * w + t % w

/-- Source bytes of n destination bytes from byte k of row R on. -/
def CopyCmd.srcBytes (o : CopyCmd) (r x k n : Nat) : List Nat :=
  let lim := Nat.min (8 * (k + n)) (o.bitsIn r)
  (((List.range (lim - 8 * k)).map (fun u => o.srcBit r x (8 * k + u) / 8))).eraseDups

/-- Consecutive addresses as intervals. -/
def runsOf (l : List Nat) : List (Nat × Nat) :=
  l.foldl (fun rs a =>
    match rs.getLast? with
    | some e => if e.1 + e.2 = a ∧ a % 64 ≠ 0 then rs.dropLast ++ [(e.1, e.2 + 1)] else rs ++ [(a, 1)]
    | none => [(a, 1)]) []

/-- Spaces whose 64-byte lines no beat crosses (R211). -/
def lineSpace (sp : Nat) : Bool := sp == spGlobal || sp == spL2s || sp == spFabric

/-- All addresses lie in one 64-byte line. -/
def oneLine (l : List Nat) : Bool :=
  match l with
  | [] => true
  | a :: l => l.all (fun b => b / 64 == a / 64)

/-- The command reads element data from its source. -/
def CopyCmd.reads (o : CopyCmd) : Bool := o.kind == .data

/-- Bytes of the beat that begins at a position: as many as rows, lines and 64 bytes allow, and at least one. -/
def CopyCmd.beatLen (o : CopyCmd) (x pos : Nat) : Nat :=
  let r := o.rowAt pos
  let k := o.byteAt pos
  let most := Nat.min 64 (o.bytesIn r - k)
  let ok := fun n =>
    (!lineSpace o.rowDesc.space || decide (o.dstByte r x k / 64 = (o.dstByte r x k + n - 1) / 64)) &&
    (!o.reads || !lineSpace o.src.space || oneLine (o.srcBytes r x k n))
  ((List.range most).reverse.find? (fun n => ok (n + 1))).getD 0 + 1

/-- Units not behind the command (R211, R221, R422): the number of its lowest beat that is not done with, the lowest row
for an indexed command, the queue rows sent or taken. -/
def CopyCmd.prog (o : CopyCmd) : Nat :=
  match o.kind with
  | .send => ((o.beats.find? (fun b => !b.wrote && decide (b.num < 2 ^ 32))).map (fun b => b.num)).getD o.nextBeat
  | .recv => ((o.beats.find? (fun b => decide (b.num < 2 ^ 32))).map (fun b => b.num)).getD o.nextBeat
  | _ =>
    if o.indexed then o.rowAt ((o.beats.head?.map (fun b => b.pos)).getD o.pos)
    else (o.beats.head?.map (fun b => b.num)).getD o.nextBeat

/-- The position of a progress, for a command that is restored: beats are counted from the first. -/
def CopyCmd.seek (o : CopyCmd) (fuel pos : Nat) : Nat :=
  match fuel with
  | 0 => pos
  | fuel + 1 => if o.total ≤ pos then pos else o.seek fuel (pos + o.beatLen 0 pos)

def CopyCmd.posOf (o : CopyCmd) (prog : Nat) : Nat :=
  match o.kind with
  | .send => prog
  | .recv => prog
  | .bind => prog
  | .unbind => prog
  | _ => if o.indexed then prog * o.rowDesc.rowBytes else o.seek prog 0

end Sys2Proof.Machine
end

