-- ==== Sys2Proof/Machine/Endpoint.lean ====
section
/-! DEFINITION. Endpoint: circuits, rows and reports of carriage endpoints (R187, R414, R415, R418, R421, R424, R425). -/

namespace Sys2Proof.Machine

/-! ## Circuits (R414, R415) -/

/-- Slot-table entry: table x 256 + slot. -/
def State.slotEntry (s : State) (die table slot : Nat) : Nat :=
  (SMap.get (fun _ => 0#32) (s.die die).slotTab (table * 256 + slot)).toNat

def slotV (e : Nat) : Bool := e.testBit 31
def slotSlice (e : Nat) : Nat := e / 2 ^ 25 % 64
def slotIn (e : Nat) : Nat := e / 2 ^ 21 % 16
def slotCirc (e : Nat) : Nat := e % 2 ^ 16

/-- The outputs of a die; table 7 does not exist. -/
def slotTables : List Nat := [0, 1, 2, 3, 4, 5, 6, 8, 9, 10, 11, 12, 13, 14, 15]

/-- An output has a slot for a circuit and input. -/
def State.tableServes (s : State) (die table inp circ : Nat) : Bool :=
  (List.range 256).any (fun i =>
    let e := s.slotEntry die table i
    slotV e && slotIn e == inp && slotCirc e == circ)

/-- A slice owns a slot of a table for a circuit and input (R420). -/
def State.ownsSlot (s : State) (die slice inp circ : Nat) (tables : List Nat) : Bool :=
  tables.any (fun t => (List.range 256).any (fun i =>
    let e := s.slotEntry die t i
    slotV e && slotSlice e == slice && slotCirc e == circ && slotIn e == inp))

/-- A circuit has an owned entry in one table whatever its input. -/
def State.ownsEject (s : State) (die slice table circ : Nat) : Bool :=
  (List.range 256).any (fun i =>
    let e := s.slotEntry die table i
    slotV e && slotSlice e == slice && slotCirc e == circ)

/-- The cluster of a quadrant within its die. -/
def dieCluster (q : Nat) : Nat := quadCluster q % 8

/-! ## Endpoints named by operations -/

/-- The endpoints of a matrix operation. -/
def MatOp.endps (o : MatOp) : List Nat :=
  (([o.a] ++ (if o.hasB then [o.b] else []) ++ [o.c]).filter (fun d => d.space == spCq)).map (fun d => d.endpNo)

/-- An operation accepted before `seq` that still has rows of an endpoint to send or take (R424). -/
def Coach.rowsAhead (c : Coach) (q seq : Nat) : Bool :=
  c.copyq.any (fun o => o.endp? == some q && decide (o.seq < seq) && o.rowsLeft) ||
  c.matq.any (fun o => o.endps.contains q && decide (o.seq < seq) && !o.done)

/-- The oldest started operation that names an endpoint. -/
def Coach.waiterOn (c : Coach) (q : Nat) : Option Nat :=
  ((c.copyq.filter (fun o => o.endp? == some q && o.started)).map (fun o => o.seq) ++
    (c.matq.filter (fun o => o.endps.contains q && o.started && !o.done)).map (fun o => o.seq)).min?

/-- Changing an endpoint. -/
def State.updEndp (s : State) (quad q : Nat) (f : Endpoint → Endpoint) : State :=
  s.updCoach quad (fun c => c.setEndp q (f (c.endp q)))

/-- The domain that a coach's flits carry. -/
def State.coachDomain (s : State) (c : Coach) : Nat := s.sliceDomain (quadDie c.quad) c.slice

/-! ## Waiting and breaking (R425) -/

/-- An operation begins to wait on an endpoint. -/
def Endpoint.startWait (e : Endpoint) (now : Word) : Endpoint :=
  if e.waitFrom.isSome then e else { e with waitFrom := some now }

/-- The wait is over. -/
def Endpoint.endWait (e : Endpoint) : Endpoint := { e with waitFrom := none, waited := 0#64 }

/-- A breaking endpoint reports it to its partner. -/
def State.breakEndp (s : State) (quad q : Nat) (linkLost : Bool) : State :=
  match s.coach? quad with
  | none => s
  | some c =>
    let e := c.endp q
    if e.bound = false ∨ e.broken then s
    else
      let s := s.sendClose c e true
      s.updEndp quad q (fun e =>
        { e.endWait with broken := true, downOp := if linkLost then c.waiterOn q else none })

/-- The fault that an operation meets at a broken endpoint. -/
def Endpoint.faultFor (e : Endpoint) (seq : Nat) : Nat :=
  if e.downOp = some seq then codeLinkDown else codeCqBroken

/-! ## Rows -/

/-- The circuit for a row: of two live circuits, the first takes the even rows. -/
def Endpoint.circuitFor (e : Endpoint) (seq : BitVec 32) : BitVec 16 :=
  if e.liveA && e.liveB then (if seq.getLsbD 0 then e.circB else e.circA) else e.circuit

/-- A ROW flit (R408). -/
def rowFlit (s : State) (die domain : Nat) (e : Endpoint) (seq : BitVec 32) (row : BitVec 2048) : Flit :=
  { mkFlit 2 2 domain (s.node die) e.peer
      (word ((e.circuitFor seq).toNat * 2 ^ 48 + seq.toNat * 2 ^ 16)) [] with payload := row }

/-- A circuit row comes to a die by an input: it waits at the output that serves its circuit, or is discarded
(R415). The flag tells of a discard. -/
def State.arriveRow (s : State) (die inp : Nat) (fl : Flit) : State × Bool :=
  let circ := bits fl.h1 63 48
  match slotTables.find? (fun t => s.tableServes die t inp circ) with
  | some t => (s.updDie die (fun d => { d with rows := d.rows ++ [(t, inp, s.tsc, fl)] }), false)
  | none => (s, true)

/-- A circuit of an endpoint is lost. With a survivor the rows not reported landed go out again on it; the loss of the
last breaks the endpoint. -/
def State.loseAt (s : State) (quad q : Nat) (circ : BitVec 16) : State :=
  match s.coach? quad with
  | none => s
  | some c =>
    let e := c.endp q
    if e.bound = false ∨ e.broken ∨ ¬((e.liveA ∧ e.circA = circ) ∨ (e.liveB ∧ e.circB = circ)) then s
    else
      let e' := { e with liveA := e.liveA && e.circA != circ, liveB := e.liveB && e.circB != circ }
      let s := s.updEndp quad q (fun _ => e')
      if !e'.liveA && !e'.liveB then s.breakEndp quad q true
      else if e'.recv then s
      else e'.rows.foldl (fun s r =>
        (s.arriveRow (quadDie quad) (8 + dieCluster quad) (rowFlit s (quadDie quad) (s.coachDomain c) e' r.1 r.2)).1) s

/-- A circuit is lost to every endpoint of the part that uses it. -/
def State.loseCircuit (s : State) (circ : BitVec 16) : State :=
  s.coaches.foldl (fun s c => (List.range 8).foldl (fun s q => s.loseAt c.quad q circ) s) s

/-- A circuit row goes to an output of its die, and its circuit is lost when it is discarded. -/
def State.routeRow (s : State) (die inp : Nat) (fl : Flit) : State :=
  let r := s.arriveRow die inp fl
  if r.2 then r.1.loseCircuit (BitVec.ofNat 16 (bits fl.h1 63 48)) else r.1

/-- A send endpoint can take rows: bound, whole and open. -/
def Endpoint.canSend (e : Endpoint) (n : Nat) : Bool :=
  e.bound && !e.recv && !e.broken && !e.closed && decide (n ≤ e.credits)

/-- A send endpoint gives a row its ROWSEQ, sends it and keeps it until it is reported landed. -/
def State.sendRow (s : State) (quad q : Nat) (row : BitVec 2048) : State :=
  match s.coach? quad with
  | none => s
  | some c =>
    let e := c.endp q
    let s := s.updEndp quad q (fun e =>
      { e.endWait with next := e.next + 1#32, rows := e.rows ++ [(e.next, row)], credits := e.credits - 1 })
    s.routeRow (quadDie quad) (8 + dieCluster quad) (rowFlit s (quadDie quad) (s.coachDomain c) e e.next row)

/-- The next n rows that a receive endpoint hands out, if all have landed. -/
def Endpoint.ready (e : Endpoint) (n : Nat) : Option (List (BitVec 2048)) :=
  (List.range n).mapM (fun i => (e.rows.find? (fun r => r.1 == e.mark + BitVec.ofNat 32 i)).map (fun r => r.2))

/-- A CLOSED receive endpoint still hands out rows below the final ROWSEQ. -/
def Endpoint.pastFinal (e : Endpoint) (n : Nat) : Bool :=
  e.closed && decide ((e.final - e.mark).toNat < n)

/-- One row is taken, and its credit goes back. -/
def State.takeRow (s : State) (quad q : Nat) : State :=
  match s.coach? quad with
  | none => s
  | some c =>
    let e := c.endp q
    let e' := { e.endWait with rows := e.rows.filter (fun r => r.1 != e.mark), mark := e.mark + 1#32 }
    (s.updEndp quad q (fun _ => e')).sendCred c e'

/-- n rows are taken. -/
def State.takeRows (s : State) (quad q n : Nat) : State :=
  (List.range n).foldl (fun s _ => s.takeRow quad q) s

/-- The next expected ROWSEQ once a row has landed. -/
def advanceNext (rows : List (BitVec 32 × BitVec 2048)) (next : BitVec 32) (fuel : Nat) : BitVec 32 :=
  match fuel with
  | 0 => next
  | fuel + 1 => if rows.any (fun r => r.1 == next) then advanceNext rows (next + 1#32) fuel else next

/-- A row lands at a receive endpoint, or is discarded (R418). -/
def Endpoint.land (e : Endpoint) (seq : BitVec 32) (row : BitVec 2048) : Option Endpoint :=
  if e.broken ∨ 64 ≤ (seq - e.next).toNat ∨ e.rows.any (fun r => r.1 == seq) then none
  else
    let rows := e.rows ++ [(seq, row)]
    some { e with rows := rows, next := advanceNext rows e.next 64 }

/-- The bound endpoints that a circuit reaches: coach and endpoint. -/
def State.endpsOn (s : State) (recv : Bool) (circ : BitVec 16) : List (Coach × Nat) :=
  s.coaches.flatMap (fun c => ((List.range 8).filter (fun q =>
    let e := c.endp q
    e.bound && e.recv == recv && (e.circA == circ || (e.circB == circ && e.circB != 0xFFFF#16)))).map (fun q => (c, q)))

/-- A row is ejected into a cluster: it lands at the endpoint there that its circuit serves. -/
def State.ejectRow (s : State) (cluster : Nat) (fl : Flit) : State :=
  let circ := BitVec.ofNat 16 (bits fl.h1 63 48)
  match (s.endpsOn true circ).find? (fun x => quadCluster x.1.quad == cluster) with
  | none => s
  | some x =>
    match (x.1.endp x.2).land (BitVec.ofNat 32 (bits fl.h1 47 16)) fl.payload with
    | none => s
    | some e => (s.updEndp x.1.quad x.2 (fun _ => e)).sendCred x.1 e

/-! ## Reports (R418, R421) -/

/-- A credit report at a send endpoint. Its values are absolute: a repeated or late report changes nothing. -/
def Endpoint.credit (e : Endpoint) (next taken : BitVec 32) : Endpoint :=
  let fresh := decide ((next - e.mark).toNat ≤ (e.next - e.mark).toNat)
  let cred := (64#32 + taken - e.next).toNat
  { e with
    mark := if fresh then next else e.mark
    rows := if fresh then e.rows.filter (fun r => decide ((next - e.mark).toNat ≤ (r.1 - e.mark).toNat)) else e.rows
    credits := if cred ≤ 64 then Nat.max e.credits cred else e.credits }

/-- A CQCRED or CQCLOSE reaches an endpoint that its circuit and node name. -/
def State.applyReport (s : State) (quad q : Nat) (fl : Flit) : State :=
  let final := BitVec.ofNat 32 (flitField fl 0 4)
  if fl.ty = 11#6 then
    s.updEndp quad q (fun e => if e.recv then e else e.credit final (BitVec.ofNat 32 (flitField fl 4 4)))
  else if (flitField fl 4 1).testBit 0 then s.breakEndp quad q false
  else s.updEndp quad q (fun e => { e with closed := true, final := final })

/-- A report arrives: it is applied, or held at the die until its circuit is bound. -/
def State.report (s : State) (fl : Flit) : State :=
  let circ := BitVec.ofNat 16 (bits fl.h1 63 48)
  let src := fl.src.toNat
  let all := s.endpsOn false circ ++ (if fl.ty = 12#6 then s.endpsOn true circ else [])
  match all.find? (fun x => (x.1.endp x.2).peer == src) with
  | some x => s.applyReport x.1.quad x.2 fl
  | none =>
    if all.isEmpty then { s with heldCq := SMap.insert (SMap.erase s.heldCq circ.toNat) circ.toNat fl } else s

end Sys2Proof.Machine
end

