-- ==== Sys2Proof/Machine/MatrixOps.lean ====
section
/-! DEFINITION. MatrixOps: the operands of matrix operations and their checks (R182-R187, R197, R198), the entry of the
matrix queue (R188), and what an operation computes (R192-R197, R68, R75-R78). -/

namespace Sys2Proof.Machine

/-! ## Shapes and families (R182, R185) -/

/-- Quadrants above one another, and side by side, in a coach. -/
def Coach.vfuse (c : Coach) : Nat := if c.shape = 2#2 ∨ c.shape = 3#2 then 2 else 1
def Coach.hfuse (c : Coach) : Nat := if c.shape = 1#2 ∨ c.shape = 3#2 then 2 else 1

/-- G of a family. -/
def famG (f : BitVec 3) : Nat :=
  match f.toNat with
  | 0 => 1
  | 1 => 1
  | 2 => 2
  | 5 => 2
  | _ => 4

/-- K and N of a coach. -/
def Coach.arrayK (c : Coach) (f : BitVec 3) : Nat := 64 * famG f * c.vfuse
def Coach.arrayN (c : Coach) : Nat := 64 * c.hfuse

/-- Element types that a family's operands take. -/
def famTypes (f : BitVec 3) : List Nat :=
  match f.toNat with
  | 0 => [tyBF16]
  | 1 => [tyF16]
  | 2 => [tyE4M3, tyE5M2]
  | 3 => [tyE3M2, tyE2M3]
  | 4 => [tyE2M1]
  | 5 => [tyINT8, tyUINT8]
  | _ => [tyINT4]

/-- The families that take block scales. -/
def famScaled (f : BitVec 3) : Bool := f == 2#3 || f == 3#3 || f == 4#3

/-- The families that accumulate in INT32. -/
def famInt (f : BitVec 3) : Bool := f == 5#3 || f == 6#3

/-- Type of a family's results. -/
def famResult (f : BitVec 3) : Nat := if famInt f then tyINT32 else tyF32

/-- Types with which SCALED is permitted (R68). -/
def mxType (t : Nat) : Bool := t == tyE4M3 || t == tyE5M2 || t == tyE3M2 || t == tyE2M3 || t == tyE2M1

/-! ## Checks (R42, R184) -/

/-- Queue rows of one operand row (R187). -/
def Desc.queueRows (d : Desc) : Nat := (d.rowBytes + 255) / 256

/-- Role, check 2: space, type and flags; an endpoint's accepted state must be as the role needs (1 send, 2 receive). -/
def roleOk (c : Coach) (d : Desc) (spaces types : List Nat) (scaledOk : Bool) (endpState : Nat) : Bool :=
  spaces.contains d.space && types.contains d.ty && (!d.scaled || (scaledOk && mxType d.ty)) &&
    (d.space != spCq || (!d.scaled && (c.endp d.endpNo).accepted == endpState))

/-- Place, check 3: one plane, inside the buffer; a CQ operand has BASE 0 and rows of at most 64 queue rows. -/
def placeOk (c : Coach) (d : Desc) : Bool :=
  decide (d.planes = 1) && decide (d.dim0 ≠ 0) &&
    (if d.space = spCq then decide (d.base = 0) && decide (d.queueRows ≤ 64) else c.fits d 0#64)

/-- The scale descriptor that an operand names, when it has one. -/
def Coach.scaleOf (c : Coach) (d : Desc) : Desc := c.desc d.scaleNo

/-- Checks of a scale descriptor by their numbers; an operand without SCALED has none, and a CQ operand, whose EXTRA names no
descriptor (R141), has failed check 2 by itself. -/
def scaleCheck (c : Coach) (d : Desc) (spaces : List Nat) (dim0 rows n : Nat) : Bool :=
  let sc := c.scaleOf d
  if d.scaled = false then true
  else
    match n with
    | 1 => d.space == spCq || d.scaleNo == 0 || sc.check1
    | 2 => d.space == spCq || d.scaleNo == 0 || roleOk c sc spaces [tyE8M0] false 0
    | _ => d.scaleNo != 0 && placeOk c sc && sc.dim0 == dim0 && sc.rows == rows

/-- MWLD (R184, R186). -/
def mwldCheck (c : Coach) (a : Desc) (f : BitVec 3) : Option Nat :=
  let kw := if a.edge then a.dim0 else a.rows
  let nw := if a.edge then a.rows else a.dim0
  let blocks := (kw + 31) / 32
  let sc := scaleCheck c a [spWbuf] (if a.edge then blocks else nw) (if a.edge then nw else blocks)
  firstFail [(a.check1 && sc 1, codeDescSpace),
    (roleOk c a [spWbuf, spCq] (famTypes f) (famScaled f) 2 && sc 2, codeEngineAccess),
    (placeOk c a && decide (kw % famG f = 0) && decide (famG f ≤ kw) && decide (kw ≤ c.arrayK f) && decide (1 ≤ nw) &&
      decide (nw ≤ c.arrayN) && sc 3, codeDescRange)]

/-- Two CQ operands name the same endpoint. -/
def sharesEndp (ds : List Desc) : Bool :=
  let qs := (ds.filter (fun d => d.space == spCq)).map (fun d => d.endpNo)
  decide (qs.eraseDups.length < qs.length)

/-- The A rows and the destination of an MMA or MMAS, check 3. -/
def mmaShape (c : Coach) (a d : Desc) (f : BitVec 3) (sparse : Bool) : Bool :=
  let lim := if sparse then 2 * c.arrayK f else c.arrayK f
  placeOk c a && decide (a.dim0 % (if sparse then 4 else famG f) = 0) && decide (a.dim0 ≤ lim) &&
    decide (a.rows ≤ 4096) && placeOk c d && decide (d.dim0 ≤ c.arrayN) && d.rows == a.rows

/-- MMA; `b` is present when its field is not 0. -/
def mmaCheck (c : Coach) (a d : Desc) (b : Option Desc) (f : BitVec 3) : Option Nat :=
  let sc := scaleCheck c a [spAbuf, spGlatch] ((a.dim0 + 31) / 32) a.rows
  let ins := roleOk c a [spAbuf, spGlatch, spCq] (famTypes f) (famScaled f) 2 && sc 2 &&
    roleOk c d [spAcc, spCq] [famResult f] false 1
  match b with
  | none =>
    firstFail [(a.check1 && sc 1 && d.check1, codeDescSpace), (ins && !sharesEndp [a, d], codeEngineAccess),
      (mmaShape c a d f false && sc 3, codeDescRange)]
  | some b =>
    firstFail [(a.check1 && sc 1 && b.check1 && d.check1, codeDescSpace),
      (ins && d.space == spCq && roleOk c b [spCq] [d.ty] false 2 && !sharesEndp [a, b, d], codeEngineAccess),
      (mmaShape c a d f false && sc 3 && placeOk c b && b.dim0 == d.dim0 && b.rows == d.rows, codeDescRange)]

/-- MMAS. -/
def mmasCheck (c : Coach) (a b d : Desc) (f : BitVec 3) : Option Nat :=
  let sc := scaleCheck c a [spAbuf, spGlatch] ((a.dim0 + 31) / 32) a.rows
  firstFail [(a.check1 && sc 1 && b.check1 && d.check1, codeDescSpace),
    (roleOk c a [spAbuf, spGlatch, spCq] (famTypes f) (famScaled f) 2 && sc 2 &&
      roleOk c b [spWbuf] [tyUINT8] false 0 && roleOk c d [spAcc, spCq] [famResult f] false 1 && !sharesEndp [a, d],
      codeEngineAccess),
    (mmaShape c a d f true && sc 3 && placeOk c b && b.dim0 == (a.dim0 + 7) / 8 && b.rows == d.dim0, codeDescRange)]

/-- The latch row stride of MGATH. -/
def gatherStride (a : Desc) : Nat := if a.rowBytes ≤ 256 then 256 else 512

/-- MGATH; `e` is the number of the index list's descriptor, which d0 cannot be (R141). -/
def mgathCheck (c : Coach) (a b : Desc) (e : Nat) : Option Nat :=
  firstFail [(a.check1 && b.check1, codeDescSpace),
    (roleOk c a [spAbuf] (List.range 14) true 0 && roleOk c b [spAbuf] [tyINT16] false 0, codeEngineAccess),
    (placeOk c a && decide (a.rowBytes ≤ 512) && placeOk c b && decide (b.dim0 ≤ 256) && b.rows == 1 &&
      a.listNo == e && e != 0 && decide (b.dim0 * gatherStride a ≤ c.bufSize .glatch), codeDescRange)]

/-- MZERO. -/
def mzeroCheck (c : Coach) (d : Desc) : Option Nat :=
  firstFail [(d.check1, codeDescSpace), (roleOk c d [spAcc] (List.range 14) true 0, codeEngineAccess),
    (placeOk c d, codeDescRange)]

/-! ## Queue entries -/

/-- A queue entry with its captured operands. -/
def newMatOp (op : Nat) (f : BitVec 3) (a b d sc : Desc) (hasB : Bool) (pc : Word) (push source : Nat) : MatOp where
  iword := 0#32
  op := op
  family := f
  a := a
  b := b
  c := d
  scale := sc
  hasB := hasB
  pc := pc
  push := push
  source := source
  seq := 0
  extents := []
  started := false
  done := false
  progress := 0
  flags := 0#9
  set := none
  phase := 0#16

/-- Opcodes (R39). -/
def opMwld : Nat := 0x70
def opMma : Nat := 0x71
def opMmas : Nat := 0x72
def opMgath : Nat := 0x73
def opMzero : Nat := 0x74

def Desc.scaleExtent (d sc : Desc) : List Extent := if d.scaled then sc.extent true false else []

/-- Range-checker entries of an operation (R191). -/
def MatOp.checker (o : MatOp) : List Extent :=
  if o.op = opMwld then o.a.extent true false ++ o.a.scaleExtent o.scale
  else if o.op = opMgath then
    o.a.extent true false ++ o.b.extent true false ++
      [{ buf := .glatch, lo := 0, len := o.b.dim0 * gatherStride o.a, rd := false, wr := true }]
  else if o.op = opMzero then o.c.extent false true
  else
    o.a.extent true false ++ o.a.scaleExtent o.scale ++ (if o.op = opMmas then o.b.extent true false else []) ++
      o.c.extent o.c.accum true

/-- An operation enters the queue under an acceptance number. -/
def Coach.enterMatrix (c : Coach) (o : MatOp) (seq : Nat) : Coach :=
  { c with matq := c.matq ++ [{ o with seq := seq, extents := o.checker }] }

/-! ## Operand rows -/

/-- The value of a floating-point element of a type. -/
def typeValue (t v : Nat) : FVal :=
  match t with
  | 0 => fmtF32.decode v
  | 1 => fmtBF16.decode v
  | 2 => fmtF16.decode v
  | 3 => fmtE4M3.decode v
  | 4 => fmtE5M2.decode v
  | 5 => fmtE2M1.decode v
  | 6 => fmtE3M2.decode v
  | _ => fmtE2M3.decode v

/-- The value of an integer element of a type. -/
def typeInt (t v : Nat) : Int :=
  if t = tyUINT8 then v
  else if t = tyINT4 then (BitVec.ofNat 4 v).toInt
  else if t = tyINT8 then (BitVec.ofNat 8 v).toInt
  else (BitVec.ofNat 32 v).toInt

/-- An operand row: its bits and its poison. -/
structure OpRow where
  bits : Nat
  pois : Bool

/-- Element i of an operand row. -/
def OpRow.elem (r : OpRow) (w i : Nat) : Nat := r.bits / 2 ^ (i * w) % 2 ^ w

/-- Row j of a buffer operand. -/
def State.bufRow (s : State) (c : Coach) (d : Desc) (j : Nat) : OpRow :=
  match bufOf d.space with
  | some b =>
    let lo := d.bufBase + d.rowOff j 0
    { bits := natOfBytes (s.bufBytes c b lo d.rowBytes), pois := s.bufPois c b lo d.rowBytes }
  | none => { bits := 0, pois := false }

/-- An operand row from its queue rows (R187). -/
def joinRows (rs : List (BitVec 2048)) : Nat :=
  match rs with
  | [] => 0
  | r :: rs => r.toNat + 2 ^ 2048 * joinRows rs

/-- The queue rows of a row of n bits. -/
def splitRow (n v : Nat) : List (BitVec 2048) :=
  match n with
  | 0 => []
  | n + 1 => BitVec.ofNat 2048 v :: splitRow n (v / 2 ^ 2048)

/-- An E8M0 scale as an exponent; none is NaN (R68). -/
def scaleExp (v : Nat) : Option Int := if v = 255 then none else some ((v : Int) - 127)

/-- Sum of two scale exponents. -/
def addExp (a b : Option Int) : Option Int :=
  match a, b with
  | some a, some b => some (a + b)
  | _, _ => none

/-! ## Weight sets (R189, R192) -/

def emptySet (f : BitVec 3) (kw nw ty : Nat) (scaled : Bool) : WeightSet :=
  { family := f, kw := kw, nw := nw, ty := ty, scaled := scaled, elems := [], scales := [], poison := false }

def WeightSet.weight (w : WeightSet) (k n : Nat) : Nat := (SMap.get (fun _ => 0#16) w.elems (k * 256 + n)).toNat

def WeightSet.exp (w : WeightSet) (k n : Nat) : Option Int :=
  if w.scaled then scaleExp (SMap.get (fun _ => 0#8) w.scales (k / 32 * 256 + n)).toNat else some 0

/-- One row of weight elements goes into a set: row j of the descriptor. -/
def WeightSet.load (w : WeightSet) (d : Desc) (j : Nat) (r : OpRow) : WeightSet :=
  let elems := (List.range d.dim0).foldl (fun m i =>
    let key := if d.edge then i * 256 + j else j * 256 + i
    SMap.put (fun _ => 0#16) m key (BitVec.ofNat 16 (r.elem d.width i))) w.elems
  { w with elems := elems, poison := w.poison || r.pois }

/-- One row of scales goes into a set. -/
def WeightSet.loadScales (w : WeightSet) (edge : Bool) (sc : Desc) (j : Nat) (r : OpRow) : WeightSet :=
  let scales := (List.range sc.dim0).foldl (fun m i =>
    let key := if edge then i * 256 + j else j * 256 + i
    SMap.put (fun _ => 0#8) m key (BitVec.ofNat 8 (r.elem 8 i))) w.scales
  { w with scales := scales, poison := w.poison || r.pois }

/-- The set that an MMA which starts now would use: the shadow set, when an MWLD has come since the last one. -/
def Coach.nextSet (c : Coach) : Option WeightSet := if c.activeB != c.flip then c.setB else c.setA

/-- An MWLD has loaded its set: it becomes the shadow set, and the next MMA flips to it. -/
def Coach.putShadow (c : Coach) (w : WeightSet) : Coach :=
  if c.activeB then { c with setA := some w, flip := true } else { c with setB := some w, flip := true }

/-! ## Products (R75-R78, R195) -/

/-- The A side of one output row: its elements and scales. -/
structure ARow where
  d     : Desc
  row   : OpRow
  scale : Option OpRow

def ARow.exp (a : ARow) (k : Nat) : Option Int :=
  match a.scale with
  | none => some 0
  | some r => scaleExp (r.elem 8 (k / 32))

/-- A kept product of a float family: A position k with weight row r of column n. -/
def floatProduct (a : ARow) (w : WeightSet) (k r n : Nat) : FVal × BitVec 9 :=
  scaledProduct (typeValue a.d.ty (a.row.elem a.d.width k)) (typeValue w.ty (w.weight r n)) (addExp (a.exp k) (w.exp r n))

/-- The same of an integer family. -/
def intProduct (a : ARow) (w : WeightSet) (k r n : Nat) : Int :=
  typeInt a.d.ty (a.row.elem a.d.width k) * typeInt w.ty (w.weight r n)

/-- The steps of a dense operation: each is a list of (A position, weight row). -/
def denseSteps (g k : Nat) : List (List (Nat × Nat)) :=
  (List.range (k / g)).map (fun s => (List.range g).map (fun i => (g * s + i, g * s + i)))

/-- The 2:4 metadata nibble of a group: the positions of its kept elements, if legal. -/
def keptOf (md g : Nat) : Option (Nat × Nat) :=
  let nib := md / 2 ^ (4 * g) % 16
  if nib % 4 < nib / 4 then some (nib % 4, nib / 4) else none

/-- The steps of a column of a sparse operation, and whether a group was illegal. -/
def sparseSteps (f : BitVec 3) (md k : Nat) : List (List (Nat × Nat)) × Bool :=
  let gs := (List.range (k / 4)).map (fun g => (g, keptOf md g))
  (gs.flatMap (fun x =>
    match x.2 with
    | none => []
    | some p =>
      let one := (4 * x.1 + p.1, 2 * x.1)
      let two := (4 * x.1 + p.2, 2 * x.1 + 1)
      if famG f = 1 then [[one], [two]] else [[one, two]]),
    gs.any (fun x => x.2.isNone))

/-- One output element from its start value and steps. -/
def outElem (f : BitVec 3) (a : ARow) (w : WeightSet) (n start : Nat) (steps : List (List (Nat × Nat))) :
    Nat × BitVec 9 :=
  if famInt f then
    let r := steps.foldl (fun (acc : Int × BitVec 9) st =>
      let x := intStep acc.1 ((st.map (fun p => intProduct a w p.1 p.2 n)).sum)
      (x.1, acc.2 ||| x.2)) ((BitVec.ofNat 32 start).toInt, 0#9)
    ((BitVec.ofInt 32 r.1).toNat, r.2)
  else
    steps.foldl (fun acc st =>
      let x := floatStep acc.1 (st.map (fun p => floatProduct a w p.1 p.2 n))
      (x.1, acc.2 ||| x.2)) (start, 0#9)

/-- One result row: the bits, the flags and the poison. -/
def resultRow (o : MatOp) (w : WeightSet) (a : ARow) (start : OpRow) (md : Nat → OpRow) : Nat × BitVec 9 × Bool :=
  let cells := (List.range o.c.dim0).map (fun n =>
    let st :=
      if o.op = opMmas then sparseSteps o.family (md n).bits o.a.dim0
      else (denseSteps (famG o.family) o.a.dim0, false)
    let r := outElem o.family a w n (start.elem 32 n) st.1
    (r.1, r.2 ||| (if st.2 then flagSPX else 0#9)))
  let p := a.row.pois || w.poison || start.pois || (match a.scale with
    | some r => r.pois
    | none => false)
  (natOfBytes (cells.flatMap (fun x => bytesOfNat 4 x.1)), (cells.map (fun x => x.2)).foldl (· ||| ·) 0#9, p)

/-! ## The known-answer tile (R199) -/

/-- The steps of R71 on a key. -/
def splitMixZ (key : Nat) : Nat :=
  let m := 2 ^ 64
  let z := (key + 0x9E3779B97F4A7C15) % m
  let z := ((z ^^^ (z / 2 ^ 30)) * 0xBF58476D1CE4E5B9) % m
  let z := ((z ^^^ (z / 2 ^ 27)) * 0x94D049BB133111EB) % m
  z ^^^ (z / 2 ^ 31)

/-- V(e), in {-2, ..., 2}. -/
def katValue (seed e : Nat) : Int := (splitMixZ ((seed + e) % 2 ^ 64) % 5 : Nat) - 2

/-- C[m][n]: every operand is a small integer, so each sum is exact in every family. -/
def katCell (seed kq m n : Nat) : Int :=
  ((List.range kq).map (fun k => katValue seed (65536 + kq * m + k) * katValue seed (64 * k + n))).sum

/-- The checksum of a quadrant's tile. -/
def katChecksum (f : BitVec 3) (seed : Nat) : Word :=
  let kq := 64 * famG f
  (List.range 4096).foldl (fun (cs : Word) i =>
    let v := katCell seed kq (i / 64) (i % 64)
    let pat := if famInt f then (BitVec.ofInt 32 v).toNat else (intToF32 v).1
    cs.rotateLeft 1 ^^^ word pat) 0#64

end Sys2Proof.Machine
end

