-- ==== Sys2Proof/Machine/Vector.lean ====
section
/-! DEFINITION. Vector: the tile-register vector instructions and the vector unit (R154-R177). -/

namespace Sys2Proof.Machine

/-! ## Positions and masks (R154-R158) -/

/-- Tile register and direction of a tile operand (R21). -/
def opTile (o : BitVec 6) : Nat := o.toNat / 4
def opDir (o : BitVec 6) : Nat := o.toNat % 4

/-- Pos: the cell (row, column) of element i of vector j (R154). -/
def posOf (dir j i : Nat) : Nat × Nat :=
  match dir with
  | 0 => (j, i)
  | 1 => (i, j)
  | 2 => (i, (j + i) % 32)
  | _ => (i, (j + 32 - i) % 32)

/-- The cell of an operand at a position. -/
def Quadrant.at_ (x : Quadrant) (o : BitVec 6) (j i : Nat) : Nat :=
  (x.cell (opTile o) (posOf (opDir o) j i).1 (posOf (opDir o) j i).2).toNat

/-- Poison of the cell of an operand at a position (R160). -/
def Quadrant.poisAt (x : Quadrant) (o : BitVec 6) (j i : Nat) : Bool :=
  x.rowPois (opTile o) (posOf (opDir o) j i).1

/-- A mask register; m0 reads all-ones (R21). -/
def Quadrant.mask (x : Quadrant) (m : Nat) : BitVec 1024 :=
  if m = 0 then -1#1024 else SMap.get (fun _ => 0#1024) x.masks m

/-- Poison of a mask register; m0 has none. -/
def Quadrant.maskPois (x : Quadrant) (m : Nat) : Bool := m != 0 && x.pMask.getLsbD m

/-- Writing a mask register with its poison. -/
def Quadrant.setMask (x : Quadrant) (m : Nat) (v : BitVec 1024) (p : Bool) : Quadrant :=
  { x with
    masks := SMap.put (fun _ => 0#1024) x.masks m v
    pMask := if p then x.pMask ||| (1#8 <<< m) else x.pMask &&& ~~~ (1#8 <<< m) }

/-- The mask bit of an operand's position (R157, R158). -/
def maskAt (b : BitVec 1024) (o : BitVec 6) (j i : Nat) : Bool :=
  b.getLsbD (32 * (posOf (opDir o) j i).1 + (posOf (opDir o) j i).2)

/-- Every position (j, i), in order of j and then i. -/
def positions : List (Nat × Nat) := (List.range 1024).map (fun p => (p / 32, p % 32))

/-! ## Writing cells (R160) -/

/-- A cell to be written; `full` says that all its bytes are. -/
structure CellWrite where
  row  : Nat
  col  : Nat
  val  : Nat
  pois : Bool
  full : Bool

/-- The poison that a row's writes leave in it. -/
def Quadrant.markRow (x : Quadrant) (t : Nat) (ws : List CellWrite) (r : Nat) : Quadrant :=
  let mine := ws.filter (fun w => w.row == r)
  if mine.isEmpty then x
  else
    let p := mine.any (fun w => w.pois)
    let whole := mine.length == 32 && mine.all (fun w => w.full)
    x.setRowPois t r (if whole then p else p || x.rowPois t r)

/-- Cells written into a tile register. -/
def Quadrant.writeCells (x : Quadrant) (t : Nat) (ws : List CellWrite) : Quadrant :=
  let y := ws.foldl (fun y w => y.setCell t w.row w.col (BitVec.ofNat 32 w.val)) x
  (List.range 32).foldl (fun y r => y.markRow t ws r) y

/-- What a vector instruction does: cells of one tile, a mask register, a scalar register, bytes of a buffer, the
mask selector, and flags. -/
structure VecOut where
  tile   : Nat := 0
  cells  : List CellWrite := []
  mask   : Option (Nat × BitVec 1024 × Bool) := none
  scalar : Option (Word × Bool) := none
  buf    : Buf := .abuf
  bytes  : List (Nat × Byte × Bool) := []
  select : Option (BitVec 3) := none
  flags  : BitVec 9 := 0#9

/-- The cells of operand d for which `f j i` gives a value, flags and poison. -/
def tileOut (d : BitVec 6) (f : Nat → Nat → Option (Nat × BitVec 9 × Bool)) : VecOut :=
  let rs := positions.filterMap (fun p => (f p.1 p.2).map (fun r => (posOf (opDir d) p.1 p.2, r)))
  { tile := opTile d
    cells := rs.map (fun r => { row := r.1.1, col := r.1.2, val := r.2.1, pois := r.2.2.2, full := true })
    flags := (rs.map (fun r => r.2.2.1)).foldl (· ||| ·) 0#9 }

/-! ## Lanes (R156, R165-R167) -/

/-- A lane: a float format, or an integer of w bits. -/
inductive Lane where
  | flt (f : Fmt)
  | int (w : Nat) (signed : Bool)

/-- The lane of a ty code (R27). -/
def laneOf (y : BitVec 3) : Lane :=
  match y.toNat with
  | 0 => .flt fmtF32
  | 1 => .int 32 true
  | 2 => .int 32 false
  | 3 => .flt fmtBF16
  | 4 => .flt fmtF16
  | 5 => .int 16 true
  | 6 => .int 8 true
  | _ => .int 8 false

/-- Lanes in a cell. -/
def laneCount (y : BitVec 3) : Nat := 32 / laneWidth y

/-- Lane l of a cell. -/
def laneGet (y : BitVec 3) (cell l : Nat) : Nat := cell / 2 ^ (laneWidth y * l) % 2 ^ laneWidth y

/-- A cell from its lanes, with the flags of all of them. -/
def lanesOf (y : BitVec 3) (f : Nat → Nat × BitVec 9) : Nat × BitVec 9 :=
  (List.range (laneCount y)).foldl (fun r l =>
    let v := f l
    (r.1 + v.1 % 2 ^ laneWidth y * 2 ^ (laneWidth y * l), r.2 ||| v.2)) (0, 0#9)

/-- A w-bit value as an integer. -/
def intOf (w : Nat) (signed : Bool) (v : Nat) : Int :=
  if signed then (BitVec.ofNat w v).toInt else (v : Int)

/-- An integer kept to w bits. -/
def wrapTo (w : Nat) (v : Int) : Nat := (BitVec.ofInt w v).toNat

def Lane.add (k : Lane) (a b : Nat) : Nat × BitVec 9 :=
  match k with
  | .flt f => f.addOp a b
  | .int w _ => (wrapTo w (a + b), 0#9)

def Lane.sub (k : Lane) (a b : Nat) : Nat × BitVec 9 :=
  match k with
  | .flt f => f.subOp a b
  | .int w _ => (wrapTo w ((a : Int) - b), 0#9)

def Lane.mul (k : Lane) (a b : Nat) : Nat × BitVec 9 :=
  match k with
  | .flt f => f.mulOp a b
  | .int w _ => (wrapTo w (a * b), 0#9)

/-- a x b + d, or a x b - d. -/
def Lane.fma (k : Lane) (sub : Bool) (a b d : Nat) : Nat × BitVec 9 :=
  match k with
  | .flt f => f.fmaOp a b d sub
  | .int w _ => (wrapTo w (if sub then (a * b : Int) - d else (a * b : Int) + d), 0#9)

/-- The smaller or the larger. -/
def Lane.minMax (k : Lane) (isMax : Bool) (a b : Nat) : Nat × BitVec 9 :=
  match k with
  | .flt f => f.minMax isMax a b
  | .int w sg =>
    let less := decide (intOf w sg a < intOf w sg b)
    (if isMax then (if less then b else a) else (if less then a else b), 0#9)

def Lane.abs (k : Lane) (a : Nat) : Nat × BitVec 9 :=
  match k with
  | .flt f => f.signOp false a
  | .int w sg => (if sg then wrapTo w (if intOf w true a < 0 then -(intOf w true a) else a) else a, 0#9)

def Lane.neg (k : Lane) (a : Nat) : Nat × BitVec 9 :=
  match k with
  | .flt f => f.signOp true a
  | .int w _ => (wrapTo w (-(a : Int)), 0#9)

/-- The shifts: left, right with zero fill, right with the top bit. -/
inductive Shift where
  | left | right | arith

def shiftLane (k : Shift) (w a n : Nat) : Nat :=
  match k with
  | .left => a * 2 ^ n % 2 ^ w
  | .right => a / 2 ^ n
  | .arith => wrapTo w (intOf w true a / 2 ^ n)

/-! ## Comparison (R168) -/

/-- A VCMP condition on a lane: the bit, and flags. -/
def compareLane (k : Lane) (cond : Nat) (a b : Nat) : Bool × BitVec 9 :=
  match k with
  | .flt f =>
    let x := f.decode a
    let y := f.decode b
    let nan := x.isNan || y.isNan
    let lt := !nan && x.less false y
    let gt := !nan && y.less false x
    let eq := !nan && !lt && !gt
    let fl := if 2 ≤ cond ∧ cond ≤ 5 then (if nan then flagNV else 0#9) else nanFlag x ||| nanFlag y
    (match cond with
      | 0 => eq
      | 1 => !eq
      | 2 => lt
      | 3 => lt || eq
      | 4 => gt
      | 5 => gt || eq
      | 6 => nan
      | _ => !nan, fl)
  | .int w sg =>
    let x := intOf w sg a
    let y := intOf w sg b
    (match cond with
      | 0 => decide (x = y)
      | 1 => decide (x ≠ y)
      | 2 => decide (x < y)
      | 3 => decide (x ≤ y)
      | 4 => decide (y < x)
      | 5 => decide (y ≤ x)
      | _ => false, 0#9)

/-! ## Conversions (R173, R174) -/

/-- An integer converted to a bounded integer under an overflow policy (pair 15). -/
def narrowInt (lo hi v : Int) (policy : Nat) : Int × BitVec 9 :=
  convertInt lo hi .rne policy (.fin (decide (v < 0)) v.natAbs 0)

/-- VCVT of one cell by its pair (R29, R73). -/
def convertCell (pair policy : Nat) (mode : Mode) (a : Nat) : Nat × BitVec 9 :=
  let x := fmtF32.decode a
  let toInt := fun (lo hi : Int) (w : Nat) =>
    let r := convertInt lo hi mode policy x
    (wrapTo w r.1, r.2)
  match pair with
  | 0 => fmtBF16.convert mode policy x
  | 1 => fmtF16.convert mode policy x
  | 2 => fmtE4M3.convert mode policy x
  | 3 => fmtE5M2.convert mode policy x
  | 4 => fmtE3M2.convert mode policy x
  | 5 => fmtE2M3.convert mode policy x
  | 6 => fmtE2M1.convert mode policy x
  | 7 => toInt (-2147483648) 2147483647 32
  | 8 => intToF32 (intOf 32 true a)
  | 9 => fmtF32.convert .rne 1 (fmtBF16.decode (a % 2 ^ 16))
  | 10 => fmtF32.convert .rne 1 (fmtF16.decode (a % 2 ^ 16))
  | 11 => fmtF32.convert .rne 1 (fmtE4M3.decode (a % 2 ^ 8))
  | 12 => fmtF32.convert .rne 1 (fmtE5M2.decode (a % 2 ^ 8))
  | 13 => toInt (-128) 127 8
  | 14 => toInt 0 255 8
  | _ =>
    let r := narrowInt (-128) 127 (intOf 32 true a) policy
    (wrapTo 8 r.1, r.2)

/-- The packed types of VPACK and VUNPK (R174), with their widths. -/
def packedFmt (y : BitVec 3) : Fmt × Nat :=
  match y.toNat with
  | 0 => (fmtE4M3, 8)
  | 1 => (fmtE5M2, 8)
  | 2 => (fmtE3M2, 6)
  | 3 => (fmtE2M3, 6)
  | _ => (fmtE2M1, 4)

/-- A value scaled by a power of two. -/
def FVal.scale (v : FVal) (n : Int) : FVal :=
  match v with
  | .fin s m e => .fin s m (e + n)
  | v => v

/-- One element of VPACK: an F32 cell under a block scale. -/
def packElem (f : Fmt) (scale a : Nat) : Nat × BitVec 9 :=
  f.convert .rne 0 (if scale = 255 then .nan false else (fmtF32.decode a).scale (127 - (scale : Int)))

/-- One element of VUNPK. -/
def unpackElem (f : Fmt) (scale v : Nat) : Nat × BitVec 9 :=
  match f.decode v with
  | .nan _ => (fmtF32.nan, 0#9)
  | .inf n => if scale = 255 then (fmtF32.nan, 0#9) else (fmtF32.signed n fmtF32.infEnc, 0#9)
  | .fin n m e => if scale = 255 then (fmtF32.nan, 0#9) else fmtF32.arith n m (e + scale - 127)

/-- VPACK of vector j: the packed block as a number, the flags, and each element's poison. -/
def packVector (x : Quadrant) (a : BitVec 6) (y : BitVec 3) (scale j : Nat) : Nat × BitVec 9 :=
  let f := packedFmt y
  (List.range 32).foldl (fun r k =>
    let v := packElem f.1 scale (x.at_ a j k)
    (r.1 + v.1 * 2 ^ (k * f.2), r.2 ||| v.2)) (0, 0#9)

/-- Elements that share bits with cell m of a packed block. -/
def elemsOfCell (w m : Nat) : List Nat :=
  (List.range 32).filter (fun k => decide (k * w < 32 * m + 32) && decide (32 * m < k * w + w))

/-- Cells that share bits with element k of a packed block. -/
def cellsOfElem (w k : Nat) : List Nat :=
  (List.range 32).filter (fun m => decide (k * w < 32 * m + 32) && decide (32 * m < k * w + w))

/-- The packed block in vector j of an operand, as a number. -/
def blockOf (x : Quadrant) (a : BitVec 6) (w j : Nat) : Nat :=
  (List.range w).foldl (fun n m => n + x.at_ a j m * 2 ^ (32 * m)) 0

/-! ## Reductions (R175) -/

/-- One step of a reduction: imm 0 of VSCAN and VREDS add; the others take the larger or the smaller. -/
inductive Step where
  | sum | max | min

def Step.run (k : Step) (l : Lane) (acc v : Nat) : Nat × BitVec 9 :=
  match k with
  | .sum => l.add acc v
  | .max => l.minMax true acc v
  | .min => l.minMax false acc v

/-- A running value: none before the first active element of a maximum or minimum. -/
structure Running where
  val   : Option Nat
  flags : BitVec 9
  pois  : Bool

/-- A running value takes one active element. -/
def Running.take (r : Running) (k : Step) (l : Lane) (v : Nat) (p : Bool) : Running :=
  let x := k.run l (r.val.getD v) v
  { val := some x.1, flags := r.flags ||| x.2, pois := r.pois || p }

/-- The start of a running value. -/
def Step.start (k : Step) (p : Bool) : Running :=
  { val := (match k with
      | .sum => some 0
      | _ => none), flags := 0#9, pois := p }

/-- The running value over the active elements 0 to n - 1 of vector j. -/
def runOver (x : Quadrant) (b : BitVec 1024) (p : Bool) (a : BitVec 6) (k : Step) (l : Lane) (j n : Nat) : Running :=
  (List.range n).foldl (fun r i =>
    if maskAt b a j i then r.take k l (x.at_ a j i) (x.poisAt a j i) else r) (k.start p)

/-- A reduction of each vector into vector 0 of d. -/
def reduceOut (x : Quadrant) (b : BitVec 1024) (p : Bool) (d a : BitVec 6) (k : Step) (l : Lane) : VecOut :=
  let rs := (List.range 32).map (fun j => (posOf (opDir d) 0 j, runOver x b p a k l j 32))
  { tile := opTile d
    cells := rs.map (fun r =>
      { row := r.1.1, col := r.1.2, val := r.2.val.getD 0, pois := r.2.pois, full := true })
    flags := (rs.map (fun r => r.2.flags)).foldl (· ||| ·) 0#9 }

/-- VSCAN: the flags are those of each vector's steps, each step counted once. -/
def scanOut (x : Quadrant) (b : BitVec 1024) (p : Bool) (d a : BitVec 6) (k : Step) (l : Lane) : VecOut :=
  let out := tileOut d (fun j i =>
    if maskAt b a j i then
      let r := runOver x b p a k l j (i + 1)
      some (r.val.getD 0, 0#9, r.pois)
    else none)
  { out with flags := ((List.range 32).map (fun j => (runOver x b p a k l j 32).flags)).foldl (· ||| ·) 0#9 }

/-! ## Buffers (R177) -/

/-- Descriptor elements (e, j) that VLD and VST move. -/
def descElems (d : Desc) : List (Nat × Nat) :=
  (List.range d.rows).flatMap (fun j => (List.range d.dim0).map (fun e => (e, j)))

/-- The lanes that VLD writes: for each active cell, the lanes with a descriptor element. -/
def loadOut (s : State) (c : Coach) (x : Quadrant) (b : BitVec 1024) (p : Bool) (o : VecOp) (t : BitVec 6)
    (y : BitVec 3) (bf : Buf) : VecOut :=
  let L := laneCount y
  let w := laneWidth y
  let rs := positions.filterMap (fun q =>
    let j := q.1
    let i := q.2
    let ls := (List.range L).filter (fun l => decide (j < o.desc.rows) && decide (i * L + l < o.desc.dim0))
    if maskAt b t j i = false ∨ ls.isEmpty then none
    else
      let old := x.at_ t j i
      let r := ls.foldl (fun r l =>
        let lo := (word o.desc.base + o.sval).toNat + j * o.desc.rstride + (i * L + l) * w / 8
        let v := natOfBytes (s.bufBytes c bf lo (w / 8))
        (r.1 - laneGet y r.1 l * 2 ^ (w * l) + v * 2 ^ (w * l), r.2 || s.bufPois c bf lo (w / 8))) (old, p)
      some { row := (posOf (opDir t) j i).1, col := (posOf (opDir t) j i).2, val := r.1, pois := r.2,
             full := ls.length == L : CellWrite })
  { tile := opTile t, cells := rs }

/-- The bytes that VST writes. -/
def storeOut (x : Quadrant) (b : BitVec 1024) (p : Bool) (o : VecOp) (t : BitVec 6) (y : BitVec 3) (bf : Buf) :
    VecOut :=
  let L := laneCount y
  let w := laneWidth y
  let bs := (descElems o.desc).flatMap (fun q =>
    let e := q.1
    let j := q.2
    if maskAt b t j (e / L) then
      let lo := (word o.desc.base + o.sval).toNat + j * o.desc.rstride + e * w / 8
      let v := laneGet y (x.at_ t j (e / L)) (e % L)
      (bytesOfNat (w / 8) v).zipIdx.map (fun z => (lo + z.2, z.1, p || x.poisAt t j (e / L)))
    else [])
  { buf := bf, bytes := bs }

/-- Poison of a granule after scattered bytes: the whole granule is written, or only a part (R160). -/
def State.markScatter (s : State) (c : Coach) (b : Buf) (ws : List (Nat × Byte × Bool)) (g : Nat) : State :=
  let mine := ws.filter (fun w => w.1 / b.granule == g)
  let p := mine.any (fun w => w.2.2)
  let whole := (List.range b.granule).all (fun i => mine.any (fun w => w.1 == g * b.granule + i))
  let at_ := c.locate b (g * b.granule)
  s.updQuad at_.1 (fun x => x.setPois b (at_.2 / b.granule) (if whole then p else p || x.pois b (at_.2 / b.granule)))

/-- Bytes scattered into a buffer, each with its poison. -/
def State.scatter (s : State) (c : Coach) (b : Buf) (ws : List (Nat × Byte × Bool)) : State :=
  let s := ws.foldl (fun s w => s.setBufByte c b w.1 w.2.1) s
  ((ws.map (fun w => w.1 / b.granule)).eraseDups).foldl (fun s g => s.markScatter c b ws g) s

/-! ## What each instruction does -/

/-- Element-wise on two sources. -/
def binOut (x : Quadrant) (m : BitVec 1024) (p : Bool) (d a b : BitVec 6) (y : BitVec 3)
    (f : Nat → Nat → Nat × BitVec 9) : VecOut :=
  tileOut d (fun j i =>
    if maskAt m d j i then
      let u := x.at_ a j i
      let v := x.at_ b j i
      let r := lanesOf y (fun l => f (laneGet y u l) (laneGet y v l))
      some (r.1, r.2, p || x.poisAt a j i || x.poisAt b j i)
    else none)

/-- Element-wise on two sources and the old destination. -/
def fmaOut (x : Quadrant) (m : BitVec 1024) (p : Bool) (d a b : BitVec 6) (y : BitVec 3) (sub : Bool) : VecOut :=
  tileOut d (fun j i =>
    if maskAt m d j i then
      let u := x.at_ a j i
      let v := x.at_ b j i
      let z := x.at_ d j i
      let r := lanesOf y (fun l => (laneOf y).fma sub (laneGet y u l) (laneGet y v l) (laneGet y z l))
      some (r.1, r.2, p || x.poisAt a j i || x.poisAt b j i || x.poisAt d j i)
    else none)

/-- Element-wise on one source. -/
def unOut (x : Quadrant) (m : BitVec 1024) (p : Bool) (d a : BitVec 6) (y : BitVec 3) (f : Nat → Nat × BitVec 9) :
    VecOut :=
  tileOut d (fun j i =>
    if maskAt m d j i then
      let u := x.at_ a j i
      let r := lanesOf y (fun l => f (laneGet y u l))
      some (r.1, r.2, p || x.poisAt a j i)
    else none)

/-- Whole cells, bitwise. -/
def bitOut (x : Quadrant) (m : BitVec 1024) (p : Bool) (d a b : BitVec 6) (f : Nat → Nat → Nat) : VecOut :=
  tileOut d (fun j i =>
    if maskAt m d j i then some (f (x.at_ a j i) (x.at_ b j i), 0#9, p || x.poisAt a j i || x.poisAt b j i)
    else none)

/-- The first active position of an operand. -/
def firstActive (m : BitVec 1024) (o : BitVec 6) : Option (Nat × Nat) :=
  positions.find? (fun q => maskAt m o q.1 q.2)

/-- VCMP: the mask register's new content and poison; a mask written whole from clean inputs is clean. -/
def compareOut (x : Quadrant) (m : BitVec 1024) (p : Bool) (a b : BitVec 6) (cond : BitVec 3) (mk : BitVec 3)
    (y : BitVec 3) : VecOut :=
  let act := positions.filter (fun q => maskAt m a q.1 q.2)
  let rs := act.map (fun q =>
    (posOf (opDir a) q.1 q.2, compareLane (laneOf y) cond.toNat (x.at_ a q.1 q.2) (x.at_ b q.1 q.2),
      x.poisAt a q.1 q.2 || x.poisAt b q.1 q.2))
  let new := rs.foldl (fun (v : BitVec 1024) r =>
    let bitAt := (1#1024 <<< (32 * r.1.1 + r.1.2))
    if r.2.1.1 then v ||| bitAt else v &&& ~~~ bitAt) (x.mask mk.toNat)
  let pd := !rs.isEmpty && (p || rs.any (fun r => r.2.2))
  { mask := some (mk.toNat, new, if rs.length = 1024 then pd else pd || x.maskPois mk.toNat)
    flags := (rs.map (fun r => r.2.1.2)).foldl (· ||| ·) 0#9 }

/-- A MOPS instruction over all 1,024 bits. -/
def mopsOut (x : Quadrant) (d : BitVec 3) (srcs : List (BitVec 3)) (v : BitVec 1024) : VecOut :=
  { mask := some (d.toNat, v, srcs.any (fun m => x.maskPois m.toNat)) }

/-- What a vector instruction does, from the lead quadrant and the active mask as they stand. -/
def vecOut (s : State) (c : Coach) (o : VecOp) : VecOut :=
  let x := s.quad c.quad
  let m := x.mask c.maskSel.toNat
  let p := x.maskPois c.maskSel.toNat
  match o.ins with
  | .vadd _ d a b y => binOut x m p d a b y (laneOf y).add
  | .vsub _ d a b y => binOut x m p d a b y (laneOf y).sub
  | .vmul _ d a b y => binOut x m p d a b y (laneOf y).mul
  | .vfma _ d a b y => fmaOut x m p d a b y false
  | .vfms _ d a b y => fmaOut x m p d a b y true
  | .vmin _ d a b y => binOut x m p d a b y ((laneOf y).minMax false)
  | .vmax _ d a b y => binOut x m p d a b y ((laneOf y).minMax true)
  | .vabs _ d a y => unOut x m p d a y (laneOf y).abs
  | .vneg _ d a y => unOut x m p d a y (laneOf y).neg
  | .vand _ d a b _ => bitOut x m p d a b (fun u v => u &&& v)
  | .vor _ d a b _ => bitOut x m p d a b (fun u v => u ||| v)
  | .vxor _ d a b _ => bitOut x m p d a b (fun u v => u ^^^ v)
  | .vshl _ d a i y => unOut x m p d a y (fun u => (shiftLane .left (laneWidth y) u i.toNat, 0#9))
  | .vshr _ d a i y => unOut x m p d a y (fun u => (shiftLane .right (laneWidth y) u i.toNat, 0#9))
  | .vsra _ d a i y => unOut x m p d a y (fun u => (shiftLane .arith (laneWidth y) u i.toNat, 0#9))
  | .vcmp _ a b cnd mk y => compareOut x m p a b cnd mk y
  | .vsel _ d a b _ =>
    tileOut d (fun j i =>
      if maskAt m d j i then some (x.at_ a j i, 0#9, p || x.poisAt a j i)
      else some (x.at_ b j i, 0#9, p || x.poisAt b j i))
  | .vmov _ d a _ =>
    tileOut d (fun j i => if maskAt m d j i then some (x.at_ a j i, 0#9, p || x.poisAt a j i) else none)
  | .vbcs _ d _ y =>
    tileOut d (fun j i =>
      if maskAt m d j i then
        some ((lanesOf y (fun _ => (o.sval.toNat % 2 ^ laneWidth y, 0#9))).1, 0#9, p || o.spois)
      else none)
  | .vins _ d _ _ =>
    match firstActive m d with
    | none => {}
    | some q => tileOut d (fun j i => if (j, i) = q then some (o.sval.toNat % 2 ^ 32, 0#9, p || o.spois) else none)
  | .vmovs _ a _ y =>
    match firstActive m a with
    | none => { scalar := some (0#64, p) }
    | some q =>
      let v := BitVec.ofNat 32 (x.at_ a q.1 q.2)
      { scalar := some (if y = 1#3 then v.signExtend 64 else v.setWidth 64, p || x.poisAt a q.1 q.2) }
  | .vexp2 _ d a => unOut x m p d a 0#3 (specialFn .exp2)
  | .vlog2 _ d a => unOut x m p d a 0#3 (specialFn .log2)
  | .vrcp _ d a => unOut x m p d a 0#3 (specialFn .rcp)
  | .vrsq _ d a => unOut x m p d a 0#3 (specialFn .rsq)
  | .vcvt _ d a r f pair =>
    tileOut d (fun j i =>
      if maskAt m d j i then
        let q := posOf (opDir a) j i
        let rnd := splitMix o.desc.w0 (32 * q.1 + q.2) (o.desc.w1.setWidth 32)
        let v := convertCell pair.toNat f.toNat (modeOf r.toNat rnd) (x.at_ a j i)
        some (v.1, v.2, p || x.poisAt a j i)
      else none)
  | .vpack _ d a b y =>
    let w := (packedFmt y).2
    let vs := (List.range 32).map (fun j => packVector x a y (x.at_ b j 0 % 256) j)
    let out := tileOut d (fun j i =>
      if i < w then
        some ((vs.getD j (0, 0#9)).1 / 2 ^ (32 * i) % 2 ^ 32, (vs.getD j (0, 0#9)).2,
          x.poisAt b j 0 || (elemsOfCell w i).any (fun k => x.poisAt a j k))
      else some (0, 0#9, false))
    out
  | .vunpk _ d a b y =>
    let f := packedFmt y
    tileOut d (fun j k =>
      let v := unpackElem f.1 (x.at_ b j 0 % 256) (blockOf x a f.2 j / 2 ^ (k * f.2) % 2 ^ f.2)
      some (v.1, v.2, x.poisAt b j 0 || (cellsOfElem f.2 k).any (fun i => x.poisAt a j i)))
  | .vreds _ d a y => reduceOut x m p d a .sum (laneOf y)
  | .vredm _ d a i y => reduceOut x m p d a (if i = 0#6 then .max else .min) (laneOf y)
  | .vscan _ d a i y => scanOut x m p d a (if i = 0#6 then .sum else if i = 1#6 then .max else .min) (laneOf y)
  | .vperm _ d a b _ =>
    tileOut d (fun j i =>
      if maskAt m d j i then
        let n := x.at_ b j i
        if n < 32 then some (x.at_ a j n, 0#9, p || x.poisAt b j i || x.poisAt a j n)
        else some (0, 0#9, p || x.poisAt b j i)
      else none)
  | .vrot _ d a i _ =>
    tileOut d (fun j e =>
      if maskAt m d j e then
        let n := (e + i.toNat) % 32
        some (x.at_ a j n, 0#9, p || x.poisAt a j n)
      else none)
  | .vld _ t _ _ y =>
    match bufOf o.desc.space with
    | some b => loadOut s c x m p o t y b
    | none => {}
  | .vst _ t _ _ y =>
    match bufOf o.desc.space with
    | some b => storeOut x m p o t y b
    | none => {}
  | .setm _ k => { select := some k }
  | .mand _ d a b => mopsOut x d [a, b] (x.mask a.toNat &&& x.mask b.toNat)
  | .mor _ d a b => mopsOut x d [a, b] (x.mask a.toNat ||| x.mask b.toNat)
  | .mxor _ d a b => mopsOut x d [a, b] (x.mask a.toNat ^^^ x.mask b.toNat)
  | .mnot _ d a => mopsOut x d [a] (~~~ (x.mask a.toNat))
  | .mpopc _ _ k =>
    { scalar := some (word ((List.range 1024).filter (fun i => (x.mask k.toNat).getLsbD i)).length,
        x.maskPois k.toNat) }
  | .viota _ d y =>
    tileOut d (fun j i =>
      if maskAt m d j i then
        let L := laneCount y
        some ((lanesOf y (fun l =>
          match laneOf y with
          | .flt _ => intToF32 (32 * j + i)
          | .int _ _ => ((32 * j + i) * L + l, 0#9))).1, 0#9, p)
      else none)
  | .vclr _ d => tileOut (d ++ 0#2) (fun _ _ => some (0, 0#9, false))
  | _ => {}

/-- What a vector instruction does, brought about at its retirement. -/
def State.applyVec (s : State) (c : Coach) (o : VecOp) (r : VecOut) : State :=
  let s := s.updQuad c.quad (fun x =>
    let x := x.writeCells r.tile r.cells
    match r.mask with
    | some k => x.setMask k.1 k.2.1 k.2.2
    | none => x)
  let s := s.scatter c r.buf r.bytes
  let s := match r.scalar, o.result with
    | some v, some d => s.setRegOf (.coach c.quad 9) d v.1 v.2
    | _, _ => s
  match r.select with
  | some k => s.updCoach c.quad (fun c => { c with maskSel := k })
  | none => s

/-! ## The vector unit (R161-R163) -/

/-- VECTOR_START: the oldest instruction of the unit starts once the range checker lets it; one that the unit
already runs, or that is a VDEFER or VDRAIN, is not for this step to run. -/
def Coach.vecReady (c : Coach) : Option VecOp :=
  match c.unit with
  | o :: _ => if o.started = false ∧ c.blocked o.seq o.extents = false then some o else none
  | [] => none

/-- A VDEFER takes a deferral entry with its snapshot (R180): the tile, its active positions and its base. DEDUCED: a poisoned
active mask counts as poison of every row, since VDEFER consumes mask poison (R160; log entry 139). -/
def State.snapshot (s : State) (c : Coach) (o : VecOp) (t : BitVec 6) (y : BitVec 3) : DeferEntry :=
  let x := s.quad c.quad
  { seq := o.seq, tile := t, lanes := laneCount y, desc := o.desc, base := word o.desc.base + o.sval, pc := o.pc,
    push := o.push,
    cells := x.tiles.filter (fun e => e.1 / 1024 == opTile t)
    active := x.mask c.maskSel.toNat
    poison := if x.maskPois c.maskSel.toNat then -1#32
      else (List.range 32).foldl (fun m r => if x.rowPois (opTile t) r then m ||| (1#32 <<< r) else m) 0#32
    progress := 0, sent := 0, page := none, hit := none }

/-- The fields of FPROG in an engine fault of the matrix or deferral queue (R467). -/
def progWord (source op prog : Nat) : Word := word (source * 2 ^ 39 + op * 2 ^ 32 + prog)

/-- VECTOR_START (R163, R180): the first instruction of the unit begins. A VDEFER that finds a deferral entry
leaves the unit with its snapshot; poisoned rows park the deferral queue at once. -/
def execVectorStart (quad : Nat) (s : State) : Host.Outcome State Fault Refusal :=
  match s.coach? quad with
  | none => .next s
  | some c =>
    match c.vecReady with
    | none => .next s
    | some o =>
      match o.ins with
      | .vdefer _ t _ _ y =>
        if 4 ≤ c.defer.length then .next s
        else
          let e := s.snapshot c o t y
          let s := s.updCoach quad (fun c => { c with unit := c.unit.drop 1, defer := c.defer ++ [e] })
          if e.poison ≠ 0#32 ∧ c.defer.isEmpty ∧ c.deferPark.isNone then
            .next (s.engineFault quad .defer 9 codePoison e.base (progWord 0 0x64 0) e.pc)
          else .next s
      | .vdrain _ =>
        if c.defer.isEmpty then
          let f := fun (o : VecOp) => { o with started := true }
          .next (s.updCoach quad (fun c => { c with unit := (c.unit.take 1).map f ++ c.unit.drop 1 }))
        else .next s
      | _ =>
        let f := fun (o : VecOp) => { o with started := true }
        .next (s.updCoach quad (fun c => { c with unit := (c.unit.take 1).map f ++ c.unit.drop 1 }))

/-- VECTOR_RETIRE (R161): the instruction that the unit runs takes effect and retires, with its push and flags. A
push that its FIFO has no room for is held (R100). -/
def execVectorRetire (quad : Nat) (s : State) : Host.Outcome State Fault Refusal :=
  match s.coach? quad with
  | none => .next s
  | some c =>
    match c.unit with
    | [] => .next s
    | o :: rest =>
      if o.started = false ∨ c.pushHeld 2 o.push then .next s
      else
        let r := vecOut s c o
        let s := s.applyVec c o r
        let s := s.updCoach quad (fun c =>
          (({ c with unit := rest }).enginePush 2 o.push).stickyOf 2 r.flags)
        .next (if o.extents.isEmpty then s else s.charge c.slice .vectorTile 1)

/-! ## Issue -/

/-- A word of the vector unit, once its operands have been checked. -/
def enterUnit (s : State) (c : Coach) (i : Instr) (k : Tok) (d : Desc) (sval : Word) (spois : Bool)
    (es : List Extent) (precise : Bool) : Res :=
  if 2 ≤ c.unit.length then .wait s .vectorUnit
  else if !es.isEmpty && c.checkerFull then .wait s .checker
  else
    let pc := s.me.pc
    accept s c k precise (fun c seq => { c with unit := c.unit ++
      [{ ins := i, desc := d, sval := sval, spois := spois, pc := pc, push := k.push.toNat, seq := seq,
         extents := es, started := false, loops := s.me.loops }] })

/-- The tile operands that a word names are declared (R145). -/
def tilesDeclared (s : State) (c : Coach) (ts : List (BitVec 6)) : Bool := ts.all (fun t => s.declared c (opTile t))

/-- A vector instruction that names tiles: sources `rd`, destination `wr`, and a scalar that is captured. -/
def vectorForm (fs : List Nat) (i : Instr) (k : Tok) (wr rd : List (BitVec 6)) (sr : BitVec 4) :
    State → Host.Outcome State Fault Refusal :=
  issue (xWord fs true) i k (fun s => withCoach s (fun c =>
    if tilesDeclared s c (wr ++ rd) = false then descFault s codeEngineAccess
    else
      enterUnit s c i k Desc.zero (s.reg sr) (s.pois sr)
        (wr.map (fun t => tileExtent t false true) ++ rd.map (fun t => tileExtent t true false)) false))

/-- A mask word: it does not enter the range checker (R162). -/
def maskForm (i : Instr) (k : Tok) : State → Host.Outcome State Fault Refusal :=
  issue (xWord [] true) i k (fun s => withCoach s (fun c => enterUnit s c i k Desc.zero 0#64 false [] false))

/-- The checks of a tile load, store or deferred store (R177, R180). -/
def tileMoveCheck (s : State) (c : Coach) (d : Desc) (t : BitVec 6) (y : BitVec 3) (spaces : List Nat) (shift : Word) :
    Option Nat :=
  firstFail [(d.check1, codeDescSpace),
    (s.declared c (opTile t) && spaces.contains d.space && d.width == laneWidth y, codeEngineAccess),
    (decide (d.dim0 ≤ 32 * laneCount y) && decide (d.rows ≤ 32) && decide (d.planes ≤ 1) && c.fits d shift,
      codeDescRange)]

/-- VLD, VST and VDEFER. -/
def tileMove (fs : List Nat) (i : Instr) (k : Tok) (t e : BitVec 6) (sr : BitVec 4) (y : BitVec 3) (spaces : List Nat)
    (rd wr precise : Bool) : State → Host.Outcome State Fault Refusal :=
  issue (xWord fs true) i k (fun s => withCoach s (fun c =>
    consume (s.pois sr) s
      (if spaces.contains (c.desc e.toNat).space && (c.desc e.toNat).scopeBad then undefUse s i
      else match tileMoveCheck s c (c.desc e.toNat) t y spaces (s.reg sr) with
      | some code => descFault s code
      | none =>
        let d := c.desc e.toNat
        enterUnit s c i k d (s.reg sr) false
          (tileExtent t rd wr :: d.extentAt (word d.base + s.reg sr).toNat wr rd) precise)))

end Sys2Proof.Machine
end

