-- ==== Sys2Proof/Machine/Matrix.lean ====
section
/-! DEFINITION. Matrix: the matrix words (R184-R201), and the start, progress and retirement of the operations of the
matrix queue (R188-R198, R202, R204-R206). -/

namespace Sys2Proof.Machine

/-! ## The known-answer record (R199, R376) -/

/-- FPROG of KAT_MISMATCH: the marked quadrants, and bits 41:10 of the timestamp of the last pass of the first one. -/
def State.katProg (s : State) (lead : Nat) (marked : BitVec 4) : Word :=
  let q := lead / 4 * 4 + ((List.range 4).find? (fun i => marked.getLsbD i)).getD 0
  word (bits (s.quad q).lastKat 41 10 * 2 ^ 32 + marked.toNat)

/-- A matrix instruction of a coach that has taken KAT_MISMATCH raises it again, with the same FPROG. -/
def afterKat (s : State) (c : Coach) (r : Res) : Res :=
  match c.kat with
  | some prog => .fault s codeKat (some 0#64) (some prog)
  | none => r

/-! ## Issue -/

/-- A matrix operation of the X stream enters the queue once its operands have been checked. -/
def enterMatq (s : State) (c : Coach) (k : Tok) (o : MatOp) (precise : Bool) : Res :=
  if 8 ≤ c.matq.length then .wait s (.matrixQueue 7)
  else if c.checkerFull then .wait s .checker
  else accept s c k precise (fun c seq => c.enterMatrix o seq)

/-- A word of the matrix queue: its check, then its entry. -/
def matrixForm (fs : List Nat) (i : Instr) (k : Tok) (precise : Bool) (check : Coach → Option Nat)
    (entry : Coach → Word → MatOp) : State → Host.Outcome State Fault Refusal :=
  issue (xWord fs true) i k (fun s => withCoach s (fun c => afterKat s c
    (match check c with
    | some code => descFault s code
    | none => enterMatq s c k { entry c s.me.pc with iword := instrWord i } precise)))

/-- Captured operands of MWLD. -/
def mwldOp (c : Coach) (a : BitVec 6) (f : BitVec 3) (pc : Word) (push source : Nat) : MatOp :=
  let d := c.desc a.toNat
  newMatOp opMwld f d Desc.zero Desc.zero (c.scaleOf d) false pc push source

/-- Captured operands of MMA and MMAS. -/
def mmaOp (c : Coach) (op : Nat) (a b d : BitVec 6) (f : BitVec 3) (pc : Word) (push source : Nat) : MatOp :=
  let x := c.desc a.toNat
  newMatOp op f x (c.desc b.toNat) (c.desc d.toNat) (c.scaleOf x) (op == opMmas || b != 0#6) pc push source

/-- The optional descriptor of a field. -/
def Coach.optDesc (c : Coach) (b : BitVec 6) : Option Desc := if b = 0#6 then none else some (c.desc b.toNat)

/-- MWLD: the shadow weight set. -/
def execMwld (k : Tok) (a : BitVec 6) (f : BitVec 3) (s : State) : Host.Outcome State Fault Refusal :=
  matrixForm (familyFeature f) (.mwld k a f) k true (fun c => mwldCheck c (c.desc a.toNat) f)
    (fun c pc => mwldOp c a f pc k.push.toNat 0) s

/-- MMA: a dense product. -/
def execMma (k : Tok) (a b d : BitVec 6) (f : BitVec 3) (s : State) : Host.Outcome State Fault Refusal :=
  matrixForm (familyFeature f) (.mma k a b d f) k true
    (fun c => mmaCheck c (c.desc a.toNat) (c.desc d.toNat) (c.optDesc b) f)
    (fun c pc => mmaOp c opMma a b d f pc k.push.toNat 0) s

/-- MMAS: a product with 2:4 sparse weights. -/
def execMmas (k : Tok) (a b d : BitVec 6) (f : BitVec 3) (s : State) : Host.Outcome State Fault Refusal :=
  matrixForm (12 :: familyFeature f) (.mmas k a b d f) k true
    (fun c => mmasCheck c (c.desc a.toNat) (c.desc b.toNat) (c.desc d.toNat) f)
    (fun c pc => mmaOp c opMmas a b d f pc k.push.toNat 0) s

/-- MGATH: rows gathered into the latch. -/
def execMgath (k : Tok) (a b : BitVec 6) (s : State) : Host.Outcome State Fault Refusal :=
  matrixForm [13] (.mgath k a b) k true (fun c => mgathCheck c (c.desc a.toNat) (c.desc b.toNat) b.toNat)
    (fun c pc => newMatOp opMgath 0#3 (c.desc a.toNat) (c.desc b.toNat) Desc.zero Desc.zero true pc k.push.toNat 0) s

/-- MZERO: accumulator bytes to zero. -/
def execMzero (k : Tok) (d : BitVec 6) (s : State) : Host.Outcome State Fault Refusal :=
  matrixForm [] (.mzero k d) k false (fun c => mzeroCheck c (c.desc d.toNat))
    (fun c pc => newMatOp opMzero 0#3 Desc.zero Desc.zero (c.desc d.toNat) Desc.zero false pc k.push.toNat 0) s

/-- The quadrants of a coach whose tile has another checksum than the one given, as their numbers in the core. -/
def State.katMarked (s : State) (c : Coach) (f : BitVec 3) (seed : Nat) (sum : Word) : BitVec 4 :=
  (c.quads.filter (fun q => katChecksum f seed ^^^ (s.quad q).defect != sum)).foldl
    (fun (m : BitVec 4) q => m ||| (1#4 <<< (q % 4))) 0#4

/-- MKAT (R199): the tile on each quadrant of the coach. The quadrants that pass have had their test; the others are
quarantined. -/
def execMkat (k : Tok) (seed : BitVec 18) (f : BitVec 3) (low high : BitVec 32) (s : State) :
    Host.Outcome State Fault Refusal :=
  issue { xWord (familyFeature f) false with words := 3 } (.mkat k seed f low high) k (fun s => withCoach s (fun c => afterKat s c
    (if !c.matq.isEmpty then .wait s (.matrixQueue 0)
    else
      let marked := s.katMarked c f seed.toNat (high ++ low)
      let prog := s.katProg c.quad marked
      let s := c.quads.foldl (fun s q => s.updQuad q (fun x =>
        if marked.getLsbD (q % 4) then { x with quarantined := true } else { x with lastKat := s.tsc, mustPass := false })) s
      let s := s.updCoach c.quad (fun c => { c with setA := none, setB := none, flip := false })
      if marked = 0#4 then .done (s.updCoach c.quad (fun c => { c with retired := c.retired + 1#64 }))
      else .fault (s.updCoach c.quad (fun c => { c with kat := some prog })) codeKat (some 0#64) (some prog)))) s

/-- A read of the matrix unit's state. -/
def mstatForm (i : Instr) (k : Tok) (d : BitVec 4) (v : Coach → Word) (f : Coach → Coach) :
    State → Host.Outcome State Fault Refusal :=
  issue (xWord [] false) i k (fun s => withCoach s (fun c => afterKat s c
    (writeS d (v c) false (s.updCoach c.quad f))))

/-- MSTAT occupancy. -/
def execMstatOccupancy (k : Tok) (d : BitVec 4) (s : State) : Host.Outcome State Fault Refusal :=
  mstatForm (.mstatOccupancy k d) k d (fun c => word c.matq.length) (fun c => c) s

/-- MSTAT sticky: the read clears the pair. -/
def execMstatSticky (k : Tok) (d : BitVec 4) (s : State) : Host.Outcome State Fault Refusal :=
  mstatForm (.mstatSticky k d) k d (fun c => word (flagNat c.spx + 2 * flagNat c.iov))
    (fun c => { c with spx := false, iov := false }) s

/-- MSTAT retired. -/
def execMstatRetired (k : Tok) (d : BitVec 4) (s : State) : Host.Outcome State Fault Refusal :=
  mstatForm (.mstatRetired k d) k d (fun c => c.retired) (fun c => c) s

/-- MWAIT. -/
def execMwait (k : Tok) (n : BitVec 4) (s : State) : Host.Outcome State Fault Refusal :=
  issue (xWord [] false) (.mwait k n) k (fun s => withCoach s (fun c => afterKat s c
    (if c.matq.length ≤ n.toNat then .done s else .wait s (.matrixQueue n.toNat)))) s

/-! ## The queue's engine -/

/-- The queue may start operations. -/
def State.matrixOpen (s : State) (c : Coach) : Bool := c.matPark.isNone && !c.matFrozen && !c.froze && !s.quiet c

/-- Changing the operation with an acceptance number. -/
def Coach.updMat (c : Coach) (seq : Nat) (f : MatOp → MatOp) : Coach :=
  { c with matq := updateWhere (fun o => o.seq == seq) f c.matq }

/-- An operation is an MMA or MMAS. -/
def MatOp.isMma (o : MatOp) : Bool := o.op == opMma || o.op == opMmas

/-- What must be done before an operation starts (R202): the loads and products before an MMA, which feed the array before
it, and the operation before it of its own kind for the others. -/
def mustFollow (o p : MatOp) : Bool :=
  if o.isMma then p.isMma || p.op == opMwld else p.op == o.op

/-- The next operation of the queue to start, if its conflicts and predecessors let it. -/
def State.nextMat (s : State) (c : Coach) : Option MatOp :=
  match c.matq.find? (fun o => !o.started) with
  | none => none
  | some o =>
    if s.matrixOpen c && !c.blocked o.seq o.extents &&
        (c.matq.filter (fun p => decide (p.seq < o.seq))).all (fun p => p.done || !mustFollow o p) then some o
    else none

/-- The checks of R190. -/
def setFault (o : MatOp) (w : Option WeightSet) : Option Nat :=
  match w with
  | none => some codeEngineAccess
  | some w =>
    if w.family ≠ o.family then some codeEngineAccess
    else if w.kw ≠ (if o.op = opMmas then o.a.dim0 / 2 else o.a.dim0) ∨ w.nw ≠ o.c.dim0 then some codeDescRange
    else none

/-- The queue parks at an operation (R204, R467). -/
def State.matFault (s : State) (quad : Nat) (o : MatOp) (code : Nat) (faddr : Word) (prog : Nat) : State :=
  s.engineFault quad .matrix (streamPart o.stream) code faddr (progWord o.source o.op prog) o.pc

/-- MATRIX_OP_START (R189, R190, R202). A check of R190 that fails is taken once every operation ahead is done, since faults of
one queue are taken in the order of acceptance (R153). -/
def execMatrixOpStart (quad : Nat) (s : State) : Host.Outcome State Fault Refusal :=
  match s.coach? quad with
  | none => .next s
  | some c =>
    match s.nextMat c with
    | none => .next s
    | some o =>
      let start := fun (o : MatOp) => { o with started := true }
      if o.isMma then
        let w := c.nextSet
        match setFault o w with
        | some code =>
          if (c.matq.filter (fun p => decide (p.seq < o.seq))).all (fun p => p.done) then .next (s.matFault quad o code 0#64 0)
          else .next s
        | none =>
          .next (s.updCoach quad (fun c =>
            { c with activeB := c.activeB != c.flip, flip := false }.updMat o.seq (fun o => { start o with set := w })))
      else if o.op = opMwld then
        let kw := if o.a.edge then o.a.dim0 else o.a.rows
        let nw := if o.a.edge then o.a.rows else o.a.dim0
        .next (s.updCoach quad (fun c => c.updMat o.seq (fun o =>
          { start o with set := some (emptySet o.family kw nw o.a.ty o.a.scaled) })))
      else .next (s.updCoach quad (fun c => c.updMat o.seq start))

/-! ## Carriage-queue operands (R206, R425) -/

/-- What an operand on an endpoint finds: rows, nothing yet, or a break. -/
inductive Taken where
  | rows (l : List (BitVec 2048))
  | later
  | broken (code : Nat)
  | breaks

/-- n queue rows from a receive endpoint. -/
def Coach.peekRows (c : Coach) (q seq n : Nat) : Taken :=
  let e := c.endp q
  if e.broken then .broken (e.faultFor seq)
  else if e.bound = false ∨ e.recv = false ∨ c.rowsAhead q seq then .later
  else if e.pastFinal n then .breaks
  else
    match e.ready n with
    | some l => .rows l
    | none => .later

/-- Room for n queue rows at a send endpoint. -/
def Coach.roomFor (c : Coach) (q seq n : Nat) : Taken :=
  let e := c.endp q
  if e.broken then .broken (e.faultFor seq)
  else if e.bound = false ∨ e.recv ∨ c.rowsAhead q seq then .later
  else if e.closed then .breaks
  else if e.canSend n then .rows [] else .later

/-- An operand of an operation: nothing is needed, or queue rows of an endpoint. -/
def Coach.peekDesc (c : Coach) (d : Desc) (seq : Nat) : Taken :=
  if d.space = spCq then c.peekRows d.endpNo seq d.queueRows else .rows []

def Coach.roomDesc (c : Coach) (d : Desc) (seq : Nat) : Taken :=
  if d.space = spCq then c.roomFor d.endpNo seq d.queueRows else .rows []

/-- An endpoint's wait begins, or the endpoint breaks. -/
def State.waitOn (s : State) (quad : Nat) (d : Desc) (t : Taken) : State :=
  match t with
  | .later => s.updEndp quad d.endpNo (fun e => if e.bound then e.startWait s.tsc else e)
  | .breaks => s.breakEndp quad d.endpNo false
  | _ => s

/-- The fault of the first operand that has one. -/
def firstBroken (ts : List Taken) : Option Nat :=
  ts.findSome? (fun t => match t with
    | .broken code => some code
    | _ => none)

def Taken.got (t : Taken) : Option (List (BitVec 2048)) :=
  match t with
  | .rows l => some l
  | _ => none

/-- An operand row, from its buffer or from its queue rows. -/
def State.opRow (s : State) (c : Coach) (d : Desc) (j : Nat) (rs : List (BitVec 2048)) : OpRow :=
  if d.space = spCq then { bits := joinRows rs, pois := false } else s.bufRow c d j

/-- Queue rows of an operand have been used. -/
def State.takeDesc (s : State) (quad : Nat) (d : Desc) : State :=
  if d.space = spCq then s.takeRows quad d.endpNo d.queueRows else s

/-! ## Rows -/

/-- The energy class of a row (R456). -/
def rowClass (f : BitVec 3) : EnergyClass :=
  match f.toNat with
  | 0 => .rowWide
  | 1 => .rowWide
  | 2 => .rowByte
  | 5 => .rowByte
  | _ => .rowNarrow

/-- A row has moved the array on: what stands in its partial sums and skew registers is not for the manual to say (log entry
144). -/
def State.arrayMoves (s : State) (c : Coach) (seq : Nat) : State :=
  let n := s.free
  let s := { s with free := n + c.quads.length }
  let s := c.quads.zipIdx.foldl (fun s q => s.updQuad q.1 (fun x =>
    { x with sums := Config.arraySums (n + q.2), skew := Config.arraySkew (n + q.2) })) s
  s.updCoach c.quad (fun c => c.updMat seq (fun o => { o with phase := Config.arrayPhase n }))

/-- An operation has made progress. -/
def State.matAdvance (s : State) (quad seq total : Nat) (f : MatOp → MatOp) : State :=
  s.updCoach quad (fun c => c.updMat seq (fun o =>
    let o := f { o with progress := o.progress + 1 }
    { o with done := decide (total ≤ o.progress) }))

/-- The next output row of an MMA or MMAS (R193-R196). -/
def State.mmaRow (s : State) (c : Coach) (o : MatOp) : State :=
  let quad := c.quad
  let m := o.progress
  let useB := o.hasB && o.op == opMma
  let bd := if useB then o.b else Desc.zero
  let ta := c.peekDesc o.a o.seq
  let tb := if useB then c.peekDesc o.b o.seq else .rows []
  let tc := c.roomDesc o.c o.seq
  match firstBroken [ta, tb, tc] with
  | some code => s.matFault quad o code 0#64 m
  | none =>
    match o.set, ta.got, tb.got, tc.got with
    | some w, some ra, some rb, some _ =>
      let sc := if o.a.scaled then some (s.bufRow c o.scale m) else none
      let a : ARow := { d := o.a, row := s.opRow c o.a m ra, scale := sc }
      let start : OpRow :=
        if useB then s.opRow c bd m rb
        else if o.c.space = spAcc ∧ o.c.accum then s.bufRow c o.c m
        else { bits := 0, pois := false }
      let r := resultRow o w a start (fun n => s.bufRow c o.b n)
      if o.c.space = spCq ∧ r.2.2 then s.matFault quad o codePoison 0#64 m
      else
        let s := s.takeDesc quad o.a
        let s := if useB then s.takeDesc quad o.b else s
        let s :=
          if o.c.space = spCq then (splitRow o.c.queueRows r.1).foldl (fun s x => s.sendRow quad o.c.endpNo x) s
          else s.writeBuf c .acc (o.c.base + o.c.rowOff m 0) (bytesOfNat o.c.rowBytes r.1) r.2.2
        ((s.matAdvance quad o.seq o.a.rows (fun o => { o with flags := o.flags ||| r.2.1 })).arrayMoves c o.seq).charge c.slice
          (rowClass o.family) c.quads.length
    | _, _, _, _ => ((s.waitOn quad o.a ta).waitOn quad bd tb).waitOn quad o.c tc

/-- The next descriptor row of an MWLD; with the last one come the scales, and the shadow set is complete (R192). -/
def State.mwldRow (s : State) (c : Coach) (o : MatOp) : State :=
  let t := c.peekDesc o.a o.seq
  match t, o.set with
  | .broken code, _ => s.matFault c.quad o code 0#64 0
  | .rows rs, some w =>
    let w := w.load o.a o.progress (s.opRow c o.a o.progress rs)
    let last := decide (o.a.rows ≤ o.progress + 1)
    let w := if last && o.a.scaled then
        (List.range o.scale.rows).foldl (fun w j => w.loadScales o.a.edge o.scale j (s.bufRow c o.scale j)) w
      else w
    let s := (s.takeDesc c.quad o.a).matAdvance c.quad o.seq o.a.rows (fun o => { o with set := some w })
    if last then s.updCoach c.quad (fun c => c.putShadow w) else s
  | t, _ => s.waitOn c.quad o.a t

/-- The next index of an MGATH (R197). -/
def State.mgathRow (s : State) (c : Coach) (o : MatOp) : State :=
  let i := o.progress
  let x := s.bufElem c o.b .abuf i 0 0
  let at_ := word (o.b.bufBase + 2 * i)
  if x.2 then s.matFault c.quad o codePoison at_ i
  else if o.a.rows ≤ x.1 then s.matFault c.quad o codeDescRange at_ i
  else
    let r := s.bufRow c o.a x.1
    let st := gatherStride o.a
    (s.writeBuf c .glatch (i * st) (bytesOfNat st r.bits) r.pois).matAdvance c.quad o.seq o.b.dim0 (fun o => o)

/-- MZERO (R198): a row that it covers in part keeps its poison. -/
def State.mzeroAll (s : State) (c : Coach) (o : MatOp) : State :=
  let n := o.c.extentLen
  (s.writeBuf c .acc o.c.base (List.replicate n 0#8) false).matAdvance c.quad o.seq 1 (fun o => o)

/-- The head of the queue retires (R188): its push, its flags and the sticky pair. -/
def Coach.retireMat (c : Coach) (o : MatOp) (rest : List MatOp) : Coach :=
  let c := { c with
    matq := rest
    retired := c.retired + 1#64
    spx := c.spx || o.flags.getLsbD 6
    iov := c.iov || o.flags.getLsbD 7 }
  (c.enginePush o.stream o.push).stickyOf o.stream o.flags

/-- The first operation that is started and not done. -/
def Coach.runningMat (c : Coach) : Option MatOp := c.matq.find? (fun o => o.started && !o.done)

/-- MATRIX_OP_COMPLETE (R188): a completed head retires; else the oldest running operation goes on by one row. -/
def execMatrixOpComplete (quad : Nat) (s : State) : Host.Outcome State Fault Refusal :=
  match s.coach? quad with
  | none => .next s
  | some c =>
    match c.matq with
    | [] => .next s
    | h :: rest =>
      if h.done then
        if c.pushHeld h.stream h.push then .next s else .next (s.updCoach quad (fun c => c.retireMat h rest))
      else if c.matPark.isSome ∨ c.matFrozen ∨ c.froze then .next s
      else
        match c.runningMat with
        | none => .next s
        | some o =>
          if o.op = opMwld then .next (s.mwldRow c o)
          else if o.op = opMgath then .next (s.mgathRow c o)
          else if o.op = opMzero then .next (s.mzeroAll c o)
          else .next (s.mmaRow c o)

end Sys2Proof.Machine
end

