-- ==== Sys2Proof/Machine/Pull.lean ====
section
/-! DEFINITION. Pull: the start of a page pull (R447), and the migration block's fields (R441). -/

namespace Sys2Proof.Machine

/-- A PULL flit for a page of a slice (R447). -/
def State.sendPull (s : State) (die domain slice page : Nat) : State :=
  s.sendFlit die (mkFlit 13 4 domain (s.node die) (s.migPeer slice)
    (word (1 * 2 ^ 56 + slice * 2 ^ 48 + page % 2 ^ 40)) [])

/-- An access has met a page on its way in: one pull at a time is outstanding for a page. -/
def State.startPull (s : State) (die domain slice page : Nat) : State :=
  if s.pulls.any (fun p => p.domain == domain && p.page == page) then s
  else
    let p : Pull :=
      { die := die, domain := domain, slice := slice, page := page, first := s.tsc, last := s.tsc, got := 0#16,
        data := [], poison := 0#64 }
    { s with pulls := s.pulls ++ [p] }.sendPull die domain slice page

/-- A translation with its outcomes: passed, faulted with code and FPROG, or waiting for a page. -/
inductive Through where
  | ok (s : State) (x : Xlate)
  | fault (s : State) (code : Nat) (prog : Word)
  | page (s : State) (w : Wait)

/-- What a failed translation comes to. -/
def State.stopped (s : State) (w : Who) (e : Stop) : Through :=
  match e with
  | .fault code level page => .fault s code (walkProg level page)
  | .pull page => .page (s.startPull w.die w.domain w.slice page) (.page w.slice page)
  | .walk page kind => .page (s.askWalk w page kind) (.walk w.cluster w.slice page)
  | .line line => .page s (.pendingLine line)

/-- Translation of n bytes of one page of a slice's memory; a passed one leaves its TLB entry and dirty bit, and a
failed one has had what the walk for it came to. -/
def State.through (s : State) (w : Who) (tva n : Nat) (kind : AccessKind) : Through :=
  match s.translate w tva n kind with
  | .ok x => .ok (s.settleXlate x) x
  | .error e => (s.dropEnded w (tva / 4096)).stopped w e

/-- The same for an SPA. -/
def State.through2 (s : State) (w : Who) (spa n : Nat) (kind : AccessKind) : Through :=
  match s.translate2 w spa n kind with
  | .ok x => .ok (s.settleXlate x) x
  | .error e => s.stopped w e

end Sys2Proof.Machine
end

