-- ==== Sys2Proof/Machine/CopyOps.lean ====
section
/-! DEFINITION. CopyOps: the operands of copy commands and their checks (R212-R219, R228, R244), peer tables (R426),
staging slices (R228, R276) and engine watchpoints (R379-R382). -/

namespace Sys2Proof.Machine

/-! ## Staging slices and neighbours -/

/-- The L2 slice (die x 16 + slice) that an L2S descriptor names. -/
def State.l2sSlice (s : State) (slice : Nat) (d : Desc) : Option Nat :=
  (s.physDie slice (bits d.w3 5 4)).map (fun die => die * 16 + bits d.w3 3 0)

/-- ALEN and ABASE of a slice on a die. -/
def State.allotLen (s : State) (die slice : Nat) : Nat := bits (s.pmWord die (0x3F200 + 8 * slice)) 13 8
def State.allotBase (s : State) (die slice : Nat) : Nat := bits (s.pmWord die (0x3F200 + 8 * slice)) 5 0

/-- The staging byte at an offset of a slice's allotment. -/
def State.l2sKey (s : State) (l2 slice off : Nat) : Nat := l2 * 2 ^ 22 + s.allotBase (l2 / 16) slice * 65536 + off

def State.l2sBytes (s : State) (l2 slice off n : Nat) : List Byte :=
  (List.range n).map (fun i => SMap.get zeroByte s.l2s (s.l2sKey l2 slice (off + i)))

def State.l2sPois (s : State) (l2 slice off n : Nat) : Bool :=
  (List.range n).any (fun i => SMap.get noFlag s.l2sPoison (s.l2sKey l2 slice (off + i) / 64))

/-- Writing bytes of one 64-byte line: one that is covered whole takes the data's poison (R371). -/
def State.putL2s (s : State) (l2 slice off : Nat) (bs : List Byte) (p : Bool) : State :=
  let key := s.l2sKey l2 slice off
  let old := SMap.get noFlag s.l2sPoison (key / 64)
  { s with
    l2s := SMap.putAll zeroByte s.l2s key bs
    l2sPoison := SMap.put noFlag s.l2sPoison (key / 64) (if 64 ≤ bs.length then p else p || old) }

/-- The quadrant that a NABUF descriptor names (R244): mapped, of another core of the cluster, and the slice's. -/
def State.neighbour (s : State) (c : Coach) (d : Desc) : Option Nat :=
  match s.virtCore c.slice (quadCore c.quad) with
  | none => none
  | some v =>
    match s.physCore c.slice (v / 4 * 4 + bits d.w3 3 2) with
    | none => none
    | some core =>
      let q := 4 * core + bits d.w3 1 0
      if core ≠ quadCore c.quad ∧ core / 4 = quadCore c.quad / 4 ∧ s.ownsQuad c.slice q then some q else none

/-! ## Peer tables (R416, R426) -/

/-- PCOUNT, PTAB and CQTO of a slice on a die. -/
def State.peerCount (s : State) (die slice : Nat) : Nat := bits (s.sliceFabric die slice 0) 63 53
def State.peerTab (s : State) (die slice : Nat) : Nat := bits (s.sliceFabric die slice 0) 51 0
def State.cqTimeoutMs (s : State) (die slice : Nat) : Nat :=
  let t := bits (s.sliceFabric die slice 1) 15 0
  if t = 0 then 10 else t

/-- A peer-table entry as it was read: its node and grant, nothing valid, a translation fault, or a page on its way. -/
inductive PeerRead where
  | ok (s : State) (node grant : Nat)
  | bad (s : State)
  | fault (code : Nat)
  | page (s : State) (w : Wait)

/-- An entry that keeps its layout. -/
def peerFields (w : Word) : Option (Nat × Nat) :=
  if bit w 63 ∧ bits w 62 42 = 0 ∧ bits w 31 8 = 0 then some (bits w 7 0, bits w 41 32) else none

/-- Reading the entry of a handle, through stage 2 of the slice's domain. A table outside HBM has no valid entry
(log entry 17). -/
def State.readPeer (s : State) (th : ThreadId) (slice handle : Nat) : PeerRead :=
  let spa := s.peerTab (threadDie th) slice + 8 * handle
  match s.through2 (s.whoOf th false) spa 8 .read with
  | .fault _ code _ => .fault code
  | .page s w => .page s w
  | .ok s x =>
    if apertureOf x.dpa ≠ .hbm then .bad s
    else if !x.memSide && s.pendingLine none (x.dpa / 64) then .page s (.pendingLine (x.dpa / 64))
    else
      match peerFields (s.wordAt x.memSide x.dpa) with
      | some p => .ok s p.1 p.2
      | none => .bad s

/-! ## Operand checks -/

/-- Spaces of the roles of R212. -/
def copySources : List Nat := [spGlobal, spAbuf, spAcc, spTile, spL2s, spCq, spNabuf]
def copyTargets : List Nat := [spGlobal, spAbuf, spWbuf, spAcc, spTile, spL2s, spCq]
def plainSources : List Nat := [spGlobal, spAbuf, spAcc, spL2s]
def plainTargets : List Nat := [spGlobal, spAbuf, spWbuf, spAcc, spL2s]

/-- What check 2 asks of a descriptor beyond its space: a declared tile, a mapped die (log entry 18), a neighbour. -/
def copyRole (s : State) (c : Coach) (d : Desc) (spaces : List Nat) : Bool :=
  spaces.contains d.space && (d.space != spTile || s.declared c d.tileNo) &&
    (d.space != spL2s || (s.l2sSlice c.slice d).isSome) && (d.space != spNabuf || (s.neighbour c d).isSome)

/-- Check 3 of a descriptor. -/
def copyPlace (s : State) (c : Coach) (d : Desc) : Bool :=
  d.dim0 != 0 &&
  (if d.space = spNabuf then decide (d.base + d.extentLen ≤ Buf.abuf.size)
  else if d.space = spL2s then
    match s.l2sSlice c.slice d with
    | some l2 => decide (d.base + d.extentLen ≤ s.allotLen (l2 / 16) c.slice * 65536)
    | none => false
  else if d.space = spCq then decide (d.base = 0) && decide (d.perRow ≤ 64)
  else if d.space = spFabric then decide (d.peer < s.peerCount (quadDie c.quad) c.slice) && c.fits d 0#64
  else c.fits d 0#64)

/-- Two operands share a byte of a buffer, a tile register or a staging slice (R214). -/
def shareBytes (s : State) (c : Coach) (a b : Desc) : Bool :=
  let touch := decide (a.bufBase < b.bufBase + b.extentLen) && decide (b.bufBase < a.bufBase + a.extentLen)
  ((bufOf a.space).isSome && bufOf a.space == bufOf b.space && touch) ||
    (a.space == spL2s && b.space == spL2s && s.l2sSlice c.slice a == s.l2sSlice c.slice b && touch)

/-- The beats of a command would reach 2^32 (R211). DESIGN CHOICE: check 3 comes before any index is known, and the beats of
an indexed command are counted as if every index were 0 (log entry 142). -/
def CopyCmd.tooMany (o : CopyCmd) (fuel pos : Nat) : Bool :=
  match fuel with
  | 0 => true
  | fuel + 1 => if o.total ≤ pos then false else o.tooMany fuel (pos + o.beatLen 0 pos)

def CopyCmd.overlong (o : CopyCmd) : Bool := decide (2 ^ 32 ≤ o.total) && o.tooMany (2 ^ 32) 0

/-- TARGET of the policy word. -/
def CopyCmd.target (o : CopyCmd) : Nat := bits (o.pol.setWidth 64) 19 16

/-- A reserved field that is not zero, or an L2 target of 2-15: bits 31:16 are 2 or more (R215). -/
def badPolicy (p : BitVec 32) : Bool := decide (2 ≤ p.toNat / 2 ^ 16)

/-- Spaces of the source and the destination of a data command. -/
def CopyCmd.roles (o : CopyCmd) : List Nat × List Nat :=
  match o.op with
  | 0x44 => (spFabric :: plainSources, spFabric :: plainTargets)
  | 0x45 => (plainSources, plainTargets)
  | 0x46 => ([], plainTargets)
  | 0x47 => ([spGlobal], [])
  | 0x48 => ([spGlobal], [])
  | 0x4A => ([], plainTargets)
  | _ => (copySources, copyTargets)

def CopyCmd.hasSrc (o : CopyCmd) : Bool := o.op != 0x46 && o.op != 0x4A
def CopyCmd.hasDst (o : CopyCmd) : Bool := o.op != 0x47 && o.op != 0x48 && !o.noDst

/-- The number of the index list's descriptor: bits 13:8 of the indexed side's EXTRA (R221). DEDUCED: in every space that
side may lie in, those included for which R141 gives the field no place (log entry 141). -/
def CopyCmd.listNo (o : CopyCmd) : Nat := if o.isGather then o.src.listNo else o.dst.listNo

/-- The index list plays a part: the command is indexed and its field does not name d0, which fails check 3 (R141). -/
def CopyCmd.hasList (o : CopyCmd) : Bool := o.indexed && o.listNo != 0

/-- Check 2: widths, where both sides are named (R213). -/
def CopyCmd.widthsOk (o : CopyCmd) : Bool := !(o.hasSrc && o.hasDst) || o.src.width == o.dst.width

/-- Check 2: CPYH and HFIN move UINT8 (R223, R224). -/
def CopyCmd.hashOk (o : CopyCmd) : Bool :=
  !(o.op == 0x45 || o.op == 0x4A) || ((!o.hasSrc || o.src.ty == tyUINT8) && (!o.hasDst || o.dst.ty == tyUINT8))

/-- Check 2: CPYR has exactly one FABRIC side, of SCOPE FABRIC or wider (R222). -/
def CopyCmd.remoteOk (o : CopyCmd) : Bool :=
  o.op != 0x44 ||
    ((o.src.space == spFabric) != (o.dst.space == spFabric) &&
      [5, 6].contains (if o.src.space = spFabric then o.src else o.dst).scope)

/-- A descriptor whose role lets the command access GLOBAL or FABRIC through it has SCOPE 7. -/
def CopyCmd.scopeBad (o : CopyCmd) : Bool :=
  let bad := fun (l : List Nat) (d : Desc) => l.contains d.space && d.scopeBad
  (o.hasSrc && bad o.roles.1 o.src) || (o.hasDst && bad o.roles.2 o.dst) || (o.hasList && bad [spGlobal] o.list)

/-- Check 2: TARGET 1 joins an L2S operand with a GLOBAL one (R217). -/
def CopyCmd.targetOk (o : CopyCmd) : Bool :=
  o.target == 0 || (o.hasSrc && o.hasDst &&
    ((o.src.space == spL2s && o.dst.space == spGlobal) || (o.src.space == spGlobal && o.dst.space == spL2s)))

/-- Check 2: a CQ operand stands on one side only, with policy register s0 (R212). -/
def CopyCmd.queueOk (o : CopyCmd) (polReg : BitVec 4) : Bool :=
  let a := o.hasSrc && o.src.space == spCq
  let b := o.hasDst && o.dst.space == spCq
  !(a && b) && (!(a || b) || polReg == 0#4)

/-- Check 2: the index list (R221). -/
def CopyCmd.listOk (o : CopyCmd) : Bool :=
  !o.hasList || ((o.list.space == spAbuf || o.list.space == spGlobal) && (o.list.ty == tyINT16 || o.list.ty == tyINT32))

/-- The endpoint state that a CQ operand needs: 1 to send, 2 to receive. -/
def CopyCmd.endpOk (o : CopyCmd) (c : Coach) : Bool :=
  match o.kind with
  | .send => (c.endp o.endp).accepted == 1
  | .recv => (c.endp o.endp).accepted == 2
  | _ => true

/-- Check 3: no row of a command that sends or takes queue rows is longer than 16 KiB (R422). -/
def CopyCmd.rowsShort (o : CopyCmd) : Bool :=
  match o.kind with
  | .send => decide (o.src.rowBytes ≤ 16384)
  | .recv => decide (o.dst.rowBytes ≤ 16384)
  | _ => true

/-- Check 3: the count (R213, R221, R224, R225, R422). -/
def CopyCmd.countOk (o : CopyCmd) : Bool :=
  o.rowsShort && if o.indexed then
    o.listNo != 0 && o.src.dim0 == o.dst.dim0 && decide (o.count ≤ o.list.count) &&
      decide (o.count ≤ (if o.isGather then o.dst else o.src).flatRows)
  else
    match o.kind with
    | .send => decide (o.count ≤ o.src.flatRows)
    | .recv => decide (o.count ≤ o.dst.flatRows)
    | .fin => decide (1 ≤ o.count) && decide (o.count ≤ 512)
    | .fill => true
    | _ => (!o.hasSrc || decide (o.count ≤ o.src.count)) && (!o.hasDst || decide (o.count ≤ o.dst.count))

/-- The checks of a data command, CPY to HFIN (R42). -/
def copyCheck (s : State) (c : Coach) (o : CopyCmd) (polReg : BitVec 4) : Option Nat :=
  firstFail [
    ((!o.hasSrc || o.src.check1) && (!o.hasDst || o.dst.check1) && (!o.hasList || o.list.check1), codeDescSpace),
    ((!o.hasSrc || copyRole s c o.src o.roles.1) && (!o.hasDst || copyRole s c o.dst o.roles.2) && o.widthsOk &&
      o.hashOk && o.remoteOk && o.targetOk && o.queueOk polReg && o.listOk && o.endpOk c, codeEngineAccess),
    ((!o.hasSrc || copyPlace s c o.src) && (!o.hasDst || copyPlace s c o.dst) &&
      (!o.hasList || copyPlace s c o.list) && !(o.hasSrc && o.hasDst && shareBytes s c o.src o.dst) && o.countOk &&
      !o.overlong, codeDescRange)]

/-- Range-checker entries (R147). -/
def CopyCmd.checker (o : CopyCmd) : List Extent :=
  (if o.hasSrc then o.src.extent true false else []) ++ (if o.hasDst then o.dst.extent false true else []) ++
    (if o.hasList then o.list.extent true false else [])

/-- The checks of CQSEND and CQRECV; `d` holds the rows (R422). -/
def rowCheck (s : State) (c : Coach) (d : Desc) (q want count : Nat) (spaces : List Nat) : Option Nat :=
  firstFail [(d.check1, codeDescSpace),
    ((c.endp q).accepted == want && copyRole s c d spaces, codeEngineAccess),
    (copyPlace s c d && decide (count ≤ d.flatRows) && decide (d.rowBytes ≤ 16384), codeDescRange)]

/-- A command's circuits are those of a CQBIND. -/
def bindCircs (v : Word) : List (BitVec 16) := [v.setWidth 16, (v >>> 16).setWidth 16]

/-- The circuits of an endpoint in the state that the accepted commands will leave (R419). -/
def Coach.circsAccepted (c : Coach) (q : Nat) : List (BitVec 16) :=
  let e := c.endp q
  c.copyq.foldl (fun cs o =>
    if o.endp? ≠ some q then cs
    else match o.kind with
      | .bind => bindCircs o.cval
      | .unbind => []
      | _ => cs) (if e.bound then [e.circA, e.circB] else [])

/-- A circuit is bound by an endpoint of the part: one of the issuing coach in the accepted state (R419), one of another coach now or by
a command that it has accepted (R420). -/
def State.circuitTaken (s : State) (me : Nat) (circ : BitVec 16) : Bool :=
  s.coaches.any (fun c => (List.range 8).any (fun q =>
    let e := c.endp q
    (c.circsAccepted q).contains circ || (c.quad != me && e.bound && (e.circA == circ || e.circB == circ))))

/-- The slots that a circuit needs (R420): for send with the coach's cluster as input, for receive in its table. -/
def State.circuitOwned (s : State) (c : Coach) (recv : Bool) (circ : Nat) : Bool :=
  let die := quadDie c.quad
  if recv then s.ownsEject die c.slice (8 + dieCluster c.quad) circ
  else s.ownsSlot die c.slice (8 + dieCluster c.quad) circ slotTables

/-- The checks of CQBIND, in their order (R420). The second circuit 0xFFFF stands for none. -/
def bindCheck (s : State) (c : Coach) (d : Desc) (q : Nat) (recv : Bool) (v : Word) : Option Nat :=
  let a := bits v 15 0
  let b := bits v 31 16
  let circs := if b = 0xFFFF then [a] else [a, b]
  firstFail [(d.check1, codeDescSpace), ((c.endp q).accepted == 0, codeEngineAccess),
    (d.space == spFabric, codeEngineAccess),
    (decide (d.peer < s.peerCount (quadDie c.quad) c.slice), codeDescRange),
    (bits v 63 32 == 0 && a != 0xFFFF && a != b, codeDescRange),
    (circs.all (fun x => s.circuitOwned c recv x && !s.circuitTaken c.quad (BitVec.ofNat 16 x)), codeSlotTable)]

end Sys2Proof.Machine
end

