-- ==== Sys2Proof/Machine/HomeEvents.lean ====
section
/-! DEFINITION. HomeEvents: what homes, memory-side units, cache ways, scrubbers and walks do on their own (R271,
R274, R278-R284, R288, R294-R296, R303, R328, R375). -/

namespace Sys2Proof.Machine

/-! ## Writes and reads of the hardware itself -/

/-- Bytes written directly at their homes (R113): the caches of the cores lose the lines. -/
def State.hwWrite (s : State) (dpa : Nat) (bs : List Byte) : State :=
  (linePieces dpa bs.length).foldl (fun s p =>
    s.writeDirect (p.1 / 64) (lineData (p.1 % 64) ((bs.drop (p.1 - dpa)).take p.2)) (lineMask (p.1 % 64) p.2)
      evictNormal noCopy none) s

/-- Committed bytes. -/
def State.hwRead (s : State) (dpa n : Nat) : List Byte := (List.range n).map (fun i => s.byteAt (dpa + i))

/-- Poison of committed bytes. -/
def State.hwPois (s : State) (memSide : Bool) (dpa n : Nat) : Bool :=
  (List.range n).any (fun i => if memSide then s.hbmPois (dpa + i) else s.linePois (dpa + i))

/-- A record of a unit that is no master. What the manual states no value for is free (log entry 6). -/
def State.postUnit (s : State) (code : Nat) (eng : Bool) (handle : Option (BitVec 24)) (epc faddr fprog : Option Word)
    (vtag : BitVec 16) (place : Option (Nat × Nat)) (level die : Nat) : State :=
  let h := s.orFree (handle.map (fun h => h.setWidth 64))
  let e := h.1.orFree epc
  let a := e.1.orFree faddr
  let p := a.1.orFree fprog
  let w := p.1.orFree (place.map (fun x => word (x.1 + 64 * x.2)))
  w.1.post (mkRecord w.1 (h.2.setWidth 24) e.2 code eng a.2 p.2 vtag (w.2.toNat % 64) (w.2.toNat / 64 % 16)) level die

/-! ## Applying requests -/

/-- A request that has not met anything: it is applied, or leaves for another part or the host, when its turn has come. A release
at SYSTEM scope is preceded by a read that flushes its thread's posted writes to the host (R315). -/
def State.takeTurn (s : State) (id : Nat) (p : HomeReq → Bool) : State :=
  match s.homeq.find? (fun r => r.id == id) with
  | none => s
  | some r =>
    if !p r || !s.inOrder r then s
    else
      match (if r.release = some 6 then s.flushHost r.by_ (fun path => path == r.path) else none) with
      | some f => f.1
      | none =>
        if apertureOf (64 * r.line) = .hbm then s.applyReq r
        else if r.tag.any (fun t => (s.currentAttempt t).isNone) then s.dropReq r.id
        else s.sendOut r

/-- A launch's write that its cocoon stages, unless it escapes. -/
def HomeReq.staging (r : HomeReq) : Bool := r.atom.isNone && r.tag.isSome && !r.direct

/-- HOME_ACCESS (R274). -/
def execHomeAccess (req : Nat) (s : State) : Host.Outcome State Fault Refusal :=
  .next (s.takeTurn req (fun r => r.atom.isNone && !r.staging))

/-- STAGE_REQUEST (R288). -/
def execStageRequest (req : Nat) (s : State) : Host.Outcome State Fault Refusal :=
  .next (s.takeTurn req (fun r => r.staging))

/-- A waiting request comes after another that shares an owner and may go. -/
def State.behind (s : State) (w : WaitReq) : Bool :=
  (s.waiting.takeWhile (fun x => x.req.id != w.req.id)).any (fun x =>
    s.mayRetry x && x.owners.any (fun o => w.owners.contains o))

/-- An atomic that waited at its home is tried again: it is performed and answered, or waits on (R117, R296). -/
def State.retryAtom (s : State) (r : HomeReq) (a : HomeAtom) : State :=
  let answer := fun (s : State) =>
    let x := s.homeAtom r a
    (x.1.dropReq r.id).giveReply r.by_ (bytesOfNat a.bytes x.2.1) x.2.2
  let held := s.pendingOwners (r.tag.map (fun t => t.1)) r.line
  if !held.isEmpty then s.await r held
  else
    match r.tag with
    | none => answer s
    | some t =>
      match s.currentAttempt t with
      | none => s.dropReq r.id
      | some l =>
        match s.admitWrite l r.line r.mask with
        | .go s => answer s
        | .wait s owners => s.await r owners
        | .gone s => s.dropReq r.id

/-- CONFLICT_WAIT_APPLY (R294, R296): a waiting write or atomic is tried again, a waiting read or claim goes on. -/
def execConflictWaitApply (req : Nat) (s : State) : Host.Outcome State Fault Refusal :=
  match s.waiting.find? (fun w => w.req.id == req) with
  | none => .next s
  | some w =>
    if s.mayRetry w = false ∨ s.behind w then .next s
    else
      match w.req.atom with
      | some a => .next (s.retryAtom w.req a)
      | none => .next (if w.req.mask = 0#64 then s.dropReq req else s.applyReq w.req)

/-! ## Cycles of waiting launches (R295) -/

/-- The launches on which a launch waits. -/
def State.waitOwners (s : State) (tag : Nat) : List Nat :=
  (s.waiting.filter (fun w => (w.req.tag.map (fun t => t.1)) == some tag)).flatMap (fun w =>
    (w.owners.filter (fun o => decide (o < 2 ^ 17) && !s.resolved o)).map (fun o => o % 4096))

/-- The launches that a chain of owners reaches. -/
def State.waitReach (s : State) (fuel : Nat) (seen : List Nat) : List Nat :=
  match fuel with
  | 0 => seen
  | fuel + 1 => s.waitReach fuel (seen ++ (seen.flatMap s.waitOwners).filter (fun o => !seen.contains o))

/-- The youngest of some launches. -/
def youngest (ls : List Launch) : Option Launch :=
  ls.foldl (fun m x => match m with
    | none => some x
    | some y => if y.older x then some x else some y) none

/-- WAIT_CYCLE_CHECK (R295): a launch that has waited for 100 us in a chain that comes back to it. -/
def execWaitCycleCheck (tag : Nat) (s : State) : Host.Outcome State Fault Refusal :=
  if s.waiting.any (fun w => (w.req.tag.map (fun t => t.1)) == some tag &&
      decide (100000 ≤ (s.tsc - w.since).toNat)) = false then .next s
  else
    let n := s.launches.length
    let reach := fun t => s.waitReach n (s.waitOwners t)
    if (reach tag).contains tag = false then .next s
    else
      let cycle := s.launches.filter (fun l => (reach tag).contains l.tag && (reach l.tag).contains tag)
      match youngest cycle with
      | none => .next s
      | some l =>
        let other := ((s.waitOwners l.tag).head?.map s.vtag).getD 0#16
        .next (s.abortLaunch l.tag codeTxConflict other 0#13)

/-! ## Memory-side atomic units (R278) -/

/-- An atomic at a unit: the new value, and the old one with its poison; an acquire's SCOPEX is found here (R322). -/
def State.sideAtomic (s : State) (r : HomeReq) (a : HomeAtom) : State × Nat × Bool :=
  let dpa := 64 * r.line + a.off
  let old := s.atomOld none true dpa a.bytes
  let pois := s.viewPois none true dpa a.bytes
  let new := (atomNew a.op a.bytes old a.v a.cmp).1
  let t := (s.writeSide r.line (lineData a.off (bytesOfNat a.bytes new)) (lineMask a.off a.bytes) r.rel).dropReq r.id
  (t.scopeFlag s r.by_ a.sem a.scope none dpa a.bytes, old, pois)

/-- MEMORY_SIDE_ATOMIC (R278): the unit performs an atomic and answers. An attempt that is gone is not served. -/
def execMemorySideAtomic (req : Nat) (s : State) : Host.Outcome State Fault Refusal :=
  match s.homeq.find? (fun r => r.id == req) with
  | none => .next s
  | some r =>
    match r.atom with
    | none => .next s
    | some a =>
      if s.inOrder r = false then .next s
      else if (r.tag.map (fun t => (s.currentAttempt t).isNone)).getD false then .next (s.dropReq req)
      else
        let x := s.sideAtomic r a
        .next (x.1.giveReply r.by_ (bytesOfNat a.bytes x.2.1) x.2.2)

/-! ## Merging committed lines (R275, R303) -/

/-- A slot of a tag's die waits for a tag: its COMMITTED tags are merged ahead (R285). -/
def State.tagWanted (s : State) (tag : Nat) : Bool := (s.die (tagDie tag)).slots.any (fun e => e.2.noTag)

/-- STAGED_MERGE (R303): one committed line leaves the cocoon and enters the cache ways under its class. -/
def execStagedMerge (tag : Nat) (s : State) : Host.Outcome State Fault Refusal :=
  if s.tagWanted tag = false ∧ s.staged.any (fun e => e.committed && s.tagWanted e.tag) then .next s
  else
  match s.staged.find? (fun e => e.tag == tag && e.committed) with
  | none => .next (s.freeTag tag)
  | some e => .next (s.mergeEntry e)

/-! ## Way changes (R271) -/

/-- Every line in a way of a die is written back where it is dirty, and leaves it. -/
def State.emptyWay (s : State) (die w : Nat) : State :=
  (s.cache.filter (fun c => homeDie (64 * c.line) == die && c.way == w)).foldl State.dropLine s

/-- No staged line stands in a cocoon way of a die. -/
def State.cocoonEmpty (s : State) (die w : Nat) : Bool :=
  s.staged.all (fun e => e.overflow || homeDie (64 * e.line) != die || e.way != w)

/-- The ways that change class when the counts change, ascending, each with its old and new class (old x 4 + new). -/
def wayMoves (c0 s0 c1 s1 : Nat) : List (Nat × Nat) :=
  ((List.range 15).map (fun i => i + 1)).filterMap (fun w =>
    if wayClass c0 s0 w = wayClass c1 s1 w then none else some (w, 4 * wayClass c0 s0 w + wayClass c1 s1 w))

/-- Staging bytes beyond the staging ways are discarded. -/
def State.cutStaging (s : State) (die ways : Nat) : State :=
  let keep := fun (e : Nat) => e / 2 ^ 26 != die || decide (e % 2 ^ 22 < ways * 2 ^ 18)
  { s with
    l2s := s.l2s.filter (fun e => keep e.1)
    l2sPoison := s.l2sPoison.filter (fun e => keep (e.1 * 64)) }

/-- A way changes class. -/
def State.moveWay (s : State) (die w cls : Nat) : State :=
  s.updDie die (fun d => { d with ways := SMap.put wayReset d.ways w cls })

/-- WAY_MOVE (R271): the next way changes class, a cache way emptied first, a cocoon way only when nothing is staged in it; PEND
clears after the last. -/
def execWayMove (die : Nat) (s : State) : Host.Outcome State Fault Refusal :=
  match (s.die die).moves with
  | [] => .next s
  | m :: ms =>
    if m.2 / 4 = 1 ∧ s.cocoonEmpty die m.1 = false then .next s
    else
      let s := if m.2 / 4 = 0 then s.emptyWay die m.1 else s
      let s := (s.moveWay die m.1 (m.2 % 4)).updDie die (fun d => { d with moves := ms })
      if ms.isEmpty then
        .next ((s.cutStaging die (bits (s.pmWord die 0x3F100) 7 4)).pmSetBits die 0x3F100 8 8 0)
      else .next s

/-! ## Repair and scrubbing (R279-R284) -/

/-- The repair log of a die (R282). DESIGN CHOICE: with REPLOG outside HBM no entry is written (log entry 156). -/
def State.logRepair (s : State) (die sector cause : Nat) : State :=
  let n := bits (s.pmWord die 0x3F118) 31 0
  let base := bits (s.pmWord die 0x3F110) 51 0
  let entry := bytesOfNat 8 (sector + cause) ++ bytesOf8 s.tsc
  let s := if base ≠ 0 ∧ apertureOf base = .hbm then s.hwWrite (base + 16 * (n % 65536)) entry else s
  (s.pmSetBits die 0x3F118 31 0 (n + 1)).latchOperators 4#4

/-- A sector is repaired, or the refusal is logged when its home slice's entries are all used (R281). -/
def State.repairSector (s : State) (dpa cause : Nat) : State :=
  let sector := dpa / 64 * 64
  if apertureOf sector ≠ .hbm ∨ s.repair.any (fun r => r.1 == sector) then s
  else if 4096 ≤ (s.repair.filter (fun r => homeDie r.1 == homeDie sector && homeSlice r.1 == homeSlice sector)).length then
    s.logRepair (homeDie sector) sector 3
  else { s with repair := s.repair ++ [(sector, cause)] }.logRepair (homeDie sector) sector cause

/-- UE_DETECTED to level O, with an address where the manual names one (R280, R375). -/
def State.ueToO (s : State) (faddr : Option Word) (die : Nat) : State :=
  s.postUnit codeUe false none none faddr none 0#16 none 80 die

/-- A line of HBM is found uncorrectable: HBM holds it poisoned, the sector is repaired, and UE_DETECTED goes to level O with its
DPA (R280, R281, R283). What the cache ways or the cocoon hold above it stands (log entry 76). -/
def State.lineUe (s : State) (line : Nat) : State :=
  ((s.putHbmPois line true).repairSector (64 * line) 0).ueToO (some (word (64 * line))) (homeDie (64 * line))

/-- A corrected error: the second of a sector within 24 hours repairs it (R281). -/
def State.lineCorrected (s : State) (line : Nat) : State :=
  let again := s.eccSeen.any (fun e => e.1 == line && decide ((s.tsc - e.2).toNat < 86400 * 10 ^ 9))
  let s := { s with eccSeen := (line, s.tsc) :: s.eccSeen.filter (fun e => e.1 != line) }
  if again then s.repairSector (64 * line) 1 else s

/-- SCRUB_LINE (R283): the repair way and a die with SCRUBEN clear are left alone. -/
def execScrubLine (line : Nat) (found : EccOutcome) (s : State) : Host.Outcome State Fault Refusal :=
  let dpa := 64 * line
  if apertureOf dpa ≠ .hbm ∨ bit (s.pmWord (homeDie dpa) 0x3F108) 0 = false ∨ s.repaired line then
    .next s
  else
    match found with
    | .clean => .next s
    | .corrected => .next (s.lineCorrected line)
    | .uncorrectable => .next (s.lineUe line)

/-- SCRUB_RATE_EVAL (R284): the factor m of a stack's scrub pass. -/
def execScrubRateEval (stack tempC corrected : Nat) (s : State) : Host.Outcome State Fault Refusal :=
  let mT := if tempC < 75 then 1 else if tempC < 85 then 2 else if tempC < 95 then 4 else 6
  let mE := if corrected = 0 then 1 else if corrected < 16 then 2 else 4
  .next (s.updDie (stack / 2 % 4) (fun d => { d with
    scrubBoost := SMap.put (fun _ => 1) d.scrubBoost (stack % 2) (Nat.min 12 (mT * mE)) }))

/-! ## Walks and watchdogs -/

/-- The die of a translation cluster: 0-31 the coaches', 32-35 the dies' own. -/
def clusterDie (cluster : Nat) : Nat := if cluster < 32 then cluster / 8 else cluster % 4

/-- The identity of a walk in a walker. -/
def State.walkWho (s : State) (cluster slice : Nat) : Who :=
  { die := clusterDie cluster, cluster := cluster, slice := slice, domain := s.sliceDomain (clusterDie cluster) slice, plain := true }

/-- A walker has done with a walk: the next miss may take it. -/
def State.endWalk (s : State) (x : Walk) (ended : Bool) : State :=
  let rest := s.walks.filter (fun y => y != x)
  ({ s with walks := if ended then rest ++ [{ x with running := false, ended := true }] else rest }).giveWalker x.cluster

/-- PAGE_WALK (R247, R328, R332): a walk that is in a walker ends. One that passes leaves its entries; one that meets a page on its
way starts the pull; a fault is taken by the access when it is made again. A table line with a PENDING entry keeps the walk
waiting. -/
def execPageWalk (cluster slice : Nat) (tva : Word) (kind : AccessKind) (s : State) :
    Host.Outcome State Fault Refusal :=
  let w := s.walkWho cluster slice
  match s.walks.find? (fun x => x.running && x.isFor cluster slice (tva.toNat / 4096)) with
  | none => .next s
  | some x =>
    if x.ue then .next (s.endWalk x true)
    else
      match s.walkNow w tva.toNat 1 kind with
      | .ok y =>
        match y.entry with
        | some e => .next (((s.fillWalkCache w tva.toNat (e.spa * 4096)).settleXlate { y with near := some x.quad, setD := none }).endWalk x false)
        | none => .next (s.endWalk x false)
      | .error (.line _) => .next s
      | .error (.pull page) => .next ((s.endWalk x true).startPull w.die w.domain slice page)
      | .error _ => .next (s.endWalk x true)

/-- WATCHDOG_EXPIRY (R375): UE_DETECTED to level O, and the launch of the unit aborts. -/
def execWatchdogExpiry (unit : WatchUnit) (s : State) : Host.Outcome State Fault Refusal :=
  match unit with
  | .sequencer q =>
    let s := s.postUnit codeUe false none none none none 0#16 none 80 (quadDie q)
    match s.coachHolding q with
    | some c => .next (s.abortLaunch c.tag codeUe 0#16 0#13)
    | none => .next s
  | .drayStrand d k => .next (s.postUnit codeUe false (some (threadHandle (.dray d k))) none none none 0#16 none 80 d)
  | .walker d => .next (s.postUnit codeUe false none none none none 0#16 none 80 d)
  | .linkEngine p => .next (s.postUnit codeUe false none none none none 0#16 none 80 (p / 4))

end Sys2Proof.Machine
end

