-- ==== Sys2Proof/Machine/Loads.lean ====
section
/-! DEFINITION. Loads: the shared parts of loads, stores, atomics and fences of strands and streams (R110-R119,
R267, R308-R322, R381-R383, R437, R438), and the scalar accesses to buffers (R114). -/

namespace Sys2Proof.Machine

/-! ## Coach watchpoints (R379, R381-R383) -/

/-- The coach entry that an access hits: its number, the touched and watched bytes, and the address of its range. -/
def State.coachWatch (s : State) (c : Coach) (a n : Nat) (kind : AccessKind) : Option (Nat × BitVec 16 × Nat) :=
  (List.range 4).findSome? (fun k =>
    let w0 := s.pmWord (quadDie c.quad) (0x3C000 + 64 * c.slice + 16 * k)
    let w1 := s.pmWord (quadDie c.quad) (0x3C000 + 64 * c.slice + 16 * k + 8)
    let base := bits w0 51 0 * 16
    let on :=
      match kind with
      | .read => bit w0 62
      | .write => bit w0 61
      | .atomic => bit w0 60
    let hit := (List.range 16).foldl (fun (m : BitVec 16) i =>
      if bit w1 i && decide (a ≤ base + i) && decide (base + i < a + n) then m ||| (1#16 <<< i) else m) 0#16
    if bit w0 63 && on && hit != 0#16 then some (k, hit, base) else none)

/-- FADDR and FPROG of WATCH_PRECISE; nothing matches under the skip latch. -/
def State.watchFault (s : State) (va : Word) (n : Nat) (kind : AccessKind) (lane : Nat) : Option (Word × Word) :=
  if s.me.skip then none
  else
    (s.myCoach?.bind (fun c => s.coachWatch c va.toNat n kind)).map (fun h =>
      let low := ((List.range 16).find? (fun i => h.2.1.getLsbD i)).getD 0
      (word (h.2.2 + low), word (h.2.1.toNat * 2 ^ 48 + h.1 * 2 ^ 44 + lane)))

/-! ## What an access must wait for (R112, R121, R123, R312, R313) -/

/-- The posted write that an access comes after: one of its agent, class and path (R313), or one of the same bytes that it must
not pass (R112, R319). -/
def State.mustWait (s : State) (th : ThreadId) (cls path line : Nat) (mask : BitVec 64) (p : HomeReq → Bool) : Option Nat :=
  (s.unapplied.find? (fun r => r.open_ && ((r.by_ == th && r.cls == cls && r.path == path) ||
    (r.line == line && r.mask &&& mask != 0#64 && p r)))).map (fun r => r.id)

/-- The writes that an access which reads at the home must not pass: its agent's own and those that happen before it. -/
def State.ownOrBehind (s : State) (th : ThreadId) (r : HomeReq) : Bool := r.by_ == th || s.isBehind th r.id

/-- The same for an atomic: nor those whose bytes its core may have read already (R310, R312). -/
def State.beforeAtomic (s : State) (th : ThreadId) (r : HomeReq) : Bool :=
  s.ownOrBehind th r || (r.near && !onDray th && quadCore (threadQuad r.by_) == quadCore (threadQuad th))

/-- The store to another part that an access on path Q comes after: of its agent, and of its class or its line; or one that
happens before it (R112, R313, R319). -/
def State.remoteFirst (s : State) (th : ThreadId) (cls path dpa : Nat) : Option Nat :=
  if path ≠ 4 then none
  else
    (s.remote.find? (fun r => match r.who with
      | .store t c id =>
        (t == th && (c == cls || r.fl.h1.toNat % 2 ^ 42 / 64 == fabricAddr dpa / 64)) || s.isBehind th id
      | _ => false)).map (fun r => r.tag)

/-- Every class. -/
def allClasses : BitVec 16 := 0xFFFF#16

/-- Paths P, A and Q of a mask: those of scalar accesses. -/
def scalarPaths : BitVec 5 := 0b11001#5

/-- What a release or fence at a scope has still to wait for: among its agent's writes of some classes and paths, and those that
happen before them (R315-R319): a write at its home, which at COACH and CORE scope may stand in the core's L1 instead; a write
in another part; or, for the host, a read that flushes. -/
def State.fenceWait (s : State) (th : ThreadId) (cls : BitVec 16) (paths : BitVec 5) (scope : Nat) :
    Option (State × Wait) :=
  match s.unapplied.find? (fun r => r.open_ &&
      ((r.by_ == th && cls.getLsbD r.cls && paths.getLsbD r.path) || s.isBehind th r.id) &&
      !(decide (scope ≤ 1) && r.near)) with
  | some r => some (s, .home r.id)
  | none =>
    match s.remote.find? (fun r => match r.who with
        | .store t c id => (t == th && cls.getLsbD c && paths.getLsbD 4) || s.isBehind th id
        | _ => false) with
    | some r => some (s, .remote r.tag)
    | none =>
      if scope ≠ 6 then none else (s.flushHost th (fun p => paths.getLsbD p)).map (fun r => (r.1, .host r.2))

/-! ## Before an access -/

/-- What a failed translation is to the running thread. -/
def stopRes (s : State) (va : Nat) (e : Stop) : Res :=
  match (s.dropEnded (s.whoOf s.cur true) (va / 4096)).stopped (s.whoOf s.cur true) e with
  | .fault s code prog => .fault s code (some (word va)) (some prog)
  | .page s w => .wait s w
  | .ok s _ => .done s

/-- The first piece of an access that cannot be translated now. -/
def State.probe (s : State) (kind : AccessKind) (ps : List (Nat × Nat)) : Option Res :=
  match ps with
  | [] => none
  | p :: ps =>
    match s.resolve s.cur (word p.1) p.2 kind true with
    | .ok _ => s.probe kind ps
    | .error e => some (stopRes s p.1 e)

/-- An address that a coach cannot name (R110): of its FPROG the manual leaves the level open (R328). -/
def vaFault (s : State) (va : Word) (r : Res) : Res :=
  if onDray s.cur = false ∧ 2 ^ 56 ≤ va.toNat then
    .fault s codeS1NotPresent (some va) (some (walkProg (Config.rangeLevel va.toNat).toNat 0))
  else r

/-- The checks of an access that has had no effect yet: every page, then the coach's watchpoints (R110, R381). -/
def State.clearTo (s : State) (va : Word) (n : Nat) (kind : AccessKind) (go : Res) : Res :=
  match s.probe kind (linePieces va.toNat n) with
  | some r => r
  | none =>
    match s.watchFault va n kind 0 with
    | some f => .fault s codeWatchPrecise (some f.1) (some f.2)
    | none => go

/-! ## Reading -/

/-- Poison of bytes of private memory. -/
def State.pmPois (s : State) (die a n : Nat) : Bool :=
  (List.range n).any (fun i => SMap.get noFlag (s.die die).pmPoison ((a + i) / 8))

/-- Bytes come for the running thread's word. -/
def State.addReply (s : State) (bs : List Byte) (p : Bool) : State :=
  s.updMe (fun st => { st with reply := st.reply ++ bs, replyPoison := st.replyPoison || p })

/-- A posted store whose bytes stand in the ways of a coach and belong to its launch: the coach's agents read them (R312). -/
def State.shown (s : State) (c : Coach) (r : HomeReq) : Bool :=
  r.near && r.tag == s.attemptOf (.coach c.quad 0) && !onDray r.by_ && (s.l1Ways c).contains (threadQuad r.by_)

/-- Requests in the order in which they set out. -/
def insertReq (r : HomeReq) (l : List HomeReq) : List HomeReq :=
  match l with
  | [] => [r]
  | x :: l => if r.id < x.id then r :: x :: l else x :: insertReq r l

/-- The posted stores of a line whose bytes a thread of a coach reads before they are applied: its own (R112) and those in its
ways. -/
def State.readOver (s : State) (c : Coach) (th : ThreadId) (line : Nat) : List HomeReq :=
  (s.unapplied.filter (fun r => r.open_ && r.atom.isNone && r.path == 0 && r.line == line &&
    (r.by_ == th || s.shown c r))).foldr insertReq []

/-- A line as a launch, or an agent outside launches, sees it, and the poison of its bytes. -/
def State.viewLine (s : State) (tag : Option Nat) (line : Nat) : BitVec 512 × BitVec 64 :=
  (BitVec.ofNat 512 (natOfBytes (s.viewBytes tag false (64 * line) 64)),
    (List.range 64).foldl (fun m i => if s.viewPois tag false (64 * line + i) 1 then m ||| (1#64 <<< i) else m) 0#64)

/-- Posted stores over a line. -/
def State.overLine (s : State) (rs : List HomeReq) (v : BitVec 512 × BitVec 64) : BitVec 512 × BitVec 64 :=
  rs.foldl (fun v r => (overlay v.1 r.data r.mask, v.2 &&& ~~~ (s.stagedBits r))) v

/-- Bytes of one line come for the running thread's word. -/
def State.takeLine (s : State) (v : BitVec 512 × BitVec 64) (off n : Nat) : State :=
  s.addReply ((List.range n).map (fun i => lineByte v.1 (off + i))) (v.2 &&& lineMask off n != 0#64)

/-- The L1 takes the line that a load has read, with what its coaches have posted to it; a release that they may not read yet
stays out (R151, R312). -/
def State.fillL1 (s : State) (c : Coach) (line : Nat) : State :=
  let mine := fun (r : HomeReq) => r.open_ && r.atom.isNone && r.path == 0 && r.line == line && !onDray r.by_ &&
    (r.near || r.release.isNone) && r.tag == s.attemptOf (.coach c.quad 0) && (s.l1Ways c).contains (threadQuad r.by_)
  let laid := (s.unapplied.filter mine).foldr insertReq []
  let v := s.overLine laid (s.viewLine (some c.tag) line)
  let tag := if (s.stagedOf (some c.tag) line).isSome || !laid.isEmpty then some c.tag else none
  let near := fun (r : HomeReq) => if mine r then { r with near := true } else r
  { s.l1Fill c line tag v.1 v.2 with
    homeq := s.homeq.map near, waiting := s.waiting.map (fun w => { w with req := near w.req }) }

/-- A coach's load of ordinary memory: an L1 hit, or the line's home (R151, R311, R312). An acquire at CLUSTER scope or wider, and
what comes after it, waits for the pending bytes of other agents (R320). -/
def State.loadLine (s : State) (c : Coach) (strict : Bool) (cls : Nat) (x : Xlate) (p : Nat × Nat) : Except Res State :=
  let th := s.cur
  let line := x.dpa / 64
  let off := x.dpa % 64
  match s.mustWait th cls 0 line (lineMask off p.2)
      (fun r => if s.shown c r then strict && r.by_ != th else r.by_ != th && s.isBehind th r.id) with
  | some id => .error (.wait s (.home id))
  | none =>
    let s := (s.settleXlate x).unpark th 0
    match s.l1Hit c line with
    | some e => .ok ((s.l1Use e).takeLine (s.overLine (s.readOver c th line) (e.data, e.pois)) off p.2)
    | none =>
      match s.fetchLine th (.thread th) cls 0 false evictNormal true x (word p.1) p.2 with
      | .got s _ _ =>
        .ok ((s.takeLine (s.overLine (s.readOver c th line) (s.viewLine (some c.tag) line)) off p.2).fillL1 c line)
      | .asked s w => .error (.wait s w)
      | .fault code => .error (.fault s code (some (word p.1)) (accessProg code))
      | .busy s w => .error (.wait s w)
      | .gone s => .error (.gone s)
      | .refuse => .error (.refuse .mmioLayout)

/-- Any other load of bytes of one line: of a Dray strand, through a memory-side unit, of another part or of the host. -/
def State.loadFar (s : State) (cls : Nat) (x : Xlate) (p : Nat × Nat) : Except Res State :=
  let th := s.cur
  let path := pathTo x 0
  match s.mustWait th cls path (x.dpa / 64) (lineMask (x.dpa % 64) p.2) (s.ownOrBehind th) with
  | some id => .error (.wait s (.home id))
  | none =>
    match s.remoteFirst th cls path x.dpa with
    | some tag => .error (.wait s (.remote tag))
    | none =>
      match ((s.settleXlate x).unpark th 0).fetchLine th (.thread th) cls 0 false evictNormal true x (word p.1) p.2 with
      | .got s bs q => .ok (s.addReply bs q)
      | .asked s w => .error (.wait s w)
      | .fault code => .error (.fault s code (some (word p.1)) (accessProg code))
      | .busy s w => .error (.wait s w)
      | .gone s => .error (.gone s)
      | .refuse => .error (.refuse .mmioLayout)

/-- The load of one piece. -/
def State.loadPiece (s : State) (strict : Bool) (cls : Nat) (x : Xlate) (p : Nat × Nat) : Except Res State :=
  match s.myCoach? with
  | some c => if apertureOf x.dpa = .hbm ∧ x.memSide = false then s.loadLine c strict cls x p else s.loadFar cls x p
  | none => s.loadFar cls x p

/-- Reading the rest of a load's pieces: all have come, or something else has happened. -/
def State.loadPieces (s : State) (strict : Bool) (cls : Nat) (ps : List (Nat × Nat)) : Except Res State :=
  match ps with
  | [] => .ok s
  | p :: ps =>
    match s.resolve s.cur (word p.1) p.2 .read true with
    | .error e => .error (stopRes s p.1 e)
    | .ok (.pm die a) =>
      (s.addReply ((List.range p.2).map (fun i => s.pmView die (a + i))) (s.pmPois die a p.2)).loadPieces strict cls ps
    | .ok (.dpa x) =>
      match s.loadPiece strict cls x p with
      | .ok s => s.loadPieces strict cls ps
      | .error r => .error r

/-- A load of n bytes, finished by `fin` with the bytes and their poison. What has come for the word is not asked for
again. `scope` is that of an acquire, 0 for a plain load. -/
def loadBytes (s : State) (va : Word) (n cls scope : Nat) (fin : State → List Byte → Bool → Res) : Res :=
  let go :=
    match s.loadPieces (s.me.strict || decide (2 ≤ scope)) cls ((linePieces va.toNat n).filter (fun p => decide (va.toNat + s.me.reply.length ≤ p.1))) with
    | .error r => r
    | .ok s => fin s s.me.reply s.me.replyPoison
  if s.me.reply.isEmpty then s.clearTo va n .read go else go

/-- What an acquire of n bytes has met: SCOPEX where a release does not cover both parties (R322); and what a release that is still
pending in the core's L1 covers happens before what follows (R316, R319). -/
def State.acquired (s : State) (before : State) (va : Word) (n scope : Nat) : State :=
  let th := before.cur
  let tag := (before.attemptOf th).map (fun t => t.1)
  (linePieces va.toNat n).foldl (fun s p =>
    match before.placeRead th (word p.1) p.2 with
    | .ok (.dpa x) =>
      let met : List HomeReq := match before.myCoach? with
        | some c => (before.readOver c th (x.dpa / 64)).filter (fun r =>
            r.by_ != th && r.release.isSome && r.mask &&& lineMask (x.dpa % 64) p.2 != 0#64)
        | none => []
      let s := if apertureOf x.dpa = .hbm then s.scopeFlag before th 1 scope (if x.memSide then none else tag) x.dpa p.2 else s
      s.follows th (met.flatMap (fun r => r.id :: r.after ++ before.released r.by_ (fun p => p == r.path)))
    | _ => s) s

/-- An acquire at CORE scope or wider invalidates untagged lines (R151); at CLUSTER scope or wider no pending byte of another agent
is read from then on (R320). -/
def State.acquireL1 (s : State) (scope : Nat) : State :=
  let s := match s.myCoach? with
    | some c => if 1 ≤ scope then s.l1Acquire c else s
    | none => s
  if 2 ≤ scope then s.updMe (fun st => { st with strict := true }) else s

/-! ## Writing -/

/-- What a write of private memory comes to. -/
inductive PmStored where
  | ok (s : State)
  | fault (code : Nat) (faddr fprog : Option Word)

/-- A write of bytes of a die's private memory by a strand. -/
abbrev PmWrite := State → ThreadId → Nat → Nat → List Byte → PmStored

/-- The pieces of a store set out, all or none. -/
def State.storePieces (s : State) (pm : PmWrite) (cls : Nat) (rel : Option Nat) (va : Nat) (bs : List Byte)
    (ps : List (Nat × Nat)) : Except Res State :=
  match ps with
  | [] => .ok s
  | p :: ps =>
    let mine := (bs.drop (p.1 - va)).take p.2
    match s.resolve s.cur (word p.1) p.2 .write true with
    | .error e => .error (stopRes s p.1 e)
    | .ok (.pm die a) =>
      match pm s s.cur die a mine with
      | .ok s => s.storePieces pm cls rel va bs ps
      | .fault code fa fp => .error (.fault s code fa fp)
    | .ok (.dpa x) =>
      let spec : WriteSpec :=
        { th := s.cur, cls := cls, path := 0, esc := false, rel := rel, ack := .store, evict := evictNormal }
      match (s.settleXlate x).postStore spec x (word p.1) mine with
      | .sent s _ => s.storePieces pm cls rel va bs ps
      | .fault code => .error (.fault s code (some (word p.1)) (accessProg code))
      | .busy => .error (.wait s (.remote 65536))
      | .refuse => .error (.refuse .mmioLayout)

/-- A store of the running thread has not performed. -/
def State.storesLeft (s : State) : Bool := !(s.writesOut (fun th path => th == s.cur && path != 1)).isEmpty

/-- A token that a store pushes releases the store: what the store has posted, and what happens before it (R316, R319). -/
def State.pushEdge (s : State) (k : Tok) (first : Nat) : State :=
  match s.cur with
  | .dray _ _ => s
  | .coach q p =>
    if k.push = 0#2 then s
    else
      let i := (streamOfPart p).index
      let key := fifoKey i (selected i k.push.toNat)
      let left := (s.writesOut (fun _ _ => true)).eraseDups
      s.updCoach q (fun c =>
        let old := SMap.get (fun _ => []) c.past key
        let now := left.filter (fun id => decide (first ≤ id) || s.isBehind s.cur id || old.contains id)
        { c with past := SMap.put (fun _ => []) c.past key now })

/-- A store is posted and does not park (R110, R111). A release waits at its home, not here (R313, R316). -/
def storeBytes (pm : PmWrite) (s : State) (k : Tok) (va : Word) (bs : List Byte) (cls : Nat) (rel : Option Nat) :
    Res :=
  s.clearTo va bs.length .write
    (match s.storePieces pm cls rel va.toNat bs (linePieces va.toNat bs.length) with
    | .error r => r
    | .ok t => .done (t.pushEdge k s.nextReq))

/-! ## Atomics -/

/-- An atomic: what it does, where, its semantics (1 acquire, 2 release, 3 both), scope, class and lane. -/
structure AtomSpec where
  op    : AtomOp
  bytes : Nat
  va    : Word
  v     : Nat
  cmp   : Nat
  cls   : Nat
  sem   : Nat
  scope : Nat
  lane  : Nat

/-- What an atomic's old value is finished with: the value, its poison and the flags. -/
abbrev AtomFin := State → Nat → Bool → BitVec 9 → Res

/-- The release record of an atomic. -/
def AtomSpec.rel (a : AtomSpec) (th : ThreadId) : Option (ThreadId × Nat) := if 2 ≤ a.sem then some (th, a.scope) else none

/-- The atomic as its home gets it. -/
def AtomSpec.home (a : AtomSpec) (off : Nat) : HomeAtom :=
  { op := a.op, bytes := a.bytes, off := off, v := a.v, cmp := a.cmp, sem := a.sem, scope := a.scope }

/-- The request of an atomic. -/
def State.atomReq (s : State) (a : AtomSpec) (x : Xlate) : HomeReq :=
  { parkedReq s s.cur ((s.sliceOf s.cur).getD 0) (x.dpa / 64) a.cls (pathTo x 0) .thread with
    mask := lineMask (x.dpa % 64) a.bytes
    memSide := x.memSide
    direct := x.memSide
    release := if 2 ≤ a.sem then some a.scope else none
    leaf := x.entry.map (fun e => e.leaf2)
    tva := a.va - word (x.dpa % 64)
    atom := some (a.home (x.dpa % 64)) }

/-- An atomic on an ordinary line (R117): performed at its home, where one that meets another launch's bytes waits and is performed
in its turn (R290, R294, R296). -/
def atomHome (s : State) (a : AtomSpec) (x : Xlate) (fin : AtomFin) : Res :=
  let r := s.atomReq a x
  let h := a.home (x.dpa % 64)
  let done := fun (s : State) =>
    let p := s.homeAtom r h
    fin p.1 p.2.1 p.2.2 (atomNew h.op h.bytes p.2.1 h.v h.cmp).2
  let held := s.pendingOwners ((s.attemptOf s.cur).map (fun t => t.1)) r.line
  if !held.isEmpty then .wait (s.parkAt r held) (.home r.id)
  else
    match s.launchOf s.cur with
    | none => done s
    | some l =>
      match s.admitWrite l r.line r.mask with
      | .go s => done s
      | .wait s owners => .wait (s.parkAt r owners) (.home r.id)
      | .gone s => .gone s

/-- An atomic on its way to a memory-side unit (R278). -/
def atomSide (s : State) (a : AtomSpec) (x : Xlate) : Res :=
  let s := s.openLaunch s.cur
  .wait (s.send (s.atomReq a x)) (.home s.nextReq)

/-- An atomic to the host (R118, R438); an operation that is not carried leaves status 0 in FPROG (R460). -/
def atomHost (s : State) (a : AtomSpec) (x : Xlate) : Res :=
  let addr := hostAddr x.dpa
  match s.hostWindow addr a.bytes with
  | none => .fault s codeHostAbort (some a.va) none
  | some win =>
    let r := newHostReq s (.thread s.cur) a.va addr a.bytes a.op.code (word a.v) (word a.cmp) win.1 win.2
    if carried a.op then .wait ((s.openLaunch s.cur).hostAtomicOp r) (.host r.id)
    else if win.1 then .wait ((s.openLaunch s.cur).proxy r) (.proxy r.id)
    else .fault s codeHostUnsupported (some a.va) (some 0#64)

/-- An atomic to another part. -/
def atomRemote (s : State) (a : AtomSpec) (x : Xlate) : Res :=
  match (s.openLaunch s.cur).remoteAtomic s.cur (.thread s.cur) x.dpa (a.home 0) a.va with
  | .sent s tag => .wait s (.remote tag)
  | .noRoute => .fault s codeLinkDown (some a.va) (some 0#64)
  | .noTag => .wait s (.remote 65536)

/-- An atomic on private memory. -/
def atomPm (pm : PmWrite) (s : State) (a : AtomSpec) (die at_ : Nat) (fin : AtomFin) : Res :=
  let old := natOfBytes ((List.range a.bytes).map (fun i => s.pmView die (at_ + i)))
  let r := atomNew a.op a.bytes old a.v a.cmp
  match pm s s.cur die at_ (bytesOfNat a.bytes r.1) with
  | .ok t => fin t old (s.pmPois die at_ a.bytes) r.2
  | .fault code fa fp => .fault s code fa fp

/-- The flags of an atomic that another agent has performed, from its operands. -/
def AtomSpec.flagsOf (a : AtomSpec) (old : Nat) : BitVec 9 := (atomNew a.op a.bytes old a.v a.cmp).2

/-- An atomic of the running thread (R116-R119): an answer that has come is finished; else it is checked, waits for what
it must follow, and is performed or sent. -/
def atomRes (pm : PmWrite) (s : State) (a : AtomSpec) (fin : AtomFin) : Res :=
  if s.me.reply.isEmpty = false then
    let old := natOfBytes (s.me.reply.take a.bytes)
    fin s old s.me.replyPoison (a.flagsOf old)
  else
    match s.resolve s.cur a.va a.bytes .atomic true with
    | .error e => stopRes s a.va.toNat e
    | .ok place =>
      match s.watchFault a.va a.bytes .atomic a.lane with
      | some f => .fault s codeWatchPrecise (some f.1) (some f.2)
      | none =>
        match (if 2 ≤ a.sem then s.fenceWait s.cur allClasses scalarPaths a.scope else none) with
        | some r => .wait r.1 r.2
        | none =>
          match place with
          | .pm die at_ => atomPm pm s a die at_ fin
          | .dpa x =>
            match s.mustWait s.cur a.cls (pathTo x 0) (x.dpa / 64) (lineMask (x.dpa % 64) a.bytes) (s.beforeAtomic s.cur) with
            | some id => .wait s (.home id)
            | none =>
              match s.remoteFirst s.cur a.cls (pathTo x 0) x.dpa with
              | some tag => .wait s (.remote tag)
              | none =>
                let s := (s.settleXlate x).unpark s.cur 0
                match apertureOf x.dpa with
                | .hbm => if x.memSide then atomSide s a x else atomHome s a x fin
                | .fabric => atomRemote s a x
                | .host => atomHost s a x
                | .mmio => .refuse .mmioLayout
                | .none => .fault s codeWindow (some a.va) none

/-! ## LDSP and STSP (R114) -/

/-- The buffer that a field names. -/
def spmBuf (kk : BitVec 2) : Buf :=
  match kk.toNat with
  | 0 => .abuf
  | 1 => .wbuf
  | _ => .acc

/-- An access of n bytes at offset o lies in the used part of a buffer, aligned. -/
def spmOk (c : Coach) (b : Buf) (o n : Nat) : Bool := decide (o % n = 0) && decide (o + n ≤ c.usedSize b)

/-- The byte offset of an SPM access: an unbounded sum (R10). -/
def spmOff (s : State) (b : BitVec 4) (o : BitVec 9) (n : Nat) : Nat := (s.reg b).toNat + o.toNat * n

/-- LDSP. -/
def execLdsp (k : Tok) (tr b : BitVec 4) (kk : BitVec 2) (o : BitVec 9) (sr : BitVec 2) (s : State) :
    Host.Outcome State Fault Refusal :=
  issue coachWord (.ldsp k tr b kk o sr) k (fun s => withCoach s (fun c => consume (s.pois b) s
    (let n := 2 ^ sr.toNat
    let off := spmOff s b o n
    let buf := spmBuf kk
    if spmOk c buf off n = false then descFault s codeDescRange
    else
      admitted s c [{ buf := buf, lo := off, len := n, rd := true, wr := false }] (fun s =>
        writeS tr (word (natOfBytes (s.bufBytes c buf off n))) (s.bufPois c buf off n) s.leaveChecker)))) s

/-- STSP: WBUF is not written; a poisoned register is consumed. -/
def execStsp (k : Tok) (tr b : BitVec 4) (kk : BitVec 2) (o : BitVec 9) (sr : BitVec 2) (s : State) :
    Host.Outcome State Fault Refusal :=
  issue coachWord (.stsp k tr b kk o sr) k (fun s => withCoach s (fun c => consume (s.pois b || s.pois tr) s
    (let n := 2 ^ sr.toNat
    let off := spmOff s b o n
    let buf := spmBuf kk
    if spmOk c buf off n = false then descFault s codeDescRange
    else if buf = .wbuf then descFault s codeEngineAccess
    else
      admitted s c [{ buf := buf, lo := off, len := n, rd := false, wr := true }] (fun s =>
        .done ((s.writeBuf c buf off (bytesOfNat n (s.reg tr).toNat) false).leaveChecker))))) s

/-! ## Fences (R317) -/

/-- A FENCE: the classes of its register, and the paths that its agent has (R317). -/
def fenceForm (i : Instr) (k : Tok) (a : BitVec 4) (h : BitVec 5) (body : State → BitVec 16 → BitVec 5 → Res) :
    State → Host.Outcome State Fault Refusal :=
  issue commonWord i k (fun s => consume (s.pois a) s
    (body s (if a = 0#4 then allClasses else (s.reg a).setWidth 16) (if onDray s.cur then h &&& 1#5 else h)))

/-- FENCE.ACQ: every earlier read has performed when this word issues; the L1 keeps nothing stale. -/
def execFenceAcq (k : Tok) (a : BitVec 4) (e : BitVec 3) (h : BitVec 5) (s : State) :
    Host.Outcome State Fault Refusal :=
  fenceForm (.fenceAcq k a e h) k a h (fun s _ _ => .done (s.acquireL1 e.toNat)) s

/-- FENCE.REL. -/
def execFenceRel (k : Tok) (a : BitVec 4) (e : BitVec 3) (h : BitVec 5) (s : State) :
    Host.Outcome State Fault Refusal :=
  fenceForm (.fenceRel k a e h) k a h (fun s cls paths =>
    match s.fenceWait s.cur cls paths e.toNat with
    | some r => .wait r.1 r.2
    | none => .done s) s

/-- FENCE.FULL. -/
def execFenceFull (k : Tok) (a : BitVec 4) (e : BitVec 3) (h : BitVec 5) (s : State) :
    Host.Outcome State Fault Refusal :=
  fenceForm (.fenceFull k a e h) k a h (fun s cls paths =>
    match s.fenceWait s.cur cls paths e.toNat with
    | some r => .wait r.1 r.2
    | none => .done (s.acquireL1 e.toNat)) s

end Sys2Proof.Machine
end

