-- ==== Sys2Proof/Machine/CtlWrite.lean ====
section
/-! DEFINITION. CtlWrite: writes of Dray private memory and of the control structures in it (R266, R267, R270, R276,
R281, R302, R337, R354, R377, R380, R392, R397, R412, R416, R432, R437, R441, R469, R470). -/

namespace Sys2Proof.Machine

/-- A write of one doubleword of the control area: the die, the doubleword's address, the bits written, their value
(zero elsewhere), and the writer's level and what it serves. -/
structure CtlReq where
  die    : Nat
  addr   : Nat
  mask   : Word
  put    : Word
  level  : Nat
  served : Nat

/-- Bits hi:lo set. -/
def field (hi lo : Nat) : Word := setBits 0#64 hi lo (2 ^ (hi + 1 - lo) - 1)

/-- The doubleword after a write in which only some bits take a value. -/
def CtlReq.over (q : CtlReq) (old rw : Word) : Word := (old &&& ~~~ (rw &&& q.mask)) ||| (q.put &&& rw &&& q.mask)

/-- A bit is written as 1. -/
def CtlReq.sets (q : CtlReq) (i : Nat) : Bool := bit q.put i && bit q.mask i

/-- The write reaches a field. -/
def CtlReq.reaches (q : CtlReq) (f : Word) : Bool := q.mask &&& f != 0#64

/-- The stored doubleword takes the bits that may be written. -/
def State.ctlPut (s : State) (q : CtlReq) (rw : Word) : State :=
  s.pmSetWord q.die q.addr (q.over (s.pmWord q.die q.addr) rw)

/-- The same on all four dies (R470). -/
def State.ctlPutAll (s : State) (q : CtlReq) (rw : Word) : State :=
  [0, 1, 2, 3].foldl (fun s d => s.ctlPut { q with die := d } rw) s

/-- The writer's effective rights hold a right (R346). -/
def State.writerHas (s : State) (q : CtlReq) (right : Nat) : Bool := s.hasRight q.die q.level q.served right

/-- A write that the manual refuses for want of a right: RIGHTS precisely, with no effect; the record names the word
that the running thread is at (R44). -/
def noRight (s : State) : PmStored :=
  .fault codeRights (some s.me.pc) (some ((s.codeWord s.cur s.me.pc.toNat).setWidth 64))

/-- An event takes its turn before anything else. -/
def State.next (s : State) (e : Event) : State := { s with agenda := e :: s.agenda }

/-! ## Memory ways and allotments (R270, R276) -/

/-- BAD of the way word. -/
def State.setWayBad (s : State) (die v : Nat) : State := s.pmSetBits die 0x3F100 9 9 v

/-- An allotment fits STGW ways. -/
def allotFits (base len stgw : Nat) : Bool := len == 0 || decide (base + len ≤ 4 * stgw)

/-- The way word. -/
def State.putWays (s : State) (q : CtlReq) : State :=
  let s := if q.sets 9 then s.setWayBad q.die 0 else s
  let old := s.pmWord q.die 0x3F100
  let new := q.over old (field 7 0)
  let c := bits new 3 0
  let t := bits new 7 4
  if c = 0 ∨ 8 < c ∨ 8 < t ∨ 12 < c + t ∨ bit old 8 ∨
      (List.range 64).any (fun i => !allotFits (s.allotBase q.die i) (s.allotLen q.die i) t) then
    s.setWayBad q.die 1
  else
    let moves := wayMoves (bits old 3 0) (bits old 7 4) c t
    let s := s.pmSetWord q.die 0x3F100 (if moves.isEmpty then new else setBits new 8 8 1)
    s.updDie q.die (fun d => { d with moves := moves })

/-- Two allotments share a unit; one of length 0 is none. -/
def allotClash (b1 l1 b2 l2 : Nat) : Bool := l1 != 0 && l2 != 0 && decide (b1 < b2 + l2) && decide (b2 < b1 + l1)

/-- Units that come to a slice from another one are zeroed on every L2 slice of the die, and it holds them now. -/
def State.giveUnit (s : State) (die slice u : Nat) : State :=
  let last := SMap.get zeroNat (s.die die).holder u
  let gone := fun (k : Nat) => k / 2 ^ 26 == die && k % 2 ^ 22 / 65536 == u
  let s :=
    if last = 0 ∨ last = slice + 1 then s
    else { s with
      l2s := s.l2s.filter (fun e => !gone e.1)
      l2sPoison := s.l2sPoison.filter (fun e => !gone (e.1 * 64)) }
  s.updDie die (fun d => { d with holder := SMap.put zeroNat d.holder u (slice + 1) })

/-- An allotment entry. -/
def State.putAllot (s : State) (q : CtlReq) (i : Nat) : State :=
  let new := q.over (s.pmWord q.die q.addr) (field 13 8 ||| field 5 0)
  let len := bits new 13 8
  let base := bits new 5 0
  if !allotFits base len (bits (s.pmWord q.die 0x3F100) 7 4) ∨ (List.range 64).any (fun j =>
      j != i && allotClash base len (s.allotBase q.die j) (s.allotLen q.die j)) then
    s.setWayBad q.die 1
  else
    let s := s.pmSetWord q.die q.addr new
    (List.range len).foldl (fun s k => s.giveUnit q.die i (base + k)) s

/-! ## The cocoon control block (R302) -/

/-- OVSIZE and the quotas of a die. -/
def State.overflowSize (s : State) (die : Nat) : Nat := bits (s.pmWord die 0x3F408) 15 0
def State.quotaSum (s : State) (die : Nat) : Nat := (List.range 64).foldl (fun n i => n + s.overflowQuota die i) 0

/-- Some slice holds overflow lines on a die. -/
def State.overflowBusy (s : State) (die : Nat) : Bool := (List.range 64).any (fun i => s.overflowUsed die i != 0)

/-- A word of the block: refused writes set BAD and change nothing. -/
def State.putCocoon (s : State) (q : CtlReq) (quota : Option Nat) : State :=
  let s := if q.addr = 0x3F400 ∧ q.sets 52 then s.pmSetBits q.die 0x3F400 52 52 0 else s
  let rw := if quota.isSome then field 31 0 else if q.addr = 0x3F400 then field 51 0 else field 15 0
  let old := s.pmWord q.die q.addr
  let s' := s.ctlPut q rw
  let moved := quota.isNone && s'.pmWord q.die q.addr != old
  let low := match quota with
    | some i => decide (s'.overflowQuota q.die i < s.overflowUsed q.die i)
    | none => false
  if decide (s'.overflowSize q.die * 16384 < s'.quotaSum q.die) || (moved && s.overflowBusy q.die) || low then
    s.pmSetBits q.die 0x3F400 52 52 1
  else s'

/-! ## Weight and fault route blocks (R337, R397) -/

/-- The weight control block: only the holding die has one. -/
def State.putWeight (s : State) (q : CtlReq) (i w : Nat) : PmStored :=
  if s.writerHas q rightWeight = false then noRight s
  else if i % 4 ≠ q.die then .ok s
  else
    let head := 0x3A600 + 64 * i
    let used := s.weightUsed i != 0
    match w with
    | 0 =>
      let s := if q.sets 63 then s.pmSetBits q.die head 63 63 0 else s
      if q.reaches (field 55 21) ∧ used then .ok (s.pmSetBits q.die head 63 63 1) else .ok (s.ctlPut q (field 55 21))
    | 1 => if q.reaches (field 31 0) ∧ used then .ok (s.pmSetBits q.die head 63 63 1) else .ok (s.ctlPut q (field 31 0))
    | 6 => .ok s
    | 7 => .ok s
    | _ => .ok (s.ctlPut q (-1#64))

/-- A fault route block. -/
def State.putRoute (s : State) (q : CtlReq) : PmStored :=
  if s.writerHas q rightFaultrt then .ok (s.ctlPut q (-1#64)) else noRight s

/-! ## Slice and domain blocks, strands (R267, R469) -/

/-- Sum of SHARE over slices of a die. -/
def State.shareSum (s : State) (die : Nat) (p : Nat → Bool) : Nat :=
  ((List.range 64).filter p).foldl (fun n i => n + s.sliceShare die i) 0

/-- The gates of a slice that a die holds are zero when the slice is created there: V of its block becomes 1 (R262; log entry 152). -/
def State.clearGates (s : State) (die slice : Nat) : State :=
  { s with gates := s.gates.filter (fun e => e.1 / 256 != slice || e.1 % 4 != die) }

/-- The slice control block: SHARE stays as it is when a sum would pass its limit. -/
def State.putSlice (s : State) (q : CtlReq) (i w : Nat) : State :=
  match w with
  | 0 =>
    let rw := if q.level = 0 then field 63 63 ||| field 51 44 ||| field 7 0 else field 47 44 ||| field 7 0
    let s' := s.ctlPut q rw
    let s' := if !s.sliceV q.die i && s'.sliceV q.die i then s'.clearGates q.die i else s'
    let dom := s'.sliceDomain q.die i
    if 256 < s'.shareSum q.die (fun _ => true) ∨
        s'.domainCeil q.die dom < s'.shareSum q.die (fun j => s'.sliceDomain q.die j == dom) then
      s'.pmSetBits q.die q.addr 7 0 (s.sliceShare q.die i)
    else s'
  | 1 => s.ctlPut q (field 51 0)
  | 2 => s.ctlPut q (field 51 0)
  | 4 => s.ctlPut q (-1#64)
  | _ => s

/-- The domain control block. -/
def State.putDomain (s : State) (q : CtlReq) (w : Nat) : State :=
  match w with
  | 0 => s.ctlPut q (field 63 63)
  | 1 => s.ctlPut q (field 8 0)
  | 2 => s.ctlPut q (field 31 0)
  | 3 => s.ctlPut q (-1#64)
  | _ => s

/-- A strand whose EN is set starts at its first word when it is idle, and goes on otherwise. -/
def State.startStrand (s : State) (die k : Nat) : State :=
  s.updDray die k (fun x =>
    match x.th.run with
    | .idle => { x with th := { Strand.start with run := .ready, pc := word (s.strandCbase die k) }, st := Stream.start }
    | _ => x)

/-- The strand table: EN starts a strand, and stops it at its next instruction boundary. -/
def State.putStrand (s : State) (q : CtlReq) (k w : Nat) : State :=
  let rw := match w with
    | 0 => field 63 63 ||| field 9 8 ||| field 5 0
    | 1 => field 48 32 ||| field 15 0
    | 2 => field 50 32 ||| field 17 0
    | _ => 0#64
  let was := s.strandEn q.die k
  let s := s.ctlPut q rw
  if !was && s.strandEn q.die k then s.startStrand q.die k
  else if was && !s.strandEn q.die k then s.abandon (.dray q.die k)
  else s

/-! ## Watchpoints (R380) -/

/-- The DPA at which an engine entry watches, when it may be armed: its range translates as a read, and its home lies on
the entry's die. -/
def State.armAt (s : State) (die slice base : Nat) : Option Nat :=
  let w : Who :=
    { die := die, cluster := 32 + die, slice := slice, domain := s.sliceDomain die slice, plain := false }
  match s.translate w base 16 .read with
  | .ok x => if apertureOf x.dpa = .hbm ∧ homeDie x.dpa = die then some x.dpa else none
  | .error _ => none

/-- The SLICE that an engine entry's w0 holds after a write; none when a domain names a slice of another one. -/
def State.watchOwner (s : State) (q : CtlReq) (new : Word) : Option Nat :=
  match q.level with
  | 0 => some (bits new 59 54)
  | 1 => if s.ownsSlice q.die 1 q.served (bits new 59 54) then some (bits new 59 54) else none
  | _ => some q.served

/-- An engine entry. -/
def State.putEngineWatch (s : State) (q : CtlReq) (w : Nat) : State :=
  if w = 1 then s.ctlPut q (field 15 0)
  else
    let new := q.over (s.pmWord q.die q.addr) (field 63 54 ||| field 51 0)
    match s.watchOwner q new with
    | none => s.pmSetWord q.die q.addr (setBits (setBits new 63 63 0) 59 54 (bits (s.pmWord q.die q.addr) 59 54))
    | some slice =>
      let new := setBits new 59 54 slice
      if bit new 63 = false then s.pmSetWord q.die q.addr new
      else
        match s.armAt q.die slice (bits new 51 0 * 16) with
        | some dpa => (s.pmSetWord q.die q.addr new).pmSetBits q.die (q.addr + 8) 63 16 (dpa / 16)
        | none => s.pmSetWord q.die q.addr (setBits new 63 63 0)

/-- A watchpoint entry. -/
def State.putWatch (s : State) (q : CtlReq) (engine : Bool) (w : Nat) : PmStored :=
  if s.writerHas q rightDebug = false then noRight s
  else if engine then .ok (s.putEngineWatch q w)
  else .ok (s.ctlPut q (if w = 0 then field 63 60 ||| field 51 0 else field 15 0))

/-! ## Loader, migration, ports, pre-emption -/

/-- The load request entry: GO starts the loader unless BUSY. DESIGN CHOICE: GO reads 1 while the request it started is served (R8,
R392; log entry 151). -/
def State.putLoader (s : State) (q : CtlReq) (slice w : Nat) : State :=
  match w with
  | 0 =>
    let s := s.ctlPut q (field 55 0)
    if q.sets 63 ∧ bit (s.pmWord q.die q.addr) 62 = false then
      (s.pmSetBits q.die q.addr 63 62 3).next (.loadRequest q.die slice)
    else s
  | 1 => s.ctlPut q (field 55 0)
  | 2 => s.ctlPut q (field 31 0)
  | _ => s

/-- The migration block: a command is carried out before the write is acknowledged. -/
def State.putMigration (s : State) (q : CtlReq) (slice w : Nat) : PmStored :=
  if s.writerHas q rightMigrate = false then noRight s
  else
    match w with
    | 0 =>
      let s := s.ctlPutAll q (field 63 56 ||| field 47 32)
      match (if q.reaches (field 10 8) then bits q.put 10 8 else 0) with
      | 1 => .ok (s.next (.migrationExport slice))
      | 2 => .ok (s.next (.migrationImport slice))
      | 3 => .ok (s.next (.migrationRelease slice))
      | 4 => .ok (s.next (.migrationClear slice))
      | _ => .ok s
    | 1 => .ok (s.ctlPutAll q (field 51 8))
    | _ => .ok s

/-- A port's block. DESIGN CHOICE: RETRAIN reads 1 until the retrain that it started has ended (R8, R412; log entry 151). -/
def State.putPort (s : State) (q : CtlReq) (k w : Nat) : State :=
  if w = 0 then
    let s := s.ctlPut q (field 63 55)
    if q.sets 2 then (s.pmSetBits q.die q.addr 2 2 1).next (.retrainWrite (4 * q.die + k)) else s
  else s

/-- A domain's fabric block. -/
def State.putDomFabric (s : State) (q : CtlReq) (w : Nat) : State :=
  if w = 0 then s.ctlPut q (field 51 12 ||| field 10 0) else s.ctlPut q (-1#64)

/-! ## One doubleword -/

/-- A write of one doubleword of the control area by a writer that may make it. -/
def State.ctlStore (s : State) (q : CtlReq) : PmStored :=
  match ctlWord q.addr with
  | .migration i w => s.putMigration q i w
  | .hostWindow _ _ => .ok (s.ctlPut q (-1#64))
  | .attach => .ok (s.ctlPut q (-1#64))
  | .sliceFabric _ w => .ok (s.ctlPut q (if w = 0 then field 63 53 ||| field 51 0 else field 15 0))
  | .operatorRoute _ => s.putRoute q
  | .port k w => .ok (s.putPort q k w)
  | .routeTable => .ok (s.ctlPut q (-1#64))
  | .domFabric _ w => .ok (s.putDomFabric q w)
  | .weight i w => s.putWeight q i w
  | .loader i w => .ok (s.putLoader q i w)
  | .kat => .ok (s.ctlPut q (-1#64))
  | .engineWatch _ w => s.putWatch q true w
  | .coachWatch _ _ w => s.putWatch q false w
  | .slice i w => .ok (s.putSlice q i w)
  | .domain _ w => .ok (s.putDomain q w)
  | .strand k w => .ok (s.putStrand q k w)
  | .ways => .ok (s.putWays q)
  | .scrub => .ok (s.ctlPut q (field 0 0))
  | .repLog => .ok (s.ctlPut q (field 51 0))
  | .logTail => .ok s
  | .repAdd => .ok (s.repairSector (bits (q.put &&& q.mask) 51 0) 2)
  | .allot i => .ok (s.putAllot q i)
  | .cocoonBase => .ok (s.putCocoon q none)
  | .cocoonSize => .ok (s.putCocoon q none)
  | .quota i => .ok (s.putCocoon q (some i))
  | .route _ _ => s.putRoute q
  | .pre _ w => .ok (if w = 0 then s else s.ctlPut q (if q.level = 0 then -1#64 else field 31 0))
  | .none => .ok s

/-! ## Bytes -/

/-- The part of a write that falls into the doubleword at an address: bits written and their value. -/
def dwordPart (a : Nat) (bs : List Byte) (d : Nat) : Word × Word :=
  (List.range 8).foldl (fun m i =>
    if a ≤ d + i ∧ d + i < a + bs.length then
      (setBits m.1 (8 * i + 7) (8 * i) 255, setBits m.2 (8 * i + 7) (8 * i) (bs.getD (d + i - a) 0#8).toNat)
    else m) (0#64, 0#64)

/-- Poison goes from a doubleword that is written whole. -/
def State.clearPmPois (s : State) (die d : Nat) : State :=
  s.updDie die (fun x => { x with pmPoison := SMap.put noFlag x.pmPoison (d / 8) false })

/-- A write of one doubleword of private memory. -/
def State.pmStoreWord (s : State) (die level served a : Nat) (bs : List Byte) (d : Nat) : PmStored :=
  let m := dwordPart a bs d
  let s := if m.1 = -1#64 then s.clearPmPois die d else s
  if d < 0x39000 then .ok (s.pmSetWord die d ((s.pmWord die d &&& ~~~ m.1) ||| m.2))
  else s.ctlStore { die := die, addr := d, mask := m.1, put := m.2, level := level, served := served }

/-- A write of bytes of private memory, doubleword by doubleword. -/
def State.pmStoreAt (s : State) (die level served a : Nat) (bs : List Byte) : PmStored :=
  (dwordsOf a bs.length).foldl (fun r d =>
    match r with
    | .ok s => s.pmStoreWord die level served a bs d
    | .fault c fa fp => .fault c fa fp) (.ok s)

/-- A strand's write of private memory. -/
def pmStore : PmWrite := fun s th die a bs => s.pmStoreAt die (s.levelOf th) (s.servedOf th) a bs

/-! ## The table's rows -/

/-- A write of a control structure: WINDOW_VIOLATION for a level that the structure does not grant it to (R266). -/
def ctlRow (w : CtlWrite) (s : State) : Host.Outcome State Fault Refusal :=
  if s.ctlWritable w.die w.level w.served (ctlWord w.addr) = false then
    .next (s.takeOpen s.cur codeWindow (some (word w.addr)) (some (walkProg 7 0)) s.me.pc)
  else
    match s.pmStoreAt w.die w.level w.served w.addr (bytesOfNat w.bytes w.val.toNat) with
    | .ok s => .next s
    | .fault c fa fp => .next (s.takeOpen s.cur c fa fp s.me.pc)

/-- MEMORY_WAY_WRITE (R270). -/
def execMemoryWayWrite (die : Nat) (val : Word) (s : State) : Host.Outcome State Fault Refusal :=
  .next (s.putWays { die := die, addr := 0x3F100, mask := -1#64, put := val, level := 0, served := 0 })

/-- ALLOTMENT_WRITE (R276). -/
def execAllotmentWrite (die slice : Nat) (val : Word) (s : State) : Host.Outcome State Fault Refusal :=
  .next (s.putAllot { die := die, addr := 0x3F200 + 8 * slice, mask := -1#64, put := val, level := 0, served := 0 }
    slice)

/-- REPADD (R281). -/
def execRepadd (die : Nat) (val : Word) (s : State) : Host.Outcome State Fault Refusal :=
  ctlRow { die := die, addr := 0x3F120, bytes := 8, val := val, level := 0, served := 0 } s

/-- COCOON_BLOCK_WRITE (R302). -/
def execCocoonBlockWrite (w : CtlWrite) (s : State) : Host.Outcome State Fault Refusal := ctlRow w s

/-- WEIGHT_BLOCK_WRITE (R397). -/
def execWeightBlockWrite (w : CtlWrite) (s : State) : Host.Outcome State Fault Refusal := ctlRow w s

/-- ROUTE_BLOCK_WRITE (R337). -/
def execRouteBlockWrite (w : CtlWrite) (s : State) : Host.Outcome State Fault Refusal := ctlRow w s

/-- SLICE_BLOCK_WRITE (R469). -/
def execSliceBlockWrite (w : CtlWrite) (s : State) : Host.Outcome State Fault Refusal := ctlRow w s

/-- STRAND_TABLE_WRITE (R267). -/
def execStrandTableWrite (w : CtlWrite) (s : State) : Host.Outcome State Fault Refusal := ctlRow w s

/-- WATCHPOINT_WRITE (R380). -/
def execWatchpointWrite (w : CtlWrite) (s : State) : Host.Outcome State Fault Refusal := ctlRow w s

/-- CONTROL_STRUCTURE_WRITE (R266). -/
def execControlStructureWrite (w : CtlWrite) (s : State) : Host.Outcome State Fault Refusal := ctlRow w s

end Sys2Proof.Machine
end

