-- ==== Sys2Proof/Machine/Boot.lean ====
section
/-! DEFINITION. Boot: cold and warm reset (R449, R450), attestation (R453), clocks and thermal limits (R454), the energy
accounts' refill and charges (R456), and a word that decodes to nothing (R43). -/

namespace Sys2Proof.Machine

/-! ## The steps of a reset (R449) -/

/-- The private memory of a die with the image copied in, below the control structures (log entry 9). -/
def firmwarePm : SMap Byte :=
  (List.range 0x39000).filterMap (fun a =>
    if Config.firmwareByte a = pmReset a then none else some (a, Config.firmwareByte a))

/-- Steps 2 to 4 from a state whose other fields are at reset: a failure leaves the Dray cores in reset. -/
def State.bootUp (s : State) : State :=
  if Config.imageAuthentic then
    let s : State := { s with boot := { s.boot with state := 3#4, fwver := Config.firmwareVersion } }
    [0, 1, 2, 3].foldl (fun s d => (s.updDie d (fun x => { x with pm := firmwarePm })).startStrand d 0) s
  else { s with boot := { s.boot with state := 4#4 } }

/-- The epoch that a cold reset draws: never 0 (R429). -/
def drawnEpoch (w : Word) : BitVec 16 := if w.setWidth 16 = 0#16 then 1#16 else w.setWidth 16

/-- The part after a cold reset. The counts of steps and of values drawn go on, and what is outside stays (log entry 2). -/
def State.coldBoot (s : State) : State :=
  let t : State := { State.reset with
    steps := s.steps
    free := s.free + 1
    agenda := []
    inputs := s.inputs
    hostOut := s.hostOut
    epoch := drawnEpoch (Config.freeWord s.free) }
  t.bootUp

/-- COLD_RESET. -/
def execColdReset (s : State) : Host.Outcome State Fault Refusal := .next s.coldBoot

/-! ## Warm reset (R450) -/

/-- Bytes of a die's overflow area, whose contents become undefined. -/
def State.overflowBytes (s : State) (die : Nat) : List (Nat × Byte) :=
  (List.range (s.overflowSize die * 2 ^ 20)).map (fun i =>
    (bits (s.pmWord die 0x3F400) 51 0 + i,
      BitVec.ofNat 8 ((Config.freeWord (s.free + 2 ^ 40 * die + i / 8)).toNat / 2 ^ (8 * (i % 8)))))

/-- What a quadrant keeps: its semaphore counts, stale for whoever comes next (R149), and its known-answer state, which
only MKAT and KATSET change (R378). -/
def Quadrant.warm (x : Quadrant) : Quadrant :=
  { Quadrant.reset with
    sems := x.sems
    stale := -1#32
    quarantined := x.quarantined
    mustPass := x.mustPass
    lastKat := x.lastKat }

/-- The epoch after a warm reset. -/
def nextEpoch (e : BitVec 16) : BitVec 16 := if e + 1#16 = 0#16 then 1#16 else e + 1#16

/-- The part after a warm reset: HBM, the repair way and the clocks keep what they hold (log entry 28). -/
def State.warmBoot (s : State) : State :=
  let lost := [0, 1, 2, 3].flatMap s.overflowBytes
  let t : State := { State.reset with
    tsc := s.tsc
    clocks := s.clocks
    steps := s.steps
    free := s.free + 2 ^ 42
    agenda := []
    inputs := s.inputs
    hostOut := s.hostOut
    mem := lost.foldl (fun m e => m.put e.1 e.2) s.mem
    poison := s.poison
    repair := s.repair
    quads := s.quads.map (fun e => (e.1, e.2.warm))
    epoch := nextEpoch s.epoch
    boot := { Boot.reset with mhz := s.boot.mhz, repaddr := s.boot.repaddr, nonce := s.boot.nonce } }
  t.bootUp

/-- WARM_RESET: ignored in states 0 to 2; only a cold reset leaves THERMAL (R451, R454). -/
def execWarmReset (s : State) : Host.Outcome State Fault Refusal :=
  if s.boot.state.toNat < 3 ∨ s.boot.state = 6#4 then .next s else .next s.warmBoot

/-! ## Attestation (R453) -/

/-- What the report says, in the manual's order; the widths are the model's (log entry 29). -/
def State.reportBody (s : State) : List Byte :=
  bytesOfNat 2 0x4128 ++ [Config.stepping] ++ bytesOf8 Config.fusedSerial ++ bytesOfNat 4 s.boot.fwver.toNat ++
    Config.firmwareDigest ++ bytesOf8 Config.rollbackCount ++ bytesOfNat 32 s.boot.nonce.toNat

/-- The report with its signature. -/
def State.attestReport (s : State) : List Byte := s.reportBody ++ Config.falconSign (shake256 s.reportBody 32)

/-- Bytes go to the host in posted writes of at most 64 bytes with the PF's requester ID. -/
def State.writeReport (s : State) (bs : List Byte) : State :=
  (List.range ((bs.length + 63) / 64)).foldl (fun s i =>
    s.hostWrite 0 (s.boot.repaddr.toNat + 64 * i) ((bs.drop (64 * i)).take 64)) s

/-- ATTEST. -/
def execAttest (s : State) : Host.Outcome State Fault Refusal :=
  if s.boot.attest then
    let t := s.writeReport s.attestReport
    .next { t with boot := { t.boot with attest := false } }
  else .next s

/-! ## Clocks (R454) -/

/-- The core clock after a reading. -/
def clockAfter (mhz junction power : Nat) : Nat :=
  if 100 ≤ junction ∨ 2600 < power then Nat.max 875 (mhz - 125)
  else if junction ≤ 95 ∧ power < 2500 then Nat.min 1750 (mhz + 125)
  else mhz

/-- THERMAL_SAMPLE: at 110 degrees every clock stops. -/
def execThermalSample (junctionC powerW : Nat) (s : State) : Host.Outcome State Fault Refusal :=
  if s.boot.halted then .next s
  else if 110 ≤ junctionC then .next { s with boot := { s.boot with state := 6#4, halted := true } }
  else .next { s with boot := { s.boot with mhz := clockAfter s.boot.mhz junctionC powerW } }

/-! ## Energy (R456) -/

/-- ENERGY_CHARGE. -/
def execEnergyCharge (slice : Nat) (cls : EnergyClass) (count : Nat) (s : State) : Host.Outcome State Fault Refusal :=
  .next (s.charge slice cls count)

/-- The refill of one account. -/
def Account.refilled (a : Account) : Account :=
  if a.metered then { a with bal := min (a.bal + (a.refill.toNat : Int)) (a.ceil.toNat : Int) } else a

/-- ENERGY_REFILL: every slice's account, each 1 ms. -/
def execEnergyRefill (s : State) : Host.Outcome State Fault Refusal :=
  .next ((List.range 64).foldl (fun s i => s.setAccount i (s.account i).refilled) s)

/-! ## A word that decodes to nothing (R43) -/

/-- UNDEF_WORD. -/
def execUndefWord (w : BitVec 32) (s : State) : Host.Outcome State Fault Refusal :=
  if (s.strand? s.cur).isNone ∨ s.me.run ≠ .ready ∨ s.live s.cur = false then .fault .noIssuer else .next (s.undef w)

end Sys2Proof.Machine
end

