-- ==== Sys2Proof/Machine/Latch.lean ====
section
/-! DEFINITION. Latch: accesses that the hardware makes for a slice (R468), weight sets and the latches on their copies
(R397-R403). -/

namespace Sys2Proof.Machine

/-! ## Accesses of the hardware for a slice -/

/-- The identity under which a die reaches a slice's memory. -/
def State.hwWho (s : State) (die slice : Nat) : Who :=
  { die := die, cluster := 32 + die, slice := slice, domain := s.sliceDomain die slice, plain := false }

/-- An access of the hardware: done, faulted at an address with the FPROG of a precise fault where the manual gives it, or to be
made later. -/
inductive Hw (α : Type) where
  | ok (s : State) (v : α)
  | fault (code : Nat) (addr : Word) (prog : Option Word)
  | later (s : State)

/-- Where n bytes of one page lie: an SPA goes through stage 2, a TVA through both. DESIGN CHOICE: outside HBM the hardware's
own accesses take WINDOW_VIOLATION (log entry 149). -/
def State.hwAt (s : State) (w : Who) (spa : Bool) (a n : Nat) (kind : AccessKind) : Hw (Nat × Bool) :=
  match (if spa then s.through2 w a n kind else s.through w a n kind) with
  | .fault _ code p => .fault code (word a) (some p)
  | .page s _ => .later s
  | .ok s x => if apertureOf x.dpa ≠ .hbm then .fault codeWindow (word a) none else .ok s (x.dpa, x.memSide)

/-- Reading bytes of one page: committed ones, after a PENDING entry has settled (R289, R290). -/
def State.hwGet (s : State) (w : Who) (spa : Bool) (a n : Nat) : Hw (List Byte) :=
  match s.hwAt w spa a n .read with
  | .fault c f p => .fault c f p
  | .later s => .later s
  | .ok s p =>
    if !p.2 && (linePieces p.1 n).any (fun x => s.pendingLine none (x.1 / 64)) then .later s
    else if s.hwPois p.2 p.1 n then .fault codePoison (word a) none
    else .ok s (s.viewBytes none p.2 p.1 n)

/-- Writing bytes of one page, directly. -/
def State.hwPut (s : State) (w : Who) (spa : Bool) (a : Nat) (bs : List Byte) : Hw Unit :=
  match s.hwAt w spa a bs.length .write with
  | .fault c f p => .fault c f p
  | .later s => .later s
  | .ok s p =>
    if p.2 then
      .ok ((linePieces p.1 bs.length).foldl (fun s x =>
        s.writeSide (x.1 / 64) (lineData (x.1 % 64) ((bs.drop (x.1 - p.1)).take x.2)) (lineMask (x.1 % 64) x.2) none)
        s) ()
    else .ok (s.hwWrite p.1 bs) ()

/-- Consecutive doublewords, each read by itself: the value of all, or the index and the failure of the first. -/
def State.hwWords (s : State) (w : Who) (spa : Bool) (a : Nat) (is : List Nat) : Hw (List Word) × Nat :=
  match is with
  | [] => (.ok s [], 0)
  | i :: is =>
    match s.hwGet w spa (a + 8 * i) 8 with
    | .fault c f p => (.fault c f p, i)
    | .later s => (.later s, i)
    | .ok s bs =>
      match s.hwWords w spa a is with
      | (.ok s ws, j) => (.ok s (wordOf8 bs :: ws), j)
      | r => r

/-! ## Weight sets (R399) -/

/-- The set of a slice with a handle. -/
def State.wsetOf (s : State) (slice handle : Nat) : Option WSet :=
  s.wsets.find? (fun w => w.slice == slice && w.handle == handle)

def WSet.copy (w : WSet) (b : Bool) : WCopy := if b then w.b else w.a
def WSet.setCopy (w : WSet) (b : Bool) (c : WCopy) : WSet := if b then { w with b := c } else { w with a := c }

/-- Which copy is ACTIVE. -/
def WSet.active (w : WSet) : Option Bool :=
  if w.a.st = .active then some false else if w.b.st = .active then some true else none

/-- Changing a set; one whose copies are both EMPTY no longer exists. -/
def State.updWset (s : State) (slice handle : Nat) (f : WSet → WSet) : State :=
  let g := fun (w : WSet) => if w.slice == slice && w.handle == handle then f w else w
  { s with wsets := (s.wsets.map g).filter (fun w => w.a.st != .empty || w.b.st != .empty) }

/-- Latches that hold a copy. -/
def State.latchCount (s : State) (slice handle : Nat) (b : Bool) : Nat :=
  (s.latches.filter (fun l => l.slice == slice && l.handle == handle && l.copyB == b)).length

/-- SPA-free base TVA of a copy: the pool's base and the copy's units. -/
def State.copyBase (s : State) (slice : Nat) (c : WCopy) : Word :=
  word (bits (s.pmWord (slice % 4) (0x3A600 + 64 * slice)) 55 21 * 2 ^ 21 + c.base * 2 ^ 21)

/-- A DRAINING copy that no latch holds is EMPTY (R403). -/
def State.drainCopies (s : State) (slice handle : Nat) : State :=
  s.updWset slice handle (fun w =>
    let f := fun (b : Bool) (c : WCopy) =>
      if c.st = .draining ∧ s.latchCount slice handle b = 0 then WCopy.reset else c
    { w with a := f false w.a, b := f true w.b })

/-! ## Latching (R402, R403) -/

/-- The handles of a record, with their numbers. -/
def wsetHandles (h14 : Word) : List (Nat × Nat) :=
  ((List.range 4).map (fun j => (j, bits h14 (16 * j + 15) (16 * j)))).filter (fun e => e.2 != 0)

/-- The latch of an instance on a handle: an existing one is joined, else a new one is taken on the ACTIVE copy. -/
def State.latchOne (s : State) (slice : Nat) (args : Word) (handle : Nat) : Option (State × Word) :=
  match s.wsetOf slice handle with
  | none => none
  | some w =>
    match s.latches.find? (fun l => l.slice == slice && l.args == args && l.handle == handle) with
    | some l => some (s, s.copyBase slice (w.copy l.copyB))
    | none =>
      match w.active with
      | none => none
      | some b =>
        some ({ s with latches := s.latches ++
          [{ slice := slice, args := args, handle := handle, copyB := b, carried := 0 }] },
          s.copyBase slice (w.copy b))

/-- The latches of a launch, and the base of each copy written to its argument block. -/
def State.latchAll (s : State) (who : Who) (args : Word) (hs : List (Nat × Nat)) : Hw Bool :=
  match hs with
  | [] => .ok s true
  | h :: hs =>
    match s.latchOne who.slice args h.2 with
    | none => .ok s false
    | some r =>
      match r.1.hwPut who false (args.toNat + 8 * h.1) (bytesOf8 r.2) with
      | .ok s _ => s.latchAll who args hs
      | .fault c f p => .fault c f p
      | .later s => .later s

/-- A latch that no launch of its instance needs any longer is released (R403). -/
def State.dropLatches (s : State) (slice : Nat) (args : Word) : State :=
  let taken := s.launches.any (fun l => l.slice == slice && l.args == args)
  let out := fun (l : Latch) => l.slice == slice && l.args == args && !taken && l.carried == 0
  let gone := s.latches.filter out
  let s := { s with latches := s.latches.filter (fun l => !out l) }
  gone.foldl (fun s l => s.drainCopies l.slice l.handle) s

/-- A launch of an instance has retired; one that a migration returned counts down what the latch carries (R446). -/
def State.releaseLatches (s : State) (slice : Nat) (args : Word) : State :=
  let f := fun (l : Latch) => { l with carried := l.carried - 1 }
  { s with latches := updateWhere (fun l => l.slice == slice && l.args == args) f s.latches }.dropLatches slice args

end Sys2Proof.Machine
end

