-- ==== Sys2Proof/Machine/Queue.lean ====
section
/-! DEFINITION. Queue: virtual queues, notifies, appends and hardware queue slots (R249-R258, R402, R468). -/

namespace Sys2Proof.Machine

/-! ## Virtual queue entries (R255) -/

/-- A virtual queue's entry as it was read, and its SPA. -/
structure QEntry where
  at_ : Nat
  q0  : Word
  q1  : Word
  q2  : Word
  q3  : Word

def QEntry.en (e : QEntry) : Bool := bit e.q0 63
def QEntry.prio (e : QEntry) : Nat := bits e.q0 62 61
def QEntry.log (e : QEntry) : Nat := bits e.q0 60 56
def QEntry.ring (e : QEntry) : Nat := bits e.q0 55 0
def QEntry.head (e : QEntry) : Nat := bits e.q1 63 32
def QEntry.tail (e : QEntry) : Nat := bits e.q1 31 0
def QEntry.stamp (e : QEntry) : Nat := bits e.q2 63 32

/-- A queue entry is malformed (R468). -/
def QEntry.bad (e : QEntry) : Bool := decide (e.log < 4) || decide (16 < e.log) || e.q3 != 0#64

/-- Address of a queue's entry. -/
def State.queueAt (s : State) (die slice q : Nat) : Nat := s.sliceVqt die slice / 32 * 32 + 32 * q

/-- Reading a queue's entry. -/
def State.readQueue (s : State) (die slice q : Nat) : Hw QEntry :=
  match s.hwGet (s.hwWho die slice) true (s.queueAt die slice q) 32 with
  | .fault c f p => .fault c f p
  | .later s => .later s
  | .ok t bs =>
    let w := fun i => wordOf8 (bs.drop (8 * i) |>.take 8)
    .ok t { at_ := s.queueAt die slice q, q0 := w 0, q1 := w 1, q2 := w 2, q3 := w 3 }

/-- Writing the bytes of an entry from an offset on. -/
def State.writeQueue (s : State) (die slice : Nat) (e : QEntry) (off : Nat) (bs : List Byte) : Hw Unit :=
  s.hwPut (s.hwWho die slice) true (e.at_ + off) bs

/-- A write whose failure nothing follows from. -/
def Hw.orElse (r : Hw Unit) (s : State) : State :=
  match r with
  | .ok s _ => s
  | _ => s

/-- ERR and ERRIDX of a queue, where they can be written. -/
def State.queueErr (s : State) (die slice : Nat) (e : QEntry) (code idx : Nat) : State :=
  (s.writeQueue die slice e 16 (bytesOfNat 2 code ++ bytesOfNat 2 idx)).orElse s

/-- HEAD of a queue, written by hardware. -/
def State.queueHead (s : State) (die slice q : Nat) (head : BitVec 32) : State :=
  (s.hwPut (s.hwWho die slice) true (s.queueAt die slice q + 12) (bytesOfNat 4 head.toNat)).orElse s

/-! ## Slots -/

/-- A slot of a die. -/
def State.slot (s : State) (die k : Nat) : Slot := SMap.get (fun _ => Slot.reset) (s.die die).slots k

def State.updSlot (s : State) (die k : Nat) (f : Slot → Slot) : State :=
  s.updDie die (fun d => { d with slots := SMap.put (fun _ => Slot.reset) d.slots k (f (s.slot die k)) })

/-- The slot, as die and number, that a queue is mapped to. -/
def State.mappedTo (s : State) (slice q : Nat) : Option (Nat × Nat) :=
  [0, 1, 2, 3].findSome? (fun d => ((s.die d).slots.find? (fun e => e.2.queue == some (slice, q))).map (fun e => (d, e.1)))

/-! ## Pending bits (R257) -/

/-- Address of the byte of a slice's bitmap that holds a queue's pending bit. -/
def State.pendAt (s : State) (die slice q : Nat) : Nat := s.slicePend die slice / 32 * 32 + q / 8

/-- A queue's pending bit. -/
def State.pendBit (s : State) (die slice q : Nat) : Hw Bool :=
  match s.hwGet (s.hwWho die slice) true (s.pendAt die slice q) 1 with
  | .fault c f p => .fault c f p
  | .later s => .later s
  | .ok s bs => .ok s ((bs.headD 0#8).getLsbD (q % 8))

/-- Setting or clearing it. -/
def State.putPend (s : State) (die slice q : Nat) (v : Bool) : Hw Unit :=
  match s.hwGet (s.hwWho die slice) true (s.pendAt die slice q) 1 with
  | .fault c f p => .fault c f p
  | .later s => .later s
  | .ok s bs =>
    let b := bs.headD 0#8
    let m := 1#8 <<< (q % 8)
    s.hwPut (s.hwWho die slice) true (s.pendAt die slice q) [if v then b ||| m else b &&& ~~~ m]

/-- A notify of a queue that is not served now: PSTAMP if the bit was clear, the bit, and event 2. -/
def State.makePending (s : State) (die slice q : Nat) (e : QEntry) : Hw Unit :=
  match s.pendBit die slice q with
  | .fault c f p => .fault c f p
  | .later s => .later s
  | .ok s was =>
    match (if was then Hw.ok s () else s.writeQueue die slice e 20 (bytesOfNat 4 (bits s.tsc 41 10))) with
    | .fault c f p => .fault c f p
    | .later s => .later s
    | .ok s _ =>
      match s.putPend die slice q true with
      | .ok s _ => .ok (s.latchServers slice 4#4) ()
      | r => r

/-! ## A slot reads TAIL -/

/-- A slot cannot use its queue: it reports once, ERR and ERRIDX tell why where q2 can be written, and the slot waits for the
queue's next notify (R468). -/
def State.slotReport (s : State) (die k slice q code : Nat) (addr : Word) : State :=
  if (s.slot die k).told then s
  else
    let idx := (s.slot die k).head.toNat % 65536
    let s := (s.reportSlice die slice code (some addr) none 0#16).updSlot die k (fun x => { x with told := true })
    (s.hwPut (s.hwWho die slice) true (s.queueAt die slice q + 16) (bytesOfNat 2 code ++ bytesOfNat 2 idx)).orElse s

/-- A slot reads TAIL of its queue through its own die's copy of the slice's block (R470), and the queue's pending bit is
cleared. `none` asks for it to be made again. -/
def State.readTail (s : State) (die k slice q : Nat) : Option State :=
  let s := s.updSlot die k (fun x => { x with told := false })
  match s.readQueue die slice q with
  | .later _ => none
  | .fault c f _ => some (s.slotReport die k slice q c f)
  | .ok s e =>
    if e.bad then some (s.slotReport die k slice q codeDescRange (word q))
    else
      let s := s.updSlot die k (fun x => { x with tail := BitVec.ofNat 32 e.tail })
      some ((s.putPend die slice q false).orElse s)

/-! ## NOTIFY (R257) -/

/-- One more access refused while a slice is SERVING (DROPS). -/
def State.countDrop (s : State) (slice : Nat) : State :=
  s.pmSetBitsAll (migBlock slice + 24) 63 32 (bits (s.pmWord 0 (migBlock slice + 24)) 63 32 + 1)

/-- A free slot of a die. -/
def State.freeSlot (s : State) (die : Nat) : Option Nat := leastBelow 64 (fun k => (s.slot die k).queue.isNone)

/-- The die whose free slot an enabled queue that becomes pending is mapped to (R258). DESIGN CHOICE: the notify's own die, else
the lowest (log entry 148). -/
def State.scanDie (s : State) (die slice : Nat) : Option Nat :=
  (die :: [0, 1, 2, 3]).find? (fun d => s.sliceV d slice && s.sliceOnDie slice d && (s.freeSlot d).isSome)

/-- A scan is to run for a queue, where a slot is free. -/
def State.askScan (s : State) (die slice q : Nat) : State :=
  match s.scanDie die slice with
  | some d => s.updDie d (fun x => { x with scans := x.scans ++ [some (slice, q)] })
  | none => s

/-- A notify has reached a queue: event 2 latches in the streams of the slice's coaches, and in the Dray strands that serve it
(R124). -/
def State.latchNotify (s : State) (slice : Nat) : State := (s.latchServers slice 4#4).latchSlice slice 4#4

/-- A notify reaches a queue on a die. `none` asks for it to be made again. -/
def State.notifyOn (s : State) (die slice q : Nat) : Option State :=
  match s.readQueue die slice q with
  | .later _ => none
  | .fault c f _ => some (s.reportSlice die slice c (some f) none 0#16)
  | .ok s e =>
    match s.mappedTo slice q, e.en with
    | some m, true => (s.readTail m.1 m.2 slice q).map (fun s => s.latchNotify slice)
    | m, en =>
      match s.makePending die slice q e with
      | .ok s _ =>
        let s := s.latchNotify slice
        some (if en && m.isNone then s.askScan die slice q else s)
      | .later _ => none
      | .fault c f _ => some (s.reportSlice die slice c (some f) none 0#16)

/-- A notify sets out on a die; those of one queue that have not been served are one. One to a slice that is SERVING is dropped
where it arises (R257, R444). -/
def State.notify (s : State) (slice q die : Nat) : State :=
  if s.migState slice = 1 then s.countDrop slice
  else if s.notes.any (fun n => n.1 == slice && n.2.1 == q) then s
  else { s with notes := s.notes ++ [(slice, q, die)] }

/-- NOTIFY: the notify is served on its die. One that the slice's EXPORT has overtaken is dropped (R444). -/
def execNotifyEvent (slice queue : Nat) (s : State) : Host.Outcome State Fault Refusal :=
  let die := ((s.notes.find? (fun n => n.1 == slice && n.2.1 == queue)).map (fun n => n.2.2)).getD 0
  match (if s.migState slice = 1 then some (s.countDrop slice) else s.notifyOn die slice queue) with
  | none => .next s
  | some t => .next { t with notes := t.notes.filter (fun n => n.1 != slice || n.2.1 != queue) }

/-! ## Appending (R264) -/

/-- What an append comes to. -/
inductive Appended where
  | ok (s : State)
  | full
  | fault (code : Nat) (addr : Word) (prog : Option Word)
  | later (s : State)

/-- A record is written at TAIL of a queue's ring, TAIL advances, and the queue is notified. -/
def State.append (s : State) (die slice q : Nat) (rec : List Byte) : Appended :=
  match s.readQueue die slice q with
  | .later s => .later s
  | .fault c f p => .fault c f p
  | .ok s e =>
    if e.bad then .fault codeDescRange (word q) none
    else if 2 ^ e.log ≤ (BitVec.ofNat 32 e.tail - BitVec.ofNat 32 e.head).toNat then .full
    else
      let at_ := e.ring + 32 * (e.tail % 2 ^ e.log)
      match s.hwAt (s.hwWho die slice) true (e.at_ + 8) 4 .write with
      | .fault c f p => .fault c f p
      | .later s => .later s
      | .ok s _ =>
        match s.hwPut (s.hwWho die slice) false at_ rec with
        | .fault c f p => .fault c f p
        | .later s => .later s
        | .ok s _ =>
          match s.writeQueue die slice e 8 (bytesOfNat 4 (e.tail + 1)) with
          | .fault c f p => .fault c f p
          | .later s => .later s
          | .ok s _ => .ok (s.notify slice q die)

/-! ## Loop-nest records (R249, R250) -/

/-- Fields of a header. -/
def hdrNl (h : List Word) : Nat := bits (h.getD 1 0#64) 2 0
def hdrOrder (h : List Word) : List Nat := (List.range 6).map (fun e => bits (h.getD 1 0#64) (3 * e + 10) (3 * e + 8))
def hdrShape (h : List Word) : Nat := bits (h.getD 1 0#64) 27 26
def hdrLevel (h : List Word) (l : Nat) : Nat := bits (h.getD (2 + l / 2) 0#64) (32 * (l % 2) + 31) (32 * (l % 2))
def hdrKind (h : List Word) (l : Nat) : Nat := hdrLevel h l / 2 ^ 24 % 4
def hdrTrips (h : List Word) (l : Nat) : Nat := hdrLevel h l % 2 ^ 24 + 1
def hdrQuads (h : List Word) : Nat := (shapeQuads (BitVec.ofNat 2 (hdrShape h)) 0).length
def hdrLens (h : List Word) : List Nat := (List.range 4).map (fun i => bits (h.getD 0 0#64) (16 * i + 15) (16 * i))

/-- Bytes of a buffer that a record uses: ABUF, WBUF, ACC (R249, R251). -/
def hdrUsed (h : List Word) (b : Nat) : Nat :=
  match b with
  | 0 => let n := bits (h.getD 12 0#64) 23 0; if n = 0 then hdrQuads h * 0x30000 else n
  | 1 => let n := bits (h.getD 12 0#64) 47 24; if n = 0 then hdrQuads h * 0x30000 else n
  | _ => let n := bits (h.getD 13 0#64) 23 0; if n = 0 then hdrQuads h * 0x100000 else n

/-- Bytes of a coach's buffer. -/
def hdrWhole (h : List Word) (b : Nat) : Nat := hdrQuads h * (if b < 2 then 0x30000 else 0x100000)

/-- Levels of a header. -/
def hdrLevels (h : List Word) : List Nat := List.range (hdrNl h)

/-- The level at which the product of the trip counts first reaches 2^48. -/
def hdrOverflow (h : List Word) : Option Nat :=
  (hdrLevels h).find? (fun l => decide (2 ^ 48 ≤ (List.range (l + 1)).foldl (fun p k => p * hdrTrips h k) 1))

/-- The first D level. -/
def hdrFirstD (h : List Word) : Option Nat := (hdrLevels h).find? (fun l => hdrKind h l == 2)

/-- A level's field keeps the map. -/
def levelFieldOk (h : List Word) (l : Nat) : Bool :=
  if l < hdrNl h then decide (hdrLevel h l / 2 ^ 26 = 0) && hdrKind h l != 3 else hdrLevel h l == 0

/-- Header word i is valid, but for the number of levels where `noDies` says that the die table is empty. -/
def hdrWordOk (h : List Word) (noDies : Bool) (i : Nat) : Bool :=
  let w := h.getD i 0#64
  match i with
  | 0 => let n := (hdrLens h).foldl (· + ·) 0; decide (1 ≤ n) && decide (n ≤ 8192)
  | 1 =>
    bits w 63 50 == 0 && bits w 7 3 == 0 && decide (1 ≤ hdrNl h) && decide (hdrNl h ≤ 6) &&
      (hdrLevels h).all (fun l => ((hdrOrder h).take (hdrNl h)).contains l) &&
      ((hdrOrder h).drop (hdrNl h)).all (fun e => e == 0)
  | 5 => bits w 63 56 == 0
  | 6 => bits w 63 26 == 0 && bits w 15 8 == 0
  | 7 => bits w 63 48 == 0
  | 12 => bits w 63 48 == 0 && decide (bits w 47 24 ≤ hdrWhole h 1) && decide (bits w 23 0 ≤ hdrWhole h 0)
  | 13 => bits w 63 24 == 0 && decide (bits w 23 0 ≤ hdrWhole h 2)
  | 14 => true
  | 15 => w == 0#64
  | _ =>
    if i < 5 then
      levelFieldOk h (2 * (i - 2)) && levelFieldOk h (2 * (i - 2) + 1) &&
        (match hdrOverflow h with
          | some l => decide (l / 2 + 2 ≠ i)
          | none => true) &&
        (match hdrFirstD h with
          | some l => !noDies || decide (l / 2 + 2 ≠ i)
          | none => true)
    else if i < 12 then
      let b := bits w 63 62
      bits w 61 47 == 0 && !bit w 23 && bits w 46 24 % 256 == 0 && bits w 22 0 % 256 == 0 && b != 3 &&
        (bits w 46 24 == 0 || decide (bits w 22 0 + bits w 46 24 ≤ Nat.min (hdrWhole h b) (hdrUsed h b)))
    else if i % 2 = 0 then bits w 63 56 == 0
    else true

/-- The index of the first failing header word. -/
def hdrFail (h : List Word) (noDies : Bool) : Option Nat := (List.range 32).find? (fun i => !hdrWordOk h noDies i)

/-- No die is valid in a slice's die table. -/
def State.noDies (s : State) (slice : Nat) : Bool := (List.range 4).all (fun k => (s.physDie slice k).isNone)

/-! ## Taking launches (R256, R285) -/

/-- The lowest-numbered FREE tag of a die. -/
def State.freeTagOf (s : State) (die : Nat) : Option Nat :=
  ((List.range 1024).map (fun i => 4 * i + die)).find? (fun t => (s.tag t).st == .free && (s.launch? t).isNone)

/-- Entries at the head of a slot that have retired go, and HEAD advances past them. -/
def State.advanceHead (s : State) (die k : Nat) : State :=
  let x := s.slot die k
  let n := (x.taken.takeWhile (fun t => t == 4096)).length
  if n = 0 then s
  else
    let head := x.head + BitVec.ofNat 32 n
    let s := s.updSlot die k (fun x => { x with taken := x.taken.drop n, head := head })
    match x.queue with
    | some q => s.queueHead die q.1 q.2 head
    | none => s

/-- The next entry of a slot's ring is rejected: ERR and ERRIDX, a report, and the queue moves past it. -/
def State.rejectEntry (s : State) (die k slice : Nat) (e : QEntry) (code : Nat) (faddr fprog : Word) (vtag : BitVec 16) :
    State :=
  let x := s.slot die k
  let idx := (x.head + BitVec.ofNat 32 x.taken.length).toNat
  let s := (s.queueErr die slice e code (idx % 65536)).reportSlice die slice code (some faddr) (some fprog) vtag
  (s.updSlot die k (fun x => { x with taken := x.taken ++ [4096] })).advanceHead die k

/-- The code image of a record, word by word of 32 bits. -/
def State.readCode (s : State) (w : Who) (a n : Nat) : Hw (List IWord) :=
  match s.hwWords w false a (List.range ((n + 1) / 2)) with
  | (.fault c f p, _) => .fault c f p
  | (.later s, _) => .later s
  | (.ok s ws, _) => .ok s ((ws.flatMap (fun (x : Word) => [x.setWidth 32, (x >>> 32).setWidth 32])).take n)

/-- A launch enters its slot under a tag. -/
def State.enterSlot (s : State) (die k slice q tag : Nat) (lnr : Word) (hdr : List Word) (args : Word)
    (code : List IWord) : State :=
  let x := s.slot die k
  let idx := (x.head + BitVec.ofNat 32 x.taken.length).toNat
  let l := newLaunch tag die k slice q idx lnr hdr args s.tsc 0 code
  let s := s.setTag tag { s.tag tag with st := .running }
  { s with launches := s.launches ++ [l] }.updSlot die k (fun x => { x with taken := x.taken ++ [tag] })

/-- A slot takes the record that a ring entry names: its header, its weight sets and its code image. -/
def State.takeRecord (s : State) (die k slice q tag : Nat) (e : QEntry) (lnr arg : Word) : State :=
  let who := s.hwWho die slice
  match s.hwWords who false lnr.toNat (List.range 32) with
  | (.later s, _) => s
  | (.fault c f _, i) => s.rejectEntry die k slice e c f (word i) 0#16
  | (.ok s h, _) =>
    match hdrFail h (s.noDies slice) with
    | some i => s.rejectEntry die k slice e codeUndef lnr (word i) 0#16
    | none =>
      let args := if arg ≠ 0#64 then arg else word (bits (h.getD 5 0#64) 55 0)
      match s.readCode who (lnr.toNat + 256) ((hdrLens h).foldl (· + ·) 0) with
      | .later s => s
      | .fault c f _ => s.rejectEntry die k slice e c f 0xFFFF#64 0#16
      | .ok s code =>
        match s.latchAll who args (wsetHandles (h.getD 14 0#64)) with
        | .later s => s
        | .fault c f _ => (s.dropLatches slice args).rejectEntry die k slice e c f 14#64 0#16
        | .ok s false => (s.dropLatches slice args).rejectEntry die k slice e codeUndef lnr 14#64 0#16
        | .ok s true => s.enterSlot die k slice q tag lnr h args code

/-- A ring entry that breaks R255: the first failing word. -/
def ringFail (ws : List Word) : Option Nat :=
  let w := fun i => ws.getD i 0#64
  if bits (w 0) 63 56 ≠ 0 ∨ bits (w 0) 7 0 ≠ 0 then some 0
  else if w 2 ≠ 0#64 then some 2
  else if w 3 ≠ 0#64 then some 3
  else none

/-- The launches that wait in a slot's ring, as the slot last read TAIL. -/
def Slot.behind (x : Slot) (log : Nat) : Nat := Nat.min (x.tail - x.head).toNat (2 ^ log) - x.taken.length

/-- A slot of a die waits for a tag and may still use one. -/
def State.wantsTag (s : State) (die k : Nat) : Bool :=
  let x := s.slot die k
  x.noTag && !x.told &&
  (match x.queue with
    | none => false
    | some q =>
      match s.readQueue die q.1 q.2 with
      | .ok _ e => e.en && !e.bad && decide ((x.taken.filter (fun t => t != 4096)).length < 16) && x.behind e.log != 0
      | _ => false)

/-- The tag that a slot gets: tags go to slots that wait in ascending order (R285). -/
def State.tagFor (s : State) (die k : Nat) : Option Nat :=
  if (List.range k).any (s.wantsTag die) then none else s.freeTagOf die

/-- SLOT_TAKE (R256): the slot takes the next launch of its ring, or waits for a tag (R285). A slot that cannot use its queue
reports once (R468). -/
def execSlotTake (die slot : Nat) (s : State) : Host.Outcome State Fault Refusal :=
  let x := s.slot die slot
  match x.queue with
  | none => .next s
  | some (slice, q) =>
    if x.told then .next s
    else
      match s.readQueue die slice q with
      | .later s => .next s
      | .fault c f _ => .next (s.slotReport die slot slice q c f)
      | .ok s e =>
        if e.en = false then .next s
        else if e.bad then .next (s.slotReport die slot slice q codeDescRange (word q))
        else if 16 ≤ (x.taken.filter (fun t => t != 4096)).length ∨ x.behind e.log = 0 then
          .next (s.updSlot die slot (fun x => { x with noTag := false }))
        else
          match s.tagFor die slot with
          | none => .next (s.updSlot die slot (fun x => { x with noTag := true }))
          | some tag =>
            let s := s.updSlot die slot (fun x => { x with noTag := false })
            let at_ := e.ring + 32 * ((x.head.toNat + x.taken.length) % 2 ^ e.log)
            match s.hwWords (s.hwWho die slice) false at_ [0, 1, 2, 3] with
            | (.later s, _) => .next s
            | (.fault c f _, i) => .next (s.rejectEntry die slot slice e c f (word (0x100 + i)) 0#16)
            | (.ok s ws, _) =>
              let lnr := word (bits (ws.getD 0 0#64) 55 0)
              match ringFail ws with
              | some k => .next (s.rejectEntry die slot slice e codeUndef lnr (word (0x100 + k)) 0#16)
              | none => .next (s.takeRecord die slot slice q tag e lnr (ws.getD 1 0#64))

/-! ## Filling slots (R258) -/

/-- A pending, enabled, unmapped queue, with its entry. -/
def State.candidate (s : State) (die slice q : Nat) : Option QEntry :=
  match s.pendBit die slice q with
  | .ok _ true =>
    match s.readQueue die slice q with
    | .ok _ e => if e.en ∧ (s.mappedTo slice q).isNone then some e else none
    | _ => none
  | _ => none

/-- Queue a goes before queue b: QPRIO, PSTAMP, slice, number. -/
def beforeQueue (a b : Nat × Nat × QEntry) : Bool :=
  decide (b.2.2.prio < a.2.2.prio) || (a.2.2.prio == b.2.2.prio && (decide (a.2.2.stamp < b.2.2.stamp) ||
    (a.2.2.stamp == b.2.2.stamp && (decide (a.1 < b.1) || (a.1 == b.1 && decide (a.2.1 < b.2.1))))))

/-- The queue that a free slot of a die takes. -/
def State.scanPick (s : State) (die : Nat) : Option (Nat × Nat × QEntry) :=
  let slices := (List.range 64).filter (fun i => s.sliceV die i && s.sliceOnDie i die && s.migState i != 1)
  let all := slices.flatMap (fun i => (List.range 256).filterMap (fun q => (s.candidate die i q).map (fun e => (i, q, e))))
  all.foldl (fun m x => match m with
    | none => some x
    | some y => if beforeQueue x y then some x else some y) none

/-- A queue is mapped to a slot: the slot starts at HEAD and reads TAIL. -/
def State.mapQueue (s : State) (die k slice q : Nat) (pinned : Bool) (e : QEntry) : Option State :=
  let h := BitVec.ofNat 32 e.head
  (s.updSlot die k (fun _ => { Slot.reset with queue := some (slice, q), pinned := pinned, head := h, tail := h })).readTail
    die k slice q

/-- SLOT_SCAN (R258): one of the scans that are to run fills a free slot with the pending queue that comes first; that for a
queue runs on until the queue itself is mapped, or no slot is free. -/
def execSlotScan (die : Nat) (s : State) : Host.Outcome State Fault Refusal :=
  match (s.die die).scans with
  | [] => .next s
  | r :: rs =>
    let t := s.updDie die (fun x => { x with scans := rs })
    match s.freeSlot die, s.scanPick die with
    | some k, some c =>
      let t := if r.all (fun q => q == (c.1, c.2.1)) then t else s
      match t.mapQueue die k c.1 c.2.1 false c.2.2 with
      | none => .next s
      | some t => .next (if c.2.2.bad then (t.putPend die c.1 c.2.1 false).orElse t else t)
    | _, _ => .next t

/-! ## Doorbells (R435) -/

/-- The slice that a function's doorbells and mailbox reach (R433). -/
def State.fnSlice (s : State) (fn : Nat) : Option Nat :=
  if fn = 0 then (if bit (s.fn 0).pslice 63 then some (bits (s.fn 0).pslice 5 0) else none)
  else
    match s.fnAttach fn with
    | some (2, i) => some i
    | _ => none

/-- DOORBELL: a notify of the queue on the die of the host port; a doorbell of a function without a slice, or of a frozen
one, is dropped. -/
def execDoorbell (fn queue : Nat) (s : State) : Host.Outcome State Fault Refusal :=
  match s.fnSlice fn with
  | none => .next s
  | some slice =>
    if (s.fn fn).frozen then .next s else .next (s.notify slice queue 0)

end Sys2Proof.Machine
end

