-- ==== Sys2Proof/Machine/Tx.lean ====
section
/-! DEFINITION. Tx: LAUNCH, QNOTIFY, the gates, TXCLAIM, TXSTAT and TXABORT (R262-R265, R293, R297-R299). -/

namespace Sys2Proof.Machine

/-! ## Queue and gate operands (R263) -/

/-- The RIGHTS of a word whose right or reach fails in its body: the record names the word (R44). -/
def rightsRes (s : State) (i : Instr) : Res :=
  .fault s codeRights (some s.me.pc) (some ((instrWord i).setWidth 64))

/-- UNDEF raised in a word's body (R43). -/
def undefRes (s : State) (i : Instr) : Res :=
  .fault s codeUndef (some s.me.pc) (some ((instrWord i).setWidth 64))

/-- What an operand names: a slice and a number. A task names its own slice; a Dray strand names one that it reaches. -/
def withNamed (s : State) (i : Instr) (v : Word) (f : Nat → Nat → Res) : Res :=
  match s.cur with
  | .coach q _ => f (((s.coach? q).map (fun c => c.slice)).getD 0) v.toNat
  | .dray d k =>
    if bits v 63 16 ≠ 0 ∨ 64 ≤ bits v 15 8 then .fault s codeDescRange (some v) none
    else if s.ownsSlice d (s.strandLevel d k) (s.strandServed d k) (bits v 15 8) then f (bits v 15 8) (bits v 7 0)
    else rightsRes s i

/-- The launch of the running thread holds one more record, up to 64 (R264). -/
def holdRec (s : State) (r : HeldRec) (go : State → Res) : Res :=
  match s.launchOf s.cur with
  | none => .gone s
  | some l =>
    if 64 ≤ l.held.length then .fault s codeQueueOverflow none none
    else go (s.updLaunch l.tag (fun l => { l with held := l.held ++ [r] }))

/-! ## LAUNCH and QNOTIFY (R264) -/

/-- An append by an instruction: its earlier writes are performed first, and a fault is its own. -/
def appendNow (s : State) (slice q : Nat) (rec : List Byte) : Res :=
  match s.fenceWait s.cur allClasses scalarPaths 4 with
  | some r => .wait r.1 r.2
  | none =>
    match s.append (threadDie s.cur) slice q rec with
    | .ok s => .done s
    | .full => .fault s codeQueueOverflow none none
    | .fault c a p => .fault s c (some a) p
    | .later s => .wait s .fence

/-- The checks of LAUNCH and QNOTIFY on their queue. -/
def queueForm (i : Instr) (s : State) (v : Word) (f : Nat → Nat → Res) : Res :=
  withNamed s i v (fun slice q =>
    if s.mayUse (some rightQueue) = false then rightsRes s i
    else if 256 ≤ q then .fault s codeDescRange (some v) none
    else f slice q)

/-- A launch record has been read. -/
def launchRec (i : Instr) (imm : Bool) (slice q : Nat) (s : State) (bs : List Byte) (pois : Bool) : Res :=
  let w := fun k => wordOf8 (bs.drop (8 * k) |>.take 8)
  if pois then .fault s codePoison none none
  else
    match s.launchOf s.cur with
    | none => appendNow s slice q bs
    | some l =>
      if imm then (if l.mode then appendNow (s.openLaunch s.cur) slice q bs else undefRes s i)
      else holdRec s (.launch slice q (w 0) (w 1) (w 2) (w 3) s.cur) .done

/-- LAUNCH in its two forms. -/
def launchForm (cls : WordClass) (imm : Bool) (i : Instr) (k : Tok) (a b : BitVec 4) :
    State → Host.Outcome State Fault Refusal :=
  issue cls i k (fun s => consume (s.pois a || s.pois b) s (queueForm i s (s.reg b) (fun slice q =>
    if (s.reg a).toNat % 32 ≠ 0 then .fault s codeDescRange (some (s.reg a)) none
    else vaFault s (s.reg a) (loadBytes s (s.reg a) 32 0 4 (launchRec i imm slice q)))))

/-- LAUNCH. -/
def execLaunch (k : Tok) (a b : BitVec 4) (s : State) : Host.Outcome State Fault Refusal :=
  launchForm (kWord [4]) false (.launch k a b) k a b s

/-- LAUNCH.IMM: a task's only (R36). -/
def execLaunchImm (k : Tok) (a b : BitVec 4) (s : State) : Host.Outcome State Fault Refusal :=
  launchForm { kWord [4, 5] with coachOnly := true } true (.launchImm k a b) k a b s

/-- QNOTIFY: held in a launch, made at once by a Dray strand. The entry of the queue is read by the notify itself. -/
def execQnotify (k : Tok) (a : BitVec 4) (s : State) : Host.Outcome State Fault Refusal :=
  issue (kWord [4]) (.qnotify k a) k (fun s => consume (s.pois a) s (queueForm (.qnotify k a) s (s.reg a) (fun slice q =>
    if onDray s.cur ∧ s.migState slice = 1 then .done (s.notify slice q (threadDie s.cur))
    else if onDray s.cur then
      match s.readQueue (threadDie s.cur) slice q with
      | .fault c f p => .fault s c (some f) p
      | .later s => .wait s .fence
      | .ok s e => if e.bad then .fault s codeDescRange (some (word q)) none else .done (s.notify slice q (threadDie s.cur))
    else holdRec s (.notify slice q s.cur) .done))) s

/-! ## Gates (R262, R265) -/

/-- A gate's value, by slice x 256 + gate. -/
def State.gate (s : State) (slice g : Nat) : BitVec 48 := SMap.get (fun _ => 0#48) s.gates (slice * 256 + g)

def State.setGate (s : State) (slice g : Nat) (v : BitVec 48) : State :=
  { s with gates := SMap.put (fun _ => 0#48) s.gates (slice * 256 + g) v }

/-- An addition, modulo 2^48. -/
def State.addGate (s : State) (slice g : Nat) (v : Word) : State :=
  s.setGate slice g (s.gate slice g + v.setWidth 48)

/-- A GATE word: its operand names a gate. -/
def gateForm (i : Instr) (k : Tok) (a b : BitVec 4) (f : State → Nat → Nat → Res) :
    State → Host.Outcome State Fault Refusal :=
  issue (kWord []) i k (fun s => consume (s.pois a || s.pois b) s (withNamed s i (s.reg a) (fun slice g =>
    if 256 ≤ g then .fault s codeSemRange (some (word g)) (some 2#64) else f s slice g)))

/-- GATE.READ. -/
def execGateRead (k : Tok) (d a : BitVec 4) (s : State) : Host.Outcome State Fault Refusal :=
  gateForm (.gateRead k d a) k a 0#4 (fun s slice g => writeS d ((s.gate slice g).setWidth 64) false s) s

/-- GATE.ADD: held until the commit in a launch. -/
def execGateAdd (k : Tok) (d a b : BitVec 4) (s : State) : Host.Outcome State Fault Refusal :=
  gateForm (.gateAdd k d a b) k a b (fun s slice g =>
    let old := (s.gate slice g).setWidth 64
    if onDray s.cur then writeS d old false (s.addGate slice g (s.reg b))
    else holdRec s (.gateAdd slice g (s.reg b) s.cur) (fun s => writeS d old false s)) s

/-- GATE.WAITGE: an acquire at DEVICE scope. -/
def execGateWaitge (k : Tok) (d a b : BitVec 4) (s : State) : Host.Outcome State Fault Refusal :=
  gateForm (.gateWaitge k d a b) k a b (fun s slice g =>
    if (s.reg b).toNat % 2 ^ 48 ≤ (s.gate slice g).toNat then
      writeS d ((s.gate slice g).setWidth 64) false (s.acquireL1 4)
    else .wait s (.gate slice g (s.reg b))) s

/-! ## Claimed regions (R293, R298) -/

/-- What the pages of a region come to. -/
inductive Runs where
  | ok (s : State) (runs : List (Nat × Nat))
  | fault (code : Nat) (faddr prog : Word)
  | later (s : State) (w : Wait)

/-- A page's bytes join the runs; an escaping page stays outside. -/
def addRun (runs : List (Nat × Nat)) (x : Xlate) (n : Nat) : List (Nat × Nat) :=
  if apertureOf x.dpa ≠ .hbm ∨ x.memSide then runs
  else
    match runs.getLast? with
    | some r => if r.1 + r.2 = x.dpa then runs.dropLast ++ [(r.1, r.2 + n)] else runs ++ [(x.dpa, n)]
    | none => [(x.dpa, n)]

/-- Translating a region page by page into runs of contiguous DPA; `pages` is how many are left. -/
def State.regionRuns (s : State) (w : Who) (a left pages : Nat) (runs : List (Nat × Nat)) : Runs :=
  match pages with
  | 0 => .ok s runs
  | pages + 1 =>
    let n := Nat.min left (4096 - a % 4096)
    match s.through w a n .write with
    | .fault _ c p => .fault c (word a) p
    | .page s w => .later s w
    | .ok s x => s.regionRuns w (a + n) (left - n) pages (addRun runs x n)

/-- The runs of a region. -/
def State.claimRuns (s : State) (w : Who) (base len : Nat) : Runs :=
  s.regionRuns w base len ((base % 4096 + len + 4095) / 4096) []

/-- The bytes of a line that lie in some runs. -/
def runsMask (runs : List (Nat × Nat)) (line : Nat) : BitVec 64 :=
  runs.foldl (fun m r => m ||| intervalMask r.1 r.2 line) 0#64

/-- Two intervals share a byte. -/
def overlaps (a b : Nat × Nat) : Bool := decide (a.1 < b.1 + b.2) && decide (b.1 < a.1 + a.2)

/-- Other uncommitted launches that have staged or claimed a byte of some runs. -/
def State.runOwners (s : State) (me : Nat) (runs : List (Nat × Nat)) : List Nat :=
  ((s.staged.filter (fun e => e.tag != me && !e.committed && e.mask &&& runsMask runs e.line != 0#64)).map (fun e => e.tag) ++
    (s.launches.filter (fun l => l.tag != me && l.runs.any (fun r => runs.any (overlaps r)))).map (fun l => l.tag)).eraseDups

/-- A launch's staged bytes in some runs are discarded. -/
def State.dropStaged (s : State) (tag : Nat) (runs : List (Nat × Nat)) : State :=
  let f := fun (e : Staged) => { e with mask := e.mask &&& ~~~ (runsMask runs e.line) }
  let s := { s with releases := s.releases.filter (fun e =>
    e.1 / 2 ^ 52 != tag + 1 || !runs.any (fun r => decide (r.1 ≤ e.1 % 2 ^ 52) && decide (e.1 % 2 ^ 52 < r.1 + r.2))) }
  { s with staged := (updateWhere (fun e => e.tag == tag && !e.committed) f s.staged).filter (fun e =>
      e.tag != tag || e.committed || e.mask != 0#64) }

/-- Runs enter the claim filter, which holds 4,096, or the launch aborts. -/
def State.enterRuns (s : State) (l : Launch) (base len : Nat) (runs : List (Nat × Nat)) : Access :=
  if 4096 < s.launches.foldl (fun n x => n + x.runs.length) runs.length then
    .gone (s.abortLaunch l.tag codeCocoonFull 0#16 0#13)
  else
    .go ((s.dropStaged l.tag runs).updLaunch l.tag (fun l =>
      { l with claims := l.claims ++ [(base, len)], runs := l.runs ++ runs }))

/-- A region is claimed: its launch meets the owners of its bytes as a requester. -/
def State.claimRegion (s : State) (l : Launch) (base len : Nat) (runs : List (Nat × Nat)) : Access :=
  match s.meet l (s.runOwners l.tag runs) with
  | .go s => s.enterRuns l base len runs
  | r => r

/-- The operands of TXCLAIM are in range. -/
def claimOk (base len : Word) : Bool :=
  decide (base.toNat % 64 = 0) && decide (len.toNat % 64 = 0) && len != 0#64 && decide (len.toNat < 2 ^ 40) &&
    decide (base.toNat + len.toNat ≤ 2 ^ 56)

/-- TXCLAIM. -/
def execTxclaim (k : Tok) (a b : BitVec 4) (s : State) : Host.Outcome State Fault Refusal :=
  issue { kWord [6] with coachOnly := true } (.txclaim k a b) k (fun s => consume (s.pois a || s.pois b) s
    (let base := s.reg a
    let len := s.reg b
    match s.launchOf s.cur with
    | none => .gone s
    | some l =>
      if claimOk base len = false then .fault s codeDescRange (some base) none
      else if 16 ≤ l.claims.length then .fault s codeDescRange (some base) (some 16#64)
      else if l.irrev then .done s
      else
        match (s.unpark s.cur 0).claimRuns (s.whoOf s.cur true) base.toNat len.toNat with
        | .fault c f p => .fault s c (some f) (some p)
        | .later s w => .wait s w
        | .ok s runs =>
          match s.claimRegion l base.toNat len.toNat runs with
          | .go s => .done s
          | .wait s owners =>
            let r := parkedReq s s.cur l.slice ((runs.headD (0, 0)).1 / 64) 0 0 .thread
            .wait (s.parkAt r owners) (.home r.id)
          | .gone s => .gone s)) s

/-! ## TXSTAT and TXABORT (R299) -/

/-- The launch status word. -/
def State.txStatus (s : State) (l : Launch) : Word :=
  word ((s.vtag l.tag).toNat * 2 ^ 48 + l.attempt * 2 ^ 44 + s.sliceRetry l.die l.slice * 2 ^ 40 + l.held.length * 2 ^ 16 +
    flagNat (bit (l.h 1) 31) * 2 ^ 9 + flagNat l.mode * 2 ^ 8 + flagNat l.policyAbort * 2 ^ 7 + flagNat l.irrev * 2 ^ 6 +
    flagNat l.opened * 2 ^ 5 + l.claims.length)

/-- TXSTAT. -/
def execTxstat (k : Tok) (d : BitVec 4) (s : State) : Host.Outcome State Fault Refusal :=
  issue { kWord [] with coachOnly := true } (.txstat k d) k (fun s =>
    match s.launchOf s.cur with
    | none => .gone s
    | some l => writeS d (s.txStatus l) false s) s

/-- TXABORT. -/
def execTxabort (k : Tok) (c : BitVec 13) (s : State) : Host.Outcome State Fault Refusal :=
  issue { kWord [] with coachOnly := true } (.txabort k c) k (fun s =>
    match s.launchOf s.cur with
    | none => .gone s
    | some l => .gone (s.abortLaunch l.tag codeTxSelf 0#16 c)) s

end Sys2Proof.Machine
end

