-- ==== Sys2Proof/Machine/Points.lean ====
section
/-! DEFINITION. Points: the index space of a launch and the dies that share it (R252, R254). -/

namespace Sys2Proof.Machine

/-- The levels of a kind (0 T, 1 C, 2 D), outermost first. -/
def kindLevels (h : List Word) (kind : Nat) : List Nat :=
  ((hdrOrder h).take (hdrNl h)).filter (fun l => hdrKind h l == kind)

/-- How many tuples the levels of a kind have. -/
def kindCount (h : List Word) (kind : Nat) : Nat := (kindLevels h kind).foldl (fun n l => n * hdrTrips h l) 1

/-- Tuple number i of some levels, the last one varying fastest: (level, index). -/
def tupleOf (h : List Word) (levels : List Nat) (i : Nat) : List (Nat × Nat) :=
  (levels.reverse.foldl (fun (a : List (Nat × Nat) × Nat) l =>
    ((l, a.2 % hdrTrips h l) :: a.1, a.2 / hdrTrips h l)) ([], i)).1

/-- The dies among which D points are dealt: the valid ones of the slice's die table, in virtual order; without a D level
the die of the launch's slot. -/
def State.launchDies (s : State) (l : Launch) : List Nat :=
  if (kindLevels l.hdr 2).isEmpty then [l.die] else (List.range 4).filterMap (s.physDie l.slice)

/-- The place of a die among them. -/
def State.diePlace (s : State) (l : Launch) (die : Nat) : Option Nat := (s.launchDies l).idxOf? die

/-- D points that a die receives. -/
def State.diePoints (s : State) (l : Launch) (die : Nat) : Nat :=
  match s.diePlace l die with
  | none => 0
  | some v =>
    let nd := (s.launchDies l).length
    (kindCount l.hdr 2 + nd - 1 - v) / nd

/-- Spatial points of a launch on a die. -/
def State.spatial (s : State) (l : Launch) (die : Nat) : Nat := s.diePoints l die * kindCount l.hdr 1

/-- The index of D point and C tuple of a die's spatial point. -/
def State.pointIndex (s : State) (l : Launch) (die point : Nat) : Nat × Nat :=
  let nd := (s.launchDies l).length
  (((s.diePlace l die).getD 0) + nd * (point / kindCount l.hdr 1), point % kindCount l.hdr 1)

/-- The indices of a task: n0 to n5. -/
def State.taskIndex (s : State) (l : Launch) (die point temporal : Nat) : List Nat :=
  let p := s.pointIndex l die point
  let all := tupleOf l.hdr (kindLevels l.hdr 2) p.1 ++ tupleOf l.hdr (kindLevels l.hdr 1) p.2 ++
    tupleOf l.hdr (kindLevels l.hdr 0) temporal
  (List.range 6).map (fun i => ((all.find? (fun e => e.1 == i)).map (fun e => e.2)).getD 0)

/-- The walker's entry of a launch on a die. -/
def State.walker (s : State) (die tag : Nat) : Option WalkEntry :=
  s.walkers.find? (fun w => w.die == die && w.tag == tag)

def State.updWalker (s : State) (die tag : Nat) (f : WalkEntry → WalkEntry) : State :=
  { s with walkers := updateWhere (fun w => w.die == die && w.tag == tag) f s.walkers }

/-- Every spatial point of a launch on a die has exited (R254). -/
def State.dieComplete (s : State) (l : Launch) (die : Nat) : Bool :=
  s.spatial l die == 0 ||
  (((s.walker die l.tag).map (fun w => w.next == w.total && w.saved == 0 && w.bound == 0)).getD false)

/-- A launch is complete (R254). -/
def State.launchComplete (s : State) (l : Launch) : Bool := [0, 1, 2, 3].all (s.dieComplete l)

end Sys2Proof.Machine
end

