-- ==== Sys2Proof/Machine/Commit.lean ====
section
/-! DEFINITION. Commit: readiness, commit, the records that fire after it, and abort (R259, R262, R264, R285-R287, R293,
R301, R303, R305-R307, R468). -/

namespace Sys2Proof.Machine

/-! ## Readiness (R259) -/

/-- The launches ahead of a launch in its slot that have not retired. -/
def State.ahead (s : State) (l : Launch) : List Nat :=
  ((s.slot l.die l.slot).taken.takeWhile (fun t => t != l.tag)).filter (fun t => t != 4096)

/-- The dependence gate of a launch has reached its target. -/
def State.gateOpen (s : State) (l : Launch) : Bool :=
  !bit (l.h 6) 16 || decide (bits (l.h 7) 47 0 ≤ (s.gate l.slice (bits (l.h 6) 7 0)).toNat)

/-- A launch may become ready: running, taken, its gate open, and every launch ahead ready. -/
def State.mayBeReady (s : State) (l : Launch) : Bool :=
  !l.ready && (s.tag l.tag).st == .running && l.cause == 0#16 && s.gateOpen l &&
  (s.ahead l).all (fun t => ((s.launch? t).map (fun x => x.ready)).getD true)

/-- LAUNCH_READY (R259): a launch is ready for good. -/
def execLaunchReady (tag : Nat) (s : State) : Host.Outcome State Fault Refusal :=
  match s.launch? tag with
  | none => .next s
  | some l => if s.mayBeReady l then .next (s.updLaunch tag (fun l => { l with ready := true })) else .next s

/-! ## Commit (R303) -/

/-- A fault of a launch is pending: a record that has not been delivered, or a queue parked on one. -/
def State.faultPending (s : State) (l : Launch) : Bool :=
  s.faults.any (fun f => f.body.slice == l.slice && f.body.vtag == s.vtag l.tag) ||
  s.coaches.any (fun c => c.tag == l.tag)

/-- The commit conditions. -/
def State.mayCommit (s : State) (l : Launch) : Bool :=
  s.uncommitted l.tag && l.ready && !l.promoting && l.cause == 0#16 && s.launchComplete l && !s.faultPending l &&
  s.waiting.all (fun w => (w.req.tag.map (fun t => t.1)) != some l.tag) &&
  s.homeq.all (fun r => (r.tag.map (fun t => t.1)) != some l.tag) &&
  (s.ahead l).all (fun t => (s.tag t).st == .committed)

/-- COMMIT_PENDING (R303): PENDING is broadcast. -/
def execCommitPending (tag : Nat) (s : State) : Host.Outcome State Fault Refusal :=
  match s.launch? tag with
  | none => .next s
  | some l =>
    if s.mayCommit l then
      .next ((s.setTag tag { s.tag tag with st := .pending }).updLaunch tag (fun l => { l with acks := 0#4 }))
    else .next s

/-- A die's acknowledgement. -/
def State.ack (s : State) (tag die : Nat) : State :=
  s.updLaunch tag (fun l => { l with acks := l.acks ||| (1#4 <<< die) })

/-- Every die has acknowledged. -/
def State.allAcked (s : State) (tag : Nat) : Bool := ((s.launch? tag).map (fun l => l.acks == 15#4)).getD false

/-- The commit point: the staged bytes become data, the claimed regions are released, and what waited for room of the slice is
tried again (R300). -/
def State.commitPoint (s : State) (l : Launch) : State :=
  (((s.commitStaged l.tag false).setTag l.tag { s.tag l.tag with st := .committed }).updLaunch l.tag (fun l =>
    { l with claims := [], runs := [] })).freeWaits l.slice

/-- The L1s of a die lose the lines that hold a tag's staged entries (R312). -/
def State.l1DropStaged (s : State) (tag die : Nat) : State :=
  ((s.staged.filter (fun e => e.tag == tag && !e.committed)).map (fun e => e.line)).foldl (fun s n =>
    s.l1Drop n (fun e => quadDie e.quad != die)) s

/-- PENDING_ACK (R303): a die marks the tag's entries and drops their lines from its L1s, and the last acknowledgement is the
commit point, of the launch or of its promotion (R300). -/
def execPendingAck (tag die : Nat) (s : State) : Host.Outcome State Fault Refusal :=
  match s.launch? tag with
  | none => .next s
  | some l =>
    if ((s.tag tag).st ≠ .pending ∧ l.promoting = false) ∨ l.acks.getLsbD die then .next s
    else
      let f := fun (e : Staged) => { e with pending := true }
      let mine := fun (e : Staged) => e.tag == tag && !e.committed && homeDie (64 * e.line) == die
      let s := ({ s with staged := updateWhere mine f s.staged }.l1DropStaged tag die).ack tag die
      if s.allAcked tag then .next (if l.promoting then s.promote tag else s.commitPoint l).retryHeld else .next s

/-! ## After the commit point (R262, R264, R468) -/

/-- What firing a held record comes to. -/
def State.fireRec (s : State) (die : Nat) (r : HeldRec) : Appended :=
  match r with
  | .launch slice q w0 w1 w2 w3 _ => s.append die slice q (bytesOf8 w0 ++ bytesOf8 w1 ++ bytesOf8 w2 ++ bytesOf8 w3)
  | .notify slice q _ =>
    if s.migState slice = 1 then .ok (s.notify slice q die)
    else
      match s.readQueue die slice q with
      | .later s => .later s
      | .fault c f p => .fault c f p
      | .ok s e => if e.bad then .fault codeDescRange (word q) none else .ok (s.notify slice q die)
  | .gateAdd slice g v _ => .ok (s.addGate slice g v)

/-- The planes that hold the code of a launch are no longer its own. -/
def State.disown (s : State) (tag : Nat) : State :=
  let f := fun (o : Option Nat) => if o = some tag then none else o
  (s.quads.map (fun e => e.1)).foldl (fun s q => s.updQuad q (fun x =>
    { x with ownerA := f x.ownerA, ownerB := f x.ownerB })) s

/-- A launch leaves its slot and its tag's launch entry. -/
def State.retire (s : State) (l : Launch) : State :=
  let s := { s with
    launches := s.launches.filter (fun x => x.tag != l.tag)
    walkers := s.walkers.filter (fun w => w.tag != l.tag) }
  let f := fun (t : Nat) => if t = l.tag then 4096 else t
  let s := s.updSlot l.die l.slot (fun x => { x with taken := x.taken.map f })
  ((s.advanceHead l.die l.slot).releaseLatches l.slice l.args).disown l.tag

/-- APPEND_RETRY (R264, R468): the next held record fires, or waits and is tried again; after the last the DONE gate is
added to and the launch retires. -/
def execAppendRetry (tag : Nat) (s : State) : Host.Outcome State Fault Refusal :=
  match s.launch? tag with
  | none => .next s
  | some l =>
    if (s.tag tag).st ≠ .committed ∨ s.tsc.toNat < l.retryAt.toNat then .next s
    else
      match l.held with
      | [] =>
        let s := if bit (l.h 6) 17 then s.addGate l.slice (bits (l.h 6) 25 18) 1#64 else s
        .next ((s.retire l).freeTag tag)
      | r :: rs =>
        match s.fireRec (tagDie tag) r with
        | .ok s => .next (s.updLaunch tag (fun l => { l with held := rs, reported := false, retryAt := 0#64 }))
        | .full => .next s
        | .later s => .next s
        | .fault c a _ =>
          let s := if l.reported then s else s.reportSlice (tagDie tag) l.slice c (some a) none 0#16
          .next (s.updLaunch tag (fun l => { l with reported := true, retryAt := s.tsc + 1000000#64 }))

/-! ## Abort (R301, R306, R307) -/

/-- The causes after which a sealed launch is tried again. -/
def retried (cause : Nat) : Bool :=
  cause == codeTxConflict || cause == codeCocoonFull || cause == codeTxKilled || cause == codePoison || cause == codeUe

/-- The report of a final abort. -/
def State.reportAbort (s : State) (l : Launch) : State :=
  let v := s.vtag l.tag
  let head := v.toNat * 2 ^ 48 + l.attempt * 2 ^ 44
  let code := if l.irrev then codeTxIrrev else l.cause.toNat
  let mid := if l.irrev then l.cause.toNat else l.other.toNat
  s.reportSlice l.die l.slice code (some l.lnr) (some (word (head + mid * 2 ^ 16 + l.user.toNat))) v

/-- An abort is complete: the launch is tried again, at once ready as it was, or it is reported and retires. What an irrevocable
launch committed early is merged, and its tag is FREE (R287). -/
def State.endAbort (s : State) (l : Launch) : State :=
  let gen := (s.tag l.tag).gen
  let s : State := { s.dropReleases l.tag with
    waiting := s.waiting.filter (fun w => (w.req.tag.map (fun (t : Nat × BitVec 4) => t.1)) != some l.tag) }
  let s := s.freeWaits l.slice
  if !l.irrev && !l.opened && retried l.cause.toNat && decide (l.attempt < s.sliceRetry l.die l.slice) then
    (s.setTag l.tag { st := .running, gen := gen + 1#4 }).updLaunch l.tag (fun l => { l with
      attempt := l.attempt + 1, started := 0#4, claims := [], runs := [], acks := 0#4, cause := 0#16,
      other := 0#16, user := 0#13 })
  else
    let s : State := (s.reportAbort l).retire l
    ((s.staged.filter (fun e => e.tag == l.tag)).foldl State.mergeEntry s).setTag l.tag { st := .free, gen := gen + 1#4 }

/-- A launch is being aborted. -/
def State.aborting (s : State) (l : Launch) : Bool :=
  l.cause != 0#16 && ((s.tag l.tag).st == .aborting || (s.tag l.tag).st == .irrev)

/-- DISCARD_ACK (R306): a die discards the tag's staged entries; the last acknowledgement completes the abort. -/
def execDiscardAck (tag die : Nat) (s : State) : Host.Outcome State Fault Refusal :=
  match s.launch? tag with
  | none => .next s
  | some l =>
    if s.aborting l = false ∨ l.acks.getLsbD die then .next s
    else
      let gone := fun (e : Staged) => e.tag == tag && !e.committed && homeDie (64 * e.line) == die
      let s := { s with
        staged := s.staged.filter (fun e => !gone e)
        l1 := s.l1.filter (fun e => e.tag != some tag || quadDie e.quad != die) }.ack tag die
      if s.allAcked tag then .next (s.endAbort l) else .next s

end Sys2Proof.Machine
end

