-- ==== Sys2Proof/Machine/CopyEngine.lean ====
section
/-! DEFINITION. CopyEngine: the start, the beats, the faults and the retirement of the commands of a copy queue
(R210, R211, R220-R236, R420-R425). -/

namespace Sys2Proof.Machine

/-! ## Access to commands and beats -/

def Coach.updCopy (c : Coach) (seq : Nat) (f : CopyCmd → CopyCmd) : Coach :=
  { c with copyq := updateWhere (fun o => o.seq == seq) f c.copyq }

def State.updCopy (s : State) (quad seq : Nat) (f : CopyCmd → CopyCmd) : State :=
  s.updCoach quad (fun c => c.updCopy seq f)

def CopyCmd.updBeat (o : CopyCmd) (num : Nat) (f : Beat → Beat) : CopyCmd :=
  { o with beats := updateWhere (fun b => b.num == num) f o.beats }

def State.updBeat (s : State) (quad seq num : Nat) (f : Beat → Beat) : State :=
  s.updCopy quad seq (fun o => o.updBeat num f)

/-- The choice that a command's word makes: CPYH with reset, CQBIND to receive, CQUNB with discard. -/
def CopyCmd.sub (o : CopyCmd) : Bool :=
  match o.ins with
  | .cpyh _ _ _ _ _ v => v == 1#1
  | .cqbindRecv _ _ _ _ => true
  | .cqunbDiscard _ _ => true
  | _ => false

/-- The stream's thread, as the agent of a command's accesses (R308). -/
def CopyCmd.agent (o : CopyCmd) (quad : Nat) : ThreadId := .coach quad (streamPart o.stream)

/-- Path of a command's local accesses: C, or Q for carriage (R308, R424). -/
def CopyCmd.path (o : CopyCmd) : Nat := if o.endp < 8 then 4 else 1

/-- The number from which beats stand for index elements: 2^32 + r reads the index of row r. -/
def indexBeat : Nat := 2 ^ 32

/-- A requester that is a given beat. -/
def isBeat (w : Requester) (quad seq num : Nat) : Bool :=
  match w with
  | .beat q s n => q == quad && s == seq && n == num
  | _ => false

/-- An acknowledgement that is for a given beat. -/
def acksBeat (r : HomeReq) (quad seq num : Nat) : Bool := r.ack == .beat seq num && !onDray r.by_ && threadQuad r.by_ == quad

/-- A write or request of a beat that is still on its way. -/
def State.beatPending (s : State) (quad seq num : Nat) : Bool :=
  s.unapplied.any (fun r => acksBeat r quad seq num) || s.remote.any (fun r => isBeat r.who quad seq num) ||
    s.hostReqs.any (fun r => isBeat r.who quad seq num)

/-- A beat has failed and goes no further; a watchpoint hit lets it perform. -/
def Beat.dead (b : Beat) : Bool :=
  match b.fail with
  | some f => f.1 != BitVec.ofNat 16 codeWatchEngine
  | none => false

/-- A beat needs no further work. -/
def Beat.resolved (b : Beat) : Bool := b.acked || b.dead

def Beat.failWith (b : Beat) (code : Nat) (faddr high : Word) : Beat :=
  if b.fail.isSome then b
  else { b with fail := some (BitVec.ofNat 16 code, faddr, high), todo := if code = codeWatchEngine then b.todo else [] }

/-- Bytes come for a beat, from source address `at_` on. -/
def State.beatData (s : State) (quad seq num at_ : Nat) (bs : List Byte) (p : Bool) : State :=
  s.updBeat quad seq num (fun b => { b with
    got := b.got ++ (List.range bs.length).map (fun i => (at_ + i, bs.getD i 0#8))
    want := b.want - bs.length
    pois := b.pois || p })

/-! ## Fields of beats -/

/-- Addresses from here on stand for destination bytes that a beat reads because it writes only some of their bits.
DEDUCED: R225 has the other bits unwritten, and outside HBM bytes alone can be written, so the engine reads such a byte first
(log entry 20). -/
def underBase : Nat := 2 ^ 60

/-- The descriptor that a beat reads. -/
def CopyCmd.readDesc (o : CopyCmd) (b : Beat) : Desc := if indexBeat ≤ b.num then o.list else o.src

/-- Bytes of an index element. -/
def CopyCmd.indexBytes (o : CopyCmd) : Nat := o.list.width / 8

/-- Byte address of the index element of row r. -/
def CopyCmd.indexAt (o : CopyCmd) (r : Nat) : Nat :=
  o.list.base + o.list.flatOff (r / o.list.dim0) + r % o.list.dim0 * o.indexBytes

/-- Row and first byte of a queue row of a command, and its bytes. -/
def CopyCmd.queueRow (o : CopyCmd) (pos : Nat) : Nat × Nat × Nat :=
  let d := o.rowDesc
  let k := pos % d.perRow * 256
  (pos / d.perRow, k, Nat.min 256 (d.rowBytes - k))

/-- FADDR of a beat: the first byte of its source, or of its destination (R234). -/
def CopyCmd.srcFirst (o : CopyCmd) (b : Beat) : Word :=
  if indexBeat ≤ b.num then word (o.indexAt (b.num - indexBeat))
  else
    match o.kind with
    | .data => word ((o.srcBytes (o.rowAt b.pos) b.row (o.byteAt b.pos) 1).headD 0)
    | .send => word (o.src.base + o.src.flatOff b.row + (o.queueRow b.pos).2.1)
    | _ => word (o.dstByte (o.rowAt b.pos) b.row (o.byteAt b.pos))

def CopyCmd.dstFirst (o : CopyCmd) (b : Beat) : Word :=
  match o.kind with
  | .recv => word (o.dst.base + o.dst.flatOff b.row + (o.queueRow b.pos).2.1)
  | _ => word (o.dstByte (o.rowAt b.pos) b.row (o.byteAt b.pos))

/-- Eviction class of a line under the policy word (R216). -/
def CopyCmd.evictOf (o : CopyCmd) (dpa : Nat) : Nat :=
  let h := lineHash dpa
  if h < o.pol.toNat % 256 then 2 else if h < o.pol.toNat / 256 % 256 then 1 else 0

/-! ## Order among a stream's accesses (R229, R313) -/

/-- Two commands have GLOBAL operands of one class, index lists among them. -/
def sharesClass (o p : CopyCmd) : Bool :=
  let cs := fun (x : CopyCmd) =>
    (([x.src, x.dst] ++ (if x.hasList then [x.list] else [])).filter (fun d => d.space == spGlobal)).map (fun d => d.cls)
  (cs o).any (fun k => (cs p).contains k)

/-- A beat that comes earlier in a stream's order of one class and has not set out its writes. -/
def Coach.beatBefore (c : Coach) (o : CopyCmd) (b : Beat) : Bool :=
  c.copyq.any (fun p => p.stream == o.stream && decide (p.seq ≤ o.seq) && sharesClass o p &&
    p.beats.any (fun x => (decide (p.seq < o.seq) || decide (x.num < b.num)) && decide (x.num < indexBeat) && !x.wrote &&
      !x.dead))

/-- A write of the same agent, path and class to bytes of a line is still on its way. -/
def State.ownWrite (s : State) (th : ThreadId) (path cls line : Nat) (mask : BitVec 64) : Bool :=
  s.unapplied.any (fun r => r.by_ == th && (r.path == path || r.memSide) && r.cls == cls && r.line == line &&
    r.mask &&& mask != 0#64)

/-- A posted write that happens before a stream's accesses has not performed (R230, R316): one of the same bytes; on the way to
another part or the host, any. -/
def State.beatBehind (s : State) (th : ThreadId) (dpa n : Nat) : Bool :=
  s.unapplied.any (fun r => r.open_ && s.isBehind th r.id && (apertureOf dpa != .hbm ||
    (r.line == dpa / 64 && r.mask &&& lineMask (dpa % 64) n != 0#64))) ||
  (apertureOf dpa != .hbm && s.remote.any (fun r => match r.who with
    | .store _ _ id => s.isBehind th id
    | _ => false))

/-! ## Reading -/

/-- What a micro-step of a beat comes to: nothing can be done yet, a new state, or a stop. -/
inductive BeatStep where
  | stuck
  | moved (s : State)
  | refuse

/-- Bytes whose values nothing gives. -/
def State.drawBytes (s : State) (n : Nat) : State × List Byte :=
  ({ s with free := s.free + (n + 7) / 8 },
    (List.range n).map (fun i => (Config.freeWord (s.free + i / 8)).extractLsb' (8 * (i % 8)) 8))

/-- Source bytes from a store of the coach, a neighbour's ABUF or a staging slice. DEDUCED: a NABUF command reads, to its end,
the quadrant that its operand named at acceptance or at its UNMOULT, whatever IDMAP has become since; where an UNMOULT found
none, the bytes are free (R244; log entry 143). -/
def State.localRead (s : State) (c : Coach) (d : Desc) (near : Option Nat) (lo n : Nat) : State × List Byte × Bool :=
  let at_ := lo + (d.bufBase - d.base)
  match bufOf d.space with
  | some b => (s, s.bufBytes c b at_ n, s.bufPois c b at_ n)
  | none =>
    if d.space = spNabuf then
      match near with
      | some q =>
        (s, (List.range n).map (fun i => (s.quad q).byte .abuf (lo + i)),
          (granulesOf .abuf lo n).any (fun g => (s.quad q).pois .abuf (g / 256)))
      | none => ((s.drawBytes n).1, (s.drawBytes n).2, false)
    else
      match s.l2sSlice c.slice d with
      | some l2 => (s, s.l2sBytes l2 c.slice lo n, s.l2sPois l2 c.slice lo n)
      | none => (s, List.replicate n 0#8, false)

/-- A beat fails. -/
def State.failBeat (s : State) (c : Coach) (o : CopyCmd) (b : Beat) (code : Nat) (faddr : Word) : BeatStep :=
  .moved (s.updBeat c.quad o.seq b.num (fun b => b.failWith code faddr 0#64))

/-- A beat waits for a page on its way in. -/
def State.parkBeat (s : State) (c : Coach) (o : CopyCmd) (b : Beat) (page : Nat) : BeatStep :=
  .moved (s.updBeat c.quad o.seq b.num (fun b => { b with page := some page }))

/-- A beat cannot go on yet: it waits for a page on its way in, or for what the access has asked for. -/
def State.beatWait (s : State) (c : Coach) (o : CopyCmd) (b : Beat) (t : State) (w : Wait) : BeatStep :=
  match w with
  | .page _ page => t.parkBeat c o b page
  | _ => if t.walks = s.walks then .stuck else .moved t

/-- The page that a beat waits for is still on its way. -/
def State.pageAway (s : State) (c : Coach) (b : Beat) : Bool :=
  match b.page with
  | some p => s.pulls.any (fun x => x.page == p && x.domain == s.coachDomain c)
  | none => false

/-- A beat's access waits at its home on the launches that own its bytes. -/
def State.beatParked (s : State) (quad seq num : Nat) : Bool :=
  s.waiting.any (fun w => w.req.mask == 0#64 && acksBeat w.req quad seq num && !s.mayRetry w)

/-- The first piece of a beat has been asked for, or has come. -/
def State.nextPiece (s : State) (c : Coach) (o : CopyCmd) (b : Beat) : State :=
  s.updBeat c.quad o.seq b.num (fun b => { b with todo := b.todo.drop 1, page := none })

/-- Bytes read from memory, and the watchpoint that the read hits; a line not in the cache ways costs an HBM beat. -/
def State.memoryRead (s : State) (c : Coach) (o : CopyCmd) (b : Beat) (x : Xlate) (at_ : Nat) (bs : List Byte)
    (p : Bool) : State :=
  let s := (s.nextPiece c o b).beatData c.quad o.seq b.num at_ bs p
  match s.engineWatch c.slice x.dpa bs.length .read with
  | some hit =>
    s.updBeat c.quad o.seq b.num (fun b => b.failWith codeWatchEngine (watchAddr at_ x.dpa hit) (watchHigh hit))
  | none => s

/-- Fetching the first piece of a beat from memory, the host or another part. -/
def State.fetchPiece (s : State) (c : Coach) (o : CopyCmd) (b : Beat) (d : Desc) (x : Xlate) (lo n : Nat) : BeatStep :=
  let th := o.agent c.quad
  let cold := x.memSide || !s.cache.any (fun l => l.line == x.dpa / 64)
  if s.beatBehind th x.dpa n then .stuck else
  let r := (s.unpark th o.path).fetchLine th (.beat c.quad o.seq b.num) d.cls o.path (d.esc || o.path == 4)
    (o.evictOf x.dpa) (o.target == 0) x (word lo) n
  match r with
  | .got s bs p =>
    .moved ((s.memoryRead c o b x lo bs p).charge c.slice (if cold then .beatHbm else .beatNear) 1)
  | .asked s _ => .moved (s.nextPiece c o b)
  | .fault code => s.failBeat c o b code (if underBase ≤ lo then o.dstFirst b else o.srcFirst b)
  | .busy s (.home _) => .moved s
  | .busy _ _ => .stuck
  | .gone s => .moved s
  | .refuse => .refuse

/-- A peer's memory as a translated address; an offset of 2^32 or more has none (R426). -/
def fabricXlate (node grant off : Nat) : Xlate :=
  { dpa := 2 ^ 50 + node * 2 ^ 42 + grant * 2 ^ 32 + off, memSide := false, entry := none, setD := none }

/-- The next piece of a beat is read. -/
def State.readStep (s : State) (c : Coach) (o : CopyCmd) (b : Beat) : BeatStep :=
  let d := o.readDesc b
  let th := o.agent c.quad
  match b.todo with
  | [] => .stuck
  | (lo, n) :: _ =>
    if underBase ≤ lo then
      match b.out with
      | [] => .stuck
      | p :: _ =>
        let x : Xlate := { dpa := p.dpa + (lo - underBase - p.tva), memSide := p.memSide, entry := p.entry, setD := none }
        s.fetchPiece c o b o.dst x lo n
    else if d.space = spFabric then
      if s.pageAway c b then .stuck
      else
        match s.readPeer th c.slice d.peer with
        | .fault code => s.failBeat c o b code (o.srcFirst b)
        | .page t w => s.beatWait c o b t w
        | .bad s => s.failBeat c o b codeRemoteNack (o.srcFirst b)
        | .ok s node grant =>
          if 2 ^ 32 < lo + n then s.failBeat c o b codeRemoteNack (o.srcFirst b)
          else s.fetchPiece c o b d (fabricXlate node grant lo) lo n
    else if d.space = spGlobal then
      if s.pageAway c b ∨ s.beatParked c.quad o.seq b.num ∨ c.beatBefore o b then .stuck
      else
        match s.through (s.whoOf th false) lo n .read with
        | .fault s code _ => s.failBeat c o b code (o.srcFirst b)
        | .page t w => s.beatWait c o b t w
        | .ok s x =>
          if s.ownWrite th o.path d.cls (x.dpa / 64) (lineMask (x.dpa % 64) n) then .stuck
          else s.fetchPiece c o b d x lo n
    else
      let r := s.localRead c d o.near lo n
      .moved (((r.1.nextPiece c o b).beatData c.quad o.seq b.num lo r.2.1 r.2.2).charge c.slice .beatNear 1)

/-! ## Writing -/

/-- A byte that has come for a beat. -/
def gotByte (b : Beat) (a : Nat) : Byte := ((b.got.find? (fun g => g.1 == a)).map (fun g => g.2)).getD 0#8

/-- The 64 pattern bits of a CFILL (R225). -/
def CopyCmd.pattern (o : CopyCmd) : Nat := o.cval.toNat

/-- Bits that a beat writes into byte k of its row, and which of the eight they are. -/
def CopyCmd.rowByte (o : CopyCmd) (b : Beat) (digest : List Byte) (k : Nat) : Byte × Byte :=
  let r := o.rowAt b.pos
  let bitsAt := fun (f : Nat → Bool) => (List.range 8).foldl (fun (v : Byte) u => if f u then v ||| (1#8 <<< u) else v) 0#8
  let mask := bitsAt (fun u => decide (8 * k + u < o.bitsIn r))
  match o.kind with
  | .fill => (bitsAt (fun u => o.pattern.testBit ((8 * k + u) % 64)) &&& mask, mask)
  | .fin => (digest.getD (r * o.dst.dim0 + k) 0#8, mask)
  | .recv =>
    let d := o.rowDesc
    (gotByte b (k % 256), bitsAt (fun u => decide (8 * k + u < d.dim0 * d.width)))
  | _ =>
    (bitsAt (fun u =>
      if 8 * k + u < o.bitsIn r then
        let at_ := o.srcBit r b.row (8 * k + u)
        (gotByte b (at_ / 8)).getLsbD (at_ % 8)
      else false), mask)

/-- The destination bytes of a beat: address, value and bits written. -/
def CopyCmd.outBytes (o : CopyCmd) (b : Beat) (digest : List Byte) : List (Nat × Byte × Byte) :=
  match o.kind with
  | .recv =>
    let q := o.queueRow b.pos
    (List.range q.2.2).map (fun i => (o.dst.base + o.dst.flatOff b.row + q.2.1 + i, o.rowByte b digest (q.2.1 + i)))
  | _ =>
    (List.range b.count).map (fun i =>
      (o.dstByte (o.rowAt b.pos) b.row (o.byteAt b.pos + i), o.rowByte b digest (o.byteAt b.pos + i)))

/-- A byte over an older one. -/
def mergeByte (old : Byte) (v : Byte × Byte) : Byte := (old &&& ~~~ v.2) ||| (v.1 &&& v.2)

/-- Row and first byte of a position, in the units of the command's kind. -/
def CopyCmd.spotAt (o : CopyCmd) (pos : Nat) : Nat × Nat :=
  match o.kind with
  | .recv => ((o.queueRow pos).1, (o.queueRow pos).2.1)
  | _ => (o.rowAt pos, o.byteAt pos)

/-- Bytes of destination row r that the command writes. -/
def CopyCmd.rowSpan (o : CopyCmd) (r : Nat) : Nat := if o.indexed || o.kind == .recv then o.rowDesc.rowBytes else o.bytesIn r

/-- The rows that share a beat's poison: those of its command, and under an index list of CPYS its own row alone. -/
def CopyCmd.rowsOf (o : CopyCmd) (b : Beat) : List Nat :=
  if o.isScatter then [b.row]
  else List.range (if o.kind == .recv then o.count else o.total / o.rowDesc.rowBytes + 1)

/-- The command's destination covers every byte of a granule of a buffer. -/
def CopyCmd.covers (o : CopyCmd) (b : Beat) (lo n : Nat) : Bool :=
  let at_ := fun r => o.rowDesc.bufBase + o.rowDesc.flatOff r
  (List.range n).all (fun u => (o.rowsOf b).any (fun r =>
    decide (at_ r ≤ lo + u) && decide (lo + u < at_ r + o.rowSpan r)))

/-- A position of the command before a beat's writes into a granule. Positions alone decide, so that a command that resumes
after a fault or an UNMOULT goes on as it began (R235, R236). -/
def CopyCmd.begun (o : CopyCmd) (b : Beat) (lo n : Nat) : Bool :=
  let at_ := fun r => o.rowDesc.bufBase + o.rowDesc.flatOff r
  let meets := fun (a len : Nat) => decide (a < lo + n) && decide (lo < a + len)
  let spot := o.spotAt b.pos
  ((o.rowsOf b).any (fun r => !o.isScatter && decide (r < spot.1) && meets (at_ r) (o.rowSpan r))) ||
    meets (at_ (if o.isScatter then b.row else spot.1)) spot.2

/-- The poison that a beat leaves on a granule: a command's first write into a granule that it covers whole begins it
afresh (R160, R371). -/
def State.markCopy (s : State) (c : Coach) (o : CopyCmd) (b : Beat) (buf : Buf) (g : Nat) (p : Bool) : State :=
  let fresh := o.covers b g buf.granule && !o.begun b g buf.granule
  s.updQuad (c.locate buf g).1 (fun x =>
    let i := (c.locate buf g).2 / buf.granule
    x.setPois buf i (if fresh then p else p || x.pois buf i))

/-- A beat's bytes go into a buffer, a tile register or a staging slice. -/
def State.localWrite (s : State) (c : Coach) (o : CopyCmd) (b : Beat) (ws : List (Nat × Byte × Byte)) (p : Bool) : State :=
  let d := o.dst
  match bufOf d.space with
  | some buf =>
    let sh := d.bufBase - d.base
    let s := ws.foldl (fun s w => s.setBufByte c buf (w.1 + sh) (mergeByte (s.bufByte c buf (w.1 + sh)) w.2)) s
    ((ws.map (fun w => (w.1 + sh) / buf.granule * buf.granule)).eraseDups).foldl (fun s g => s.markCopy c o b buf g p) s
  | none =>
    match s.l2sSlice c.slice d with
    | none => s
    | some l2 =>
      (runsOf (ws.map (fun w => w.1))).foldl (fun s r =>
        let bs := (ws.filter (fun w => decide (r.1 ≤ w.1) && decide (w.1 < r.1 + r.2))).map (fun w =>
          mergeByte ((s.l2sBytes l2 c.slice w.1 1).headD 0#8) w.2)
        s.putL2s l2 c.slice r.1 bs p) s

/-- The hash state of a stream (R223). -/
def Coach.hashOf (c : Coach) (stream : Nat) : HashState := if stream = 1 then c.hashL else c.hashS
def Coach.setHash (c : Coach) (stream : Nat) (h : HashState) : Coach :=
  if stream = 1 then { c with hashL := h } else { c with hashS := h }

/-- The digest that a HFIN writes. -/
def Coach.digestFor (c : Coach) (o : CopyCmd) : List Byte :=
  if o.kind = .fin then (c.hashOf o.stream).squeeze o.count else []

/-- Old bytes under a piece that a beat writes only in part: its own launch's view at home, and elsewhere what the beat has
read for the purpose (R225; log entry 20). -/
def State.underBytes (s : State) (th : ThreadId) (b : Beat) (p : OutPiece) : List Byte :=
  if apertureOf p.dpa = .hbm then s.viewBytes ((s.launchOf th).map (fun l => l.tag)) p.memSide p.dpa p.len
  else (List.range p.len).map (fun i => gotByte b (underBase + p.tva + i))

/-- The byte of a piece outside HBM whose other bits the beat has still to read before it can write it whole. -/
def Beat.underAsk (b : Beat) (p : OutPiece) (ws : List (Nat × Byte × Byte)) : Option Nat :=
  if apertureOf p.dpa = .hbm then none
  else ((ws.find? (fun w => w.2.2 != 255#8)).map (fun w => w.1)).filter (fun a => b.got.all (fun g => g.1 != underBase + a))

/-- The next piece of a beat's writes sets out. -/
def State.postPiece (s : State) (c : Coach) (o : CopyCmd) (b : Beat) (p : OutPiece) (ws : List (Nat × Byte × Byte)) :
    BeatStep :=
  let th := o.agent c.quad
  let ws := ws.filter (fun w => decide (p.tva ≤ w.1) && decide (w.1 < p.tva + p.len))
  let part := ws.any (fun w => w.2.2 != 255#8)
  if apertureOf p.dpa ≠ .hbm ∧ s.beatBehind th p.dpa p.len then .stuck
  else if part ∧ (s.ownWrite th o.path o.dst.cls (p.dpa / 64) (lineMask (p.dpa % 64) p.len) ∨
      o.beats.any (fun x => x.num != b.num && apertureOf p.dpa != .hbm && s.beatPending c.quad o.seq x.num)) then .stuck
  else match b.underAsk p ws with
  | some a => .moved (s.updBeat c.quad o.seq b.num (fun b => { b with todo := [(underBase + a, 1)], want := 1 }))
  | none =>
    let u := if part then s.underBytes th b p else []
    let bs := (List.range ws.length).map (fun i => mergeByte (u.getD i 0#8) ((ws.map (fun w => w.2)).getD i (0#8, 255#8)))
    let spec : WriteSpec :=
      { th := th, cls := o.dst.cls, path := if o.dst.space = spFabric then 4 else o.path,
        esc := o.dst.esc || o.path == 4 || o.dst.space == spFabric, rel := none, ack := .beat o.seq b.num,
        evict := o.evictOf p.dpa }
    let x : Xlate := { dpa := p.dpa, memSide := p.memSide, entry := p.entry, setD := none }
    match s.postWrite spec x (word p.tva) bs with
    | .fault code => s.failBeat c o b code (o.dstFirst b)
    | .busy => .stuck
    | .refuse => .refuse
    | .sent s _ =>
      let s := s.updBeat c.quad o.seq b.num (fun b => { b with out := b.out.drop 1 })
      let s := match s.engineWatch c.slice p.dpa bs.length .write with
        | some hit =>
          s.updBeat c.quad o.seq b.num (fun b =>
            b.failWith codeWatchEngine (watchAddr p.tva p.dpa hit) (watchHigh hit))
        | none => s
      -- a write to the host has performed at SYSTEM scope when a read has flushed it (R315)
      if apertureOf p.dpa = .host ∧ 6 ≤ o.dst.scope then
        match s.hostWindow (hostAddr p.dpa) bs.length with
        | some win => .moved (s.hostRead (.beat c.quad o.seq b.num) (word p.tva) (hostAddr p.dpa) bs.length win.2).1
        | none => .moved s
      else .moved s

/-- Bytes of a queue row to be sent: the rest of the row is zero (R187). -/
def CopyCmd.rowBits (o : CopyCmd) (b : Beat) : BitVec 2048 :=
  let q := o.queueRow b.pos
  let lo := o.src.base + o.src.flatOff b.row + q.2.1
  BitVec.ofNat 2048 (natOfBytes ((List.range q.2.2).map (fun i => gotByte b (lo + i))))

/-- A queue row is sent, when the endpoint has room for it. -/
def State.sendStep (s : State) (c : Coach) (o : CopyCmd) (b : Beat) : BeatStep :=
  let e := c.endp o.endp
  if b.pois then s.failBeat c o b codePoison (o.srcFirst b)
  else
    match c.roomFor o.endp o.seq 1 with
    | .broken code => s.failBeat c o b code (o.srcFirst b)
    | .breaks => .moved (s.breakEndp c.quad o.endp false)
    | .later =>
      if e.bound ∧ e.waitFrom.isNone ∧ c.rowsAhead o.endp o.seq = false then
        .moved (s.updEndp c.quad o.endp (fun e => e.startWait s.tsc))
      else .stuck
    | .rows _ =>
      let s := s.sendRow c.quad o.endp (o.rowBits b)
      .moved (s.updBeat c.quad o.seq b.num (fun b => { b with wrote := true, mark := e.next }))

/-- The writes of a beat whose data are complete. -/
def State.writeStep (s : State) (c : Coach) (o : CopyCmd) (b : Beat) : BeatStep :=
  let done := fun (s : State) => s.updBeat c.quad o.seq b.num (fun b => { b with wrote := true })
  if o.beats.any (fun x => decide (x.num < b.num) && !x.wrote && (!x.dead || o.kind == .send)) then .stuck
  else if o.kind = .send then s.sendStep c o b
  else if o.noDst then .moved (done s)
  else if b.pois && (o.dst.space == spGlobal || o.dst.space == spFabric) then
    s.failBeat c o b codePoison (o.srcFirst b)
  else if o.dst.space = spGlobal ∨ o.dst.space = spFabric then
    match b.out with
    | [] => .moved (done s)
    | p :: _ =>
      if o.dst.space = spGlobal ∧ c.beatBefore o b then .stuck
      else s.postPiece c o b p (o.outBytes b (c.digestFor o))
  else .moved (done ((s.localWrite c o b (o.outBytes b (c.digestFor o)) b.pois).charge c.slice .beatNear 1))

/-! ## Issuing beats -/

/-- The first piece of a beat's destination that has not been translated is. -/
def State.xlateStep (s : State) (c : Coach) (o : CopyCmd) (b : Beat) : BeatStep :=
  let th := o.agent c.quad
  let set := fun (s : State) (dpa : Nat) (side : Bool) (e : Option TlbEntry) (tva : Nat) =>
    s.updBeat c.quad o.seq b.num (fun b => { b with
      out := updateWhere (fun p => p.tva == tva)
        (fun p => { p with ready := true, dpa := dpa, memSide := side, entry := e }) b.out, page := none })
  match b.out.find? (fun p => !p.ready) with
  | none => .stuck
  | some p =>
    if s.pageAway c b then .stuck
    else if o.dst.space = spFabric then
      match s.readPeer th c.slice o.dst.peer with
      | .fault code => s.failBeat c o b code (o.dstFirst b)
      | .page t w => s.beatWait c o b t w
      | .bad s => s.failBeat c o b codeRemoteNack (o.dstFirst b)
      | .ok s node grant =>
        if 2 ^ 32 < p.tva + p.len then s.failBeat c o b codeRemoteNack (o.dstFirst b)
        else .moved (set s (fabricXlate node grant p.tva).dpa false none p.tva)
    else
      match s.through (s.whoOf th false) p.tva p.len .write with
      | .fault s code _ => s.failBeat c o b code (o.dstFirst b)
      | .page t w => s.beatWait c o b t w
      | .ok s x => .moved (set s x.dpa x.memSide x.entry p.tva)

/-- An index element has come (R221). -/
def State.indexStep (s : State) (c : Coach) (o : CopyCmd) (b : Beat) : BeatStep :=
  let r := b.num - indexBeat
  let x := natOfBytes ((List.range o.indexBytes).map (fun i => gotByte b (o.indexAt r + i)))
  if b.pois then s.failBeat c o b codePoison (o.srcFirst b)
  else if (if o.isGather then o.src else o.dst).flatRows ≤ x then s.failBeat c o b codeDescRange (o.srcFirst b)
  else
    .moved (s.updCopy c.quad o.seq (fun o => { o with
      index := some (r, x), beats := o.beats.filter (fun x => x.num != b.num) }))

/-- What a beat does next. -/
def State.beatStep (s : State) (c : Coach) (o : CopyCmd) (b : Beat) : BeatStep :=
  if b.dead then .stuck
  else if b.out.any (fun p => !p.ready) then s.xlateStep c o b
  else if !b.todo.isEmpty then s.readStep c o b
  else if 0 < b.want then .stuck
  else if indexBeat ≤ b.num then s.indexStep c o b
  else if b.wrote then .stuck
  else s.writeStep c o b

/-- A beat with nothing done. -/
def newBeatAt (num pos count row : Nat) : Beat where
  num := num
  pos := pos
  count := count
  row := row
  todo := []
  want := 0
  got := []
  pois := false
  out := []
  wrote := false
  acked := false
  fail := none
  mark := 0#32
  page := none

/-- Untranslated pieces. -/
def outPieces (l : List (Nat × Nat)) : List OutPiece :=
  l.map (fun r => { tva := r.1, len := r.2, ready := false, dpa := 0, memSide := false, entry := none })

def sumLen (l : List (Nat × Nat)) : Nat := (l.map (fun r => r.2)).sum

/-- A beat is issued: the command moves past it. -/
def State.pushBeat (s : State) (c : Coach) (o : CopyCmd) (b : Beat) : State :=
  s.updCopy c.quad o.seq (fun o => { o with
    beats := o.beats ++ [b], pos := o.pos + b.count, nextBeat := o.nextBeat + 1 })

/-- The next beat of a data, fill or digest command, of index x. -/
def State.dataBeat (s : State) (c : Coach) (o : CopyCmd) (x : Nat) : State :=
  let r := o.rowAt o.pos
  let k := o.byteAt o.pos
  let n := o.beatLen x o.pos
  let todo := if o.reads then runsOf (o.srcBytes r x k n) else []
  let out :=
    if !o.noDst && (o.dst.space == spGlobal || o.dst.space == spFabric) then outPieces [(o.dstByte r x k, n)] else []
  s.pushBeat c o { newBeatAt o.nextBeat o.pos n x with
    todo := todo, want := sumLen todo, out := out
    pois := (o.kind == .fin && (c.hashOf o.stream).poison) || (o.kind == .fill && o.cpoison) }

/-- CPFX and CWB on one line (R226): nothing faults, and a line that is not ordinary HBM is skipped. Their accesses keep their
place among their stream's of the class (R229). CWB writes back a committed line of the cocoon too, by way of the cache ways
(R226, R326). -/
def State.lineBeat (s : State) (c : Coach) (o : CopyCmd) : BeatStep :=
  let a := o.dstByte (o.rowAt o.pos) 0 (o.byteAt o.pos)
  let n := o.beatLen 0 o.pos
  let b := { newBeatAt o.nextBeat o.pos n 0 with wrote := true }
  match s.through (s.whoOf (o.agent c.quad) false) a n .read with
  | .fault s _ _ => .moved (s.pushBeat c o b)
  | .page t _ => if t.walks = s.walks ∧ t.pulls = s.pulls then .stuck else .moved t
  | .ok s x =>
    if apertureOf x.dpa ≠ .hbm ∨ x.memSide then .moved (s.pushBeat c o b)
    else if c.beatBefore o b ∨ s.ownWrite (o.agent c.quad) o.path o.src.cls (x.dpa / 64) (BitVec.allOnes 64) then .stuck
    else
      let line := x.dpa / 64
      let s :=
        if o.isWb then
          let s := s.mergeLine line
          if s.cache.any (fun l => l.line == line && l.dirty) then
            let f := fun (l : CacheLine) => { l with dirty := false }
            { s with cache := updateWhere (fun l => l.line == line) f s.cache }.writeBack line
          else s
        else
          let s := s.touch line (o.evictOf x.dpa) false
          let f := fun (l : CacheLine) => { l with cls := o.evictOf x.dpa }
          { s with cache := updateWhere (fun l => l.line == line) f s.cache }
      .moved (s.pushBeat c o b)

/-- The next queue row of a CQSEND, read from its descriptor. -/
def State.sendBeat (s : State) (c : Coach) (o : CopyCmd) (x : Nat) : State :=
  let q := o.queueRow o.pos
  let lo := o.src.base + o.src.flatOff x + q.2.1
  let todo := if lineSpace o.src.space then linePieces lo q.2.2 else [(lo, q.2.2)]
  s.pushBeat c o { newBeatAt o.nextBeat o.pos 1 x with todo := todo, want := q.2.2 }

/-- The next queue row of a CQRECV, once it has landed. -/
def State.recvBeat (s : State) (c : Coach) (o : CopyCmd) (x : Nat) : BeatStep :=
  let q := o.queueRow o.pos
  let e := c.endp o.endp
  let b := newBeatAt o.nextBeat o.pos 1 x
  match c.peekRows o.endp o.seq 1 with
  | .broken code => .moved (s.pushBeat c o (b.failWith code (o.dstFirst b) 0#64))
  | .breaks => .moved (s.breakEndp c.quad o.endp false)
  | .later =>
    if e.bound ∧ e.waitFrom.isNone ∧ c.rowsAhead o.endp o.seq = false then
      .moved (s.updEndp c.quad o.endp (fun e => e.startWait s.tsc))
    else .stuck
  | .rows rs =>
    let lo := o.dst.base + o.dst.flatOff x + q.2.1
    let bs := bytesOfNat 256 ((rs.headD 0#2048).toNat)
    .moved (s.pushBeat c o { b with
      got := (List.range 256).map (fun i => (i, bs.getD i 0#8))
      out := if o.dst.space = spGlobal then outPieces (linePieces lo q.2.2) else [] })

/-! ## Binding and unbinding -/

/-- An endpoint as CQBIND makes it (R420). -/
def boundEndp (recv : Bool) (handle node : Nat) (v : Word) (accepted : Nat) : Endpoint :=
  let a := BitVec.ofNat 16 (bits v 15 0)
  let b := BitVec.ofNat 16 (bits v 31 16)
  { Endpoint.unbound with
    bound := true, recv := recv, handle := handle, peer := node, circA := a, circB := b, liveA := true
    liveB := b != 0xFFFF#16, accepted := accepted }

/-- A report that was held for a circuit goes at the bind of its circuit: it is applied when it is a CQCRED of a fresh
endpoint from the node of the peer handle, and else discarded (R418, R462). -/
def State.applyHeld (s : State) (quad q : Nat) (circ : BitVec 16) (node : Nat) : State :=
  match s.heldCq.find? (fun e => e.1 == circ.toNat) with
  | some e =>
    let s := { s with heldCq := SMap.erase s.heldCq circ.toNat }
    if e.2.src.toNat = node ∧ e.2.ty = 11#6 ∧ flitField e.2 0 4 = 0 ∧ flitField e.2 4 4 = 0 then
      s.applyReport quad q e.2
    else s
  | none => s

/-- The command's one step is done, with no beat. -/
def State.oneStep (s : State) (c : Coach) (o : CopyCmd) : State :=
  s.updCopy c.quad o.seq (fun o => { o with pos := 1, nextBeat := 1 })

/-- CQBIND binds (R420): a receive endpoint reports, a send endpoint takes the report that was held for it. -/
def State.bound (s : State) (c : Coach) (o : CopyCmd) (node : Nat) : State :=
  let recv := o.sub
  let e := boundEndp recv o.src.peer node o.cval (c.endp o.endp).accepted
  let s := (s.updEndp c.quad o.endp (fun _ => e)).oneStep c o
  if recv then s.sendCred c e
  else
    let s := s.applyHeld c.quad o.endp e.circA node
    if e.liveB then s.applyHeld c.quad o.endp e.circB node else s

/-- CQBIND fails: REMOTE_NACK with progress 0; the manual states no address (log entry 6). -/
def State.bindFail (s : State) (c : Coach) (o : CopyCmd) (code : Nat) : State :=
  let r := s.drawWord
  r.1.pushBeat c o ((newBeatAt 0 0 1 0).failWith code r.2 0#64)

/-- CQBIND at its turn (R420). -/
def State.bindStep (s : State) (c : Coach) (o : CopyCmd) : BeatStep :=
  match s.readPeer (o.agent c.quad) c.slice o.src.peer with
  | .page t _ => if t.pulls = s.pulls then .stuck else .moved t
  | .fault code => .moved (s.bindFail c o code)
  | .bad s => .moved (s.bindFail c o codeRemoteNack)
  | .ok s node _ => .moved (s.bound c o node)

/-- Sending commands have no more rows to wait for. -/
def dropSends (q seq : Nat) (o : CopyCmd) : CopyCmd :=
  let f := fun (b : Beat) => { b with wrote := true, acked := true, todo := [], want := 0 }
  if o.endp? = some q ∧ o.kind = .send ∧ o.seq < seq then { o with beats := o.beats.map f } else o

/-- CQUNB at its turn (R421). -/
def State.unbindStep (s : State) (c : Coach) (o : CopyCmd) : BeatStep :=
  let q := o.endp
  let e := c.endp q
  let users := c.matq.any (fun m => m.endps.contains q) ||
    c.copyq.any (fun p => decide (p.seq < o.seq) && ((p.follow.map (fun m => m.endps.contains q)).getD false))
  let free := fun (s : State) =>
    (s.updEndp c.quad q (fun e => { Endpoint.unbound with accepted := e.accepted })).oneStep c o
  if users then .stuck
  else if e.bound = false ∨ e.broken then .moved (free s)
  else if o.sub then
    let s := s.sendClose c e false
    .moved ((free s).updCoach c.quad (fun c => { c with copyq := c.copyq.map (dropSends q o.seq) }))
  else if c.rowsAhead q o.seq ∨ !e.rows.isEmpty then
    if e.waitFrom.isNone then .moved (s.updEndp c.quad q (fun e => e.startWait s.tsc)) else .stuck
  else .moved (free (s.sendClose c e false))

/-! ## Issuing the next beat -/

/-- The row whose index the next beat needs. -/
def CopyCmd.rowNow (o : CopyCmd) : Nat :=
  match o.kind with
  | .send => (o.queueRow o.pos).1
  | .recv => (o.queueRow o.pos).1
  | _ => o.rowAt o.pos

/-- The index of a row is asked for (R221). -/
def State.askIndex (s : State) (c : Coach) (o : CopyCmd) (r : Nat) : BeatStep :=
  if o.beats.any (fun b => b.num == indexBeat + r) then .stuck
  else
    let lo := o.indexAt r
    let todo := if lineSpace o.list.space then linePieces lo o.indexBytes else [(lo, o.indexBytes)]
    let b := { newBeatAt (indexBeat + r) o.pos 0 0 with todo := todo, want := o.indexBytes }
    .moved (s.updCopy c.quad o.seq (fun o => { o with beats := o.beats ++ [b] }))

/-- The next beat of a command that moves rows, of index x. DESIGN CHOICE: a queue has no row but the next one, so an index
whose indexed side is a CQ operand is read and checked and selects nothing (R212, R221; log entry 19). -/
def State.moveBeat (s : State) (c : Coach) (o : CopyCmd) (x : Nat) : BeatStep :=
  match o.kind with
  | .send => .moved (s.sendBeat c o (if o.isScatter then o.rowNow else x))
  | .recv =>
    if o.beats.any (fun b => decide (b.num < indexBeat)) then .stuck
    else s.recvBeat c o (if o.isGather then o.rowNow else x)
  | _ => .moved (s.dataBeat c o x)

/-- The next beat of a command. -/
def State.newBeat (s : State) (c : Coach) (o : CopyCmd) : BeatStep :=
  match o.kind with
  | .bind => s.bindStep c o
  | .unbind => s.unbindStep c o
  | .lines => s.lineBeat c o
  | _ =>
    let r := o.rowNow
    if o.indexed then
      match o.index with
      | some i => if i.1 = r then s.moveBeat c o i.2 else s.askIndex c o r
      | none => s.askIndex c o r
    else s.moveBeat c o r

/-- Beats of a coach that have been issued and are not yet acknowledged (R209). -/
def Coach.beatsOut (c : Coach) : Nat :=
  ((c.copyq.flatMap (fun o => o.beats)).filter (fun b => decide (b.num < indexBeat) && !b.resolved)).length

/-- Beats that a coach may always have in flight (R209). -/
def Coach.beatShare (c : Coach) : Nat := 1536 * c.quads.length

/-- One more beat of a coach may be in flight: at most 6,144 of a core are, and none that another coach's share needs.
DESIGN CHOICE: what a coach holds beyond its own share comes from quadrants that no coach holds (log entry 145). -/
def State.beatRoom (s : State) (c : Coach) : Bool :=
  let others := s.coaches.filter (fun x => quadCore x.quad == quadCore c.quad && x.quad != c.quad)
  let held := (others.map Coach.beatsOut).sum
  let kept := (others.map (fun x => Nat.max x.beatsOut x.beatShare)).sum
  decide (c.beatsOut + held < 6144) && (decide (c.beatsOut < c.beatShare) || decide (c.beatsOut + kept < 6144))

/-- The command whose next beat is due: the first with beats left, unless one has failed at or before it. -/
def Coach.issuing (c : Coach) : Option CopyCmd :=
  match c.copyq.find? (fun o => o.started && decide (o.pos < o.total)) with
  | some o =>
    if c.copyq.any (fun p => decide (p.seq ≤ o.seq) && p.beats.any (fun b => b.fail.isSome)) then none else some o
  | none => none

/-- The first of a list of beats that can do something. -/
def State.firstBeat (s : State) (c : Coach) (l : List (CopyCmd × Beat)) : BeatStep :=
  match l with
  | [] => .stuck
  | x :: l =>
    match s.beatStep c x.1 x.2 with
    | .stuck => s.firstBeat c l
    | r => r

/-- BEAT_ISSUE (R211, R233, R236): an issued beat goes on, or the next one is issued. -/
def execBeatIssue (quad : Nat) (s : State) : Host.Outcome State Fault Refusal :=
  match s.coach? quad with
  | none => .next s
  | some c =>
    if c.copyFrozen ∨ s.boot.halted then .next s
    else
      let next :=
        if s.quiet c ∨ c.copyPark.isSome ∨ s.beatRoom c = false then BeatStep.stuck
        else
          match c.issuing with
          | some o => s.newBeat c o
          | none => .stuck
      match s.firstBeat c (c.copyq.flatMap (fun o => o.beats.map (fun b => (o, b)))), next with
      | .moved s, _ => .next s
      | .refuse, _ => .refused .mmioLayout
      | .stuck, .moved s => .next s
      | .stuck, .refuse => .refused .mmioLayout
      | .stuck, .stuck => .next s

/-! ## Start -/

/-- Earlier commands whose staging extents share a byte with this one's, where one of them writes it (R228). -/
def State.l2sClash (s : State) (c : Coach) (o : CopyCmd) : Bool :=
  let uses := fun (x : CopyCmd) =>
    (if x.hasSrc then [(x.src, false)] else []) ++ (if x.hasDst then [(x.dst, true)] else [])
  c.copyq.any (fun p => decide (p.seq < o.seq) && (uses o).any (fun a => (uses p).any (fun b =>
    a.1.space == spL2s && b.1.space == spL2s && (a.2 || b.2) && shareBytes s c a.1 b.1)))

/-- A CPYH with reset and a HFIN wait for their stream's earlier hash commands (R223, R224). -/
def Coach.hashBefore (c : Coach) (o : CopyCmd) : Bool :=
  (o.kind == .fin || (o.isHash && o.sub)) &&
    c.copyq.any (fun p => decide (p.seq < o.seq) && p.stream == o.stream && (p.isHash || p.kind == .fin))

/-- COPY_COMMAND_START (R210). -/
def execCopyCommandStart (quad : Nat) (s : State) : Host.Outcome State Fault Refusal :=
  match s.coach? quad with
  | none => .next s
  | some c =>
    match c.copyq.find? (fun o => !o.started) with
    | none => .next s
    | some o =>
      if s.quiet c ∨ c.copyPark.isSome ∨ c.copyFrozen ∨
          c.copyq.any (fun p => decide (p.seq < o.seq) && decide (p.pos < p.total)) ∨ c.blocked o.seq o.extents ∨
          s.l2sClash c o ∨ c.hashBefore o then .next s
      else
        let s := s.updCopy quad o.seq (fun o => { o with started := true })
        .next (if o.isHash && o.sub then s.updCoach quad (fun c => c.setHash o.stream HashState.empty) else s)

/-! ## Acknowledgement, faults and retirement -/

/-- A beat whose writes have all been performed. -/
def State.ackReady (s : State) (c : Coach) : Option (CopyCmd × Beat) :=
  (c.copyq.flatMap (fun o => o.beats.map (fun b => (o, b)))).find? (fun x =>
    x.2.wrote && !x.2.acked && !x.2.dead && !s.beatPending c.quad x.1.seq x.2.num &&
      (x.1.kind != .send || (let e := c.endp x.1.endp
        !e.bound || e.broken || !e.rows.any (fun r => r.1 == x.2.mark))))

/-- The beat is acknowledged: a row that was received is taken with it (R422). -/
def State.ackBeat (s : State) (c : Coach) (o : CopyCmd) (b : Beat) : State :=
  let e := c.endp o.endp
  let done := fun (s : State) => s.updBeat c.quad o.seq b.num (fun b => { b with acked := true })
  match o.kind with
  | .send =>
    if e.bound ∧ e.broken then
      s.updBeat c.quad o.seq b.num (fun x => x.failWith (e.faultFor o.seq) (o.srcFirst b) 0#64)
    else done s
  | .recv => if e.bound then done (s.takeRow c.quad o.endp) else done s
  | _ => done s

/-- Everything that must be absorbed before a command's beats has been (R223). -/
def Coach.absorbTurn (c : Coach) (o : CopyCmd) : Bool :=
  !o.isHash || !c.copyq.any (fun p => decide (p.seq < o.seq) && p.stream == o.stream &&
    (p.kind == .fin || (p.isHash && (decide (p.pos < p.total) || !p.beats.isEmpty))))

/-- A command whose first beat is behind it. -/
def Coach.passable (c : Coach) : Option (CopyCmd × Beat) :=
  c.copyq.findSome? (fun o =>
    match o.beats with
    | b :: _ => if b.acked && b.fail.isNone && c.absorbTurn o then some (o, b) else none
    | [] => none)

/-- A beat's bytes are absorbed (R223). -/
def Coach.absorbBeat (c : Coach) (o : CopyCmd) (b : Beat) : Coach :=
  if o.isHash then
    let bs := (List.range b.count).map (fun i => (o.rowByte b [] (o.byteAt b.pos + i)).1)
    let h := (c.hashOf o.stream).absorb bs
    c.setHash o.stream { h with poison := h.poison || b.pois }
  else c

/-- The command moves past its first beat. -/
def State.passBeat (s : State) (c : Coach) (o : CopyCmd) (b : Beat) : State :=
  (s.updCoach c.quad (fun c => c.absorbBeat o b)).updCopy c.quad o.seq (fun o => { o with beats := o.beats.drop 1 })

/-- A beat has nothing on its way any more, or is a row that never will be sent. -/
def State.settledBeat (s : State) (c : Coach) (o : CopyCmd) (b : Beat) : Bool :=
  b.resolved || (o.kind == .send && !b.wrote && !s.beatPending c.quad o.seq b.num)

/-- The command that must report a failure: the first unfinished one, once all its beats have settled; and its lowest
failing beat (R233). -/
def State.failing (s : State) (c : Coach) : Option (CopyCmd × Beat) :=
  match c.copyq.find? (fun o => decide (o.pos < o.total) || !o.beats.isEmpty) with
  | none => none
  | some o =>
    match o.beats.find? (fun b => b.fail.isSome) with
    | none => none
    | some b => if o.beats.all (fun x => s.settledBeat c o x) && c.absorbTurn o then some (o, b) else none

/-- Where a command stands after a failure: its progress, its position and its next beat (R221, R233, R382). A
watchpoint's beat has performed, and is behind it. -/
def CopyCmd.backTo (o : CopyCmd) (b : Beat) : Nat × Nat × Nat :=
  let pos := if b.dead then b.pos else b.pos + b.count
  match o.kind with
  | .send => (o.prog, o.prog, o.prog)
  | .recv => let n := if b.dead then o.prog else o.prog + 1; (n, n, n)
  | .bind => (0, 0, 0)
  | .unbind => (0, 0, 0)
  | _ =>
    if o.indexed then
      let r := o.rowAt pos
      (r, if b.dead then r * o.rowDesc.rowBytes else pos, o.nextBeat)
    else
      let n := if b.dead then b.num else b.num + 1
      (n, pos, n)

/-- FPROG of a copy fault (R234, R382). -/
def CopyCmd.faultProg (o : CopyCmd) (high : Word) (prog : Nat) : Word :=
  high ||| word ((if o.stream = 1 then 0 else 1) * 2 ^ 39 + o.op * 2 ^ 32 + prog % 2 ^ 32)

/-- The queue parks at a command (R233). -/
def State.copyFault (s : State) (c : Coach) (o : CopyCmd) (b : Beat) : State :=
  match b.fail with
  | none => s
  | some f =>
    let t := o.backTo b
    let s := if b.dead then s else s.updCoach c.quad (fun c => c.absorbBeat o b)
    let s := s.updCopy c.quad o.seq (fun o => { o with pos := t.2.1, nextBeat := t.2.2, beats := [], index := none })
    s.engineFault c.quad .copy (streamPart o.stream) f.1.toNat f.2.1 (o.faultProg f.2.2 t.1) o.pc

/-- A command has completed but for its follow-on and its push. -/
def CopyCmd.finished (o : CopyCmd) : Bool := o.started && decide (o.total ≤ o.pos) && o.beats.isEmpty

/-- The follow-on of a CPYC enters the matrix queue (R220). -/
def State.followOn (s : State) (c : Coach) (o : CopyCmd) (m : MatOp) : State :=
  (s.updCoach c.quad (fun c => { (c.enterMatrix m c.nextSeq) with nextSeq := c.nextSeq + 1 })).updCopy c.quad o.seq
    (fun o => { o with follow := none })

/-- A command whose follow-on can enter now. -/
def Coach.following (c : Coach) : Option (CopyCmd × MatOp) :=
  if 8 ≤ c.matq.length ∨ c.checkerFull then none
  else c.copyq.findSome? (fun o => if o.finished then o.follow.map (fun m => (o, m)) else none)

/-- The first command of a stream, when it may retire (R210). -/
def Coach.retiring (c : Coach) : Option CopyCmd :=
  [1, 3].findSome? (fun st =>
    match c.copyq.find? (fun o => o.stream == st) with
    | some o => if o.finished && o.follow.isNone && !c.pushHeld o.stream o.push then some o else none
    | none => none)

/-- Retirement (R210, R224). -/
def Coach.retireCopy (c : Coach) (o : CopyCmd) : Coach :=
  let c := { c with copyq := c.copyq.filter (fun p => p.seq != o.seq) }
  let c := if o.kind = .fin then c.setHash o.stream HashState.empty else c
  c.enginePush o.stream o.push

/-- BEAT_ACK (R210, R211, R233). -/
def execBeatAck (quad : Nat) (s : State) : Host.Outcome State Fault Refusal :=
  match s.coach? quad with
  | none => .next s
  | some c =>
    match s.ackReady c with
    | some x => .next (s.ackBeat c x.1 x.2)
    | none =>
      match c.passable with
      | some x => .next (s.passBeat c x.1 x.2)
      | none =>
        match (if c.copyPark.isSome || c.copyFrozen then none else s.failing c) with
        | some x => .next (s.copyFault c x.1 x.2)
        | none =>
          match c.following with
          | some x => .next (s.followOn c x.1 x.2)
          | none =>
            match c.retiring with
            | some o => .next (s.updCoach quad (fun c => c.retireCopy o))
            | none => .next s

/-- CQ_TIMEOUT (R425): an operation has waited on an endpoint for CQTO ms. -/
def execCqTimeout (quad q : Nat) (s : State) : Host.Outcome State Fault Refusal :=
  match s.coach? quad with
  | none => .next s
  | some c =>
    let e := c.endp q
    match e.waitFrom with
    | none => .next s
    | some t =>
      let limit := s.cqTimeoutMs (quadDie quad) c.slice * 1000000
      if (e.waited + (s.tsc - t)).toNat < limit then .next s else .next (s.breakEndp quad q false)

end Sys2Proof.Machine
end

