-- ==== Sys2Proof/Machine/CopyWords.lean ====
section
/-! DEFINITION. CopyWords: the issue of the words of the copy queue (R41, R42, R208-R228, R419-R423). -/

namespace Sys2Proof.Machine

/-! ## Entering the queue -/

/-- A command with its captured operands. -/
def newCopy (i : Instr) (op : Nat) (dst src : Desc) (s : State) (k : Tok) : CopyCmd where
  ins := i
  op := op
  dst := dst
  src := src
  list := Desc.zero
  pol := 0#32
  cval := 0#64
  cpoison := false
  count := 0
  pc := s.me.pc
  push := k.push.toNat
  stream := threadStream s.cur
  seq := 0
  extents := []
  started := false
  pos := 0
  nextBeat := 0
  beats := []
  follow := none
  endp := 8
  noDst := false
  index := none
  near := none

/-- What a count of s0 stands for: every element, index or row (R213, R221, R422). -/
def CopyCmd.fullCount (o : CopyCmd) : Nat :=
  if o.indexed then o.list.count
  else
    match o.kind with
    | .send => o.src.flatRows
    | .recv => o.dst.flatRows
    | .fill => o.dst.count
    | .fin => o.dst.count
    | _ => o.src.count

/-- The count register read (R213). -/
def CopyCmd.counted (o : CopyCmd) (s : State) (r : BitVec 4) : CopyCmd :=
  { o with count := if r = 0#4 then o.fullCount else (s.reg r).toNat }

/-- The command enters the queue (R208, R210); its acceptance may open the launch (R222, R422). -/
def copyEnter (s : State) (c : Coach) (k : Tok) (o : CopyCmd) (precise esc : Bool) (f : Coach → Coach) : Res :=
  if 32 ≤ c.copyq.length then .wait s (.copyQueue 32)
  else if !o.checker.isEmpty && c.checkerFull then .wait s .checker
  else
    accept (if esc then s.openLaunch s.cur else s) c k precise (fun c seq =>
      f { c with copyq := c.copyq ++ [{ o with seq := seq, extents := o.checker }] })

/-- The endpoint of a command with a CQ operand (R212). -/
def endpOf (dst src : Desc) : Nat :=
  if dst.space = spCq then dst.endpNo else if src.space = spCq then src.endpNo else 8

/-- A command with source, destination, count and policy registers (R220-R223). -/
def moveCmd (i : Instr) (op : Nat) (d sr : BitVec 6) (cnt pol : BitVec 4) (k : Tok) (s : State) (c : Coach) : CopyCmd :=
  let dst := c.desc d.toNat
  let src := c.desc sr.toNat
  let o := { newCopy i op dst src s k with
    pol := (s.reg pol).setWidth 32
    endp := if op < 0x44 then endpOf dst src else 8
    near := if src.space = spNabuf then s.neighbour c src else none
    list := if op = 0x42 then c.desc src.listNo else if op = 0x43 then c.desc dst.listNo else Desc.zero }
  o.counted s cnt

/-- Policy, operand checks and entry of a command: a non-zero reserved field of the policy word, and SCOPE 7, raise UNDEF
(R24, R42, R215). -/
def copyGo (s : State) (c : Coach) (k : Tok) (o : CopyCmd) (polReg : BitVec 4) : Res :=
  if badPolicy o.pol ∨ o.scopeBad then undefUse s o.ins
  else
    match copyCheck s c o polReg with
    | some code => descFault s code
    | none => copyEnter s c k o true (o.op == 0x44 || o.endp < 8) (fun c => c)

/-- A copy word whose count and policy registers carry no poison (R219). -/
def copyForm (fs : List Nat) (i : Instr) (k : Tok) (cnt pol : BitVec 4) (entry : State → Coach → CopyCmd) :
    State → Host.Outcome State Fault Refusal :=
  issue (lsWord fs true) i k (fun s => withCoach s (fun c =>
    consume (s.pois cnt || s.pois pol) s (copyGo s c k (entry s c) pol)))

/-! ## The data commands -/

/-- CPY. -/
def execCpy (k : Tok) (d sr : BitVec 6) (c l : BitVec 4) (s : State) : Host.Outcome State Fault Refusal :=
  copyForm [] (.cpy k d sr c l) k c l (moveCmd (.cpy k d sr c l) 0x40 d sr c l k) s

/-- The check of a follow-on and its captured operands. -/
def followOp (c : Coach) (fo : FollowOn) (pc : Word) (source : Nat) : Option Nat × MatOp :=
  match fo with
  | .mwld _ a f => (mwldCheck c (c.desc a.toNat) f, mwldOp c a f pc 0 source)
  | .mma _ a b d f =>
    (mmaCheck c (c.desc a.toNat) (c.desc d.toNat) (c.optDesc b) f, mmaOp c opMma a b d f pc 0 source)

/-- The features of a follow-on (R348). -/
def followFeatures (fo : FollowOn) : List Nat :=
  match fo with
  | .mwld _ _ f => familyFeature f
  | .mma _ _ _ _ f => familyFeature f

/-- CPYC: its follow-on is checked with it (R220). DESIGN CHOICE: the copy's own descriptors pass all of their checks before
the follow-on's are judged; the manual gives no order between the two (log entry 140). -/
def execCpyc (k : Tok) (d sr : BitVec 6) (c l : BitVec 4) (fo : FollowOn) (s : State) :
    Host.Outcome State Fault Refusal :=
  let i := Instr.cpyc k d sr c l fo
  issue { lsWord (followFeatures fo) true with words := 2 } i k (fun s => withCoach s (fun co =>
    consume (s.pois c || s.pois l) s
      (let o := moveCmd i 0x41 d sr c l k s co
      let m := followOp co fo s.me.pc (if threadStream s.cur = 1 then 1 else 2)
      if badPolicy o.pol ∨ o.scopeBad then undefUse s i
      else
        match copyCheck s co o l with
        | some code => descFault s code
        | none => afterKat s co
          (match m.1 with
          | some code => descFault s code
          | none => copyEnter s co k { o with follow := some { m.2 with iword := (encode i).getD 1 0#32 } } true (o.endp < 8) (fun c => c))))) s

/-- CPYG. -/
def execCpyg (k : Tok) (d sr : BitVec 6) (c l : BitVec 4) (s : State) : Host.Outcome State Fault Refusal :=
  copyForm [] (.cpyg k d sr c l) k c l (moveCmd (.cpyg k d sr c l) 0x42 d sr c l k) s

/-- CPYS. -/
def execCpys (k : Tok) (d sr : BitVec 6) (c l : BitVec 4) (s : State) : Host.Outcome State Fault Refusal :=
  copyForm [] (.cpys k d sr c l) k c l (moveCmd (.cpys k d sr c l) 0x43 d sr c l k) s

/-- CPYR. -/
def execCpyr (k : Tok) (d sr : BitVec 6) (c l : BitVec 4) (s : State) : Host.Outcome State Fault Refusal :=
  copyForm [16] (.cpyr k d sr c l) k c l (moveCmd (.cpyr k d sr c l) 0x44 d sr c l k) s

/-- CPYH: without a destination the bytes go to the hash alone, and its geometry is the source's. -/
def execCpyh (k : Tok) (d sr : BitVec 6) (c l : BitVec 4) (v : BitVec 1) (s : State) :
    Host.Outcome State Fault Refusal :=
  let i := Instr.cpyh k d sr c l v
  copyForm [17] i k c l (fun s co =>
    let o := moveCmd i 0x45 d sr c l k s co
    if d = 0#6 then { o with dst := o.src, noDst := true } else o) s

/-- CFILL: a poisoned pattern is written as poison where the destination is a buffer (R219). -/
def execCfill (k : Tok) (d : BitVec 6) (c l : BitVec 4) (v : BitVec 1) (s : State) :
    Host.Outcome State Fault Refusal :=
  let i := Instr.cfill k d c l v
  issue (lsWord [] true) i k (fun s => withCoach s (fun co =>
    let dst := co.desc d.toNat
    let p := s.reg c
    let pat := if v = 1#1 then (p.setWidth 32 ++ p.setWidth 32 : BitVec 64) else p
    let o := { newCopy i 0x46 dst Desc.zero s k with
      pol := (s.reg l).setWidth 32, cval := pat, cpoison := s.pois c, count := dst.count }
    consume (s.pois l || (s.pois c && dst.space == spGlobal)) s (copyGo s co k o l))) s

/-- CPFX. -/
def execCpfx (k : Tok) (sr : BitVec 6) (c l : BitVec 4) (s : State) : Host.Outcome State Fault Refusal :=
  copyForm [] (.cpfx k sr c l) k c l (moveCmd (.cpfx k sr c l) 0x47 0#6 sr c l k) s

/-- CWB. -/
def execCwb (k : Tok) (sr : BitVec 6) (c : BitVec 4) (s : State) : Host.Outcome State Fault Refusal :=
  copyForm [] (.cwb k sr c) k c 0#4 (moveCmd (.cwb k sr c) 0x48 0#6 sr c 0#4 k) s

/-- Commands of a stream in the queue. -/
def Coach.copyCount (c : Coach) (stream : Nat) : Nat := (c.copyq.filter (fun o => o.stream == stream)).length

/-- CWAIT (R227). -/
def execCwait (k : Tok) (n : BitVec 5) (s : State) : Host.Outcome State Fault Refusal :=
  issue (lsWord [] false) (.cwait k n) k (fun s => withCoach s (fun c =>
    if c.copyCount (threadStream s.cur) ≤ n.toNat then .done s else .wait s (.copyQueue n.toNat))) s

/-- HFIN. -/
def execHfin (k : Tok) (d : BitVec 6) (s : State) : Host.Outcome State Fault Refusal :=
  let i := Instr.hfin k d
  copyForm [17] i k 0#4 0#4 (fun s c =>
    let dst := c.desc d.toNat
    { newCopy i 0x4A dst Desc.zero s k with count := dst.count }) s

/-! ## The carriage commands -/

/-- The state that the accepted commands will leave an endpoint in (R419). -/
def Coach.acceptEndp (c : Coach) (q v : Nat) : Coach := c.setEndp q { c.endp q with accepted := v }

/-- CQBIND to send (0) or to receive (1). -/
def cqbind (i : Instr) (recv : Bool) (k : Tok) (q : BitVec 3) (e : BitVec 6) (sr : BitVec 4) :
    State → Host.Outcome State Fault Refusal :=
  issue (lsWord [18] true) i k (fun s => withCoach s (fun c => consume (s.pois sr) s
    (let d := c.desc e.toNat
    let o := { newCopy i 0x4B Desc.zero d s k with cval := s.reg sr, endp := q.toNat }
    match bindCheck s c d q.toNat recv o.cval with
    | some code => descFault s code
    | none => copyEnter s c k { o with count := 1 } false false
        (fun c => c.acceptEndp q.toNat (if recv then 2 else 1)))))

/-- CQBIND ..., send. -/
def execCqbindSend (k : Tok) (q : BitVec 3) (e : BitVec 6) (sr : BitVec 4) (s : State) :
    Host.Outcome State Fault Refusal :=
  cqbind (.cqbindSend k q e sr) false k q e sr s

/-- CQBIND ..., recv. -/
def execCqbindRecv (k : Tok) (q : BitVec 3) (e : BitVec 6) (sr : BitVec 4) (s : State) :
    Host.Outcome State Fault Refusal :=
  cqbind (.cqbindRecv k q e sr) true k q e sr s

/-- CQUNB (R421). -/
def cqunb (i : Instr) (k : Tok) (q : BitVec 3) : State → Host.Outcome State Fault Refusal :=
  issue (lsWord [18] true) i k (fun s => withCoach s (fun c =>
    if (c.endp q.toNat).accepted = 0 then descFault s codeEngineAccess
    else
      let o := { newCopy i 0x4C Desc.zero Desc.zero s k with endp := q.toNat, count := 1 }
      copyEnter s c k o false false (fun c => c.acceptEndp q.toNat 0)))

/-- CQUNB ..., drain. -/
def execCqunbDrain (k : Tok) (q : BitVec 3) (s : State) : Host.Outcome State Fault Refusal :=
  cqunb (.cqunbDrain k q) k q s

/-- CQUNB ..., discard. -/
def execCqunbDiscard (k : Tok) (q : BitVec 3) (s : State) : Host.Outcome State Fault Refusal :=
  cqunb (.cqunbDiscard k q) k q s

/-- CQSEND and CQRECV (R422). -/
def cqrows (i : Instr) (send : Bool) (k : Tok) (q : BitVec 3) (e : BitVec 6) (sr : BitVec 4) :
    State → Host.Outcome State Fault Refusal :=
  issue (lsWord [18] true) i k (fun s => withCoach s (fun c => consume (s.pois sr) s
    (let d := c.desc e.toNat
    let o := { newCopy i (if send then 0x4D else 0x4E) (if send then Desc.zero else d) (if send then d else Desc.zero) s k
      with endp := q.toNat }
    let o := o.counted s sr
    let spaces := if send then [spGlobal, spAbuf, spAcc, spTile, spL2s] else [spGlobal, spAbuf, spWbuf, spAcc, spTile, spL2s]
    if spaces.contains d.space && d.scopeBad then undefUse s i
    else match rowCheck s c d q.toNat (if send then 1 else 2) o.count spaces with
    | some code => descFault s code
    | none => copyEnter s c k o true true (fun c => c))))

/-- CQSEND. -/
def execCqsend (k : Tok) (q : BitVec 3) (e : BitVec 6) (sr : BitVec 4) (s : State) :
    Host.Outcome State Fault Refusal :=
  cqrows (.cqsend k q e sr) true k q e sr s

/-- CQRECV. -/
def execCqrecv (k : Tok) (q : BitVec 3) (e : BitVec 6) (sr : BitVec 4) (s : State) :
    Host.Outcome State Fault Refusal :=
  cqrows (.cqrecv k q e sr) false k q e sr s

/-- CQSTAT: HELD, CRED and the status word of an endpoint as it stands (R423). -/
def Endpoint.held (e : Endpoint) : Nat := e.rows.length
def Endpoint.cred (e : Endpoint) : Nat := if e.bound = false then 0 else if e.recv then 64 - e.rows.length else e.credits
def Endpoint.status (e : Endpoint) : Word :=
  if e.bound = false then 0#64
  else
    word ((if e.recv then e.mark else e.next).toNat * 2 ^ 32 + e.held * 2 ^ 16 + e.cred * 2 ^ 8 + flagNat e.closed * 2 ^ 6 +
      flagNat e.broken * 2 ^ 5 + flagNat e.liveB * 2 ^ 4 + flagNat e.liveA * 2 ^ 3 + flagNat e.recv * 2 ^ 2 + 1)

/-- A read of an endpoint. -/
def cqstatForm (i : Instr) (k : Tok) (q : BitVec 3) (sr : BitVec 4) (v : Endpoint → Word) :
    State → Host.Outcome State Fault Refusal :=
  issue (lsWord [18] false) i k (fun s => withCoach s (fun c => writeS sr (v (c.endp q.toNat)) false s))

/-- CQSTAT ..., status. -/
def execCqstatStatus (k : Tok) (q : BitVec 3) (sr : BitVec 4) (s : State) : Host.Outcome State Fault Refusal :=
  cqstatForm (.cqstatStatus k q sr) k q sr Endpoint.status s

/-- CQSTAT ..., rows. -/
def execCqstatRows (k : Tok) (q : BitVec 3) (sr : BitVec 4) (s : State) : Host.Outcome State Fault Refusal :=
  cqstatForm (.cqstatRows k q sr) k q sr (fun e => word e.held) s

/-- CQSTAT ..., credits. -/
def execCqstatCredits (k : Tok) (q : BitVec 3) (sr : BitVec 4) (s : State) : Host.Outcome State Fault Refusal :=
  cqstatForm (.cqstatCredits k q sr) k q sr (fun e => word e.cred) s

end Sys2Proof.Machine
end

