-- ==== Sys2Proof/Machine/Defer.lean ====
section
/-! DEFINITION. Defer: the writes of the deferral queue (R180, R181, R382, R467). -/

namespace Sys2Proof.Machine

/-- The bytes that vector j of an entry writes: address and value of every active lane's element. -/
def DeferEntry.bytesAt (e : DeferEntry) (j : Nat) (t : BitVec 6) (y : BitVec 3) : List (Nat × Byte) :=
  let L := laneCount y
  let w := laneWidth y
  if e.desc.rows ≤ j then []
  else
    (List.range e.desc.dim0).flatMap (fun i =>
      if maskAt e.active t j (i / L) then
        let q := posOf (opDir t) j (i / L)
        let cell := (SMap.get (fun _ => 0#32) e.cells (opTile t * 1024 + 32 * q.1 + q.2)).toNat
        let lo := e.base.toNat + j * e.desc.rstride + i * w / 8
        (bytesOfNat (w / 8) (laneGet y cell (i % L))).zipIdx.map (fun z => (lo + z.2, z.1))
      else [])

/-- The lane type of an entry, from its lanes per cell. -/
def DeferEntry.laneTy (e : DeferEntry) : BitVec 3 :=
  if e.lanes = 1 then 1#3 else if e.lanes = 2 then 3#3 else 6#3

/-- The bytes of a vector. -/
def DeferEntry.vector (e : DeferEntry) (j : Nat) : List (Nat × Byte) := e.bytesAt j e.tile e.laneTy

/-- The pieces of a vector's writes: address and bytes, each within one line. -/
def DeferEntry.pieces (e : DeferEntry) (j : Nat) : List (Nat × List Byte) :=
  let bs := e.vector j
  (runsOf (bs.map (fun b => b.1))).map (fun r =>
    (r.1, (List.range r.2).map (fun i => ((bs.find? (fun b => b.1 == r.1 + i)).map (fun b => b.2)).getD 0#8)))

/-- Changing the head of a coach's deferral queue. -/
def Coach.updDefer (c : Coach) (f : DeferEntry → DeferEntry) : Coach :=
  match c.defer with
  | [] => c
  | e :: es => { c with defer := f e :: es }

/-- The queue parks at its head (R181, R467); FRES writes the vector at which it stands from its first byte on. -/
def State.deferFault (s : State) (quad : Nat) (e : DeferEntry) (code : Nat) (faddr high : Word) (prog : Nat) : State :=
  (s.updCoach quad (fun c => c.updDefer (fun e => { e with progress := prog, sent := 0, hit := none }))).engineFault quad .defer 9 code faddr (high ||| progWord 0 0x64 prog) e.pc

/-- The next piece of the head's vector sets out. -/
def State.deferPiece (s : State) (c : Coach) (e : DeferEntry) (p : Nat × List Byte) :
    Host.Outcome State Fault Refusal :=
  let quad := c.quad
  let th := ThreadId.coach quad 9
  match s.through (s.whoOf th false) p.1 p.2.length .write with
  | .fault s code prog => .next (s.deferFault quad e code (word p.1) (prog &&& 0#64) e.progress)
  | .page s (.page _ page) => .next (s.updCoach quad (fun c => c.updDefer (fun e => { e with page := some page })))
  | .page _ _ => .next s
  | .ok s x =>
    let spec : WriteSpec :=
      { th := th, cls := e.desc.cls, path := 1, esc := e.desc.esc, rel := none, ack := .beat e.seq e.progress,
        evict := evictNormal }
    match s.postWrite spec x (word p.1) p.2 with
    | .fault code => .next (s.deferFault quad e code (word p.1) 0#64 e.progress)
    | .busy => .next s
    | .refuse => .refused .mmioLayout
    | .sent s _ =>
      let s := s.updCoach quad (fun c => c.updDefer (fun e => { e with sent := e.sent + 1, page := none }))
      let s :=
        if apertureOf x.dpa = .host ∧ 6 ≤ e.desc.scope then
          match s.hostWindow (hostAddr x.dpa) p.2.length with
          | some win => (s.hostRead (.beat quad e.seq e.progress) (word p.1) (hostAddr x.dpa) p.2.length win.2).1
          | none => s
        else s
      match s.engineWatch c.slice x.dpa p.2.length .write with
      | some hit =>
        .next (s.updCoach quad (fun c => c.updDefer (fun e =>
          { e with hit := e.hit.or (some (watchAddr p.1 x.dpa hit, watchHigh hit)) })))
      | none => .next s

/-- A write of an entry is still on its way. -/
def State.deferPending (s : State) (quad seq : Nat) : Bool := (List.range 33).any (fun j => s.beatPending quad seq j)

/-- The page that the head waits for is still on its way. -/
def State.deferAway (s : State) (c : Coach) (e : DeferEntry) : Bool :=
  match e.page with
  | some p => s.pulls.any (fun x => x.page == p && x.domain == s.coachDomain c)
  | none => false

/-- DEFER_WRITE_ACK (R180, R181): the head of the deferral queue goes on by one write, moves to its next vector when all
writes of this one have been acknowledged, or retires. A vector that has hit a watchpoint is written whole before the queue
parks (R382). -/
def execDeferWriteAck (quad : Nat) (s : State) : Host.Outcome State Fault Refusal :=
  match s.coach? quad with
  | none => .next s
  | some c =>
    match c.defer with
    | [] => .next s
    | e :: rest =>
      if c.deferPark.isSome ∨ c.deferFrozen ∨ s.boot.halted then .next s
      else if e.poison ≠ 0#32 then .next (s.deferFault quad e codePoison e.base 0#64 0)
      else if 32 ≤ e.progress then
        if s.deferPending quad e.seq ∨ c.pushHeld 2 e.push then .next s
        else .next (s.updCoach quad (fun c => { c with defer := rest }.enginePush 2 e.push))
      else
        match (e.pieces e.progress)[e.sent]? with
        | some p =>
          if s.quiet c ∧ e.sent = 0 ∨ s.deferAway c e then .next s else s.deferPiece c e p
        | none =>
          if s.deferPending quad e.seq then .next s
          else
            match e.hit with
            | some h => .next (s.deferFault quad e codeWatchEngine h.1 h.2 (e.progress + 1))
            | none => .next (s.updCoach quad (fun c => c.updDefer (fun e => { e with progress := e.progress + 1, sent := 0 })))

/-! ## Failures that replies bring (R430, R437) -/

/-- A beat, or the head of the deferral queue, fails for a reason that a reply gives. -/
def State.beatFailed (s : State) (quad seq num code : Nat) (tva : Word) : State :=
  match s.coach? quad with
  | none => s
  | some c =>
    match c.copyq.find? (fun o => o.seq == seq) with
    | some o =>
      s.updCopy quad seq (fun _ => o.updBeat num (fun b =>
        b.failWith code (if b.todo.isEmpty && b.want = 0 && !b.out.isEmpty || b.wrote then o.dstFirst b else o.srcFirst b)
          0#64))
    | none =>
      match c.defer with
      | e :: _ =>
        if e.seq = seq ∧ c.deferPark.isNone then
          s.deferFault quad e code tva 0#64 num
        else s
      | [] => s

end Sys2Proof.Machine
end

