-- ==== Sys2Proof/Machine/Still.lean ====
section
/-! DEFINITION. Still: how the threads, the vector unit and the queues of a coach come to rest (R101, R164, R207, R236, R341). -/

namespace Sys2Proof.Machine

/-- Every thread of a coach is brought to an instruction boundary, as far as it can be now (R101). -/
def State.abandonAll (s : State) (quad : Nat) : State :=
  (List.range 11).foldl (fun s p => s.abandon (.coach quad p)) s

/-- The matrix queue is at an MMA boundary, or frozen (R207). -/
def Coach.matStill (c : Coach) : Bool :=
  c.froze || c.matFrozen || c.matPark.isSome || c.matq.all (fun o => !o.started)

/-- Every issued beat has been acknowledged or has failed, and the failure has been recorded (R236). -/
def State.copyStill (s : State) (c : Coach) : Bool :=
  c.copyq.all (fun o => o.beats.all (fun b => s.settledBeat c o b)) &&
  (c.copyPark.isSome || c.copyFrozen || (s.failing c).isNone)

/-- The deferral queue has stopped at a vector boundary (R164). -/
def State.deferStill (s : State) (c : Coach) : Bool :=
  c.deferPark.isSome ||
  match c.defer with
  | [] => true
  | e :: _ => e.sent == 0 && !s.deferPending c.quad e.seq

/-- The instruction at the front of the vector unit cannot begin while its coach is being stopped: a VDEFER that finds the
deferral queue full, or a VDRAIN that waits for the queue. -/
def Coach.unitBlocked (c : Coach) : Bool :=
  match c.unit with
  | [] => false
  | o :: _ =>
    !o.started &&
    (match o.ins with
      | .vdefer _ _ _ _ _ => decide (4 ≤ c.defer.length)
      | .vdrain _ => !c.defer.isEmpty
      | _ => false)

/-- The tokens of a withdrawn word: the one that it took goes back, and its push is owed no longer (R18, R164). -/
def Coach.untoken (c : Coach) (o : VecOp) : Coach :=
  let k := tokOf (instrWord o.ins)
  let c := if k.pop = 0#2 then c else c.returnToken (selected 2 k.pop.toNat) 2
  if o.push = 0 then c
  else
    let key := fifoKey 2 (selected 2 o.push)
    c.setOwed key (c.owedCount key - 1)

/-- An instruction has advanced the call counter of the stochastic rounding (R71). -/
def VecOp.called (o : VecOp) : Bool :=
  match o.ins with
  | .vcvt _ _ _ r _ _ => r == 5#3
  | _ => false

/-- The instructions of the vector unit are withdrawn with all that their issue did, and issue again from the first of them
(R164). -/
def Coach.withdrawUnit (c : Coach) : Coach :=
  match c.unit with
  | [] => c
  | o :: _ =>
    let n := (c.unit.filter VecOp.called).length
    let c := { c with sx := { c.sx with calls := c.sx.calls - BitVec.ofNat 32 n } }
    ({ c.unit.foldl Coach.untoken c with unit := [] }).updStrand 9 (fun st =>
      { st.clearWait with pc := o.pc, loops := o.loops, run := .ready })

/-- The streams, the vector unit and the queues of a coach are at the stop points of rung 2. -/
def State.still (s : State) (c : Coach) : Bool :=
  (List.range 11).all (fun p => s.atBoundary (.coach c.quad p)) && c.unit.isEmpty && c.matStill && s.copyStill c && s.deferStill c

/-- The streams of a coach that is being stopped come to instruction boundaries, and an instruction that cannot begin leaves the
vector unit (R101, R164). -/
def State.stopCoach (s : State) (quad : Nat) : State :=
  (s.abandonAll quad).updCoach quad (fun c => if c.unitBlocked then c.withdrawUnit else c)

end Sys2Proof.Machine
end

