-- ==== Sys2Proof/Machine/Walker.lean ====
section
/-! DEFINITION. Walker: the tile walker, the loader's planes, and the start and end of tasks (R92, R134, R138, R143-R145,
R252-R254, R259, R260, R353, R365). -/

namespace Sys2Proof.Machine

/-! ## Shares (R260) -/

/-- Quadrant time of a slice on a die in the share window that is running. -/
def State.windowTime (s : State) (die slice : Nat) : Nat :=
  (s.coachesOn die slice).foldl (fun n c => n + c.quads.length * (s.tsc - c.tallied).toNat)
    (SMap.get zeroWord (s.die die).winTime slice).toNat

/-- A slice is in deficit on a die. -/
def State.inDeficit (s : State) (die slice : Nat) : Bool :=
  decide (2 * s.windowTime die slice < s.sliceShare die slice * (s.tsc - (s.die die).winStart).toNat)

/-- SHARE_WINDOW (R260): the next window of 1 ms begins. -/
def execShareWindow (die : Nat) (s : State) : Host.Outcome State Fault Refusal :=
  if (s.tsc - (s.die die).winStart).toNat < 1000000 then .next s
  else
    let f := fun (c : Coach) => { c with tallied := s.tsc }
    .next ({ s with coaches := updateWhere (fun c => quadDie c.quad == die) f s.coaches }.updDie die (fun d =>
      { d with winTime := [], winStart := s.tsc }))

/-! ## Whether a task may start -/

/-- An empty energy account, a slice whose migration lost pages, and a request for pre-emption hold tasks back (R259, R353,
R448, R456). At rung 0 the launches that have started on the die go on. -/
def State.mayStart (s : State) (l : Launch) (die : Nat) : Bool :=
  let a := s.account l.slice
  !s.boot.halted && (!a.metered || decide (0 < a.bal)) && s.migState l.slice != 3 &&
  (s.preState die l.slice == 0 || (s.preRung die l.slice == 0 && l.started.getLsbD die))

/-- A launch runs and has been found ready. -/
def State.walkable (s : State) (l : Launch) (die : Nat) : Bool :=
  l.ready && l.cause == 0#16 && s.uncommitted l.tag && s.mayStart l die &&
  (match s.walker die l.tag with
    | some w => decide (w.next < w.total)
    | none => decide ((s.walkers.filter (fun w => w.die == die)).length < 64) && decide (0 < s.spatial l die) &&
        !l.started.getLsbD die)

/-! ## The claims of a record (R293) -/

/-- The claimed regions of a record: base and length. -/
def lnrClaims (h : List Word) : List (Nat × Nat) :=
  ((List.range 8).map (fun j => (bits (h.getD (16 + 2 * j) 0#64) 55 0, (h.getD (17 + 2 * j) 0#64).toNat))).filter
    (fun c => c.2 != 0)

/-- The agent that stands for a launch before its first task. -/
def launchAgent (l : Launch) : ThreadId := .dray l.die 8

/-- A claim of a launch's record waits. -/
def State.claimWaits (s : State) (l : Launch) : Bool :=
  s.waiting.any (fun w => w.req.by_ == launchAgent l && (w.req.tag.map (fun t => t.1)) == some l.tag)

/-- One region of the record is claimed, with the launch as requester; a fault of its translation ends the launch (R293). -/
def State.claimNext (s : State) (l : Launch) (base len : Nat) : State :=
  match s.claimRuns (s.hwWho l.die l.slice) base len with
  | .later s _ => s
  | .fault c _ _ => s.abortLaunch l.tag c 0#16 0#13
  | .ok s runs =>
    match s.claimRegion l base len runs with
    | .go s => s
    | .gone s => s
    | .wait s owners =>
      let r : HomeReq := { parkedReq s (launchAgent l) l.slice ((runs.headD (0, 0)).1 / 64) 0 0 .nobody with
        tag := some (l.tag, (s.tag l.tag).gen) }
      s.parkAt r owners

/-! ## Picking (R134, R259) -/

/-- The lead quadrants of a shape on a die (R132). -/
def shapeLeads (shape : BitVec 2) (die : Nat) : List Nat :=
  (List.range 128).filterMap (fun q =>
    let ok := match shape.toNat with
      | 0 => true
      | 1 => q % 2 == 0
      | 2 => decide (q % 4 < 2)
      | _ => q % 4 == 0
    if ok then some (128 * die + q) else none)

/-- An unretired NABUF command reads a quadrant (R244): it is handed to no task of another slice, and is not cleared. -/
def State.nearHold (s : State) (slice q : Nat) : Bool :=
  s.coaches.any (fun c => (c.slice != slice || (s.quad q).lastSlice != some slice) &&
    c.copyq.any (fun o => o.near == some q))

/-- A quadrant may be bound for a slice. -/
def State.quadFree (s : State) (slice q : Nat) : Bool :=
  (s.coachHolding q).isNone && !s.nearHold slice q && s.quadOwner q == some slice && !(s.quad q).quarantined && !(s.quad q).mustPass

/-- The lead quadrant that a launch's next coach gets: the lowest. -/
def State.leadFor (s : State) (l : Launch) (die : Nat) : Option Nat :=
  (shapeLeads l.shape die).find? (fun q => (shapeQuads l.shape q).all (s.quadFree l.slice))

/-- The launches from which a die may bind a point now. -/
def State.pickable (s : State) (die : Nat) : List Launch :=
  s.launches.filter (fun l => s.walkable l die && !s.claimWaits l && (s.leadFor l die).isSome)

/-- The slices that a list of launches belongs to, in the order of a turn that starts after a slice. -/
def sliceOrder (ls : List Launch) (last : Nat) : List Nat :=
  ((List.range 64).map (fun i => (last + 1 + i) % 64)).filter (fun i => ls.any (fun l => l.slice == i))

/-- Turns that a slice has in a round. -/
def State.turnsOf (s : State) (die : Nat) (ls : List Launch) (slice : Nat) : Nat :=
  if ls.any (fun l => s.sliceShare die l.slice != 0) then s.sliceShare die slice else 1

/-- The slice that is served next among launches of one priority, and whether a new round begins. -/
def State.nextSlice (s : State) (die : Nat) (ls : List Launch) : Option (Nat × Bool) :=
  let order := sliceOrder ls (s.die die).lastSlice
  match order.find? (fun i => decide (SMap.get zeroNat (s.die die).turns i < s.turnsOf die ls i)) with
  | some i => some (i, false)
  | none => (order.find? (fun i => decide (0 < s.turnsOf die ls i))).map (fun i => (i, true))

/-- The oldest of some launches. -/
def oldest (ls : List Launch) : Option Launch :=
  ls.foldl (fun m x => match m with
    | none => some x
    | some y => if x.older y then some x else some y) none

/-- The walker's choice: slices in deficit first, then priority, then turns, then age. -/
def State.pick (s : State) (die : Nat) : Option (Launch × Bool) :=
  let all := s.pickable die
  let short := all.filter (fun l => s.inDeficit die l.slice)
  let ls := if short.isEmpty then all else short
  let top := ls.foldl (fun n l => Nat.max n l.prio) 0
  let ls := ls.filter (fun l => l.prio == top)
  match s.nextSlice die ls with
  | none => none
  | some n => (oldest (ls.filter (fun l => l.slice == n.1))).map (fun l => (l, n.2))

/-- A turn is taken. -/
def State.takeSliceTurn (s : State) (die slice : Nat) (fresh : Bool) : State :=
  s.updDie die (fun d =>
    let t := if fresh then [] else d.turns
    { d with lastSlice := slice, turns := SMap.put zeroNat t slice (SMap.get zeroNat t slice + 1) })

/-- A coach is bound to a spatial point. -/
def State.bindCoach (s : State) (l : Launch) (lead point temporal : Nat) : State :=
  let c := newCoach lead l.shape l.slice l.tag point temporal l.args s.clocks s.tsc
  { s with coaches := s.coaches ++
      [{ c with useA := hdrUsed l.hdr 0, useW := hdrUsed l.hdr 1, useC := hdrUsed l.hdr 2 }] }

/-- A launch takes its entry in a die's walker at its first task there. -/
def State.openWalker (s : State) (l : Launch) (die : Nat) : State :=
  match s.walker die l.tag with
  | some _ => s
  | none =>
    let e : WalkEntry := { die := die, tag := l.tag, next := 0, total := s.spatial l die, saved := 0, bound := 0 }
    { s with walkers := s.walkers ++ [e] }.updLaunch l.tag (fun l =>
      { l with started := l.started ||| (1#4 <<< die), opened := l.opened || l.mode })

/-- WALKER_PICK (R253, R259). Before a launch's first task the regions of its record are claimed, one a step. DEDUCED: that is
done when a walker picks it, and while a claim waits no walker picks it (R293; log entry 155). -/
def execWalkerPick (die : Nat) (s : State) : Host.Outcome State Fault Refusal :=
  match s.pick die with
  | none => .next s
  | some p =>
    match (lnrClaims p.1.hdr).drop p.1.claims.length, s.leadFor p.1 die with
    | r :: _, _ => .next (s.claimNext p.1 r.1 r.2)
    | [], none => .next s
    | [], some lead =>
      let s := (s.openWalker p.1 die).takeSliceTurn die p.1.slice p.2
      let point := ((s.walker die p.1.tag).map (fun w => w.next)).getD 0
      .next ((s.updWalker die p.1.tag (fun w => { w with next := w.next + 1, bound := w.bound + 1 })).bindCoach p.1 lead
        point 0)

/-! ## Planes (R143, R144) -/

/-- The plane that a flip would leave active holds a launch's code. -/
def Quadrant.owner (x : Quadrant) (b : Bool) : Option Nat := if b then x.ownerB else x.ownerA

/-- A posted token that the launch does not need flips the planes of the idle quadrant. -/
def Quadrant.staleSwap (x : Quadrant) (tag : Nat) : Quadrant :=
  if x.swap && x.owner (!x.activeB) != some tag then { x with activeB := !x.activeB, swap := false } else x

/-- LOADER_PLANE_LOAD (R143, R144): the shadow plane takes the launch's code, and the swap token is posted. -/
def execLoaderPlaneLoad (quad tag : Nat) (s : State) : Host.Outcome State Fault Refusal :=
  match s.coach? quad, s.launch? tag with
  | some c, some l =>
    let x := (s.quad quad).staleSwap tag
    if c.tag ≠ tag ∨ c.phase ≠ .loading ∨ x.swap then .next s
    else if x.owner x.activeB = some tag then .next (s.setQuad quad x)
    else
      let p := SMap.putAll (fun _ => 0#32) [] 0 l.code
      .next (s.setQuad quad
        (if x.activeB then { x with planeA := p, ownerA := some tag, swap := true }
        else { x with planeB := p, ownerB := some tag, swap := true }))
  | _, _ => .next s

/-! ## Starting a task (R92, R138, R145, R253) -/

/-- The buffers of a quadrant that goes to another slice are cleared. -/
def Quadrant.handTo (x : Quadrant) (slice : Nat) : Quadrant :=
  if x.lastSlice = some slice then x
  else
    { x with abuf := [], wbuf := [], acc := [], glatch := [], pAbuf := [], pWbuf := [], pAcc := [], pGlatch := [],
             lastSlice := some slice }

/-- The clear of masks and declared tile registers of a quadrant. -/
def Quadrant.clearTiles (x : Quadrant) (declared : Nat) : Quadrant :=
  { x with
    masks := [], pMask := 0#8
    tiles := x.tiles.filter (fun e => !declared.testBit (e.1 / 1024))
    pTile := x.pTile.filter (fun e => !declared.testBit (e.1 / 32)) }

/-- The stream of a task that starts: its code range, its indices and the launch's precise bit. -/
def startStream (l : Launch) (idx : List Nat) (i : Nat) : Stream :=
  { Stream.start with
    lnr := l.precise
    idx := SMap.putAll zeroWord [] 0 (idx.map word)
    codeBase := ((hdrLens l.hdr).take i).foldl (· + ·) 0
    codeLen := (hdrLens l.hdr).getD i 0 }

/-- The threads of a task that starts: s14 holds the argument block; a stream without code has stopped. -/
def startThreads (l : Launch) : SMap Strand :=
  [(0, 0), (8, 1), (9, 2), (10, 3)].foldl (fun m p =>
    let st : Strand := { Strand.start with
      regs := SMap.put zeroWord [] 14 l.args
      run := if (hdrLens l.hdr).getD p.2 0 = 0 then .idle else .ready }
    SMap.put (fun _ => Strand.start) m p.1 st) []

/-- A coach at the start of a task: everything but its binding, endpoints and views is as the register clear leaves it. -/
def Coach.begin (c : Coach) (s : State) (l : Launch) : Coach :=
  let idx := s.taskIndex l (quadDie c.quad) c.point c.temporal
  { newCoach c.quad c.shape c.slice c.tag c.point c.temporal c.args s.clocks c.tallied with
    phase := .running
    strands := startThreads { l with args := c.args }
    sk := startStream l idx 0
    sl := startStream l idx 1
    sx := startStream l idx 2
    ss := startStream l idx 3
    semView := c.semView
    barView := c.barView
    ends := c.ends
    nextSeq := c.nextSeq
    useA := c.useA
    useW := c.useW
    useC := c.useC
    kat := c.kat }

/-- The task of a coach starts: a posted swap flips the planes, a change of slice clears the buffers, and the register
clear runs. -/
def State.startTask (s : State) (c : Coach) (l : Launch) : State :=
  let s := s.updQuad c.quad (fun x => if x.swap then { x with activeB := !x.activeB, swap := false } else x)
  let s := c.quads.foldl (fun s q =>
    (s.l1Leave q c.slice).updQuad q (fun x => (x.handTo c.slice).clearTiles l.tilesDecl)) s
  let b := c.begin s l
  s.updCoach c.quad (fun _ => b)

/-- The code of a coach's launch is there: in the active plane, or in the shadow plane with its token posted. -/
def State.codeReady (s : State) (c : Coach) : Bool :=
  let x := s.quad c.quad
  x.owner x.activeB == some c.tag && !x.swap || x.swap && x.owner (!x.activeB) == some c.tag

/-- TASK_START (R253). -/
def execTaskStart (quad : Nat) (s : State) : Host.Outcome State Fault Refusal :=
  match s.coach? quad with
  | none => .next s
  | some c =>
    match s.launch? c.tag with
    | none => .next s
    | some l =>
      if c.phase = .running ∨ c.held.isSome ∨ c.frozen ∨ s.mayStart l (quadDie quad) = false ∨ s.codeReady c = false then
        .next s
      else .next (s.startTask c l)

/-! ## The end of a task (R253) -/

/-- The four streams of a coach have stopped. -/
def Coach.stopped (c : Coach) : Bool := (List.range 11).all (fun p => (c.strand p).run == .idle)

/-- Posted stores of a coach that have not been acknowledged, its commands' among them. -/
def State.storesOut (s : State) (q : Nat) : Bool :=
  s.unapplied.any (fun r => !onDray r.by_ && threadQuad r.by_ == q && r.mask != 0#64) ||
  s.remote.any (fun r => match r.who with
    | .store (.coach p _) _ _ => p == q
    | .beat p _ _ => p == q
    | _ => false)

/-- A task has drained: its streams have stopped, its operations have retired, and its stores have been acknowledged. -/
def State.drained (s : State) (c : Coach) : Bool :=
  c.phase == .running && c.stopped && c.unit.isEmpty && c.defer.isEmpty && c.matq.isEmpty && c.copyq.isEmpty &&
  c.copyPark.isNone && c.matPark.isNone && c.deferPark.isNone && !s.storesOut c.quad

/-- A coach exits: its endpoints are unbound and its quadrants are idle. -/
def State.exitCoach (s : State) (c : Coach) : State :=
  (s.dropCoach c.quad).updWalker (quadDie c.quad) c.tag (fun w => { w with bound := w.bound - 1 })

/-- TASK_DRAIN (R253): the next task of the point follows, or the coach exits. -/
def execTaskDrain (quad : Nat) (s : State) : Host.Outcome State Fault Refusal :=
  match s.coach? quad with
  | none => .next s
  | some c =>
    match s.launch? c.tag with
    | none => .next s
    | some l =>
      if s.drained c = false ∨ c.frozen ∨ c.held.isSome then .next s
      else if c.temporal + 1 < kindCount l.hdr 0 then
        .next (s.updCoach quad (fun c => { c with phase := .between, temporal := c.temporal + 1 }))
      else .next (s.exitCoach c)

end Sys2Proof.Machine
end

