-- ==== Sys2Proof/Machine/Masters.lean ====
section
/-! DEFINITION. Masters: master handles, and ERET, FRES, FKILL, FREEZE, THAW and CSRX (R339-R343, R352, R356). -/

namespace Sys2Proof.Machine

/-! ## System words -/

/-- A word of the system block in the hands of a Dray strand: its die, number, level and what it serves. -/
structure Caller where
  die    : Nat
  k      : Nat
  level  : Nat
  served : Nat
deriving DecidableEq, Repr

/-- The running Dray strand. No coach reaches the body of a system word (R37). -/
def withCaller (s : State) (f : Caller → Res) : Res :=
  match s.cur with
  | .dray d k => f { die := d, k := k, level := s.strandLevel d k, served := s.strandServed d k }
  | .coach _ _ => .gone s

/-- A system word: its level and right, its operands' poison, and its body. -/
def sysForm (level : Nat) (right : Option Nat) (i : Instr) (k : Tok) (a b : BitVec 4) (f : State → Caller → Res) :
    State → Host.Outcome State Fault Refusal :=
  issue (sysWord level right) i k (fun s => consume (s.pois a || s.pois b) s (withCaller s (f s)))

/-- A malformed operand. -/
def badOperand (s : State) (v : Word) : Res := .fault s codeDescRange (some v) none

/-- A slice within a caller's authority (R340). -/
def Caller.has (c : Caller) (s : State) (slice : Nat) : Bool := s.ownsSlice c.die c.level c.served slice

/-! ## Handles (R339) -/

/-- What a master handle names. -/
inductive Master where
  | coach (quad part : Nat)
  | dray (die k : Nat)
  | fn (f : Nat)
deriving DecidableEq, Repr

/-- The part of a kind-0 handle exists. -/
def partOk (p : Nat) : Bool := decide (p ≤ 10) || p == 16 || p == 17 || p == 18 || p == 31

/-- Reading a handle. -/
def masterOf (h : Word) : Option Master :=
  if bits h 63 24 ≠ 0 ∨ bits h 21 14 ≠ 0 then none
  else
    match bits h 23 22 with
    | 0 => if partOk (bits h 4 0) then some (.coach (128 * bits h 13 12 + bits h 11 5) (bits h 4 0)) else none
    | 1 => if bits h 11 3 = 0 then some (.dray (bits h 13 12) (bits h 2 0)) else none
    | 2 => if bits h 13 8 = 0 then some (.fn (bits h 7 0)) else none
    | _ => none

/-- The slice that a quadrant acts for: its coach's, else its owner. -/
def State.quadSlice (s : State) (quad : Nat) : Option Nat :=
  match s.coach? quad with
  | some c => some c.slice
  | none => s.quadOwner quad

/-- A master lies within a caller's authority (R340). -/
def State.masterOk (s : State) (c : Caller) (m : Master) : Bool :=
  c.level == 0 ||
  match m with
  | .coach q _ => ((s.quadSlice q).map (fun i => c.has s i)).getD false
  | .dray d k =>
    (s.strandLevel d k == 2 && c.has s (s.strandServed d k)) ||
      (s.strandLevel d k == 1 && c.level == 1 && s.strandServed d k == c.served)
  | .fn f =>
    match s.fnAttach f with
    | some (1, n) => c.level == 1 && n == c.served
    | some (2, n) => c.has s n
    | _ => false

/-- The checks that a master instruction makes on its handle. `fits` says which masters it takes. -/
def withMaster (s : State) (i : Instr) (c : Caller) (h : Word) (fits : Master → Bool) (f : Master → Res) : Res :=
  match masterOf h with
  | none => badOperand s h
  | some m =>
    if m = .dray c.die c.k ∨ fits m = false then badOperand s h
    else if s.masterOk c m = false then rightsRes s i
    else f m

/-- A coach's thread. -/
def Master.isThread (m : Master) : Bool :=
  match m with
  | .coach _ p => decide (p ≤ 10)
  | .dray _ _ => true
  | .fn _ => false

/-- The queue that a part names. -/
def queueOf (p : Nat) : Option QueueId :=
  match p with
  | 16 => some .copy
  | 17 => some .matrix
  | 18 => some .defer
  | _ => none

/-- A queue or a whole coach. -/
def Master.isQueue (m : Master) : Bool :=
  match m with
  | .coach _ p => decide (11 ≤ p)
  | _ => false

/-- The thread of a handle. -/
def Master.thread (m : Master) : ThreadId :=
  match m with
  | .coach q p => .coach q p
  | .dray d k => .dray d k
  | .fn _ => .dray 0 0

/-- A thread is frozen, by itself or with its coach. -/
def State.threadFrozen (s : State) (th : ThreadId) : Bool :=
  ((s.strand? th).map (fun t => t.frozen)).getD false ||
  (match th with
    | .coach q _ => ((s.coach? q).map (fun c => c.frozen)).getD false
    | .dray _ _ => false)

/-- A caller may handle a fault of a level. -/
def mayHandle (c : Caller) (level : Nat) : Bool := c.level == 0 || c.level == level

/-! ## ERET and FRES -/

/-- ERET's status and effect. -/
def State.eret (s : State) (c : Caller) (th : ThreadId) : State × Nat :=
  match s.strand? th with
  | none => (s, 1)
  | some st =>
    if s.threadFrozen th then (s, 2)
    else
      match st.run with
      | .stopped level => if mayHandle c level = false then (s, 3) else (s.updStrand th Strand.resume, 0)
      | _ => (s, 1)

/-- ERET. -/
def execEret (k : Tok) (d a : BitVec 4) (s : State) : Host.Outcome State Fault Refusal :=
  sysForm 2 none (.eret k d a) k a 0#4 (fun s c => withMaster s (.eret k d a) c (s.reg a) Master.isThread (fun m =>
    let r := s.eret c m.thread
    writeS d (word r.2) false r.1)) s

/-- The queues that a part names: one, or all of a whole coach. -/
def partQueues (p : Nat) : List QueueId :=
  match queueOf p with
  | some k => [k]
  | none => [.copy, .matrix, .defer]

/-- FRES's status and effect: the parked queues go on from their progress. -/
def State.fres (s : State) (c : Caller) (quad p : Nat) : State × Nat :=
  match s.coach? quad with
  | none => (s, 1)
  | some co =>
    let ks := (partQueues p).filter (fun k => (co.parked k).isSome)
    if co.frozen ∨ ks.any co.queueFrozen ∨ (queueOf p).any co.queueFrozen then (s, 2)
    else if ks.isEmpty then (s, 1)
    else if ks.any (fun k => ((co.parked k).map (fun r => !mayHandle c r.level)).getD false) then (s, 3)
    else (s.updCoach quad (fun co => ks.foldl (fun co k => co.park k none) co), 0)

/-- FRES. -/
def execFres (k : Tok) (d a : BitVec 4) (s : State) : Host.Outcome State Fault Refusal :=
  sysForm 2 (some rightSched) (.fres k d a) k a 0#4 (fun s c =>
    withMaster s (.fres k d a) c (s.reg a) Master.isQueue (fun m =>
      match m with
      | .coach q p =>
        let r := s.fres c q p
        writeS d (word r.2) false r.1
      | _ => .gone s)) s

/-! ## FKILL -/

/-- A strand is killed: idle, disabled, its undelivered records gone. -/
def State.killStrand (s : State) (d k : Nat) : State :=
  let s := s.abandon (.dray d k)
  let s := s.updDray d k (fun x => { x with th := { x.th with run := .idle, frozen := false, reply := [] } })
  let s := s.pmSetBits d (strandEntry k) 63 63 0
  { s with
    faults := s.faults.filter (fun f => f.body.handle != threadHandle (.dray d k))
    remote := s.remote.filter (fun r => r.who != .thread (.dray d k))
    hostReqs := s.hostReqs.filter (fun r => r.who != .thread (.dray d k))
    proxies := s.proxies.filter (fun r => r.written || r.who != .thread (.dray d k)) }

/-- A coach is killed: its launch aborts. -/
def State.killCoach (s : State) (quad : Nat) : State :=
  match s.coach? quad with
  | none => s
  | some c => s.abortLaunch c.tag codeTxKilled 0#16 0#13

/-- A function is reset as a PCIe Function Level Reset resets it: its control page is at its reset values, and it is no
longer frozen. -/
def State.resetFn (s : State) (f : Nat) : State := s.updFn f (fun _ => FnPage.reset)

/-- FKILL's status and effect. -/
def State.fkill (s : State) (m : Master) : State × Nat :=
  match m with
  | .coach q _ => if (s.coach? q).isSome then (s.killCoach q, 0) else (s, 1)
  | .dray d k => (s.killStrand d k, 0)
  | .fn f => (s.resetFn f, 0)

/-- FKILL. -/
def execFkill (k : Tok) (d a : BitVec 4) (s : State) : Host.Outcome State Fault Refusal :=
  sysForm 2 (some rightKill) (.fkill k d a) k a 0#4 (fun s c =>
    withMaster s (.fkill k d a) c (s.reg a) (fun _ => true) (fun m =>
      let r := s.fkill m
      writeS d (word r.2) false r.1)) s

/-! ## FREEZE and THAW -/

/-- FREEZE's status and effect. -/
def State.freeze (s : State) (m : Master) : State × Nat :=
  match m with
  | .coach q p =>
    match s.coach? q with
    | none => (s, 1)
    | some c =>
      if c.frozen then (s, 1)
      else if p = 31 then ((s.stopCoach q).updCoach q (fun c => c.freeze s.tsc), 0)
      else
        match queueOf p with
        | some k => if c.queueFrozen k then (s, 1) else (s.updCoach q (fun c => c.freezeQueue k true), 0)
        | none =>
          if (c.strand p).frozen then (s, 1)
          else ((s.abandon (.coach q p)).updStrand (.coach q p) (fun t => { t with frozen := true }), 0)
  | .dray d k =>
    if (s.drayStrand d k).th.frozen then (s, 1)
    else ((s.abandon (.dray d k)).updStrand (.dray d k) (fun t => { t with frozen := true }), 0)
  | .fn f => if (s.fn f).frozen then (s, 1) else (s.updFn f (fun x => { x with frozen := true }), 0)

/-- A frozen master has stopped (R341): a coach has come to rest, a thread to an instruction boundary; a queue and a function stop
at once (log entry 87). -/
def State.frozenStill (s : State) (m : Master) : Bool :=
  match m with
  | .coach q p =>
    match s.coach? q with
    | none => true
    | some c =>
      if p = 31 then s.still c
      else
        match queueOf p with
        | some _ => true
        | none => s.atBoundary (.coach q p)
  | .dray d k => s.atBoundary (.dray d k)
  | .fn _ => true

/-- A frozen master is brought on to its stop. -/
def State.bringStill (s : State) (m : Master) : State :=
  match m with
  | .coach q p => if p = 31 then s.stopCoach q else if p ≤ 10 then s.abandon (.coach q p) else s
  | .dray d k => s.abandon (.dray d k)
  | .fn _ => s

/-- FREEZE parks until the master has stopped (R341); the mark with its word tells that the stop has begun (log entry 87). -/
def execFreeze (k : Tok) (d a : BitVec 4) (s : State) : Host.Outcome State Fault Refusal :=
  sysForm 2 (some rightPreempt) (.freeze k d a) k a 0#4 (fun s c =>
    if s.me.reply.isEmpty then
      withMaster s (.freeze k d a) c (s.reg a) (fun _ => true) (fun m =>
        let r := s.freeze m
        if r.2 = 0 ∧ r.1.frozenStill m = false then .wait (r.1.addReply [0#8] false) .fence
        else writeS d (word r.2) false r.1)
    else
      match masterOf (s.reg a) with
      | none => writeS d 0#64 false s
      | some m =>
        let s := s.bringStill m
        if s.frozenStill m then writeS d 0#64 false s else .wait s .fence) s

/-- The record of coaches that rung 3 has killed on a die (R355). -/
def State.reportKill (s : State) (die slice n : Nat) : State :=
  s.reportSlice die slice codePreemptKill (some (word (die * 4096 + slice))) (some (word n)) 0#16

/-- A coach that thaws under a request comes to the rung in force as though the request had begun now (R356). DESIGN CHOICE: a
request has one pair of timers on a die, and they begin again for all its coaches (log entry 159). -/
def State.thawUnder (s : State) (quad : Nat) : State :=
  match s.coach? quad with
  | none => s
  | some c =>
    let die := quadDie quad
    if s.preState die c.slice = 0 then s
    else if s.preRung die c.slice = 3 then (s.killCoach quad).reportKill die c.slice 1
    else
      let f := fun (r : PreReq) => { r with began := s.tsc }
      { s with pres := updateWhere (fun r => r.die == die && r.slice == c.slice) f s.pres }.pmSetBits die
        (0x3FC00 + 16 * c.slice) 1 0 1

/-- THAW's status and effect. -/
def State.thaw (s : State) (m : Master) : State × Nat :=
  match m with
  | .coach q p =>
    match s.coach? q with
    | none => (s, 1)
    | some c =>
      if p = 31 then
        if c.frozen then
          ((s.updCoach q (fun c => { c with frozen := false, stopAt := none, froze := false })).thawUnder q, 0)
        else (s, 1)
      else
        match queueOf p with
        | some k => if c.queueFrozen k then (s.updCoach q (fun c => c.freezeQueue k false), 0) else (s, 1)
        | none =>
          if (c.strand p).frozen then (s.updStrand (.coach q p) (fun t => { t with frozen := false }), 0) else (s, 1)
  | .dray d k =>
    if (s.drayStrand d k).th.frozen then (s.updStrand (.dray d k) (fun t => { t with frozen := false }), 0) else (s, 1)
  | .fn f => if (s.fn f).frozen then ((s.updFn f (fun x => { x with frozen := false })).pumpProxies, 0) else (s, 1)

/-- THAW. -/
def execThaw (k : Tok) (d a : BitVec 4) (s : State) : Host.Outcome State Fault Refusal :=
  sysForm 2 (some rightPreempt) (.thaw k d a) k a 0#4 (fun s c =>
    withMaster s (.thaw k d a) c (s.reg a) (fun _ => true) (fun m =>
      let r := s.thaw m
      writeS d (word r.2) false r.1)) s

/-! ## CSRX (R352) -/

/-- A thread whose registers another strand may reach: stopped, frozen, or held with its coach. -/
def State.reachable (s : State) (th : ThreadId) : Bool :=
  match s.strand? th with
  | none => false
  | some st =>
    (match st.run with
      | .stopped _ => true
      | _ => false) || s.threadFrozen th ||
    (match th with
      | .coach q _ => ((s.coach? q).map (fun c => c.held.isSome)).getD false
      | .dray _ _ => false)

/-- CSRX in its four forms. -/
def csrxForm (i : Instr) (k : Tok) (d a b : BitVec 4) (n : BitVec 7) (op : CsrOp) :
    State → Host.Outcome State Fault Refusal :=
  sysForm 2 (some rightDebug) i k a b (fun s c => withMaster s i c (s.reg a) Master.isThread (fun m =>
    if s.reachable m.thread = false then badOperand s (s.reg a)
    else
      let old := s.csr m.thread n.toNat
      let s := if op = .read then s else s.csrWriteX m.thread n.toNat (op.new old (s.reg b))
      writeS d old false s))

/-- CSRX. -/
def execCsrx (k : Tok) (d a b : BitVec 4) (n : BitVec 7) (s : State) : Host.Outcome State Fault Refusal :=
  csrxForm (.csrx k d a b n) k d a 0#4 n .read s

/-- CSRX.W. -/
def execCsrxW (k : Tok) (d a b : BitVec 4) (n : BitVec 7) (s : State) : Host.Outcome State Fault Refusal :=
  csrxForm (.csrxW k d a b n) k d a b n .write s

/-- CSRX.S. -/
def execCsrxS (k : Tok) (d a b : BitVec 4) (n : BitVec 7) (s : State) : Host.Outcome State Fault Refusal :=
  csrxForm (.csrxS k d a b n) k d a b n .set s

/-- CSRX.C. -/
def execCsrxC (k : Tok) (d a b : BitVec 4) (n : BitVec 7) (s : State) : Host.Outcome State Fault Refusal :=
  csrxForm (.csrxC k d a b n) k d a b n .clear s

end Sys2Proof.Machine
end

