-- ==== Sys2Proof/Machine/Tables.lean ====
section
/-! DEFINITION. Tables: S1INV, S2INV, WINSET, RIGHTS, FMASK, IDMAP, TIMEOFS, ENSET and KATSET (R330, R333, R344-R351, R378,
R457). -/

namespace Sys2Proof.Machine

/-! ## Waiting for what has passed a translation (R344, R345) -/

/-- The slice and domain that an agent's accesses are translated for. -/
def State.placeOf (s : State) (th : ThreadId) : Option Nat × Option Nat := (s.sliceOf th, s.domainOf th)

/-- The access of a requester has passed a translation that `hit` counts; what another part has asked for counts for every
slice. -/
def State.passedFor (s : State) (hit : Option Nat × Option Nat → Bool) (r : Requester) : Bool :=
  match r with
  | .thread th => hit (s.placeOf th)
  | .store th _ _ => hit (s.placeOf th)
  | .beat q _ _ => hit (s.placeOf (.coach q 8))
  | .flush _ => false
  | .remote _ _ => true

/-- A request or beat that passed its translation before a moment, and has neither performed nor faulted: `hit` says whose
count, `n` is the request number and `t` the time of the moment. -/
def State.inFlight (s : State) (hit : Option Nat × Option Nat → Bool) (n : Nat) (t : Word) : Bool :=
  s.unapplied.any (fun r => r.mask != 0#64 && decide (r.id < n) &&
    hit (if onDray r.by_ then s.placeOf r.by_ else (some r.slice, some (s.sliceDomain (threadDie r.by_) r.slice)))) ||
  s.remote.any (fun r => decide (r.first.toNat ≤ t.toNat) && s.passedFor hit r.who) ||
  (s.hostReqs ++ s.proxies).any (fun r => decide (r.since.toNat ≤ t.toNat) && s.passedFor hit r.who) ||
  s.coaches.any (fun c => hit (some c.slice, some (s.coachDomain c)) &&
    c.copyq.any (fun o => o.beats.any (fun b => !b.wrote && b.fail.isNone && b.out.any (fun p => p.ready))))

/-- An invalidation: `go` removes the entries at once, and the strand waits until what passed them has performed. What the
strand waits for stands with its word: the request number and the time at which it removed them. Where a root changes, the walks
that begin before the end still use the old one (R330): the end waits for what they let pass too, and removes the entries
again. -/
def invalidate (s : State) (hit : Option Nat × Option Nat → Bool) (go : State → State) (roots : Option (State → State)) : Res :=
  let n := if s.me.reply.isEmpty then s.nextReq else natOfBytes (s.me.reply.take 8)
  let t := if s.me.reply.isEmpty then s.tsc else wordOf8 (s.me.reply.drop 8)
  let s := if s.me.reply.isEmpty then go s else s
  if s.inFlight hit n t || (roots.isSome && s.inFlight hit s.nextReq s.tsc) then
    .wait (if s.me.reply.isEmpty then s.addReply (bytesOfNat 8 n ++ bytesOf8 t) false else s) .fence
  else
    match roots with
    | some f => .done (go (f s))
    | none => .done s

/-- The roots of slices come into force on every die (R330). -/
def State.loadRoots1 (s : State) (p : Nat → Bool) : State :=
  { s with root1 := ((List.range 256).filter (fun k => p (k % 64))).foldl (fun m k =>
      SMap.put zeroWord m k (s.sliceRoot (k / 64) (k % 64))) s.root1 }

/-- The roots of domains come into force on every die. -/
def State.loadRoots2 (s : State) (p : Nat → Bool) : State :=
  { s with root2 := ((List.range 64).filter (fun k => p (k % 16))).foldl (fun m k =>
      SMap.put zeroWord m k (s.domainRoot (k / 16) (k % 16))) s.root2 }

/-- Translations that are kept no longer. -/
def State.dropTlb (s : State) (p : TlbEntry → Bool) : State := { s with tlb := s.tlb.filter (fun e => !p e) }

/-- Table entries that the walk caches keep no longer. -/
def State.dropCached (s : State) (p : WalkCached → Bool) : State :=
  { s with walkCache := s.walkCache.filter (fun e => !p e) }

/-- A cached table entry leads on from an address. -/
def WalkCached.covers (e : WalkCached) (a : Nat) : Bool := decide (e.base ≤ a) && decide (a < e.base + e.size)

/-- A root of a set of slices has been written since it came into force. -/
def State.rootsNew1 (s : State) (p : Nat → Bool) : Bool :=
  (List.range 256).any (fun k => p (k % 64) && SMap.get zeroWord s.root1 k != s.sliceRoot (k / 64) (k % 64))

/-- The same for a set of domains. -/
def State.rootsNew2 (s : State) (p : Nat → Bool) : Bool :=
  (List.range 64).any (fun k => p (k % 16) && SMap.get zeroWord s.root2 k != s.domainRoot (k / 16) (k % 16))

/-- The slices of a caller's scope. -/
def Caller.scope (c : Caller) (s : State) (i : Nat) : Bool := c.has s i

/-- S1INV over a set of slices: all of it, or what covers one address. -/
def s1invSet (s : State) (p : Nat → Bool) (at_ : Option Nat) : Res :=
  invalidate s (fun x => (x.1.map p).getD false)
    (fun s => (s.dropTlb (fun x => p x.slice && at_.all (fun a => a / x.size1 == x.tva * 4096 / x.size1))).dropCached
      (fun x => !x.stage2 && p x.slice && at_.all x.covers))
    (if at_.isNone && s.rootsNew1 p then some (fun s => s.loadRoots1 p) else none)

/-- S2INV over a set of domains: all of it, or what covers one address. The stage-1 tables of the domain are read through stage 2, so
the walk caches lose them all. -/
def s2invSet (s : State) (p : Nat → Bool) (at_ : Option Nat) : Res :=
  invalidate s (fun x => (x.2.map p).getD false)
    (fun s => (s.dropTlb (fun x => p x.domain && at_.all (fun a => a / x.size2 == x.spa * 4096 / x.size2))).dropCached
      (fun x => p x.domain && (!x.stage2 || at_.all x.covers)))
    (if at_.isNone && s.rootsNew2 p then some (fun s => s.loadRoots2 p) else none)

/-- A slice operand: below 64 and within the caller's authority. -/
def withSlice (s : State) (i : Instr) (c : Caller) (v : Word) (f : Nat → Res) : Res :=
  if 64 ≤ v.toNat then badOperand s v else if c.has s v.toNat then f v.toNat else rightsRes s i

/-- A domain operand. -/
def withDomain (s : State) (i : Instr) (c : Caller) (v : Word) (f : Nat → Res) : Res :=
  if 16 ≤ v.toNat then badOperand s v else if ownsDomain c.level c.served v.toNat then f v.toNat else rightsRes s i

/-- S1INV. -/
def execS1inv (k : Tok) (s : State) : Host.Outcome State Fault Refusal :=
  sysForm 2 (some rightMap1) (.s1inv k) k 0#4 0#4 (fun s c => s1invSet s (c.scope s) none) s

/-- S1INV.PAGE. -/
def execS1invPage (k : Tok) (a b : BitVec 4) (s : State) : Host.Outcome State Fault Refusal :=
  sysForm 2 (some rightMap1) (.s1invPage k a b) k a b (fun s c =>
    withSlice s (.s1invPage k a b) c (s.reg b) (fun i => s1invSet s (fun j => j == i) (some (s.reg a).toNat))) s

/-- S1INV.SLICE. -/
def execS1invSlice (k : Tok) (b : BitVec 4) (s : State) : Host.Outcome State Fault Refusal :=
  sysForm 2 (some rightMap1) (.s1invSlice k b) k b 0#4 (fun s c =>
    withSlice s (.s1invSlice k b) c (s.reg b) (fun i => s1invSet s (fun j => j == i) none)) s

/-- S2INV. -/
def execS2inv (k : Tok) (s : State) : Host.Outcome State Fault Refusal :=
  sysForm 1 (some rightMap2) (.s2inv k) k 0#4 0#4 (fun s c =>
    s2invSet s (fun d => ownsDomain c.level c.served d) none) s

/-- S2INV.PAGE. -/
def execS2invPage (k : Tok) (a b : BitVec 4) (s : State) : Host.Outcome State Fault Refusal :=
  sysForm 1 (some rightMap2) (.s2invPage k a b) k a b (fun s c =>
    withDomain s (.s2invPage k a b) c (s.reg b) (fun i => s2invSet s (fun j => j == i) (some (s.reg a).toNat))) s

/-- S2INV.DOMAIN. -/
def execS2invDomain (k : Tok) (b : BitVec 4) (s : State) : Host.Outcome State Fault Refusal :=
  sysForm 1 (some rightMap2) (.s2invDomain k b) k b 0#4 (fun s c =>
    withDomain s (.s2invDomain k b) c (s.reg b) (fun i => s2invSet s (fun j => j == i) none)) s

/-! ## WINSET (R333, R345) -/

/-- A window entry keeps R333. -/
def windowWf (w0 w1 : Word) : Bool :=
  bits w0 59 52 == 0 && bits w0 20 0 == 0 && !bit w1 31 &&
  apertureOf (winBase (w0, w1)) != .none && apertureOf (winBase (w0, w1)) == apertureOf (winLimit (w0, w1) - 1)

/-- WINSET. -/
def execWinset (k : Tok) (a b : BitVec 4) (s : State) : Host.Outcome State Fault Refusal :=
  sysForm 0 none (.winset k a b) k a b (fun s c =>
    let va := s.reg a
    let vb := s.reg b
    if bits va 63 12 ≠ 0 ∨ bits va 7 6 ≠ 0 then badOperand s va
    else if vb.toNat % 16 ≠ 0 ∨ 0x40000 ≤ vb.toNat then badOperand s vb
    else
      let w0 := s.pmWord c.die vb.toNat
      let w1 := s.pmWord c.die (vb.toNat + 8)
      let dom := bits va 11 8
      let n := bits va 5 0
      if windowWf w0 w1 = false then badOperand s vb
      else
        invalidate s (fun x => x.2 == some dom)
          (fun s =>
            let s := { s with windows := SMap.put (fun _ => (0#64, 0#64)) s.windows (dom * 64 + n) (w0, w1) }
            ((s.pmSetBitsAll (domainBlock dom + 32) n n (flagNat (bit w0 63))).dropTlb (fun e => e.domain == dom)).dropCached
              (fun e => e.domain == dom)) none) s

/-! ## RIGHTS (R347) -/

/-- The target of RIGHTS: a slice or a domain. -/
def rightsTarget (v : Word) : Option (Bool × Nat) :=
  if bits v 63 9 ≠ 0 ∨ bits v 7 6 ≠ 0 then none
  else if bit v 8 then some (true, bits v 5 0)
  else if bits v 5 0 < 16 then some (false, bits v 5 0)
  else none

/-- The key of a target's mask. -/
def rightsKey (t : Bool × Nat) : Nat := if t.1 then t.2 else 64 + t.2

/-- A caller may change a target's mask: level O any, a domain those of its slices. -/
def mayGrant (s : State) (c : Caller) (t : Bool × Nat) : Bool := c.level == 0 || (t.1 && c.has s t.2)

/-- A caller may read a target's mask. -/
def mayReadRights (s : State) (c : Caller) (t : Bool × Nat) : Bool :=
  mayGrant s c t || (!t.1 && ownsDomain c.level c.served t.2)

/-- A new mask on all four dies; a domain's copy stands in its control block. -/
def State.setRights (s : State) (t : Bool × Nat) (m : BitVec 16) : State :=
  let s := { s with rights := SMap.put (fun _ => 0#16) s.rights (rightsKey t) m }
  if t.1 then s else s.pmSetBitsAll (domainBlock t.2) 15 0 m.toNat

/-- RIGHTS in its three forms. -/
def rightsForm (i : Instr) (k : Tok) (a b : BitVec 4) (bOk : Word → Bool) (f : State → Caller → Bool × Nat → Res) :
    State → Host.Outcome State Fault Refusal :=
  sysForm 1 (some rightDelegate) i k a b (fun s c =>
    match rightsTarget (s.reg a) with
    | none => badOperand s (s.reg a)
    | some t => if bOk (s.reg b) then f s c t else badOperand s (s.reg b))

/-- RIGHTS. -/
def execRights (k : Tok) (d a b : BitVec 4) (s : State) : Host.Outcome State Fault Refusal :=
  rightsForm (.rights k d a b) k a b (fun v => bits v 63 16 == 0) (fun s c t =>
    let add := (s.reg b).setWidth 16
    let old := s.rightsMask (rightsKey t)
    if mayGrant s c t = false ∨ add &&& ~~~ (s.effRights c.die c.level c.served) ≠ 0#16 then rightsRes s (.rights k d a b)
    else writeS d (old.setWidth 64) false (s.setRights t (old ||| add))) s

/-- RIGHTS.REVOKE. -/
def execRightsRevoke (k : Tok) (d a b : BitVec 4) (s : State) : Host.Outcome State Fault Refusal :=
  rightsForm (.rightsRevoke k d a b) k a b (fun v => bits v 63 16 == 0) (fun s c t =>
    let old := s.rightsMask (rightsKey t)
    if mayGrant s c t = false then rightsRes s (.rightsRevoke k d a b)
    else writeS d (old.setWidth 64) false (s.setRights t (old &&& ~~~ ((s.reg b).setWidth 16)))) s

/-- RIGHTS.READ: the mask, and the target's effective rights. -/
def execRightsRead (k : Tok) (d a : BitVec 4) (s : State) : Host.Outcome State Fault Refusal :=
  rightsForm (.rightsRead k d a) k a 0#4 (fun v => v == 0#64) (fun s c t =>
    if mayReadRights s c t = false then rightsRes s (.rightsRead k d a)
    else
      let eff := s.effRights c.die (if t.1 then 2 else 1) t.2
      writeS d (word ((s.rightsMask (rightsKey t)).toNat + eff.toNat * 2 ^ 16)) false s) s

/-! ## FMASK and TIMEOFS (R349, R351) -/

/-- FMASK. -/
def execFmask (k : Tok) (d a b : BitVec 4) (s : State) : Host.Outcome State Fault Refusal :=
  sysForm 1 (some rightFeat) (.fmask k d a b) k a b (fun s c =>
    let va := s.reg a
    let f := bits va 7 0
    let ones := fun (_ : Nat) => (-1#64 : Word)
    if bits va 63 16 ≠ 0 ∨ bits va 15 8 ≠ 1 then badOperand s va
    else if c.level = 0 then
      writeS d (SMap.get ones s.featO f) false { s with featO := SMap.put ones s.featO f (s.reg b) }
    else
      match s.fnAttach f with
      | some (2, i) =>
        if c.has s i then
          writeS d (SMap.get ones s.featD f) false { s with featD := SMap.put ones s.featD f (s.reg b) }
        else rightsRes s (.fmask k d a b)
      | _ => rightsRes s (.fmask k d a b)) s

/-- TIMEOFS. -/
def execTimeofs (k : Tok) (d a b : BitVec 4) (s : State) : Host.Outcome State Fault Refusal :=
  sysForm 1 (some rightTimeofs) (.timeofs k d a b) k a b (fun s c =>
    withSlice s (.timeofs k d a b) c (s.reg a) (fun i =>
      writeS d (SMap.get zeroWord s.offsets i) false { s with offsets := SMap.put zeroWord s.offsets i (s.reg b) })) s

/-! ## IDMAP (R350) -/

/-- A byte of a die table. -/
def dieByteOk (e : Nat) : Bool := if e.testBit 7 then decide (e % 128 < 4) else e == 0

/-- An entry of a core table. -/
def coreEntryOk (e : Nat) : Bool := if e.testBit 15 then decide (e / 4096 % 8 = 0) && !e.testBit 7 else e == 0

/-- Bytes of an image as 16-bit entries. -/
def halfWords (bs : List Byte) (off n : Nat) : List Nat :=
  (List.range n).map (fun i => natOfBytes (bs.drop (off + 2 * i) |>.take 2))

/-- The state with a slice's tables as an image gives them. -/
def State.withSliceTables (s : State) (i : Nat) (bs : List Byte) : State :=
  { s with
    dieTab := SMap.putAll (fun _ => 0#8) s.dieTab (i * 4) (bs.take 4)
    coreTab := SMap.putAll (fun _ => 0#16) s.coreTab (i * 128) ((halfWords bs 8 128).map (BitVec.ofNat 16)) }

/-- The state with a domain's table. -/
def State.withDomainTable (s : State) (d : Nat) (bs : List Byte) : State :=
  { s with domTab := SMap.putAll (fun _ => 0#16) s.domTab (d * 128) ((halfWords bs 0 128).map (BitVec.ofNat 16)) }

/-- A domain holds a quadrant. -/
def State.domainHolds (s : State) (d quad : Nat) : Bool :=
  (SMap.get (fun _ => 0#16) s.domTab (d * 128 + 32 * (quad / 128) + quad % 128 / 4)).getLsbD (quad % 4)

/-- No element stands twice. -/
def distinct (l : List Nat) : Bool := l.eraseDups.length == l.length

/-- The fields of a slice's image keep their tables, and the tables agree. -/
def sliceImageOk (bs : List Byte) : Bool :=
  let dies := (bs.take 4).map (fun b => b.toNat)
  let cores := halfWords bs 8 128
  let valid := cores.filter (fun e => e.testBit 15)
  let live := (dies.filter (fun e => e.testBit 7)).map (fun e => e % 4)
  dies.all dieByteOk && (bs.drop 4 |>.take 4).all (fun b => b == 0#8) && cores.all coreEntryOk && distinct live &&
  distinct (valid.map (fun e => e % 128)) && valid.all (fun e => live.contains (e / 32 % 4)) &&
  (List.range 32).all (fun v =>
    ((((cores.drop (4 * v)).take 4).filter (fun e => e.testBit 15)).map (fun e => e % 128 / 4)).eraseDups.length ≤ 1)

/-- All quadrants of the part. -/
def allQuads : List Nat := List.range 512

/-- No quadrant of a running coach changes hands between two states. -/
def keepsCoaches (s t : State) : Bool := s.coaches.all (fun c => c.quads.all (fun q => s.quadOwner q == t.quadOwner q))

/-- A slice's new tables may stand. -/
def State.sliceTablesOk (s t : State) (i dom : Nat) : Bool :=
  allQuads.all (fun q => !t.ownsQuad i q || (t.domainHolds dom q &&
    (List.range 64).all (fun j => j == i || !t.ownsQuad j q) &&
    (List.range 16).all (fun d => d == dom || !t.domainHolds d q))) && keepsCoaches s t

/-- A domain's new table may stand. -/
def State.domainTableOk (s t : State) (die dom : Nat) : Bool :=
  allQuads.all (fun q =>
    (!t.domainHolds dom q || ((List.range 16).all (fun d => d == dom || !t.domainHolds d q) &&
      (List.range 64).all (fun j => !t.ownsQuad j q || s.sliceDomain die j == dom))) &&
    (t.domainHolds dom q || (List.range 64).all (fun j => !(t.ownsQuad j q && s.sliceDomain die j == dom)))) &&
  keepsCoaches s t

/-- A quadrant that passes to another slice: what the earlier slice's counts left is stale (R149). -/
def Quadrant.passTo (x : Quadrant) (slice : Nat) : Quadrant :=
  match x.semSlice with
  | none => { x with semSlice := some slice }
  | some a => if a = slice then x else { x with semSlice := some slice, stale := -1#32 }

/-- Every quadrant that a slice's new table gives it. -/
def State.passQuads (s : State) (slice : Nat) : State :=
  allQuads.foldl (fun s q => if s.ownsQuad slice q then s.updQuad q (fun x => x.passTo slice) else s) s

/-- Bytes at SPAs of a target come for the running strand's word, piece by piece. -/
def State.spaPieces (s : State) (w : Who) (ps : List (Nat × Nat)) : Except Res State :=
  match ps with
  | [] => .ok s
  | p :: ps =>
    match s.through2 w p.1 p.2 .read with
    | .fault s code prog => .error (.fault s code (some (word p.1)) (some prog))
    | .page s w => .error (.wait s w)
    | .ok s x =>
      match s.loadFar 0 x p with
      | .ok s => s.spaPieces w ps
      | .error r => .error r

/-- An image at an SPA, read through a target's stage 2 and windows. -/
def withImage (s : State) (w : Who) (spa n : Nat) (f : State → List Byte → Res) : Res :=
  match s.spaPieces w ((linePieces spa n).filter (fun p => decide (spa + s.me.reply.length ≤ p.1))) with
  | .error r => r
  | .ok s => consume s.me.replyPoison s (f s s.me.reply)

/-- IDMAP. -/
def execIdmap (k : Tok) (a b : BitVec 4) (s : State) : Host.Outcome State Fault Refusal :=
  sysForm 1 (some rightIdmap) (.idmap k a b) k a b (fun s c =>
    let va := s.reg a
    let vb := s.reg b
    let dom := bit va 8
    if bits va 63 9 ≠ 0 ∨ bits va 7 6 ≠ 0 ∨ (dom ∧ 16 ≤ bits va 5 0) then badOperand s va
    else if vb.toNat % 8 ≠ 0 then badOperand s vb
    else if dom then
      let d := bits va 3 0
      if c.level ≠ 0 then rightsRes s (.idmap k a b)
      else
        withImage s { s.hwWho c.die 0 with domain := d } vb.toNat 256 (fun s bs =>
          let t := s.withDomainTable d bs
          if (halfWords bs 0 128).all (fun e => decide (e < 16)) && s.domainTableOk t c.die d then .done t
          else badOperand s vb)
    else
      let i := bits va 5 0
      if c.has s i = false then rightsRes s (.idmap k a b)
      else
        withImage s (s.hwWho c.die i) vb.toNat 264 (fun s bs =>
          let t := s.withSliceTables i bs
          if sliceImageOk bs && s.sliceTablesOk t i (s.sliceDomain c.die i) then
            .done ((t.passQuads i).pmSetBitsAll (sliceBlock i + 24) 51 0 vb.toNat)
          else badOperand s vb)) s

/-! ## ENSET (R457) -/

/-- REFILL of metered slices of a domain, summed. -/
def State.refillSum (s : State) (die dom : Nat) : Nat :=
  ((List.range 64).filter (fun i => s.sliceV die i && s.sliceDomain die i == dom && (s.account i).metered)).foldl
    (fun n i => n + (s.account i).refill.toNat) 0

/-- The package's REFILLs: those of metered domains, and of the metered slices of the others. -/
def State.packageRefill (s : State) (die : Nat) : Nat :=
  (List.range 16).foldl (fun n d =>
    n + if (s.domAccount d).metered then (s.domAccount d).refill.toNat else s.refillSum die d) 0

/-- The caps hold for a domain: the sum of its slices' REFILLs, and each one's CEIL. -/
def State.domainCaps (s : State) (die dom : Nat) : Bool :=
  let a := s.domAccount dom
  !a.metered || (decide (s.refillSum die dom ≤ a.refill.toNat) &&
    (List.range 64).all (fun i => !(s.sliceV die i && s.sliceDomain die i == dom && (s.account i).metered) ||
      decide ((s.account i).ceil.toNat ≤ a.ceil.toNat)))

/-- An account with a new REFILL and CEIL. -/
def Account.set (a : Account) (b : Word) : Account :=
  { a with
    refill := b.setWidth 32
    ceil := (b >>> 32).setWidth 32
    bal := if a.bal ≤ bits b 63 32 then a.bal else bits b 63 32 }

/-- The b word of an account. -/
def Account.word (a : Account) : Word := Machine.word (a.refill.toNat + a.ceil.toNat * 2 ^ 32)

/-- ENSET. -/
def execEnset (k : Tok) (d a b : BitVec 4) (s : State) : Host.Outcome State Fault Refusal :=
  sysForm 1 (some rightEnergy) (.enset k d a b) k a b (fun s c =>
    let va := s.reg a
    let vb := s.reg b
    let dom := bit va 8
    let n := bits va 5 0
    if bits va 63 9 ≠ 0 ∨ bits va 7 6 ≠ 0 ∨ (dom ∧ (16 ≤ n ∨ c.level ≠ 0)) then badOperand s va
    else if dom = false ∧ c.has s n = false then rightsRes s (.enset k d a b)
    else
      let old := if dom then (s.domAccount n).word else (s.account n).word
      let t := if dom then s.setDomAccount n ((s.domAccount n).set vb) else s.setAccount n ((s.account n).set vb)
      if t.domainCaps c.die (if dom then n else s.sliceDomain c.die n) && decide (t.packageRefill c.die ≤ 2600000) then
        writeS d old false t
      else badOperand s vb) s

/-! ## KATSET (R378) -/

/-- Quadrants of a die that are quarantined, as a number of the d register. -/
def State.quarantineCount (s : State) (die : Nat) : Nat :=
  ((List.range 128).filter (fun q => (s.quad (128 * die + q)).quarantined)).length

/-- KATSET. -/
def execKatset (k : Tok) (d a b : BitVec 4) (s : State) : Host.Outcome State Fault Refusal :=
  sysForm 0 none (.katset k d a b) k a b (fun s c =>
    let va := s.reg a
    let vb := s.reg b
    if bits va 63 19 ≠ 0 ∨ bits va 18 16 = 7 then badOperand s va
    else if bits vb 62 7 ≠ 0 then badOperand s vb
    else
      let x := s.die c.die
      let old := word (x.katEvery + x.katFamily.toNat * 2 ^ 16 + s.quarantineCount c.die * 2 ^ 32)
      let s := s.updDie c.die (fun x => { x with katEvery := bits va 15 0, katFamily := BitVec.ofNat 3 (bits va 18 16) })
      let q := 128 * c.die + bits vb 6 0
      let s := if bit vb 63 ∧ (s.quad q).quarantined then
          s.updQuad q (fun x => { x with quarantined := false, mustPass := true }) else s
      writeS d old false s) s

end Sys2Proof.Machine
end

