-- ==== Sys2Proof/Machine/Preempt.lean ====
section
/-! DEFINITION. Preempt: PRE in its forms, and the stop points of coaches (R164, R207, R353-R358). -/

namespace Sys2Proof.Machine

/-! ## A request (R354, R355) -/

/-- The pre-emption block of a slice. -/
def preBlock (slice : Nat) : Nat := 0x3FC00 + 16 * slice

/-- STATE and RUNG of a slice on a die. -/
def State.setPre (s : State) (die slice state rung : Nat) : State :=
  (s.pmSetBits die (preBlock slice) 1 0 state).pmSetBits die (preBlock slice) 6 4 rung

/-- The timers of a request of a slice that a strand of a die issues, in microseconds. -/
def State.preTimers (s : State) (die slice : Nat) : Nat × Nat :=
  let w := s.pmWord die (preBlock slice + 8)
  let dom := s.sliceDomain die slice
  (Nat.min (bits w 15 0) (Nat.min (bits w 47 32) (s.domainTb1 die dom)),
    Nat.min (bits w 31 16) (Nat.min (bits w 63 48) (s.domainTb2 die dom)))

/-- A request begins on a die. -/
def State.beginPre (s : State) (die slice rung : Nat) (timers : Nat × Nat) : State :=
  let r : PreReq := { die := die, slice := slice, began := s.tsc, t1 := timers.1, t2 := timers.2 }
  let s : State := { s with pres := s.pres.filter (fun p => p.die != die || p.slice != slice) ++ [r] }
  (s.pmSetBits die (preBlock slice) 8 8 0).setPre die slice 1 rung

/-- A die is stopped for a slice: every coach is held or frozen, and at rung 0 what had started there has committed. -/
def State.dieStopped (s : State) (die slice : Nat) : Bool :=
  (s.coachesOn die slice).all (fun c => c.held.isSome || c.frozen) &&
  (s.preRung die slice != 0 ||
    s.launches.all (fun l => l.slice != slice || !l.started.getLsbD die || !s.uncommitted l.tag))

/-- The strands whose PRE has been fulfilled are told. -/
def State.tellPre (s : State) : State :=
  let done := fun (w : PreWait) => w.dies.all (fun d => s.preState d w.slice == 2)
  let t := { s with preWaits := s.preWaits.filter (fun w => !done w) }
  (s.preWaits.filter done).foldl (fun t w =>
    t.updDray w.die w.strand (fun x => { x with th := { x.th with latch := x.th.latch ||| 4#4 } })) t

/-- A die that is stopped for a slice enters STOPPED. -/
def State.settlePre (s : State) (die slice : Nat) : State :=
  if s.preState die slice = 1 ∧ s.dieStopped die slice then (s.pmSetBits die (preBlock slice) 1 0 2).tellPre else s

/-- Every request on a die is looked at. -/
def State.settleDie (s : State) (die : Nat) : State :=
  ((s.pres.filter (fun r => r.die == die)).map (fun r => r.slice)).foldl (fun s i => s.settlePre die i) s

/-- Rung 3 kills the coaches that are not held, with one record for the die. -/
def State.killSlice (s : State) (die slice : Nat) : State :=
  let cs := (s.coachesOn die slice).filter (fun c => c.held.isNone && !c.frozen)
  let s := cs.foldl (fun s c => s.killCoach c.quad) s
  if cs.isEmpty then s
  else s.reportKill die slice cs.length

/-- RUNG rises. -/
def State.raiseRung (s : State) (die slice rung : Nat) : State :=
  let s := s.pmSetBits die (preBlock slice) 6 4 rung
  if rung = 3 then s.killSlice die slice else s

/-- The request on a die is lifted: held coaches go on from their stops. -/
def State.lift (s : State) (die slice : Nat) : State :=
  let f := fun (c : Coach) =>
    { c with held := none, stopAt := if c.frozen then c.stopAt else none, froze := c.froze && c.frozen, boundAt := if c.held.isSome then s.clocks else c.boundAt }
  { s with
    pres := s.pres.filter (fun p => p.die != die || p.slice != slice)
    coaches := updateWhere (fun c => quadDie c.quad == die && c.slice == slice) f s.coaches }.setPre die slice 0 0

/-- What PRE does on one die. -/
def State.preOn (s : State) (slice rung : Nat) (timers : Nat × Nat) (die : Nat) : State :=
  let s :=
    if s.preState die slice = 0 then
      let s := s.beginPre die slice rung timers
      if rung = 3 then s.killSlice die slice else s
    else if s.preRung die slice < rung then s.raiseRung die slice rung
    else s
  s.settlePre die slice

/-- The dies that a mask names. -/
def namedDies (b : Word) : List Nat := if bits b 3 0 = 0 then [0, 1, 2, 3] else setPositions (bits b 3 0) 4

/-- Event 2 latches in a Dray strand. -/
def State.latchStrand (s : State) (die k : Nat) : State :=
  s.updDray die k (fun x => { x with th := { x.th with latch := x.th.latch ||| 4#4 } })

/-- PRE and PRE RESUME of a slice on some dies. -/
def State.preempt (s : State) (c : Caller) (slice rung : Nat) (resume : Bool) (dies : List Nat) : State :=
  if resume then
    (dies.foldl (fun s d => if s.preState d slice = 0 then s else s.lift d slice) s).latchStrand c.die c.k
  else
    let t := s.preTimers c.die slice
    let s := dies.foldl (fun s d => s.preOn slice rung t d) s
    if dies.all (fun d => s.preState d slice == 2) then s.latchStrand c.die c.k
    else { s with preWaits := s.preWaits ++ [{ die := c.die, strand := c.k, slice := slice, dies := dies }] }

/-- PRE in its forms. -/
def preForm (i : Instr) (k : Tok) (d a b : BitVec 4) (rung : Nat) : State → Host.Outcome State Fault Refusal :=
  sysForm 2 (some rightPreempt) i k a b (fun s c =>
    let va := s.reg a
    let vb := s.reg b
    if 64 ≤ va.toNat then badOperand s va
    else if bits vb 63 9 ≠ 0 ∨ bits vb 7 4 ≠ 0 ∨ (bit vb 8 ∧ rung ≠ 0) then badOperand s vb
    else
      withSlice s i c va (fun slice =>
        let s := s.preempt c slice rung (bit vb 8) (namedDies vb)
        writeS d (s.preWord c.die slice) false s))

/-- PRE: rung 0, or RESUME. -/
def execPre (k : Tok) (d a b : BitVec 4) (s : State) : Host.Outcome State Fault Refusal :=
  preForm (.pre k d a b) k d a b 0 s

/-- PRE with RESUME in b[8]: the same word. -/
def execPreResume (k : Tok) (d a b : BitVec 4) (s : State) : Host.Outcome State Fault Refusal :=
  preForm (.preResume k d a b) k d a b 0 s

/-- PRE.TASK. -/
def execPreTask (k : Tok) (d a b : BitVec 4) (s : State) : Host.Outcome State Fault Refusal :=
  preForm (.preTask k d a b) k d a b 1 s

/-- PRE.INSN. -/
def execPreInsn (k : Tok) (d a b : BitVec 4) (s : State) : Host.Outcome State Fault Refusal :=
  preForm (.preInsn k d a b) k d a b 2 s

/-- PRE.KILL. -/
def execPreKill (k : Tok) (d a b : BitVec 4) (s : State) : Host.Outcome State Fault Refusal :=
  preForm (.preKill k d a b) k d a b 3 s

/-! ## The timers -/

/-- Microseconds since a request began. -/
def State.preAge (s : State) (r : PreReq) : Nat := (s.tsc - r.began).toNat / 1000

/-- PRE_T1_EXPIRY (R355): the request goes on at rung 2. -/
def execPreT1Expiry (die slice : Nat) (s : State) : Host.Outcome State Fault Refusal :=
  match s.preReq die slice with
  | none => .next s
  | some r =>
    if s.preState die slice = 1 ∧ s.preRung die slice < 2 ∧ r.t1 < r.t2 ∧ r.t1 ≤ s.preAge r then
      .next ((s.raiseRung die slice 2).settlePre die slice)
    else .next s

/-- PRE_T2_EXPIRY (R355): the request goes on at rung 3. -/
def execPreT2Expiry (die slice : Nat) (s : State) : Host.Outcome State Fault Refusal :=
  match s.preReq die slice with
  | none => .next s
  | some r =>
    if s.preState die slice = 1 ∧ s.preRung die slice < 3 ∧ r.t2 ≤ s.preAge r then
      .next ((s.raiseRung die slice 3).settlePre die slice)
    else .next s

/-! ## Stop points (R353) -/

/-- The stop point of rung 2. -/
def State.atInsnStop (s : State) (c : Coach) : Bool :=
  c.stopAt.isSome && s.still c && !s.storesOut c.quad

/-- A coach has reached the stop point of the rung in force. -/
def State.atStop (s : State) (c : Coach) : Bool :=
  let rung := s.preRung (quadDie c.quad) c.slice
  (decide (1 ≤ rung) && c.phase != .running) || (decide (2 ≤ rung) && s.atInsnStop c)

/-- A coach is held (R353, R356, R369). -/
def Coach.hold (c : Coach) (rung : Nat) (now clocks : Word) : Coach :=
  { c.pauseEnds now with held := some rung, clocks := c.clocks + (clocks - c.boundAt), boundAt := clocks }

/-- COACH_HELD (R101, R341, R353): the streams of a coach that is stopped or frozen come to instruction boundaries, and a coach at
its stop point is held. Dies whose coaches are all stopped enter STOPPED. -/
def execCoachHeld (quad : Nat) (s : State) : Host.Outcome State Fault Refusal :=
  let die := quadDie quad
  match s.coach? quad with
  | none => .next (s.settleDie die)
  | some c =>
    let rung := s.preRung die c.slice
    if c.frozen then .next ((s.stopCoach quad).settleDie die)
    else if s.preState die c.slice = 0 ∨ rung = 0 ∨ c.held.isSome then .next (s.settleDie die)
    else
      let s :=
        if 2 ≤ rung ∧ c.phase = .running then
          (s.stopCoach quad).updCoach quad (fun c => { c with stopAt := c.stopAt.or (some s.tsc) })
        else s
      match s.coach? quad with
      | none => .next s
      | some c =>
        if s.atStop c then .next ((s.updCoach quad (fun c => c.hold rung s.tsc s.clocks)).settleDie die) else .next s

/-- MMA_BOUNDARY_TIMEOUT (R207): 4 us after its streams stopped, the array freezes where it stands. -/
def execMmaBoundaryTimeout (quad : Nat) (s : State) : Host.Outcome State Fault Refusal :=
  match s.coach? quad with
  | none => .next s
  | some c =>
    match c.stopAt with
    | none => .next s
    | some t =>
      if (s.halting c = false ∧ c.frozen = false) ∨ c.matStill ∨ (s.tsc - t).toNat < 4000 then .next s
      else
        let s := s.updCoach quad (fun c => { c with froze := true })
        .next (if s.halting c then s.pmSetBits (quadDie quad) (preBlock c.slice) 8 8 1 else s)

end Sys2Proof.Machine
end

