-- ==== Sys2Proof/Machine/Deliver.lean ====
section
/-! DEFINITION. Deliver: fault records and their delivery (R335, R337, R338, R341, R374, R382, R440, R452). -/

namespace Sys2Proof.Machine

/-! ## The record (R374) -/

/-- The four words of a record. -/
def FaultRec.words (r : FaultRec) : List Word :=
  [word (r.handle.toNat * 2 ^ 40 + r.epc.toNat * 2 ^ 23 + r.cls * 2 ^ 20 + flagNat r.overrun * 2 ^ 19 +
      flagNat r.frozen * 2 ^ 18 + flagNat r.info * 2 ^ 17 + flagNat r.eng * 2 ^ 16 + r.code.toNat),
    r.faddr, r.fprog,
    word (r.vtag.toNat * 2 ^ 48 + r.slice * 2 ^ 42 + r.domain * 2 ^ 38 + r.time.toNat % 2 ^ 32)]

/-- The 32 bytes of a record. -/
def FaultRec.bytes (r : FaultRec) : List Byte := r.words.flatMap bytesOf8

/-- The record that four words lay out. -/
def recordOf (w0 w1 w2 w3 : Word) : FaultRec where
  handle := BitVec.ofNat 24 (bits w0 63 40)
  epc := BitVec.ofNat 17 (bits w0 39 23)
  cls := bits w0 22 20
  overrun := bit w0 19
  frozen := bit w0 18
  info := bit w0 17
  eng := bit w0 16
  code := BitVec.ofNat 16 (bits w0 15 0)
  faddr := w1
  fprog := w2
  vtag := BitVec.ofNat 16 (bits w3 63 48)
  slice := bits w3 47 42
  domain := bits w3 41 38
  time := word (bits w3 31 0)
  level := 3

/-! ## Routes (R337) -/

/-- Level of a route key: 0 O, 1 D, 2 S. -/
def keyLevel (key : Nat) : Nat := if key < 64 then 2 else if key < 80 then 1 else 0

/-- The number that a key serves at its level. -/
def keyNum (key : Nat) : Nat := if key < 64 then key else if key < 80 then key - 64 else 0

/-- The route entry of a class in a key's block, on the die where the record stands. -/
def State.routeEntry (s : State) (die key cls : Nat) : Nat :=
  let base := if key = 80 then 0x3A000 else 0x3F700 + 16 * key
  natOfBytes (s.pmBytes die (base + 2 * cls) 2)

/-- A strand's data window holds its fault queue. -/
def State.ringFits (s : State) (die k : Nat) : Bool :=
  decide (s.strandDbase die k + 0x810 ≤ s.strandDlimit die k)

/-- An entry can be used for a level. -/
def State.entryUsable (s : State) (e key : Nat) : Bool :=
  e.testBit 15 &&
  if e.testBit 14 then (s.fnOf (keyLevel key) (keyNum key)).isSome
  else
    let die := e / 16 % 4
    let k := e % 8
    s.strandEn die k && decide (s.strandLevel die k ≤ keyLevel key) && s.ringFits die k

/-! ## Where a record goes (R338, R440) -/

/-- What a delivery comes to: done, or the record waits. -/
inductive Delivered where
  | done (s : State)
  | wait

/-- A record goes into an agent strand's ring. -/
def State.toStrand (s : State) (die k : Nat) (r : FaultRec) : Delivered :=
  let base := s.strandDbase die k
  if s.ringFits die k = false then .wait
  else
    let prod := s.pmWord die (base + 0x800)
    if prod - s.pmWord die (base + 0x808) = 64#64 then .wait
    else
      .done (((s.pmPut die (base + 32 * (prod.toNat % 64)) r.bytes).pmSetWord die (base + 0x800) (prod + 1#64)).latchStrand
        die k)

/-- A record goes into a function's ring, and a vector fires. -/
def State.toFunction (s : State) (f vec : Nat) (r : FaultRec) : Delivered :=
  let x := s.fn f
  match ringLog x.fr with
  | none => .wait
  | some lg =>
    if x.frozen ∨ 2 ^ lg ≤ (x.prod - x.cons).toNat then .wait
    else
      let s := s.hostWrite f (bits x.fr 63 12 * 4096 + 32 * (x.prod.toNat % 2 ^ lg)) r.bytes
      .done ((s.updFn f (fun x => { x with prod := x.prod + 1#32 })).toHost (.vector f vec))

/-- What an entry names. -/
def State.toEntry (s : State) (e key : Nat) (r : FaultRec) : Delivered :=
  if e.testBit 14 then
    match s.fnOf (keyLevel key) (keyNum key) with
    | some f => s.toFunction f (e % 2048) r
    | none => .wait
  else s.toStrand (e / 16 % 4) (e % 8) r

/-- The level whose entry delivers a record: the first from its own on with a usable entry; without one, strand 0 of the die
(key 81). -/
def State.routeFrom (s : State) (die : Nat) (r : FaultRec) (key : Nat) : Nat :=
  let chain := if key < 64 then [key, 64 + r.domain, 80] else if key < 80 then [key, 80] else [key]
  ((chain.filter (fun k => decide (k ≤ 80))).find? (fun k => s.entryUsable (s.routeEntry die k r.cls) k)).getD 81

/-- A delivered fault has a handling level: its thread or queue may be resumed from it (R341). -/
def State.setHandled (s : State) (r : FaultRec) (level : Nat) : State :=
  match masterOf (r.handle.setWidth 64) with
  | some (.coach q p) =>
    match queueOf p with
    | some k =>
      s.updCoach q (fun c => match c.parked k with
        | some x => c.park k (some { x with level := level })
        | none => c)
    | none =>
      s.updStrand (.coach q p) (fun st => if st.run = .stopped 3 then { st with run := .stopped level } else st)
  | some (.dray d k) =>
    s.updStrand (.dray d k) (fun st => if st.run = .stopped 3 then { st with run := .stopped level } else st)
  | _ => s

/-- Records that wait or are on their way, without one. -/
def State.dropRec (s : State) (id : Nat) : State := { s with faults := s.faults.filter (fun f => f.id != id) }

/-- A record waits for room. -/
def State.holdPending (s : State) (id : Nat) : State :=
  let f := fun (p : PendingRec) => { p with waiting := true }
  { s with faults := updateWhere (fun p => p.id == id) f s.faults }

/-- OVERRUN: watchpoint records were dropped on the die before this one (R382). -/
def State.withOverrun (s : State) (p : PendingRec) : FaultRec :=
  if (s.die p.die).watchLost && p.body.code == BitVec.ofNat 16 codeWatchRemote then { p.body with overrun := true } else p.body

/-- A record has been delivered. -/
def State.delivered (s : State) (p : PendingRec) (level : Nat) : State :=
  let s := (s.dropRec p.id).updDie p.die (fun d =>
    if p.body.code = BitVec.ofNat 16 codeWatchRemote then { d with watchLost := false } else d)
  if p.body.info then s else s.setHandled p.body level

/-- A fault of a strand 0 (R452): the first one is held in BOOTSTAT, and its record is for the PF's ring. -/
def State.strand0Fault (s : State) (p : PendingRec) : State :=
  if s.boot.state = 5#4 then s.dropRec p.id
  else
    let f := fun (x : PendingRec) => { x with level := 83 }
    { s with
      boot := { s.boot with state := 5#4, fdie := BitVec.ofNat 2 p.die, fcode := p.body.code }
      faults := updateWhere (fun x => x.id == p.id) f s.faults }

/-- The delivery of a record. -/
def State.deliver (s : State) (p : PendingRec) : State :=
  let r := s.withOverrun p
  let finish := fun (d : Delivered) (level : Nat) =>
    match d with
    | .done s => s.delivered p level
    | .wait => s.holdPending p.id
  if p.level = 82 then s.strand0Fault p
  else if p.level = 83 then finish (s.toFunction 0 0 r) 0
  else if p.body.info then
    let e := s.routeEntry p.die p.level r.cls
    if s.entryUsable e p.level then finish (s.toEntry e p.level r) (keyLevel p.level) else s.dropRec p.id
  else if p.level = 81 then finish (s.toStrand p.die 0 r) 0
  else
    let key := s.routeFrom p.die r p.level
    if key = 81 then finish (s.toStrand p.die 0 r) 0
    else finish (s.toEntry (s.routeEntry p.die key r.cls) key r) (keyLevel key)

/-- FAULT_DELIVERY (R338): a record that has not been tried. -/
def execFaultDelivery (id : Nat) (s : State) : Host.Outcome State Fault Refusal :=
  match s.faults.find? (fun f => f.id == id && !f.waiting) with
  | some p => .next (s.deliver p)
  | none => .next s

/-- PENDING_RECORD_DELIVERY (R338): a record that waits for room is tried again. -/
def execPendingRecordDelivery (id : Nat) (s : State) : Host.Outcome State Fault Refusal :=
  match s.faults.find? (fun f => f.id == id && f.waiting) with
  | some p => .next (s.deliver p)
  | none => .next s

end Sys2Proof.Machine
end

