-- ==== Sys2Proof/Machine/Link.lean ====
section
/-! DEFINITION. Link: what a port does with what arrives on it: sequence, acknowledgement, replay, credits, retraining
(R408-R411), held flits (R413), and the circuit slots of the outputs (R415). -/

namespace Sys2Proof.Machine

/-! ## Acknowledgement and credits -/

/-- An ACK frees the replay entries that it covers (R409). -/
def Port.acked (p : Port) (ack : BitVec 12) (now : Word) : Port :=
  match p.replay.findIdx? (fun f => f.seq == ack) with
  | some i => { p with replay := p.replay.drop (i + 1), progress := now }
  | none => p

/-- The credit fields of a flit, on its first acceptance (R411). -/
def Port.credit (p : Port) (fl : Flit) : Port :=
  (List.range fl.crinc.toNat).foldl (fun p _ => returnCredit p fl.domain.toNat fl.crch.toNat) p

/-- A flit's ACK and credit fields take effect, and what waits is sent. A credit for a channel that carries none is
counted in ERRS. -/
def State.applyFields (s : State) (p : Nat) (fl : Flit) : State :=
  let s := s.updPort p (fun x => x.acked fl.ack s.tsc)
  let s :=
    if fl.crinc = 0#6 then s
    else if credited fl.crch.toNat then s.updPort p (fun x => x.credit fl)
    else s.countErr p
  s.pump p

/-! ## Receiving -/

/-- A flit is discarded: the first of an episode is answered with a NAK. -/
def State.nak (s : State) (p : Nat) : State :=
  if (s.port p).nakOpen then s else (s.updPort p (fun x => { x with nakOpen := true })).sendLack p true

/-- A sequenced flit is accepted: its fields take effect, and it is acknowledged. -/
def State.accept (s : State) (p : Nat) (fl : Flit) : State :=
  ((s.updPort p (fun x => { x with rxSeq := x.rxSeq + 1#12, nakOpen := false })).applyFields p fl).sendLack p false

/-- A sequenced flit arrives: `go` is what becomes of it once it is accepted. A port that is not up takes nothing. -/
def sequenced (p : Nat) (fl : Flit) (s : State) (go : State → Host.Outcome State Fault Refusal) :
    Host.Outcome State Fault Refusal :=
  if s.portState p ≠ 2 then .next s
  else if fl.seq ≠ (s.port p).rxSeq then .next (s.nak p)
  else go (s.accept p fl)

/-- A flit has been forwarded or consumed: its buffer's credit is owed (R411). -/
def State.consumed (s : State) (p : Nat) (fl : Flit) : State :=
  if credited fl.vc.toNat && decide (p < 16) then
    let key := 8 * fl.domain.toNat + fl.vc.toNat
    s.updPort p (fun x => { x with owed := SMap.put zeroNat x.owed key (SMap.get zeroNat x.owed key + 1) })
  else s

/-- A best-effort flit arrives: one for another node goes on from this die, or is lost (R413). -/
def bestEffort (p : Nat) (fl : Flit) (s : State) (here : State → Host.Outcome State Fault Refusal) :
    Host.Outcome State Fault Refusal :=
  if 32 ≤ p then here s
  else sequenced p fl s (fun s =>
    if fl.dst.toNat = s.node (p / 4) then here s else .next ((s.sendFlit (p / 4) fl).consumed p fl))

/-- IDLE. -/
def execIdleFlit (port : Nat) (fl : Flit) (s : State) : Host.Outcome State Fault Refusal :=
  sequenced port fl s .next

/-- A flit of a reserved type is sequenced, counted and discarded (R408). -/
def execReservedFlit (port : Nat) (fl : Flit) (s : State) : Host.Outcome State Fault Refusal :=
  sequenced port fl s (fun s => .next ((s.countErr port).consumed port fl))

/-- A flit that is found bad is discarded (R406, R409); a CRC failure is counted. -/
def execFlitDiscard (port : Nat) (crcBad : Bool) (s : State) : Host.Outcome State Fault Refusal :=
  if s.portState port ≠ 2 then .next s
  else .next ((if crcBad then s.countErr port else s).nak port)

/-! ## Replay and retraining -/

/-- A port's training ends in a state: RETRAIN is clear again. -/
def State.endTraining (s : State) (p v : Nat) : State :=
  (s.setPortState p v).pmSetBits (p / 4) (portBlock p) 2 2 0

/-- Retraining starts; its time runs from now. -/
def State.retrain (s : State) (p : Nat) : State :=
  (s.setPortState p 1).updPort p (fun x => { x with progress := s.tsc, naks := 0 })

/-- A NAK: everything after its ACK goes out again; a SEQ that meets its 16th retrains the port. -/
def State.replayAll (s : State) (p : Nat) : State :=
  match (s.port p).replay with
  | [] => s
  | f :: _ =>
    let n := if (s.port p).naks ≠ 0 ∧ (s.port p).nakSeq = f.seq then (s.port p).naks + 1 else 1
    let s := (s.countReplay p).updPort p (fun x => { x with naks := n, nakSeq := f.seq })
    if 16 ≤ n then s.retrain p else s.updPort p (fun x => { x with out := x.out ++ x.replay })

/-- LACK (R408, R409). -/
def execLackFlit (port : Nat) (fl : Flit) (s : State) : Host.Outcome State Fault Refusal :=
  if s.portState port ≠ 2 then .next s
  else
    let s := s.updPort port (fun x => x.acked fl.ack s.tsc)
    .next ((if bit fl.h1 0 then s.replayAll port else s).pump port)

/-- ACK_PROGRESS_TIMEOUT (R409): 10 us with flits unacknowledged and no progress. -/
def execAckProgressTimeout (port : Nat) (s : State) : Host.Outcome State Fault Refusal :=
  let x := s.port port
  if s.portState port = 2 ∧ ¬x.replay.isEmpty ∧ 10000 ≤ (s.tsc - x.progress).toNat then .next (s.retrain port) else .next s

/-- RETRAIN_WRITE (R412). -/
def execRetrainWrite (port : Nat) (s : State) : Host.Outcome State Fault Refusal := .next (s.retrain port)

/-- RETRAIN_DONE (R409): the port is up, and replay resumes. -/
def execRetrainDone (port : Nat) (s : State) : Host.Outcome State Fault Refusal :=
  if 16 ≤ port ∨ s.portState port = 2 then .next s
  else
    .next (((s.endTraining port 2).updPort port (fun x =>
      { x with out := x.out ++ x.replay, progress := s.tsc, nakOpen := false })).pump port)

/-! ## Loss of a port -/

/-- Circuits whose path uses a port: those of its egress table and those that any output of its die takes from it. -/
def State.portCircuits (s : State) (p : Nat) : List Nat :=
  (slotTables.flatMap (fun t => (List.range 256).filterMap (fun i =>
    let e := s.slotEntry (p / 4) t i
    if slotV e && (t == p % 4 || slotIn e == p % 4) then some (slotCirc e) else none))).eraseDups

/-- A request goes out again on its TAG (R428). -/
def State.resend (s : State) (r : RemoteReq) : State :=
  let f := fun (x : RemoteReq) => { x with last := s.tsc, resent := true, full := false }
  { s with remote := updateWhere (fun x => x.tag == r.tag) f s.remote }.sendFlit r.die r.fl

/-- A request may still be resent: 100 us have not passed since its first send. -/
def State.mayResend (s : State) (r : RemoteReq) : Bool := decide ((s.tsc - r.first).toNat ≤ 100000)

/-- A port goes down: its replay buffer and the flits in its receive buffers are lost, its circuits too, and its credits are
at their initial values when it next comes up; flits that wait to be sent, and requests whose route fails over, take the
other port. -/
def State.portDown (s : State) (p : Nat) : State :=
  let moved := s.remote.filter (fun r => s.mayResend r && s.route r.die r.fl.dst.toNat == some p)
  let queue := (s.port p).queue
  let lost := s.portCircuits p
  let s := (s.endTraining p 0).updPort p (fun x => { Port.reset with out := x.out })
  let s := s.updDie (p / 4) (fun d => { d with rows := d.rows.filter (fun r => r.2.1 != p % 4) })
  let keep := fun (i : Input) => match i with
    | .flit q _ => q != p + 16
    | _ => true
  let s := { s with stalled := s.stalled.filter keep }
  let s := lost.foldl (fun s c => s.loseCircuit (BitVec.ofNat 16 c)) s
  let s := queue.foldl (fun s e => s.sendFlit (p / 4) e.2) s
  moved.foldl (fun s r => s.resend r) s

/-- RETRAIN_TIMEOUT (R409): 1 ms of retraining without success. -/
def execRetrainTimeout (port : Nat) (s : State) : Host.Outcome State Fault Refusal :=
  if s.portState port = 1 ∧ 1000000 ≤ (s.tsc - (s.port port).progress).toNat then .next (s.portDown port) else .next s

/-! ## Credits and held flits -/

/-- CREDIT_RETURN_TIMEOUT (R411): an IDLE flit returns credits that no other flit has carried. -/
def execCreditReturnTimeout (port : Nat) (s : State) : Host.Outcome State Fault Refusal :=
  match (s.port port).owed with
  | [] => .next s
  | e :: _ =>
    if s.portState port ≠ 2 ∨ 512 ≤ (s.port port).replay.length then .next s
    else
      .next (s.updPort port (fun x =>
        { transmit x (mkFlit 0 0 (e.1 / 8) (s.node (port / 4)) 0 0#64 []) with
          progress := if x.replay.isEmpty then s.tsc else x.progress }))

/-- A request or a reply (R408). -/
def isAsk (fl : Flit) : Bool := decide (3 ≤ fl.ty.toNat) && decide (fl.ty.toNat ≤ 10)

/-- FLIT_HOLD_TIMEOUT (R413): requests and replies held for 10 us are discarded. -/
def execFlitHoldTimeout (held : Nat) (s : State) : Host.Outcome State Fault Refusal :=
  .next (s.updPort held (fun x => { x with
    queue := x.queue.filter (fun e => !(isAsk e.2 && decide (10000 ≤ (s.tsc - e.1).toNat))) }))

/-! ## Circuits -/

/-- ROW (R415): the row goes to the output that serves its circuit. -/
def execRowFlit (port : Nat) (fl : Flit) (s : State) : Host.Outcome State Fault Refusal :=
  sequenced port fl s (fun s => .next (s.routeRow (port / 4) (port % 4) fl))

/-- The input by which a die takes rows from another (R414). -/
def dieInput (die from_ : Nat) : Nat := 3 + (from_ + 4 - die) % 4

/-- An output takes a row now; a port that is not up, or whose replay buffer is full, takes none (R409). -/
def State.takesRow (s : State) (die table : Nat) : Bool :=
  decide (4 ≤ table) || s.portState (4 * die + table) == 2 && decide ((s.port (4 * die + table)).replay.length < 512)

/-- A row leaves by an output. -/
def State.rowOut (s : State) (die table slice : Nat) (fl : Flit) : State :=
  if table < 4 then
    let s := if fl.src.toNat = s.node die then s.charge slice .linkFlit 1 else s
    s.updPort (4 * die + table) (fun x => { transmit x fl with progress := if x.replay.isEmpty then s.tsc else x.progress })
  else if table < 8 then
    let other := (die + table - 3) % 4
    s.routeRow other (dieInput other die) fl
  else s.ejectRow (8 * die + (table - 8)) fl

/-- Rows that have waited for more than one frame are discarded. -/
def State.dropOldRows (s : State) (die : Nat) : State :=
  let old := fun (r : Nat × Nat × Word × Flit) => decide (320 < (s.tsc - r.2.2.1).toNat)
  let gone := (s.die die).rows.filter old
  let s := s.updDie die (fun d => { d with rows := d.rows.filter (fun r => !old r) })
  gone.foldl (fun s r => s.loseCircuit (BitVec.ofNat 16 (bits r.2.2.2.h1 63 48))) s

/-- CIRCUIT_SLOT (R415): an output's slot sends the oldest held row of its circuit and input. A row that its output cannot take
now stays for the circuit's next slot. -/
def execCircuitSlot (die table slot : Nat) (s : State) : Host.Outcome State Fault Refusal :=
  let s := s.dropOldRows die
  let e := s.slotEntry die table slot
  let mine := fun (r : Nat × Nat × Word × Flit) =>
    r.1 == table && r.2.1 == slotIn e && bits r.2.2.2.h1 63 48 == slotCirc e
  match (s.die die).rows.find? mine with
  | some r =>
    if slotV e && s.takesRow die table then
      .next ((s.updDie die (fun d => { d with rows := d.rows.eraseP mine })).rowOut die table (slotSlice e) r.2.2.2)
    else .next s
  | none => .next s

/-! ## Reports -/

/-- CQCRED (R418). -/
def execCqcredFlit (port : Nat) (fl : Flit) (s : State) : Host.Outcome State Fault Refusal :=
  bestEffort port fl s (fun s => .next ((s.report fl).consumed port fl))

/-- CQCLOSE (R421). -/
def execCqcloseFlit (port : Nat) (fl : Flit) (s : State) : Host.Outcome State Fault Refusal :=
  bestEffort port fl s (fun s => .next ((s.report fl).consumed port fl))

end Sys2Proof.Machine
end

