-- ==== Sys2Proof/Machine/Fabric.lean ====
section
/-! DEFINITION. Fabric: requests of other parts (R427, R429, R436) and the replies to this part's own (R426, R428-R430).
A request that has been accepted and must wait stands in `stalled` under port + 16 (log entry 22). -/

namespace Sys2Proof.Machine

/-! ## Answers -/

/-- A reply to a request goes out on the die whose port brought it (R408, R427). `low` gives h1's bits below the TAG
and beside the epoch. -/
def State.answer (s : State) (port : Nat) (fl : Flit) (ty low : Nat) (payload : BitVec 2048) : State :=
  let r := mkFlit ty 1 fl.domain.toNat (s.node (portDie port)) fl.src.toNat
    (word (bits fl.h1 63 48 * 2 ^ 48 + s.epoch.toNat * 2 ^ 16 + low)) []
  s.sendFlit (portDie port) { r with payload := payload }

/-- A NACK. -/
def State.nackAsk (s : State) (port : Nat) (fl : Flit) (status : Nat) : State :=
  (s.answer port fl 10 (status * 2 ^ 40) 0#2048).consumed port fl

/-- The stored answers of a source node that are still held (R429). -/
def State.dupsOf (s : State) (node : Nat) : List DupEntry :=
  s.dups.filter (fun e => e.node == node && decide ((s.tsc - e.at_).toNat < 200000))

/-- An atomic has been applied: its reply goes out and is kept for 200 us (R429). -/
def State.answerAtomic (s : State) (port : Nat) (fl : Flit) (old : Nat) (pois : Bool) : State :=
  let reply := mkFlit 9 1 fl.domain.toNat (s.node (portDie port)) fl.src.toNat
    (word (bits fl.h1 63 48 * 2 ^ 48 + flagNat pois * 2 ^ 32 + s.epoch.toNat * 2 ^ 16)) (bytesOfNat 8 old)
  let e : DupEntry := { node := fl.src.toNat, tag := bits fl.h1 63 48, reply := reply, at_ := s.tsc }
  { s with dups := s.dups ++ [e] }.sendFlit (portDie port) reply

/-! ## Fields of requests (R408) -/

def askTag (fl : Flit) : Nat := bits fl.h1 63 48
def askGrant (fl : Flit) : Nat := bits fl.h1 41 32
def askOffset (fl : Flit) : Nat := bits fl.h1 31 0

/-- Lines named by LMASK, relative to the 256-byte block. -/
def askLines (fl : Flit) : List Nat := (List.range 4).filter (fun i => bit fl.h1 (42 + i))

/-- The byte mask of a WRITEP. -/
def askMask (fl : Flit) : BitVec 64 := BitVec.ofNat 64 (flitField fl 64 8)

/-- The operation of an ATOMIC; none when its op, size or address is not one that R408 gives. -/
def askAtom (fl : Flit) : Option HomeAtom :=
  let n := flitField fl 17 1
  match atomOfCode (flitField fl 16 1) with
  | none => none
  | some op =>
    if (n = 4 ∨ n = 8) ∧ askOffset fl % n = 0 ∧ (op = .fadd → n = 4) then
      some { op := op, bytes := n, off := 0, v := flitField fl 0 n, cmp := flitField fl 8 n, sem := 0, scope := 0 }
    else none

/-- Bytes from the request's offset to the end of what it touches (R427). -/
def askSize (fl : Flit) : Nat :=
  match fl.ty.toNat with
  | 5 => (maskBytes (askMask fl)).foldl (fun n i => Nat.max n (i + 1)) 0
  | 6 => flitField fl 17 1
  | _ => (askLines fl).foldl (fun n i => Nat.max n (64 * (i + 1))) 0

/-! ## Grants (R427) -/

/-- The domain that serves a grant number: the lowest one whose span holds it. -/
def State.grantDomain (s : State) (die g : Nat) : Option Nat :=
  (List.range 16).find? (fun d =>
    let w := s.pmWord die (0x3A400 + 32 * d + 8)
    decide (bits w 31 22 ≤ g) && decide (g < bits w 31 22 + bits w 21 11))

/-- The layout of a grant entry of a domain. -/
def State.grantWf (s : State) (die d : Nat) (w0 w1 w2 w3 : Word) : Bool :=
  bit w0 63 && bits w0 59 58 == 0 && bits w0 5 0 == 0 && s.sliceDomain die (bits w0 57 52) == d && s.sliceV die (bits w0 57 52) &&
  bits w1 63 33 == 0 && decide (1 ≤ bits w1 32 0) && decide (bits w1 32 0 ≤ 2 ^ 32) && bits w2 62 12 == 0 && w3 == 0#64

/-- A request's source is allowed. -/
def grantSource (w2 : Word) (fl : Flit) : Bool :=
  bit w2 63 || (!fl.oper && bits w2 11 8 == fl.domain.toNat && bits w2 7 0 == fl.src.toNat)

/-- What a grant gives: domain, slice and the SPA that the request names; or the status of its refusal. -/
structure Grant where
  domain : Nat
  slice  : Nat
  spa    : Nat

/-- The kind bit of an entry. -/
def kindBit (kind : AccessKind) : Nat :=
  match kind with
  | .read => 62
  | .write => 61
  | .atomic => 60

/-- The grant of a request. -/
def State.grantOf (s : State) (die : Nat) (fl : Flit) (kind : AccessKind) : Except (Nat × Option Nat) Grant :=
  match s.grantDomain die (askGrant fl) with
  | none => .error (2, none)
  | some d =>
    let b := s.pmWord die (0x3A400 + 32 * d)
    let i := askGrant fl - bits (s.pmWord die (0x3A400 + 32 * d + 8)) 31 22
    let at_ := bits b 51 12 * 4096 + 32 * i
    if bits b 10 0 ≤ i ∨ apertureOf at_ ≠ .hbm ∨ s.linePois at_ then .error (2, none)
    else
      let w := fun k => s.wordAt false (at_ + 8 * k)
      let slice := bits (w 0) 57 52
      if s.grantWf die d (w 0) (w 1) (w 2) (w 3) = false ∨ grantSource (w 2) fl = false then .error (2, none)
      else if s.migState slice = 1 then .error (2, some slice)
      else if bit (w 0) (kindBit kind) = false then .error (3, none)
      else if bits (w 1) 32 0 < askOffset fl + askSize fl then .error (4, none)
      else .ok { domain := d, slice := slice, spa := bits (w 0) 51 0 + askOffset fl }

/-! ## Where the lines of a request lie -/

/-- Translation of the lines of a request: each with its number in the request. -/
inductive Lines where
  | ok (s : State) (xs : List (Nat × Xlate))
  | fault
  | page (s : State)

def State.linesThrough (s : State) (w : Who) (spa n : Nat) (kind : AccessKind) (is : List Nat) : Lines :=
  match is with
  | [] => .ok s []
  | i :: is =>
    match s.through2 w (spa + 64 * i) n kind with
    | .fault _ _ _ => .fault
    | .page s _ => .page s
    | .ok s x =>
      match s.linesThrough w spa n kind is with
      | .ok s xs => .ok s ((i, x) :: xs)
      | r => r

/-- A request waits: it keeps its buffer, and is tried again when what it waits for may be over. -/
def State.holdAsk (s : State) (port : Nat) (fl : Flit) : State := { s with stalled := s.stalled ++ [.flit (port + 16) fl] }

/-- The checks of a request: grant, then stage 2 and the windows of the grant's domain. -/
def withGrant (s : State) (port : Nat) (fl : Flit) (kind : AccessKind) (n : Nat) (is : List Nat)
    (go : State → Grant → List (Nat × Xlate) → Host.Outcome State Fault Refusal) : Host.Outcome State Fault Refusal :=
  let die := portDie port
  match s.grantOf die fl kind with
  | .error (st, slice) => .next (((slice.map s.countDrop).getD s).nackAsk port fl st)
  | .ok g =>
    let w : Who := { die := die, cluster := 32 + die, slice := g.slice, domain := g.domain, plain := false }
    match s.linesThrough w g.spa n kind is with
    | .fault => .next (s.nackAsk port fl 5)
    | .page s => .next (s.holdAsk port fl)
    | .ok s xs =>
      if kind ≠ .write ∧ xs.any (fun x => apertureOf x.2.dpa == .hbm && !x.2.memSide && s.pendingLine none (x.2.dpa / 64)) then
        .next (s.holdAsk port fl)
      else if xs.any (fun x => apertureOf x.2.dpa == .mmio) then .refused .mmioLayout
      else go s g xs

/-! ## WATCH_REMOTE (R381, R382, R466) -/

/-- A remote access that hits an engine entry is reported; a die keeps 256 such records. -/
def State.watchAsk (s : State) (slice : Nat) (fl : Flit) (kind : AccessKind) (touched : List (Nat × BitVec 64)) : State :=
  let hits := touched.filterMap (fun t => (s.engineHit slice t.1 t.2 kind).map (fun h => (t.1, h.1, h.2)))
  let first := hits.foldl (fun (m : Option (Nat × Nat × BitVec 16)) h => match m with
    | none => some h
    | some x => if h.2.1 < x.2.1 then some h else some x) none
  match first with
  | none => s
  | some h =>
    let die := homeDie (64 * h.1)
    let full := decide (256 ≤ (s.faults.filter (fun f => f.die == die && f.body.code == BitVec.ofNat 16 codeWatchRemote)).length)
    if full then s.updDie die (fun d => { d with watchLost := true })
    else
      let base := bits (s.pmWord die (0x3BF00 + 16 * h.2.1)) 51 0 * 16
      s.postUnit codeWatchRemote false (some 0#24) (some 0#64) (some (watchAddr base 0 h.2))
        (some (watchHigh h.2 ||| word (askTag fl * 2 ^ 16 + fl.src.toNat))) 0#16 (some (slice, s.sliceDomain die slice)) slice die

/-! ## A request in progress

While lines of a request are with the host or another part, its flit stands in their requester: `payload` holds the bytes
that have come and `crinc` marks the poisoned lines. -/

/-- A request with nothing gathered yet. -/
def begunFlit (fl : Flit) : Flit := { fl with payload := 0#2048, crinc := 0#6 }

/-- Bytes of line i have come. -/
def gatherFlit (fl : Flit) (i : Nat) (bs : List Byte) (p : Bool) : Flit :=
  { fl with
    payload := fl.payload ||| (BitVec.ofNat 2048 (natOfBytes bs) <<< (512 * i))
    crinc := if p then fl.crinc ||| (1#6 <<< i) else fl.crinc }

/-- The requester of a request's lines. -/
def isAsker (port : Nat) (fl : Flit) (w : Requester) : Bool := w == .remote port fl

/-- Something of a request is still out. -/
def State.askOut (s : State) (port : Nat) (fl : Flit) : Bool :=
  s.remote.any (fun r => isAsker port fl r.who) || s.hostReqs.any (fun r => isAsker port fl r.who) ||
    s.proxies.any (fun r => isAsker port fl r.who)

/-- What is out for a request is forgotten. -/
def State.dropAsk (s : State) (port : Nat) (fl : Flit) : State :=
  { s with
    remote := s.remote.filter (fun r => !isAsker port fl r.who)
    hostReqs := s.hostReqs.filter (fun r => !isAsker port fl r.who) }

/-- A request has been performed: its reply goes out. -/
def State.finishAsk (s : State) (port : Nat) (fl : Flit) : State :=
  let s :=
    match fl.ty.toNat with
    | 3 => s.answer port fl 7 (fl.crinc.toNat % 16 * 2 ^ 32) fl.payload
    | 6 => s.answerAtomic port fl (flitField fl 0 8) (fl.crinc.getLsbD 0)
    | _ => s.answer port fl 8 0 0#2048
  s.consumed port fl

/-- A line that was out has come back. -/
def State.partDone (s : State) (port : Nat) (fl : Flit) (i : Nat) (bs : List Byte) (p : Bool) : State :=
  let fl' := gatherFlit fl i bs p
  let swap := fun (w : Requester) => if w = .remote port fl then .remote port fl' else w
  let s : State := { s with
    remote := s.remote.map (fun r => { r with who := swap r.who })
    hostReqs := s.hostReqs.map (fun r => { r with who := swap r.who }) }
  if s.askOut port fl' then s else s.finishAsk port fl'

/-- A line that was out has failed (status 8). -/
def State.partFailed (s : State) (port : Nat) (fl : Flit) : State := (s.dropAsk port fl).nackAsk port fl 8

/-- Lines that go to the host or another part set out, all or none. -/
def State.partsOut (s : State) (send : State → Nat × Xlate → Option State) (xs : List (Nat × Xlate)) : Option State :=
  match xs with
  | [] => some s
  | x :: xs =>
    match send s x with
    | none => none
    | some s => s.partsOut send xs

/-- The end of a request's first pass: what is not in HBM sets out, or the request is answered. -/
def State.settleAsk (s : State) (port : Nat) (orig fl : Flit) (xs : List (Nat × Xlate))
    (send : State → Nat × Xlate → Option State) : State :=
  match s.partsOut send (xs.filter (fun x => apertureOf x.2.dpa != .hbm)) with
  | none => (s.dropAsk port fl).nackAsk port orig 8
  | some s => if s.askOut port fl then s else s.finishAsk port fl

/-- A line's part of a request to another part: TAG, LMASK and address. -/
def State.askOn (s : State) (port : Nat) (fl : Flit) (domain ty : Nat) (h1 : Nat → Word) (payload : BitVec 2048)
    (dpa off len i : Nat) : Option State :=
  let mk := fun tag => { mkFlit ty 0 domain (s.node (portDie port)) (fabricNode dpa) (h1 tag) [] with payload := payload }
  match s.sendTagged (portDie port) (.remote port fl) (fabricNode dpa) mk off len (word i) with
  | .sent s _ => some s
  | _ => none

/-- A request that is served now: one that arrives, or one that waited. -/
def asked (port : Nat) (fl : Flit) (s : State) (serve : Nat → State → Host.Outcome State Fault Refusal) :
    Host.Outcome State Fault Refusal :=
  if port / 16 % 2 = 1 then serve (port - 16) s else bestEffort port fl s (serve port)

/-! ## READ -/

/-- A line of a READ that lies in HBM is read. -/
def readPart (s : State × Flit) (x : Nat × Xlate) : State × Flit :=
  if apertureOf x.2.dpa ≠ .hbm then s
  else
    let t := if x.2.memSide then s.1 else s.1.touch (x.2.dpa / 64) evictNormal false
    (t, gatherFlit s.2 x.1 (t.viewBytes none x.2.memSide x.2.dpa 64) (t.viewPois none x.2.memSide x.2.dpa 64))

/-- A line of a READ that lies elsewhere is asked for. -/
def readOut (port : Nat) (fl : Flit) (domain : Nat) (s : State) (x : Nat × Xlate) : Option State :=
  let dpa := x.2.dpa
  if apertureOf dpa = .fabric then
    let a := fabricAddr dpa
    s.askOn port fl domain 3 (fun tag => lineHead tag (2 ^ (a / 64 % 4)) a) 0#2048 dpa (a % 256) 64 x.1
  else
    (s.hostWindow (hostAddr dpa) 64).map (fun win =>
      (s.hostRead (.remote port fl) (word x.1) (hostAddr dpa) 64 win.2).1)

def serveRead (fl : Flit) (port : Nat) (s : State) : Host.Outcome State Fault Refusal :=
  withGrant s port fl .read 64 (askLines fl) (fun s g xs =>
    let r := xs.foldl readPart (s, (begunFlit fl))
    let t := r.1.settleAsk port fl r.2 xs (readOut port r.2 g.domain)
    .next (t.watchAsk g.slice fl .read ((xs.filter (fun x => apertureOf x.2.dpa == .hbm)).map (fun x => (x.2.dpa / 64, -1#64)))))

/-- READ. -/
def execReadFlit (port : Nat) (fl : Flit) (s : State) : Host.Outcome State Fault Refusal := asked port fl s (serveRead fl)

/-! ## WRITE and WRITEP -/

/-- The bytes that line i of a write carries. -/
def askData (fl : Flit) (i : Nat) : BitVec 512 := fl.payload.extractLsb' (512 * i) 512

/-- A line of a write that lies in HBM is written, outside any launch (R291). -/
def writePart (fl : Flit) (mask : BitVec 64) (s : State) (x : Nat × Xlate) : State :=
  if apertureOf x.2.dpa ≠ .hbm then s
  else if x.2.memSide then s.writeSide (x.2.dpa / 64) (askData fl x.1) mask none
  else s.writeDirect (x.2.dpa / 64) (askData fl x.1) mask evictNormal noCopy none

/-- A line of a write that lies elsewhere: posted to the host, or sent to another part. -/
def writeOut (port : Nat) (orig fl : Flit) (mask : BitVec 64) (domain : Nat) (s : State) (x : Nat × Xlate) : Option State :=
  let dpa := x.2.dpa
  if apertureOf dpa = .fabric then
    let data := bytesOfNat 64 (askData orig x.1).toNat ++ bytesOfNat 8 mask.toNat
    s.askOn port fl domain 5 (fun tag => word (tag * 2 ^ 48 + fabricAddr dpa / 64 * 64)) (BitVec.ofNat 2048 (natOfBytes data))
      dpa 0 0 x.1
  else
    (runsOf (maskBytes mask)).foldl (fun (s : Option State) r => s.bind (fun s =>
      (s.hostWindow (hostAddr dpa + r.1) r.2).map (fun win =>
        s.hostWrite win.2 (hostAddr dpa + r.1) ((bytesOfNat 64 (askData orig x.1).toNat).drop r.1 |>.take r.2)))) (some s)

/-- Writes of whole lines, or of the masked bytes of one. -/
def serveWrite (fl : Flit) (is : List Nat) (mask : BitVec 64) (port : Nat) (s : State) : Host.Outcome State Fault Refusal :=
  withGrant s port fl .write 64 is (fun s g xs =>
    let s := xs.foldl (writePart fl mask) s
    let t := s.settleAsk port fl (begunFlit fl) xs (writeOut port fl (begunFlit fl) mask g.domain)
    .next (t.watchAsk g.slice fl .write ((xs.filter (fun x => apertureOf x.2.dpa == .hbm)).map (fun x => (x.2.dpa / 64, mask)))))

/-- WRITE. -/
def execWriteFlit (port : Nat) (fl : Flit) (s : State) : Host.Outcome State Fault Refusal :=
  asked port fl s (serveWrite fl (askLines fl) (-1#64))

/-- WRITEP. -/
def execWritepFlit (port : Nat) (fl : Flit) (s : State) : Host.Outcome State Fault Refusal :=
  asked port fl s (serveWrite fl [0] (askMask fl))

/-! ## ATOMIC -/

/-- The same atomic is already in progress here. -/
def State.atomInside (s : State) (fl : Flit) : Bool :=
  let same := fun (f : Flit) => f.ty == 6#6 && f.src == fl.src && askTag f == askTag fl
  let who := fun (w : Requester) => match w with
    | .remote _ f => same f
    | _ => false
  s.remote.any (fun r => who r.who) || s.hostReqs.any (fun r => who r.who) || s.proxies.any (fun r => who r.who) ||
    s.stalled.any (fun i => match i with
      | .flit _ f => same f
      | _ => false)

/-- An atomic on HBM: the new value is written at once. -/
def atomPart (s : State) (port : Nat) (fl : Flit) (a : HomeAtom) (x : Xlate) : State :=
  let old := s.atomOld none x.memSide x.dpa a.bytes
  let pois := s.viewPois none x.memSide x.dpa a.bytes
  let new := (atomNew a.op a.bytes old a.v a.cmp).1
  let data := lineData (x.dpa % 64) (bytesOfNat a.bytes new)
  let mask := lineMask (x.dpa % 64) a.bytes
  let s :=
    if x.memSide then s.writeSide (x.dpa / 64) data mask none
    else s.writeDirect (x.dpa / 64) data mask evictNormal noCopy none
  s.finishAsk port (gatherFlit (begunFlit fl) 0 (bytesOfNat a.bytes old) pois)

/-- An atomic on the HOST aperture (R438). -/
def atomHostOut (s : State) (port : Nat) (fl : Flit) (a : HomeAtom) (x : Xlate) : Option State :=
  let addr := hostAddr x.dpa
  match s.hostWindow addr a.bytes with
  | none => none
  | some win =>
    let r := newHostReq s (.remote port fl) 0#64 addr a.bytes a.op.code (word a.v) (word a.cmp) win.1 win.2
    if carried a.op then some (s.hostAtomicOp r) else if win.1 then some (s.proxy r) else none

/-- An atomic that its grant lets through. -/
def serveAtomic (fl : Flit) (a : HomeAtom) (port : Nat) (s : State) : Host.Outcome State Fault Refusal :=
  withGrant s port fl .atomic a.bytes [0] (fun s g xs =>
    match xs with
    | [] => .next s
    | x :: _ =>
      match apertureOf x.2.dpa with
      | .hbm =>
        .next ((atomPart s port fl a x.2).watchAsk g.slice fl .atomic
          [(x.2.dpa / 64, lineMask (x.2.dpa % 64) a.bytes)])
      | .fabric =>
        let pay := BitVec.ofNat 2048 (natOfBytes (s.atomPayload (fabricNode x.2.dpa) a))
        .next ((s.askOn port (begunFlit fl) g.domain 6 (fun tag => word (tag * 2 ^ 48 + fabricAddr x.2.dpa)) pay x.2.dpa 0 a.bytes
          0).getD (s.nackAsk port fl 8))
      | _ => .next ((atomHostOut s port (begunFlit fl) a x.2).getD (s.nackAsk port fl 8)))

/-- The order of an ATOMIC's checks (R429): a stored reply, the epoch, the grant and what follows it, room in the source's
table (log entry 23). -/
def serveAtom (fl : Flit) (port : Nat) (s : State) : Host.Outcome State Fault Refusal :=
  let mine := s.dupsOf fl.src.toNat
  match mine.find? (fun e => e.tag == askTag fl) with
  | some e => .next ((s.sendFlit (portDie port) e.reply).consumed port fl)
  | none =>
    if flitField fl 18 2 ≠ s.epoch.toNat then .next (s.nackAsk port fl 6)
    else if s.atomInside fl then .next (s.consumed port fl)
    else
      match askAtom fl with
      | none => .next (s.nackAsk port fl 8)
      | some a => if 1024 ≤ mine.length then .next (s.nackAsk port fl 7) else serveAtomic fl a port s

/-- ATOMIC. -/
def execAtomicFlit (port : Nat) (fl : Flit) (s : State) : Host.Outcome State Fault Refusal := asked port fl s (serveAtom fl)

/-- DUPLICATE_ENTRY_EXPIRY (R429). -/
def execDuplicateEntryExpiry (node tag : Nat) (s : State) : Host.Outcome State Fault Refusal :=
  .next { s with dups := s.dups.filter (fun e =>
    !(e.node == node && e.tag == tag && decide (200000 ≤ (s.tsc - e.at_).toNat))) }

/-! ## Replies to requests of this part -/

/-- A thread's word ends in a precise fault that a reply brings. A VATOM ends there, with its lane in FPROG (R179, R430). -/
def State.failWord (s : State) (th : ThreadId) (code : Nat) (faddr prog : Word) : State :=
  match th with
  | .coach q 9 =>
    match s.coach? q with
    | some c =>
      if c.vatomTile.isSome then (s.endLanes q).faultWaiter th code faddr (setBits prog 9 0 c.resume.toNat)
      else s.faultWaiter th code faddr prog
    | none => s
  | _ => s.faultWaiter th code faddr prog

/-- A request has failed. -/
def State.failAsker (s : State) (who : Requester) (code : Nat) (tva prog : Word) : State :=
  match who with
  | .thread th => s.failWord th code tva prog
  | .store th _ _ => s.storeFault th code tva prog
  | .flush _ => s
  | .beat quad seq num => s.beatFailed quad seq num code tva
  | .remote port fl => s.partFailed port fl

/-- Bytes have come for a request. -/
def State.giveAsker (s : State) (who : Requester) (tva : Word) (bs : List Byte) (p : Bool) : State :=
  match who with
  | .thread th => s.giveReply th bs p
  | .store _ _ _ => s
  | .flush _ => s
  | .beat quad seq num => if bs.isEmpty then s else s.beatData quad seq num tva.toNat bs p
  | .remote port fl => s.partDone port fl tva.toNat bs p

/-- A request is answered or given up. -/
def State.dropRemote (s : State) (tag : Nat) : State := { s with remote := s.remote.filter (fun r => r.tag != tag) }

/-- A reply meets its request, by TAG and node; the node's epoch is noted (R429). -/
def replied (port : Nat) (fl : Flit) (fits : RemoteReq → Bool) (s : State) (go : State → RemoteReq → State) :
    Host.Outcome State Fault Refusal :=
  bestEffort port fl s (fun s =>
    let s := { s with known := SMap.put (fun _ => 0#16) s.known fl.src.toNat (BitVec.ofNat 16 (bits fl.h1 31 16)) }.consumed port fl
    match s.remote.find? (fun r => r.tag == askTag fl && r.fl.dst == fl.src && fits r) with
    | none => .next s
    | some r => .next (go s r))

/-- READRSP: line i of the request lies at 64i (log entry 24). -/
def execReadrspFlit (port : Nat) (fl : Flit) (s : State) : Host.Outcome State Fault Refusal :=
  replied port fl (fun r => r.fl.ty == 3#6) s (fun s r =>
    let pois := (List.range 4).any (fun i =>
      bit fl.h1 (32 + i) && decide (r.off < 64 * i + 64) && decide (64 * i < r.off + r.len))
    (s.dropRemote r.tag).giveAsker r.who r.tva (flitBytes fl r.off r.len) pois)

/-- WRACK. -/
def execWrackFlit (port : Nat) (fl : Flit) (s : State) : Host.Outcome State Fault Refusal :=
  replied port fl (fun r => r.fl.ty == 4#6 || r.fl.ty == 5#6) s (fun s r => (s.dropRemote r.tag).giveAsker r.who r.tva [] false)

/-- ATOMRSP. -/
def execAtomrspFlit (port : Nat) (fl : Flit) (s : State) : Host.Outcome State Fault Refusal :=
  replied port fl (fun r => r.fl.ty == 6#6) s (fun s r =>
    (s.dropRemote r.tag).giveAsker r.who r.tva (flitBytes fl 0 r.len) (bit fl.h1 32))

/-- An atomic with a new epoch in its payload. -/
def withEpoch (fl : Flit) (e : BitVec 16) : Flit :=
  { fl with payload := fl.payload &&& ~~~ (0xFFFF#2048 <<< 144) ||| (e.setWidth 2048 <<< 144) }

/-- An atomic on its first send met another epoch: it is sent afresh on a new TAG (R429). -/
def State.sendAfresh (s : State) (r : RemoteReq) : State :=
  let fl := withEpoch r.fl (s.epochOf r.fl.dst.toNat)
  let mk := fun tag => { fl with h1 := word (tag * 2 ^ 48 + bits fl.h1 47 0) }
  let t := s.dropRemote r.tag
  match t.sendTagged r.die r.who r.fl.dst.toNat mk r.off r.len r.tva with
  | .sent t _ => t
  | .noRoute => t.failAsker r.who codeLinkDown r.tva 0#64
  | .noTag =>
    let f := fun (x : RemoteReq) => { x with fl := fl, full := true, last := s.tsc }
    { s with remote := updateWhere (fun x => x.tag == r.tag) f s.remote }

/-- The fault of an unanswered request. -/
def lostCode (r : RemoteReq) : Nat := if r.fl.ty = 6#6 then codeIndeterminate else codeLinkDown

/-- NACK (R427, R429, R430). -/
def execNackFlit (port : Nat) (fl : Flit) (s : State) : Host.Outcome State Fault Refusal :=
  replied port fl (fun _ => true) s (fun s r =>
    let status := bits fl.h1 47 40
    if status = 7 then
      let f := fun (x : RemoteReq) => { x with full := true, last := s.tsc }
      { s with remote := updateWhere (fun x => x.tag == r.tag) f s.remote }
    else if status = 6 ∧ r.fl.ty = 6#6 then
      if r.resent then (s.dropRemote r.tag).failAsker r.who codeIndeterminate r.tva 0#64 else s.sendAfresh r
    else (s.dropRemote r.tag).failAsker r.who codeRemoteNack r.tva (word (status * 2 ^ 40)))

/-! ## Resends (R428, R429) -/

/-- An outstanding request. -/
def State.remoteReq (s : State) (tag : Nat) : Option RemoteReq := s.remote.find? (fun r => r.tag == tag)

/-- REQUEST_RESEND: 20 us without a reply, and 100 us not yet passed. -/
def execRequestResend (tag : Nat) (s : State) : Host.Outcome State Fault Refusal :=
  match s.remoteReq tag with
  | some r => if 20000 ≤ (s.tsc - r.last).toNat ∧ s.mayResend r then .next (s.resend r) else .next s
  | none => .next s

/-- DUPLICATE_FULL_RESEND: 1 us after a status 7. -/
def execDuplicateFullResend (tag : Nat) (s : State) : Host.Outcome State Fault Refusal :=
  match s.remoteReq tag with
  | some r => if r.full ∧ 1000 ≤ (s.tsc - r.last).toNat ∧ s.mayResend r then .next (s.resend r) else .next s
  | none => .next s

/-- REMOTE_GIVE_UP: no reply 260 us after the first send. -/
def execRemoteGiveUp (tag : Nat) (s : State) : Host.Outcome State Fault Refusal :=
  match s.remoteReq tag with
  | some r =>
    if 260000 ≤ (s.tsc - r.first).toNat then .next ((s.dropRemote tag).failAsker r.who (lostCode r) r.tva 0#64) else .next s
  | none => .next s

end Sys2Proof.Machine
end

