-- ==== Sys2Proof/Machine/Flow.lean ====
section
/-! DEFINITION. Flow: branches, jumps, hardware loops, the end of a stream and strands (R106-R109, R120). -/

namespace Sys2Proof.Machine

/-! ## Branches and jumps (R106) -/

/-- B.EQ. -/
def execBEq (k : Tok) (a b : BitVec 4) (o : BitVec 13) (s : State) : Host.Outcome State Fault Refusal :=
  branchForm (.bEq k a b o) k a b o .eq s

/-- B.NE. -/
def execBNe (k : Tok) (a b : BitVec 4) (o : BitVec 13) (s : State) : Host.Outcome State Fault Refusal :=
  branchForm (.bNe k a b o) k a b o .ne s

/-- B.LT, signed. -/
def execBLt (k : Tok) (a b : BitVec 4) (o : BitVec 13) (s : State) : Host.Outcome State Fault Refusal :=
  branchForm (.bLt k a b o) k a b o .lt s

/-- B.GE, signed. -/
def execBGe (k : Tok) (a b : BitVec 4) (o : BitVec 13) (s : State) : Host.Outcome State Fault Refusal :=
  branchForm (.bGe k a b o) k a b o .ge s

/-- B.LTU. -/
def execBLtu (k : Tok) (a b : BitVec 4) (o : BitVec 13) (s : State) : Host.Outcome State Fault Refusal :=
  branchForm (.bLtu k a b o) k a b o .ltu s

/-- B.GEU. -/
def execBGeu (k : Tok) (a b : BitVec 4) (o : BitVec 13) (s : State) : Host.Outcome State Fault Refusal :=
  branchForm (.bGeu k a b o) k a b o .geu s

/-- J: loops that the target leaves are popped (R108). -/
def execJ (k : Tok) (o : BitVec 21) (s : State) : Host.Outcome State Fault Refusal :=
  issue commonWord (.j k o) k (fun s => jumpTo s (s.me.pc + sx o) (.goto s (s.me.pc + sx o))) s

/-- The link: four times the address of the following word. -/
def linkOf (pc : Word) : Word := 4#64 * (pc + 1#64)

/-- JAL: the link goes to s15, and no loop is popped (R108). -/
def execJal (k : Tok) (o : BitVec 21) (s : State) : Host.Outcome State Fault Refusal :=
  issue commonWord (.jal k o) k (fun s =>
    jumpTo s (s.me.pc + sx o) (.call (s.setReg 15#4 (linkOf s.me.pc) false) (s.me.pc + sx o))) s

/-- JR: a byte address that is no multiple of 4 raises FETCH_RANGE with FADDR the byte address; the sum is that of unbounded
integers (R10). -/
def execJr (k : Tok) (d a : BitVec 4) (o : BitVec 13) (s : State) : Host.Outcome State Fault Refusal :=
  issue commonWord (.jr k d a o) k (fun s =>
    let t : Int := (s.reg a).toNat + 4 * o.toInt
    let next := BitVec.ofInt 64 (t / 4)
    consume (s.pois a) s
      (if t % 4 ≠ 0 then .fault s codeFetchRange (BitVec.ofInt 64 t) none
      else jumpTo s next (.call (s.setReg d (linkOf s.me.pc) false) next))) s

/-! ## Hardware loops (R107) -/

/-- A word may not end a loop body: OP 0x12-0x1D, or SEXIT on a K stream or Dray strand. -/
def badLast (e : Engine) (w : IWord) : Bool :=
  (0x12 ≤ opOf w && opOf w ≤ 0x1D) || ((e == .k || e == .dray) && opOf w == 0x50)

/-- Opening a loop of `count` passes over the `len` words that follow, with the checks in R107's order. -/
def openLoop (s : State) (w : IWord) (count : Word) (len : Nat) : Res :=
  let pc := s.me.pc
  let last := pc + word len
  if 4 ≤ s.me.loops.length then .fault s codeUndef pc (w.setWidth 64)
  else if s.inRange s.cur last = false then .fault s codeFetchRange last none
  else if badLast (threadEngine s.cur) (s.codeWord s.cur last.toNat) then .fault s codeUndef pc (w.setWidth 64)
  else if count = 0#64 then .call s (last + 1#64)
  else
    let e : LoopEntry := { start := pc + 1#64, stop := last, remaining := count }
    .done (s.updMe (fun st => { st with loops := e :: st.loops }))

/-- LOOP: the count is an unsigned register value. DEDUCED: a poisoned count is consumed before R107's checks, as R95 has it
before any other effect (log entry 135). -/
def execLoop (k : Tok) (a : BitVec 4) (o : BitVec 13) (s : State) : Host.Outcome State Fault Refusal :=
  issue commonWord (.loop k a o) k (fun s =>
    consume (s.pois a) s (openLoop s (instrWord (.loop k a o)) (s.reg a) o.toNat)) s

/-- LOOPI: the count is a field. -/
def execLoopi (k : Tok) (c : BitVec 11) (l : BitVec 10) (s : State) : Host.Outcome State Fault Refusal :=
  issue commonWord (.loopi k c l) k (fun s => openLoop s (instrWord (.loopi k c l)) (c.setWidth 64) l.toNat) s

/-! ## The end of a stream (R109) -/

/-- Every other strand of a K stream is idle. -/
def State.othersIdle (s : State) (th : ThreadId) : Bool :=
  match th with
  | .coach q p =>
    match s.coach? q with
    | some c => (List.range 8).all (fun i => i == p || (c.strand i).run == .idle)
    | none => true
  | .dray _ _ => true

/-- END: a K stream waits for its other strands; the others stop, and a Dray strand exits. -/
def execEndTask (k : Tok) (s : State) : Host.Outcome State Fault Refusal :=
  issue commonWord (.endTask k) k (fun s =>
    if threadEngine s.cur = .k ∧ s.othersIdle s.cur = false then .wait s .others else .halt s) s

/-! ## Strands (R120) -/

/-- A new strand: its registers, loops, latch and fault registers are cleared, and it is ready at `pc`. It comes after what its
parent's FORK orders, and nothing else (R121). -/
def Strand.forked (st : Strand) (s1 s14 pc : Word) : Strand :=
  let r : Strand := { st with regs := [], poison := 0#16, loops := [], latch := 0#4, epc := 0#64, fcode := 0#64 }
  let r := (r.setReg 1#4 s1 false).setReg 14#4 s14 false
  { r with faddr := 0#64, fprog := 0#64, run := .ready, pc := pc, behind := [], strict := false }

/-- The strand that a FORK takes. On the Dray it is enabled and serves what the forking strand serves. -/
def State.freeStrand (s : State) (th : ThreadId) : Option ThreadId :=
  match th with
  | .coach q _ =>
    match s.coach? q with
    | some c => (leastBelow 8 (fun i => (c.strand i).run == .idle)).map (fun i => .coach q i)
    | none => none
  | .dray d k =>
    (leastBelow 8 (fun i => (s.drayStrand d i).th.run == .idle && s.strandEn d i &&
      s.strandLevel d i == s.strandLevel d k &&
      (s.strandLevel d k == 0 || s.strandServed d i == s.strandServed d k))).map (fun i => .dray d i)

/-- s14 of a new strand: the argument block address on a coach, zero on the Dray. -/
def State.args14 (s : State) (th : ThreadId) : Word :=
  match th with
  | .coach q _ => ((s.coach? q).map (fun c => c.args)).getD 0#64
  | .dray _ _ => 0#64

/-- A new Dray strand's stream state is zero (R120). -/
def State.freshStream (s : State) (th : ThreadId) : State :=
  match th with
  | .coach _ _ => s
  | .dray _ _ => s.updStream th (fun t => { t with trapen := 0#9, flags := 0#9, seed := 0#64, calls := 0#32, en := false })

/-- FORK: no idle strand gives all-ones; the start must lie in the new strand's own code range. -/
def execFork (k : Tok) (d a : BitVec 4) (o : BitVec 13) (s : State) : Host.Outcome State Fault Refusal :=
  issue (kWord [3]) (.fork k d a o) k (fun s =>
    consume (s.pois a) s
      (match s.freeStrand s.cur with
      | none => writeS d (-1#64) false s
      | some th =>
        let start := s.me.pc + sx o
        if s.inRange th start = false then .fault s codeFetchRange start none
        else
          let s' := (s.freshStream th).updStrand th (fun st => st.forked (s.reg a) (s.args14 s.cur) start)
          writeS d (word (threadPart th)) false (s'.follows th (s.released s.cur (fun _ => true))))) s

/-- The strand of the running stream with a number is idle. -/
def State.sideIdle (s : State) (th : ThreadId) (w : Nat) : Bool :=
  match th with
  | .coach q _ => ((s.coach? q).map (fun c => (c.strand w).run == .idle)).getD true
  | .dray d _ => (s.drayStrand d w).th.run == .idle

/-- The strand of the running stream with a number. -/
def sideThread (th : ThreadId) (w : Nat) : ThreadId :=
  match th with
  | .coach q _ => .coach q w
  | .dray d _ => .dray d w

/-- The end of a JOIN: what the joined strand has accessed happens before what follows (R121). -/
def State.joined (s : State) (w : Nat) : State :=
  if w < 8 ∧ w ≠ threadPart s.cur then s.follows s.cur (s.released (sideThread s.cur w) (fun _ => true)) else s

/-- JOIN: its own number, a number of 8 or more and an idle strand complete at once. -/
def execJoin (k : Tok) (a : BitVec 4) (s : State) : Host.Outcome State Fault Refusal :=
  issue (kWord [3]) (.join k a) k (fun s =>
    let w := (s.reg a).toNat
    if w < 8 ∧ w ≠ threadPart s.cur ∧ s.sideIdle s.cur w = false then .wait s (.join w) else .done (s.joined w)) s

/-- SYIELD: the strand has issued last, so it goes last in the rotation (R93). -/
def execSyield (k : Tok) (s : State) : Host.Outcome State Fault Refusal :=
  issue (kWord [3]) (.syield k) k (fun s => .done s) s

/-- SEXIT: the strand becomes idle and its loop stack is cleared. -/
def execSexit (k : Tok) (s : State) : Host.Outcome State Fault Refusal :=
  issue (kWord []) (.sexit k) k (fun s => .halt s) s

end Sys2Proof.Machine
end

