-- ==== Sys2Proof/Machine/Rearo.lean ====
section
/-! DEFINITION. Rearo: the checks of a command chain and what its prologue says (R385-R393). -/

namespace Sys2Proof.Machine

/-! ## Result codes (R393) -/

def errKind : Nat := 1
def errVersion : Nat := 2
def errLayout : Nat := 3
def errFeature : Nat := 4
def errLimit : Nat := 5
def errSpace : Nat := 6
def errCode : Nat := 7
def errFault : Nat := 8

/-! ## What a chain has said so far -/

/-- A symbolic queue (R390): its slots, its least and most depth, the block of its first command, and the slots that one
task pushes and pops. -/
structure SymQueue where
  name  : Nat
  slot  : Nat
  dmin  : Nat
  dmax  : Nat
  block : Nat
  push  : Nat
  pop   : Nat

/-- The fields of the LNR that the prologue has set, the parameters seen, and the state of the body: its commands, the trip
counts of its open loops, its queues, and the end of the ABUF extents that it names. -/
structure ChainRec where
  shape  : Nat := 0
  prio   : Nat := 0
  mode   : Nat := 0
  policy : Nat := 0
  irrev  : Nat := 0
  prec   : Nat := 0
  args   : Nat := 0
  dep    : Option (Nat × Nat) := none
  done   : Option Nat := none
  wsets  : List (Nat × Nat) := []
  loops  : List (Nat × Nat) := []
  claims : List (Nat × Nat) := []
  params : List Nat := []
  body   : Nat := 0
  opens  : List Nat := []
  queues : List SymQueue := []
  abuf   : Nat := 0

/-- Size of a buffer for the chain's shape (R135). -/
def ChainRec.bufSize (r : ChainRec) (b : Buf) : Nat :=
  match b with
  | .tile => b.size
  | b => b.size * (if r.shape = 0 then 1 else if r.shape = 3 then 4 else 2)

/-! ## Commands -/

/-- The doublewords of a command that lie at some indices are zero. -/
def zeroAt (ws : List Word) (is : List Nat) : Bool := is.all (fun i => ws.getD i 0#64 == 0#64)

/-- The bits of a doubleword outside some fields are zero. -/
def zeroBut (w : Word) (fs : List (Nat × Nat)) : Bool := (fs.foldl (fun w f => setBits w f.1 f.2 0) w) == 0#64

/-- LENGTH of a kind (R386). -/
def kindLength (kind : Nat) (p1 : Word) : Nat :=
  match kind with
  | 1 => 2
  | 2 => 2
  | 3 => if bit p1 4 then 3 else 2
  | _ => 1

/-- The payload bits that a kind does not name are zero (R386, R388). -/
def payloadOk (kind : Nat) (ws : List Word) : Bool :=
  let w := fun i => ws.getD i 0#64
  match kind with
  | 1 => zeroBut (w 5) [(59, 56), (55, 0)] && zeroBut (w 7) [(32, 0)] && zeroAt ws [14, 15]
  | 2 => zeroBut (w 5) [(59, 56), (55, 0)] && zeroBut (w 7) [(32, 0)] && zeroAt ws [14, 15]
  | 3 => zeroBut (w 1) [(5, 0)] && zeroAt ws ([14, 15] ++ (if bit (w 1) 4 then [20, 21, 22, 23] else []))
  | 4 => zeroBut (w 1) [(27, 0)] && zeroAt ws [2, 3, 4, 5, 6, 7]
  | 5 => zeroAt ws [2, 3, 4, 5, 6, 7]
  | 6 => zeroAt ws [2, 3, 4, 5, 6, 7]
  | 7 => zeroBut (w 1) [(47, 16), (2, 0)] && zeroBut (w 3) [(15, 0)] && zeroAt ws [4, 5, 6, 7]
  | 8 => zeroBut (w 1) [(47, 16), (2, 0)] && zeroBut (w 3) [(15, 0)] && zeroAt ws [4, 5, 6, 7]
  | 9 => zeroBut (w 1) [(63, 63), (25, 0)] && zeroAt ws [2, 3, 4, 5, 6, 7]
  | 10 => zeroAt ws [1, 2, 3, 4, 5, 6, 7]
  | 11 => zeroBut (w 1) [(55, 0)] && zeroBut (w 2) [(8, 0)] && zeroAt ws [3, 4, 5, 6, 7]
  | 12 => zeroAt ws [2, 3, 4, 5, 6, 7]
  | 13 => zeroBut (w 1) [(31, 16), (8, 8), (2, 0)] && zeroBut (w 2) [(31, 0)] && zeroAt ws [3, 4, 5, 6, 7]
  | 14 => zeroBut (w 1) [(55, 0)] && zeroAt ws [3, 4, 5, 6, 7]
  | _ => zeroBut (w 1) [(7, 0)] && zeroAt ws [4, 5, 6, 7]

/-- A prologue command (R387). -/
def isPrologue (kind : Nat) (p1 : Word) : Bool := kind == 12 || kind == 15 || kind == 14 || kind == 13 || (kind == 9 && bit p1 63)

/-- A descriptor image. -/
def descOf (ws : List Word) (i : Nat) : Desc :=
  { w0 := ws.getD i 0#64, w1 := ws.getD (i + 1) 0#64, w2 := ws.getD (i + 2) 0#64, w3 := ws.getD (i + 3) 0#64 }

/-- A local extent fits the coach's buffers, and ABUF is taken up to its end. -/
def ChainRec.local_ (r : ChainRec) (d : Desc) : Except Nat ChainRec :=
  match bufOf d.space with
  | none => .ok r
  | some b =>
    let stop := d.base + d.extentLen
    if d.dim0 = 0 ∨ (if b = .tile then 4096 else r.bufSize b) < stop then .error errLimit
    else .ok (if b = .abuf then { r with abuf := Nat.max r.abuf stop } else r)

/-- The local side of a LOADT or STORET (R389): type and dimensions of the GLOBAL image. -/
def localSide (ws : List Word) : Desc :=
  let g := descOf ws 1
  let p5 := ws.getD 5 0#64
  let p6 := ws.getD 6 0#64
  let tile := bits p5 59 56 == spTile
  { w0 := word (g.ty * 2 ^ 60 + bits p5 59 56 * 2 ^ 56 + (if tile then bits p5 11 0 else bits p5 55 0))
    w1 := word (bits g.w1 47 0)
    w2 := p6
    w3 := word (if tile then bits p5 15 12 else 0) }

/-- A PARAMB (R388): an index once, and a value that fits its field. -/
def ChainRec.param (r : ChainRec) (ws : List Word) : Except Nat ChainRec :=
  let i := bits (ws.getD 1 0#64) 7 0
  let v := ws.getD 2 0#64
  let u := ws.getD 3 0#64
  let fits := fun (hi : Nat) => zeroBut v [(hi, 0)] && u == 0#64
  if r.params.contains i then .error errLayout
  else
    let r := { r with params := i :: r.params }
    let put := fun (ok : Bool) (x : ChainRec) => if ok then Except.ok x else Except.error errLayout
    match i with
    | 0 => put (fits 1) { r with shape := v.toNat }
    | 1 => put (fits 1) { r with prio := v.toNat }
    | 2 => put (fits 0) { r with mode := v.toNat }
    | 3 => put (fits 0) { r with policy := v.toNat }
    | 4 => put (fits 0) { r with irrev := v.toNat }
    | 5 => put (fits 0) { r with prec := v.toNat }
    | 6 => put (fits 55) { r with args := v.toNat }
    | 7 => put (zeroBut v [(7, 0)] && zeroBut u [(47, 0)]) { r with dep := some (v.toNat, u.toNat) }
    | 8 => put (fits 7) { r with done := some v.toNat }
    | _ => if 9 ≤ i ∧ i ≤ 12 then put (fits 15) { r with wsets := (i - 9, v.toNat) :: r.wsets } else .error errLayout

/-- A QPUSH or QPOP (R390), with the trips of the open loops. -/
def ChainRec.queueCmd (r : ChainRec) (pop : Bool) (ws : List Word) (block : Nat) : Except Nat ChainRec :=
  let p1 := ws.getD 1 0#64
  let q := bits p1 2 0
  let slot := bits p1 47 16
  let off := (ws.getD 2 0#64).toNat
  let dmin := bits (ws.getD 3 0#64) 7 0
  let dmax := bits (ws.getD 3 0#64) 15 8
  let n := r.opens.foldl (fun n t => n * t) 1
  if slot % 256 ≠ 0 ∨ slot = 0 ∨ dmin = 0 ∨ dmax < dmin then .error errLayout
  else if r.bufSize .abuf < off + slot then .error errLimit
  else
    let r := { r with abuf := Nat.max r.abuf (off + slot) }
    let add := fun (x : SymQueue) => if pop then { x with pop := x.pop + n } else { x with push := x.push + n }
    match r.queues.find? (fun x => x.name == q) with
    | some x =>
      if x.slot = slot ∧ x.dmin = dmin ∧ x.dmax = dmax then
        .ok { r with queues := r.queues.map (fun x => if x.name = q then add x else x) }
      else .error errLayout
    | none =>
      .ok { r with queues := r.queues ++ [add { name := q, slot := slot, dmin := dmin, dmax := dmax, block := block, push := 0, pop := 0 }] }

/-- A command's own effect on what the chain says, and its failure (R387-R391). -/
def ChainRec.command (r : ChainRec) (feats : Word) (kind : Nat) (ws : List Word) (block : Nat) : Except Nat ChainRec :=
  let p1 := ws.getD 1 0#64
  match kind with
  | 1 => if (descOf ws 1).space ≠ 0 ∨ ¬[1, 2, 3, 4].contains (bits (ws.getD 5 0#64) 59 56) then .error errLayout else r.local_ (localSide ws)
  | 2 => if (descOf ws 1).space ≠ 0 ∨ ¬[1, 2, 3, 4].contains (bits (ws.getD 5 0#64) 59 56) then .error errLayout else r.local_ (localSide ws)
  | 3 => ([2, 6, 10] ++ (if bit p1 4 then [16] else [])).foldlM (fun r i => r.local_ (descOf ws i)) r
  | 4 => if 0x40 ≤ bits p1 27 21 ∧ bits p1 27 21 ≤ 0x6A then .ok r else .error errLayout
  | 5 => if p1.toNat < 64 then .ok r else .error errLimit
  | 6 => if p1.toNat < 64 then .ok r else .error errLimit
  | 7 => r.queueCmd false ws block
  | 8 => r.queueCmd true ws block
  | 9 =>
    if bit p1 63 then
      if bits p1 25 24 = 3 then .error errLayout
      else if 6 ≤ r.loops.length then .error errLimit
      else .ok { r with loops := r.loops ++ [(bits p1 25 24, bits p1 23 0 + 1)] }
    else if bits p1 25 24 ≠ 0 ∨ 4 ≤ r.opens.length then .error errLayout
    else .ok { r with opens := (bits p1 23 0 + 1) :: r.opens }
  | 10 =>
    match r.opens with
    | [] => .error errLayout
    | _ :: o => .ok { r with opens := o }
  | 11 => .ok r
  | 12 => if p1 &&& ~~~ feats = 0#64 then .ok r else .error errFeature
  | 13 => .ok r
  | 14 => if 8 ≤ r.claims.length then .error errLimit else .ok { r with claims := r.claims ++ [(p1.toNat, (ws.getD 2 0#64).toNat)] }
  | _ => r.param ws

/-- The checks of one command, in the order of R393's codes. -/
def ChainRec.next (r : ChainRec) (feats : Word) (ws : List Word) (block : Nat) : Except Nat ChainRec :=
  let h := ws.getD 0 0#64
  let kind := bits h 7 0
  let p1 := ws.getD 1 0#64
  let zeros := bits h 63 33 == 0 && payloadOk kind ws
  if kind = 0 ∨ 15 < kind then .error errKind
  else if bits h 15 12 ≠ 1 ∨ (bits h 11 8 ≠ 0 ∧ zeros = false) then .error errVersion
  else if zeros = false ∨ bits h 31 16 ≠ kindLength kind p1 then .error errLayout
  else if isPrologue kind p1 then (if r.body ≠ 0 then .error errLayout else r.command feats kind ws block)
  else (r.command feats kind ws block).map (fun r => { r with body := r.body + 1 })

/-! ## The end of a chain -/

/-- Depths in name order (R390): the first queue that gets fewer slots than it needs. -/
def ChainRec.shortQueue (r : ChainRec) : Option SymQueue :=
  let f := fun (m : Nat × Option SymQueue) (n : Nat) =>
    match m.2, r.queues.find? (fun q => q.name == n) with
    | none, some q =>
      let d := Nat.min (Nat.min q.dmax 8) (m.1 / q.slot)
      if d < q.dmin then (m.1, some q) else (m.1 - d * q.slot, none)
    | _, _ => m
  ((List.range 8).foldl f (r.bufSize .abuf - r.abuf, none)).2

/-- The checks at LAST: the code and the block that it names. -/
def ChainRec.atLast (r : ChainRec) (block : Nat) : Except (Nat × Nat) ChainRec :=
  if r.body = 0 ∨ ¬r.opens.isEmpty then .error (errLayout, block)
  else if r.loops.isEmpty ∨ 2 ^ 48 ≤ r.loops.foldl (fun n l => n * l.2) 1 then .error (errLimit, block)
  else
    match r.queues.find? (fun q => q.push != q.pop) with
    | some q => .error (errLayout, q.block)
    | none =>
      match r.shortQueue with
      | some q => .error (errLimit, q.block)
      | none => .ok r

/-! ## The LNR (R249, R388) -/

/-- The header's words of a chain with code lengths and declared tiles. -/
def ChainRec.header (r : ChainRec) (lens : Nat → Nat) (tiles : BitVec 16) : List Word :=
  let n := r.loops.length
  let order := (List.range n).foldl (fun v e => v + e * 2 ^ (8 + 3 * e)) 0
  let loop := fun i => match r.loops[i]? with
    | some l => l.1 * 2 ^ 24 + (l.2 - 1)
    | none => 0
  let ws := fun j => ((r.wsets.find? (fun w => w.1 == j)).map (fun w => w.2)).getD 0
  let claims := (List.range 8).flatMap (fun j => match r.claims[j]? with
    | some c => [word c.1, word c.2]
    | none => [0#64, 0#64])
  [word (lens 0 + lens 1 * 2 ^ 16 + lens 2 * 2 ^ 32 + lens 3 * 2 ^ 48),
   word (n + order + r.shape * 2 ^ 26 + r.prec * 2 ^ 28 + r.mode * 2 ^ 29 + r.policy * 2 ^ 30 + r.irrev * 2 ^ 31 +
     r.prio * 2 ^ 32 + tiles.toNat * 2 ^ 34),
   word (loop 0 + loop 1 * 2 ^ 32), word (loop 2 + loop 3 * 2 ^ 32), word (loop 4 + loop 5 * 2 ^ 32),
   word r.args,
   word ((r.dep.map (fun d => d.1 + 2 ^ 16)).getD 0 + (r.done.map (fun d => 2 ^ 17 + d * 2 ^ 18)).getD 0),
   word ((r.dep.map (fun d => d.2)).getD 0),
   0#64, 0#64, 0#64, 0#64, 0#64, 0#64,
   word (ws 0 + ws 1 * 2 ^ 16 + ws 2 * 2 ^ 32 + ws 3 * 2 ^ 48), 0#64] ++ claims

end Sys2Proof.Machine
end

