-- ==== Sys2Proof/Machine/Loader.lean ====
section
/-! DEFINITION. Loader: the load requests of slices (R392-R396). The native code that a loader generates carries no promise
of its own: its words and lengths are open (log entry 7). -/

namespace Sys2Proof.Machine

/-! ## Reading a chain -/

/-- What reading a chain comes to: the chain and its bytes, the code of its failure and the block that it names, or a page on
its way. -/
inductive ChainRead where
  | ok (s : State) (r : ChainRec) (bytes : List Byte)
  | err (s : State) (code idx : Nat)
  | later (s : State)

/-- Blocks of a command, from one on. -/
def State.readBlocks (s : State) (w : Who) (tva n : Nat) : Hw (List Byte) × Nat :=
  match n with
  | 0 => (.ok s [], 0)
  | n + 1 =>
    match s.hwGet w false tva 64 with
    | .ok s bs =>
      match s.readBlocks w (tva + 64) n with
      | (.ok s more, _) => (.ok s (bs ++ more), 0)
      | (r, k) => (r, k + 1)
    | r => (r, 0)

/-- The doublewords of bytes. -/
def wordsOf8 (bs : List Byte) : List Word := (List.range (bs.length / 8)).map (fun i => wordOf8 ((bs.drop (8 * i)).take 8))

/-- Commands of a chain from a block on, in order: the first that fails decides (R393). A chain has at most 65,536 blocks. -/
def State.readChain (s : State) (w : Who) (feats : Word) (chain : Nat) (fuel block : Nat) (r : ChainRec)
    (seen : List Byte) : ChainRead :=
  match fuel with
  | 0 => .err s errLayout block
  | fuel + 1 =>
    if 65536 ≤ block then .err s errLayout (block - 1)
    else
      match s.hwGet w false (chain + 64 * block) 64 with
      | .fault _ _ _ => .err s errFault block
      | .later s => .later s
      | .ok s bs =>
        let h := wordOf8 (bs.take 8)
        let more := kindLength (bits h 7 0) (wordOf8 ((bs.drop 8).take 8)) - 1
        match s.readBlocks w (chain + 64 * (block + 1)) more with
        | (.fault _ _ _, k) => .err s errFault (block + 1 + k)
        | (.later s, _) => .later s
        | (.ok s rest, _) =>
          match r.next feats (wordsOf8 (bs ++ rest)) block with
          | .error code => .err s code block
          | .ok r =>
            if 65536 < block + 1 + more then .err s errLayout block
            else if bit h 32 then
              match r.atLast block with
              | .error e => .err s e.1 e.2
              | .ok r => .ok s r (seen ++ bs ++ rest)
            else s.readChain w feats chain fuel (block + 1 + more) r (seen ++ bs ++ rest)

/-! ## Writing the output -/

/-- The pages that an output touches: address and bytes of each part. -/
def pageParts (at_ : Nat) (bs : List Byte) : List (Nat × List Byte) :=
  (List.range ((at_ % 4096 + bs.length + 4095) / 4096)).map (fun i =>
    let lo := if i = 0 then at_ else at_ / 4096 * 4096 + 4096 * i
    (lo, (bs.drop (lo - at_)).take ((lo / 4096 + 1) * 4096 - lo)))

/-- All parts can be written now: they translate, and no line of them is poisoned (R393). -/
def State.partsWritable (s : State) (w : Who) (ps : List (Nat × List Byte)) : Hw Unit :=
  match ps with
  | [] => .ok s ()
  | p :: ps =>
    match s.hwAt w false p.1 p.2.length .write with
    | .fault c f p => .fault c f p
    | .later s => .later s
    | .ok _ x => if s.hwPois x.2 x.1 p.2.length then .fault codePoison (word p.1) none else s.partsWritable w ps

/-- Writing the parts. -/
def State.writeParts (s : State) (w : Who) (ps : List (Nat × List Byte)) : State :=
  ps.foldl (fun s p => match s.hwPut w false p.1 p.2 with
    | .ok s _ => s
    | _ => s) s

/-! ## Requests -/

/-- The address of a slice's load request entry. -/
def loadBlock (slice : Nat) : Nat := 0x3B600 + 32 * slice

/-- LOAD_REQUEST: a request begins with its entry's fields. -/
def execLoadRequest (die slice : Nat) (s : State) : Host.Outcome State Fault Refusal :=
  if s.loads.any (fun l => l.die == die && l.slice == slice) then .next s
  else
    let a := loadBlock slice
    let l : LoadReq :=
      { die := die, slice := slice, chain := bits (s.pmWord die a) 55 0, out := bits (s.pmWord die (a + 8)) 55 0,
        max := bits (s.pmWord die (a + 16)) 31 0 }
    .next { s with loads := s.loads ++ [l] }

/-- Event 2 latches in the Dray strands that serve a slice and its domain (R392). -/
def State.latchOwners (s : State) (slice : Nat) (m : BitVec 4) : State :=
  [0, 1, 2, 3].foldl (fun s d => (List.range 8).foldl (fun s k =>
    let mine :=
      (s.strandLevel d k == 1 && s.strandServed d k == s.sliceDomain d slice) ||
        (s.strandLevel d k == 2 && s.strandServed d k == slice)
    if mine && s.strandEn d k then
      s.updDray d k (fun x => { x with th := { x.th with latch := x.th.latch ||| m } })
    else s) s) s

/-- A request ends: ERR, OUTLEN and ERRIDX are written, BUSY clears, and event 2 latches. -/
def State.finishLoad (s : State) (l : LoadReq) (code idx len : Nat) : State :=
  let a := loadBlock l.slice
  let s := (s.pmSetBits l.die (a + 24) 63 48 code).pmSetBits l.die (a + 24) 47 32 (idx % 65536)
  let s := (s.pmSetBits l.die (a + 16) 63 32 len).pmSetBits l.die a 63 62 0
  { s with loads := s.loads.filter (fun x => x.die != l.die || x.slice != l.slice) }.latchOwners l.slice 4#4

/-- An output of bytes goes to OUT (R393): SPACE, then the write. -/
def State.putOutput (s : State) (l : LoadReq) (w : Who) (bs : List Byte) : State :=
  if l.max < bs.length then s.finishLoad l errSpace 0 bs.length
  else
    let ps := pageParts l.out bs
    match s.partsWritable w ps with
    | .fault _ _ _ => s.finishLoad l errFault 0xFFFF 0
    | .later s => s
    | .ok s _ => (s.writeParts w ps).finishLoad l 0 0 bs.length

/-- The capability list (R396). -/
def State.capabilityList (s : State) (slice : Nat) : List Byte :=
  let entry := fun (id next value : Nat) => bytesOfNat 2 id ++ [1#8, 0#8] ++ bytesOfNat 4 next ++ bytesOfNat 8 value
  entry 1 16 0xFFFE ++ entry 2 32 (64 + 8 * 2 ^ 8 + 8 * 2 ^ 16 + 6 * 2 ^ 24 + 4 * 2 ^ 32) ++
    entry 3 48 (s.features slice).toNat ++ entry 4 0 (64 + 4096 * 2 ^ 16)

/-- Length of a stream's generated code: K has one word at least (R250). -/
def codeLen (digest stream : Nat) : Nat := Config.loaderLen digest stream + (if stream = 0 then 1 else 0)

/-- The LNR and its code image for a chain that has passed. -/
def ChainRec.image (r : ChainRec) (digest : Nat) : List Byte :=
  (r.header (codeLen digest) (Config.loaderTiles digest)).flatMap bytesOf8 ++
    [0, 1, 2, 3].flatMap (fun k => (List.range (codeLen digest k)).flatMap (fun i =>
      bytesOfNat 4 (Config.loaderCode digest k i).toNat))

/-- The words of the code that a chain generates. -/
def codeTotal (digest : Nat) : Nat := codeLen digest 0 + codeLen digest 1 + codeLen digest 2 + codeLen digest 3

/-- Serving a request. -/
def State.serveLoad (s : State) (l : LoadReq) : State :=
  let w := s.hwWho l.die l.slice
  if l.chain = 0 then s.putOutput l w (s.capabilityList l.slice)
  else
    match s.readChain w (s.features l.slice) l.chain 65537 0 {} [] with
    | .err s code idx => s.finishLoad l code idx 0
    | .later s => s
    | .ok s r bytes =>
      let digest := natOfBytes (bytes ++ bytesOf8 (s.features l.slice))
      if 8192 < codeTotal digest then s.finishLoad l errCode (bytes.length / 64 - 1) 0 else s.putOutput l w (r.image digest)

/-- LOAD_DONE (R392). -/
def execLoadDone (die slice : Nat) (s : State) : Host.Outcome State Fault Refusal :=
  match s.loads.find? (fun l => l.die == die && l.slice == slice) with
  | some l => .next (s.serveLoad l)
  | none => .next s

end Sys2Proof.Machine
end

