-- ==== Sys2Proof/Machine/HostPort.lean ====
section
/-! DEFINITION. HostPort: what the host does to the part: its reads and writes of control pages, mailbox, doorbells, device
memory and the management interface, and its answers (R432-R440, R451). The offsets by which a host request names its
target beyond the BAR are log entry 25. -/

namespace Sys2Proof.Machine

/-! ## Targets -/

/-- What a host request names: bytes of the BAR (R433), of the management interface (R451), or device memory by SPA. -/
inductive HostTarget where
  | bar (off : Nat)
  | mgmt (off : Nat)
  | memory (spa : Nat)
  | none

def hostTarget (off : Nat) : HostTarget :=
  if off < 2 ^ 21 then .bar off
  else if 2 ^ 56 ≤ off ∧ off < 2 ^ 56 + 0x40 then .mgmt (off - 2 ^ 56)
  else if 2 ^ 60 ≤ off then .memory (off - 2 ^ 60)
  else .none

/-- The link to the host has trained and nothing has stopped it. -/
def State.hostUp (s : State) : Bool := s.boot.state == 3#4 || s.boot.state == 5#4

/-- A function exists for the host: the PF, or a VF with a valid attach entry (R432). -/
def State.fnThere (s : State) (fn : Nat) : Bool := fn == 0 || (s.fnAttach fn).isSome

/-- The slice and domain through which a function's accesses to device memory are translated (R436). -/
def State.fnPlace (s : State) (fn : Nat) : Option (Nat × Nat) :=
  match s.fnSlice fn with
  | some i => some (i, s.sliceDomain 0 i)
  | none =>
    match s.fnAttach fn with
    | some (1, d) => some (((s.domainSlices 0 d).head?).getD 0, d)
    | _ => none

/-- A completion goes to the host. -/
def State.complete0 (s : State) (fn : Nat) (status : HostStatus) (bs : List Byte) (p : Bool) :
    Host.Outcome State Fault Refusal :=
  .next (s.toHost (.completion fn status (BitVec.ofNat 512 (natOfBytes bs)) p))

/-! ## Reading pages -/

/-- A doubleword of a function's control page (R434). -/
def State.fnWord (s : State) (fn off : Nat) : Word :=
  let x := s.fn fn
  match off / 8 with
  | 0 => x.fr
  | 1 => word (x.cons.toNat * 2 ^ 32 + x.prod.toNat)
  | 2 => if fn = 0 then x.px else 0#64
  | 3 => if fn = 0 then word x.pxProd.toNat else 0#64
  | 4 => word (flagNat x.frozen * 2 ^ 16 + fn % 256 * 2 ^ 8 + (if fn = 0 then 0 else s.attachEntry fn % 256))
  | 5 => if fn = 0 then x.pslice else 0#64
  | _ => 0#64

/-- A byte of a function's BAR (R433). The mailbox is the entry of die 0 (R470). -/
def State.barByte (s : State) (fn off : Nat) : Byte :=
  if off < 0x1000 then (bytesOf8 (s.fnWord fn off)).getD (off % 8) 0#8
  else if off < 0x1020 then
    match s.fnSlice fn with
    | some i => s.pmView 0 (loadBlock i + (off - 0x1000))
    | none => 0#8
  else 0#8

/-- A doubleword of the management interface (R451). -/
def State.mgmtWord (s : State) (off : Nat) : Word :=
  match off / 8 with
  | 2 => word (s.boot.fwver.toNat * 2 ^ 32 + s.boot.state.toNat * 2 ^ 28 + s.boot.fdie.toNat * 2 ^ 26 +
      flagNat s.boot.attest * 2 ^ 24 + s.boot.fcode.toNat)
  | 3 => s.boot.repaddr
  | 4 => s.boot.nonce.extractLsb' 0 64
  | 5 => s.boot.nonce.extractLsb' 64 64
  | 6 => s.boot.nonce.extractLsb' 128 64
  | 7 => s.boot.nonce.extractLsb' 192 64
  | _ => 0#64

def State.mgmtByte (s : State) (fn off : Nat) : Byte := if fn = 0 then (bytesOf8 (s.mgmtWord off)).getD (off % 8) 0#8 else 0#8

/-! ## Writing pages -/

/-- A doubleword after a write of some of its bits. -/
def putMasked (old rw : Word) (m : Word × Word) : Word := (old &&& ~~~ (rw &&& m.1)) ||| (m.2 &&& rw &&& m.1)

/-- FRCONS (R440): room appears in the ring; records that wait for it are tried again. -/
def State.setCons (s : State) (fn : Nat) (n : BitVec 32) : State := s.updFn fn (fun x => { x with cons := n })

/-- A PXDONE for a pending entry: the device reads w2 of the entry. -/
def State.readW2 (s : State) (idx : Nat) : State :=
  match s.proxies.find? (fun p => p.written && p.policy && p.id == idx) with
  | none => s
  | some p =>
    let f := fun (x : HostReq) => { x with policy := false }
    let s := { s with proxies := updateWhere (fun x => x.written && x.id == idx) f s.proxies }
    let r := { newHostReq s p.who p.tva (bits (s.fn 0).px 63 12 * 4096 + 32 * idx + 16) 8 254 (word idx) 0#64 false 0 with id := s.nextHost }
    { s with nextHost := s.nextHost + 1, hostReqs := s.hostReqs ++ [r] }.toHost (.memRead r.id 0 r.addr 8)

/-- A write of one doubleword of a control page. -/
def State.putFnWord (s : State) (fn i : Nat) (m : Word × Word) : State :=
  match i with
  | 0 => s.updFn fn (fun x => { x with fr := putMasked x.fr (field 63 12 ||| field 3 0) m })
  | 1 =>
    if m.1 &&& field 63 32 = 0#64 then s
    else s.setCons fn (BitVec.ofNat 32 (bits (putMasked (word ((s.fn fn).cons.toNat * 2 ^ 32)) (field 63 32) m) 63 32))
  | 2 => if fn = 0 then (s.updFn 0 (fun x => { x with px := putMasked x.px (-1#64) m })).pumpProxies else s
  | 3 => if fn = 0 ∧ m.1 &&& field 63 32 ≠ 0#64 then s.readW2 (bits m.2 63 32) else s
  | 5 => if fn = 0 then s.updFn 0 (fun x => { x with pslice := putMasked x.pslice (field 63 63 ||| field 5 0) m }) else s
  | _ => s

/-- A write to the mailbox (R433): as a write of the load request entry of die 0. -/
def State.putMailbox (s : State) (slice off : Nat) (bs : List Byte) : State :=
  match s.pmStoreAt 0 0 0 (loadBlock slice + off) (bs.take (0x20 - off)) with
  | .ok s => s
  | .fault _ _ _ => s

/-- A write of one doubleword of the management interface (R451). -/
def State.putMgmt (s : State) (i : Nat) (m : Word × Word) : State :=
  let b := s.boot
  let sets := fun k => bit (m.1 &&& m.2) k
  match i with
  | 2 =>
    let s := if sets 24 && !b.attest then { s with boot := { b with attest := true } }.next .attest else s
    if sets 25 ∧ 3 ≤ b.state.toNat then s.next .warmReset else s
  | 3 => { s with boot := { b with repaddr := putMasked b.repaddr (-1#64) m } }
  | _ =>
    if 4 ≤ i ∧ i ≤ 7 then
      let k := 64 * (i - 4)
      let new := putMasked (b.nonce.extractLsb' k 64) (-1#64) m
      { s with boot := { b with nonce := b.nonce &&& ~~~ ((-1#64).setWidth 256 <<< k) ||| (new.setWidth 256 <<< k) } }
    else s

/-! ## Device memory (R436) -/

/-- What translating a host access comes to; `barred` when the windows fail it. -/
inductive HostReach where
  | ok (s : State) (xs : List (Nat × Nat × Xlate))
  | bad
  | barred
  | later (s : State)

/-- Each line piece of an access: address, length and place. -/
def State.hostReach (s : State) (w : Who) (kind : AccessKind) (ps : List (Nat × Nat)) : HostReach :=
  match ps with
  | [] => .ok s []
  | p :: ps =>
    match s.through2 w p.1 p.2 kind with
    | .fault _ code _ => if code = codeWindow then .barred else .bad
    | .page s _ => .later s
    | .ok s x =>
      match s.hostReach w kind ps with
      | .ok s xs => .ok s ((p.1, p.2, x) :: xs)
      | r => r

/-- The identity of a function's accesses. -/
def hostWho (place : Nat × Nat) : Who := { die := 0, cluster := 32, slice := place.1, domain := place.2, plain := false }

/-- The windows have failed an access of a function: it is frozen (R338; log entry 160). -/
def State.freezeFn (s : State) (fn : Nat) : State := s.updFn fn (fun x => { x with frozen := true })

/-- An earlier request of the function waits: this one follows it (R435). -/
def State.hostBehind (s : State) (fn : Nat) : Bool :=
  s.stalled.any (fun i => match i with
    | .hostRead f _ _ => f == fn
    | .hostWrite f _ _ _ => f == fn
    | _ => false)

/-- A request of the host waits. -/
def State.holdHost (s : State) (i : Input) : State := { s with stalled := s.stalled ++ [i] }

/-- Reading the pieces in order. -/
def hostRead1 (r : State × List Byte × Bool) (p : Nat × Nat × Xlate) : State × List Byte × Bool :=
  let x := p.2.2
  let s := if x.memSide then r.1 else r.1.touch (x.dpa / 64) evictNormal false
  (s, r.2.1 ++ s.viewBytes none x.memSide x.dpa p.2.1, r.2.2 || s.viewPois none x.memSide x.dpa p.2.1)

/-- A read of device memory. -/
def hostReadMem (fn off len spa : Nat) (s : State) : Host.Outcome State Fault Refusal :=
  match s.fnPlace fn with
  | none => s.complete0 fn .abort [] false
  | some place =>
    if s.migState place.1 = 1 then (s.countDrop place.1).complete0 fn .abort [] false
    else
      match s.hostReach (hostWho place) .read (linePieces spa len) with
      | .bad => s.complete0 fn .abort [] false
      | .barred => (s.freezeFn fn).complete0 fn .abort [] false
      | .later s => .next (s.holdHost (.hostRead fn off len))
      | .ok s xs =>
        if xs.any (fun p => apertureOf p.2.2.dpa == .mmio) then .refused .mmioLayout
        else if xs.any (fun p => apertureOf p.2.2.dpa != .hbm) then s.complete0 fn .abort [] false
        else if xs.any (fun p => !p.2.2.memSide && s.pendingLine none (p.2.2.dpa / 64)) then
          .next (s.holdHost (.hostRead fn off len))
        else
          let r := xs.foldl hostRead1 (s, [], false)
          r.1.complete0 fn .success r.2.1 r.2.2

/-- Writing one piece. -/
def hostWrite1 (spa : Nat) (bs : List Byte) (s : State) (p : Nat × Nat × Xlate) : State :=
  let x := p.2.2
  let data := lineData (x.dpa % 64) ((bs.drop (p.1 - spa)).take p.2.1)
  let mask := lineMask (x.dpa % 64) p.2.1
  if x.memSide then s.writeSide (x.dpa / 64) data mask none
  else s.writeDirect (x.dpa / 64) data mask evictNormal noCopy none

/-- A write of device memory. -/
def hostWriteMem (fn off len spa : Nat) (data : BitVec 512) (s : State) : Host.Outcome State Fault Refusal :=
  match s.fnPlace fn with
  | none => .next s
  | some place =>
    if s.migState place.1 = 1 then .next (s.countDrop place.1)
    else
      match s.hostReach (hostWho place) .write (linePieces spa len) with
      | .bad => .next s
      | .barred => .next (s.freezeFn fn)
      | .later s => .next (s.holdHost (.hostWrite fn off len data))
      | .ok s xs =>
        if xs.any (fun p => apertureOf p.2.2.dpa == .mmio) then .refused .mmioLayout
        else if xs.any (fun p => apertureOf p.2.2.dpa != .hbm) then .next s
        else .next (xs.foldl (hostWrite1 spa (bytesOfNat len data.toNat)) s)

/-! ## The host's requests -/

/-- HOST_READ (R432-R436, R451): at most 64 bytes. -/
def execHostRead (fn off len : Nat) (s : State) : Host.Outcome State Fault Refusal :=
  match hostTarget off with
  | .mgmt o => if s.boot.halted then .next s else s.complete0 fn .success ((List.range len).map (fun i => s.mgmtByte fn (o + i))) false
  | t =>
    if s.boot.halted then .next s
    else if s.hostUp = false ∨ s.fnThere fn = false then s.complete0 fn .unsupported [] false
    else if (s.fn fn).frozen then s.complete0 fn .abort [] false
    else if s.hostBehind fn then .next (s.holdHost (.hostRead fn off len))
    else
      match t with
      | .bar o =>
        match (if 0x1000 ≤ o ∧ o < 0x1020 then s.fnSlice fn else none) with
        | some i =>
          if s.migState i = 1 then (s.countDrop i).complete0 fn .abort [] false
          else s.complete0 fn .success ((List.range len).map (fun k => s.barByte fn (o + k))) false
        | none => s.complete0 fn .success ((List.range len).map (fun k => s.barByte fn (o + k))) false
      | .memory spa => hostReadMem fn off len spa s
      | _ => s.complete0 fn .unsupported [] false

/-- The doorbell page that a write rings: 4 or 8 bytes at its offset 0 (R435). -/
def doorbellOf (off len : Nat) : Option Nat :=
  if 0x100000 ≤ off ∧ off < 0x200000 ∧ off % 4096 = 0 ∧ (len = 4 ∨ len = 8) then some ((off - 0x100000) / 4096) else none

/-- A write to the BAR. -/
def hostWriteBar (fn off len : Nat) (data : BitVec 512) (s : State) : Host.Outcome State Fault Refusal :=
  let bs := bytesOfNat len data.toNat
  if off < 0x1000 then .next ((dwordsOf off len).foldl (fun s d => s.putFnWord fn (d / 8) (dwordPart off bs d)) s)
  else if off < 0x1020 then
    match s.fnSlice fn with
    | some i => .next (if s.migState i = 1 then s.countDrop i else s.putMailbox i (off - 0x1000) bs)
    | none => .next s
  else
    match doorbellOf off len with
    | some q => execDoorbell fn q s
    | none => .next s

/-- HOST_WRITE (R432-R436, R451): at most 64 bytes. -/
def execHostWrite (fn off len : Nat) (data : BitVec 512) (s : State) : Host.Outcome State Fault Refusal :=
  match hostTarget off with
  | .mgmt o =>
    if s.boot.halted ∨ fn ≠ 0 then .next s
    else .next ((dwordsOf o len).foldl (fun s d => s.putMgmt (d / 8) (dwordPart o (bytesOfNat len data.toNat) d)) s)
  | t =>
    if s.boot.halted ∨ s.hostUp = false ∨ s.fnThere fn = false ∨ (s.fn fn).frozen then .next s
    else if s.hostBehind fn then .next (s.holdHost (.hostWrite fn off len data))
    else
      match t with
      | .bar o => hostWriteBar fn o len data s
      | .memory spa => hostWriteMem fn off len spa data s
      | _ => .next s

/-- FRCONS (R440). -/
def execFrcons (fn : Nat) (count : BitVec 32) (s : State) : Host.Outcome State Fault Refusal := .next (s.setCons fn count)

/-! ## The host's answers (R437-R439) -/

/-- A fault that an answer of the host brings; the manual states no FPROG (log entry 6). -/
def State.failHost (s : State) (who : Requester) (code : Nat) (tva : Word) : State :=
  let p := s.drawWord
  p.1.failAsker who code tva p.2

/-- A request to the host is no longer outstanding. -/
def State.dropHost (s : State) (id : Nat) : State := { s with hostReqs := s.hostReqs.filter (fun r => r.id != id) }

/-- The writes that a flush followed are known to have reached the host (R315). -/
def State.flushed (s : State) (who : Requester) : State :=
  match who with
  | .flush th => s.updStrand th (fun st => { st with hostLast := [] })
  | _ => s

/-- A request is answered without success; a refused atomic shows the completion status in FPROG (R460). -/
def State.hostRefused (s : State) (r : HostReq) (status : Word) : State :=
  if r.op = 255 ∨ r.op = 254 then
    match r.who with
    | .flush _ => s.flushed r.who
    | _ => s.failHost r.who codeHostAbort r.tva
  else if r.policy then s.proxy r
  else s.failAsker r.who codeHostUnsupported r.tva status

/-- HOST_COMPLETION. -/
def execHostCompletion (id : Nat) (status : HostStatus) (data : BitVec 512) (s : State) :
    Host.Outcome State Fault Refusal :=
  match s.hostReqs.find? (fun r => r.id == id) with
  | none => .next s
  | some r =>
    let t := s.dropHost id
    match status with
    | .success =>
      if r.op = 254 then .next (t.next (.pxdone r.operand.toNat (data.setWidth 64)))
      else .next ((t.flushed r.who).giveAsker r.who r.tva (bytesOfNat r.bytes data.toNat) false)
    | .unsupported => .next (t.hostRefused r 1#64)
    | .abort => .next (t.hostRefused r 4#64)

/-- A request of another part whose host access never completes is not answered (R427). -/
def State.hostLost (s : State) (who : Requester) (tva : Word) : State :=
  match who with
  | .remote port fl => (s.dropAsk port fl).consumed port fl
  | .flush th => s.failHost (.thread th) codeHostTimeout tva
  | _ => s.failHost who codeHostTimeout tva

/-- COMPLETION_TIMEOUT: 10 ms without a completion. -/
def execCompletionTimeout (id : Nat) (s : State) : Host.Outcome State Fault Refusal :=
  match s.hostReqs.find? (fun r => r.id == id) with
  | none => .next s
  | some r =>
    if (s.tsc - r.since).toNat < 10000000 then .next s
    else
      let t := s.dropHost id
      let t := if r.op = 254 then { t with proxies := t.proxies.filter (fun p => !(p.written && p.id == r.operand.toNat)) } else t
      .next (t.hostLost r.who r.tva).pumpProxies

/-- PXDONE (R439): a pending entry completes once, with the old value that the host left in w2. -/
def execPxdone (index : Nat) (w2 : Word) (s : State) : Host.Outcome State Fault Refusal :=
  match s.proxies.find? (fun p => p.written && p.id == index) with
  | none => .next s
  | some p =>
    let t := { s with proxies := s.proxies.filter (fun x => !(x.written && x.id == index)) }
    .next (t.giveAsker p.who p.tva (bytesOfNat p.bytes w2.toNat) false).pumpProxies

/-- PROXY_TIMEOUT: an entry that has been waiting or pending for 10 ms. -/
def execProxyTimeout (index : Nat) (s : State) : Host.Outcome State Fault Refusal :=
  match s.proxies.find? (fun p => p.id == index && p.policy) with
  | none => .next s
  | some p =>
    if (s.tsc - p.since).toNat < 10000000 then .next s
    else .next ({ s with proxies := s.proxies.filter (fun x => x.id != index) }.hostLost p.who p.tva).pumpProxies

end Sys2Proof.Machine
end

