-- ==== Sys2Proof/Machine/KatFloor.lean ====
section
/-! DEFINITION. KatFloor: the known-answer floor (R376, R377). -/

namespace Sys2Proof.Machine

/-- The checksum that entry k of a die's table expects, and its seed. -/
def State.katEntry (s : State) (die k : Nat) : Nat × Word :=
  (bits (s.pmWord die (0x3BE00 + 16 * k)) 17 0, s.pmWord die (0x3BE00 + 16 * k + 8))

/-- Nanoseconds by which a quadrant's test is overdue; none while no test is due. One that KATSET has released is
tested at once (R378), with the floor off too (log entry 161). -/
def State.katLate (s : State) (q : Nat) : Option Nat :=
  let x := s.quad q
  let every := (s.die (quadDie q)).katEvery * 1000
  let since := (s.tsc - x.lastKat).toNat
  if x.quarantined then none
  else if x.mustPass then some (since - every)
  else if every ≠ 0 ∧ every ≤ since then some (since - every)
  else none

/-- An operation of the coach that holds a quadrant has started and not ended. -/
def State.matrixBusy (s : State) (q : Nat) : Bool :=
  ((s.coachHolding q).map (fun c => c.matq.any (fun o => o.started && !o.done))).getD false

/-- A mismatch: quarantine, a record to level O, and the abort of the launch that is bound there. -/
def State.katMismatch (s : State) (q : Nat) : State :=
  let prog := s.katProg q (1#4 <<< (q % 4))
  let s := s.updQuad q (fun x => { x with quarantined := true })
  let place := (s.coachHolding q).map (fun c => (c.slice, s.sliceDomain (quadDie q) c.slice))
  let s := s.postUnit codeKat false none none none (some prog) 0#16 place 80 (quadDie q)
  match s.coachHolding q with
  | some c => s.abortLaunch c.tag codeUe 0#16 0#13
  | none => s

/-- The inserted test. `defect` says that the array has computed a wrong tile. -/
def State.katTest (s : State) (q : Nat) (defect : Bool) : State :=
  let die := quadDie q
  let e := s.katEntry die (s.die die).katNext
  let pass := !defect && (s.quad q).defect == 0#64 && katChecksum (s.die die).katFamily e.1 == e.2
  let s := s.updDie die (fun x => { x with katNext := (x.katNext + 1) % 16 })
  if pass then s.updQuad q (fun x => { x with lastKat := s.tsc, mustPass := false }) else s.katMismatch q

/-- KAT_FLOOR_TEST: a due test on an idle quadrant, or on one whose array has nothing started. -/
def execKatFloorTest (quad : Nat) (defect : Bool) (s : State) : Host.Outcome State Fault Refusal :=
  if (s.katLate quad).isNone ∨ s.matrixBusy quad ∨ s.boot.halted then .next s else .next (s.katTest quad defect)

/-- KAT_FLOOR_FREEZE: a test that has been due for 1 ms runs between two clocks of the frozen array. -/
def execKatFloorFreeze (quad : Nat) (defect : Bool) (s : State) : Host.Outcome State Fault Refusal :=
  match s.katLate quad with
  | some n => if n < 1000000 ∨ s.boot.halted then .next s else .next (s.katTest quad defect)
  | none => .next s

end Sys2Proof.Machine
end

