-- ==== Sys2Proof/Machine/MemWords.lean ====
section
/-! DEFINITION. MemWords: the words that load, store and operate on global memory: LD, LDU, ST, LDA, STL and the
atomics of the K stream and the Dray (R110-R113, R116-R119). -/

namespace Sys2Proof.Machine

/-- The address of a MEM or MEMO word: the base plus an offset in units of the size. -/
def memAddr (s : State) (b : BitVec 4) (off : Word) (n : Nat) : Word := s.reg b + off * word n

/-- A load word: `ext` widens the bytes. -/
def loadForm (i : Instr) (k : Tok) (tr b : BitVec 4) (off : Word) (sr : BitVec 2) (cls : Nat) (ext : Word → Nat → Word)
    (scope : Nat) (after : State → State → Word → Nat → State) : State → Host.Outcome State Fault Refusal :=
  issue commonWord i k (fun s => consume (s.pois b) s
    (let n := 2 ^ sr.toNat
    let va := memAddr s b off n
    vaFault s va
      (loadBytes s va n cls scope (fun t bs p => writeS tr (ext (word (natOfBytes bs)) (8 * n)) p (after t s va n)))))

/-- A store word: poison in its address or data is consumed (R95). -/
def storeForm (i : Instr) (k : Tok) (tr b : BitVec 4) (off : Word) (sr : BitVec 2) (cls : Nat) (rel : Option Nat) :
    State → Host.Outcome State Fault Refusal :=
  issue commonWord i k (fun s => consume (s.pois b || s.pois tr) s
    (let n := 2 ^ sr.toNat
    let va := memAddr s b off n
    vaFault s va (storeBytes pmStore s k va (bytesOfNat n (s.reg tr).toNat) cls rel)))

/-- LD: sign-extended. -/
def execLd (k : Tok) (tr b c : BitVec 4) (o : BitVec 7) (sr : BitVec 2) (s : State) : Host.Outcome State Fault Refusal :=
  loadForm (.ld k tr b c o sr) k tr b (sx o) sr c.toNat sextWord 0 (fun t _ _ _ => t) s

/-- LDU: zero-extended. -/
def execLdu (k : Tok) (tr b c : BitVec 4) (o : BitVec 7) (sr : BitVec 2) (s : State) : Host.Outcome State Fault Refusal :=
  loadForm (.ldu k tr b c o sr) k tr b (sx o) sr c.toNat zextWord 0 (fun t _ _ _ => t) s

/-- ST. -/
def execSt (k : Tok) (tr b c : BitVec 4) (o : BitVec 7) (sr : BitVec 2) (s : State) : Host.Outcome State Fault Refusal :=
  storeForm (.st k tr b c o sr) k tr b (sx o) sr c.toNat none s

/-- LDA: a load that acquires at its scope. -/
def execLda (k : Tok) (tr b c : BitVec 4) (e : BitVec 3) (o : BitVec 4) (sr : BitVec 2) (s : State) :
    Host.Outcome State Fault Refusal :=
  loadForm (.lda k tr b c e o sr) k tr b (o.setWidth 64) sr c.toNat sextWord e.toNat
    (fun t before va n => (t.acquired before va n e.toNat).acquireL1 e.toNat) s

/-- STL: a store that releases at its scope. -/
def execStl (k : Tok) (tr b c : BitVec 4) (e : BitVec 3) (o : BitVec 4) (sr : BitVec 2) (s : State) :
    Host.Outcome State Fault Refusal :=
  storeForm (.stl k tr b c e o sr) k tr b (o.setWidth 64) sr c.toNat (some e.toNat) s

/-! ## Atomics -/

/-- An atomic of n bytes: d receives the old value. `cas` says that d is compared and so read (R116). -/
def atomForm (fs : List Nat) (i : Instr) (k : Tok) (d b v c : BitVec 4) (m : BitVec 2) (e : BitVec 3) (op : AtomOp)
    (n : Nat) : State → Host.Outcome State Fault Refusal :=
  let cas := op == .cas
  issue (kWord fs) i k (fun s => consume (s.pois b || s.pois v || (cas && s.pois d)) s
    (let va := s.reg b &&& ~~~ (word (n - 1))
    let a : AtomSpec :=
      { op := op, bytes := n, va := va, v := (s.reg v).toNat % 2 ^ (8 * n),
        cmp := if cas then (s.reg d).toNat % 2 ^ (8 * n) else 0, cls := c.toNat, sem := m.toNat, scope := e.toNat,
        lane := 0 }
    vaFault s va
      (atomRes pmStore s a (fun t old p _ =>
        writeS d (word old) p (if m.toNat % 2 = 1 then t.acquireL1 e.toNat else t)))))

/-- AADD. -/
def execAadd (k : Tok) (d b v c : BitVec 4) (m : BitVec 2) (e : BitVec 3) (s : State) : Host.Outcome State Fault Refusal :=
  atomForm [1] (.aadd k d b v c m e) k d b v c m e .add 8 s

/-- AAND. -/
def execAand (k : Tok) (d b v c : BitVec 4) (m : BitVec 2) (e : BitVec 3) (s : State) : Host.Outcome State Fault Refusal :=
  atomForm [1] (.aand k d b v c m e) k d b v c m e .and 8 s

/-- AOR. -/
def execAor (k : Tok) (d b v c : BitVec 4) (m : BitVec 2) (e : BitVec 3) (s : State) : Host.Outcome State Fault Refusal :=
  atomForm [1] (.aor k d b v c m e) k d b v c m e .or 8 s

/-- AXOR. -/
def execAxor (k : Tok) (d b v c : BitVec 4) (m : BitVec 2) (e : BitVec 3) (s : State) : Host.Outcome State Fault Refusal :=
  atomForm [1] (.axor k d b v c m e) k d b v c m e .xor 8 s

/-- ASWP. -/
def execAswp (k : Tok) (d b v c : BitVec 4) (m : BitVec 2) (e : BitVec 3) (s : State) : Host.Outcome State Fault Refusal :=
  atomForm [1] (.aswp k d b v c m e) k d b v c m e .swp 8 s

/-- ACAS: d is the compare value. -/
def execAcas (k : Tok) (d b v c : BitVec 4) (m : BitVec 2) (e : BitVec 3) (s : State) : Host.Outcome State Fault Refusal :=
  atomForm [1] (.acas k d b v c m e) k d b v c m e .cas 8 s

/-- AMIN. -/
def execAmin (k : Tok) (d b v c : BitVec 4) (m : BitVec 2) (e : BitVec 3) (s : State) : Host.Outcome State Fault Refusal :=
  atomForm [1] (.amin k d b v c m e) k d b v c m e .min 8 s

/-- AMAX. -/
def execAmax (k : Tok) (d b v c : BitVec 4) (m : BitVec 2) (e : BitVec 3) (s : State) : Host.Outcome State Fault Refusal :=
  atomForm [1] (.amax k d b v c m e) k d b v c m e .max 8 s

/-- AMINU. -/
def execAminu (k : Tok) (d b v c : BitVec 4) (m : BitVec 2) (e : BitVec 3) (s : State) : Host.Outcome State Fault Refusal :=
  atomForm [1] (.aminu k d b v c m e) k d b v c m e .minu 8 s

/-- AMAXU. -/
def execAmaxu (k : Tok) (d b v c : BitVec 4) (m : BitVec 2) (e : BitVec 3) (s : State) : Host.Outcome State Fault Refusal :=
  atomForm [1] (.amaxu k d b v c m e) k d b v c m e .maxu 8 s

/-- AADD.W. -/
def execAaddW (k : Tok) (d b v c : BitVec 4) (m : BitVec 2) (e : BitVec 3) (s : State) : Host.Outcome State Fault Refusal :=
  atomForm [2] (.aaddW k d b v c m e) k d b v c m e .add 4 s

/-- ASWP.W. -/
def execAswpW (k : Tok) (d b v c : BitVec 4) (m : BitVec 2) (e : BitVec 3) (s : State) : Host.Outcome State Fault Refusal :=
  atomForm [2] (.aswpW k d b v c m e) k d b v c m e .swp 4 s

/-- ACAS.W: bits 31:0 of d are compared. -/
def execAcasW (k : Tok) (d b v c : BitVec 4) (m : BitVec 2) (e : BitVec 3) (s : State) : Host.Outcome State Fault Refusal :=
  atomForm [2] (.acasW k d b v c m e) k d b v c m e .cas 4 s

end Sys2Proof.Machine
end

