-- ==== Sys2Proof/Machine/Moult.lean ====
section
/-! DEFINITION. Moult: the moult record and MOULT (R359-R363). -/

namespace Sys2Proof.Machine

/-! ## Laying out bytes -/

/-- Bytes put over a run at an offset. -/
def lay (b : List Byte) (f : Nat × List Byte) : List Byte := b.take f.1 ++ f.2 ++ b.drop (f.1 + f.2.length)

/-- A run of n bytes: the fields given, and zeros. -/
def layOut (n : Nat) (fs : List (Nat × List Byte)) : List Byte := fs.foldl lay (List.replicate n 0#8)

/-- Doublewords from an offset on, as a field. -/
def dwords (off : Nat) (ws : List Word) : Nat × List Byte := (off, ws.flatMap bytesOf8)

/-- Zeros up to a multiple of n bytes. -/
def padTo (n : Nat) (b : List Byte) : List Byte := b ++ List.replicate ((n - b.length % n) % n) 0#8

/-- The directory's word of a section, and the bytes that the section takes in the record. -/
def placeSection (x : Nat × List Word × List Byte) (b : List Byte) : Nat × List Word × List Byte :=
  if b.isEmpty then (x.1, x.2.1 ++ [0#64], x.2.2)
  else
    let p := padTo 256 b
    (x.1 + p.length, x.2.1 ++ [word (b.length * 2 ^ 32 + x.1)], x.2.2 ++ p)

/-- A record: its header's fields beside LENGTH and the directory, and its sections (R359). -/
def assemble (hdr : List Word) (secs : List (List Byte)) : List Byte :=
  let r := secs.foldl placeSection (256, [], [])
  layOut 256 [dwords 8 hdr, dwords 0 [word (r.1 * 2 ^ 32 + 1)], dwords 0x80 r.2.1] ++ r.2.2

/-! ## Sections 0 to 4 (R361, R362) -/

/-- A loop entry. -/
def LoopEntry.words (l : LoopEntry) : List Word :=
  [l.remaining, word (bits l.start 16 0 + bits l.stop 16 0 * 2 ^ 32)]

/-- The run state that a thread is saved with: 0 idle or ended, 1 ready, 2 stopped. -/
def RunState.saved (r : RunState) : Nat :=
  match r with
  | .idle => 0
  | .ready => 1
  | .parked _ => 1
  | .stopped _ => 2

/-- Section 0, one thread. -/
def Strand.image (st : Strand) : List Byte :=
  layOut 256 [
    dwords 0 ((List.range 16).map (fun i => st.reg (BitVec.ofNat 4 i))),
    dwords 0x80 [word (bits st.pc 16 0), st.epc, st.fcode, st.faddr, st.fprog,
      word (st.poison.toNat + st.run.saved * 2 ^ 16 + st.latch.toNat * 2 ^ 20 + st.loops.length * 2 ^ 24), st.lastTime],
    dwords 0xC0 (st.loops.reverse.flatMap LoopEntry.words)]

def State.section0 (s : State) (c : Coach) : List Byte :=
  (List.range 11).flatMap (fun t => ((s.strand? (.coach c.quad t)).getD Strand.start).image)

/-- Section 1, one stream: 0 K, 1 L, 2 X, 3 S. -/
def State.streamImage (s : State) (c : Coach) (i : Nat) : List Byte :=
  let th := ThreadId.coach c.quad (partOfStream i)
  let t := (s.stream? th).getD Stream.start
  layOut 128 ([
    dwords 0 [s.csr th 0, s.csr th 1, s.csr th 2, s.csr th 7, t.calls.setWidth 64, s.csr th 9, s.timeClocks th, s.csr th 10]] ++
    if i = 2 then
      [dwords 0x40 [word (c.maskSel.toNat + c.resume.toNat * 2 ^ 16 + flagNat c.spx * 2 ^ 32 + flagNat c.iov * 2 ^ 33),
        c.retired]]
    else [])

def State.section1 (s : State) (c : Coach) : List Byte := (List.range 4).flatMap (s.streamImage c)

/-- Section 2: the views, and each thread's barrier snapshots. -/
def State.section2 (s : State) (c : Coach) : List Byte :=
  layOut 1024 ([
    (0, (List.range 64).flatMap (fun v => bytesOfNat 2 (SMap.get (fun _ => 0#16) c.semView v).toNat)),
    (0x80, (List.range 16).map (fun h => SMap.get (fun _ => 0#8) c.barView h))] ++
    (List.range 11).map (fun t =>
      let st := (s.strand? (.coach c.quad t)).getD Strand.start
      let snap := fun h => SMap.get (fun _ => (none : Option (BitVec 16))) st.snaps h
      (0x100 + 64 * t, (List.range 16).flatMap (fun h => bytesOfNat 2 (((snap h).map (fun v => v.toNat)).getD 0)) ++
        bytesOf8 (word ((List.range 16).foldl (fun n h => n + flagNat (snap h).isSome * 2 ^ h) 0 +
          flagNat st.arrived * 2 ^ 16)))))

/-- Section 3: the descriptors. -/
def Desc.words (d : Desc) : List Word := [d.w0, d.w1, d.w2, d.w3]

def Coach.section3 (c : Coach) : List Byte := (List.range 64).flatMap (fun i => (c.desc i).words.flatMap bytesOf8)

/-- The tile registers that a launch declares. -/
def declaredTiles (tiles : Nat) : List Nat := (List.range 32).filter tiles.testBit

/-- Section 4: masks and tiles. -/
def Quadrant.section4 (x : Quadrant) (tiles : Nat) : List Byte :=
  layOut 1280 [
    (0, (List.range 8).flatMap (fun k => bytesOfNat 128 (if k = 0 then 2 ^ 1024 - 1 else (x.mask k).toNat))),
    (0x400, bytesOfNat 8 x.pMask.toNat),
    (0x408, (List.range 32).flatMap (fun t => bytesOfNat 4 ((List.range 32).foldl (fun n r =>
      n + flagNat (x.rowPois t r) * 2 ^ r) 0)))] ++
  (declaredTiles tiles).flatMap (fun t => (List.range 4096).map (fun i => x.tileByte (4096 * t + i)))

/-! ## Section 5 (R360) -/

/-- An area of a buffer: its buffer, first byte and length. -/
abbrev Area := Buf × Nat × Nat

/-- Length of the poison bitmap of an area. -/
def bitmapLen (n : Nat) : Nat := (n + 524287) / 524288 * 256

/-- Bytes that an area takes in section 5. -/
def areaLen (a : Area) : Nat := (a.2.2 + 255) / 256 * 256 + bitmapLen a.2.2

/-- Carried ranges of a loop-nest record, in entry order. -/
def carriedAreas (hdr : List Word) : List Area :=
  ((hdr.drop 8).take 4).filterMap (fun w =>
    let b : Buf := match bits w 63 62 with
      | 0 => .abuf
      | 1 => .wbuf
      | _ => .acc
    if bits w 46 24 = 0 then none else some (b, bits w 22 0, bits w 46 24))

/-- The buffers of a coach that is saved inside a task. -/
def usedAreas (hdr : List Word) (latch : Nat) : List Area :=
  [(Buf.abuf, 0, hdrUsed hdr 0), (Buf.wbuf, 0, hdrUsed hdr 1), (Buf.acc, 0, hdrUsed hdr 2), (Buf.glatch, 0, latch)].filter
    (fun a => a.2.2 != 0)

/-- The areas of section 5 for a KIND. -/
def areasOf (kind : Nat) (hdr : List Word) (latch : Nat) : List Area :=
  if kind = 1 then carriedAreas hdr else usedAreas hdr latch

/-- The 256-byte rows of an area: first byte and length of each. -/
def areaRows (a : Area) : List (Nat × Nat) :=
  (List.range ((a.2.2 + 255) / 256)).map (fun r => (a.2.1 + 256 * r, Nat.min 256 (a.2.2 - 256 * r)))

/-- An area: its data and its poison bitmap. -/
def State.areaImage (s : State) (c : Coach) (a : Area) : List Byte :=
  padTo 256 (s.bufBytes c a.1 a.2.1 a.2.2) ++
  bytesOfNat (bitmapLen a.2.2) ((areaRows a).zipIdx.foldl (fun n r =>
    n + flagNat (s.bufPois c a.1 r.1.1 r.1.2) * 2 ^ r.2) 0)

/-! ## Sections 6 and 7: the array -/

/-- The sets that stand in the array: a set that an MWLD is loading stands in the shadow place. -/
def Coach.arraySets (c : Coach) : Option WeightSet × Option WeightSet :=
  match (c.matq.find? (fun o => o.started && o.op == opMwld && !o.done)).bind (fun o => o.set) with
  | some w => if c.activeB then (some w, c.setB) else (c.setA, some w)
  | none => (c.setA, c.setB)

/-- Weights of one element of a quadrant's array: G of them. -/
def WeightSet.element (w : WeightSet) (v h i j : Nat) : Nat :=
  let g := famG w.family
  (List.range g).foldl (fun n k => n + w.weight (g * (64 * v + i) + k) (64 * h + j) * 2 ^ (k * typeWidth w.ty)) 0

/-- One set in a quadrant's weight area. -/
def setImage (w : Option WeightSet) (v h : Nat) : List Byte :=
  match w with
  | none => List.replicate 12288 0#8
  | some w => (List.range 4096).flatMap (fun x => bytesOfNat 3 (w.element v h (x / 64) (x % 64)))

/-- Its block scales. -/
def scaleImage (w : Option WeightSet) (v h : Nat) : List Byte :=
  match w with
  | none => List.replicate 512 0#8
  | some w =>
    (List.range 512).map (fun x =>
      if x / 64 < 2 * famG w.family then
        SMap.get (fun _ => 0#8) w.scales ((v * 2 * famG w.family + x / 64) * 256 + 64 * h + x % 64)
      else 0#8)

/-- Row and column of a coach's q-th quadrant among its quadrants. -/
def Coach.place (c : Coach) (q : Nat) : Nat × Nat := if c.hfuse = 2 then (q / 2, q % 2) else (q, 0)

/-- Weight area of the q-th quadrant. -/
def Coach.weightArea (c : Coach) (q : Nat) : List Byte :=
  let a := c.arraySets
  let p := c.place q
  setImage a.1 p.1 p.2 ++ setImage a.2 p.1 p.2 ++ scaleImage a.1 p.1 p.2 ++ scaleImage a.2 p.1 p.2

/-- What a record says of two sets beyond their elements, in words that the manual does not name: type, scales and
poison. -/
def setWord (w : Option WeightSet) : Nat :=
  match w with
  | none => 0
  | some w => w.ty + flagNat w.scaled * 16 + flagNat w.poison * 32

/-- Rank of an operation among the accepted ones of a coach. -/
def Coach.rank (c : Coach) (seq : Nat) : Nat :=
  ((c.matq.map (fun o => o.seq) ++ c.copyq.map (fun o => o.seq) ++ c.defer.map (fun e => e.seq)).filter
    (fun n => decide (n < seq))).length

/-- Place of the set that an operation uses: 0 none, 1 set 0, 2 set 1. -/
def Coach.setPlace (c : Coach) (o : MatOp) : Nat :=
  let a := c.arraySets
  if o.set.isNone then 0 else if o.set = a.1 then 1 else if o.set = a.2 then 2 else 0

/-- An entry of the matrix queue. `valid` is 1 for an operation that has not started. -/
def Coach.matImage (c : Coach) (o : MatOp) : List Byte :=
  layOut 256 [
    dwords 0 [word (o.iword.toNat + o.source * 2 ^ 32 + flagNat (!o.started) * 2 ^ 35),
      word (c.rank o.seq * 2 ^ 36 + bits o.pc 16 0 * 2 ^ 47),
      word (o.flags.toNat + c.setPlace o * 2 ^ 16 + flagNat o.done * 2 ^ 18 + flagNat o.started * 2 ^ 19 + o.push * 2 ^ 20)],
    dwords 0x20 (o.a.words ++ o.b.words ++ o.c.words ++ o.scale.words)]

/-- The entries of the matrix queue as they are saved: those that have not started first. -/
def Coach.matSaved (c : Coach) : List MatOp := c.matq.filter (fun o => !o.started) ++ c.matq.filter (fun o => o.started)

/-- The array of a held coach stands frozen in the middle of an operation (R205, R207): one has started and has not retired. -/
def Coach.frozeMid (c : Coach) : Bool := c.matq.any (fun o => o.started)

def setFamily (w : Option WeightSet) : Nat := ((w.map (fun w => w.family)).getD 0#3).toNat
def setSize (w : Option WeightSet) : Nat := ((w.map (fun w => w.kw + w.nw * 2 ^ 16)).getD 0)

/-- Section 6. -/
def Coach.section6 (c : Coach) : List Byte :=
  let a := c.arraySets
  layOut 0x900 [
    dwords 0 [word (flagNat c.activeB + flagNat a.1.isSome * 2 + flagNat a.2.isSome * 4 + setFamily a.1 * 16 +
        setFamily a.2 * 256 + flagNat c.flip * 2 ^ 32 + flagNat c.kat.isSome * 2 ^ 33),
      word (setSize a.1 + setSize a.2 * 2 ^ 32), word (setWord a.1 + setWord a.2 * 2 ^ 8), c.kat.getD 0#64],
    (0x100, c.matSaved.flatMap c.matImage)] ++
  if c.frozeMid then [] else (List.range c.quads.length).flatMap c.weightArea

/-- Section 7: progress of the started operations, then each quadrant's weights, partial sums and skew registers. -/
def State.section7 (s : State) (c : Coach) : List Byte :=
  let head := layOut 256 [dwords 0 ((c.matSaved.filter (fun o => o.started)).flatMap (fun o =>
    [word o.progress, word o.progress, word (if o.op = opMwld then o.progress * o.a.rowBytes else 0), o.phase.setWidth 64]))]
  head ++ c.quads.zipIdx.flatMap (fun q =>
    c.weightArea q.2 ++ bytesOfNat 16384 (s.quad q.1).sums.toNat ++ bytesOfNat 8192 (s.quad q.1).skew.toNat)

/-! ## Sections 8 to 11 -/

/-- A hash state. -/
def HashState.image (h : HashState) : List Byte :=
  layOut 256 [(0, bytesOfNat 200 h.lanes.toNat), dwords 0xC8 [word (h.pos + flagNat h.poison * 256)]]

/-- The two words of a copy command. -/
def copyWords (i : Instr) : Word :=
  let ws := encode i
  word ((ws.getD 0 0#32).toNat + (ws.getD 1 0#32).toNat * 2 ^ 32)

/-- An entry of the copy queue. -/
def Coach.copyImage (c : Coach) (o : CopyCmd) : List Byte :=
  let m := o.follow.getD (newMatOp 0 0#3 Desc.zero Desc.zero Desc.zero Desc.zero false 0#64 0 0)
  let first := (c.copyq.head?.map (fun p => p.seq)) == some o.seq
  let v := if o.op = 0x46 ∨ o.op = 0x4B then o.cval else word o.count
  layOut 256 [
    dwords 0 [copyWords o.ins,
      word (o.prog + (o.stream / 2) * 2 ^ 32 + flagNat o.started * 2 ^ 33 + flagNat (o.op == 0x41 && o.follow.isNone) * 2 ^ 34 +
        flagNat (first && c.copyPark.isSome) * 2 ^ 35 + c.rank o.seq * 2 ^ 36 + flagNat o.cpoison * 2 ^ 46 +
        bits o.pc 16 0 * 2 ^ 47),
      v, o.pol.setWidth 64],
    dwords 0x20 (o.dst.words ++ o.src.words ++ o.list.words ++ m.a.words ++ m.b.words ++ m.c.words ++ m.scale.words)]

/-- Section 8. -/
def Coach.section8 (c : Coach) : List Byte := c.hashL.image ++ c.hashS.image ++ c.copyq.flatMap c.copyImage

/-- An entry of the deferral queue: its snapshot as the vectors of direction 0 hold it. -/
def Coach.deferImage (c : Coach) (e : DeferEntry) : List Byte :=
  let cellAt := fun (j i : Nat) =>
    let q := posOf (opDir e.tile) j i
    SMap.get (fun _ => 0#32) e.cells (opTile e.tile * 1024 + 32 * q.1 + q.2)
  let first := (c.defer.head?.map (fun p => p.seq)) == some e.seq
  layOut 4608 [
    dwords 0 (e.desc.words ++ [e.base,
      word (e.progress + flagNat (first && c.deferPark.isSome) * 2 ^ 8 + c.rank e.seq * 2 ^ 36 + e.push * 2 ^ 45 +
        bits e.pc 16 0 * 2 ^ 47), e.poison.setWidth 64]),
    (0x100, bytesOfNat 128 (positions.foldl (fun n p =>
      n + flagNat (maskAt e.active e.tile p.1 p.2) * 2 ^ (32 * p.1 + p.2)) 0)),
    (0x200, positions.flatMap (fun p => bytesOfNat 4 (cellAt p.1 p.2).toNat))]

/-- Section 9. -/
def Coach.section9 (c : Coach) : List Byte := c.defer.flatMap c.deferImage

/-- An endpoint. -/
def Endpoint.image (e : Endpoint) : List Byte :=
  layOut 64 [dwords 0 [
    word (e.handle + e.circA.toNat * 2 ^ 16 + e.circB.toNat * 2 ^ 32 + flagNat e.bound * 2 ^ 48 + flagNat e.recv * 2 ^ 49 +
      flagNat e.broken * 2 ^ 50),
    word e.rows.length, word (if e.recv then 0 else e.next.toNat), word (if e.recv then e.next.toNat else 0), word e.credits,
    word (e.mark.toNat + e.peer * 2 ^ 32),
    word (flagNat e.closed + flagNat e.liveA * 2 + flagNat e.liveB * 4 + e.accepted * 8 + e.final.toNat * 2 ^ 32)]]

/-- Section 10: present when an endpoint is bound. -/
def Coach.section10 (c : Coach) : List Byte :=
  let es := (List.range 8).map c.endp
  if es.any (fun e => e.bound) then
    es.flatMap Endpoint.image ++ es.flatMap (fun e => e.rows.flatMap (fun r => bytesOfNat 256 r.2.toNat))
  else []

/-- The records of a coach's parked queues, in the order copy, matrix, deferral. -/
def Coach.parkRecs (c : Coach) : List FaultRec := [c.copyPark, c.matPark, c.deferPark].filterMap id

/-- A record of a coach that has not been delivered. -/
def ofCoach (quad : Nat) (p : PendingRec) : Bool :=
  match masterOf (p.body.handle.setWidth 64) with
  | some (.coach q _) => q == quad
  | _ => false

/-- Section 11. -/
def State.section11 (s : State) (c : Coach) : List Byte :=
  (c.parkRecs ++ (s.faults.filter (ofCoach c.quad)).map (fun p => p.body)).flatMap FaultRec.bytes

/-! ## The record and MOULT (R363) -/

/-- KIND of a held coach: 1 between tasks, 2 inside one. -/
def Coach.kind (c : Coach) : Nat := if c.phase = .running then 2 else 1

/-- The header's words from 0x08 to 0x40. -/
def State.moultHeader (s : State) (c : Coach) (l : Launch) : List Word :=
  let idx := s.taskIndex l (quadDie c.quad) c.point c.temporal
  let pair := fun i => word (idx.getD i 0 + idx.getD (i + 1) 0 * 2 ^ 32)
  [word (l.tilesDecl * 2 ^ 48 + flagNat l.precise * 2 ^ 33 + flagNat c.frozeMid * 2 ^ 32 + c.kind * 2 ^ 28 + c.shape.toNat * 2 ^ 26 +
      c.slice * 2 ^ 16 + (s.vtag c.tag).toNat),
    word (bits l.lnr 55 0), c.args, pair 0, pair 2, pair 4, word (c.quad * 32), word c.parkRecs.length]

/-- The record of a held coach. -/
def State.moultRecord (s : State) (c : Coach) (l : Launch) : List Byte :=
  let mid := c.kind == 2
  let only := fun (p : Bool) (b : List Byte) => if p then b else []
  assemble (s.moultHeader c l) [only mid (s.section0 c), only mid (s.section1 c), s.section2 c, only mid c.section3,
    only mid ((s.quad c.quad).section4 l.tilesDecl), (areasOf c.kind l.hdr (c.bufSize .glatch)).flatMap (s.areaImage c),
    only mid c.section6, only c.frozeMid (s.section7 c), only mid c.section8, only mid c.section9, c.section10, s.section11 c,
    [], [], [], []]

/-- A saved coach is dissolved: what it had not delivered goes with its record. -/
def State.dissolve (s : State) (c : Coach) : State :=
  let die := quadDie c.quad
  let s := { s with faults := s.faults.filter (fun p => !ofCoach c.quad p) }
  let s := s.updCoach c.quad (fun c => { c with ends := [] })
  ((s.dropCoach c.quad).updWalker die c.tag (fun w => { w with bound := w.bound - 1, saved := w.saved + 1 })).settlePre
    die c.slice

/-- Rows that were credited to a coach's receive endpoints are still on their way: a later one has landed (R369). -/
def State.rowsOut (s : State) (c : Coach) : Bool :=
  (List.range 8).any (fun q =>
    let e := c.endp q
    e.bound && e.recv && !e.broken && e.rows.length != (e.next - e.mark).toNat && !s.boot.halted)

/-- MOULT. The length of the record stands with the word while its writes are on their way. -/
def execMoult (k : Tok) (d a b : BitVec 4) (s : State) : Host.Outcome State Fault Refusal :=
  sysForm 2 (some rightPreempt) (.moult k d a b) k a b (fun s c =>
    let vb := s.reg b
    withMaster s (.moult k d a b) c (s.reg a)
      (fun m => match m with
        | .coach _ p => p == 31
        | _ => false)
      (fun m => match m with
        | .coach q _ =>
          if vb.toNat % 256 ≠ 0 then badOperand s vb
          else
            match s.coach? q with
            | none => writeS d 1#64 false s
            | some co =>
              match s.launch? co.tag with
              | none => writeS d 1#64 false s
              | some l =>
                if s.me.reply.isEmpty = false then
                  if s.storesLeft then .wait s .fence
                  else writeS d (word (natOfBytes s.me.reply * 2 ^ 32)) false (s.dissolve co)
                else if co.frozen then writeS d 2#64 false s
                else if co.held.isNone then writeS d 1#64 false s
                else if s.rowsOut co then .wait s .fence
                else
                  let r := s.moultRecord co l
                  let n := r.length
                  s.clearTo vb n .write
                    (match s.storePieces pmStore 0 none vb.toNat r (linePieces vb.toNat n) with
                    | .error r => r
                    | .ok s => .wait (s.addReply (bytesOfNat 8 n) false) .fence)
        | _ => .gone s)) s

end Sys2Proof.Machine
end

