-- ==== Sys2Proof/Machine/Unmoult.lean ====
section
/-! DEFINITION. Unmoult: UNMOULT and what it restores (R364). -/

namespace Sys2Proof.Machine

/-! ## Reading a record -/

/-- The doubleword at an offset. -/
def at8 (b : List Byte) (off : Nat) : Word := wordOf8 ((b.drop off).take 8)

/-- A number of n bytes at an offset. -/
def atN (b : List Byte) (off n : Nat) : Nat := natOfBytes ((b.drop off).take n)

/-- A descriptor at an offset. -/
def descAt (b : List Byte) (off : Nat) : Desc :=
  { w0 := at8 b off, w1 := at8 b (off + 8), w2 := at8 b (off + 16), w3 := at8 b (off + 24) }

/-- A record that has been read, with the header of the launch's loop-nest record. -/
structure Moult where
  bytes : List Byte
  hdr   : List Word

def Moult.w (m : Moult) (off : Nat) : Word := at8 m.bytes off
def Moult.kind (m : Moult) : Nat := bits (m.w 8) 29 28
def Moult.froze (m : Moult) : Bool := bit (m.w 8) 32
def Moult.shape (m : Moult) : BitVec 2 := BitVec.ofNat 2 (bits (m.w 8) 27 26)
def Moult.slice (m : Moult) : Nat := bits (m.w 8) 21 16
def Moult.vtag (m : Moult) : Nat := bits (m.w 8) 15 0
def Moult.tiles (m : Moult) : Nat := bits (m.w 8) 63 48
def Moult.qrec (m : Moult) : Nat := bits (m.w 0x40) 1 0

/-- N_i. -/
def Moult.index (m : Moult) (i : Nat) : Nat := atN m.bytes (0x20 + 4 * i) 4

/-- Length and bytes of a section. -/
def Moult.slen (m : Moult) (i : Nat) : Nat := bits (m.w (0x80 + 8 * i)) 63 32
def Moult.sec (m : Moult) (i : Nat) : List Byte := (m.bytes.drop (bits (m.w (0x80 + 8 * i)) 31 0)).take (m.slen i)

/-- Quadrants of a record's coach. -/
def Moult.quads (m : Moult) : Nat := (shapeQuads m.shape 0).length

/-- The buffer areas of section 5; the gather latch has one size a quadrant. -/
def Moult.areas (m : Moult) : List Area := areasOf m.kind m.hdr (m.quads * Buf.glatch.size)

/-! ## Check 1: the record keeps its form -/

/-- Bits that the header's map says are zero. -/
def Moult.zerosOk (m : Moult) : Bool :=
  bits (m.w 0) 31 16 == 0 && bits (m.w 8) 47 34 == 0 && bits (m.w 8) 31 30 == 0 && bits (m.w 8) 25 22 == 0 &&
  bits (m.w 0x10) 63 56 == 0 && bits (m.w 0x38) 63 14 == 0 && bits (m.w 0x38) 4 0 == 0 && bits (m.w 0x40) 63 2 == 0 &&
  ((m.bytes.drop 0x48).take 0x38).all (fun b => b == 0#8)

/-- A section has the length that R360 gives it. -/
def Moult.lenOk (m : Moult) (i : Nat) : Bool :=
  let n := m.slen i
  let task := m.kind == 2
  match i with
  | 0 => n == if task then 2816 else 0
  | 1 => n == if task then 512 else 0
  | 2 => n == 1024
  | 3 => n == if task then 2048 else 0
  | 4 => n == if task then 1280 + 4096 * (declaredTiles m.tiles).length else 0
  | 5 => n == (m.areas.map areaLen).foldl (· + ·) 0
  | 6 => n == if task then 2304 + (if m.froze then 0 else 25600 * m.quads) else 0
  | 7 => n == if m.froze then 256 + 50176 * m.quads else 0
  | 8 => if task then decide (512 ≤ n) && n % 256 == 0 && decide (n ≤ 512 + 256 * 32) else n == 0
  | 9 => if task then n % 4608 == 0 && decide (n ≤ 4 * 4608) else n == 0
  | 10 => n == 0 || (decide (512 ≤ n) && n % 256 == 0 && n == 512 + 256 *
      ((List.range 8).foldl (fun k q => k + (at8 (m.sec 10) (64 * q + 8)).toNat) 0))
  | 11 => n % 32 == 0 && decide (32 * m.qrec ≤ n)
  | _ => n == 0

/-- The directory's offsets follow one another, and LENGTH is where they end. -/
def Moult.placesOk (m : Moult) : Bool :=
  let r := (List.range 16).foldl (fun (x : Nat × Bool) i =>
    let n := m.slen i
    if n = 0 then (x.1, x.2 && m.w (0x80 + 8 * i) == 0#64)
    else (x.1 + (n + 255) / 256 * 256, x.2 && bits (m.w (0x80 + 8 * i)) 31 0 == x.1)) (256, true)
  r.2 && r.1 == bits (m.w 0) 63 32

/-- The indices lie in the loop nest. -/
def Moult.indexOk (m : Moult) : Bool :=
  (List.range 6).all (fun i => if i < hdrNl m.hdr then decide (m.index i < hdrTrips m.hdr i) else m.index i == 0)

/-- Check 1. -/
def Moult.ok (m : Moult) : Bool :=
  bits (m.w 0) 15 0 == 1 && (m.kind == 1 || m.kind == 2) && (!m.froze || m.kind == 2) && m.zerosOk &&
  (List.range 16).all m.lenOk && m.placesOk && m.indexOk

/-! ## Where the coach stands in its launch -/

/-- The number of a tuple of levels, the last one varying fastest. -/
def Moult.tuple (m : Moult) (levels : List Nat) : Nat := levels.foldl (fun n l => n * hdrTrips m.hdr l + m.index l) 0

/-- The spatial point on a die and the temporal point that N0 to N5 name. -/
def State.moultPoint (s : State) (l : Launch) (m : Moult) (die : Nat) : Option (Nat × Nat) :=
  let nd := (s.launchDies l).length
  let dn := m.tuple (kindLevels l.hdr 2)
  match s.diePlace l die with
  | none => none
  | some v =>
    if dn % nd ≠ v then none
    else some (dn / nd * kindCount l.hdr 1 + m.tuple (kindLevels l.hdr 1), m.tuple (kindLevels l.hdr 0))

/-- The running launch that a version tag names. -/
def State.namedLaunch (s : State) (v : Nat) : Option Launch :=
  if s.vtag (v % 4096) = BitVec.ofNat 16 v ∧ ((s.tag (v % 4096)).st = .running ∨ (s.tag (v % 4096)).st = .irrev) then
    s.launch? (v % 4096)
  else none

/-! ## Restoring sections 0 to 5 -/

/-- A thread's loop entries. -/
def loopAt (b : List Byte) (e : Nat) : LoopEntry :=
  let w := at8 b (0xC0 + 16 * e + 8)
  { start := word (bits w 16 0), stop := word (bits w 48 32), remaining := at8 b (0xC0 + 16 * e) }

/-- A thread from section 0; `views` is its part of section 2. A thread stopped on a fault that has been delivered has the
home level of the fault's class. -/
def strandAt (b views : List Byte) (told : Bool) : Strand :=
  let w := at8 b 0xA8
  let mask := at8 views 32
  let snaps := (List.range 16).foldl (fun m h =>
    if bit mask h then
      SMap.put (fun _ => (none : Option (BitVec 16))) m h (some (BitVec.ofNat 16 (atN views (2 * h) 2)))
    else m) []
  { Strand.start with
    regs := SMap.putAll zeroWord [] 1 ((List.range 15).map (fun i => at8 b (8 * i + 8)))
    poison := BitVec.ofNat 16 (bits w 15 0)
    pc := word (bits (at8 b 0x80) 16 0)
    loops := ((List.range (Nat.min 4 (bits w 26 24))).map (loopAt b)).reverse
    latch := BitVec.ofNat 4 (bits w 23 20)
    epc := word (bits (at8 b 0x88) 16 0)
    fcode := word (bits (at8 b 0x90) 16 0)
    faddr := at8 b 0x98
    fprog := at8 b 0xA0
    lastTime := at8 b 0xB0
    snaps := snaps
    arrived := bit mask 16
    strict := true
    run := match bits w 17 16 with
      | 1 => .ready
      | 2 => .stopped (if told then classHome (faultClass (bits (at8 b 0x90) 15 0)) else 3)
      | _ => .idle }

/-- A stream from section 1. -/
def streamAt (b : List Byte) (t : Stream) : Stream :=
  { t with
    trapen := (at8 b 8).setWidth 9 &&& 0x1EF#9
    flags := (at8 b 16).setWidth 9
    seed := at8 b 24
    calls := (at8 b 32).setWidth 32
    lnr := bit (at8 b 40) 0
    en := bit (at8 b 40) 1 }

/-- The FIFO counts into a stream and the pushes that it owes. -/
def Coach.tokensAt (c : Coach) (i : Nat) (w : Word) : Coach :=
  [1, 2, 3].foldl (fun c n =>
    (c.setFifo (fifoKey (selected i n) i) (bits w (4 * n - 1) (4 * n - 4))).setOwed (fifoKey i (selected i n))
      (bits w (4 * n + 15) (4 * n + 12))) c

/-- The tile registers and masks from section 4. -/
def Quadrant.restoreTiles (x : Quadrant) (b : List Byte) (tiles : Nat) : Quadrant :=
  let x := (List.range 7).foldl (fun x k =>
    x.setMask (k + 1) (BitVec.ofNat 1024 (atN b (128 * (k + 1)) 128)) ((at8 b 0x400).getLsbD (k + 1))) (x.clearTiles tiles)
  let x := (declaredTiles tiles).zipIdx.foldl (fun x t =>
    ((b.drop (1280 + 4096 * t.2)).take 4096).zipIdx.foldl (fun x v => x.setTileByte (4096 * t.1 + v.2) v.1) x) x
  (List.range 1024).foldl (fun x n =>
    x.setRowPois (n / 32) (n % 32) (bit (at8 b (0x408 + 8 * (n / 64))) (n % 64))) x

/-- One area of section 5, which begins at an offset. -/
def State.restoreArea (s : State) (c : Coach) (b : List Byte) (off : Nat) (a : Area) : State :=
  let map := atN b (off + (a.2.2 + 255) / 256 * 256) (bitmapLen a.2.2)
  (areaRows a).zipIdx.foldl (fun s r =>
    (s.putBuf c a.1 r.1.1 ((b.drop (off + 256 * r.2)).take r.1.2)).markBuf c a.1 r.1.1 r.1.2 (map.testBit r.2)) s

/-- Section 5. -/
def State.restoreAreas (s : State) (c : Coach) (m : Moult) : State :=
  (m.areas.foldl (fun (x : State × Nat) a => (x.1.restoreArea c (m.sec 5) x.2 a, x.2 + areaLen a)) (s, 0)).1

/-! ## Restoring the array and the queues -/

/-- Where the weight area of the q-th quadrant lies. -/
def Moult.weightArea (m : Moult) (q : Nat) : List Byte :=
  if m.froze then (m.sec 7).drop (0x100 + 50176 * q) else (m.sec 6).drop (0x900 + 25600 * q)

/-- The elements of one set from one quadrant's area. -/
def setAt (w : WeightSet) (b : List Byte) (z v h : Nat) : WeightSet :=
  let g := famG w.family
  let width := typeWidth w.ty
  let elems := (List.range 4096).foldl (fun m x =>
    let e := atN b (12288 * z + 3 * x) 3
    (List.range g).foldl (fun m k =>
      SMap.put (fun _ => 0#16) m ((g * (64 * v + x / 64) + k) * 256 + 64 * h + x % 64)
        (BitVec.ofNat 16 (e / 2 ^ (k * width) % 2 ^ width))) m) w.elems
  let scales := (List.range (128 * g)).foldl (fun m x =>
    SMap.put (fun _ => 0#8) m ((v * 2 * g + x / 64) * 256 + 64 * h + x % 64)
      ((b.drop (24576 + 512 * z)).getD x 0#8)) w.scales
  { w with elems := elems, scales := scales }

/-- A set of the array: 0 or 1. -/
def Moult.setOf (m : Moult) (c : Coach) (z : Nat) : Option WeightSet :=
  let b := m.sec 6
  let w0 := at8 b 0
  let size := bits (at8 b 8) (32 * z + 31) (32 * z)
  let extra := bits (at8 b 16) (8 * z + 7) (8 * z)
  if bit w0 (1 + z) = false then none
  else
    let w : WeightSet :=
      { emptySet (BitVec.ofNat 3 (bits w0 (4 * z + 6) (4 * z + 4))) (size % 65536) (size / 65536) (extra % 16)
          (extra.testBit 4) with poison := extra.testBit 5 }
    some ((List.range m.quads).foldl (fun w q => setAt w (m.weightArea q) z (c.place q).1 (c.place q).2) w)

/-- What the word of a matrix operation names: opcode, family and whether b is present. -/
def matWord (i : Instr) : Option (Nat × BitVec 3 × Bool) :=
  match i with
  | .mwld _ _ f => some (opMwld, f, false)
  | .mma _ _ b _ f => some (opMma, f, b != 0#6)
  | .mmas _ _ _ _ f => some (opMmas, f, true)
  | .mgath _ _ _ => some (opMgath, 0#3, true)
  | .mzero _ _ => some (opMzero, 0#3, false)
  | _ => none

/-- The operation of a word of the X map. -/
def matOfWord (w : IWord) (a b c scale : Desc) (pc : Word) (source : Nat) : Option MatOp :=
  ((decodeX (tokOf w) (opOf w) (bodyOf w)).bind matWord).map (fun r =>
    { newMatOp r.1 r.2.1 a b c scale r.2.2 pc (if source = 0 then (tokOf w).push.toNat else 0) source with iword := w })

/-- Entry e of section 6; started operations take their progress from section 7. -/
def Moult.matAt (m : Moult) (sets : Nat → Option WeightSet) (e started : Nat) : Option MatOp :=
  let b := (m.sec 6).drop (0x100 + 256 * e)
  let x := at8 b 16
  if bit (at8 b 0) 35 = false ∧ bit x 19 = false then none
  else
    (matOfWord (BitVec.ofNat 32 (bits (at8 b 0) 31 0)) (descAt b 0x20) (descAt b 0x40) (descAt b 0x60) (descAt b 0x80)
      (word (bits (at8 b 8) 63 47)) (bits (at8 b 0) 33 32)).map (fun o =>
      { o with
        seq := bits (at8 b 8) 41 36
        extents := o.checker
        flags := BitVec.ofNat 9 (bits x 8 0)
        set := match bits x 17 16 with
          | 1 => sets 0
          | 2 => sets 1
          | _ => none
        done := bit x 18
        started := bit x 19
        push := bits x 21 20
        progress := if bit x 19 then bits (at8 (m.sec 7) (32 * (e - started))) 31 0 else 0
        phase := if bit x 19 then BitVec.ofNat 16 (bits (at8 (m.sec 7) (32 * (e - started) + 24)) 15 0) else 0#16 })

/-- The matrix queue, in the order of acceptance. -/
def Moult.matq (m : Moult) (sets : Nat → Option WeightSet) : List MatOp :=
  let waiting := ((List.range 8).filter (fun e => bit (at8 (m.sec 6) (0x100 + 256 * e)) 35)).length
  let ops := (List.range 8).filterMap (fun e => m.matAt sets e waiting)
  ops.filter (fun o => o.started) ++ ops.filter (fun o => !o.started)

/-- A hash state from section 8. -/
def hashAt (b : List Byte) : HashState :=
  { lanes := BitVec.ofNat 1600 (atN b 0 200), pos := bits (at8 b 0xC8) 7 0, poison := bit (at8 b 0xC8) 8 }

/-- The endpoint of a copy command; 8 for none. -/
def copyEndp (i : Instr) (op : Nat) (dst src : Desc) : Nat :=
  match i with
  | .cqbindSend _ q _ _ => q.toNat
  | .cqbindRecv _ q _ _ => q.toNat
  | .cqunbDrain _ q => q.toNat
  | .cqunbDiscard _ q => q.toNat
  | .cqsend _ q _ _ => q.toNat
  | .cqrecv _ q _ _ => q.toNat
  | _ => if op < 0x44 then endpOf dst src else 8

/-- The follow-on that a command still has to enter. -/
def followAt (b : List Byte) (w : IWord) (pc : Word) (stream : Nat) : Option MatOp :=
  matOfWord w (descAt b 0x80) (descAt b 0xA0) (descAt b 0xC0) (descAt b 0xE0) pc (if stream = 1 then 1 else 2)

/-- The command of an L or S stream that the words of a queue entry hold. -/
def commandAt (w : IWord) (rest : List IWord) : Option Instr :=
  if trailingWords .l (opOf w) = 0 then (decodeLS (tokOf w) (opOf w) (bodyOf w)).filter (fun i => i.wf)
  else
    match decodeLong .l w rest with
    | .ok i => if i.wf then some i else none
    | .error _ => none

/-- An entry of the copy queue: it goes on from its progress. -/
def copyAt (b : List Byte) : Option CopyCmd :=
  let x := at8 b 8
  let w := BitVec.ofNat 32 (bits (at8 b 0) 31 0)
  let f := BitVec.ofNat 32 (bits (at8 b 0) 63 32)
  let stream := if bit x 32 then 3 else 1
  let pc := word (bits x 63 47)
  (commandAt w [f]).map (fun i =>
    let op := opOf w
    let dst := descAt b 0x20
    let src := descAt b 0x40
    let value := op == 0x46 || op == 0x4B
    let o : CopyCmd :=
      { ins := i, op := op, dst := dst, src := src, list := descAt b 0x60, pol := (at8 b 0x18).setWidth 32,
        cval := if value then at8 b 16 else 0#64, cpoison := bit x 46,
        count := if op = 0x46 then dst.count else if op = 0x4B then 1 else (at8 b 16).toNat, pc := pc,
        push := (tokOf w).push.toNat, stream := stream, seq := bits x 41 36, extents := [], started := bit x 33, pos := 0,
        nextBeat := bits x 31 0, beats := [],
        follow := if op = 0x41 ∧ bit x 34 = false then followAt b f pc stream else none,
        endp := copyEndp i op dst src, noDst := op == 0x45 && (bodyOf w).extractLsb' 15 6 == 0#6, index := none, near := none }
    let pos := o.posOf (bits x 31 0)
    { o with pos := pos, extents := o.checker })

/-- The copy queue. -/
def Moult.copyq (m : Moult) : List CopyCmd :=
  (List.range ((m.slen 8 - 512) / 256)).filterMap (fun e => copyAt ((m.sec 8).drop (512 + 256 * e)))

/-- An entry of the deferral queue. -/
def deferAt (b : List Byte) : DeferEntry :=
  let d := descAt b 0
  let x := at8 b 0x28
  { seq := bits x 41 36, tile := 0#6, lanes := 32 / d.width, desc := d, base := at8 b 0x20, pc := word (bits x 63 47),
    push := bits x 46 45,
    cells := (List.range 1024).foldl (fun m i =>
      SMap.put (fun _ => 0#32) m i (BitVec.ofNat 32 (atN b (0x200 + 4 * i) 4))) [],
    active := BitVec.ofNat 1024 (atN b 0x100 128), poison := (at8 b 0x30).setWidth 32, progress := bits x 4 0, sent := 0,
    page := none, hit := none }

/-- The deferral queue. -/
def Moult.deferq (m : Moult) : List DeferEntry :=
  (List.range (m.slen 9 / 4608)).map (fun e => deferAt ((m.sec 9).drop (4608 * e)))

/-- An endpoint with its rows; `at_` is the number of the first of them. -/
def Moult.endpAt (m : Moult) (q at_ : Nat) : Endpoint :=
  let b := (m.sec 10).drop (64 * q)
  let w := at8 b 0
  let x := at8 b 0x30
  let recv := bit w 49
  let held := (at8 b 8).toNat
  let next := if recv then (at8 b 0x18).setWidth 32 else (at8 b 0x10).setWidth 32
  let mark := BitVec.ofNat 32 (bits (at8 b 0x28) 31 0)
  { Endpoint.unbound with
    bound := bit w 48
    recv := recv
    handle := bits w 15 0
    peer := bits (at8 b 0x28) 63 32
    circA := BitVec.ofNat 16 (bits w 31 16)
    circB := BitVec.ofNat 16 (bits w 47 32)
    liveA := bit x 1
    liveB := bit x 2
    next := next
    mark := mark
    rows := (List.range held).map (fun i =>
      (mark + BitVec.ofNat 32 i, BitVec.ofNat 2048 (atN (m.sec 10) (512 + 256 * (at_ + i)) 256)))
    credits := (at8 b 0x20).toNat
    closed := bit x 0
    final := BitVec.ofNat 32 (bits x 63 32)
    broken := bit w 50
    accepted := bits x 4 3 }

/-- The endpoints. -/
def Moult.ends (m : Moult) : SMap Endpoint :=
  if m.slen 10 = 0 then []
  else
    ((List.range 8).foldl (fun (x : SMap Endpoint × Nat) q =>
      let e := m.endpAt q x.2
      (SMap.put (fun _ => Endpoint.unbound) x.1 q e, x.2 + e.rows.length)) ([], 0)).1

/-! ## Fault records -/

/-- Record i of section 11, in the name of the new coach. -/
def Moult.recAt (m : Moult) (quad i : Nat) : FaultRec :=
  let b := (m.sec 11).drop (32 * i)
  let r := recordOf (at8 b 0) (at8 b 8) (at8 b 16) (at8 b 24)
  { r with handle := BitVec.ofNat 24 (bits (setBits (r.handle.setWidth 64) 13 5 quad) 23 0) }

/-- Records that had not been delivered. -/
def Moult.undelivered (m : Moult) (quad : Nat) : List FaultRec :=
  (List.range (m.slen 11 / 32 - m.qrec)).map (fun i => m.recAt quad (m.qrec + i))

/-- Records of the parked queues, each with its handling level. -/
def Moult.parked (m : Moult) (quad : Nat) : List FaultRec :=
  (List.range m.qrec).map (fun i =>
    let r := m.recAt quad i
    if (m.undelivered quad).any (fun u => u.handle == r.handle) then r else { r with level := classHome r.cls })

/-- The parked queues are parked again. -/
def Coach.parkAll (c : Coach) (rs : List FaultRec) : Coach :=
  rs.foldl (fun c r => match queueOf (r.handle.toNat % 32) with
    | some k => c.park k (some r)
    | none => c) c

/-! ## The coach -/

/-- Section 2's views. -/
def Coach.views (c : Coach) (m : Moult) : Coach :=
  { c with
    semView := SMap.putAll (fun _ => 0#16) [] 0 ((List.range 64).map (fun v => BitVec.ofNat 16 (atN (m.sec 2) (2 * v) 2)))
    barView := SMap.putAll (fun _ => 0#8) [] 0 (((m.sec 2).drop 0x80).take 16)
    ends := m.ends }

/-- The coach at its binding. -/
def State.moultCoach (s : State) (l : Launch) (m : Moult) (lead : Nat) (p : Nat × Nat) : Coach :=
  let c := newCoach lead m.shape m.slice l.tag p.1 p.2 (m.w 0x18) s.clocks s.tsc
  { c with useA := hdrUsed m.hdr 0, useW := hdrUsed m.hdr 1, useC := hdrUsed m.hdr 2 }.views m

/-- What a thread had not told of. -/
def Moult.silent (m : Moult) (quad t : Nat) : Bool :=
  (m.undelivered quad).any (fun r => r.handle.toNat % 32 == t && !r.eng)

/-- The coach of a KIND 2 record. Its operations keep their order of acceptance; a stream in precise mode that had one
outstanding waits for it again (R151). -/
def Coach.inside (l : Launch) (m : Moult) (c : Coach) : Coach :=
  let b1 := fun (i : Nat) => (m.sec 1).drop (128 * i)
  let idx := (List.range 6).map m.index
  let stream := fun (i : Nat) => streamAt (b1 i) (startStream l idx i)
  let w6 := at8 (m.sec 6) 0
  let sets := m.setOf c
  let x := at8 (b1 2) 0x40
  let c := (List.range 4).foldl (fun c i => c.tokensAt i (at8 (b1 i) 56)) c
  let c : Coach := { c with
    phase := .running
    strands := (List.range 11).foldl (fun n t =>
      SMap.put (fun _ => Strand.start) n t
        (strandAt ((m.sec 0).drop (256 * t)) ((m.sec 2).drop (0x100 + 64 * t)) (!m.silent c.quad t))) []
    sk := stream 0
    sl := stream 1
    sx := stream 2
    ss := stream 3
    descs := (List.range 63).foldl (fun n i => SMap.put (fun _ => Desc.zero) n (i + 1) (descAt (m.sec 3) (32 * (i + 1)))) []
    maskSel := BitVec.ofNat 3 (bits x 2 0)
    resume := BitVec.ofNat 10 (bits x 25 16)
    spx := bit x 32
    iov := bit x 33
    retired := at8 (b1 2) 0x48
    setA := sets 0
    setB := sets 1
    activeB := bit w6 0
    flip := bit w6 32
    kat := if bit w6 33 then some (at8 (m.sec 6) 0x18) else none
    matq := m.matq sets
    hashL := hashAt (m.sec 8)
    hashS := hashAt ((m.sec 8).drop 256)
    copyq := m.copyq
    defer := m.deferq
    nextSeq := 64
    clocks := at8 (b1 0) 48 }
  c.parkAll (m.parked c.quad)

/-- The NABUF commands of a restored coach find their neighbours again (R244). -/
def State.findNear (s : State) (c : Coach) : Coach :=
  { c with copyq := c.copyq.map (fun o =>
      { o with near := if o.src.space = spNabuf then s.neighbour c o.src else none }) }

/-- The lead quadrant gets the code of the launch as a hand-out gives it (R144): nothing when its active plane holds it, else
through the shadow plane and a flip. -/
def Quadrant.giveCode (x : Quadrant) (l : Launch) : Quadrant :=
  let x := x.staleSwap l.tag
  if x.swap then { x with activeB := !x.activeB, swap := false }
  else if x.owner x.activeB = some l.tag then x
  else
    let p := SMap.putAll (fun _ => 0#32) [] 0 l.code
    if x.activeB then { x with planeA := p, ownerA := some l.tag, activeB := false }
    else { x with planeB := p, ownerB := some l.tag, activeB := true }

/-- The partial sums and skew registers of a frozen array (R207). -/
def State.restoreArray (s : State) (c : Coach) (m : Moult) : State :=
  if m.froze = false then s
  else
    c.quads.zipIdx.foldl (fun s q =>
      let b := m.weightArea q.2
      s.updQuad q.1 (fun x =>
        { x with sums := BitVec.ofNat 131072 (atN b 0x6400 16384), skew := BitVec.ofNat 65536 (atN b 0xA400 8192) })) s

/-- The restored coach runs, or is held under a request. -/
def State.heldNow (s : State) (c : Coach) : Coach :=
  let die := quadDie c.quad
  if s.preState die c.slice = 0 then c
  else { c with froze := c.frozeMid }.hold (s.preRung die c.slice) s.tsc s.clocks

/-- A report that came for an endpoint while it was saved is applied at the restoring (R369, R418). -/
def State.applyLate (s : State) (quad q : Nat) (circ : BitVec 16) (node : Nat) : State :=
  match s.heldCq.find? (fun e => e.1 == circ.toNat && e.2.src.toNat == node) with
  | some e => { s with heldCq := SMap.erase s.heldCq circ.toNat }.applyReport quad q e.2
  | none => s

/-- The reports that came for the endpoints of a restored coach. -/
def State.applyAllLate (s : State) (c : Coach) : State :=
  (List.range 8).foldl (fun s q =>
    let e := c.endp q
    if e.bound then (s.applyLate c.quad q e.circA e.peer).applyLate c.quad q e.circB e.peer else s) s

/-- The record is restored into the new coach. -/
def State.restoreMoult (s : State) (l : Launch) (m : Moult) (lead : Nat) (p : Nat × Nat) : State :=
  let die := quadDie lead
  let c := s.moultCoach l m lead p
  let s := c.quads.foldl (fun s q => (s.l1Leave q m.slice).updQuad q (fun x => x.handTo m.slice)) s
  let s := s.updWalker die l.tag (fun w => { w with saved := w.saved - 1, bound := w.bound + 1 })
  let s := s.restoreAreas c m
  let c := if m.kind = 2 then s.findNear (Coach.inside l m c) else c
  let s := if m.kind = 2 then s.restoreArray c m else s
  let s := if m.kind = 2 then s.updQuad lead (fun x => (x.giveCode l).restoreTiles (m.sec 4) m.tiles) else s
  let s : State := { s with coaches := s.coaches ++ [s.heldNow c] }
  let s := s.applyAllLate c
  (m.undelivered lead).foldl (fun s r =>
    s.post r (if r.info then r.slice else levelKey (classHome r.cls) r.slice r.domain) die) s

/-! ## UNMOULT -/

/-- Every valid view entry names something of the slice (check 7). -/
def State.viewsOk (s : State) (c : Coach) : Bool :=
  (List.range 64).all (fun v =>
    let e := (SMap.get (fun _ => 0#16) c.semView v).toNat
    !e.testBit 15 || s.ownsQuad c.slice (4 * quadCore c.quad + e / 32 % 4)) &&
  (List.range 16).all (fun h => !(SMap.get (fun _ => 0#8) c.barView h).getLsbD 7 || (s.barrier c h).isSome)

/-- Every bound endpoint's circuits exist (check 8). -/
def State.circuitsOk (s : State) (c : Coach) : Bool :=
  (List.range 8).all (fun q =>
    let e := c.endp q
    !e.bound || [e.circA, e.circB].all (fun x => x == 0xFFFF#16 || s.circuitOwned c e.recv x.toNat))

/-- Checks 2 to 8 and the restoring of a record that has its form. -/
def unmoult (s : State) (i : Instr) (d : BitVec 4) (c : Caller) (va vb : Word) (lead : Nat) (m : Moult) : Res :=
  let die := quadDie lead
  if c.has s m.slice = false then rightsRes s i
  else
    match s.namedLaunch m.vtag with
    | none => writeS d 4#64 false s
    | some l =>
      if l.slice ≠ m.slice then writeS d 4#64 false s
      else if ((s.walker die l.tag).map (fun w => decide (0 < w.saved))).getD false = false then writeS d 1#64 false s
      else
        let qs := shapeQuads m.shape lead
        if (shapeLeads m.shape die).contains lead = false ∨ qs.all (s.ownsQuad m.slice) = false then badOperand s va
        else if qs.all (s.quadFree m.slice) = false then writeS d 1#64 false s
        else
          match s.moultPoint l m die with
          | none => badOperand s vb
          | some p =>
            let co := s.moultCoach l m lead p
            if s.viewsOk co = false ∨ s.circuitsOk co = false then badOperand s vb
            else writeS d 0#64 false (s.restoreMoult l m lead p)

/-- Check 1, with the loop-nest record of the header's LNR field, which is read through SLICE's translation. -/
def unmoultBytes (s : State) (i : Instr) (d : BitVec 4) (c : Caller) (va vb : Word) (lead : Nat) (b : List Byte) :
    Res :=
  match s.hwWords (s.hwWho (quadDie lead) (bits (at8 b 8) 21 16)) false (bits (at8 b 16) 55 0) (List.range 32) with
  | (.fault _ _ _, _) => badOperand s vb
  | (.later s, _) => .wait s .fence
  | (.ok s h, _) =>
    let m : Moult := { bytes := b, hdr := h }
    if m.ok then unmoult s i d c va vb lead m else badOperand s vb

/-- UNMOULT. -/
def execUnmoult (k : Tok) (d a b : BitVec 4) (s : State) : Host.Outcome State Fault Refusal :=
  let i := Instr.unmoult k d a b
  sysForm 2 (some rightPreempt) i k a b (fun s c =>
    let va := s.reg a
    let vb := s.reg b
    withMaster s i c va
      (fun m => match m with
        | .coach _ p => p == 31
        | _ => false)
      (fun m => match m with
        | .coach q _ =>
          if vb.toNat % 256 ≠ 0 then badOperand s vb
          else
            loadBytes s vb 256 0 0 (fun s head _ =>
              let n := bits (at8 head 0) 63 32
              if n % 256 ≠ 0 ∨ n < 256 ∨ bits (at8 head 0) 15 0 ≠ 1 then badOperand s vb
              else
                loadBytes s vb n 0 0 (fun s bs p => consume p s (unmoultBytes s i d c va vb q bs)))
        | _ => .gone s)) s

end Sys2Proof.Machine
end

