-- ==== Sys2Proof/Machine/Switch.lean ====
section
/-! DEFINITION. Switch: the words of a context switch: QMAP, QUNMAP, SEMMAP, BARMAP, WALKSAVE and WALKLOAD
(R365-R368). -/

namespace Sys2Proof.Machine

/-! ## Queues (R366) -/

/-- A taken launch that has started nothing returns to its ring: its tag goes to FREE and its generation advances. -/
def State.returnLaunch (s : State) (l : Launch) : State :=
  let s : State := { s with
    launches := s.launches.filter (fun x => x.tag != l.tag)
    walkers := s.walkers.filter (fun w => w.tag != l.tag) }
  ((s.setTag l.tag { st := .free, gen := (s.tag l.tag).gen + 1#4 }).dropLatches l.slice l.args).disown l.tag

/-- The launches that a slot has taken and that have not retired. -/
def State.slotLaunches (s : State) (die k : Nat) : List Launch :=
  ((s.slot die k).taken.filter (fun t => t != 4096)).filterMap s.launch?

/-- A slot is freed: its launches return, nothing of its queue stands in it, and a scan is to run (R258). -/
def State.freeSlotOf (s : State) (die k : Nat) : State :=
  (((s.slotLaunches die k).foldl State.returnLaunch s).updSlot die k (fun _ => Slot.reset)).updDie die (fun x =>
    { x with scans := x.scans ++ [none] })

/-- QMAP's effect where the queue goes to a free slot. -/
def State.qmapTo (s : State) (die k slice q : Nat) (pinned : Bool) (e : QEntry) : Option State :=
  if e.en then s.mapQueue die k slice q pinned e
  else
    let h := BitVec.ofNat 32 e.head
    let s := s.updSlot die k (fun _ => { Slot.reset with queue := some (slice, q), pinned := pinned, head := h, tail := h })
    some ((s.putPend die slice q false).orElse s)

/-- QMAP. -/
def execQmap (k : Tok) (d a b : BitVec 4) (s : State) : Host.Outcome State Fault Refusal :=
  let i := Instr.qmap k d a b
  sysForm 2 (some rightQueue) i k a b (fun s c =>
    let vb := s.reg b
    let slot := bits vb 5 0
    queueForm i s (s.reg a) (fun slice q =>
      if bits vb 63 9 ≠ 0 ∨ bits vb 7 6 ≠ 0 then badOperand s vb
      else if bit vb 8 ∧ c.level = 2 then rightsRes s i
      else if s.sliceOnDie slice c.die = false then badOperand s (s.reg a)
      else
        match s.mappedTo slice q with
        | some m =>
          if m = (c.die, slot) then writeS d 0#64 false (s.updSlot c.die slot (fun x => { x with pinned := bit vb 8 }))
          else writeS d 1#64 false s
        | none =>
          if (s.slot c.die slot).queue.isSome ∨ (s.slotLaunches c.die slot).isEmpty = false then writeS d 1#64 false s
          else
            match s.readQueue c.die slice q with
            | .later s => .wait s .fence
            | .fault code f p => .fault s code (some f) p
            | .ok s e =>
              match s.qmapTo c.die slot slice q (bit vb 8) e with
              | some t => writeS d 0#64 false t
              | none => .wait s .fence)) s

/-- QUNMAP: with TAIL past HEAD the queue is pending again. -/
def execQunmap (k : Tok) (d a : BitVec 4) (s : State) : Host.Outcome State Fault Refusal :=
  let i := Instr.qunmap k d a
  sysForm 2 (some rightQueue) i k a 0#4 (fun s c =>
    queueForm i s (s.reg a) (fun slice q =>
      match s.mappedTo slice q with
      | none => writeS d 1#64 false s
      | some m =>
        if (s.slotLaunches m.1 m.2).any (fun l => l.started != 0#4) then writeS d 1#64 false s
        else
          match s.readQueue c.die slice q with
          | .later s => .wait s .fence
          | .fault code f p => .fault s code (some f) p
          | .ok s e =>
            let t := s.freeSlotOf m.1 m.2
            if e.head = e.tail then writeS d 0#64 false t
            else
              match t.makePending c.die slice q e with
              | .ok t _ => writeS d 0#64 false t
              | .later _ => .wait s .fence
              | .fault code f p => .fault s code (some f) p)) s

/-! ## Images -/

/-- An exchange of an image of n bytes at an address: the new one is read, `f` says what takes effect and what the old one
was, and the old one is written. -/
def exchange (s : State) (d : BitVec 4) (va : Word) (n : Nat) (f : State → List Byte → Except Res (State × List Byte)) : Res :=
  loadBytes s va n 0 0 (fun s bs p => consume p s (s.clearTo va n .write
    (match f s bs with
    | .error r => r
    | .ok (t, old) =>
      match t.storePieces pmStore 0 none va.toNat old (linePieces va.toNat n) with
      | .error r => r
      | .ok t => writeS d 0#64 false t)))

/-- A coach with this lead may take new views: it is held, frozen, or stopped on a fault. -/
def Coach.atRest (c : Coach) : Bool :=
  c.held.isSome || c.frozen ||
  (List.range 11).any (fun p => match (c.strand p).run with
    | .stopped _ => true
    | _ => false)

/-- The coach of a lead quadrant, when it may take new views. -/
def State.resting (s : State) (quad : Nat) : Option Coach := (s.coach? quad).filter Coach.atRest

/-! ## SEMMAP (R367) -/

/-- The counts of a quadrant and the image that they leave. -/
def State.swapCounts (s : State) (quad : Nat) (bs : List Byte) : State × List Byte :=
  let x := s.quad quad
  let old := (List.range 32).flatMap (fun i => bytesOfNat 2 (SMap.get (fun _ => 0#16) x.sems i).toNat)
  let new := (List.range 32).map (fun i => BitVec.ofNat 16 (natOfBytes ((bs.drop (2 * i)).take 2)))
  let owner := s.quadOwner quad
  (s.updQuad quad (fun x => { x with sems := SMap.putAll (fun _ => 0#16) [] 0 new, stale := 0#32, semSlice := owner }),
    old ++ List.replicate 64 0#8)

/-- The entries of an image, of n bytes each. -/
def entriesOf (bs : List Byte) (n count : Nat) : List Nat :=
  (List.range count).map (fun i => natOfBytes ((bs.drop (n * i)).take n))

/-- SEMMAP. -/
def execSemmap (k : Tok) (d a b : BitVec 4) (s : State) : Host.Outcome State Fault Refusal :=
  let i := Instr.semmap k d a b
  sysForm 2 (some rightSched) i k a b (fun s c =>
    let va := s.reg a
    let vb := s.reg b
    let quad := bits va 13 5
    if bits va 63 14 ≠ 0 ∨ bits va 4 1 ≠ 0 then badOperand s va
    else if vb.toNat % 128 ≠ 0 ∨ 0x40000 ≤ vb.toNat then badOperand s vb
    else if s.masterOk c (.coach quad 31) = false then rightsRes s i
    else if bit va 0 = false then
      if (s.quad quad).semWait.isEmpty = false then writeS d 1#64 false s
      else
        exchange s d vb 128 (fun s bs =>
          if (bs.drop 64).all (fun x => x == 0#8) then .ok (s.swapCounts quad bs) else .error (badOperand s vb))
    else
      match s.resting quad with
      | none => writeS d 1#64 false s
      | some co =>
        exchange s d vb 128 (fun s bs =>
          let es := entriesOf bs 2 64
          if es.all (fun e => !e.testBit 15 || s.ownsQuad co.slice (4 * quadCore quad + e / 32 % 4)) then
            .ok (s.updCoach quad (fun c => { c with semView := SMap.putAll (fun _ => 0#16) [] 0 (es.map (BitVec.ofNat 16)) }),
              (List.range 64).flatMap (fun v => bytesOfNat 2 (SMap.get (fun _ => 0#16) co.semView v).toNat))
          else .error (badOperand s vb))) s

/-! ## BARMAP (R368) -/

/-- A caller may exchange a barrier that is owned so. -/
def mayExchange (s : State) (c : Caller) (owner : Nat) : Bool :=
  match c.level with
  | 0 => true
  | 1 => !owner.testBit 7 || c.has s (owner % 64)
  | _ => owner.testBit 7 && owner % 64 == c.served

/-- Bits of a barrier's state word that hold a field. -/
def barFields : Word := field 63 48 ||| field 37 18 ||| field 15 0

/-- A barrier takes a new state and owner; one with a parity error leaves an image of zeros. -/
def State.swapBarrier (s : State) (b : Nat) (w : Word) (owner : Nat) : State × List Byte :=
  let was := (SMap.get (fun _ => 0#8) s.barOwner b).toNat
  let old := if SMap.get noFlag s.barError b then List.replicate 16 0#8 else bytesOf8 (s.bar b) ++ bytesOfNat 8 was
  let s := s.setBar b (w &&& barFields)
  ({ s with
      barOwner := SMap.put (fun _ => 0#8) s.barOwner b (BitVec.ofNat 8 owner)
      barError := SMap.put noFlag s.barError b false }, old)

/-- A strand waits at a barrier. -/
def State.barWaiting (s : State) (b : Nat) : Bool :=
  s.coaches.any (fun c => quadCluster c.quad == b / 16 && (List.range 11).any (fun p => s.waitsAt c b (c.strand p)))

/-- BARMAP. -/
def execBarmap (k : Tok) (d a b : BitVec 4) (s : State) : Host.Outcome State Fault Refusal :=
  let i := Instr.barmap k d a b
  sysForm 2 (some rightSched) i k a b (fun s c =>
    let va := s.reg a
    let vb := s.reg b
    let view := bit va 0
    if bits va 63 14 ≠ 0 ∨ bit va 1 ∨ (view = false ∧ bits va 11 9 ≠ 0) ∨ (view ∧ bits va 4 1 ≠ 0) then badOperand s va
    else if vb.toNat % 16 ≠ 0 ∨ 0x40000 ≤ vb.toNat then badOperand s vb
    else if view then
      let quad := bits va 13 5
      if s.masterOk c (.coach quad 31) = false then rightsRes s i
      else
        match s.resting quad with
        | none => writeS d 1#64 false s
        | some co =>
          exchange s d vb 16 (fun s bs =>
            let t := s.updCoach quad (fun c => { c with barView := SMap.putAll (fun _ => 0#8) [] 0 bs })
            let ok := (t.coach? quad).map (fun n => (List.range 16).all (fun h =>
              !(bs.getD h 0#8).getLsbD 7 || (t.barrier n h).isSome))
            if ok = some true then .ok (t, (List.range 16).map (fun h => SMap.get (fun _ => 0#8) co.barView h))
            else .error (badOperand s vb))
    else
      let n := (bits va 13 12 * 8 + bits va 8 6) * 16 + bits va 5 2
      let was := (SMap.get (fun _ => 0#8) s.barOwner n).toNat
      if mayExchange s c was = false then rightsRes s i
      else if s.barWaiting n then writeS d 1#64 false s
      else
        exchange s d vb 16 (fun s bs =>
          let owner := (bs.getD 8 0#8).toNat
          if mayExchange s c owner then .ok (s.swapBarrier n (wordOf8 (bs.take 8)) owner) else .error (rightsRes s i))) s

/-! ## WALKSAVE and WALKLOAD (R365) -/

/-- The operands of a walk word: the launch that a names, and the status of a stale version tag. -/
def walkForm (i : Instr) (k : Tok) (d a b : BitVec 4) (f : State → Caller → Launch → Word → Res) :
    State → Host.Outcome State Fault Refusal :=
  sysForm 2 (some rightPreempt) i k a b (fun s c =>
    let va := s.reg a
    let vb := s.reg b
    if bits va 63 16 ≠ 0 then badOperand s va
    else if vb.toNat % 64 ≠ 0 then badOperand s vb
    else
      match s.namedLaunch va.toNat with
      | none => writeS d 4#64 false s
      | some l => if c.has s l.slice then f s c l vb else rightsRes s i)

/-- A walk record. -/
def walkRecord (s : State) (w : WalkEntry) (l : Launch) : List Byte :=
  layOut 64 [dwords 0 [word (w.die * 2 ^ 16 + (s.vtag l.tag).toNat), word w.next, word w.total, word w.saved,
    word (bits l.lnr 55 0)]]

/-- WALKSAVE: the launch keeps everything but its entry. It parks until its writes have performed (R357). -/
def execWalksave (k : Tok) (d a b : BitVec 4) (s : State) : Host.Outcome State Fault Refusal :=
  walkForm (.walksave k d a b) k d a b (fun s c l vb =>
    if s.me.reply.isEmpty = false then
      if s.storesLeft then .wait s .fence else writeS d 0#64 false s
    else
      match s.walker c.die l.tag with
      | none => writeS d 1#64 false s
      | some w =>
        if s.preState c.die l.slice ≠ 2 ∨ s.coaches.any (fun o => o.tag == l.tag && quadDie o.quad == c.die) then
          writeS d 1#64 false s
        else
          s.clearTo vb 64 .write
            (match s.storePieces pmStore 0 none vb.toNat (walkRecord s w l) (linePieces vb.toNat 64) with
            | .error r => r
            | .ok s =>
              let s := { s with walkers := s.walkers.filter (fun w => w.die != c.die || w.tag != l.tag) }
              if s.storesLeft then .wait (s.addReply [0#8] false) .fence else writeS d 0#64 false s)) s

/-- WALKLOAD. -/
def execWalkload (k : Tok) (d a b : BitVec 4) (s : State) : Host.Outcome State Fault Refusal :=
  walkForm (.walkload k d a b) k d a b (fun s c l vb =>
    loadBytes s vb 64 0 0 (fun s bs p => consume p s
      (let next := bits (at8 bs 8) 47 0
      let total := bits (at8 bs 16) 47 0
      if bits (at8 bs 0) 15 0 ≠ (s.vtag l.tag).toNat ∨ bits (at8 bs 0) 17 16 ≠ c.die ∨ bits (at8 bs 0x20) 55 0 ≠ bits l.lnr 55 0 ∨
          total < next ∨ total ≠ s.spatial l c.die then
        badOperand s vb
      else if (s.walker c.die l.tag).isSome ∨ 64 ≤ (s.walkers.filter (fun w => w.die == c.die)).length then writeS d 1#64 false s
      else
        let w : WalkEntry :=
          { die := c.die, tag := l.tag, next := next, total := total, saved := bits (at8 bs 24) 31 0, bound := 0 }
        writeS d 0#64 false { s with walkers := s.walkers ++ [w] }))) s

end Sys2Proof.Machine
end

