-- ==== Sys2Proof/Machine/Slots.lean ====
section
/-! DEFINITION. Slots: SLOTW and the writing of slot tables (R414, R416, R417). -/

namespace Sys2Proof.Machine

/-! ## The image (R417) -/

/-- An image in private memory: its entries, as slot and entry, or the first doubleword that is malformed. -/
def State.slotImage (s : State) (die at_ : Nat) : Except Nat (List (Nat × Nat)) :=
  let head := s.pmWord die at_
  let n := bits head 8 0
  if bits head 63 9 ≠ 0 ∨ n = 0 ∨ 256 < n then .error 0
  else
    let ws := (List.range n).map (fun i => s.pmWord die (at_ + 8 + 8 * i))
    let es := ws.map (fun w => (bits w 39 32, bits w 31 0))
    let bad := fun (i : Nat) =>
      let w := ws.getD i 0#64
      bits w 63 40 != 0 || bits w 20 16 != 0 || ((es.take i).any (fun e => e.1 == bits w 39 32))
    match (List.range n).find? bad with
    | some i => .error (i + 1)
    | none => .ok es

/-- The domain fabric block. -/
def fabricBlock (d : Nat) : Nat := 0x3A400 + 32 * d

/-- An entry's circuit lies in its domain's range, and its input may feed the table (check 3). -/
def State.slotOk (s : State) (die table e : Nat) : Bool :=
  let w := s.pmWord die (fabricBlock (s.sliceDomain die (slotSlice e)) + 8)
  decide (bits w 63 48 ≤ slotCirc e) && decide (slotCirc e < bits w 63 48 + bits w 47 32) && slotIn e != 7 && slotIn e != table

/-- A table with new entries. -/
def State.tableWith (s : State) (die table : Nat) (es : List (Nat × Nat)) : List Nat :=
  (List.range 256).map (fun i => ((es.find? (fun e => e.1 == i)).map (fun e => e.2)).getD (s.slotEntry die table i))

/-- SHARE of a domain in a table. -/
def State.tableShare (s : State) (die dom table : Nat) : Nat := (s.pmByte die (fabricBlock dom + 16 + table)).toNat

/-- No domain holds more of a table than its share (check 4). -/
def State.sharesOk (s : State) (die table : Nat) (t : List Nat) : Bool :=
  (List.range 16).all (fun d =>
    decide ((t.filter (fun e => slotV e && s.sliceDomain die (slotSlice e) == d)).length ≤ s.tableShare die d table))

/-! ## SLOTW -/

/-- The count that SLOTW gives: every entry, or those of the caller's domain. -/
def State.slotCount (s : State) (c : Caller) (die table : Nat) : Nat :=
  let dom := if c.level = 2 then s.sliceDomain die c.served else c.served
  ((List.range 256).filter (fun i =>
    let e := s.slotEntry die table i
    slotV e && (c.level == 0 || s.sliceDomain die (slotSlice e) == dom))).length

/-- A strand's entries wait for a frame. -/
def State.slotsWait (s : State) (die who : Nat) : Bool := (s.die die).slotNew.any (fun e => e.2.2.2 == who)

/-- SLOTW. -/
def execSlotw (k : Tok) (d a b : BitVec 4) (s : State) : Host.Outcome State Fault Refusal :=
  let i := Instr.slotw k d a b
  sysForm 2 (some rightSlottab) i k a b (fun s c =>
    let va := s.reg a
    let vb := s.reg b
    let die := bits va 13 12
    let table := bits va 3 0
    let who := c.die * 8 + c.k
    let bad := fun (n : Nat) => Res.fault s codeSlotTable (some vb) (some (word n))
    if bits va 63 14 ≠ 0 ∨ bits va 11 4 ≠ 0 ∨ table = 7 then badOperand s va
    else if vb.toNat % 8 ≠ 0 ∨ 0x40000 ≤ vb.toNat then badOperand s vb
    else if s.me.granted then writeS d (word (s.slotCount c die table)) false s
    else if s.slotsWait die who then .wait s (.frame die)
    else
      match s.slotImage c.die vb.toNat with
      | .error n => bad n
      | .ok es =>
        let mine := fun (e : Nat) => !slotV e || c.has s (slotSlice e)
        if es.any (fun e => !mine (s.slotEntry die table e.1) || !mine e.2) then rightsRes s i
        else
          match (List.range es.length).find? (fun n =>
            let e := (es.getD n (0, 0)).2
            slotV e && !s.slotOk die table e) with
          | some n => bad (n + 1)
          | none =>
            if s.sharesOk die table (s.tableWith die table es) = false then bad 0
            else
              let new := es.map (fun e => (table, e.1, BitVec.ofNat 32 e.2, who))
              .wait (s.updDie die (fun x => { x with slotNew := x.slotNew ++ new })) (.frame die)) s

/-- The strand that a number in slotNew names. -/
def slotWriter (who : Nat) : ThreadId := .dray (who / 8) (who % 8)

/-- A SLOTW was issued a frame ago or more. -/
def State.frameOver (s : State) (who : Nat) : Bool :=
  ((s.strand? (slotWriter who)).map (fun st => decide (320 ≤ (s.tsc - st.since).toNat))).getD true

/-- SLOT_TABLE_UPDATE (R417): at the start of a frame the entries of every SLOTW that waits take effect together. -/
def execSlotTableUpdate (die : Nat) (s : State) : Host.Outcome State Fault Refusal :=
  let now := (s.die die).slotNew.filter (fun e => s.frameOver e.2.2.2)
  let s := s.updDie die (fun x => { x with
    slotTab := now.foldl (fun m e => SMap.put (fun _ => 0#32) m (e.1 * 256 + e.2.1) e.2.2.1) x.slotTab
    slotNew := x.slotNew.filter (fun e => !now.contains e) })
  .next ((now.map (fun e => e.2.2.2)).eraseDups.foldl (fun s w =>
    s.updStrand (slotWriter w) (fun st => { st with granted := true })) s)

end Sys2Proof.Machine
end

