-- ==== Sys2Proof/Machine/Weights.lean ====
section
/-! DEFINITION. Weights: WSET in its four forms and WSWAP (R397-R401). -/

namespace Sys2Proof.Machine

/-! ## Operands and status (R400) -/

/-- Code of a copy's state. -/
def CopyState.code (c : CopyState) : Nat :=
  match c with
  | .empty => 0
  | .building => 1
  | .verified => 2
  | .active => 3
  | .draining => 4
  | .failed => 5

/-- A set of a slice; one that does not exist has two EMPTY copies. -/
def State.wsetOr (s : State) (slice handle : Nat) : WSet :=
  (s.wsetOf slice handle).getD { slice := slice, handle := handle, a := WCopy.reset, b := WCopy.reset }

/-- The status word. -/
def State.wsetWord (s : State) (slice handle status : Nat) : Word :=
  let w := s.wsetOr slice handle
  word (s.latchCount slice handle true * 2 ^ 48 + s.latchCount slice handle false * 2 ^ 32 + flagNat w.active.isSome * 2 ^ 17 +
    flagNat (w.active == some true) * 2 ^ 16 + w.b.st.code * 2 ^ 12 + w.a.st.code * 2 ^ 8 + status)

/-- The a operand of a weight word. -/
structure WRef where
  slice  : Nat
  shard  : Nat
  copy   : Bool
  handle : Nat

/-- The operand that a word keeps: zero bits, a handle, SHARD of WSET.SHARD only, COPY of WSET only. -/
def wrefOf (v : Word) (shards copies : Bool) : Option WRef :=
  if bits v 63 46 ≠ 0 ∨ bits v 39 32 ≠ 0 ∨ bits v 19 17 ≠ 0 ∨ bits v 15 0 = 0 ∨ (shards = false ∧ bits v 31 20 ≠ 0) ∨
      (copies = false ∧ bit v 16) then none
  else some { slice := bits v 45 40, shard := bits v 31 20, copy := bit v 16, handle := bits v 15 0 }

/-- A weight word: its operand and its authority. -/
def weightForm (i : Instr) (k : Tok) (a b : BitVec 4) (shards copies : Bool) (f : State → WRef → Res) :
    State → Host.Outcome State Fault Refusal :=
  sysForm 2 (some rightWeight) i k a b (fun s c =>
    match wrefOf (s.reg a) shards copies with
    | none => badOperand s (s.reg a)
    | some r => if c.has s r.slice then f s r else rightsRes s i)

/-- A weight word completes with a status. -/
def wsetDone (s : State) (d : BitVec 4) (r : WRef) (status : Nat) : Res :=
  writeS d (s.wsetWord r.slice r.handle status) false s

/-- A weight word has taken its effect and faults: EPC is the next word, FPROG names the copy, the shard and the fetches. -/
def wsetFault (s : State) (r : WRef) (vb : Word) (code fetches : Nat) : Res :=
  .trap s code (some vb) (some (word (r.handle + flagNat r.copy * 2 ^ 16 + r.shard * 2 ^ 20 + fetches * 2 ^ 32)))

/-! ## The manifest (R398) -/

/-- TOTAL and N of a manifest. -/
def manifestTotal (b : List Byte) : Nat := (at8 b 8).toNat
def manifestCount (b : List Byte) : Nat := atN b 16 4

/-- The head of a manifest keeps R398. -/
def manifestHeadOk (b : List Byte) : Bool :=
  at8 b 0 == 1#64 && decide (1 ≤ manifestTotal b) && decide (manifestTotal b ≤ 2 ^ 40) && decide (1 ≤ manifestCount b) &&
  decide (manifestCount b ≤ 4096) && ((b.drop 20).take 44).all (fun x => x == 0#8)

/-- Shard i: offset, length and digest. -/
def manifestShard (b : List Byte) (i : Nat) : Nat × Nat × BitVec 256 :=
  ((at8 b (64 + 48 * i)).toNat, (at8 b (72 + 48 * i)).toNat, BitVec.ofNat 256 (atN b (80 + 48 * i) 32))

def manifestShards (b : List Byte) : List (Nat × Nat × BitVec 256) := (List.range (manifestCount b)).map (manifestShard b)

/-- Shards are aligned, end at or below TOTAL, and share no byte. -/
def shardsOk (total : Nat) (l : List (Nat × Nat × BitVec 256)) : Bool :=
  match l with
  | [] => true
  | x :: l =>
    x.1 % 64 == 0 && x.2.1 % 64 == 0 && decide (x.1 + x.2.1 ≤ total) &&
    l.all (fun y => decide (x.1 + x.2.1 ≤ y.1) || decide (y.1 + y.2.1 ≤ x.1) || x.2.1 == 0 || y.2.1 == 0) && shardsOk total l

/-- Where the public key begins, and its length. -/
def manifestKeyAt (b : List Byte) : Nat := 64 + 48 * manifestCount b
def publicKeyLen : Nat := 1793

/-- The publisher's key and signature check out. -/
def State.manifestSigned (s : State) (slice : Nat) (b : List Byte) : Bool :=
  let at_ := manifestKeyAt b
  let key := (b.drop at_).take publicKeyLen
  let sig := b.drop (at_ + publicKeyLen + 2)
  shake256 key 32 == s.pmBytes (slice % 4) (0x3A600 + 64 * slice + 16) 32 &&
  Config.falconVerifies key sig (shake256 (b.take at_) 32)

/-! ## The pool (R397, R401) -/

/-- Units of the pool that a slice's copies hold. -/
def State.poolUsed (s : State) (slice : Nat) : List (Nat × Nat) :=
  (s.wsets.filter (fun w => w.slice == slice)).flatMap (fun w => [(w.a.base, w.a.units), (w.b.base, w.b.units)])

def State.poolLen (s : State) (slice : Nat) : Nat := bits (s.pmWord (slice % 4) (0x3A600 + 64 * slice + 8)) 31 0

/-- The lowest run of free units: it begins at the pool's base or where a copy ends. -/
def State.poolRun (s : State) (slice n : Nat) : Option Nat :=
  let used := s.poolUsed slice
  let starts := 0 :: used.map (fun u => u.1 + u.2)
  let ok := starts.filter (fun x => decide (x + n ≤ s.poolLen slice) &&
    used.all (fun u => u.2 == 0 || decide (x + n ≤ u.1) || decide (u.1 + u.2 ≤ x)))
  ok.min?

/-- A copy's state. -/
def State.copyOf (s : State) (r : WRef) : WCopy := (s.wsetOr r.slice r.handle).copy r.copy

/-- Changing a copy of a set, which comes to exist. -/
def State.putCopy (s : State) (r : WRef) (c : WCopy) : State :=
  let s := if (s.wsetOf r.slice r.handle).isSome then s
    else { s with wsets := s.wsets ++ [s.wsetOr r.slice r.handle] }
  s.updWset r.slice r.handle (fun w => w.setCopy r.copy c)

/-! ## WSET: create (R401) -/

/-- A manifest that keeps its form: key, signature, room, and the copy enters BUILDING. -/
def wsetBuild (s : State) (d : BitVec 4) (r : WRef) (vb : Word) (b : List Byte) : Res :=
  if s.manifestSigned r.slice b = false then wsetFault s r vb codeWsetSignature 0
  else if (s.wsetOf r.slice r.handle).isNone ∧ 64 ≤ (s.wsets.filter (fun w => w.slice == r.slice)).length then
    wsetFault s r vb codeWsetNospace 0
  else
    let n := (manifestTotal b + 2 ^ 21 - 1) / 2 ^ 21
    match s.poolRun r.slice n with
    | none => wsetFault s r vb codeWsetNospace 0
    | some base =>
      let shards := (manifestShards b).map (fun x => (x.1, x.2.1, x.2.2, false))
      wsetDone (s.putCopy r { st := .building, base := base, units := n, shards := shards }) d r 0

/-- The manifest is read in three parts: its head, its shards with the key and the signature's length, its signature. -/
def wsetManifest (s : State) (d : BitVec 4) (r : WRef) (vb : Word) : Res :=
  loadBytes s vb 64 0 0 (fun s b p => consume p s
    (if manifestHeadOk b = false then badOperand s vb
    else
      let head := manifestKeyAt b + publicKeyLen + 2
      loadBytes s vb head 0 0 (fun s b p => consume p s
        (let l := atN b (head - 2) 2
        if 1280 < l ∨ shardsOk (manifestTotal b) (manifestShards b) = false then badOperand s vb
        else loadBytes s vb (head + l) 0 0 (fun s b p => consume p s (wsetBuild s d r vb b))))))

/-- WSET: create. -/
def execWset (k : Tok) (d a b : BitVec 4) (s : State) : Host.Outcome State Fault Refusal :=
  weightForm (.wset k d a b) k a b false true (fun s r =>
    if (s.copyOf r).st ≠ .empty then wsetDone s d r 1 else wsetManifest s d r (s.reg b)) s

/-! ## WSET.SHARD -/

/-- The shard's bytes go to the copy, line by line, through the slice's translation. -/
def State.putShard (s : State) (w : Who) (a : Nat) (bs : List Byte) (ps : List (Nat × Nat)) : Hw Unit :=
  match ps with
  | [] => .ok s ()
  | p :: ps =>
    match s.hwPut w false p.1 ((bs.drop (p.1 - a)).take p.2) with
    | .ok s _ => s.putShard w a bs ps
    | r => r

/-- A fetch of a shard has failed: it is made again from its start, up to three more times; after the fourth the copy fails. -/
def shardFail (s : State) (r : WRef) (vb : Word) : Res :=
  let c := s.copyOf r
  if 3 ≤ c.fetches then wsetFault (s.putCopy r { c with st := .failed, fetches := 0 }) r vb codeWsetShard 4
  else
    .wait ((s.putCopy r { c with fetches := c.fetches + 1 }).updMe (fun st => { st with reply := [], replyPoison := false })) .fence

/-- The shard's bytes have come: they are moved, and their digest is checked (R223, R224). -/
def shardMove (s : State) (d : BitVec 4) (r : WRef) (vb : Word) (x : Nat × Nat × BitVec 256 × Bool) (bs : List Byte)
    (pois : Bool) : Res :=
  let c := s.copyOf r
  let at_ := (s.copyBase r.slice c).toNat + x.1
  if pois then shardFail s r vb
  else
    match s.putShard (s.hwWho (r.slice % 4) r.slice) at_ bs (linePieces at_ bs.length) with
    | .fault _ _ _ => shardFail s r vb
    | .later s => .wait s .fence
    | .ok s _ =>
      if BitVec.ofNat 256 (natOfBytes (shake256 bs 32)) ≠ x.2.2.1 then shardFail s r vb
      else wsetDone (s.putCopy r { c with shards := c.shards.set r.shard (x.1, x.2.1, x.2.2.1, true), fetches := 0 }) d r 0

/-- WSET.SHARD. -/
def execWsetShard (k : Tok) (d a b : BitVec 4) (s : State) : Host.Outcome State Fault Refusal :=
  weightForm (.wsetShard k d a b) k a b true true (fun s r =>
    let c := s.copyOf r
    if (s.wsetOf r.slice r.handle).isNone then wsetDone s d r 5
    else if c.st ≠ .building then wsetDone s d r 1
    else
      match c.shards[r.shard]? with
      | none => badOperand s (s.reg a)
      | some x =>
        if x.2.2.2 then wsetDone s d r 1
        else if x.2.1 = 0 then shardMove s d r (s.reg b) x [] false
        else
          match loadBytes s (s.reg b) x.2.1 0 0 (fun s bs p => shardMove s d r (s.reg b) x bs p) with
          | .fault s _ _ _ => shardFail s r (s.reg b)
          | o => o) s

/-! ## WSET.VERIFY, WSET.FREE and WSWAP -/

/-- WSET.VERIFY. -/
def execWsetVerify (k : Tok) (d a : BitVec 4) (s : State) : Host.Outcome State Fault Refusal :=
  weightForm (.wsetVerify k d a) k a 0#4 false true (fun s r =>
    let c := s.copyOf r
    if (s.wsetOf r.slice r.handle).isNone then wsetDone s d r 5
    else if c.st = .building ∧ c.shards.all (fun x => x.2.2.2) then wsetDone (s.putCopy r { c with st := .verified }) d r 0
    else wsetDone s d r 1) s

/-- WSET.FREE. -/
def execWsetFree (k : Tok) (d a : BitVec 4) (s : State) : Host.Outcome State Fault Refusal :=
  weightForm (.wsetFree k d a) k a 0#4 false true (fun s r =>
    if (s.wsetOf r.slice r.handle).isNone then wsetDone s d r 5
    else
      match (s.copyOf r).st with
      | .empty => wsetDone s d r 1
      | .active => wsetDone s d r 1
      | .draining => wsetDone s d r 1
      | _ => wsetDone (s.putCopy r WCopy.reset) d r 0) s

/-- The switch: the VERIFIED copy serves, and the former one drains or is EMPTY. -/
def WSet.swap (w : WSet) : Option WSet :=
  let other := w.active.map (fun b => !b)
  let cand : Option Bool := match other with
    | some b => if (w.copy b).st = .verified then some b else none
    | none => if w.a.st = .verified then some false else if w.b.st = .verified then some true else none
  if w.a.st = .draining ∨ w.b.st = .draining then none
  else cand.map (fun b =>
    let w := match w.active with
      | some o => w.setCopy o { w.copy o with st := .draining }
      | none => w
    w.setCopy b { w.copy b with st := .active })

/-- WSWAP. -/
def execWswap (k : Tok) (d a : BitVec 4) (s : State) : Host.Outcome State Fault Refusal :=
  weightForm (.wswap k d a) k a 0#4 false false (fun s r =>
    match s.wsetOf r.slice r.handle with
    | none => wsetDone s d r 5
    | some w =>
      match w.swap with
      | none => wsetDone s d r 1
      | some n => wsetDone ((s.updWset r.slice r.handle (fun _ => n)).drainCopies r.slice r.handle) d r 0) s

end Sys2Proof.Machine
end

