-- ==== Sys2Proof/Machine/Migrate.lean ====
section
/-! DEFINITION. Migrate: live migration of a slice: its commands and image (R441-R446), page pulls (R447) and loss (R448). -/

namespace Sys2Proof.Machine

/-! ## The state image (R445)

Where the manual names what an entry holds and no bits, the places are the model's (log entry 27). -/

/-- Doublewords of the image. -/
def migWords : Nat := 672

/-- A slice's offset in time (R351). -/
def State.migOffset (s : State) (slice : Nat) : Word := SMap.get zeroWord s.offsets slice

/-- Valid virtual dies of a slice, one bit each. -/
def State.validDies (s : State) (slice : Nat) : Nat :=
  (List.range 4).foldl (fun n k => n + flagNat ((s.dieEntry slice k).testBit 7) * 2 ^ k) 0

/-- Valid virtual cores of a slice from number `lo` on, one bit each. -/
def State.validCores (s : State) (slice lo : Nat) : Nat :=
  (List.range 64).foldl (fun n v => n + flagNat ((s.coreEntry slice (lo + v)).testBit 15) * 2 ^ v) 0

/-- The state of a copy as the image records it. -/
def WCopy.imageState (c : WCopy) : Nat := if c.st = .building then 0 else c.st.code

/-- Offset and length of a copy as the image records them. -/
def WCopy.imageRun (c : WCopy) : Nat := if c.st = .building then 0 else c.units * 2 ^ 32 + c.base

/-- The doublewords of a weight-set entry. -/
def WSet.imageWord (w : WSet) (i : Nat) : Word :=
  match i with
  | 0 => word (flagNat (w.active == some true) * 2 ^ 24 + w.b.imageState * 2 ^ 20 + w.a.imageState * 2 ^ 16 + w.handle)
  | 1 => word w.a.imageRun
  | 2 => word w.b.imageRun
  | _ => 0#64

/-- The sets that are more than a copy being built. -/
def State.imageSets (s : State) (slice : Nat) : List WSet :=
  s.wsets.filter (fun w => w.slice == slice && (w.a.imageState != 0 || w.b.imageState != 0))

/-- The launches of a latch's instance that an EXPORT returns. -/
def State.latchReturned (s : State) (l : Latch) : Nat :=
  Nat.max l.carried (s.launches.filter (fun x => x.slice == l.slice && x.args == l.args)).length

/-- The doublewords of a latch entry. -/
def State.latchWord (s : State) (l : Latch) (i : Nat) : Word :=
  if i = 0 then l.args else word (s.latchReturned l * 2 ^ 32 + flagNat l.copyB * 2 ^ 16 + l.handle)

/-- Doubleword i of a slice's image. -/
def State.migWord (s : State) (slice i : Nat) : Word :=
  if i = 0 then word (s.node 0 * 2 ^ 22 + slice * 2 ^ 16 + 1)
  else if i = 1 then s.tsc + s.migOffset slice
  else if i = 2 then word (s.validDies slice)
  else if i = 3 then word (s.validCores slice 0)
  else if i = 4 then word (s.validCores slice 64)
  else if i < 32 then 0#64
  else if i < 288 then (s.gate slice (i - 32)).setWidth 64
  else if i < 544 then (((s.imageSets slice)[(i - 288) / 4]?).map (fun w => w.imageWord (i % 4))).getD 0#64
  else (((s.latches.filter (fun l => l.slice == slice))[(i - 544) / 2]?).map (fun l => s.latchWord l (i % 2))).getD 0#64

/-- The image. -/
def State.migImage (s : State) (slice : Nat) : List Byte := (List.range migWords).flatMap (fun i => bytesOf8 (s.migWord slice i))

/-- The SPA of the image. -/
def State.migAt (s : State) (slice : Nat) : Nat := bits (s.pmWord 0 (migBlock slice + 8)) 51 8 * 256

/-- The pieces of 256 bytes in which the image is moved. -/
def migPieces : List Nat := List.range 21

/-! ## EXPORT (R444) -/

/-- The identity that reaches a slice's memory for a migration. -/
def State.migWho (s : State) (slice : Nat) : Who := s.hwWho (s.migDie slice) slice

/-- IMAGE can be written. -/
def State.imageWritable (s : State) (slice : Nat) : Bool :=
  migPieces.all (fun i =>
    match s.hwAt (s.migWho slice) true (s.migAt slice + 256 * i) 256 .write with
    | .ok _ _ => true
    | _ => false)

/-- The image is written. -/
def State.putImage (s : State) (slice : Nat) (bs : List Byte) : State :=
  migPieces.foldl (fun s i =>
    (s.hwPut (s.migWho slice) true (s.migAt slice + 256 * i) ((bs.drop (256 * i)).take 256)).orElse s) s

/-- EXPORT must wait for something of the slice. -/
def State.exportBusy (s : State) (slice : Nat) : Bool :=
  (List.range 4).any (fun d => s.preState d slice != 2) ||
  s.launches.any (fun l => l.slice == slice && l.opened && s.uncommitted l.tag) ||
  s.coaches.any (fun c => c.slice == slice && c.ends.any (fun e => e.2.bound))

/-- A launch returns to its ring with nothing of its attempt left (R444 step 2). -/
def State.exportLaunch (s : State) (l : Launch) : State :=
  let s : State := { s with
    staged := s.staged.filter (fun e => e.tag != l.tag || e.committed)
    l1 := s.l1.filter (fun e => e.tag != some l.tag) }
  s.returnLaunch l

/-- Every slot of a slice's queues is freed. -/
def State.unmapSlice (s : State) (slice : Nat) : State :=
  [0, 1, 2, 3].foldl (fun s d => (List.range 64).foldl (fun s k =>
    match (s.slot d k).queue with
    | some q => if q.1 = slice then s.updSlot d k (fun _ => Slot.reset) else s
    | none => s) s) s

/-- EXPORT's effect. -/
def State.exportSlice (s : State) (slice : Nat) : State :=
  let image := s.migImage slice
  let s := (s.coaches.filter (fun c => c.slice == slice)).foldl (fun s c => s.dropCoach c.quad) s
  let s := (s.launches.filter (fun l => l.slice == slice)).foldl State.exportLaunch s
  (((s.unmapSlice slice).putImage slice image).setMigState slice 1).setMigErr slice 0

/-- MIGRATION_EXPORT. -/
def execMigrationExport (slice : Nat) (s : State) : Host.Outcome State Fault Refusal :=
  .next (
    if s.migState slice ≠ 0 then s.setMigErr slice 1
    else if s.exportBusy slice then s.setMigErr slice 2
    else if s.imageWritable slice = false then s.setMigErr slice 3
    else s.exportSlice slice)

/-! ## IMPORT (R446) -/

/-- A copy's state by its code. -/
def copyStateOf (n : Nat) : Option CopyState :=
  match n with
  | 0 => some .empty
  | 2 => some .verified
  | 3 => some .active
  | 4 => some .draining
  | 5 => some .failed
  | _ => none

/-- A copy as an image's entry gives it. -/
def wcopyOf (st : Nat) (run : Word) : Option WCopy :=
  (copyStateOf st).bind (fun c =>
    if c = .empty then (if run = 0#64 then some WCopy.reset else none)
    else some { st := c, base := bits run 31 0, units := bits run 63 32, shards := [] })

/-- A weight-set entry of an image; the outer `none` is a malformed one. -/
def wsetIn (slice : Nat) (w0 w1 w2 w3 : Word) : Option (Option WSet) :=
  if w0 = 0#64 ∧ w1 = 0#64 ∧ w2 = 0#64 ∧ w3 = 0#64 then some none
  else
    match wcopyOf (bits w0 19 16) w1, wcopyOf (bits w0 23 20) w2 with
    | some a, some b =>
      let w : WSet := { slice := slice, handle := bits w0 15 0, a := a, b := b }
      if bits w0 63 25 = 0 ∧ w3 = 0#64 ∧ w.handle ≠ 0 ∧ (a.st ≠ .empty ∨ b.st ≠ .empty) ∧ ¬(a.st = .active ∧ b.st = .active) ∧
          ¬(a.st = .draining ∧ b.st = .draining) ∧ bit w0 24 = (w.active == some true) then some (some w)
      else none
    | _, _ => none

/-- A latch entry of an image. -/
def latchIn (slice : Nat) (w0 w1 : Word) : Option (Option Latch) :=
  if w0 = 0#64 ∧ w1 = 0#64 then some none
  else if bits w0 63 56 ≠ 0 ∨ bits w1 31 17 ≠ 0 ∨ bits w1 15 0 = 0 then none
  else some (some { slice := slice, args := w0, handle := bits w1 15 0, copyB := bit w1 16, carried := bits w1 63 32 })

/-- Entries of an image, all well formed. -/
def allSome {α : Type} (l : List (Option (Option α))) : Option (List α) :=
  match l with
  | [] => some []
  | x :: l => x.bind (fun y => (allSome l).map (fun ys => y.toList ++ ys))

/-- What an image holds, when it keeps R445. -/
def imageIn (slice : Nat) (ws : List Word) : Option (List WSet × List Latch) :=
  let w := fun i => ws.getD i 0#64
  let fixed := bits (w 0) 63 30 == 0 && bits (w 0) 21 16 == slice && bits (w 0) 15 0 == 1 && bits (w 2) 63 4 == 0 &&
    ((List.range 27).all (fun i => w (5 + i) == 0#64)) && ((List.range 256).all (fun g => bits (w (32 + g)) 63 48 == 0))
  let sets := allSome ((List.range 64).map (fun h =>
    wsetIn slice (w (288 + 4 * h)) (w (289 + 4 * h)) (w (290 + 4 * h)) (w (291 + 4 * h))))
  let held := allSome ((List.range 64).map (fun k => latchIn slice (w (544 + 2 * k)) (w (545 + 2 * k))))
  match sets, held with
  | some a, some b => if fixed && distinct (a.map (fun x => x.handle)) then some (a, b) else none
  | _, _ => none

/-- The image is read, piece by piece. -/
def State.getImage (s : State) (slice : Nat) (is : List Nat) : Hw (List Byte) :=
  match is with
  | [] => .ok s []
  | i :: is =>
    match s.hwGet (s.migWho slice) true (s.migAt slice + 256 * i) 256 with
    | .ok s bs =>
      match s.getImage slice is with
      | .ok s rest => .ok s (bs ++ rest)
      | r => r
    | r => r

/-- IMPORT's effect. -/
def State.importSlice (s : State) (slice : Nat) (ws : List Word) (held : List WSet × List Latch) : State :=
  let w := fun i => ws.getD i 0#64
  let s := (List.range 256).foldl (fun s g => s.setGate slice g ((w (32 + g)).setWidth 48)) s
  let s : State := { s with
    wsets := s.wsets.filter (fun x => x.slice != slice) ++ held.1
    latches := s.latches.filter (fun x => x.slice != slice) ++ held.2
    offsets := SMap.put zeroWord s.offsets slice (w 1 - s.tsc) }
  (s.setMigState slice 2).setMigErr slice 0

/-- An IMPORT whose image is on its way stays in CMD (log entry 26). -/
def State.setMigCmd (s : State) (slice v : Nat) : State := s.pmSetBitsAll (migBlock slice) 10 8 v

/-- IMPORT with the image read. -/
def State.importFrom (s : State) (slice : Nat) (bs : List Byte) : State :=
  let ws := (List.range migWords).map (fun i => wordOf8 ((bs.drop (8 * i)).take 8))
  let w := fun i => ws.getD i 0#64
  match imageIn slice ws with
  | none => s.setMigErr slice 3
  | some held =>
    if bits (w 2) 3 0 ≠ s.validDies slice ∨ (w 3).toNat ≠ s.validCores slice 0 ∨ (w 4).toNat ≠ s.validCores slice 64 then
      s.setMigErr slice 4
    else s.importSlice slice ws held

/-- MIGRATION_IMPORT. -/
def execMigrationImport (slice : Nat) (s : State) : Host.Outcome State Fault Refusal :=
  let s := s.setMigCmd slice 0
  if s.migState slice ≠ 0 then .next (s.setMigErr slice 1)
  else
    match s.getImage slice migPieces with
    | .later s => .next (s.setMigCmd slice 2)
    | .fault _ _ _ => .next (s.setMigErr slice 3)
    | .ok s bs => .next (s.importFrom slice bs)

/-! ## RELEASE and CLEAR (R444, R447, R448) -/

/-- MIGRATION_RELEASE. -/
def execMigrationRelease (slice : Nat) (s : State) : Host.Outcome State Fault Refusal :=
  if s.migState slice = 1 then .next ((s.setMigState slice 0).setMigErr slice 0) else .next (s.setMigErr slice 1)

/-- MIGRATION_CLEAR. -/
def execMigrationClear (slice : Nat) (s : State) : Host.Outcome State Fault Refusal :=
  if s.migState slice = 3 ∨ (s.migState slice = 2 ∧ s.migRpend slice = 0) then
    .next ((s.setMigState slice 0).setMigErr slice 0)
  else .next (s.setMigErr slice 1)

/-! ## Pulls at the source (R447) -/

/-- h1 of a MGMT flit of migration. -/
def migHead (sub slice page low : Nat) : Word := word (sub * 2 ^ 56 + slice * 2 ^ 48 + low * 2 ^ 40 + page)

def migSlice (fl : Flit) : Nat := bits fl.h1 53 48
def migPage (fl : Flit) : Nat := bits fl.h1 39 0

/-- The identity under which pages are moved. -/
def pullWho (die slice dom : Nat) : Who := { die := die, cluster := 32 + die, slice := slice, domain := dom, plain := false }

/-- Where a served page lies: HBM that the domain's map and windows reach. -/
def State.pulledPage (s : State) (die slice page : Nat) : Option Leaf :=
  let dom := s.sliceDomain die slice
  if s.migState slice ≠ 1 then none
  else
    match s.walk2 (pullWho die slice dom) (page * 4096) with
    | .error _ => none
    | .ok f =>
      if f.rp ∨ apertureOf f.out ≠ .hbm ∨ s.windowOk dom f.out 4096 .read (f.attr == 1) = false then none else some f

/-- Chunk i of a page. -/
def State.pageChunk (s : State) (die : Nat) (fl : Flit) (f : Leaf) (i : Nat) : Flit :=
  let at_ := f.out + 256 * i
  let side := f.attr == 1
  let pois := (List.range 4).foldl (fun n j => n + flagNat (s.viewPois none side (at_ + 64 * j) 64) * 2 ^ j) 0
  mkFlit 13 4 fl.domain.toNat (s.node die) fl.src.toNat (migHead 2 (migSlice fl) (migPage fl) (i * 16 + pois))
    (s.viewBytes none side at_ 256)

/-- PULL. -/
def execPullFlit (port : Nat) (fl : Flit) (s : State) : Host.Outcome State Fault Refusal :=
  bestEffort port fl s (fun s =>
    let die := portDie port
    let send := fun (s : State) (r : Flit) => s.sendFlit die r
    match s.pulledPage (s.migDie (migSlice fl)) (migSlice fl) (migPage fl) with
    | some f => .next (((List.range 16).foldl (fun t i => send t (s.pageChunk die fl f i)) s).consumed port fl)
    | none =>
      .next ((send s (mkFlit 13 4 fl.domain.toNat (s.node die) fl.src.toNat (migHead 3 (migSlice fl) (migPage fl) 0) [])).consumed
        port fl))

/-! ## Pulls at the destination -/

/-- A line is poisoned. -/
def State.poisonLine (s : State) (line : Nat) : State := s.putPois line true

/-- A whole page is poisoned. -/
def State.poisonPage (s : State) (out : Nat) : State :=
  (List.range 64).foldl (fun s i => (s.l1Drop (out / 64 + i) noCopy).poisonLine (out / 64 + i)) s

/-- RP of a leaf is cleared. -/
def State.clearRp (s : State) (leaf : Nat) : State :=
  let b := leaf + 1
  s.writeDirect (b / 64) (lineData (b % 64) [s.byteAt b &&& 0xFD#8]) (lineMask (b % 64) 1) evictNormal noCopy none

/-- A page's pull is over, and what waited on it goes on. -/
def State.endPull (s : State) (p : Pull) : State :=
  { s with pulls := s.pulls.filter (fun x => x.domain != p.domain || x.page != p.page) }.retryHeld

/-- The lines of a page are written. -/
def State.writePage (s : State) (f : Leaf) (p : Pull) : State :=
  (List.range 64).foldl (fun s i =>
    let data := (SMap.get (fun _ => 0#2048) p.data (i / 4)).extractLsb' (512 * (i % 4)) 512
    let line := f.out / 64 + i
    let s := if f.attr = 1 then s.writeSide line data (-1#64) none else s.writeDirect line data (-1#64) evictNormal noCopy none
    if p.poison.getLsbD i then s.poisonLine line else s) s

/-- A page comes to an end: its leaf is as the agent left it, or the pull is dropped. -/
def State.finishPull (s : State) (p : Pull) (fill : State → Leaf → State) : State :=
  match s.walk2 (pullWho p.die p.slice p.domain) (p.page * 4096) with
  | .error _ => s.endPull p
  | .ok f => if f.rp then ((fill s f).clearRp f.entry).endPull p else s.endPull p

/-- The pull that a flit of the source belongs to. -/
def State.pullOf (s : State) (fl : Flit) : Option Pull :=
  s.pulls.find? (fun p => p.slice == migSlice fl && p.page == migPage fl && s.migPeer p.slice == fl.src.toNat)

/-- A pull that has taken a chunk. -/
def Pull.take (p : Pull) (fl : Flit) : Pull :=
  let i := bits fl.h1 47 44
  { p with
    got := p.got ||| (1#16 <<< i)
    data := SMap.put (fun _ => 0#2048) p.data i fl.payload
    poison := (p.poison &&& ~~~ (0xF#64 <<< (4 * i))) ||| (BitVec.ofNat 64 (bits fl.h1 43 40) <<< (4 * i)) }

/-- PAGE: with the last chunk the page is written and its leaf opened. -/
def execPageFlit (port : Nat) (fl : Flit) (s : State) : Host.Outcome State Fault Refusal :=
  bestEffort port fl s (fun s =>
    let s := s.consumed port fl
    match s.pullOf fl with
    | none => .next s
    | some p =>
      let p := p.take fl
      if p.got = 0xFFFF#16 then .next (s.finishPull p (fun s f => s.writePage f p))
      else .next { s with pulls := updateWhere (fun x => x.domain == p.domain && x.page == p.page) (fun _ => p) s.pulls })

/-- REFUSE: the page is filled with poison. -/
def execRefuseFlit (port : Nat) (fl : Flit) (s : State) : Host.Outcome State Fault Refusal :=
  bestEffort port fl s (fun s =>
    let s := s.consumed port fl
    match s.pullOf fl with
    | none => .next s
    | some p => .next (s.finishPull p (fun s f => s.poisonPage f.out)))

/-- PULL_RESEND: every 1 ms. -/
def execPullResend (pull : Nat) (s : State) : Host.Outcome State Fault Refusal :=
  match s.pulls[pull]? with
  | none => .next s
  | some p =>
    if (s.tsc - p.last).toNat < 1000000 then .next s
    else
      let sent := fun (x : Pull) => { x with last := s.tsc }
      let t : State := { s with pulls := updateWhere (fun x => x.domain == p.domain && x.page == p.page) sent s.pulls }
      .next (t.sendPull p.die p.domain p.slice p.page)

/-! ## Loss (R448) -/

/-- A pull has passed its deadline. -/
def State.pullLate (s : State) (p : Pull) : Bool := decide (s.migDeadline p.slice * 1000000 ≤ (s.tsc - p.first).toNat)

/-- A coach has an access parked on one of the pages. -/
def Coach.pagesWait (c : Coach) (pages : List Nat) : Bool :=
  let on := fun (p : Option Nat) => (p.map (fun p => pages.contains p)).getD false
  c.strands.any (fun e => match e.2.run with
    | .parked (.page _ p) => pages.contains p
    | _ => false) ||
  c.copyq.any (fun o => o.beats.any (fun b => on b.page)) || c.defer.any (fun e => on e.page)

/-- The launches of a slice that have an access parked on one of the pages. -/
def State.launchesOn (s : State) (slice : Nat) (pages : List Nat) : List Nat :=
  ((s.coaches.filter (fun c => c.slice == slice && c.pagesWait pages)).map (fun c => c.tag)).eraseDups

/-- The loss of the source. -/
def State.losePages (s : State) (slice : Nat) (late : Pull) : State :=
  let dom := s.sliceDomain (s.migDie slice) slice
  let pages := s.rpPages dom
  let s := pages.foldl (fun s p =>
    match s.walk2 (pullWho late.die slice dom) (p.1 * 4096) with
    | .ok f => (s.poisonPage f.out).clearRp p.2
    | .error _ => s.clearRp p.2) s
  let s := s.setMigLost slice (s.migLost slice + pages.length)
  let s := (s.launchesOn slice (pages.map (fun p => p.1))).foldl (fun s t => s.abortLaunch t codePullLost 0#16 0#13) s
  let s := s.setMigState slice 3
  let s := s.postUnit codePullLost false none none (some (word (late.page * 4096))) none 0#16 (some (slice, dom)) (64 + dom)
    late.die
  { s with pulls := s.pulls.filter (fun p => p.slice != slice) }.retryHeld

/-- MIGRATION_LOSS. -/
def execMigrationLoss (slice : Nat) (s : State) : Host.Outcome State Fault Refusal :=
  match s.pulls.find? (fun p => p.slice == slice && s.pullLate p) with
  | none => .next s
  | some p => .next (s.losePages slice p)

end Sys2Proof.Machine
end

