-- ==== Sys2Proof/Machine/Scalar.lean ====
section
/-! DEFINITION. Scalar: the integer instructions (R102-R105). -/

namespace Sys2Proof.Machine

/-- NOP does nothing beyond its tokens (R33). -/
def execNop (k : Tok) (s : State) : Host.Outcome State Fault Refusal :=
  issue commonWord (.nop k) k (fun s => .done s) s

/-! ## REG form (R102) -/

/-- ADD: a + b mod 2^64. -/
def execAdd (k : Tok) (d a b : BitVec 4) (s : State) : Host.Outcome State Fault Refusal :=
  regForm commonWord (.add k d a b) k d a b (fun x y => x + y) s

/-- SUB: a - b mod 2^64. -/
def execSub (k : Tok) (d a b : BitVec 4) (s : State) : Host.Outcome State Fault Refusal :=
  regForm commonWord (.sub k d a b) k d a b (fun x y => x - y) s

/-- AND. -/
def execAndd (k : Tok) (d a b : BitVec 4) (s : State) : Host.Outcome State Fault Refusal :=
  regForm commonWord (.andd k d a b) k d a b (fun x y => x &&& y) s

/-- OR. -/
def execOrr (k : Tok) (d a b : BitVec 4) (s : State) : Host.Outcome State Fault Refusal :=
  regForm commonWord (.orr k d a b) k d a b (fun x y => x ||| y) s

/-- XOR. -/
def execXorr (k : Tok) (d a b : BitVec 4) (s : State) : Host.Outcome State Fault Refusal :=
  regForm commonWord (.xorr k d a b) k d a b (fun x y => x ^^^ y) s

/-- SHL: the count is b mod 64. -/
def execShl (k : Tok) (d a b : BitVec 4) (s : State) : Host.Outcome State Fault Refusal :=
  regForm commonWord (.shl k d a b) k d a b shlWord s

/-- SHR: zero fill. -/
def execShr (k : Tok) (d a b : BitVec 4) (s : State) : Host.Outcome State Fault Refusal :=
  regForm commonWord (.shr k d a b) k d a b shrWord s

/-- SRA: sign fill. -/
def execSra (k : Tok) (d a b : BitVec 4) (s : State) : Host.Outcome State Fault Refusal :=
  regForm commonWord (.sra k d a b) k d a b sraWord s

/-- SLT: signed comparison. -/
def execSlt (k : Tok) (d a b : BitVec 4) (s : State) : Host.Outcome State Fault Refusal :=
  regForm commonWord (.slt k d a b) k d a b sltWord s

/-- SLTU: unsigned comparison. -/
def execSltu (k : Tok) (d a b : BitVec 4) (s : State) : Host.Outcome State Fault Refusal :=
  regForm commonWord (.sltu k d a b) k d a b sltuWord s

/-- MIN, signed. -/
def execMin (k : Tok) (d a b : BitVec 4) (s : State) : Host.Outcome State Fault Refusal :=
  regForm commonWord (.min k d a b) k d a b minWord s

/-- MAX, signed. -/
def execMax (k : Tok) (d a b : BitVec 4) (s : State) : Host.Outcome State Fault Refusal :=
  regForm commonWord (.max k d a b) k d a b maxWord s

/-- MINU. -/
def execMinu (k : Tok) (d a b : BitVec 4) (s : State) : Host.Outcome State Fault Refusal :=
  regForm commonWord (.minu k d a b) k d a b minuWord s

/-- MAXU. -/
def execMaxu (k : Tok) (d a b : BitVec 4) (s : State) : Host.Outcome State Fault Refusal :=
  regForm commonWord (.maxu k d a b) k d a b maxuWord s

/-- ANDN: a and not b. -/
def execAndn (k : Tok) (d a b : BitVec 4) (s : State) : Host.Outcome State Fault Refusal :=
  regForm commonWord (.andn k d a b) k d a b (fun x y => x &&& ~~~ y) s

/-- LEA0: a + b. -/
def execLea0 (k : Tok) (d a b : BitVec 4) (s : State) : Host.Outcome State Fault Refusal :=
  regForm commonWord (.lea0 k d a b) k d a b (leaWord 0) s

/-- LEA1: a + 2b. -/
def execLea1 (k : Tok) (d a b : BitVec 4) (s : State) : Host.Outcome State Fault Refusal :=
  regForm commonWord (.lea1 k d a b) k d a b (leaWord 1) s

/-- LEA2: a + 4b. -/
def execLea2 (k : Tok) (d a b : BitVec 4) (s : State) : Host.Outcome State Fault Refusal :=
  regForm commonWord (.lea2 k d a b) k d a b (leaWord 2) s

/-- LEA3: a + 8b. -/
def execLea3 (k : Tok) (d a b : BitVec 4) (s : State) : Host.Outcome State Fault Refusal :=
  regForm commonWord (.lea3 k d a b) k d a b (leaWord 3) s

/-- MUL: the low 64 bits of the product. -/
def execMul (k : Tok) (d a b : BitVec 4) (s : State) : Host.Outcome State Fault Refusal :=
  regForm mulDivWord (.mul k d a b) k d a b (fun x y => x * y) s

/-- MULH. -/
def execMulh (k : Tok) (d a b : BitVec 4) (s : State) : Host.Outcome State Fault Refusal :=
  regForm mulDivWord (.mulh k d a b) k d a b mulhWord s

/-- MULHU. -/
def execMulhu (k : Tok) (d a b : BitVec 4) (s : State) : Host.Outcome State Fault Refusal :=
  regForm mulDivWord (.mulhu k d a b) k d a b mulhuWord s

/-- DIV (R86). -/
def execDiv (k : Tok) (d a b : BitVec 4) (s : State) : Host.Outcome State Fault Refusal :=
  divForm (.div k d a b) k d a b divWord s

/-- DIVU (R86). -/
def execDivu (k : Tok) (d a b : BitVec 4) (s : State) : Host.Outcome State Fault Refusal :=
  divForm (.divu k d a b) k d a b divuWord s

/-- REM (R86). -/
def execRem (k : Tok) (d a b : BitVec 4) (s : State) : Host.Outcome State Fault Refusal :=
  divForm (.rem k d a b) k d a b remWord s

/-- REMU (R86). -/
def execRemu (k : Tok) (d a b : BitVec 4) (s : State) : Host.Outcome State Fault Refusal :=
  divForm (.remu k d a b) k d a b remuWord s

/-! ## BITS (R102) -/

/-- CLZ: 64 for zero. -/
def execClz (k : Tok) (d a : BitVec 4) (s : State) : Host.Outcome State Fault Refusal :=
  bitsForm (.clz k d a) k d a clzWord s

/-- CTZ: 64 for zero. -/
def execCtz (k : Tok) (d a : BitVec 4) (s : State) : Host.Outcome State Fault Refusal :=
  bitsForm (.ctz k d a) k d a ctzWord s

/-- POPC. -/
def execPopc (k : Tok) (d a : BitVec 4) (s : State) : Host.Outcome State Fault Refusal :=
  bitsForm (.popc k d a) k d a popcWord s

/-- SEXT8. -/
def execSext8 (k : Tok) (d a : BitVec 4) (s : State) : Host.Outcome State Fault Refusal :=
  bitsForm (.sext8 k d a) k d a (fun x => sextWord x 8) s

/-- SEXT16. -/
def execSext16 (k : Tok) (d a : BitVec 4) (s : State) : Host.Outcome State Fault Refusal :=
  bitsForm (.sext16 k d a) k d a (fun x => sextWord x 16) s

/-- SEXT32. -/
def execSext32 (k : Tok) (d a : BitVec 4) (s : State) : Host.Outcome State Fault Refusal :=
  bitsForm (.sext32 k d a) k d a (fun x => sextWord x 32) s

/-- ZEXT8. -/
def execZext8 (k : Tok) (d a : BitVec 4) (s : State) : Host.Outcome State Fault Refusal :=
  bitsForm (.zext8 k d a) k d a (fun x => zextWord x 8) s

/-- ZEXT16. -/
def execZext16 (k : Tok) (d a : BitVec 4) (s : State) : Host.Outcome State Fault Refusal :=
  bitsForm (.zext16 k d a) k d a (fun x => zextWord x 16) s

/-- ZEXT32. -/
def execZext32 (k : Tok) (d a : BitVec 4) (s : State) : Host.Outcome State Fault Refusal :=
  bitsForm (.zext32 k d a) k d a (fun x => zextWord x 32) s

/-- BREV: bit i moves to bit 63 - i. -/
def execBrev (k : Tok) (d a : BitVec 4) (s : State) : Host.Outcome State Fault Refusal :=
  bitsForm (.brev k d a) k d a brevWord s

/-! ## I13 form (R103) -/

/-- ADDI. -/
def execAddi (k : Tok) (d a : BitVec 4) (i : BitVec 13) (s : State) : Host.Outcome State Fault Refusal :=
  immForm (.addi k d a i) k d a (sx i) (fun x y => x + y) s

/-- ANDI. -/
def execAndi (k : Tok) (d a : BitVec 4) (i : BitVec 13) (s : State) : Host.Outcome State Fault Refusal :=
  immForm (.andi k d a i) k d a (sx i) (fun x y => x &&& y) s

/-- ORI. -/
def execOri (k : Tok) (d a : BitVec 4) (i : BitVec 13) (s : State) : Host.Outcome State Fault Refusal :=
  immForm (.ori k d a i) k d a (sx i) (fun x y => x ||| y) s

/-- XORI. -/
def execXori (k : Tok) (d a : BitVec 4) (i : BitVec 13) (s : State) : Host.Outcome State Fault Refusal :=
  immForm (.xori k d a i) k d a (sx i) (fun x y => x ^^^ y) s

/-- SLTI. -/
def execSlti (k : Tok) (d a : BitVec 4) (i : BitVec 13) (s : State) : Host.Outcome State Fault Refusal :=
  immForm (.slti k d a i) k d a (sx i) sltWord s

/-- SLTIU: the sign-extended immediate compared unsigned. -/
def execSltiu (k : Tok) (d a : BitVec 4) (i : BitVec 13) (s : State) : Host.Outcome State Fault Refusal :=
  immForm (.sltiu k d a i) k d a (sx i) sltuWord s

/-- MULI. -/
def execMuli (k : Tok) (d a : BitVec 4) (i : BitVec 13) (s : State) : Host.Outcome State Fault Refusal :=
  immForm (.muli k d a i) k d a (sx i) (fun x y => x * y) s

/-- SHLI: the count is the field. -/
def execShli (k : Tok) (d a : BitVec 4) (sr : BitVec 6) (s : State) : Host.Outcome State Fault Refusal :=
  immForm (.shli k d a sr) k d a (sr.setWidth 64) shlWord s

/-- SHRI. -/
def execShri (k : Tok) (d a : BitVec 4) (sr : BitVec 6) (s : State) : Host.Outcome State Fault Refusal :=
  immForm (.shri k d a sr) k d a (sr.setWidth 64) shrWord s

/-- SRAI. -/
def execSrai (k : Tok) (d a : BitVec 4) (sr : BitVec 6) (s : State) : Host.Outcome State Fault Refusal :=
  immForm (.srai k d a sr) k d a (sr.setWidth 64) sraWord s

/-! ## LI, LIK and BSEL (R104) -/

/-- LI: the sign-extended immediate. -/
def execLi (k : Tok) (d : BitVec 4) (i : BitVec 17) (s : State) : Host.Outcome State Fault Refusal :=
  issue commonWord (.li k d i) k (writeS d (sx i) false) s

/-- LIK.H1: halfword 1 of d. -/
def execLikH1 (k : Tok) (d : BitVec 4) (i : BitVec 16) (s : State) : Host.Outcome State Fault Refusal :=
  likForm (.likH1 k d i) k d 1 i s

/-- LIK.H2: halfword 2 of d. -/
def execLikH2 (k : Tok) (d : BitVec 4) (i : BitVec 16) (s : State) : Host.Outcome State Fault Refusal :=
  likForm (.likH2 k d i) k d 2 i s

/-- LIK.H3: halfword 3 of d. -/
def execLikH3 (k : Tok) (d : BitVec 4) (i : BitVec 16) (s : State) : Host.Outcome State Fault Refusal :=
  likForm (.likH3 k d i) k d 3 i s

/-- BSEL: d takes the bits of b where a is set. -/
def execBsel (k : Tok) (d a b : BitVec 4) (s : State) : Host.Outcome State Fault Refusal :=
  issue (kWord []) (.bsel k d a b) k (fun s =>
    writeS d (bselWord (s.reg d) (s.reg a) (s.reg b)) (s.pois a || s.pois b || s.pois d) s) s

end Sys2Proof.Machine
end

