-- ==== Sys2Proof/Machine/Vatom.lean ====
section
/-! DEFINITION. Vatom: the per-lane atomics of the X stream (R178, R179). -/

namespace Sys2Proof.Machine

/-- The operation of a lane. -/
def vatomOp (op : Nat) (y : BitVec 3) : AtomOp :=
  match op, y.toNat with
  | 0, 0 => .fadd
  | 0, _ => .add
  | 1, 0 => .fmin
  | 1, 1 => .min
  | 1, _ => .minu
  | 2, 0 => .fmax
  | 2, 1 => .max
  | 2, _ => .maxu
  | _, _ => .swp

/-- The checks at issue, in the order of R42: the type of the operand is part of check 2. -/
def vatomCheck (s : State) (c : Coach) (d : Desc) (t : BitVec 6) (y : BitVec 3) (shift : Word) : Option Nat :=
  let ty := if y = 0#3 then tyF32 else tyINT32
  firstFail [(d.check1, codeDescSpace),
    (d.ty == ty, codeEngineAccess),
    ((tileMoveCheck s c d t y [spGlobal] shift).isNone, (tileMoveCheck s c d t y [spGlobal] shift).getD 0),
    (decide ((word d.base + shift).toNat % 4 = 0) && decide (d.rstride % 4 = 0), codeDescRange)]

/-- The lanes from one on that perform an atomic. -/
def vatomLanes (m : BitVec 1024) (d : Desc) (t : BitVec 6) (start : Nat) : List Nat :=
  (List.range 1024).filter (fun p => decide (start ≤ p) && maskAt m t (p / 32) (p % 32) && decide (p % 32 < d.dim0) &&
    decide (p / 32 < d.rows))

/-- The X stream's resume lane. -/
def State.setLane (s : State) (p : Nat) : State :=
  s.updCoach (threadQuad s.cur) (fun c => { c with resume := BitVec.ofNat 10 p })

/-- The old value of a lane reaches its cell; its poison is kept until the end. -/
def State.laneDone (s : State) (t : BitVec 6) (p old : Nat) (pois : Bool) : State :=
  let q := posOf (opDir t) (p / 32) (p % 32)
  let s := s.updQuad (threadQuad s.cur) (fun x => x.setCell (opTile t) q.1 q.2 (BitVec.ofNat 32 old))
  s.updMe (fun st => { st with
    reply := []
    replyPoison := false
    late := if pois then st.late ||| (1#32 <<< q.1) else st.late })

/-- A lane that does not go on: a fault shows the lane in FPROG and ends the VATOM there; a wait keeps the lane. -/
def laneStop (p : Nat) (r : Res) : Res :=
  match r with
  | .fault s code fa fp =>
    let d := s.orFree fp
    .fault ((d.1.setLane p).endLanes (threadQuad s.cur)) code fa (some (setBits d.2 9 0 p))
  | .wait s w => .wait (s.setLane p) w
  | r => r

/-- What lanes are performed with. -/
structure LaneSpec where
  t    : BitVec 6
  op   : AtomOp
  desc : Desc
  base : Word

/-- The atomic of a lane. -/
def LaneSpec.atom (a : LaneSpec) (s : State) (p : Nat) : AtomSpec :=
  { op := a.op, bytes := 4, va := a.base + word (p / 32 * a.desc.rstride + 4 * (p % 32)),
    v := (s.quad (threadQuad s.cur)).at_ a.t (p / 32) (p % 32), cmp := 0, cls := a.desc.cls, sem := 0,
    scope := a.desc.scope, lane := p }

/-- A lane consumes poison (R160, R178). DEDUCED: poison of the active mask is consumed by the first lane that it admits (log
entry 139). -/
def State.lanePois (s : State) (t : BitVec 6) (p : Nat) : Bool :=
  let x := s.quad (threadQuad s.cur)
  x.poisAt t (p / 32) (p % 32) || x.maskPois ((s.myCoach?.map (fun c => c.maskSel.toNat)).getD 0)

/-- The lanes in ascending order, and the end of the VATOM. A coach that is being stopped stops between lanes (R164). DEDUCED: a
VATOM that ends short of its last lane keeps the flags of the lanes that it has performed (R89; log entry 134). -/
def performLanes (a : LaneSpec) (fin : State → Res) (s : State) (ps : List Nat) : Res :=
  match ps with
  | [] => fin s
  | p :: ps =>
    if s.me.reply.isEmpty && ((s.myCoach?.map s.quiet).getD false) then .wait (s.setLane p) .vectorUnit
    else if s.me.reply.isEmpty && (s.lanePois a.t p) then
      laneStop p (.fault s codePoison (some (a.atom s p).va) (some 0#64))
    else
      match atomRes pmStore s (a.atom s p) (fun s old pois fl =>
          .done (((s.laneDone a.t p old pois).sticky s.cur fl).setLane (p + 1))) with
      | .done s => performLanes a fin s ps
      | r => laneStop p r

/-- The push of a VATOM whose lanes are done: it completes once its FIFO has room, and the X stream issues nothing before
(R100, R178). -/
def vatomPush (s : State) (k : Tok) : Res :=
  withCoach s (fun c =>
    if c.pushHeld 2 k.push.toNat then .wait (s.updMe (fun st => { st with granted := true })) (.owed (selected 2 k.push.toNat))
    else .done s)

/-- The lanes are done: poisoned rows are marked. -/
def vatomEnd (k : Tok) (s : State) : Res :=
  vatomPush ((s.endLanes (threadQuad s.cur)).charge ((s.myCoach?.map (fun c => c.slice)).getD 0) .vectorTile 1) k

/-- A VATOM that has been issued performs its lanes from the resume lane on, with the copies that it keeps (R41). -/
def vatomRun (k : Tok) (t : BitVec 6) (op : AtomOp) (d : Desc) (shift : Word) (s : State) : Res :=
  let s := s.updCoach (threadQuad s.cur) (fun c => { c with vatom := some (d, shift) })
  withCoach s (fun c =>
    performLanes { t := t, op := op, desc := d, base := word d.base + shift } (vatomEnd k) s
      (vatomLanes ((s.quad c.quad).mask c.maskSel.toNat) d t c.resume.toNat))

/-- A VATOM (R178): it waits until the vector unit is empty and the range checker admits its tile, and performs its lanes. -/
def vatomForm (i : Instr) (k : Tok) (t e : BitVec 6) (sr : BitVec 4) (y : BitVec 3) (op : Nat) :
    State → Host.Outcome State Fault Refusal :=
  issue (xWord [10] true) i k (fun s => withCoach s (fun c =>
    if s.me.granted then vatomPush s k
    else
      match c.vatom with
      | some v => admitted s c [tileExtent t true true] (vatomRun k t (vatomOp op y) v.1 v.2)
      | none =>
        consume (s.pois sr) s
          (if (c.desc e.toNat).space = spGlobal ∧ (c.desc e.toNat).scopeBad then undefUse s i
          else match vatomCheck s c (c.desc e.toNat) t y (s.reg sr) with
          | some code => descFault s code
          | none =>
            if !c.unit.isEmpty then .wait s .vectorUnit
            else admitted s c [tileExtent t true true] (vatomRun k t (vatomOp op y) (c.desc e.toNat) (s.reg sr)))))

/-- VATOM.ADD. -/
def execVatomAdd (k : Tok) (tr e : BitVec 6) (sr : BitVec 4) (y : BitVec 3) (s : State) : Host.Outcome State Fault Refusal :=
  vatomForm (.vatomAdd k tr e sr y) k tr e sr y 0 s

/-- VATOM.MIN. -/
def execVatomMin (k : Tok) (tr e : BitVec 6) (sr : BitVec 4) (y : BitVec 3) (s : State) : Host.Outcome State Fault Refusal :=
  vatomForm (.vatomMin k tr e sr y) k tr e sr y 1 s

/-- VATOM.MAX. -/
def execVatomMax (k : Tok) (tr e : BitVec 6) (sr : BitVec 4) (y : BitVec 3) (s : State) : Host.Outcome State Fault Refusal :=
  vatomForm (.vatomMax k tr e sr y) k tr e sr y 2 s

/-- VATOM.SWP. -/
def execVatomSwp (k : Tok) (tr e : BitVec 6) (sr : BitVec 4) (y : BitVec 3) (s : State) : Host.Outcome State Fault Refusal :=
  vatomForm (.vatomSwp k tr e sr y) k tr e sr y 3 s

end Sys2Proof.Machine
end

