-- ==== Sys2Proof/Machine/VectorWords.lean ====
section
/-! DEFINITION. VectorWords: the issue of each word of the vector unit but VATOM (R159, R165-R177, R180, R181). -/

namespace Sys2Proof.Machine

/-- A change to the state of a word that has been accepted. -/
def Res.onQueued (r : Res) (f : State → State) : Res :=
  match r with
  | .queued s w => .queued (f s) w
  | r => r

/-- VADD: a + b. -/
def execVadd (k : Tok) (d a b : BitVec 6) (y : BitVec 3) (s : State) : Host.Outcome State Fault Refusal :=
  vectorForm [] (.vadd k d a b y) k [d] [a, b] 0#4 s

/-- VSUB: a - b. -/
def execVsub (k : Tok) (d a b : BitVec 6) (y : BitVec 3) (s : State) : Host.Outcome State Fault Refusal :=
  vectorForm [] (.vsub k d a b y) k [d] [a, b] 0#4 s

/-- VMUL: a x b. -/
def execVmul (k : Tok) (d a b : BitVec 6) (y : BitVec 3) (s : State) : Host.Outcome State Fault Refusal :=
  vectorForm [] (.vmul k d a b y) k [d] [a, b] 0#4 s

/-- VMIN. -/
def execVmin (k : Tok) (d a b : BitVec 6) (y : BitVec 3) (s : State) : Host.Outcome State Fault Refusal :=
  vectorForm [] (.vmin k d a b y) k [d] [a, b] 0#4 s

/-- VMAX. -/
def execVmax (k : Tok) (d a b : BitVec 6) (y : BitVec 3) (s : State) : Host.Outcome State Fault Refusal :=
  vectorForm [] (.vmax k d a b y) k [d] [a, b] 0#4 s

/-- VAND on whole cells. -/
def execVand (k : Tok) (d a b : BitVec 6) (y : BitVec 3) (s : State) : Host.Outcome State Fault Refusal :=
  vectorForm [] (.vand k d a b y) k [d] [a, b] 0#4 s

/-- VOR on whole cells. -/
def execVor (k : Tok) (d a b : BitVec 6) (y : BitVec 3) (s : State) : Host.Outcome State Fault Refusal :=
  vectorForm [] (.vor k d a b y) k [d] [a, b] 0#4 s

/-- VXOR on whole cells. -/
def execVxor (k : Tok) (d a b : BitVec 6) (y : BitVec 3) (s : State) : Host.Outcome State Fault Refusal :=
  vectorForm [] (.vxor k d a b y) k [d] [a, b] 0#4 s

/-- VSEL: active cells from a, the others from b; written whole. -/
def execVsel (k : Tok) (d a b : BitVec 6) (y : BitVec 3) (s : State) : Host.Outcome State Fault Refusal :=
  vectorForm [] (.vsel k d a b y) k [d] [a, b] 0#4 s

/-- VPERM: cells of a by the indices in b. -/
def execVperm (k : Tok) (d a b : BitVec 6) (y : BitVec 3) (s : State) : Host.Outcome State Fault Refusal :=
  vectorForm [] (.vperm k d a b y) k [d] [a, b] 0#4 s

/-- VFMA: a x b + d with one rounding. -/
def execVfma (k : Tok) (d a b : BitVec 6) (y : BitVec 3) (s : State) : Host.Outcome State Fault Refusal :=
  vectorForm [] (.vfma k d a b y) k [d] [a, b, d] 0#4 s

/-- VFMS: a x b - d with one rounding. -/
def execVfms (k : Tok) (d a b : BitVec 6) (y : BitVec 3) (s : State) : Host.Outcome State Fault Refusal :=
  vectorForm [] (.vfms k d a b y) k [d] [a, b, d] 0#4 s

/-- VPACK: F32 cells into scaled blocks. -/
def execVpack (k : Tok) (d a b : BitVec 6) (y : BitVec 3) (s : State) : Host.Outcome State Fault Refusal :=
  vectorForm [9] (.vpack k d a b y) k [d] [a, b] 0#4 s

/-- VUNPK: scaled blocks into F32 cells. -/
def execVunpk (k : Tok) (d a b : BitVec 6) (y : BitVec 3) (s : State) : Host.Outcome State Fault Refusal :=
  vectorForm [9] (.vunpk k d a b y) k [d] [a, b] 0#4 s

/-- VABS. -/
def execVabs (k : Tok) (d a : BitVec 6) (y : BitVec 3) (s : State) : Host.Outcome State Fault Refusal :=
  vectorForm [] (.vabs k d a y) k [d] [a] 0#4 s

/-- VNEG. -/
def execVneg (k : Tok) (d a : BitVec 6) (y : BitVec 3) (s : State) : Host.Outcome State Fault Refusal :=
  vectorForm [] (.vneg k d a y) k [d] [a] 0#4 s

/-- VMOV: whole cells, transposed or skewed by the directions. -/
def execVmov (k : Tok) (d a : BitVec 6) (y : BitVec 3) (s : State) : Host.Outcome State Fault Refusal :=
  vectorForm [] (.vmov k d a y) k [d] [a] 0#4 s

/-- VREDS: sums into vector 0 of d. -/
def execVreds (k : Tok) (d a : BitVec 6) (y : BitVec 3) (s : State) : Host.Outcome State Fault Refusal :=
  vectorForm [] (.vreds k d a y) k [d] [a] 0#4 s

/-- VSHL. -/
def execVshl (k : Tok) (d a i : BitVec 6) (y : BitVec 3) (s : State) : Host.Outcome State Fault Refusal :=
  vectorForm [] (.vshl k d a i y) k [d] [a] 0#4 s

/-- VSHR: zero fill. -/
def execVshr (k : Tok) (d a i : BitVec 6) (y : BitVec 3) (s : State) : Host.Outcome State Fault Refusal :=
  vectorForm [] (.vshr k d a i y) k [d] [a] 0#4 s

/-- VSRA: filled with the top bit. -/
def execVsra (k : Tok) (d a i : BitVec 6) (y : BitVec 3) (s : State) : Host.Outcome State Fault Refusal :=
  vectorForm [] (.vsra k d a i y) k [d] [a] 0#4 s

/-- VREDM: maximum or minimum into vector 0 of d. -/
def execVredm (k : Tok) (d a i : BitVec 6) (y : BitVec 3) (s : State) : Host.Outcome State Fault Refusal :=
  vectorForm [] (.vredm k d a i y) k [d] [a] 0#4 s

/-- VSCAN: running sum, maximum or minimum. -/
def execVscan (k : Tok) (d a i : BitVec 6) (y : BitVec 3) (s : State) : Host.Outcome State Fault Refusal :=
  vectorForm [] (.vscan k d a i y) k [d] [a] 0#4 s

/-- VROT: cells rotated within vectors. -/
def execVrot (k : Tok) (d a i : BitVec 6) (y : BitVec 3) (s : State) : Host.Outcome State Fault Refusal :=
  vectorForm [] (.vrot k d a i y) k [d] [a] 0#4 s

/-- VEXP2. -/
def execVexp2 (k : Tok) (d a : BitVec 6) (s : State) : Host.Outcome State Fault Refusal :=
  vectorForm [7] (.vexp2 k d a) k [d] [a] 0#4 s

/-- VLOG2. -/
def execVlog2 (k : Tok) (d a : BitVec 6) (s : State) : Host.Outcome State Fault Refusal :=
  vectorForm [7] (.vlog2 k d a) k [d] [a] 0#4 s

/-- VRCP. -/
def execVrcp (k : Tok) (d a : BitVec 6) (s : State) : Host.Outcome State Fault Refusal :=
  vectorForm [7] (.vrcp k d a) k [d] [a] 0#4 s

/-- VRSQ. -/
def execVrsq (k : Tok) (d a : BitVec 6) (s : State) : Host.Outcome State Fault Refusal :=
  vectorForm [7] (.vrsq k d a) k [d] [a] 0#4 s

/-- VCMP: it writes a mask in place of a tile. -/
def execVcmp (k : Tok) (a b : BitVec 6) (c m y : BitVec 3) (s : State) : Host.Outcome State Fault Refusal :=
  vectorForm [] (.vcmp k a b c m y) k [] [a, b] 0#4 s

/-- VBCS: the scalar register is read at issue. -/
def execVbcs (k : Tok) (d : BitVec 6) (sr : BitVec 4) (y : BitVec 3) (s : State) : Host.Outcome State Fault Refusal :=
  vectorForm [] (.vbcs k d sr y) k [d] [] sr s

/-- VINS: the first active position takes the scalar. -/
def execVins (k : Tok) (d : BitVec 6) (sr : BitVec 4) (y : BitVec 3) (s : State) : Host.Outcome State Fault Refusal :=
  vectorForm [] (.vins k d sr y) k [d] [] sr s

/-- VMOVS: sr is written when the instruction retires. -/
def execVmovs (k : Tok) (a : BitVec 6) (sr : BitVec 4) (y : BitVec 3) (s : State) : Host.Outcome State Fault Refusal :=
  vectorForm [] (.vmovs k a sr y) k [] [a] 0#4 s

/-- VIOTA. -/
def execViota (k : Tok) (d : BitVec 6) (y : BitVec 3) (s : State) : Host.Outcome State Fault Refusal :=
  vectorForm [] (.viota k d y) k [d] [] 0#4 s

/-- VCLR: the whole register and its poison. -/
def execVclr (k : Tok) (d : BitVec 4) (s : State) : Host.Outcome State Fault Refusal :=
  vectorForm [] (.vclr k d) k [d ++ 0#2] [] 0#4 s

/-- VCVT: SEED and the call counter are captured, and the counter advances at every issue that holds SR (R71, R173). -/
def execVcvt (k : Tok) (d a : BitVec 6) (r : BitVec 3) (f : BitVec 2) (c : BitVec 4) (s : State) :
    Host.Outcome State Fault Refusal :=
  issue (xWord (if r = 5#3 then [8] else []) true) (.vcvt k d a r f c) k (fun s => withCoach s (fun co =>
    if tilesDeclared s co [d, a] = false then descFault s codeEngineAccess
    else
      let cap : Desc := { Desc.zero with w0 := s.myStream.seed, w1 := s.myStream.calls.setWidth 64 }
      (enterUnit s co (.vcvt k d a r f c) k cap 0#64 false [tileExtent d false true, tileExtent a true false]
        false).onQueued (fun s =>
          if r = 5#3 then s.updMyStream (fun t => { t with calls := t.calls + 1#32 }) else s))) s

/-- VLD: lanes from ABUF or ACC. -/
def execVld (k : Tok) (tr e : BitVec 6) (sr : BitVec 4) (y : BitVec 3) (s : State) : Host.Outcome State Fault Refusal :=
  tileMove [] (.vld k tr e sr y) k tr e sr y [spAbuf, spAcc] false true false s

/-- VST: active lanes into ABUF or ACC. -/
def execVst (k : Tok) (tr e : BitVec 6) (sr : BitVec 4) (y : BitVec 3) (s : State) : Host.Outcome State Fault Refusal :=
  tileMove [] (.vst k tr e sr y) k tr e sr y [spAbuf, spAcc] true false false s

/-- VDEFER: a tile store for the deferral queue. -/
def execVdefer (k : Tok) (tr e : BitVec 6) (sr : BitVec 4) (y : BitVec 3) (s : State) : Host.Outcome State Fault Refusal :=
  tileMove [11] (.vdefer k tr e sr y) k tr e sr y [spGlobal] true false true s

/-- VDRAIN retires when every VDEFER accepted before it is done with (R181). -/
def execVdrain (k : Tok) (s : State) : Host.Outcome State Fault Refusal :=
  issue (xWord [11] true) (.vdrain k) k (fun s => withCoach s (fun c =>
    enterUnit s c (.vdrain k) k Desc.zero 0#64 false [] false)) s

/-- SETM: the active-mask selector. -/
def execSetm (k : Tok) (m : BitVec 3) (s : State) : Host.Outcome State Fault Refusal :=
  maskForm (.setm k m) k s

/-- MAND. -/
def execMand (k : Tok) (d a b : BitVec 3) (s : State) : Host.Outcome State Fault Refusal :=
  maskForm (.mand k d a b) k s

/-- MOR. -/
def execMor (k : Tok) (d a b : BitVec 3) (s : State) : Host.Outcome State Fault Refusal :=
  maskForm (.mor k d a b) k s

/-- MXOR. -/
def execMxor (k : Tok) (d a b : BitVec 3) (s : State) : Host.Outcome State Fault Refusal :=
  maskForm (.mxor k d a b) k s

/-- MNOT. -/
def execMnot (k : Tok) (d a : BitVec 3) (s : State) : Host.Outcome State Fault Refusal :=
  maskForm (.mnot k d a) k s

/-- MPOPC: sr is written when the instruction retires. -/
def execMpopc (k : Tok) (sr : BitVec 4) (m : BitVec 3) (s : State) : Host.Outcome State Fault Refusal :=
  maskForm (.mpopc k sr m) k s

end Sys2Proof.Machine
end

