-- ==== Sys2Proof/Machine/Wake.lean ====
section
/-! DEFINITION. Wake: the end of a thread's wait, and the timeouts of waits (R17, R19, R90, R94, R101, R122, R124, R146,
R150, R243, R265, R384). -/

namespace Sys2Proof.Machine

/-! ## When a wait is over -/

/-- An operation that a coach has accepted is outstanding. -/
def Coach.opOut (c : Coach) (seq : Nat) : Bool :=
  c.unit.any (fun o => o.seq == seq) || c.defer.any (fun e => e.seq == seq) || c.matq.any (fun o => o.seq == seq) ||
  c.copyq.any (fun o => o.seq == seq)

/-- What an operation accepted in precise mode waits for: itself and, for a copy with a follow-on, that too (R384). -/
def Coach.preciseOut (c : Coach) (part seq : Nat) : Bool :=
  c.opOut seq || (part != 9 && c.matq.any (fun o => o.source == (if part = 8 then 1 else 2) && decide (seq < o.seq)))

/-- A request that a thread waits for has not been answered or cannot be tried again. -/
def State.homeOut (s : State) (id : Nat) : Bool :=
  s.homeq.any (fun r => r.id == id) || s.waiting.any (fun w => w.req.id == id && (w.req.atom.isSome || !s.mayRetry w))

/-- Something of the coach is no longer in the way. -/
def State.coachWait (s : State) (th : ThreadId) (f : Coach → Bool) : Bool := ((s.coach? (threadQuad th)).map f).getD true

/-- Nothing that a thread waits for is with the host. -/
def State.hostQuiet (s : State) (th : ThreadId) : Bool :=
  s.hostReqs.all (fun r => r.who != .thread th) && s.proxies.all (fun r => r.who != .thread th)

/-- The wait of a thread is over: its word is executed again, or, in precise mode, it goes on. -/
def State.waitOver (s : State) (th : ThreadId) (st : Strand) (w : Wait) : Bool :=
  let i := threadStream th
  match w with
  | .token src => s.coachWait th (fun c => decide (c.tokenWaiters src i (threadPart th) < c.fifoCount (fifoKey src i)))
  | .owed dst => s.coachWait th (fun c => decide (c.fifoCount (fifoKey i dst) < 15) && decide (c.owedCount (fifoKey i dst) < 8))
  | .join n => s.sideIdle th n
  | .others => s.othersIdle th
  | .semaphore _ => st.granted
  | .event m _ => st.latch &&& m != 0#4
  | .barrier h => st.granted || s.coachWait th (fun c => (s.barrier c h).isNone)
  | .fence => true
  | .tfence => !s.enginesBusy th
  | .matrixQueue n => s.coachWait th (fun c => decide (c.matq.length ≤ n))
  | .copyQueue n => s.coachWait th (fun c =>
      if n = 32 then decide (c.copyq.length < 32) else decide (c.copyCount i ≤ n))
  | .vectorUnit => true
  | .checker => true
  | .scalarResult _ => true
  | .preciseOp n => s.coachWait th (fun c => !c.preciseOut (threadPart th) n)
  | .gate slice g b => decide (b.toNat % 2 ^ 48 ≤ (s.gate slice g).toNat)
  | .home id => !s.homeOut id
  | .pendingLine line => !s.pendingLine ((s.attemptOf th).map (fun t => t.1)) line
  | .page slice page => s.pulls.all (fun p => p.domain != s.sliceDomain p.die slice || p.page != page)
  | .walk cluster slice page => s.walks.all (fun x => x.ended || !x.isFor cluster slice page)
  | .remote tag => decide (tag = 65536) || s.remote.all (fun r => r.who != .thread th)
  | .host id => s.hostReqs.all (fun r => r.id != id) && s.hostQuiet th
  | .proxy _ => s.hostQuiet th
  | .frame _ => st.granted
  | .divide => (s.stream? th).any (fun t => t.divider.head? == some (threadPart th))

/-- A thread may become ready now. -/
def State.wakeable (s : State) (th : ThreadId) : Bool :=
  match s.strand? th with
  | some st =>
    match st.run with
    | .parked w => s.waitOver th st w
    | _ => false
  | none => false

/-- What a thread whose wait is over gets with it: the token of its FIFO (R17), or the divider's result (R105). -/
def State.handOver (s : State) (th : ThreadId) (w : Wait) : State :=
  match w with
  | .token src =>
    s.popFrom (threadQuad th) (threadPart th) src ((src + 4 - threadStream th) % 4)
  | .divide => (s.updStream th (fun t => { t with divider := t.divider.tail })).updStrand th (fun st => { st with granted := true })
  | _ => s

/-- STRAND_READY (R94): the thread goes on with the word that waited, or past an operation that was precise. -/
def execStrandReady (th : ThreadId) (s : State) : Host.Outcome State Fault Refusal :=
  match s.strand? th with
  | some st =>
    match st.run with
    | .parked w =>
      if s.waitOver th st w then .next ((s.handOver th w).updStrand th (fun st => { st with run := .ready })) else .next s
    | _ => .next s
  | none => .next s

/-! ## Timeouts -/

/-- WAITE_TIMEOUT (R124): the stream clocks of a WAITE have passed. -/
def execWaiteTimeout (th : ThreadId) (s : State) : Host.Outcome State Fault Refusal :=
  match s.strand? th with
  | some st =>
    match st.run with
    | .parked (.event _ (some l)) =>
      if l.2.toNat ≤ (s.clocks - l.1).toNat then
        .next (s.updStrand th (fun st => { st with run := .ready, granted := true }))
      else .next s
    | _ => .next s
  | none => .next s

/-- A stream's queue is parked, and an operation in it owes a push to another stream (R19). DEDUCED: operations behind the
parked one count, since none of them can retire before it does (log entry 132). -/
def Coach.parkedPush (c : Coach) (src dst : Nat) : Bool :=
  let owes := fun (stream push : Nat) => stream == src && push != 0 && selected src push == dst
  (c.copyPark.isSome && c.copyq.any (fun o => owes o.stream o.push)) ||
  (c.matPark.isSome && c.matq.any (fun o => owes o.stream o.push)) ||
  (c.deferPark.isSome && c.defer.any (fun e => owes 2 e.push))

/-- The time for which a thread has waited on a FIFO does not run on (R19). -/
def State.tokenHeld (s : State) (th : ThreadId) : Bool :=
  match s.strand? th, s.coach? (threadQuad th) with
  | some st, some c =>
    match st.run with
    | .parked (.token src) => !onDray th && c.parkedPush src (threadStream th)
    | _ => false
  | _, _ => false

/-- Waits whose time stands still while dt passes. -/
def State.holdWaits (s : State) (dt : Word) : State :=
  (s.coaches.flatMap (fun c => (List.range 11).map (fun p => ThreadId.coach c.quad p))).foldl (fun t th =>
    if s.tokenHeld th then t.updStrand th (fun st => { st with since := st.since + dt }) else t) s

/-- TOKEN_TIMEOUT (R146): a wait of 10 ms on one POP ends in a precise fault. -/
def execTokenTimeout (th : ThreadId) (s : State) : Host.Outcome State Fault Refusal :=
  match s.strand? th with
  | some st =>
    match st.run with
    | .parked (.token src) =>
      if 10000000 ≤ (s.tsc - st.since).toNat ∧ s.tokenHeld th = false then
        .next (s.takeFault th codeTokenTimeout (word src) 0#64 st.pc)
      else .next s
    | _ => .next s
  | none => .next s

/-- BARRIER_TIMEOUT (R243): the barrier and ARRIVED stay as they are. -/
def execBarrierTimeout (th : ThreadId) (s : State) : Host.Outcome State Fault Refusal :=
  match s.strand? th, s.coach? (threadQuad th) with
  | some st, some c =>
    match st.run with
    | .parked (.barrier h) =>
      match s.barrier c h with
      | some b =>
        let w := s.bar b
        let snap := ((SMap.get (fun _ => (none : Option (BitVec 16))) st.snaps h).getD 0#16).toNat
        if st.granted = false ∧ barLimit w < (s.tsc - st.since).toNat then
          .next (s.takeFault th codeBarrierTimeout (word h) (word (snap * 2 ^ 16 + barCount w)) st.pc)
        else .next s
      | none => .next s
    | _ => .next s
  | _, _ => .next s

/-- TIMER_EVENT (R124): event 3 latches in every strand. -/
def execTimerEvent (s : State) : Host.Outcome State Fault Refusal :=
  let tick := fun (st : Strand) => { st with latch := st.latch ||| 8#4 }
  let f := fun (c : Coach) => (List.range 11).foldl (fun c p => c.updStrand p tick) c
  let s : State := { s with coaches := s.coaches.map f }
  .next ([0, 1, 2, 3].foldl (fun s d => (List.range 8).foldl (fun s k =>
    s.updDray d k (fun x => { x with th := tick x.th })) s) s)

end Sys2Proof.Machine
end

