-- ==== Sys2Proof/Machine/Dispatch.lean ====
section
/-! DEFINITION. Dispatch: one arm per constructor of `Instr`. -/

namespace Sys2Proof.Machine

def exec (i : Instr) (s : State) : Host.Outcome State Fault Refusal :=
  match i with
  | .vadd k d a b y => Sys2Proof.Machine.execVadd k d a b y s
  | .vsub k d a b y => Sys2Proof.Machine.execVsub k d a b y s
  | .vmul k d a b y => Sys2Proof.Machine.execVmul k d a b y s
  | .vfma k d a b y => Sys2Proof.Machine.execVfma k d a b y s
  | .vfms k d a b y => Sys2Proof.Machine.execVfms k d a b y s
  | .vmin k d a b y => Sys2Proof.Machine.execVmin k d a b y s
  | .vmax k d a b y => Sys2Proof.Machine.execVmax k d a b y s
  | .vabs k d a y => Sys2Proof.Machine.execVabs k d a y s
  | .vneg k d a y => Sys2Proof.Machine.execVneg k d a y s
  | .vand k d a b y => Sys2Proof.Machine.execVand k d a b y s
  | .vor k d a b y => Sys2Proof.Machine.execVor k d a b y s
  | .vxor k d a b y => Sys2Proof.Machine.execVxor k d a b y s
  | .vshl k d a n y => Sys2Proof.Machine.execVshl k d a n y s
  | .vshr k d a n y => Sys2Proof.Machine.execVshr k d a n y s
  | .vsra k d a n y => Sys2Proof.Machine.execVsra k d a n y s
  | .vcmp k a b c m y => Sys2Proof.Machine.execVcmp k a b c m y s
  | .vsel k d a b y => Sys2Proof.Machine.execVsel k d a b y s
  | .vmov k d a y => Sys2Proof.Machine.execVmov k d a y s
  | .vbcs k d sr y => Sys2Proof.Machine.execVbcs k d sr y s
  | .vmovs k a sr y => Sys2Proof.Machine.execVmovs k a sr y s
  | .vins k d sr y => Sys2Proof.Machine.execVins k d sr y s
  | .vexp2 k d a => Sys2Proof.Machine.execVexp2 k d a s
  | .vlog2 k d a => Sys2Proof.Machine.execVlog2 k d a s
  | .vrcp k d a => Sys2Proof.Machine.execVrcp k d a s
  | .vrsq k d a => Sys2Proof.Machine.execVrsq k d a s
  | .vcvt k d a r f c => Sys2Proof.Machine.execVcvt k d a r f c s
  | .vpack k d a b y => Sys2Proof.Machine.execVpack k d a b y s
  | .vunpk k d a b y => Sys2Proof.Machine.execVunpk k d a b y s
  | .vreds k d a y => Sys2Proof.Machine.execVreds k d a y s
  | .vredm k d a n y => Sys2Proof.Machine.execVredm k d a n y s
  | .vscan k d a n y => Sys2Proof.Machine.execVscan k d a n y s
  | .vperm k d a b y => Sys2Proof.Machine.execVperm k d a b y s
  | .vrot k d a n y => Sys2Proof.Machine.execVrot k d a n y s
  | .vld k tr e sr y => Sys2Proof.Machine.execVld k tr e sr y s
  | .vst k tr e sr y => Sys2Proof.Machine.execVst k tr e sr y s
  | .vatomAdd k tr e sr y => Sys2Proof.Machine.execVatomAdd k tr e sr y s
  | .vatomMin k tr e sr y => Sys2Proof.Machine.execVatomMin k tr e sr y s
  | .vatomMax k tr e sr y => Sys2Proof.Machine.execVatomMax k tr e sr y s
  | .vatomSwp k tr e sr y => Sys2Proof.Machine.execVatomSwp k tr e sr y s
  | .vdefer k tr e sr y => Sys2Proof.Machine.execVdefer k tr e sr y s
  | .vdrain k => Sys2Proof.Machine.execVdrain k s
  | .setm k m => Sys2Proof.Machine.execSetm k m s
  | .mand k d a b => Sys2Proof.Machine.execMand k d a b s
  | .mor k d a b => Sys2Proof.Machine.execMor k d a b s
  | .mxor k d a b => Sys2Proof.Machine.execMxor k d a b s
  | .mnot k d a => Sys2Proof.Machine.execMnot k d a s
  | .mpopc k sr m => Sys2Proof.Machine.execMpopc k sr m s
  | .viota k d y => Sys2Proof.Machine.execViota k d y s
  | .vclr k d => Sys2Proof.Machine.execVclr k d s
  | .mwld k a f => Sys2Proof.Machine.execMwld k a f s
  | .mma k a b c f => Sys2Proof.Machine.execMma k a b c f s
  | .mmas k a b c f => Sys2Proof.Machine.execMmas k a b c f s
  | .mgath k a b => Sys2Proof.Machine.execMgath k a b s
  | .mzero k c => Sys2Proof.Machine.execMzero k c s
  | .mkat k seed f low high => Sys2Proof.Machine.execMkat k seed f low high s
  | .mstatOccupancy k d => Sys2Proof.Machine.execMstatOccupancy k d s
  | .mstatSticky k d => Sys2Proof.Machine.execMstatSticky k d s
  | .mstatRetired k d => Sys2Proof.Machine.execMstatRetired k d s
  | .mwait k n => Sys2Proof.Machine.execMwait k n s
  | .cpy k d sr c l => Sys2Proof.Machine.execCpy k d sr c l s
  | .cpyc k d sr c l fo => Sys2Proof.Machine.execCpyc k d sr c l fo s
  | .cpyg k d sr c l => Sys2Proof.Machine.execCpyg k d sr c l s
  | .cpys k d sr c l => Sys2Proof.Machine.execCpys k d sr c l s
  | .cpyr k d sr c l => Sys2Proof.Machine.execCpyr k d sr c l s
  | .cpyh k d sr c l v => Sys2Proof.Machine.execCpyh k d sr c l v s
  | .cfill k d c l v => Sys2Proof.Machine.execCfill k d c l v s
  | .cpfx k sr c l => Sys2Proof.Machine.execCpfx k sr c l s
  | .cwb k sr c => Sys2Proof.Machine.execCwb k sr c s
  | .cwait k n => Sys2Proof.Machine.execCwait k n s
  | .hfin k d => Sys2Proof.Machine.execHfin k d s
  | .cqbindSend k q e sr => Sys2Proof.Machine.execCqbindSend k q e sr s
  | .cqbindRecv k q e sr => Sys2Proof.Machine.execCqbindRecv k q e sr s
  | .cqunbDrain k q => Sys2Proof.Machine.execCqunbDrain k q s
  | .cqunbDiscard k q => Sys2Proof.Machine.execCqunbDiscard k q s
  | .cqsend k q e sr => Sys2Proof.Machine.execCqsend k q e sr s
  | .cqrecv k q e sr => Sys2Proof.Machine.execCqrecv k q e sr s
  | .cqstatStatus k q sr => Sys2Proof.Machine.execCqstatStatus k q sr s
  | .cqstatRows k q sr => Sys2Proof.Machine.execCqstatRows k q sr s
  | .cqstatCredits k q sr => Sys2Proof.Machine.execCqstatCredits k q sr s
  | .aadd k d b v c m e => Sys2Proof.Machine.execAadd k d b v c m e s
  | .aand k d b v c m e => Sys2Proof.Machine.execAand k d b v c m e s
  | .aor k d b v c m e => Sys2Proof.Machine.execAor k d b v c m e s
  | .axor k d b v c m e => Sys2Proof.Machine.execAxor k d b v c m e s
  | .aswp k d b v c m e => Sys2Proof.Machine.execAswp k d b v c m e s
  | .acas k d b v c m e => Sys2Proof.Machine.execAcas k d b v c m e s
  | .amin k d b v c m e => Sys2Proof.Machine.execAmin k d b v c m e s
  | .amax k d b v c m e => Sys2Proof.Machine.execAmax k d b v c m e s
  | .aminu k d b v c m e => Sys2Proof.Machine.execAminu k d b v c m e s
  | .amaxu k d b v c m e => Sys2Proof.Machine.execAmaxu k d b v c m e s
  | .aaddW k d b v c m e => Sys2Proof.Machine.execAaddW k d b v c m e s
  | .aswpW k d b v c m e => Sys2Proof.Machine.execAswpW k d b v c m e s
  | .acasW k d b v c m e => Sys2Proof.Machine.execAcasW k d b v c m e s
  | .fork k d a o => Sys2Proof.Machine.execFork k d a o s
  | .join k a => Sys2Proof.Machine.execJoin k a s
  | .syield k => Sys2Proof.Machine.execSyield k s
  | .sexit k => Sys2Proof.Machine.execSexit k s
  | .bsel k d a b => Sys2Proof.Machine.execBsel k d a b s
  | .launch k a b => Sys2Proof.Machine.execLaunch k a b s
  | .launchImm k a b => Sys2Proof.Machine.execLaunchImm k a b s
  | .qnotify k a => Sys2Proof.Machine.execQnotify k a s
  | .txstat k d => Sys2Proof.Machine.execTxstat k d s
  | .txabort k c => Sys2Proof.Machine.execTxabort k c s
  | .txclaim k a b => Sys2Proof.Machine.execTxclaim k a b s
  | .gateRead k d a => Sys2Proof.Machine.execGateRead k d a s
  | .gateAdd k d a b => Sys2Proof.Machine.execGateAdd k d a b s
  | .gateWaitge k d a b => Sys2Proof.Machine.execGateWaitge k d a b s
  | .eret k d a => Sys2Proof.Machine.execEret k d a s
  | .fres k d a => Sys2Proof.Machine.execFres k d a s
  | .fkill k d a => Sys2Proof.Machine.execFkill k d a s
  | .freeze k d a => Sys2Proof.Machine.execFreeze k d a s
  | .thaw k d a => Sys2Proof.Machine.execThaw k d a s
  | .pre k d a b => Sys2Proof.Machine.execPre k d a b s
  | .preResume k d a b => Sys2Proof.Machine.execPreResume k d a b s
  | .preTask k d a b => Sys2Proof.Machine.execPreTask k d a b s
  | .preInsn k d a b => Sys2Proof.Machine.execPreInsn k d a b s
  | .preKill k d a b => Sys2Proof.Machine.execPreKill k d a b s
  | .moult k d a b => Sys2Proof.Machine.execMoult k d a b s
  | .unmoult k d a b => Sys2Proof.Machine.execUnmoult k d a b s
  | .qmap k d a b => Sys2Proof.Machine.execQmap k d a b s
  | .qunmap k d a => Sys2Proof.Machine.execQunmap k d a s
  | .semmap k d a b => Sys2Proof.Machine.execSemmap k d a b s
  | .barmap k d a b => Sys2Proof.Machine.execBarmap k d a b s
  | .idmap k a b => Sys2Proof.Machine.execIdmap k a b s
  | .timeofs k d a b => Sys2Proof.Machine.execTimeofs k d a b s
  | .s1inv k => Sys2Proof.Machine.execS1inv k s
  | .s1invPage k a b => Sys2Proof.Machine.execS1invPage k a b s
  | .s1invSlice k b => Sys2Proof.Machine.execS1invSlice k b s
  | .s2inv k => Sys2Proof.Machine.execS2inv k s
  | .s2invPage k a b => Sys2Proof.Machine.execS2invPage k a b s
  | .s2invDomain k b => Sys2Proof.Machine.execS2invDomain k b s
  | .winset k a b => Sys2Proof.Machine.execWinset k a b s
  | .rights k d a b => Sys2Proof.Machine.execRights k d a b s
  | .rightsRevoke k d a b => Sys2Proof.Machine.execRightsRevoke k d a b s
  | .rightsRead k d a => Sys2Proof.Machine.execRightsRead k d a s
  | .fmask k d a b => Sys2Proof.Machine.execFmask k d a b s
  | .slotw k d a b => Sys2Proof.Machine.execSlotw k d a b s
  | .wset k d a b => Sys2Proof.Machine.execWset k d a b s
  | .wsetShard k d a b => Sys2Proof.Machine.execWsetShard k d a b s
  | .wsetVerify k d a => Sys2Proof.Machine.execWsetVerify k d a s
  | .wsetFree k d a => Sys2Proof.Machine.execWsetFree k d a s
  | .wswap k d a => Sys2Proof.Machine.execWswap k d a s
  | .enset k d a b => Sys2Proof.Machine.execEnset k d a b s
  | .walksave k d a b => Sys2Proof.Machine.execWalksave k d a b s
  | .walkload k d a b => Sys2Proof.Machine.execWalkload k d a b s
  | .katset k d a b => Sys2Proof.Machine.execKatset k d a b s
  | .csrx k d a b n => Sys2Proof.Machine.execCsrx k d a b n s
  | .csrxW k d a b n => Sys2Proof.Machine.execCsrxW k d a b n s
  | .csrxS k d a b n => Sys2Proof.Machine.execCsrxS k d a b n s
  | .csrxC k d a b n => Sys2Proof.Machine.execCsrxC k d a b n s
  | .nop k => Sys2Proof.Machine.execNop k s
  | .add k d a b => Sys2Proof.Machine.execAdd k d a b s
  | .sub k d a b => Sys2Proof.Machine.execSub k d a b s
  | .andd k d a b => Sys2Proof.Machine.execAndd k d a b s
  | .orr k d a b => Sys2Proof.Machine.execOrr k d a b s
  | .xorr k d a b => Sys2Proof.Machine.execXorr k d a b s
  | .shl k d a b => Sys2Proof.Machine.execShl k d a b s
  | .shr k d a b => Sys2Proof.Machine.execShr k d a b s
  | .sra k d a b => Sys2Proof.Machine.execSra k d a b s
  | .slt k d a b => Sys2Proof.Machine.execSlt k d a b s
  | .sltu k d a b => Sys2Proof.Machine.execSltu k d a b s
  | .min k d a b => Sys2Proof.Machine.execMin k d a b s
  | .max k d a b => Sys2Proof.Machine.execMax k d a b s
  | .minu k d a b => Sys2Proof.Machine.execMinu k d a b s
  | .maxu k d a b => Sys2Proof.Machine.execMaxu k d a b s
  | .andn k d a b => Sys2Proof.Machine.execAndn k d a b s
  | .lea0 k d a b => Sys2Proof.Machine.execLea0 k d a b s
  | .lea1 k d a b => Sys2Proof.Machine.execLea1 k d a b s
  | .lea2 k d a b => Sys2Proof.Machine.execLea2 k d a b s
  | .lea3 k d a b => Sys2Proof.Machine.execLea3 k d a b s
  | .mul k d a b => Sys2Proof.Machine.execMul k d a b s
  | .mulh k d a b => Sys2Proof.Machine.execMulh k d a b s
  | .mulhu k d a b => Sys2Proof.Machine.execMulhu k d a b s
  | .div k d a b => Sys2Proof.Machine.execDiv k d a b s
  | .divu k d a b => Sys2Proof.Machine.execDivu k d a b s
  | .rem k d a b => Sys2Proof.Machine.execRem k d a b s
  | .remu k d a b => Sys2Proof.Machine.execRemu k d a b s
  | .clz k d a => Sys2Proof.Machine.execClz k d a s
  | .ctz k d a => Sys2Proof.Machine.execCtz k d a s
  | .popc k d a => Sys2Proof.Machine.execPopc k d a s
  | .sext8 k d a => Sys2Proof.Machine.execSext8 k d a s
  | .sext16 k d a => Sys2Proof.Machine.execSext16 k d a s
  | .sext32 k d a => Sys2Proof.Machine.execSext32 k d a s
  | .zext8 k d a => Sys2Proof.Machine.execZext8 k d a s
  | .zext16 k d a => Sys2Proof.Machine.execZext16 k d a s
  | .zext32 k d a => Sys2Proof.Machine.execZext32 k d a s
  | .brev k d a => Sys2Proof.Machine.execBrev k d a s
  | .addi k d a n => Sys2Proof.Machine.execAddi k d a n s
  | .andi k d a n => Sys2Proof.Machine.execAndi k d a n s
  | .ori k d a n => Sys2Proof.Machine.execOri k d a n s
  | .xori k d a n => Sys2Proof.Machine.execXori k d a n s
  | .slti k d a n => Sys2Proof.Machine.execSlti k d a n s
  | .sltiu k d a n => Sys2Proof.Machine.execSltiu k d a n s
  | .shli k d a sr => Sys2Proof.Machine.execShli k d a sr s
  | .shri k d a sr => Sys2Proof.Machine.execShri k d a sr s
  | .srai k d a sr => Sys2Proof.Machine.execSrai k d a sr s
  | .muli k d a n => Sys2Proof.Machine.execMuli k d a n s
  | .li k d n => Sys2Proof.Machine.execLi k d n s
  | .likH1 k d n => Sys2Proof.Machine.execLikH1 k d n s
  | .likH2 k d n => Sys2Proof.Machine.execLikH2 k d n s
  | .likH3 k d n => Sys2Proof.Machine.execLikH3 k d n s
  | .bEq k a b o => Sys2Proof.Machine.execBEq k a b o s
  | .bNe k a b o => Sys2Proof.Machine.execBNe k a b o s
  | .bLt k a b o => Sys2Proof.Machine.execBLt k a b o s
  | .bGe k a b o => Sys2Proof.Machine.execBGe k a b o s
  | .bLtu k a b o => Sys2Proof.Machine.execBLtu k a b o s
  | .bGeu k a b o => Sys2Proof.Machine.execBGeu k a b o s
  | .j k o => Sys2Proof.Machine.execJ k o s
  | .jal k o => Sys2Proof.Machine.execJal k o s
  | .jr k d a o => Sys2Proof.Machine.execJr k d a o s
  | .loop k a o => Sys2Proof.Machine.execLoop k a o s
  | .loopi k c l => Sys2Proof.Machine.execLoopi k c l s
  | .endTask k => Sys2Proof.Machine.execEndTask k s
  | .semP k a n => Sys2Proof.Machine.execSemP k a n s
  | .semV k a n => Sys2Proof.Machine.execSemV k a n s
  | .semTryp k d a n => Sys2Proof.Machine.execSemTryp k d a n s
  | .semRead k d a n => Sys2Proof.Machine.execSemRead k d a n s
  | .cbarA k h => Sys2Proof.Machine.execCbarA k h s
  | .cbarW k h => Sys2Proof.Machine.execCbarW k h s
  | .cbarAw k h => Sys2Proof.Machine.execCbarAw k h s
  | .ld k tr b c o sr => Sys2Proof.Machine.execLd k tr b c o sr s
  | .ldu k tr b c o sr => Sys2Proof.Machine.execLdu k tr b c o sr s
  | .st k tr b c o sr => Sys2Proof.Machine.execSt k tr b c o sr s
  | .lda k tr b c e o sr => Sys2Proof.Machine.execLda k tr b c e o sr s
  | .stl k tr b c e o sr => Sys2Proof.Machine.execStl k tr b c e o sr s
  | .ldsp k tr b kk o sr => Sys2Proof.Machine.execLdsp k tr b kk o sr s
  | .stsp k tr b kk o sr => Sys2Proof.Machine.execStsp k tr b kk o sr s
  | .fenceAcq k a e h => Sys2Proof.Machine.execFenceAcq k a e h s
  | .fenceRel k a e h => Sys2Proof.Machine.execFenceRel k a e h s
  | .fenceFull k a e h => Sys2Proof.Machine.execFenceFull k a e h s
  | .tfence k => Sys2Proof.Machine.execTfence k s
  | .csrr k d n => Sys2Proof.Machine.execCsrr k d n s
  | .csrw k d a n => Sys2Proof.Machine.execCsrw k d a n s
  | .csrs k d a n => Sys2Proof.Machine.execCsrs k d a n s
  | .csrc k d a n => Sys2Proof.Machine.execCsrc k d a n s
  | .qfeat k d a n => Sys2Proof.Machine.execQfeat k d a n s
  | .timeNs k d => Sys2Proof.Machine.execTimeNs k d s
  | .timeClocks k d => Sys2Proof.Machine.execTimeClocks k d s
  | .timeEnergy k d => Sys2Proof.Machine.execTimeEnergy k d s
  | .ecall k c => Sys2Proof.Machine.execEcall k c s
  | .ebreak k c => Sys2Proof.Machine.execEbreak k c s
  | .waite k a m => Sys2Proof.Machine.execWaite k a m s
  | .dset k e sr => Sys2Proof.Machine.execDset k e sr s
  | .dget k e sr => Sys2Proof.Machine.execDget k e sr s
  | .dadd k e sr => Sys2Proof.Machine.execDadd k e sr s
  | .idCoach k d => Sys2Proof.Machine.execIdCoach k d s
  | .idCore k d => Sys2Proof.Machine.execIdCore k d s
  | .idCluster k d => Sys2Proof.Machine.execIdCluster k d s
  | .idDie k d => Sys2Proof.Machine.execIdDie k d s
  | .idSlice k d => Sys2Proof.Machine.execIdSlice k d s
  | .idShape k d => Sys2Proof.Machine.execIdShape k d s
  | .strandReady th => Sys2Proof.Machine.execStrandReady th s
  | .waiteTimeout th => Sys2Proof.Machine.execWaiteTimeout th s
  | .timerEvent => Sys2Proof.Machine.execTimerEvent s
  | .tokenTimeout th => Sys2Proof.Machine.execTokenTimeout th s
  | .barrierTimeout th => Sys2Proof.Machine.execBarrierTimeout th s
  | .walkerPick die => Sys2Proof.Machine.execWalkerPick die s
  | .loaderPlaneLoad quad tag => Sys2Proof.Machine.execLoaderPlaneLoad quad tag s
  | .taskStart quad => Sys2Proof.Machine.execTaskStart quad s
  | .taskDrain quad => Sys2Proof.Machine.execTaskDrain quad s
  | .shareWindow die => Sys2Proof.Machine.execShareWindow die s
  | .notifyEvent slice queue => Sys2Proof.Machine.execNotifyEvent slice queue s
  | .doorbell fn queue => Sys2Proof.Machine.execDoorbell fn queue s
  | .slotTake die slot => Sys2Proof.Machine.execSlotTake die slot s
  | .slotScan die => Sys2Proof.Machine.execSlotScan die s
  | .launchReady tag => Sys2Proof.Machine.execLaunchReady tag s
  | .appendRetry tag => Sys2Proof.Machine.execAppendRetry tag s
  | .stageRequest req => Sys2Proof.Machine.execStageRequest req s
  | .conflictWaitApply req => Sys2Proof.Machine.execConflictWaitApply req s
  | .waitCycleCheck tag => Sys2Proof.Machine.execWaitCycleCheck tag s
  | .commitPending tag => Sys2Proof.Machine.execCommitPending tag s
  | .pendingAck tag die => Sys2Proof.Machine.execPendingAck tag die s
  | .stagedMerge tag => Sys2Proof.Machine.execStagedMerge tag s
  | .discardAck tag die => Sys2Proof.Machine.execDiscardAck tag die s
  | .homeAccess req => Sys2Proof.Machine.execHomeAccess req s
  | .memorySideAtomic req => Sys2Proof.Machine.execMemorySideAtomic req s
  | .wayMove die => Sys2Proof.Machine.execWayMove die s
  | .scrubLine line found => Sys2Proof.Machine.execScrubLine line found s
  | .scrubRateEval stack tempC corrected => Sys2Proof.Machine.execScrubRateEval stack tempC corrected s
  | .pageWalk cluster slice tva kind => Sys2Proof.Machine.execPageWalk cluster slice tva kind s
  | .faultDelivery rec => Sys2Proof.Machine.execFaultDelivery rec s
  | .pendingRecordDelivery rec => Sys2Proof.Machine.execPendingRecordDelivery rec s
  | .coachHeld quad => Sys2Proof.Machine.execCoachHeld quad s
  | .preT1Expiry die slice => Sys2Proof.Machine.execPreT1Expiry die slice s
  | .preT2Expiry die slice => Sys2Proof.Machine.execPreT2Expiry die slice s
  | .mmaBoundaryTimeout quad => Sys2Proof.Machine.execMmaBoundaryTimeout quad s
  | .copyCommandStart quad => Sys2Proof.Machine.execCopyCommandStart quad s
  | .beatIssue quad => Sys2Proof.Machine.execBeatIssue quad s
  | .beatAck quad => Sys2Proof.Machine.execBeatAck quad s
  | .matrixOpStart quad => Sys2Proof.Machine.execMatrixOpStart quad s
  | .matrixOpComplete quad => Sys2Proof.Machine.execMatrixOpComplete quad s
  | .katFloorTest quad defect => Sys2Proof.Machine.execKatFloorTest quad defect s
  | .vectorStart quad => Sys2Proof.Machine.execVectorStart quad s
  | .vectorRetire quad => Sys2Proof.Machine.execVectorRetire quad s
  | .deferWriteAck quad => Sys2Proof.Machine.execDeferWriteAck quad s
  | .watchdogExpiry unit => Sys2Proof.Machine.execWatchdogExpiry unit s
  | .idleFlit port fl => Sys2Proof.Machine.execIdleFlit port fl s
  | .lackFlit port fl => Sys2Proof.Machine.execLackFlit port fl s
  | .flitDiscard port crcBad => Sys2Proof.Machine.execFlitDiscard port crcBad s
  | .reservedFlit port fl => Sys2Proof.Machine.execReservedFlit port fl s
  | .rowFlit port fl => Sys2Proof.Machine.execRowFlit port fl s
  | .readFlit port fl => Sys2Proof.Machine.execReadFlit port fl s
  | .writeFlit port fl => Sys2Proof.Machine.execWriteFlit port fl s
  | .writepFlit port fl => Sys2Proof.Machine.execWritepFlit port fl s
  | .atomicFlit port fl => Sys2Proof.Machine.execAtomicFlit port fl s
  | .readrspFlit port fl => Sys2Proof.Machine.execReadrspFlit port fl s
  | .wrackFlit port fl => Sys2Proof.Machine.execWrackFlit port fl s
  | .atomrspFlit port fl => Sys2Proof.Machine.execAtomrspFlit port fl s
  | .nackFlit port fl => Sys2Proof.Machine.execNackFlit port fl s
  | .cqcredFlit port fl => Sys2Proof.Machine.execCqcredFlit port fl s
  | .cqcloseFlit port fl => Sys2Proof.Machine.execCqcloseFlit port fl s
  | .pullFlit port fl => Sys2Proof.Machine.execPullFlit port fl s
  | .pageFlit port fl => Sys2Proof.Machine.execPageFlit port fl s
  | .refuseFlit port fl => Sys2Proof.Machine.execRefuseFlit port fl s
  | .ackProgressTimeout port => Sys2Proof.Machine.execAckProgressTimeout port s
  | .retrainDone port => Sys2Proof.Machine.execRetrainDone port s
  | .retrainTimeout port => Sys2Proof.Machine.execRetrainTimeout port s
  | .creditReturnTimeout port => Sys2Proof.Machine.execCreditReturnTimeout port s
  | .flitHoldTimeout held => Sys2Proof.Machine.execFlitHoldTimeout held s
  | .circuitSlot die table slot => Sys2Proof.Machine.execCircuitSlot die table slot s
  | .slotTableUpdate die => Sys2Proof.Machine.execSlotTableUpdate die s
  | .requestResend tag => Sys2Proof.Machine.execRequestResend tag s
  | .duplicateFullResend tag => Sys2Proof.Machine.execDuplicateFullResend tag s
  | .remoteGiveUp tag => Sys2Proof.Machine.execRemoteGiveUp tag s
  | .duplicateEntryExpiry node tag => Sys2Proof.Machine.execDuplicateEntryExpiry node tag s
  | .cqTimeout quad endp => Sys2Proof.Machine.execCqTimeout quad endp s
  | .hostRead fn off len => Sys2Proof.Machine.execHostRead fn off len s
  | .hostWrite fn off len data => Sys2Proof.Machine.execHostWrite fn off len data s
  | .hostCompletion id status data => Sys2Proof.Machine.execHostCompletion id status data s
  | .completionTimeout id => Sys2Proof.Machine.execCompletionTimeout id s
  | .pxdone index w2 => Sys2Proof.Machine.execPxdone index w2 s
  | .proxyTimeout index => Sys2Proof.Machine.execProxyTimeout index s
  | .frcons fn count => Sys2Proof.Machine.execFrcons fn count s
  | .loadRequest die slice => Sys2Proof.Machine.execLoadRequest die slice s
  | .loadDone die slice => Sys2Proof.Machine.execLoadDone die slice s
  | .migrationExport slice => Sys2Proof.Machine.execMigrationExport slice s
  | .migrationImport slice => Sys2Proof.Machine.execMigrationImport slice s
  | .migrationRelease slice => Sys2Proof.Machine.execMigrationRelease slice s
  | .migrationClear slice => Sys2Proof.Machine.execMigrationClear slice s
  | .pullResend pull => Sys2Proof.Machine.execPullResend pull s
  | .migrationLoss slice => Sys2Proof.Machine.execMigrationLoss slice s
  | .memoryWayWrite die val => Sys2Proof.Machine.execMemoryWayWrite die val s
  | .allotmentWrite die slice val => Sys2Proof.Machine.execAllotmentWrite die slice val s
  | .repadd die val => Sys2Proof.Machine.execRepadd die val s
  | .cocoonBlockWrite w => Sys2Proof.Machine.execCocoonBlockWrite w s
  | .weightBlockWrite w => Sys2Proof.Machine.execWeightBlockWrite w s
  | .routeBlockWrite w => Sys2Proof.Machine.execRouteBlockWrite w s
  | .sliceBlockWrite w => Sys2Proof.Machine.execSliceBlockWrite w s
  | .strandTableWrite w => Sys2Proof.Machine.execStrandTableWrite w s
  | .watchpointWrite w => Sys2Proof.Machine.execWatchpointWrite w s
  | .retrainWrite port => Sys2Proof.Machine.execRetrainWrite port s
  | .controlStructureWrite w => Sys2Proof.Machine.execControlStructureWrite w s
  | .energyCharge slice cls count => Sys2Proof.Machine.execEnergyCharge slice cls count s
  | .energyRefill => Sys2Proof.Machine.execEnergyRefill s
  | .thermalSample junctionC powerW => Sys2Proof.Machine.execThermalSample junctionC powerW s
  | .coldReset => Sys2Proof.Machine.execColdReset s
  | .warmReset => Sys2Proof.Machine.execWarmReset s
  | .attest => Sys2Proof.Machine.execAttest s
  | .undefWord w => Sys2Proof.Machine.execUndefWord w s
  | .katFloorFreeze quad defect => Sys2Proof.Machine.execKatFloorFreeze quad defect s

end Sys2Proof.Machine
end

