-- ==== Sys2Proof/Machine/Due.lean ====
section
/-! DEFINITION. Due: the steps that the part may make on its own in a state. Each of them looks again, when its turn comes,
at whether its rule still lets it happen; what the manual bounds by no time may be put off (log entry 3). -/

namespace Sys2Proof.Machine

/-- Periods of a length that have ended since the steps were last listed. -/
def State.periods (s : State) (ns : Nat) : Nat := s.tsc.toNat / ns - s.dueAt.toNat / ns

/-! ## Time -/

/-- Charges for bound quadrants, one for each slice that has any. -/
def State.dueCharges (s : State) : List Event :=
  let n := s.periods 1000
  if n = 0 then []
  else
    let count := fun i => ((s.coaches.filter (fun c => c.slice == i)).map (fun c => c.quads.length)).foldl (fun a b => a + b) 0
    ((s.coaches.map (fun c => c.slice)).eraseDups).map (fun i => .energyCharge i .boundQuadrant (n * count i))

/-- TIMER (R124), the refill of the accounts (R456) and the share windows (R260). -/
def State.dueTime (s : State) : List Event :=
  (if s.periods 1024 = 0 then [] else [.timerEvent]) ++ s.dueCharges ++
  List.replicate (s.periods 1000000) .energyRefill ++
  ([0, 1, 2, 3].filter (fun d => decide (1000000 ≤ (s.tsc - (s.die d).winStart).toNat))).map .shareWindow

/-! ## Threads -/

/-- Every thread of the part. -/
def State.threads (s : State) : List ThreadId :=
  [0, 1, 2, 3].flatMap (fun d => (List.range 8).map (fun k => .dray d k)) ++
    s.coaches.flatMap (fun c => (List.range 11).map (fun p => .coach c.quad p))

/-- What may end a thread's wait. -/
def State.dueThread (s : State) (th : ThreadId) : List Event :=
  match s.strand? th with
  | none => []
  | some st =>
  match st.run with
  | .parked w =>
    (if s.wakeable th then [.strandReady th] else []) ++
    (match w with
      | .event _ (some _) => [.waiteTimeout th]
      | .token _ => [.tokenTimeout th]
      | .barrier _ => [.barrierTimeout th]
      | _ => [])
  | _ => []

/-! ## Coaches -/

/-- An event for a condition. -/
def dueIf (p : Bool) (e : Event) : List Event := if p then [e] else []

/-- What a coach's units may do. -/
def State.dueCoach (s : State) (c : Coach) : List Event :=
  let q := c.quad
  dueIf (c.phase == .loading) (.loaderPlaneLoad q c.tag) ++
  dueIf (c.phase != .running) (.taskStart q) ++
  dueIf (s.drained c) (.taskDrain q) ++
  dueIf (c.frozen || s.preState (quadDie q) c.slice != 0) (.coachHeld q) ++
  dueIf c.stopAt.isSome (.mmaBoundaryTimeout q) ++
  dueIf (!c.copyq.isEmpty) (.copyCommandStart q) ++ dueIf (!c.copyq.isEmpty) (.beatIssue q) ++
  dueIf (!c.copyq.isEmpty) (.beatAck q) ++
  dueIf (!c.matq.isEmpty) (.matrixOpStart q) ++ dueIf (!c.matq.isEmpty) (.matrixOpComplete q) ++
  dueIf (!c.unit.isEmpty) (.vectorStart q) ++ dueIf (!c.unit.isEmpty) (.vectorRetire q) ++
  dueIf (!c.defer.isEmpty) (.deferWriteAck q) ++
  (c.ends.filter (fun e => e.2.waitFrom.isSome)).map (fun e => .cqTimeout q e.1)

/-! ## Launches and queues -/

/-- What may happen to a launch. -/
def State.dueLaunch (s : State) (l : Launch) : List Event :=
  let st := (s.tag l.tag).st
  dueIf (s.mayBeReady l) (.launchReady l.tag) ++
  dueIf (s.waiting.any (fun w => (w.req.tag.map (fun t => t.1)) == some l.tag)) (.waitCycleCheck l.tag) ++
  dueIf (s.mayCommit l) (.commitPending l.tag) ++
  (if st == .pending || l.promoting then [0, 1, 2, 3].map (.pendingAck l.tag) else []) ++
  (if s.aborting l then [0, 1, 2, 3].map (.discardAck l.tag) else []) ++
  dueIf (st == .committed) (.appendRetry l.tag)

/-- What a die's slots and walker may do, and what stands in its queues. -/
def State.dueDie (s : State) (d : Nat) : List Event :=
  let x := s.die d
  (x.slots.filter (fun e => e.2.queue.isSome)).map (fun e => .slotTake d e.1) ++ [.walkerPick d] ++
  dueIf (!x.scans.isEmpty) (.slotScan d) ++
  dueIf (!x.moves.isEmpty) (.wayMove d) ++ dueIf (!x.slotNew.isEmpty) (.slotTableUpdate d) ++
  x.rows.flatMap (fun r => ((List.range 256).filter (fun i =>
    let e := s.slotEntry d r.1 i
    slotV e && slotIn e == r.2.1 && slotCirc e == bits r.2.2.2.h1 63 48)).map (.circuitSlot d r.1))

/-- A request for pre-emption: a stopped die settles, and the timers run out. -/
def State.duePre (s : State) (r : PreReq) : List Event :=
  dueIf (s.preState r.die r.slice == 1 && s.dieStopped r.die r.slice) (.coachHeld (128 * r.die)) ++
  dueIf (decide (r.t1 ≤ s.preAge r)) (.preT1Expiry r.die r.slice) ++
  dueIf (decide (r.t2 ≤ s.preAge r)) (.preT2Expiry r.die r.slice)

/-! ## Memory -/

/-- The step that applies a request at its home. -/
def HomeReq.due (r : HomeReq) : Event :=
  if r.atom.isSome then .memorySideAtomic r.id else if r.staging then .stageRequest r.id else .homeAccess r.id

/-! ## Links, other parts and the host -/

/-- Time since a moment. -/
def State.after (s : State) (t : Word) (ns : Nat) : Bool := decide (ns ≤ (s.tsc - t).toNat)

/-- What a port may do. -/
def State.duePort (s : State) (p : Nat) : List Event :=
  let x := s.port p
  dueIf (!x.owed.isEmpty && s.portState p == 2) (.creditReturnTimeout p) ++
  dueIf (!x.replay.isEmpty && s.after x.progress 10000) (.ackProgressTimeout p) ++
  dueIf (s.portState p == 1 && s.after x.progress 1000000) (.retrainTimeout p) ++
  dueIf (x.queue.any (fun e => isAsk e.2 && s.after e.1 10000)) (.flitHoldTimeout p)

/-- What a request to another part may come to. -/
def State.dueRemote (s : State) (r : RemoteReq) : List Event :=
  dueIf (s.after r.last 20000) (.requestResend r.tag) ++ dueIf (r.full && s.after r.last 1000) (.duplicateFullResend r.tag) ++
  dueIf (s.after r.first 260000) (.remoteGiveUp r.tag)

/-- The resends of the page pulls. -/
def State.duePulls (s : State) : List Event :=
  ((List.range s.pulls.length).filter (fun i =>
    ((s.pulls[i]?).map (fun p => s.after p.last 1000000)).getD false)).map .pullResend ++
  (((s.pulls.filter s.pullLate).map (fun p => p.slice)).eraseDups).map .migrationLoss ++
  ((List.range 64).filter (fun i => bits (s.pmWord 0 (migBlock i)) 10 8 == 2)).map .migrationImport

/-- The known-answer tests that are due. -/
def State.dueKat (s : State) (q : Nat) : List Event :=
  match s.katLate q with
  | none => []
  | some n =>
    let bad := Config.arrayFaulty s.steps q
    if s.matrixBusy q = false then [.katFloorTest q bad] else dueIf (decide (1000000 ≤ n)) (.katFloorFreeze q bad)

/-! ## All of it -/

/-- Every step that the part may make on its own beside those of time. -/
def State.enabled (s : State) : List Event :=
  s.threads.flatMap s.dueThread ++ s.coaches.flatMap s.dueCoach ++ s.launches.flatMap s.dueLaunch ++
  ((s.tags.filter (fun e => e.2.st == .committed)).map (fun e => .stagedMerge e.1)) ++
  [0, 1, 2, 3].flatMap s.dueDie ++ s.notes.map (fun n => .notifyEvent n.1 n.2.1) ++ s.pres.flatMap s.duePre ++
  s.homeq.map HomeReq.due ++ (s.waiting.filter s.mayRetry).map (fun w => .conflictWaitApply w.req.id) ++
  s.faults.map (fun p => if p.waiting then .pendingRecordDelivery p.id else .faultDelivery p.id) ++
  (List.range 16).flatMap s.duePort ++ s.remote.flatMap s.dueRemote ++
  ((s.dups.filter (fun e => s.after e.at_ 200000)).map (fun e => .duplicateEntryExpiry e.node e.tag)) ++
  ((s.hostReqs.filter (fun r => s.after r.since 10000000)).map (fun r => .completionTimeout r.id)) ++
  ((s.proxies.filter (fun r => s.after r.since 10000000)).map (fun r => .proxyTimeout r.id)) ++
  (s.walks.filter (fun x => x.running)).map (fun x => .pageWalk x.cluster x.slice (word (4096 * x.page)) x.kind) ++
  s.loads.map (fun l => .loadDone l.die l.slice) ++ s.duePulls ++ (List.range 512).flatMap s.dueKat

/-- Those of a list that take their turn now. -/
def taking (step k : Nat) (es : List Event) : List Event :=
  match es with
  | [] => []
  | e :: es => if Config.dueNow step k then e :: taking step (k + 1) es else taking step (k + 1) es

/-- What is due: the steps that the passing of time makes cannot be put off. -/
def due (s : State) : List Event := if s.boot.halted then [] else s.dueTime ++ taking s.steps 0 s.enabled

end Sys2Proof.Machine
end

