-- ==== Sys2Proof/Machine/Frame.lean ====
section
/-! DEFINITION. Frame: the 280 bytes of a flit on the link: header, payload and CRC (R406, R407). The lane code under it,
RS(544,514), has been undone before a frame arrives (log entry 162). -/

namespace Sys2Proof.Machine

/-- One bit of the reflected CRC with polynomial 0x42F0E1EBA9EA3693 (R406). -/
def crcBit (c : Word) : Word := if c.getLsbD 0 then (c >>> 1) ^^^ 0xC96C5795D7870F42#64 else c >>> 1

/-- One byte of the CRC, least significant bit first. -/
def crcByte (c : Word) (b : Byte) : Word :=
  crcBit (crcBit (crcBit (crcBit (crcBit (crcBit (crcBit (crcBit (c ^^^ b.setWidth 64))))))))

/-- The 64-bit CRC of R406: all-ones at first, and complemented at the end. -/
def crc64 (bs : List Byte) : Word := ~~~ (bs.foldl crcByte (-1#64))

/-- The first header doubleword, with the fields of R407. -/
def flitHeader (fl : Flit) : Word :=
  fl.ty ++ fl.vc ++ fl.domain ++ fl.seq ++ fl.ack ++ fl.crch ++ fl.crinc ++ 0#1 ++ BitVec.ofBool fl.oper ++ fl.src ++ fl.dst

/-- The fields of a header and its payload (R407). -/
def flitOfHead (h0 h1 : Word) (payload : BitVec 2048) : Flit where
  ty := h0.extractLsb' 58 6
  vc := h0.extractLsb' 55 3
  domain := h0.extractLsb' 51 4
  seq := h0.extractLsb' 39 12
  ack := h0.extractLsb' 27 12
  crch := h0.extractLsb' 24 3
  crinc := h0.extractLsb' 18 6
  oper := h0.getLsbD 16
  src := h0.extractLsb' 8 8
  dst := h0.extractLsb' 0 8
  h1 := h1
  payload := payload

/-- Bytes 0-271 of a flit (R407): both header doublewords and the payload, little-endian. -/
def flitBody (fl : Flit) : BitVec 2176 := fl.payload ++ fl.h1 ++ flitHeader fl

/-- The bytes of a body, in the order that they are sent. -/
def bodyBytes (b : BitVec 2176) : List Byte := (List.range 272).map (fun i => b.extractLsb' (8 * i) 8)

/-- A flit on the link: its body, and the CRC in bytes 272-279. -/
def frameOf (fl : Flit) : BitVec 2240 := crc64 (bodyBytes (flitBody fl)) ++ flitBody fl

/-- The flit of a frame; none when its CRC fails (R406). -/
def flitOfFrame (f : BitVec 2240) : Option Flit :=
  let b := f.extractLsb' 0 2176
  if f.extractLsb' 2176 64 = crc64 (bodyBytes b) then
    some (flitOfHead (b.extractLsb' 0 64) (b.extractLsb' 64 64) (b.extractLsb' 128 2048))
  else none

end Sys2Proof.Machine
end

