-- ==== Sys2Proof/Machine/Upset.lean ====
section
/-! DEFINITION. Upset: what an uncorrectable error in the part's own state does (R113, R204, R233, R248, R280, R305, R370, R371,
R375). An upset is an input. DEDUCED: one that a read would find is taken in before that read (log entry 154). -/

namespace Sys2Proof.Machine

/-- The threads of a coach that wait at a barrier. -/
def State.barWaiters (s : State) (b : Nat) : List ThreadId :=
  s.coaches.flatMap (fun c => ((List.range 11).filter (fun p => s.waitsAt c b (c.strand p))).map (fun p => .coach c.quad p))

/-- A barrier with a parity error: every thread that waits on it takes UE_DETECTED, and BARMAP alone makes it usable again
(R248). -/
def State.barrierUe (s : State) (b : Nat) : State :=
  (s.barWaiters b).foldl State.userUe { s with barError := SMap.put noFlag s.barError b true }

/-- A semaphore with a parity error: each coach whose view names it takes UE_DETECTED, as its K strand 0 or as the strand that
waits; what its count holds then is not stated (R375). -/
def State.semaphoreUe (s : State) (sem : Nat) : State :=
  let waiting := ((s.quad (sem / 32)).semWait.filter (fun w => w.1 == sem)).map (fun w => w.2)
  let users := (s.coaches.filter (fun c => viewNames c sem)).map (fun c => ThreadId.coach c.quad 0)
  let s := (waiting ++ users).foldl (fun s th =>
    match s.launchOf th with
    | some l => if l.cause = 0#16 then s.userUe th else s
    | none => s) s
  s.drawWord.1.setSem sem (s.drawWord.2.setWidth 16)

/-- The launches of some tags abort with UE_DETECTED, and level O is told. -/
def State.launchesUe (s : State) (tags : List Nat) (die : Nat) : State :=
  (tags.foldl (fun s t => s.abortLaunch t codeUe 0#16 0#13) s).ueToO none die

/-- The operation of the matrix queue that has started stops at the rows that it has written or sent (R204). -/
def State.arrayUe (s : State) (quad : Nat) : State :=
  match (s.coach? quad).bind (fun c => c.matq.find? (fun o => o.started && !o.done)) with
  | some o => s.matFault quad o codeUe 0#64 o.progress
  | none => s

/-- The source of a beat that is still being read holds an uncorrectable error (R233). -/
def State.sourceUe (s : State) (quad seq num : Nat) : State :=
  s.updBeat quad seq num (fun b =>
    if b.todo.isEmpty ∧ b.want = 0 then b
    else b.failWith codeUe (((s.coach? quad).bind (fun c => (c.copyq.find? (fun o => o.seq == seq)).map (fun o => o.srcFirst b))).getD 0#64) 0#64)

/-- A posted write that meets an uncorrectable error is reported as an engine fault of its agent (R113); one of a beat or of a
vector fails there. -/
def State.postedUe (s : State) (req : Nat) : State :=
  match s.unapplied.find? (fun r => r.id == req) with
  | none => s
  | some r =>
    let a := r.tva + word (((maskBytes r.mask).head?).getD 0)
    match r.ack with
    | .beat seq num => (s.dropReq req).beatFailed (threadQuad r.by_) seq num codeUe a
    | .store => ((s.dropReq req).drawWord.1).storeFault r.by_ codeUe a (s.dropReq req).drawWord.2
    | _ => s

/-- The effect of an upset. -/
def State.upset (s : State) (x : Store) : State :=
  match x with
  | .hbm line .uncorrectable => if apertureOf (64 * line) = .hbm then s.lineUe line else s
  | .hbm line .corrected => if apertureOf (64 * line) = .hbm then s.lineCorrected line else s
  | .hbm _ .clean => s
  | .l2 line => if s.held line then (s.putPois line true).ueToO (some (word (64 * line))) (homeDie (64 * line)) else s
  | .staged line tag =>
    if s.staged.any (fun e => e.line == line && e.tag == tag && !e.committed) then s.abortLaunch tag codeUe 0#16 0#13 else s
  | .l2s key => { s with l2sPoison := SMap.put noFlag s.l2sPoison (key / 64) true }.ueToO none (key / 2 ^ 26)
  | .granule q b g => (s.updQuad q (fun x => x.setPois b g true)).ueToO none (quadDie q)
  | .mask q m => (s.updQuad q (fun x => { x with pMask := x.pMask ||| (1#8 <<< m) })).ueToO none (quadDie q)
  | .privateMem die a =>
    (s.updDie die (fun d => { d with pmPoison := SMap.put noFlag d.pmPoison (a / 8) true })).ueToO (some (word (a / 8 * 8))) die
  | .plane _ _ _ => s
  | .tlb i => { s with tlb := s.tlb.eraseIdx i }
  | .walkCache i => { s with walkCache := s.walkCache.eraseIdx i }
  | .walk i => { s with walks := (s.walks.take i) ++ ((s.walks.drop i).take 1).map (fun w => { w with ue := true }) ++ s.walks.drop (i + 1) }
  | .barrier b => s.barrierUe b
  | .semaphore sem => s.semaphoreUe sem
  | .slot die k => s.launchesUe ((s.slot die k).taken.filter (fun t => t != 4096)) die
  | .tag t => s.launchesUe [t] (tagDie t)
  | .datapath th => s.userUe th
  | .copyCounter quad =>
    match s.coach? quad with
    | some c => (s.ueToO none (quadDie quad)).abortLaunch c.tag codeUe 0#16 0#13
    | none => s
  | .array quad => s.arrayUe quad
  | .source quad seq num => s.sourceUe quad seq num
  | .posted req => s.postedUe req

end Sys2Proof.Machine
end

