-- ==== Sys2Proof/Machine/Run.lean ====
section
/-! DEFINITION. Run: which thread runs next, the fetch of its word (R13, R14, R43, R94), the step that each
internal event and each input stands for, and the instruction that the host's table word becomes. -/

namespace Sys2Proof.Machine

/-! ## Fetch -/

/-- The words at a thread's program counter that lie in its code range, at most three (R13, R15). -/
def State.fetchWords (s : State) (th : ThreadId) (pc : Word) : List IWord :=
  ((List.range 3).filter (fun i => s.inRange th (pc + word i))).map (fun i => s.codeWord th (pc.toNat + i))

/-- An MKAT or CPYC whose trailing words leave the code range (R14, check 6 of R44). -/
def issueShort (w : IWord) (s : State) : Host.Outcome State Fault Refusal :=
  let cls :=
    match threadEngine s.cur with
    | .x => xWord (familyFeature (w.extractLsb' 0 3)) false
    | _ => lsWord [] true
  issueWord cls w (tokOf w) (fun s => .fault s codeFetchRange (word (s.codeRange s.cur).2) none) s

/-- An ID word (R34). -/
def runId (w : IWord) (n : Nat) (s : State) : Host.Outcome State Fault Refusal :=
  if threadEngine s.cur = .dray ∧ tokOf w ≠ Tok.none then execUndefWord w s
  else
    let d := (bodyOf w).extractLsb' 17 4
    match n with
    | 0 => execIdCoach (tokOf w) d s
    | 1 => execIdCore (tokOf w) d s
    | 2 => execIdCluster (tokOf w) d s
    | 3 => execIdDie (tokOf w) d s
    | 4 => execIdSlice (tokOf w) d s
    | _ => execIdShape (tokOf w) d s

/-- The words at a thread's program counter are decoded and executed; a word that decodes to nothing is UNDEF
(R12, R43, R44). -/
def runWords (ws : List IWord) (s : State) : Host.Outcome State Fault Refusal :=
  match ws with
  | [] => execUndefWord 0#32 s
  | w :: rest =>
    match idCode w with
    | some n => runId w n s
    | none =>
      match decodeMain (threadEngine s.cur) w rest with
      | .ok i => exec i s
      | .error .trailing => issueShort w s
      | .error _ => execUndefWord w s

/-- A thread is the one that runs; its stream remembers it for the rotation (R94). -/
def State.onto (s : State) (th : ThreadId) : State :=
  ({ s with cur := th }).updMyStream (fun t => { t with last := threadPart th })

/-- The next word of a ready thread. -/
def runThread (th : ThreadId) (s : State) : Host.Outcome State Fault Refusal :=
  let s := s.onto th
  if s.inRange th s.me.pc = false then .next (s.takeOpen th codeFetchRange s.me.pc none s.me.pc)
  else runWords (s.fetchWords th s.me.pc) s

/-! ## Rotation (R94) -/

/-- The streams that may issue: the Dray strands and the four streams of each coach, each named by its
first thread. -/
def State.units (s : State) : List ThreadId :=
  [0, 1, 2, 3].flatMap (fun d => (List.range 8).map (fun k => .dray d k)) ++
    s.coaches.flatMap (fun c => [0, 8, 9, 10].map (fun p => .coach c.quad p))

/-- The stream of a thread, by its first thread. -/
def unitOf (th : ThreadId) : ThreadId :=
  match th with
  | .dray d k => .dray d k
  | .coach q p => .coach q (partOfStream (streamOfPart p).index)

/-- A thread may issue its next word. -/
def State.canRun (s : State) (th : ThreadId) : Bool :=
  s.live th && ((s.strand? th).map (fun t => t.run)) == some .ready

/-- A list turned so that it begins after an element. -/
def turned (l : List ThreadId) (x : ThreadId) : List ThreadId :=
  match l.span (fun y => y != x) with
  | (before, found) => found.tail ++ before ++ found.head?.toList

/-- The strand that a stream issues from: the next ready one in rotation (R94). -/
def State.pickIn (s : State) (unit : ThreadId) : Option ThreadId :=
  match unit with
  | .dray d k => if s.canRun (.dray d k) then some (.dray d k) else none
  | .coach q 0 =>
    let last := ((s.stream? unit).map (fun t => t.last)).getD 7
    (List.range 8).findSome? (fun i =>
      let th := .coach q ((last + 1 + i) % 8)
      if s.canRun th then some th else none)
  | .coach q p => if s.canRun (.coach q p) then some (.coach q p) else none

/-- The thread that runs next: streams take turns. -/
def State.nextThread (s : State) : Option ThreadId := (turned s.units (unitOf s.cur)).findSome? s.pickIn

/-! ## Events and inputs -/

/-- The table's row of an event. -/
noncomputable def Event.instr (e : Event) : Instr :=
  match e with
  | .coldReset => .coldReset
  | .timerEvent => .timerEvent
  | .energyRefill => .energyRefill
  | .strandReady th => .strandReady th
  | .waiteTimeout th => .waiteTimeout th
  | .tokenTimeout th => .tokenTimeout th
  | .barrierTimeout th => .barrierTimeout th
  | .walkerPick die => .walkerPick die
  | .loaderPlaneLoad quad tag => .loaderPlaneLoad quad tag
  | .taskStart quad => .taskStart quad
  | .taskDrain quad => .taskDrain quad
  | .shareWindow die => .shareWindow die
  | .notifyEvent slice queue => .notifyEvent slice queue
  | .slotTake die slot => .slotTake die slot
  | .slotScan die => .slotScan die
  | .launchReady tag => .launchReady tag
  | .appendRetry tag => .appendRetry tag
  | .stageRequest req => .stageRequest req
  | .conflictWaitApply req => .conflictWaitApply req
  | .waitCycleCheck tag => .waitCycleCheck tag
  | .commitPending tag => .commitPending tag
  | .pendingAck tag die => .pendingAck tag die
  | .stagedMerge tag => .stagedMerge tag
  | .discardAck tag die => .discardAck tag die
  | .homeAccess req => .homeAccess req
  | .memorySideAtomic req => .memorySideAtomic req
  | .wayMove die => .wayMove die
  | .faultDelivery id => .faultDelivery id
  | .pendingRecordDelivery id => .pendingRecordDelivery id
  | .coachHeld quad => .coachHeld quad
  | .preT1Expiry die slice => .preT1Expiry die slice
  | .preT2Expiry die slice => .preT2Expiry die slice
  | .mmaBoundaryTimeout quad => .mmaBoundaryTimeout quad
  | .copyCommandStart quad => .copyCommandStart quad
  | .beatIssue quad => .beatIssue quad
  | .beatAck quad => .beatAck quad
  | .matrixOpStart quad => .matrixOpStart quad
  | .matrixOpComplete quad => .matrixOpComplete quad
  | .vectorStart quad => .vectorStart quad
  | .vectorRetire quad => .vectorRetire quad
  | .deferWriteAck quad => .deferWriteAck quad
  | .creditReturnTimeout port => .creditReturnTimeout port
  | .requestResend tag => .requestResend tag
  | .duplicateFullResend tag => .duplicateFullResend tag
  | .remoteGiveUp tag => .remoteGiveUp tag
  | .duplicateEntryExpiry node tag => .duplicateEntryExpiry node tag
  | .cqTimeout quad endp => .cqTimeout quad endp
  | .completionTimeout id => .completionTimeout id
  | .proxyTimeout index => .proxyTimeout index
  | .loadDone die slice => .loadDone die slice
  | .pageWalk cluster slice tva kind => .pageWalk cluster slice tva kind
  | .slotTableUpdate die => .slotTableUpdate die
  | .pullResend pull => .pullResend pull
  | .migrationLoss slice => .migrationLoss slice
  | .loadRequest die slice => .loadRequest die slice
  | .migrationExport slice => .migrationExport slice
  | .migrationImport slice => .migrationImport slice
  | .migrationRelease slice => .migrationRelease slice
  | .migrationClear slice => .migrationClear slice
  | .attest => .attest
  | .warmReset => .warmReset
  | .retrainWrite port => .retrainWrite port
  | .katFloorTest quad defect => .katFloorTest quad defect
  | .katFloorFreeze quad defect => .katFloorFreeze quad defect
  | .ackProgressTimeout port => .ackProgressTimeout port
  | .retrainTimeout port => .retrainTimeout port
  | .flitHoldTimeout held => .flitHoldTimeout held
  | .circuitSlot die table slot => .circuitSlot die table slot
  | .energyCharge slice cls count => .energyCharge slice cls count
  | .pxdone index w2 => .pxdone index w2

/-- What an event does: the meaning of its row. -/
def Event.run (e : Event) (s : State) : Host.Outcome State Fault Refusal :=
  match e with
  | .coldReset => execColdReset s
  | .timerEvent => execTimerEvent s
  | .energyRefill => execEnergyRefill s
  | .strandReady th => execStrandReady th s
  | .waiteTimeout th => execWaiteTimeout th s
  | .tokenTimeout th => execTokenTimeout th s
  | .barrierTimeout th => execBarrierTimeout th s
  | .walkerPick die => execWalkerPick die s
  | .loaderPlaneLoad quad tag => execLoaderPlaneLoad quad tag s
  | .taskStart quad => execTaskStart quad s
  | .taskDrain quad => execTaskDrain quad s
  | .shareWindow die => execShareWindow die s
  | .notifyEvent slice queue => execNotifyEvent slice queue s
  | .slotTake die slot => execSlotTake die slot s
  | .slotScan die => execSlotScan die s
  | .launchReady tag => execLaunchReady tag s
  | .appendRetry tag => execAppendRetry tag s
  | .stageRequest req => execStageRequest req s
  | .conflictWaitApply req => execConflictWaitApply req s
  | .waitCycleCheck tag => execWaitCycleCheck tag s
  | .commitPending tag => execCommitPending tag s
  | .pendingAck tag die => execPendingAck tag die s
  | .stagedMerge tag => execStagedMerge tag s
  | .discardAck tag die => execDiscardAck tag die s
  | .homeAccess req => execHomeAccess req s
  | .memorySideAtomic req => execMemorySideAtomic req s
  | .wayMove die => execWayMove die s
  | .faultDelivery id => execFaultDelivery id s
  | .pendingRecordDelivery id => execPendingRecordDelivery id s
  | .coachHeld quad => execCoachHeld quad s
  | .preT1Expiry die slice => execPreT1Expiry die slice s
  | .preT2Expiry die slice => execPreT2Expiry die slice s
  | .mmaBoundaryTimeout quad => execMmaBoundaryTimeout quad s
  | .copyCommandStart quad => execCopyCommandStart quad s
  | .beatIssue quad => execBeatIssue quad s
  | .beatAck quad => execBeatAck quad s
  | .matrixOpStart quad => execMatrixOpStart quad s
  | .matrixOpComplete quad => execMatrixOpComplete quad s
  | .vectorStart quad => execVectorStart quad s
  | .vectorRetire quad => execVectorRetire quad s
  | .deferWriteAck quad => execDeferWriteAck quad s
  | .creditReturnTimeout port => execCreditReturnTimeout port s
  | .requestResend tag => execRequestResend tag s
  | .duplicateFullResend tag => execDuplicateFullResend tag s
  | .remoteGiveUp tag => execRemoteGiveUp tag s
  | .duplicateEntryExpiry node tag => execDuplicateEntryExpiry node tag s
  | .cqTimeout quad endp => execCqTimeout quad endp s
  | .completionTimeout id => execCompletionTimeout id s
  | .proxyTimeout index => execProxyTimeout index s
  | .loadDone die slice => execLoadDone die slice s
  | .pageWalk cluster slice tva kind => execPageWalk cluster slice tva kind s
  | .slotTableUpdate die => execSlotTableUpdate die s
  | .pullResend pull => execPullResend pull s
  | .migrationLoss slice => execMigrationLoss slice s
  | .loadRequest die slice => execLoadRequest die slice s
  | .migrationExport slice => execMigrationExport slice s
  | .migrationImport slice => execMigrationImport slice s
  | .migrationRelease slice => execMigrationRelease slice s
  | .migrationClear slice => execMigrationClear slice s
  | .attest => execAttest s
  | .warmReset => execWarmReset s
  | .retrainWrite port => execRetrainWrite port s
  | .katFloorTest quad defect => execKatFloorTest quad defect s
  | .katFloorFreeze quad defect => execKatFloorFreeze quad defect s
  | .ackProgressTimeout port => execAckProgressTimeout port s
  | .retrainTimeout port => execRetrainTimeout port s
  | .flitHoldTimeout held => execFlitHoldTimeout held s
  | .circuitSlot die table slot => execCircuitSlot die table slot s
  | .energyCharge slice cls count => execEnergyCharge slice cls count s
  | .pxdone index w2 => execPxdone index w2 s

/-- The table's row of a flit's type (R408). -/
noncomputable def flitInstr (port : Nat) (fl : Flit) : Instr :=
  match fl.ty.toNat with
  | 0 => .idleFlit port fl
  | 1 => .lackFlit port fl
  | 2 => .rowFlit port fl
  | 3 => .readFlit port fl
  | 4 => .writeFlit port fl
  | 5 => .writepFlit port fl
  | 6 => .atomicFlit port fl
  | 7 => .readrspFlit port fl
  | 8 => .wrackFlit port fl
  | 9 => .atomrspFlit port fl
  | 10 => .nackFlit port fl
  | 11 => .cqcredFlit port fl
  | 12 => .cqcloseFlit port fl
  | 13 =>
    match bits fl.h1 63 56 with
    | 1 => .pullFlit port fl
    | 2 => .pageFlit port fl
    | 3 => .refuseFlit port fl
    | _ => .reservedFlit port fl
  | _ => .reservedFlit port fl

/-- What a flit does: the meaning of its row. -/
def runFlit (port : Nat) (fl : Flit) (s : State) : Host.Outcome State Fault Refusal :=
  match fl.ty.toNat with
  | 0 => execIdleFlit port fl s
  | 1 => execLackFlit port fl s
  | 2 => execRowFlit port fl s
  | 3 => execReadFlit port fl s
  | 4 => execWriteFlit port fl s
  | 5 => execWritepFlit port fl s
  | 6 => execAtomicFlit port fl s
  | 7 => execReadrspFlit port fl s
  | 8 => execWrackFlit port fl s
  | 9 => execAtomrspFlit port fl s
  | 10 => execNackFlit port fl s
  | 11 => execCqcredFlit port fl s
  | 12 => execCqcloseFlit port fl s
  | 13 =>
    match bits fl.h1 63 56 with
    | 1 => execPullFlit port fl s
    | 2 => execPageFlit port fl s
    | 3 => execRefuseFlit port fl s
    | _ => execReservedFlit port fl s
  | _ => execReservedFlit port fl s

/-- The table's row of an input; an upset has none. -/
noncomputable def Input.instr (i : Input) : Option Instr :=
  match i with
  | .flit port fl => some (flitInstr port fl)
  | .trained port => some (.retrainDone port)
  | .hostRead fn off len => some (.hostRead fn off len)
  | .hostWrite fn off len data => some (.hostWrite fn off len data)
  | .hostCompletion id status data => some (.hostCompletion id status data)
  | .scrub line found => some (.scrubLine line found)
  | .scrubRate stack tempC corrected => some (.scrubRateEval stack tempC corrected)
  | .thermal junctionC powerW => some (.thermalSample junctionC powerW)
  | .hang unit => some (.watchdogExpiry unit)
  | .warmReset => some (.warmReset)
  | .coldReset => some (.coldReset)
  | .badFlit port crcBad => some (.flitDiscard port crcBad)
  | .frame port f =>
    match flitOfFrame f with
    | some fl => some (flitInstr port fl)
    | none => some (.flitDiscard port true)
  | .upset _ => none

/-- What an input does: the meaning of its row, or the effect of an upset. -/
def Input.run (i : Input) (s : State) : Host.Outcome State Fault Refusal :=
  match i with
  | .flit port fl => runFlit port fl s
  | .trained port => execRetrainDone port s
  | .hostRead fn off len => execHostRead fn off len s
  | .hostWrite fn off len data => execHostWrite fn off len data s
  | .hostCompletion id status data => execHostCompletion id status data s
  | .scrub line found => execScrubLine line found s
  | .scrubRate stack tempC corrected => execScrubRateEval stack tempC corrected s
  | .thermal junctionC powerW => execThermalSample junctionC powerW s
  | .hang unit => execWatchdogExpiry unit s
  | .warmReset => execWarmReset s
  | .coldReset => execColdReset s
  | .badFlit port crcBad => execFlitDiscard port crcBad s
  | .frame port f =>
    match flitOfFrame f with
    | some fl => runFlit port fl s
    | none => execFlitDiscard port true s
  | .upset x => .next (s.upset x)

/-! ## One step -/

/-- Time passes (log entry 5); the waits that R19 holds stand still. -/
def State.tick (s : State) : State :=
  let dt := Config.stepTime s.steps
  { s with
    tsc := s.tsc + dt
    clocks := s.clocks + Config.stepClocks s.steps
    steps := s.steps + 1 }.holdWaits dt

/-- What is due takes its turn before the next word (log entry 3). -/
def settle (r : Host.Outcome State Fault Refusal) : Host.Outcome State Fault Refusal :=
  match r with
  | .next s => .next { s with agenda := s.agenda ++ due s, dueAt := s.tsc }
  | .fault f => .fault f
  | .refused f => .refused f

/-- A step with nothing due and no input: one word of the next thread, or nothing in an idle part. -/
def runWord (s : State) : Host.Outcome State Fault Refusal :=
  match s.nextThread with
  | some th => runThread th s
  | none => .next s

/-- A part whose clocks have stopped takes nothing in but a cold reset (R454). -/
def stepHalted (s : State) : Host.Outcome State Fault Refusal :=
  match s.inputs with
  | .coldReset :: is => execColdReset { s with inputs := is }
  | _ :: is => .next { s with inputs := is }
  | [] => .next s

/-- One step of the part: an event that is due, else an input, else one word. -/
def stepOnce (s : State) : Host.Outcome State Fault Refusal :=
  if s.boot.halted then stepHalted s
  else
    match s.agenda with
    | e :: es => e.run { s.tick with agenda := es }
    | [] =>
      match s.inputs with
      | i :: is => settle (i.run { s.tick with inputs := is })
      | [] => settle (runWord s.tick)

/-! ## Placing a word -/

/-- Bytes of instruction words, least significant first (R6). -/
def bytesOfWords (ws : List IWord) : List Byte := ws.flatMap (fun w => bytesOfNat 4 w.toNat)

/-- A thread made the only one that runs next: it is ready at word address `pc`. -/
def State.only (s : State) (th : ThreadId) (pc : Word) : State :=
  let s := { s with agenda := [], inputs := [], cur := th }
  let s := s.updStrand th (fun st => { st with run := .ready, pc := pc, popped := 0, frozen := false, begun := false })
  let rest := s.units.flatMap (fun u =>
    match u with
    | .coach q 0 => (List.range 8).map (fun p => .coach q p)
    | u => [u])
  rest.foldl (fun s u => if u = th then s else s.updStrand u (fun st => { st with run := .idle })) s

/-- A running task on quadrant 0 for slice 0 under tag 0, whose four streams have the same code. -/
def placedCoach (run : Stream) : Coach :=
  { newCoach 0 0#2 0 0 0 0 0#64 0#64 0#64 with phase := .running, sk := run, sl := run, sx := run, ss := run }

/-- Its launch: revocable, sealed, every tile declared. -/
def placedLaunch : Launch :=
  newLaunch 0 0 0 0 0 0 0#64 [0#64, 0x0003FFFC80000001#64] 0#64 0#64 0 []

/-- The words of a table row, placed where the next step fetches (log entry 2): in a stream's code of a
coach that runs on quadrant 0, or at strand 0 of die 0 for a word that the K map has and the manual gives to
levels above the tile task. -/
def State.placed (s : State) (row : Option Engine) (ws : List IWord) : State :=
  let dray := match row with
    | some .k => 0x60 ≤ opOf (ws.headD 0#32) && opOf (ws.headD 0#32) ≤ 0x7A
    | _ => false
  if dray then (s.pmPut 0 0x1000 (bytesOfWords ws)).only (.dray 0 0) 0x400#64
  else
    let part := match row with
      | some .x => 9
      | some .l => 8
      | some .s => 10
      | _ => 0
    let run : Stream := { Stream.start with codeBase := 0, codeLen := 3 }
    let c := placedCoach run
    let s := { s with coaches := [c] }
    let s := s.updQuad 0 (fun x => { x with
      planeA := SMap.putAll (fun _ => 0#32) [] 0 ws, ownerA := some 0, activeB := false })
    let s := s.setTag 0 { st := .running, gen := 0#4 }
    let s := { s with launches := [placedLaunch] }
    s.only (.coach 0 part) 0#64

end Sys2Proof.Machine
end

