-- ==== Sys2Proof/Machine/Step.lean ====
section
/-! DEFINITION. Step: one step of the part, and the state that fetches a given word next. -/

namespace Sys2Proof.Machine

/-- One step of the part. -/
def step (s : State) : Host.Outcome State Fault Refusal := stepOnce s

/-- The state in which the next step fetches a table word (log entry 2). -/
def State.withFetchWord (s : State) (nbits w : Nat) : State :=
  s.placed (tableEngine nbits w) (wordsOfNat (w % 2 ^ nbits))

end Sys2Proof.Machine
end

