-- ==== Sys2Proof/Safety.lean ====
section
/-! DEFINITION. Safety: what counts as a safe run, and the terms in which statements speak of a word's issue,
its result and what it leaves alone. -/

namespace Sys2Proof

/-- A run of n steps that stops neither with a fault nor with a refusal. -/
def SafeFor (n : Nat) (s : Machine.State) : Prop :=
  match n with
  | 0 => True
  | n + 1 => ∃ s', Machine.step s = .next s' ∧ SafeFor n s'

namespace Machine

/-- The running thread is ready, and its word passes checks 2 to 5 of R44 with its tokens at hand (R17). -/
def State.Issues (s : State) (cls : WordClass) (i : Instr) (k : Tok) : Prop :=
  (s.strand? s.cur).isSome = true ∧ s.me.run = .ready ∧ s.live s.cur = true ∧ s.assigned cls k = true ∧
    s.levelOf s.cur ≤ cls.minLevel ∧ s.mayUse cls.right = true ∧ s.tokenWait k cls.engineOp = none ∧
    s.scalarDue i = none

/-- A coach without its threads, its tokens with what they have released, and its VATOM resume lane. -/
def Coach.rest (c : Coach) : Coach := { c with strands := [], fifo := [], past := [], resume := 0#10 }

/-- A thread without its event latch. -/
def Strand.rest (st : Strand) : Strand := { st with latch := 0#4 }

/-- Nothing of the part differs but the running thread, token counts, and event latches of other threads: no byte
of memory, no other register, no control structure. -/
def OnlyThread (s t : State) : Prop :=
  t = { s with coaches := t.coaches, dies := t.dies } ∧
    (∀ d, t.die d = { s.die d with strands := (t.die d).strands }) ∧
    (∀ q, (t.coach? q).map Coach.rest = (s.coach? q).map Coach.rest) ∧
    (∀ u, u ≠ s.cur → (t.strand? u).map Strand.rest = (s.strand? u).map Strand.rest) ∧
    (∀ u, t.stream? u = s.stream? u)

/-- Nothing of the part differs but one thread, token counts, and event latches of other threads. -/
def OnlyOf (th : ThreadId) (s t : State) : Prop := OnlyThread { s with cur := th } { t with cur := th }

/-- The running thread goes on at a program counter with a loop stack: its registers apart, nothing else of it
differs but what its word held while it waited, and what its later accesses come after (`behind`, `strict`). -/
def Leaves (s t : State) (pc : Word) (loops : List LoopEntry) : Prop :=
  t.me = { s.me.clearWait with
    regs := t.me.regs, poison := t.me.poison, pc := pc, loops := loops, behind := t.me.behind, strict := t.me.strict }

/-- The running thread has moved on past a word of `n` words (R106, R108). -/
def Moved (s t : State) (n : Nat) : Prop :=
  Leaves s t (loopNext s.me.loops s.me.pc n).2 (loopNext s.me.loops s.me.pc n).1

/-- Register d holds a value and its poison, unless d is s0; every other register keeps both (R21, R95). -/
def Wrote (s t : State) (d : BitVec 4) (v : Word) (p : Bool) : Prop :=
  (∀ r, t.reg r = if r = d ∧ d ≠ 0#4 then v else s.reg r) ∧
    (∀ r, t.pois r = if r = d ∧ d ≠ 0#4 then p else s.pois r)

/-- No register of the running thread changes. -/
def SameRegs (s t : State) : Prop := (∀ r, t.reg r = s.reg r) ∧ ∀ r, t.pois r = s.pois r

/-- The instruction completes from s: it writes a value to a register and moves on; beside the running thread and
tokens, what follows is as in u. -/
def Acts (i : Instr) (s u : State) (d : BitVec 4) (v : Word) (p : Bool) : Prop :=
  ∃ t, exec i s = .next t ∧ Wrote s t d v p ∧ Moved s t 1 ∧ OnlyThread u t

/-- The instruction completes: it writes a value to a register, moves on, and changes nothing else. -/
def Computes (i : Instr) (s : State) (d : BitVec 4) (v : Word) (p : Bool) : Prop := Acts i s s d v p

/-- A word that issues completes with a value in a register and nothing else. -/
def Gives (cls : WordClass) (i : Instr) (k : Tok) (s : State) (d : BitVec 4) (v : Word) (p : Bool) : Prop :=
  s.Issues cls i k → Computes i s d v p

/-- The instruction completes without writing a register; beside the running thread and tokens, what follows is as
in u. -/
def Does (i : Instr) (s u : State) : Prop :=
  ∃ t, exec i s = .next t ∧ SameRegs s t ∧ Moved s t 1 ∧ OnlyThread u t

/-- The instruction completes and control goes elsewhere; nothing else changes. -/
def Goes (i : Instr) (s : State) (d : BitVec 4) (v : Word) (pc : Word) (loops : List LoopEntry) : Prop :=
  ∃ t, exec i s = .next t ∧ Wrote s t d v false ∧ Leaves s t pc loops ∧ OnlyThread s t

/-- The word has no effect but a precise fault of the running thread, with EPC its own address (R18, R97). -/
def Traps (i : Instr) (s : State) (k : Tok) (code : Nat) (faddr fprog : Option Word) : Prop :=
  exec i s = .next ((s.takeToken k).takeOpen s.cur code faddr fprog s.me.pc)

/-- The word waits: its thread parks on w, and the word is executed again when the wait is over (R101). -/
def Parks (i : Instr) (s : State) (k : Tok) (w : Wait) : Prop :=
  exec i s = .next ((s.takeToken k).updMe (fun st => { st.parkOn w s.tsc with begun := true }))

/-- The word completes and its thread fetches no more (R109). -/
def Halts (i : Instr) (s : State) : Prop :=
  ∃ t, exec i s = .next t ∧ SameRegs s t ∧
    t.me = { s.me.clearWait with run := .idle, loops := [], behind := t.me.behind } ∧ OnlyThread s t

/-- The word completes in the state that f leaves once its token is taken. -/
def Completes (i : Instr) (s : State) (k : Tok) (f : State → State) : Prop :=
  exec i s = .next ((f (s.takeToken k)).complete k 1)

/-- An engine has accepted the word's operation: its thread moves past its `n` words, no register changes, and beside
that thread what follows is as in u. -/
def Enters (i : Instr) (s u : State) (n : Nat) : Prop :=
  ∃ t, exec i s = .next t ∧ SameRegs s t ∧ Moved s t n ∧ OnlyThread u t

/-- R263: what an operand of a queue or gate word names, a slice and a number: a task names its own slice, a Dray strand
one that it reaches. -/
def State.Names (s : State) (v : Word) (slice n : Nat) : Prop :=
  match s.cur with
  | .coach q _ => ∃ c, s.coach? q = some c ∧ slice = c.slice ∧ n = v.toNat
  | .dray d k => bits v 63 16 = 0 ∧ bits v 15 8 < 64 ∧ slice = bits v 15 8 ∧ n = bits v 7 0 ∧
      s.ownsSlice d (s.strandLevel d k) (s.strandServed d k) slice = true

/-- Every check of a load of n bytes passes and its bytes have come, in state v (R110); `scope` is that of an acquire, 0 for a
plain load. -/
def State.Loads (s : State) (va : Word) (n cls scope : Nat) (v : State) : Prop :=
  s.me.reply = [] ∧ (onDray s.cur = true ∨ va.toNat < 2 ^ 56) ∧ s.probe .read (linePieces va.toNat n) = none ∧
    s.watchFault va n .read 0 = none ∧
    s.loadPieces (s.me.strict || decide (2 ≤ scope)) cls (linePieces va.toNat n) = .ok v

/-- The running Dray strand as the caller of a system word: its level and what it serves (R340). -/
def State.caller (s : State) (die n : Nat) : Caller :=
  { die := die, k := n, level := s.strandLevel die n, served := s.strandServed die n }

/-- The word completes in state x, with a value in d (R21). -/
def Returns (i : Instr) (s x : State) (k : Tok) (d : BitVec 4) (v : Word) : Prop :=
  exec i s = .next ((x.setReg d v false).complete k 1)

/-- The word raises RIGHTS (R44, R340). -/
def Denies (i : Instr) (s : State) (k : Tok) : Prop :=
  Traps i s k 0x0C01 (some s.me.pc) (some ((instrWord i).setWidth 64))

/-- A state in which the running stream's coach has accepted a word as operation `seq`: f says what enters which queue, and
the word's push is owed (R17, R384). -/
def State.accepts (w : State) (k : Tok) (seq : Nat) (f : Coach → Coach) : State :=
  w.updCoach (threadQuad w.cur) (fun c =>
    (f { c with nextSeq := seq + 1 }).owe (threadStream w.cur) k.push.toNat)

/-- The word is accepted in state w as operation `seq` and its thread moves past its `n` words; where precise mode applies,
the thread then waits for the operation (R384). -/
def Accepts (i : Instr) (s w : State) (k : Tok) (n seq : Nat) (precise : Bool) (f : Coach → Coach) : Prop :=
  ((precise && s.preciseMode) = false → Enters i s (w.accepts k seq f) n) ∧
  ((precise && s.preciseMode) = true → exec i s =
    .next ((w.accepts k seq f).updMe (fun st => (st.advance n).parkOn (.preciseOp seq) s.tsc)).settled)

/-- A best-effort flit has come to this node, and is served in state u: on a port that is up it is the next one in sequence
and is accepted (R409); what the part sends to itself comes on no link. -/
def State.Receives (s : State) (p : Nat) (fl : Flit) (u : State) : Prop :=
  (32 ≤ p ∧ p / 16 % 2 = 0 ∧ u = s) ∨
    (p < 16 ∧ s.portState p = 2 ∧ fl.seq = (s.port p).rxSeq ∧ u = s.accept p fl ∧ fl.dst.toNat = u.node (p / 4))

/-- R116: the new value of an integer atomic of some width from the old one, the operand and, for ACAS, the compare
value. -/
def atomicResult (op : AtomOp) (width old v cmp : Nat) : Nat :=
  let signed := fun (x : Nat) => (BitVec.ofNat width x).toInt
  match op with
  | .add => (old + v) % 2 ^ width
  | .and => old &&& v
  | .or => old ||| v
  | .xor => old ^^^ v
  | .swp => v
  | .cas => if old = cmp then v else old
  | .min => if signed old < signed v then old else v
  | .max => if signed old < signed v then v else old
  | .minu => if old < v then old else v
  | .maxu => if old < v then v else old
  | _ => old

end Machine

end Sys2Proof
end

