-- ==== Sys2Proof/Certificates/Slice0/Obligations.lean ====
section
/-! DEFINITION. Obligations: the statements for the provers. Beside `Sys2Proof/Safety.lean`'s terms they speak of the
accessors of the state and of the operations that a rule names. -/

open Sys2Proof Sys2Proof.Machine

/-! ## Integer words -/

/-- R102, opcode 0x01: the register words write the function of their sources to d, poisoned when a source is, and change
nothing else. -/
def Obligations.RegisterWords : Prop :=
  ∀ (s : State) (k : Tok) (d a b : BitVec 4),
    let x := s.reg a
    let y := s.reg b
    let p := s.pois a || s.pois b
    let gives := fun (i : Instr) (v : Word) => Gives commonWord i k s d v p
    gives (.add k d a b) (x + y) ∧ gives (.sub k d a b) (x - y) ∧ gives (.andd k d a b) (x &&& y) ∧
    gives (.orr k d a b) (x ||| y) ∧ gives (.xorr k d a b) (x ^^^ y) ∧ gives (.andn k d a b) (x &&& ~~~ y) ∧
    gives (.shl k d a b) (x <<< (y.toNat % 64)) ∧ gives (.shr k d a b) (x >>> (y.toNat % 64)) ∧
    gives (.sra k d a b) (x.sshiftRight (y.toNat % 64)) ∧
    gives (.slt k d a b) (if x.toInt < y.toInt then 1#64 else 0#64) ∧
    gives (.sltu k d a b) (if x.toNat < y.toNat then 1#64 else 0#64) ∧
    gives (.min k d a b) (if x.toInt < y.toInt then x else y) ∧
    gives (.max k d a b) (if x.toInt < y.toInt then y else x) ∧
    gives (.minu k d a b) (if x.toNat < y.toNat then x else y) ∧
    gives (.maxu k d a b) (if x.toNat < y.toNat then y else x) ∧
    gives (.lea0 k d a b) (x + y) ∧ gives (.lea1 k d a b) (x + 2#64 * y) ∧
    gives (.lea2 k d a b) (x + 4#64 * y) ∧ gives (.lea3 k d a b) (x + 8#64 * y)

/-- R102, R105 and R86, opcode 0x02: products, quotients and remainders, with their results for a zero divisor and for
-2^63 by -1. A product is written at once. A divide parks its strand in the stream's divider, behind the divides issued
before it, and completes when it is executed again with the divider's result (`granted`). -/
def Obligations.MultiplyDivide : Prop :=
  ∀ (s : State) (k : Tok) (d a b : BitVec 4),
    let x := s.reg a
    let y := s.reg b
    let p := s.pois a || s.pois b
    let gives := fun (i : Instr) (v : Word) => Gives mulDivWord i k s d v p
    gives (.mul k d a b) (x * y) ∧
    gives (.mulh k d a b) ((x.signExtend 128 * y.signExtend 128).extractLsb' 64 64) ∧
    gives (.mulhu k d a b) ((x.setWidth 128 * y.setWidth 128).extractLsb' 64 64) ∧
    (∀ i ∈ [Instr.div k d a b, .divu k d a b, .rem k d a b, .remu k d a b],
      s.Issues mulDivWord i k → s.me.granted = false →
        exec i s = .next (((s.takeToken k).updMyStream (fun t => { t with divider := t.divider ++ [threadPart s.cur] })).updMe
          (fun st => { st.parkOn .divide s.tsc with begun := true }))) ∧
    (s.me.granted = true →
      (y ≠ 0#64 →
        gives (.div k d a b) (BitVec.ofInt 64 (x.toInt.tdiv y.toInt)) ∧
        gives (.rem k d a b) (BitVec.ofInt 64 (x.toInt.tmod y.toInt)) ∧
        gives (.divu k d a b) (BitVec.ofNat 64 (x.toNat / y.toNat)) ∧
        gives (.remu k d a b) (BitVec.ofNat 64 (x.toNat % y.toNat))) ∧
      (y = 0#64 →
        gives (.div k d a b) (-1#64) ∧ gives (.divu k d a b) (-1#64) ∧
        gives (.rem k d a b) x ∧ gives (.remu k d a b) x) ∧
      (x = 0x8000000000000000#64 → y = -1#64 →
        gives (.div k d a b) 0x8000000000000000#64 ∧ gives (.rem k d a b) 0#64))

/-- R102, R103, R104 and R33: the words of one source (CLZ and CTZ are said by the run of zero bits they count), the words
with an immediate, which is sign-extended but for the count of a shift, LI, the three forms of LIK and BSEL (bit by bit); a word
with another bit set that these forms have zero is no instruction; NOP changes nothing. -/
def Obligations.OneSourceWords : Prop :=
  (∀ (s : State) (k : Tok) (d a : BitVec 4),
     let x := s.reg a
     let gives := fun (i : Instr) (v : Word) => Gives commonWord i k s d v (s.pois a)
     (∀ n, n ≤ 64 → x.toNat < 2 ^ (64 - n) → (n < 64 → 2 ^ (63 - n) ≤ x.toNat) → gives (.clz k d a) (BitVec.ofNat 64 n)) ∧
     (∀ n, n ≤ 64 → x.toNat % 2 ^ n = 0 → (n < 64 → x.getLsbD n = true) → gives (.ctz k d a) (BitVec.ofNat 64 n)) ∧
     gives (.popc k d a) (BitVec.ofNat 64 ((List.finRange 64).countP (fun i => x.getLsb i))) ∧
     gives (.sext8 k d a) ((x.setWidth 8).signExtend 64) ∧ gives (.sext16 k d a) ((x.setWidth 16).signExtend 64) ∧
     gives (.sext32 k d a) ((x.setWidth 32).signExtend 64) ∧
     gives (.zext8 k d a) (x &&& 0xFF#64) ∧ gives (.zext16 k d a) (x &&& 0xFFFF#64) ∧
     gives (.zext32 k d a) (x &&& 0xFFFFFFFF#64) ∧
     (∀ v : Word, (∀ i, i < 64 → v.getLsbD (63 - i) = x.getLsbD i) → gives (.brev k d a) v) ∧
     ∀ (i : BitVec 13) (n : BitVec 6),
       let y := i.signExtend 64
       gives (.addi k d a i) (x + y) ∧ gives (.andi k d a i) (x &&& y) ∧ gives (.ori k d a i) (x ||| y) ∧
       gives (.xori k d a i) (x ^^^ y) ∧ gives (.slti k d a i) (if x.toInt < i.toInt then 1#64 else 0#64) ∧
       gives (.sltiu k d a i) (if x.toNat < y.toNat then 1#64 else 0#64) ∧
       gives (.shli k d a n) (x <<< n.toNat) ∧ gives (.shri k d a n) (x >>> n.toNat) ∧
       gives (.srai k d a n) (x.sshiftRight n.toNat) ∧ gives (.muli k d a i) (x * y)) ∧
  (∀ (s : State) (k : Tok) (d a b : BitVec 4) (i : BitVec 17) (h : BitVec 16) (v : Word),
     Gives commonWord (.li k d i) k s d (i.signExtend 64) false ∧
     (∀ n, n < 3 → (∀ j, j < 64 → v.getLsbD j =
         if 16 * (n + 1) ≤ j ∧ j < 16 * (n + 2) then h.getLsbD (j - 16 * (n + 1)) else (s.reg d).getLsbD j) →
       (n = 0 → Gives commonWord (.likH1 k d h) k s d v (s.pois d)) ∧
       (n = 1 → Gives commonWord (.likH2 k d h) k s d v (s.pois d)) ∧
       (n = 2 → Gives commonWord (.likH3 k d h) k s d v (s.pois d))) ∧
     ((∀ j, j < 64 → v.getLsbD j = if (s.reg a).getLsbD j then (s.reg b).getLsbD j else (s.reg d).getLsbD j) →
       Gives (kWord []) (.bsel k d a b) k s d v (s.pois a || s.pois b || s.pois d)) ∧
     (s.Issues commonWord (.nop k) k → Does (.nop k) s s)) ∧
  ∀ (e : Engine) (w : IWord),
    let op := (w.extractLsb' 21 7).toNat
    (op ∈ [0x0A, 0x0B, 0x0C] ∧ w.extractLsb' 6 7 ≠ 0#7) ∨ (op ∈ [0x0F, 0x10, 0x11] ∧ w.getLsbD 16 = true) ∨
      (op = 0x51 ∧ e ∈ [Engine.k, .dray] ∧ w.extractLsb' 0 9 ≠ 0#9) → ∀ i, decode e [w] ≠ .ok i

/-! ## Transfers of control -/

/-- R106, R108 and R95: a branch whose condition fails moves on; one whose condition holds goes to its target and leaves
the loops that the target lies outside; J leaves them too, JAL and JR link and keep every loop. A target outside the code
range raises FETCH_RANGE, as does a byte address of JR, an unbounded sum (R10), that is no multiple of 4 (FADDR then is the
byte address). A
poisoned source raises POISON_CONSUMED (its FADDR and FPROG are free values, log entry 6). What rests on log entry 31 is
the model's reading or choice. -/
def Obligations.Transfers : Prop :=
  (∀ (s : State) (k : Tok) (a b : BitVec 4) (o : BitVec 13),
     let x := s.reg a
     let y := s.reg b
     let t := s.me.pc + o.signExtend 64
     let branch := fun (i : Instr) (c : Bool) =>
       s.Issues commonWord i k →
         ((s.pois a || s.pois b) = true → Traps i s k 0x0401 none none) ∧
         ((s.pois a || s.pois b) = false → (c = true → s.inRange s.cur t = true) →
           ∃ u, exec i s = .next u ∧ SameRegs s u ∧ OnlyThread s u ∧
             Leaves s u (if c then t else (loopNext s.me.loops s.me.pc 1).2)
               (if c then loopLeave s.me.loops t else (loopNext s.me.loops s.me.pc 1).1)) ∧
         ((s.pois a || s.pois b) = false → c = true → s.inRange s.cur t = false → Traps i s k 0x0203 (some t) none)
     branch (.bEq k a b o) (decide (x = y)) ∧ branch (.bNe k a b o) (decide (x ≠ y)) ∧
     branch (.bLt k a b o) (decide (x.toInt < y.toInt)) ∧ branch (.bGe k a b o) (decide (y.toInt ≤ x.toInt)) ∧
     branch (.bLtu k a b o) (decide (x.toNat < y.toNat)) ∧ branch (.bGeu k a b o) (decide (y.toNat ≤ x.toNat))) ∧
  (∀ (s : State) (k : Tok) (d a : BitVec 4) (o : BitVec 21) (i : BitVec 13),
     let t := s.me.pc + o.signExtend 64
     let link := 4#64 * (s.me.pc + 1#64)
     let byte : Int := (s.reg a).toNat + 4 * i.toInt
     let dest := BitVec.ofInt 64 (byte / 4)
     (s.Issues commonWord (.j k o) k →
       (s.inRange s.cur t = true →
         ∃ u, exec (.j k o) s = .next u ∧ SameRegs s u ∧ OnlyThread s u ∧ Leaves s u t (loopLeave s.me.loops t)) ∧
       (s.inRange s.cur t = false → Traps (.j k o) s k 0x0203 (some t) none)) ∧
     (s.Issues commonWord (.jal k o) k →
       (s.inRange s.cur t = true →
         ∃ u, exec (.jal k o) s = .next u ∧ Wrote s u 15#4 link false ∧ OnlyThread s u ∧ Leaves s u t s.me.loops) ∧
       (s.inRange s.cur t = false → Traps (.jal k o) s k 0x0203 (some t) none)) ∧
     (s.Issues commonWord (.jr k d a i) k →
       (s.pois a = true → Traps (.jr k d a i) s k 0x0401 none none) ∧
       (s.pois a = false →
         (byte % 4 ≠ 0 → Traps (.jr k d a i) s k 0x0203 (some (BitVec.ofInt 64 byte)) none) ∧
         (byte % 4 = 0 → s.inRange s.cur dest = true →
           ∃ u, exec (.jr k d a i) s = .next u ∧ Wrote s u d link false ∧ OnlyThread s u ∧ Leaves s u dest s.me.loops) ∧
         (byte % 4 = 0 → s.inRange s.cur dest = false → Traps (.jr k d a i) s k 0x0203 (some dest) none))))

/-- R107 and R108: the checks of LOOP and LOOPI in their order, and what an opened loop is; a count of 0 goes past the
body. A loop of count n passes over its body n times: at the body's last word control returns to the body's first word,
with one pass fewer remaining, until no pass remains; then the loop is gone, and the word after it, or the loop around it
that ends at the same word, comes next. What rests on log entries 21 and 135 is the model's reading or choice. -/
def Obligations.Loops : Prop :=
  (∀ (s : State) (k : Tok) (a : BitVec 4) (o : BitVec 13) (c : BitVec 11) (l : BitVec 10),
    let opens := fun (i : Instr) (count : Word) (len : Nat) =>
      let last := s.me.pc + BitVec.ofNat 64 len
      let w := (instrWord i).setWidth 64
      let bad := badLast (threadEngine s.cur) (s.codeWord s.cur last.toNat)
      s.Issues commonWord i k →
        (4 ≤ s.me.loops.length → Traps i s k 0x0201 (some s.me.pc) (some w)) ∧
        (s.me.loops.length < 4 → s.inRange s.cur last = false → Traps i s k 0x0203 (some last) none) ∧
        (s.me.loops.length < 4 → s.inRange s.cur last = true → bad = true →
          Traps i s k 0x0201 (some s.me.pc) (some w)) ∧
        (s.me.loops.length < 4 → s.inRange s.cur last = true → bad = false →
          (count = 0#64 → ∃ u, exec i s = .next u ∧ SameRegs s u ∧ OnlyThread s u ∧ Leaves s u (last + 1#64) s.me.loops) ∧
          (count ≠ 0#64 → len ≠ 0 → ∃ u, exec i s = .next u ∧ SameRegs s u ∧ OnlyThread s u ∧
            Leaves s u (s.me.pc + 1#64)
              ({ start := s.me.pc + 1#64, stop := last, remaining := count } :: s.me.loops)))
    (s.pois a = false → opens (.loop k a o) (s.reg a) o.toNat) ∧
    (s.pois a = true → s.Issues commonWord (.loop k a o) k → Traps (.loop k a o) s k 0x0401 none none) ∧
    opens (.loopi k c l) (c.setWidth 64) l.toNat) ∧
  (∀ (e : LoopEntry) (es : List LoopEntry) (pc : Word) (n : Nat),
    loopNext [] pc n = ([], pc + BitVec.ofNat 64 n) ∧
    (e.stop ≠ pc → loopNext (e :: es) pc n = (e :: es, pc + BitVec.ofNat 64 n)) ∧
    (e.stop = pc → ∀ j : Nat, j < e.remaining.toNat →
      let loops := (List.range j).foldl (fun l _ => (loopNext l pc n).1) (e :: es)
      loops = { e with remaining := e.remaining - BitVec.ofNat 64 j } :: es ∧
        (j + 1 < e.remaining.toNat → (loopNext loops pc n).2 = e.start) ∧
        (j + 1 = e.remaining.toNat → loopNext loops pc n = loopNext es pc n)))

/-! ## Strands and the end of a stream -/

/-- R109 and R120: END waits on a K stream for the other strands and stops the thread; SEXIT stops it at once. FORK
starts the lowest-numbered idle strand with cleared registers but s1 and s14, whose accesses come after the parent's stores
(R121), or gives all-ones; JOIN waits for a strand that is not idle; SYIELD does nothing else. What rests on log entry 13 is the model's reading or choice. -/
def Obligations.Strands : Prop :=
  ∀ (s : State) (k : Tok) (d a : BitVec 4) (o : BitVec 13),
    let start := s.me.pc + o.signExtend 64
    (s.Issues (kWord [3]) (.fork k d a o) k →
      (s.pois a = true → Traps (.fork k d a o) s k 0x0401 none none) ∧
      (s.pois a = false → s.freeStrand s.cur = none → Computes (.fork k d a o) s d (-1#64) false) ∧
      (∀ th, s.pois a = false → s.freeStrand s.cur = some th →
        (s.inRange th start = false → Traps (.fork k d a o) s k 0x0203 (some start) none) ∧
        (s.inRange th start = true →
          Acts (.fork k d a o) s
            ((((s.takeToken k).freshStream th).updStrand th (fun st => st.forked (s.reg a) (s.args14 s.cur) start)).follows
              th ((s.takeToken k).released s.cur (fun _ => true)))
            d (BitVec.ofNat 64 (threadPart th)) false))) ∧
    (∀ q p i, s.freeStrand (.coach q p) = some (.coach q i) → ∀ c, s.coach? q = some c →
      i < 8 ∧ (c.strand i).run = .idle ∧ ∀ j, j < i → (c.strand j).run ≠ .idle) ∧
    (∀ (st : Strand) (x y pc : Word) (r : BitVec 4),
      (st.forked x y pc).reg r = (if r = 1#4 then x else if r = 14#4 then y else 0#64) ∧
        (st.forked x y pc).pois r = false ∧ (st.forked x y pc).pc = pc ∧ (st.forked x y pc).run = .ready ∧
        (st.forked x y pc).loops = [] ∧ (st.forked x y pc).latch = 0#4 ∧ (st.forked x y pc).fcode = 0#64) ∧
    (s.Issues (kWord [3]) (.join k a) k →
      let waits := (s.reg a).toNat < 8 ∧ (s.reg a).toNat ≠ threadPart s.cur ∧ s.sideIdle s.cur (s.reg a).toNat = false
      (waits → Parks (.join k a) s k (.join (s.reg a).toNat)) ∧ (¬waits → Does (.join k a) s s)) ∧
    (s.Issues (kWord [3]) (.syield k) k → Does (.syield k) s s) ∧
    (s.Issues commonWord (.endTask k) k →
      let waits := threadEngine s.cur = .k ∧ s.othersIdle s.cur = false
      (waits → Parks (.endTask k) s k .others) ∧ (¬waits → Halts (.endTask k) s)) ∧
    (s.Issues (kWord []) (.sexit k) k → Halts (.sexit k) s)

/-! ## Semaphores, barriers, events and services -/

/-- R123, R149 and R150: what each SEM word does with the count of the semaphore that its number, an
unbounded sum (R10), names, and SEM_RANGE for a number that names none and for a V at 0xFFFF. What rests on log entries
45 and 136 is the model's reading or choice. -/
def Obligations.Semaphores : Prop :=
  ∀ (s : State) (k : Tok) (d a : BitVec 4) (n : BitVec 5),
    let v := (s.reg a).toNat + n.toNat
    let u := s.takeToken k
    let range := fun (i : Instr) => s.Issues coachWord i k → s.myCoach?.bind (fun c => s.semaphore c v) = none →
      Traps i s k 0x0603 (some (BitVec.ofNat 64 v)) (some 0#64)
    (range (.semP k a n) ∧ range (.semV k a n) ∧ range (.semTryp k d a n) ∧ range (.semRead k d a n)) ∧
    ∀ sem, s.myCoach?.bind (fun c => s.semaphore c v) = some sem →
      let count := s.semCount sem
      (s.Issues coachWord (.semP k a n) k →
        (s.me.granted = true → Does (.semP k a n) s s) ∧
        (s.me.granted = false → count ≠ 0#16 → Does (.semP k a n) s (u.setSem sem (count - 1#16))) ∧
        (s.me.granted = false → count = 0#16 →
          exec (.semP k a n) s = .next (((u.setSem sem 0#16).joinSem sem s.cur).updMe
            (fun st => { st.parkOn (.semaphore sem) s.tsc with begun := true })))) ∧
      (s.Issues coachWord (.semV k a n) k →
        (count = 0xFFFF#16 → Traps (.semV k a n) s k 0x0603 (some (BitVec.ofNat 64 v)) (some 0#64)) ∧
        (count ≠ 0xFFFF#16 → s.semWaiter sem = none →
          Completes (.semV k a n) s k (fun u => ((u.semRelease sem).latchSem sem).setSem sem (count + 1#16))) ∧
        (∀ th, count ≠ 0xFFFF#16 → s.semWaiter sem = some th →
          Completes (.semV k a n) s k (fun u =>
            (((u.semRelease sem).latchSem sem).updQuad (sem / 32) (fun x => { x with semWait := x.semWait.erase (sem, th) })).updStrand th
              (fun st => { st with granted := true })))) ∧
      (s.Issues coachWord (.semTryp k d a n) k →
        (count ≠ 0#16 → Acts (.semTryp k d a n) s (u.setSem sem (count - 1#16)) d 1#64 (s.pois a)) ∧
        (count = 0#16 → Acts (.semTryp k d a n) s (u.setSem sem 0#16) d 0#64 (s.pois a))) ∧
      (s.Issues coachWord (.semRead k d a n) k →
        Acts (.semRead k d a n) s (u.setSem sem count) d (count.setWidth 64) (s.pois a))

/-- R239 and R242: a CBAR word faults on an invalid handle; an arrival keeps a snapshot of the generation and counts, and the
last one starts the next generation; a wait is over without a snapshot or once the generation has moved, and is an acquire: from then
on no other agent's pending byte is read (R320, `strict`). -/
def Obligations.Barriers : Prop :=
  ∀ (s : State) (k : Tok) (h : BitVec 4),
    let range := fun (i : Instr) => s.Issues coachWord i k → s.myCoach?.bind (fun c => s.barrier c h.toNat) = none →
      Traps i s k 0x0603 (some (h.setWidth 64)) (some 1#64)
    (range (.cbarA k h) ∧ range (.cbarW k h) ∧ range (.cbarAw k h)) ∧
    ∀ b, s.myCoach?.bind (fun c => s.barrier c h.toNat) = some b → SMap.get noFlag s.barError b = false →
      let leave := fun (u : State) => u.updMe (fun st => { st with arrived := false, strict := true })
      let stay := fun (u : State) => u.updMe (fun st => { st with arrived := true })
      (s.Issues coachWord (.cbarA k h) k →
        (s.me.arrived = true → Does (.cbarA k h) s s) ∧
        (s.me.arrived = false → (s.takeToken k).arrivalWaits = true → Parks (.cbarA k h) s k .fence) ∧
        (s.me.arrived = false → (s.takeToken k).arrivalWaits = false →
          Completes (.cbarA k h) s k (fun u => u.arrive b h.toNat))) ∧
      (s.Issues coachWord (.cbarW k h) k →
        (SMap.get (fun _ => none) s.me.snaps h.toNat = none → Completes (.cbarW k h) s k leave) ∧
        (∀ g, SMap.get (fun _ => none) s.me.snaps h.toNat = some g →
          (s.me.granted = true ∨ bits (s.bar b) 63 48 ≠ g.toNat → Completes (.cbarW k h) s k leave) ∧
          (s.me.granted = false → bits (s.bar b) 63 48 = g.toNat → Parks (.cbarW k h) s k (.barrier h.toNat)))) ∧
      (s.Issues coachWord (.cbarAw k h) k →
        (s.me.arrived = false → (s.takeToken k).arrivalWaits = true → Parks (.cbarAw k h) s k .fence) ∧
        (s.me.arrived = false → (s.takeToken k).arrivalWaits = false → barCount (s.bar b) + 1 = barExpect (s.bar b) →
          Completes (.cbarAw k h) s k (fun u => leave (stay (u.arrive b h.toNat)))) ∧
        (s.me.arrived = false → (s.takeToken k).arrivalWaits = false → s.me.granted = false →
          barCount (s.bar b) + 1 ≠ barExpect (s.bar b) →
          exec (.cbarAw k h) s = .next ((stay ((s.takeToken k).arrive b h.toNat)).updMe
            (fun st => { st.parkOn (.barrier h.toNat) s.tsc with begun := true }))) ∧
        (s.me.arrived = true → ∀ g, SMap.get (fun _ => none) s.me.snaps h.toNat = some g →
          (s.me.granted = true ∨ bits (s.bar b) 63 48 ≠ g.toNat → Completes (.cbarAw k h) s k leave)))

/-- R124, R125 and R90: WAITE ends on a latched event of its mask, which it clears; ECALL and EBREAK raise their faults with the
code in FPROG, ECALL with the next word as its restart point; TFENCE waits for the stream's engine operations and then
raises the fault of the lowest flag that TRAPEN enables. -/
def Obligations.EventsAndServices : Prop :=
  ∀ (s : State) (k : Tok) (a m : BitVec 4) (c : BitVec 13),
    (s.Issues commonWord (.waite k a m) k →
      let ended := s.me.latch &&& m ≠ 0#4 ∨ s.me.granted = true ∨ (a ≠ 0#4 ∧ s.reg a = 0#64)
      (ended → Completes (.waite k a m) s k (fun u => u.updMe (fun st => { st with latch := st.latch &&& ~~~ m }))) ∧
      (¬ended → a = 0#4 → Parks (.waite k a m) s k (.event m none)) ∧
      (¬ended → a ≠ 0#4 → Parks (.waite k a m) s k (.event m (some (s.clocks, s.reg a))))) ∧
    (s.Issues commonWord (.ecall k c) k →
      exec (.ecall k c) s =
        .next ((s.takeToken k).takeFault s.cur 0x0A05 0#64 (c.setWidth 64) (s.me.pc + 1#64))) ∧
    (s.Issues commonWord (.ebreak k c) k →
      exec (.ebreak k c) s = .next ((s.takeToken k).takeFault s.cur 0x0A04 0#64 (c.setWidth 64) s.me.pc)) ∧
    (s.Issues commonWord (.tfence k) k →
      let hit := s.myStream.flags &&& s.myStream.trapen
      (s.enginesBusy s.cur = true → Parks (.tfence k) s k .tfence) ∧
      (s.enginesBusy s.cur = false → hit = 0#9 → Does (.tfence k) s s) ∧
      (s.enginesBusy s.cur = false → ∀ b, b < 9 → hit.getLsbD b = true → (∀ j, j < b → hit.getLsbD j = false) →
        exec (.tfence k) s = .next ((s.takeToken k).takeFault s.cur (trapCode b) 0#64 (hit.setWidth 64) s.me.pc)) ∧
      [0, 1, 2, 3, 5, 6, 7, 8].map trapCode = [0x0301, 0x0302, 0x0303, 0x0304, 0x0305, 0x0306, 0x0307, 0x0601])

/-! ## State registers, time, identity and descriptors -/

/-- R126, R22, R88, R98 and R130: a CSR word gives the old value and, if it writes, the fields that are RW take bits;
other registers of the thread's stream read as before; TOKCNT is read after the word's own token is taken. DSET writes
the four words of a descriptor from four registers, DGET reads them into four registers, and DADD adds to its BASE alone,
mod 2^56; every other descriptor stays. What rests on log entry 13 is the model's reading or choice. -/
def Obligations.StateAndDescriptors : Prop :=
  (∀ (s : State) (k : Tok) (d a : BitVec 4) (n : BitVec 9),
     let u := s.takeToken k
     let old := u.csr s.cur n.toNat
     let writes := fun (i : Instr) (v : Word) => s.Issues commonWord i k →
       (s.pois a = true → Traps i s k 0x0401 none none) ∧
       (s.pois a = false → Acts i s (u.csrWrite s.cur n.toNat v) d old false)
     Gives commonWord (.csrr k d n) k s d old false ∧
     writes (.csrw k d a n) (s.reg a) ∧ writes (.csrs k d a n) (old ||| s.reg a) ∧
     writes (.csrc k d a n) (old &&& ~~~ (s.reg a)) ∧
     ((s.strand? s.cur).isSome = true → ∀ v : Word, ∀ m : Nat,
       (s.csrWrite s.cur n.toNat v).csr s.cur m =
         (if m = n.toNat then
           match m with
           | 1 => v &&& 0x1EF#64
           | 2 => v &&& 0x1FF#64
           | 7 => v
           | 9 => (v &&& 2#64) ||| (s.csr s.cur 9 &&& 1#64)
           | _ => s.csr s.cur m
         else s.csr s.cur m))) ∧
  (∀ (s : State) (k : Tok) (e : BitVec 6) (sr : BitVec 4) (c : Coach), s.myCoach? = some c →
     let u := s.takeToken k
     let v := s.desc e.toNat
     let poisoned := (s.pois sr || s.pois (sr + 1#4) || s.pois (sr + 2#4) || s.pois (sr + 3#4)) = true
     (s.Issues coachWord (.dset k e sr) k →
       (poisoned → Traps (.dset k e sr) s k 0x0401 none none) ∧
       (¬poisoned → Does (.dset k e sr) s (u.setDesc e.toNat
         { w0 := s.reg sr, w1 := s.reg (sr + 1#4), w2 := s.reg (sr + 2#4), w3 := s.reg (sr + 3#4) }))) ∧
     (s.Issues coachWord (.dget k e sr) k → ∃ t, exec (.dget k e sr) s = .next t ∧ Moved s t 1 ∧ OnlyThread s t ∧
       ∀ r : BitVec 4,
         t.reg r = (if r = 0#4 then 0#64 else
           match (r - sr).toNat with
           | 0 => v.w0
           | 1 => v.w1
           | 2 => v.w2
           | 3 => v.w3
           | _ => s.reg r) ∧
         t.pois r = (if (r - sr).toNat < 4 then false else s.pois r)) ∧
     (s.Issues coachWord (.dadd k e sr) k → ∃ w : Word,
       Does (.dadd k e sr) s (u.setDesc e.toNat { v with w0 := w }) ∧
       w.toNat % 2 ^ 56 = (v.w0.toNat + (s.reg sr).toNat) % 2 ^ 56 ∧ w.toNat / 2 ^ 56 = v.w0.toNat / 2 ^ 56) ∧
     (∀ (f : Nat) (w : Desc), (s.setDesc e.toNat w).desc f = if f = e.toNat then w else s.desc f))

/-- R127: QFEAT writes to d the word of the feature leaf that the register plus the unsigned field names; a leaf that the
part does not implement reads zero. It raises no fault of its own. What rests on log entries 9, 10, 11 and 32 is the
model's reading or choice. -/
def Obligations.FeatureLeaves : Prop :=
  ∀ (s : State) (k : Tok) (d a : BitVec 4) (i : BitVec 13),
    let n := (s.reg a).toNat + i.toNat
    Gives commonWord (.qfeat k d a i) k s d ((s.takeToken k).leaf s.cur (BitVec.ofNat 64 n)) (s.pois a) ∧
    (∀ m : Word, 3 ≤ m.toNat → s.leaf s.cur m = 0#64) ∧
    bits (s.leaf s.cur 0#64) 63 48 = 0x4128 ∧ bits (s.leaf s.cur 0#64) 39 8 = 0 ∧ bits (s.leaf s.cur 0#64) 7 0 = 2 ∧
    s.leaf s.cur 2#64 = 0x0040100840200808#64 ∧
    (∀ q p c, s.cur = .coach q p → s.coach? q = some c → s.leaf s.cur 1#64 = s.features c.slice)

/-- R128, R351 and R129: TIME reads the timestamp with the slice's offset, never below what the strand read before, the
clocks and the energy; ID reads the identifiers; on a Dray strand all but the die and the served number are all-ones.
What rests on log entries 5, 12 and 33 is the model's reading or choice. -/
def Obligations.TimeAndIdentity : Prop :=
  ∀ (s : State) (k : Tok) (d : BitVec 4),
    let u := s.takeToken k
    let now := s.tsc + s.timeOffset s.cur
    let v := if now.toNat < s.me.lastTime.toNat then s.me.lastTime else now
    (s.Issues commonWord (.timeNs k d) k →
      Completes (.timeNs k d) s k (fun u => (u.updMe (fun st => { st with lastTime := v })).setReg d v false)) ∧
    Gives commonWord (.timeClocks k d) k s d (u.timeClocks s.cur) false ∧
    Gives commonWord (.timeEnergy k d) k s d (u.energyOf s.cur) false ∧
    Gives commonWord (.idCoach k d) k s d (u.identifier s.cur 0) false ∧
    Gives commonWord (.idCore k d) k s d (u.identifier s.cur 1) false ∧
    Gives commonWord (.idCluster k d) k s d (u.identifier s.cur 2) false ∧
    Gives commonWord (.idDie k d) k s d (u.identifier s.cur 3) false ∧
    Gives commonWord (.idSlice k d) k s d (u.identifier s.cur 4) false ∧
    Gives commonWord (.idShape k d) k s d (u.identifier s.cur 5) false ∧
    ∀ e t, s.cur = .dray e t →
      s.identifier s.cur 0 = -1#64 ∧ s.identifier s.cur 1 = -1#64 ∧ s.identifier s.cur 2 = -1#64 ∧
      s.identifier s.cur 3 = BitVec.ofNat 64 e ∧ s.identifier s.cur 5 = -1#64 ∧
      (s.strandLevel e t = 0 → s.identifier s.cur 4 = -1#64) ∧
      (s.strandLevel e t ≠ 0 → s.identifier s.cur 4 = BitVec.ofNat 64 (s.strandServed e t))

/-! ## Scalar memory access -/

/-- R110, R113, R266 and R267: loads and stores of a Dray strand to its own private memory, for an access that stays within one
line. A load gives the bytes, sign- or zero-extended, with their poison; a store below the control structures changes its own
bytes and no other byte of private memory or of HBM. -/
def Obligations.PrivateMemoryAccess : Prop :=
  ∀ (s : State) (k : Tok) (tr b c : BitVec 4) (o : BitVec 7) (p : BitVec 4) (e : BitVec 3) (sz : BitVec 2) (d n : Nat) (th : Nat),
    n = 2 ^ sz.toNat → s.cur = .dray d th → s.me.reply = [] → s.me.replyPoison = false → s.pois b = false →
    let near := s.reg b + o.signExtend 64 * BitVec.ofNat 64 n
    let far := s.reg b + p.setWidth 64 * BitVec.ofNat 64 n
    let bytes := fun (va : Word) => natOfBytes ((List.range n).map (fun j => s.pmView d (va.toNat + j)))
    let reads := fun (va : Word) => va.toNat < 0x40000 ∧ va.toNat % 64 + n ≤ 64 ∧ s.pmAllowed d th va.toNat n .read = true
    let stores := fun (i : Instr) (va : Word) => s.Issues commonWord i k →
      va.toNat + n ≤ 0x39000 → va.toNat % 64 + n ≤ 64 → s.pmAllowed d th va.toNat n .write = true → s.pois tr = false →
      ∃ t, exec i s = .next t ∧ SameRegs s t ∧ Moved s t 1 ∧ t.mem = s.mem ∧ t.coaches = s.coaches ∧
        ∀ x y, t.pmByte x y =
          if x = d ∧ va.toNat ≤ y ∧ y < va.toNat + n then BitVec.ofNat 8 ((s.reg tr).toNat / 256 ^ (y - va.toNat))
          else s.pmByte x y
    (reads near →
      Gives commonWord (.ld k tr b c o sz) k s tr ((BitVec.ofNat (8 * n) (bytes near)).signExtend 64)
        (s.pmPois d near.toNat n) ∧
      Gives commonWord (.ldu k tr b c o sz) k s tr (BitVec.ofNat 64 (bytes near)) (s.pmPois d near.toNat n)) ∧
    (reads far →
      Gives commonWord (.lda k tr b c e p sz) k s tr ((BitVec.ofNat (8 * n) (bytes far)).signExtend 64)
        (s.pmPois d far.toNat n)) ∧
    stores (.st k tr b c o sz) near ∧ stores (.stl k tr b c e p sz) far

/-- R110, R112, R113, R151, R289, R290, R308, R311 and R312: a load of ordinary memory, within one line and with nothing to
wait for. A coach's load that hits its L1 gives the bytes of that line, another one those of the line's home as its launch sees
them; over both stand the posted stores that it may read before they are applied. A Dray strand's load gives the bytes at the
home. No load writes a byte: a byte may at most read as HBM holds it, when its clean line leaves the cache ways (R326). A store to
ordinary memory, within one line, is posted: a request with its bytes sets out for the line's home, no register changes, and no
byte of memory changes yet; a plain store that hits the L1 of its coach writes its bytes into that line, which takes its launch's
tag. What rests on log entries 38, 40 and 41 is the model's reading or choice. -/
def Obligations.GlobalAccesses : Prop :=
  (∀ (s : State) (k : Tok) (tr b c : BitVec 4) (o : BitVec 7) (p : BitVec 4) (e : BitVec 3) (sz : BitVec 2) (n : Nat) (x : Xlate),
     n = 2 ^ sz.toNat → s.me.reply = [] → s.me.replyPoison = false → s.pois b = false →
     apertureOf x.dpa = .hbm → x.memSide = false → x.setD = none →
     let u := s.takeToken k
     let near := s.reg b + o.signExtend 64 * BitVec.ofNat 64 n
     let far := s.reg b + p.setWidth 64 * BitVec.ofNat 64 n
     let tag := (u.attemptOf u.cur).map (fun t => t.1)
     let line := x.dpa / 64
     let off := x.dpa % 64
     let mask := lineMask off n
     let loads := fun (i : Instr) (va : Word) (scope : Nat) (ext : BitVec (8 * n) → Word) => s.Issues commonWord i k →
       (onDray s.cur = true ∨ va.toNat < 2 ^ 56) → va.toNat % 64 + n ≤ 64 → va.toNat % 64 = off →
       u.resolve u.cur va n .read true = .ok (.dpa x) → u.watchFault va n .read 0 = none →
       let gives := fun (v : BitVec 512 × BitVec 64) => ∃ t, exec i s = .next t ∧
         Wrote s t tr (ext (v.1.extractLsb' (8 * off) (8 * n))) (v.2 &&& mask != 0#64) ∧ Moved s t 1 ∧
         ∀ a, t.byteAt a = s.byteAt a ∨ t.byteAt a = s.hbmAt a
       let strict := s.me.strict || decide (2 ≤ scope)
       (∀ q, u.myCoach? = some q →
         u.mustWait u.cur c.toNat 0 line mask (fun r =>
           if u.shown q r then strict && r.by_ != u.cur else r.by_ != u.cur && u.isBehind u.cur r.id) = none →
         (∀ h, u.l1Hit q line = some h → gives (u.overLine (u.readOver q u.cur line) (h.data, h.pois))) ∧
         (u.l1Hit q line = none → u.pendingLine tag line = false →
           (∀ l, u.launchOf u.cur = some l → u.claimers (some l.tag) line mask = []) →
           gives (u.overLine (u.readOver q u.cur line) (u.viewLine (some q.tag) line)))) ∧
       (onDray s.cur = true → u.mustWait u.cur c.toNat 0 line mask (u.ownOrBehind u.cur) = none →
         u.pendingLine none line = false → gives (u.viewLine none line))
     loads (.ld k tr b c o sz) near 0 (fun v => v.signExtend 64) ∧
     loads (.ldu k tr b c o sz) near 0 (fun v => v.setWidth 64) ∧
     loads (.lda k tr b c e p sz) far e.toNat (fun v => v.signExtend 64)) ∧
  (∀ (s : State) (k : Tok) (tr b c : BitVec 4) (o : BitVec 7) (p : BitVec 4) (e : BitVec 3) (sz : BitVec 2) (n : Nat) (x : Xlate),
     n = 2 ^ sz.toNat → s.me.reply = [] → s.pois b = false → s.pois tr = false → apertureOf x.dpa = .hbm →
     x.memSide = false →
     let u := s.takeToken k
     let stores := fun (i : Instr) (va : Word) (rel : Option Nat) => s.Issues commonWord i k →
       (onDray s.cur = true ∨ va.toNat < 2 ^ 56) → va.toNat % 64 + n ≤ 64 →
       u.resolve u.cur va n .write true = .ok (.dpa x) → u.watchFault va n .write 0 = none →
       ∃ t r, exec i s = .next t ∧ SameRegs s t ∧ Moved s t 1 ∧ t.homeq = s.homeq ++ [r] ∧
         r.by_ = s.cur ∧ r.line = x.dpa / 64 ∧ r.mask = lineMask (x.dpa % 64) n ∧
         r.data = lineData (x.dpa % 64) (bytesOfNat n (s.reg tr).toNat) ∧ r.cls = c.toNat ∧ r.release = rel ∧
         r.tag = s.attemptOf s.cur ∧ r.after = u.me.behind ∧ (x.setD = none → t.mem = s.mem) ∧
         ∀ q h, x.setD = none → rel = none → u.myCoach? = some q → u.l1Hit q r.line = some h →
           r.near = true ∧ ∃ h', t.l1Hit q r.line = some h' ∧ h'.tag = some q.tag ∧ h'.data = overlay h.data r.data r.mask
     stores (.st k tr b c o sz) (s.reg b + o.signExtend 64 * BitVec.ofNat 64 n) none ∧
     stores (.stl k tr b c e p sz) (s.reg b + p.setWidth 64 * BitVec.ofNat 64 n) (some e.toNat))

/-- R116, R117 and R119: an atomic of a strand reads the old value into d and writes the new one, indivisibly: on the Dray's
private memory below the control structures, and on an ordinary line at its home for an agent outside launches. No other byte
changes (in HBM one may at most read as HBM holds it, R326). -/
def Obligations.Atomics : Prop :=
  ∀ (s : State) (k : Tok) (d b v c : BitVec 4) (m : BitVec 2) (e : BitVec 3),
    let does := fun (i : Instr) (feature n : Nat) (op : AtomOp) =>
      let va := s.reg b &&& ~~~ (BitVec.ofNat 64 (n - 1))
      let new := fun (old : Nat) =>
        atomicResult op (8 * n) old ((s.reg v).toNat % 2 ^ (8 * n)) ((s.reg d).toNat % 2 ^ (8 * n))
      let byte := fun (w j : Nat) => BitVec.ofNat 8 (w / 256 ^ j)
      let u := s.takeToken k
      s.Issues (kWord [feature]) i k → s.me.reply = [] → s.pois b = false → s.pois v = false →
      (op = .cas → s.pois d = false) → u.watchFault va n .atomic 0 = none →
      (m.toNat < 2 ∨ u.fenceWait u.cur allClasses scalarPaths e.toNat = none) →
      (∀ die th, s.cur = .dray die th → va.toNat + n ≤ 0x39000 → s.pmAllowed die th va.toNat n .atomic = true →
        let old := natOfBytes ((List.range n).map (fun j => s.pmView die (va.toNat + j)))
        ∃ t, exec i s = .next t ∧ Wrote s t d (BitVec.ofNat 64 old) (s.pmPois die va.toNat n) ∧ Moved s t 1 ∧
          t.mem = s.mem ∧ ∀ x y, t.pmByte x y =
            if x = die ∧ va.toNat ≤ y ∧ y < va.toNat + n then byte (new old) (y - va.toNat) else s.pmByte x y) ∧
      (∀ x : Xlate, u.resolve u.cur va n .atomic true = .ok (.dpa x) → (onDray s.cur = true ∨ va.toNat < 2 ^ 56) →
        apertureOf x.dpa = .hbm → x.memSide = false → x.setD = none → x.dpa % 64 = va.toNat % 64 →
        u.mustWait u.cur c.toNat 0 (x.dpa / 64) (lineMask (x.dpa % 64) n) (u.beforeAtomic u.cur) = none →
        s.pendingLine none (x.dpa / 64) = false → s.launchOf s.cur = none →
        let old := natOfBytes ((List.range n).map (fun j => s.byteAt (x.dpa + j)))
        ∃ t, exec i s = .next t ∧ Wrote s t d (BitVec.ofNat 64 old) (s.viewPois none false x.dpa n) ∧ Moved s t 1 ∧
          (∀ j, j < n → t.byteAt (x.dpa + j) = byte (new old) j) ∧
          ∀ a, a < x.dpa ∨ x.dpa + n ≤ a → t.byteAt a = s.byteAt a ∨ t.byteAt a = s.hbmAt a)
    does (.aadd k d b v c m e) 1 8 .add ∧ does (.aand k d b v c m e) 1 8 .and ∧ does (.aor k d b v c m e) 1 8 .or ∧
    does (.axor k d b v c m e) 1 8 .xor ∧ does (.aswp k d b v c m e) 1 8 .swp ∧ does (.acas k d b v c m e) 1 8 .cas ∧
    does (.amin k d b v c m e) 1 8 .min ∧ does (.amax k d b v c m e) 1 8 .max ∧
    does (.aminu k d b v c m e) 1 8 .minu ∧ does (.amaxu k d b v c m e) 1 8 .maxu ∧
    does (.aaddW k d b v c m e) 2 4 .add ∧ does (.aswpW k d b v c m e) 2 4 .swp ∧ does (.acasW k d b v c m e) 2 4 .cas

/-- R114, R135 and R148: LDSP reads bytes of a buffer of the coach with their poison; STSP writes bytes of ABUF or ACC, and
no other byte of a buffer; an access outside the used part (its offset is an unbounded sum, R10), or a
store to WBUF, faults. The access has nothing to wait for in the range
checker. -/
def Obligations.BufferAccess : Prop :=
  ∀ (s : State) (k : Tok) (tr b : BitVec 4) (kk sz : BitVec 2) (o : BitVec 9) (c : Coach),
    s.myCoach? = some c → s.pois b = false → kk ≠ 3#2 →
    let n := 2 ^ sz.toNat
    let off := (s.reg b).toNat + o.toNat * n
    let buf := match kk.toNat with
      | 0 => Buf.abuf
      | 1 => Buf.wbuf
      | _ => Buf.acc
    let within := off % n = 0 ∧ off + n ≤ c.usedSize buf
    let free := fun (wr : Bool) => c.checkerFull = false ∧ c.spmSeq (threadPart s.cur) = none ∧
      c.entries.any (fun e => extentsClash e.2 [{ buf := buf, lo := off, len := n, rd := !wr, wr := wr }]) = false
    (s.Issues coachWord (.ldsp k tr b kk o sz) k →
      (¬within → Traps (.ldsp k tr b kk o sz) s k 0x0205 none none) ∧
      (within → free false → ∃ t, exec (.ldsp k tr b kk o sz) s = .next t ∧
        Wrote s t tr (BitVec.ofNat 64 (natOfBytes (s.bufBytes c buf off n))) (s.bufPois c buf off n) ∧ Moved s t 1 ∧
        t.quads = s.quads ∧ t.mem = s.mem)) ∧
    (s.Issues coachWord (.stsp k tr b kk o sz) k → s.pois tr = false →
      (¬within → Traps (.stsp k tr b kk o sz) s k 0x0205 none none) ∧
      (within → kk = 1#2 → Traps (.stsp k tr b kk o sz) s k 0x0206 none none) ∧
      (within → kk ≠ 1#2 → free true → ∃ t, exec (.stsp k tr b kk o sz) s = .next t ∧ SameRegs s t ∧ Moved s t 1 ∧
        t.mem = s.mem ∧ ∀ b' i, i < c.bufSize b' → t.bufByte c b' i =
          if b' = buf ∧ off ≤ i ∧ i < off + n then BitVec.ofNat 8 ((s.reg tr).toNat / 256 ^ (i - off))
          else s.bufByte c b' i))

/-- R317 and R315: FENCE.ACQ completes at once and drops what the L1 holds for its coach, and at CLUSTER
scope or wider no pending byte of another agent is read from then on (R320); FENCE.REL and FENCE.FULL
complete when nothing of the classes and paths that they name is left to wait for at their scope. No fence changes a
register or a byte of memory. What rests on log entry 70 is the model's reading or choice. -/
def Obligations.Fences : Prop :=
  ∀ (s : State) (k : Tok) (a : BitVec 4) (e : BitVec 3) (h : BitVec 5),
    let cls := if a = 0#4 then 0xFFFF#16 else (s.reg a).setWidth 16
    let paths := if onDray s.cur then h &&& 1#5 else h
    let left := (s.takeToken k).fenceWait s.cur cls paths e.toNat
    let acquire := fun (u : State) => match s.myCoach? with
      | some c => if 1 ≤ e.toNat then { u with l1 := s.l1.filter (fun x => x.tag.isSome || !c.quads.contains x.quad) } else u
      | none => u
    let u := s.takeToken k
    let acquires := fun (i : Instr) => ∃ t, exec i s = .next t ∧ SameRegs s t ∧ Moved s t 1 ∧ OnlyThread (acquire u) t ∧
      (2 ≤ e.toNat → t.me.strict = true)
    (s.pois a = true →
      (s.Issues commonWord (.fenceAcq k a e h) k → Traps (.fenceAcq k a e h) s k 0x0401 none none) ∧
      (s.Issues commonWord (.fenceRel k a e h) k → Traps (.fenceRel k a e h) s k 0x0401 none none) ∧
      (s.Issues commonWord (.fenceFull k a e h) k → Traps (.fenceFull k a e h) s k 0x0401 none none)) ∧
    (s.pois a = false →
      (s.Issues commonWord (.fenceAcq k a e h) k → acquires (.fenceAcq k a e h)) ∧
      (s.Issues commonWord (.fenceRel k a e h) k → left = none → Does (.fenceRel k a e h) s s) ∧
      (s.Issues commonWord (.fenceFull k a e h) k → left = none → acquires (.fenceFull k a e h)) ∧
      (∀ r, u.fenceWait s.cur cls paths e.toNat = some r →
        (s.Issues commonWord (.fenceRel k a e h) k →
          exec (.fenceRel k a e h) s = .next (r.1.updMe (fun st => { st.parkOn r.2 r.1.tsc with begun := true }))) ∧
        (s.Issues commonWord (.fenceFull k a e h) k →
          exec (.fenceFull k a e h) s = .next (r.1.updMe (fun st => { st.parkOn r.2 r.1.tsc with begun := true })))))

/-! ## Launches, notifies, gates and transactions -/

/-- R262 to R265: the checks of LAUNCH and QNOTIFY on their operands, in their order. GATE.READ gives a gate's value;
GATE.ADD gives the value before it and adds mod 2^48, at once on a Dray strand and by a held record in a launch;
GATE.WAITGE waits for its bound, and completes as an acquire at DEVICE scope. A number of 256 or more is SEM_RANGE. What rests on log entry 65 is the model's reading
or choice. -/
def Obligations.QueueWords : Prop :=
  (∀ (s : State) (k : Tok) (a b : BitVec 4) (slice q : Nat),
     let checks := fun (i : Instr) (cls : WordClass) (v : Word) => s.Issues cls i k →
       (∀ d th, s.cur = .dray d th → bits v 63 16 ≠ 0 ∨ 64 ≤ bits v 15 8 → Traps i s k 0x0205 (some v) none) ∧
       (∀ d th, s.cur = .dray d th → bits v 63 16 = 0 → bits v 15 8 < 64 →
         s.ownsSlice d (s.strandLevel d th) (s.strandServed d th) (bits v 15 8) = false →
         Traps i s k 0x0C01 (some s.me.pc) (some ((instrWord i).setWidth 64))) ∧
       (s.Names v slice q → s.mayUse (some rightQueue) = false →
         Traps i s k 0x0C01 (some s.me.pc) (some ((instrWord i).setWidth 64))) ∧
       (s.Names v slice q → s.mayUse (some rightQueue) = true → 256 ≤ q → Traps i s k 0x0205 (some v) none)
     (s.pois a = true → s.Issues (kWord [4]) (.qnotify k a) k → Traps (.qnotify k a) s k 0x0401 none none) ∧
     ((s.pois a || s.pois b) = true → s.Issues (kWord [4]) (.launch k a b) k → Traps (.launch k a b) s k 0x0401 none none) ∧
     (s.pois a = false → checks (.qnotify k a) (kWord [4]) (s.reg a)) ∧
     ((s.pois a || s.pois b) = false → checks (.launch k a b) (kWord [4]) (s.reg b) ∧
       (s.Issues (kWord [4]) (.launch k a b) k → s.Names (s.reg b) slice q → s.mayUse (some rightQueue) = true → q < 256 →
         (s.reg a).toNat % 32 ≠ 0 → Traps (.launch k a b) s k 0x0205 (some (s.reg a)) none))) ∧
  (∀ (s : State) (k : Tok) (d a b : BitVec 4) (slice g : Nat),
     let u := s.takeToken k
     let old := (s.gate slice g).setWidth 64
     let range := fun (i : Instr) => s.Issues (kWord []) i k → 256 ≤ g → Traps i s k 0x0603 (some (word g)) (some 2#64)
     s.Names (s.reg a) slice g → (s.pois a || s.pois b) = false →
     range (.gateRead k d a) ∧ range (.gateAdd k d a b) ∧ range (.gateWaitge k d a b) ∧
     (g < 256 →
       (s.Issues (kWord []) (.gateRead k d a) k →
         ∃ t, exec (.gateRead k d a) s = .next t ∧ Wrote s t d old false ∧ Moved s t 1 ∧ OnlyThread s t) ∧
       (s.Issues (kWord []) (.gateAdd k d a b) k →
         (onDray s.cur = true → ∃ t, exec (.gateAdd k d a b) s = .next t ∧ Wrote s t d old false ∧ Moved s t 1 ∧
           OnlyThread { s with gates := t.gates } t ∧
           ∀ x y, y < 256 → (t.gate x y).toNat =
             if x = slice ∧ y = g then ((s.gate slice g).toNat + (s.reg b).toNat) % 2 ^ 48 else (s.gate x y).toNat) ∧
         (∀ l, s.launchOf s.cur = some l → l.held.length < 64 →
           ∃ t, exec (.gateAdd k d a b) s = .next t ∧ Wrote s t d old false ∧ Moved s t 1 ∧
             OnlyThread (u.updLaunch l.tag (fun l => { l with held := l.held ++ [.gateAdd slice g (s.reg b) s.cur] })) t) ∧
         (∀ l, s.launchOf s.cur = some l → 64 ≤ l.held.length → Traps (.gateAdd k d a b) s k 0x0902 none none)) ∧
       (s.Issues (kWord []) (.gateWaitge k d a b) k →
         ((s.reg b).toNat % 2 ^ 48 ≤ (s.gate slice g).toNat →
           ∃ t, exec (.gateWaitge k d a b) s = .next t ∧ Wrote s t d old false ∧ Moved s t 1 ∧
             OnlyThread (u.acquireL1 4) t ∧ t.me.strict = true) ∧
         ((s.gate slice g).toNat < (s.reg b).toNat % 2 ^ 48 →
           Parks (.gateWaitge k d a b) s k (.gate slice g (s.reg b))))))

/-- R264: LAUNCH holds its record in a launch and appends it on a Dray strand; LAUNCH.IMM appends at once in an open
launch and is UNDEF in another; QNOTIFY is held in a launch, and notifies at once on a Dray strand. The record has been
read in v. An append leaves its queue with a notify on its way; one to a slice that is SERVING
is dropped and counted (R257). What rests on log entries 80 and 86 is the model's
reading or choice. -/
def Obligations.Launches : Prop :=
  ∀ (s : State) (k : Tok) (a b : BitVec 4) (slice q : Nat) (v : State),
    let u := s.takeToken k
    let word8 := fun (j : Nat) => wordOf8 ((v.me.reply.drop (8 * j)).take 8)
    let ready := (s.pois a || s.pois b) = false ∧ s.Names (s.reg b) slice q ∧ s.mayUse (some rightQueue) = true ∧ q < 256 ∧
      (s.reg a).toNat % 32 = 0 ∧ u.Loads (s.reg a) 32 0 4 v ∧ v.me.replyPoison = false
    let hold := fun (x : State) (l : Launch) (r : HeldRec) =>
      x.updLaunch l.tag (fun l => { l with held := l.held ++ [r] })
    (s.Issues (kWord [4]) (.launch k a b) k → ready →
      (∀ l, v.launchOf s.cur = some l → l.held.length < 64 →
        exec (.launch k a b) s =
          .next ((hold v l (.launch slice q (word8 0) (word8 1) (word8 2) (word8 3) s.cur)).complete k 1)) ∧
      (∀ l, v.launchOf s.cur = some l → 64 ≤ l.held.length →
        exec (.launch k a b) s = .next (v.takeOpen s.cur 0x0902 none none s.me.pc)) ∧
      (onDray s.cur = true → v.fenceWait s.cur allClasses scalarPaths 4 = none →
        (∀ x, v.append (threadDie s.cur) slice q v.me.reply = .ok x → exec (.launch k a b) s = .next (x.complete k 1)) ∧
        (v.append (threadDie s.cur) slice q v.me.reply = .full →
          exec (.launch k a b) s = .next (v.takeOpen s.cur 0x0902 none none s.me.pc)))) ∧
    (s.Issues { kWord [4, 5] with coachOnly := true } (.launchImm k a b) k → ready → ∀ l, v.launchOf s.cur = some l →
      (l.mode = true → ∀ x, (v.openLaunch s.cur).fenceWait s.cur allClasses scalarPaths 4 = none →
        (v.openLaunch s.cur).append (threadDie s.cur) slice q v.me.reply = .ok x →
        exec (.launchImm k a b) s = .next (x.complete k 1)) ∧
      (l.mode = false → exec (.launchImm k a b) s =
        .next (v.takeOpen s.cur 0x0201 (some s.me.pc) (some ((instrWord (.launchImm k a b)).setWidth 64)) s.me.pc))) ∧
    (s.Issues (kWord [4]) (.qnotify k b) k → s.pois b = false → s.Names (s.reg b) slice q →
      s.mayUse (some rightQueue) = true → q < 256 →
      (∀ l, s.launchOf s.cur = some l → l.held.length < 64 →
        Completes (.qnotify k b) s k (fun u => hold u l (.notify slice q s.cur))) ∧
      (onDray s.cur = true →
        (s.migState slice = 1 → Does (.qnotify k b) s (s.notify slice q (threadDie s.cur))) ∧
        (s.migState slice ≠ 1 → ∀ x e, s.readQueue (threadDie s.cur) slice q = .ok x e →
          (e.bad = false → exec (.qnotify k b) s = .next ((x.notify slice q (threadDie s.cur)).complete k 1)) ∧
          (e.bad = true → exec (.qnotify k b) s = .next (x.takeOpen s.cur 0x0205 (some (word q)) none s.me.pc))))) ∧
    (∀ x : State, ∀ die,
      (x.migState slice ≠ 1 → (x.notify slice q die).notes.any (fun n => n.1 == slice && n.2.1 == q) = true) ∧
      (x.migState slice = 1 → x.notify slice q die = x.countDrop slice)) ∧
    (∀ die rec x, s.append die slice q rec = .ok x → x.migState slice ≠ 1 →
      x.notes.any (fun n => n.1 == slice && n.2.1 == q) = true)

/-- R293, R298 and R299: TXCLAIM checks its operands, completes at once in an irrevocable launch, and else enters the runs of its
region, discarding the launch's staged bytes in them; TXSTAT gives the status word; TXABORT ends the launch with
TX_ABORT_SELF. -/
def Obligations.Transactions : Prop :=
  ∀ (s : State) (k : Tok) (d a b : BitVec 4) (c : BitVec 13) (l : Launch), s.launchOf s.cur = some l →
    let u := s.takeToken k
    let base := (s.reg a).toNat
    let len := (s.reg b).toNat
    let good := base % 64 = 0 ∧ len % 64 = 0 ∧ len ≠ 0 ∧ len < 2 ^ 40 ∧ base + len ≤ 2 ^ 56
    (s.Issues { kWord [6] with coachOnly := true } (.txclaim k a b) k →
      ((s.pois a || s.pois b) = true → Traps (.txclaim k a b) s k 0x0401 none none) ∧
      ((s.pois a || s.pois b) = false →
        (¬good → Traps (.txclaim k a b) s k 0x0205 (some (s.reg a)) none) ∧
        (good → 16 ≤ l.claims.length → Traps (.txclaim k a b) s k 0x0205 (some (s.reg a)) (some 16#64)) ∧
        (good → l.claims.length < 16 → l.irrev = true → Does (.txclaim k a b) s s) ∧
        (good → l.claims.length < 16 → l.irrev = false → ∀ v runs,
          (u.unpark s.cur 0).claimRuns (u.whoOf s.cur true) base len = .ok v runs → v.runOwners l.tag runs = [] →
          let full := 4096 < v.launches.foldl (fun n x => n + x.runs.length) runs.length
          (¬full → exec (.txclaim k a b) s =
            .next (((v.dropStaged l.tag runs).updLaunch l.tag (fun l =>
              { l with claims := l.claims ++ [(base, len)], runs := l.runs ++ runs })).complete k 1)) ∧
          (full → exec (.txclaim k a b) s = .next (v.abortLaunch l.tag 0x0502 0#16 0#13))))) ∧
    Gives { kWord [] with coachOnly := true } (.txstat k d) k s d (s.txStatus l) false ∧
    (l.attempt < 16 → s.sliceRetry l.die l.slice < 16 → l.held.length ≤ 64 → l.claims.length ≤ 16 →
      let w := s.txStatus l
      bits w 63 48 = (s.vtag l.tag).toNat ∧ bits w 47 44 = l.attempt ∧ bits w 43 40 = s.sliceRetry l.die l.slice ∧
        bits w 39 24 = 0 ∧ bits w 23 16 = l.held.length ∧ bits w 15 10 = 0 ∧ bit w 9 = bit (l.h 1) 31 ∧ bit w 8 = l.mode ∧
        bit w 7 = l.policyAbort ∧ bit w 6 = l.irrev ∧ bit w 5 = l.opened ∧ bits w 4 0 = l.claims.length) ∧
    (s.Issues { kWord [] with coachOnly := true } (.txabort k c) k →
      exec (.txabort k c) s = .next (u.abortLaunch l.tag 0x0503 0#16 c) ∧
      ((s.tag l.tag).st = .running → l.cause = 0#16 → ∃ t, exec (.txabort k c) s = .next t ∧
        (t.tag l.tag).st = .aborting ∧ (∀ x, t.coaches.contains x = true → x.tag ≠ l.tag) ∧
        ∀ m, t.launch? l.tag = some m → m.cause = 0x0503#16 ∧ m.user = c ∧ m.held = []))

/-! ## System words: masters -/

/-- R339 and R340: the map of a master handle; a word that takes one raises DESC_RANGE for a handle that breaks the map, that
names its own strand or that is not of its kinds, and RIGHTS for a master outside its authority. -/
def Obligations.MasterHandles : Prop :=
  (∀ q p, q < 512 → p ≤ 10 ∨ p = 16 ∨ p = 17 ∨ p = 18 ∨ p = 31 →
    masterOf (word (4096 * (q / 128) + 32 * (q % 128) + p)) = some (.coach q p)) ∧
  (∀ die n, die < 4 → n < 8 → masterOf (word (2 ^ 22 + 4096 * die + n)) = some (.dray die n)) ∧
  (∀ f, f < 256 → masterOf (word (2 ^ 23 + f)) = some (.fn f)) ∧
  (∀ h m, masterOf h = some m →
    match m with
    | .coach q p => q < 512 ∧ (p ≤ 10 ∨ p = 16 ∨ p = 17 ∨ p = 18 ∨ p = 31) ∧
      h.toNat = 4096 * (q / 128) + 32 * (q % 128) + p
    | .dray die n => die < 4 ∧ n < 8 ∧ h.toNat = 2 ^ 22 + 4096 * die + n
    | .fn f => f < 256 ∧ h.toNat = 2 ^ 23 + f) ∧
  ∀ (s : State) (k : Tok) (d a b : BitVec 4) (n7 : BitVec 7) (die n : Nat), s.cur = .dray die n →
    let h := s.reg a
    let thread := fun (m : Master) => (∃ q p, m = .coach q p ∧ p ≤ 10) ∨ ∃ e j, m = .dray e j
    let queue := fun (m : Master) => ∃ q p, m = .coach q p ∧ (p = 16 ∨ p = 17 ∨ p = 18 ∨ p = 31)
    let whole := fun (m : Master) => ∃ q, m = .coach q 31
    let any := fun (_ : Master) => True
    let checks := fun (i : Instr) (cls : WordClass) (fits : Master → Prop) => s.Issues cls i k →
      (masterOf h = none → Traps i s k 0x0205 (some h) none) ∧
      ∀ m, masterOf h = some m →
        (m = .dray die n ∨ ¬fits m → Traps i s k 0x0205 (some h) none) ∧
        (m ≠ .dray die n → fits m → s.masterOk (s.caller die n) m = false → Denies i s k)
    s.pois a = false → s.pois b = false →
    checks (.eret k d a) (sysWord 2 none) thread ∧ checks (.fres k d a) (sysWord 2 (some rightSched)) queue ∧
    checks (.fkill k d a) (sysWord 2 (some rightKill)) any ∧ checks (.freeze k d a) (sysWord 2 (some rightPreempt)) any ∧
    checks (.thaw k d a) (sysWord 2 (some rightPreempt)) any ∧
    checks (.csrx k d a b n7) (sysWord 2 (some rightDebug)) thread ∧
    checks (.csrxW k d a b n7) (sysWord 2 (some rightDebug)) thread ∧
    checks (.csrxS k d a b n7) (sysWord 2 (some rightDebug)) thread ∧
    checks (.csrxC k d a b n7) (sysWord 2 (some rightDebug)) thread ∧
    checks (.moult k d a b) (sysWord 2 (some rightPreempt)) whole ∧
    checks (.unmoult k d a b) (sysWord 2 (some rightPreempt)) whole

/-- R341 and R342: what ERET, FRES, FKILL, FREEZE and THAW do with a master that they may act on, and the status that
they give; a FREEZE whose master has more to finish parks, and completes once it is still. Each word's completion is
stated first, for every master of its kinds. What rests on log entries 87, 89, 98 and 159 is the model's reading or choice. -/
def Obligations.MasterWords : Prop :=
  ∀ (s : State) (k : Tok) (d a : BitVec 4) (die n : Nat) (m : Master), s.cur = .dray die n → s.pois a = false →
    masterOf (s.reg a) = some m → m ≠ .dray die n → s.masterOk (s.caller die n) m = true →
    let level := s.strandLevel die n
    let ends := fun (x : State) (v : Word) => (x.setReg d v false).complete k 1
    (s.Issues (sysWord 2 none) (.eret k d a) k → m.isThread = true →
      (∃ x v, exec (.eret k d a) s = .next (ends x v)) ∧
      (s.threadFrozen m.thread = true → (s.strand? m.thread).isSome = true →
        exec (.eret k d a) s = .next (ends s 2#64)) ∧
      (s.strand? m.thread = none → exec (.eret k d a) s = .next (ends s 1#64)) ∧
      ∀ st, s.strand? m.thread = some st → s.threadFrozen m.thread = false →
        (∀ l, st.run = .stopped l →
          (level ≠ 0 → level ≠ l → exec (.eret k d a) s = .next (ends s 3#64)) ∧
          ((level = 0 ∨ level = l) → exec (.eret k d a) s =
            .next (ends (s.updStrand m.thread (fun st => { st with pc := st.epc, run := .ready })) 0#64))) ∧
        ((∀ l, st.run ≠ .stopped l) → exec (.eret k d a) s = .next (ends s 1#64))) ∧
    (s.Issues (sysWord 2 (some rightSched)) (.fres k d a) k → ∀ q p, m = .coach q p → 11 ≤ p →
      (∃ x v, exec (.fres k d a) s = .next (ends x v)) ∧
      (s.coach? q = none → exec (.fres k d a) s = .next (ends s 1#64)) ∧
      ∀ c, s.coach? q = some c →
        let named := partQueues p
        let parked := named.filter (fun x => (c.parked x).isSome)
        let frozen := c.frozen = true ∨ (∃ x ∈ parked, c.queueFrozen x = true) ∨
          ∃ x, queueOf p = some x ∧ c.queueFrozen x = true
        let mine := level = 0 ∨ ∀ x ∈ parked, ∀ r, c.parked x = some r → r.level = level
        (frozen → exec (.fres k d a) s = .next (ends s 2#64)) ∧
        (¬frozen → parked = [] → exec (.fres k d a) s = .next (ends s 1#64)) ∧
        (¬frozen → parked ≠ [] → ¬mine → exec (.fres k d a) s = .next (ends s 3#64)) ∧
        (¬frozen → parked ≠ [] → mine → exec (.fres k d a) s =
          .next (ends (s.updCoach q (fun c => parked.foldl (fun c x => c.park x none) c)) 0#64))) ∧
    (s.Issues (sysWord 2 (some rightKill)) (.fkill k d a) k →
      (∃ x v, exec (.fkill k d a) s = .next (ends x v)) ∧
      (∀ q p, m = .coach q p →
        (s.coach? q = none → exec (.fkill k d a) s = .next (ends s 1#64)) ∧
        (∀ c, s.coach? q = some c → exec (.fkill k d a) s = .next (ends (s.abortLaunch c.tag 0x0504 0#16 0#13) 0#64))) ∧
      (∀ e j, m = .dray e j → e < 4 → j < 8 → ∃ x, exec (.fkill k d a) s = .next (ends x 0#64) ∧
        (x.drayStrand e j).th.run = .idle ∧ bit (x.pmWord e (strandEntry j)) 63 = false ∧
        (∀ f ∈ x.faults, f.body.handle ≠ threadHandle (.dray e j)) ∧ x.mem = s.mem) ∧
      (∀ f, m = .fn f → exec (.fkill k d a) s = .next (ends (s.updFn f (fun _ => FnPage.reset)) 0#64))) ∧
    (s.Issues (sysWord 2 (some rightPreempt)) (.freeze k d a) k →
      let stops := fun (x : State) =>
        (x.frozenStill m = true → exec (.freeze k d a) s = .next (ends x 0#64)) ∧
        (x.frozenStill m = false → exec (.freeze k d a) s = .next ((x.addReply [0#8] false).updMe (fun st =>
          { st.parkOn .fence x.tsc with begun := true })))
      let frozen := fun (already : Bool) (x : State) =>
        (already = true → exec (.freeze k d a) s = .next (ends s 1#64)) ∧ (already = false → stops x)
      (s.me.reply = [] →
        (∀ q p, m = .coach q p →
          (s.coach? q = none → exec (.freeze k d a) s = .next (ends s 1#64)) ∧
          ∀ c, s.coach? q = some c →
            (c.frozen = true → exec (.freeze k d a) s = .next (ends s 1#64)) ∧
            (c.frozen = false →
              (p = 31 → stops ((s.stopCoach q).updCoach q (fun c => c.freeze s.tsc))) ∧
              (∀ x, queueOf p = some x → frozen (c.queueFrozen x) (s.updCoach q (fun c => c.freezeQueue x true))) ∧
              (p ≤ 10 → frozen (c.strand p).frozen
                ((s.abandon (.coach q p)).updStrand (.coach q p) (fun t => { t with frozen := true }))))) ∧
        (∀ e j, m = .dray e j → frozen (s.drayStrand e j).th.frozen
          ((s.abandon (.dray e j)).updStrand (.dray e j) (fun t => { t with frozen := true }))) ∧
        (∀ f, m = .fn f → ((s.fn f).frozen = true → exec (.freeze k d a) s = .next (ends s 1#64)) ∧
          ((s.fn f).frozen = false →
            exec (.freeze k d a) s = .next (ends (s.updFn f (fun x => { x with frozen := true })) 0#64)))) ∧
      (s.me.reply ≠ [] →
        ((s.bringStill m).frozenStill m = true → exec (.freeze k d a) s = .next (ends (s.bringStill m) 0#64)) ∧
        ((s.bringStill m).frozenStill m = false → exec (.freeze k d a) s =
          .next ((s.bringStill m).updMe (fun st => { st.parkOn .fence (s.bringStill m).tsc with begun := true }))))) ∧
    (s.Issues (sysWord 2 (some rightPreempt)) (.thaw k d a) k →
      let thaws := fun (was : Bool) (x : State) =>
        (was = false → exec (.thaw k d a) s = .next (ends s 1#64)) ∧
        (was = true → exec (.thaw k d a) s = .next (ends x 0#64))
      (∃ x v, exec (.thaw k d a) s = .next (ends x v)) ∧
      (∀ q p, m = .coach q p →
        (s.coach? q = none → exec (.thaw k d a) s = .next (ends s 1#64)) ∧
        ∀ c, s.coach? q = some c →
          let x := s.updCoach q (fun c => { c with frozen := false, stopAt := none, froze := false })
          let dq := quadDie q
          (p = 31 → c.frozen = false → exec (.thaw k d a) s = .next (ends s 1#64)) ∧
          (p = 31 → c.frozen = true →
            (s.preState dq c.slice = 0 → exec (.thaw k d a) s = .next (ends x 0#64)) ∧
            (s.preState dq c.slice ≠ 0 → s.preRung dq c.slice = 3 → exec (.thaw k d a) s =
              .next (ends ((x.abortLaunch c.tag 0x0504 0#16 0#13).reportKill dq c.slice 1) 0#64)) ∧
            (s.preState dq c.slice ≠ 0 → s.preRung dq c.slice ≠ 3 → ∃ y, exec (.thaw k d a) s = .next (ends y 0#64) ∧
              y.preState dq c.slice = 1 ∧ y.preRung dq c.slice = s.preRung dq c.slice ∧
              (y.coach? q).map (fun c => c.frozen) = some false ∧
              ∀ r ∈ y.pres, r.die = dq → r.slice = c.slice → r.began = s.tsc)) ∧
          (∀ x, queueOf p = some x → thaws (c.queueFrozen x) (s.updCoach q (fun c => c.freezeQueue x false))) ∧
          (p ≤ 10 → thaws (c.strand p).frozen
            (s.updStrand (.coach q p) (fun t => { t with frozen := false })))) ∧
      (∀ e j, m = .dray e j → thaws (s.drayStrand e j).th.frozen
        (s.updStrand (.dray e j) (fun t => { t with frozen := false }))) ∧
      (∀ f, m = .fn f → thaws (s.fn f).frozen (s.updFn f (fun x => { x with frozen := false })).pumpProxies))

/-- R352: CSRX reads a CSR of another thread that is stopped, frozen or held, and its writing forms write it, the fault
registers of R97 too; a thread that runs is DESC_RANGE. What rests on log entry 91 is the model's reading or choice. -/
def Obligations.OtherRegisters : Prop :=
  ∀ (s : State) (k : Tok) (d a b : BitVec 4) (n7 : BitVec 7) (die n : Nat) (m : Master), s.cur = .dray die n →
    s.pois a = false → s.pois b = false → masterOf (s.reg a) = some m → m ≠ .dray die n → m.isThread = true →
    s.masterOk (s.caller die n) m = true →
    let th := m.thread
    let still := (∃ st, s.strand? th = some st ∧ ∃ l, st.run = .stopped l) ∨
      (∃ st, s.strand? th = some st ∧ st.frozen = true) ∨
      ∃ q p c, th = .coach q p ∧ s.coach? q = some c ∧ (c.frozen = true ∨ c.held.isSome = true)
    let old := s.csr th n7.toNat
    let all := [(Instr.csrx k d a b n7, s), (Instr.csrxW k d a b n7, s.csrWriteX th n7.toNat (s.reg b)),
      (Instr.csrxS k d a b n7, s.csrWriteX th n7.toNat (old ||| s.reg b)),
      (Instr.csrxC k d a b n7, s.csrWriteX th n7.toNat (old &&& ~~~ (s.reg b)))]
    (∀ x ∈ all, s.Issues (sysWord 2 (some rightDebug)) x.1 k →
      (¬still → Traps x.1 s k 0x0205 (some (s.reg a)) none) ∧ (still → Returns x.1 s x.2 k d old)) ∧
    ((s.strand? th).isSome = true → ∀ v : Word, ∀ j : Nat,
      (s.csrWriteX th n7.toNat v).csr th j =
        (if j = n7.toNat then
          match j with
          | 1 => v &&& 0x1EF#64
          | 2 => v &&& 0x1FF#64
          | 3 => v &&& 0x1FFFF#64
          | 4 => v &&& 0x1FFFF#64
          | 5 => v
          | 6 => v
          | 7 => v
          | 9 => (v &&& 2#64) ||| (s.csr th 9 &&& 1#64)
          | _ => s.csr th j
        else s.csr th j))

/-! ## System words: pre-emption, records and context switch -/

/-- R354, R357 and R358: PRE checks its operands, begins or raises a request on each die that b names, or lifts it, and
gives word 0 of the slice's block on the issuing die. -/
def Obligations.Preemption : Prop :=
  ∀ (s : State) (k : Tok) (d a b : BitVec 4) (die n : Nat), s.cur = .dray die n → s.pois a = false → s.pois b = false →
    let c := s.caller die n
    let slice := (s.reg a).toNat
    let vb := s.reg b
    let named := fun (j : Nat) => j < 4 ∧ (bits vb 3 0 = 0 ∨ bit vb j = true)
    let rungs := fun (i : Instr) (rung : Nat) => s.Issues (sysWord 2 (some rightPreempt)) i k →
      let bad := bits vb 63 9 ≠ 0 ∨ bits vb 7 4 ≠ 0 ∨ (bit vb 8 = true ∧ rung ≠ 0)
      (64 ≤ slice → Traps i s k 0x0205 (some (s.reg a)) none) ∧
      (slice < 64 → bad → Traps i s k 0x0205 (some vb) none) ∧
      (slice < 64 → ¬bad → c.has s slice = false → Denies i s k) ∧
      (slice < 64 → ¬bad → c.has s slice = true → ∃ x, Returns i s x k d (x.preWord die slice) ∧
        x = s.preempt c slice rung (bit vb 8) (namedDies vb) ∧
        (∀ j, j ∈ namedDies vb ↔ named j) ∧
        (bit vb 8 = true → ∀ j, named j → x.preState j slice = 0 ∧ ∀ o ∈ x.coaches, o.slice = slice → quadDie o.quad = j →
          s.preState j slice ≠ 0 → o.held = none) ∧
        (bit vb 8 = false → rung < 3 → ∀ j, named j →
          (x.preState j slice = 1 ∨ x.preState j slice = 2 ∨ x.preState j slice = s.preState j slice) ∧
          x.preState j slice ≠ 0 ∧
          x.preRung j slice = if s.preState j slice = 0 then rung else Nat.max rung (s.preRung j slice)))
    rungs (.pre k d a b) 0 ∧ rungs (.preResume k d a b) 0 ∧ rungs (.preTask k d a b) 1 ∧ rungs (.preInsn k d a b) 2 ∧
    rungs (.preKill k d a b) 3

/-- R357, R363 and R364: MOULT writes the record of a held coach and waits for its writes, then dissolves the coach and
gives the record's length; UNMOULT restores the coach of a record that keeps its form. What rests on log entries 99 and
100 is the model's reading or choice. -/
def Obligations.Moults : Prop :=
  ∀ (s : State) (k : Tok) (d a b : BitVec 4) (die n q : Nat), s.cur = .dray die n → s.pois a = false → s.pois b = false →
    masterOf (s.reg a) = some (.coach q 31) → s.masterOk (s.caller die n) (.coach q 31) = true →
    let vb := s.reg b
    let moult := Instr.moult k d a b
    let unmoult := Instr.unmoult k d a b
    (s.Issues (sysWord 2 (some rightPreempt)) moult k →
      (vb.toNat % 256 ≠ 0 → Traps moult s k 0x0205 (some vb) none) ∧
      (vb.toNat % 256 = 0 → s.coach? q = none → Returns moult s s k d 1#64) ∧
      (vb.toNat % 256 = 0 → ∀ c l, s.coach? q = some c → s.launch? c.tag = some l →
        (s.me.reply = [] → c.frozen = true → Returns moult s s k d 2#64) ∧
        (s.me.reply = [] → c.frozen = false → c.held = none → Returns moult s s k d 1#64) ∧
        (s.me.reply = [] → c.frozen = false → c.held.isSome = true → s.rowsOut c = true → Parks moult s k .fence) ∧
        (s.me.reply = [] → c.frozen = false → c.held.isSome = true → s.rowsOut c = false →
          let r := s.moultRecord c l
          s.probe .write (linePieces vb.toNat r.length) = none → s.watchFault vb r.length .write 0 = none →
          ∀ x, s.storePieces pmStore 0 none vb.toNat r (linePieces vb.toNat r.length) = .ok x →
            exec moult s = .next ((x.addReply (bytesOfNat 8 r.length) false).updMe (fun st =>
              { st.parkOn .fence x.tsc with begun := true }))) ∧
        (s.me.reply ≠ [] → s.storesLeft = true → Parks moult s k .fence) ∧
        (s.me.reply ≠ [] → s.storesLeft = false →
          Returns moult s (s.dissolve c) k d (word (natOfBytes s.me.reply * 2 ^ 32))))) ∧
    (∀ c, s.coach? q = some c → (s.dissolve c).coach? q = none) ∧
    (s.Issues (sysWord 2 (some rightPreempt)) unmoult k →
      (vb.toNat % 256 ≠ 0 → Traps unmoult s k 0x0205 (some vb) none) ∧
      (vb.toNat % 256 = 0 → ∀ v w x h, s.Loads vb 256 0 0 v →
        let len := bits (at8 v.me.reply 0) 63 32
        len % 256 = 0 → 256 ≤ len → bits (at8 v.me.reply 0) 15 0 = 1 →
        v.loadPieces v.me.strict 0 ((linePieces vb.toNat len).filter (fun p => decide (vb.toNat + v.me.reply.length ≤ p.1))) = .ok w →
        w.me.replyPoison = false → v.me.reply ≠ [] →
        let bs := w.me.reply
        (w.hwWords (w.hwWho (quadDie q) (bits (at8 bs 8) 21 16)) false (bits (at8 bs 16) 55 0) (List.range 32)).1 = .ok x h →
        let m : Moult := { bytes := bs, hdr := h }
        m.ok = true → (s.caller die n).has x m.slice = true →
        (x.namedLaunch m.vtag = none → Returns unmoult s x k d 4#64) ∧
        ∀ l p, x.namedLaunch m.vtag = some l → l.slice = m.slice →
          (∃ e, x.walker (quadDie q) l.tag = some e ∧ 0 < e.saved) →
          (shapeLeads m.shape (quadDie q)).contains q = true → (shapeQuads m.shape q).all (x.ownsQuad m.slice) = true →
          ((shapeQuads m.shape q).all (x.quadFree m.slice) = false → Returns unmoult s x k d 1#64) ∧
          ((shapeQuads m.shape q).all (x.quadFree m.slice) = true → x.moultPoint l m (quadDie q) = some p →
            x.viewsOk (x.moultCoach l m q p) = true → x.circuitsOk (x.moultCoach l m q p) = true →
            Returns unmoult s (x.restoreMoult l m q p) k d 0#64)))

/-- R357, R365 and R366: WALKSAVE writes a launch's walk record, frees its entry and waits for its writes, WALKLOAD installs an entry from a record;
QMAP maps a queue to a free slot and QUNMAP frees its slot. A stale version tag gives 4, a state that does not fit gives
1. What rests on log entries 103 and 104 is the model's reading or choice. -/
def Obligations.WalksAndSlots : Prop :=
  ∀ (s : State) (k : Tok) (d a b : BitVec 4) (die n : Nat), s.cur = .dray die n → s.pois a = false → s.pois b = false →
    let va := s.reg a
    let vb := s.reg b
    let save := Instr.walksave k d a b
    let load := Instr.walkload k d a b
    let qmap := Instr.qmap k d a b
    let qunmap := Instr.qunmap k d a
    (∀ i ∈ [save, load], s.Issues (sysWord 2 (some rightPreempt)) i k →
      (bits va 63 16 ≠ 0 → Traps i s k 0x0205 (some va) none) ∧
      (bits va 63 16 = 0 → vb.toNat % 64 ≠ 0 → Traps i s k 0x0205 (some vb) none) ∧
      (bits va 63 16 = 0 → vb.toNat % 64 = 0 → s.namedLaunch va.toNat = none → Returns i s s k d 4#64) ∧
      (bits va 63 16 = 0 → vb.toNat % 64 = 0 → ∀ l, s.namedLaunch va.toNat = some l →
        (s.caller die n).has s l.slice = false → Denies i s k)) ∧
    (bits va 63 16 = 0 → vb.toNat % 64 = 0 → ∀ l, s.namedLaunch va.toNat = some l → (s.caller die n).has s l.slice = true →
      (s.Issues (sysWord 2 (some rightPreempt)) save k →
        (s.me.reply ≠ [] → s.storesLeft = true → Parks save s k .fence) ∧
        (s.me.reply ≠ [] → s.storesLeft = false → Returns save s s k d 0#64) ∧
        (s.me.reply = [] → s.walker die l.tag = none → Returns save s s k d 1#64) ∧
        ∀ w, s.me.reply = [] → s.walker die l.tag = some w →
          let busy := s.preState die l.slice ≠ 2 ∨ ∃ c ∈ s.coaches, c.tag = l.tag ∧ quadDie c.quad = die
          (busy → Returns save s s k d 1#64) ∧
          (¬busy → s.probe .write (linePieces vb.toNat 64) = none → s.watchFault vb 64 .write 0 = none →
            ∀ x, s.storePieces pmStore 0 none vb.toNat (walkRecord s w l) (linePieces vb.toNat 64) = .ok x →
              let y := { x with walkers := x.walkers.filter (fun e => e.die != die || e.tag != l.tag) }
              (y.storesLeft = false → Returns save s y k d 0#64) ∧
              (y.storesLeft = true → exec save s = .next ((y.addReply [0#8] false).updMe (fun st =>
                { st.parkOn .fence y.tsc with begun := true }))))) ∧
      (s.Issues (sysWord 2 (some rightPreempt)) load k → ∀ v, s.Loads vb 64 0 0 v → v.me.replyPoison = false →
        let bs := v.me.reply
        let next := bits (at8 bs 8) 47 0
        let total := bits (at8 bs 16) 47 0
        let good := bits (at8 bs 0) 15 0 = (v.vtag l.tag).toNat ∧ bits (at8 bs 0) 17 16 = die ∧
          bits (at8 bs 0x20) 55 0 = bits l.lnr 55 0 ∧ next ≤ total ∧ total = v.spatial l die
        (¬good → exec load s = .next (v.takeOpen s.cur 0x0205 (some vb) none s.me.pc)) ∧
        (good → (v.walker die l.tag).isSome = true ∨ 64 ≤ (v.walkers.filter (fun w => w.die == die)).length →
          Returns load s v k d 1#64) ∧
        (good → v.walker die l.tag = none → (v.walkers.filter (fun w => w.die == die)).length < 64 →
          let w : WalkEntry :=
            { die := die, tag := l.tag, next := next, total := total, saved := bits (at8 bs 24) 31 0, bound := 0 }
          Returns load s { v with walkers := v.walkers ++ [w] } k d 0#64))) ∧
    ∀ slice q, s.Names va slice q → q < 256 → s.mayUse (some rightQueue) = true →
      (s.Issues (sysWord 2 (some rightQueue)) qmap k →
        let slot := bits vb 5 0
        let bad := bits vb 63 9 ≠ 0 ∨ bits vb 7 6 ≠ 0
        (bad → Traps qmap s k 0x0205 (some vb) none) ∧
        (¬bad → bit vb 8 = true → s.strandLevel die n = 2 → Denies qmap s k) ∧
        (¬bad → (bit vb 8 = false ∨ s.strandLevel die n ≠ 2) →
          (s.sliceOnDie slice die = false → Traps qmap s k 0x0205 (some va) none) ∧
          (s.sliceOnDie slice die = true →
            (s.mappedTo slice q = some (die, slot) →
              Returns qmap s (s.updSlot die slot (fun x => { x with pinned := bit vb 8 })) k d 0#64) ∧
            (∀ m, s.mappedTo slice q = some m → m ≠ (die, slot) → Returns qmap s s k d 1#64) ∧
            (s.mappedTo slice q = none → (s.slot die slot).queue.isSome = true ∨ s.slotLaunches die slot ≠ [] →
              Returns qmap s s k d 1#64) ∧
            (s.mappedTo slice q = none → (s.slot die slot).queue = none → s.slotLaunches die slot = [] →
              ∀ x e, s.readQueue die slice q = .ok x e →
                (x.qmapTo die slot slice q (bit vb 8) e = none → exec qmap s =
                  .next (x.updMe (fun st => { st.parkOn .fence x.tsc with begun := true }))) ∧
                ∀ y, x.qmapTo die slot slice q (bit vb 8) e = some y → Returns qmap s y k d 0#64 ∧
                (e.en = false →
                  (y.slot die slot).queue = some (slice, q) ∧ (y.slot die slot).pinned = bit vb 8 ∧
                  (y.slot die slot).head = (y.slot die slot).tail))))) ∧
      (s.Issues (sysWord 2 (some rightQueue)) qunmap k →
        (s.mappedTo slice q = none → Returns qunmap s s k d 1#64) ∧
        ∀ m, s.mappedTo slice q = some m →
          ((∃ l ∈ s.slotLaunches m.1 m.2, l.started ≠ 0#4) → Returns qunmap s s k d 1#64) ∧
          ((∀ l ∈ s.slotLaunches m.1 m.2, l.started = 0#4) → ∀ x e, s.readQueue die slice q = .ok x e →
            let y := x.freeSlotOf m.1 m.2
            (y.slot m.1 m.2 = Slot.reset) ∧
            (e.head = e.tail → Returns qunmap s y k d 0#64) ∧
            (e.head ≠ e.tail → ∀ z, y.makePending die slice q e = .ok z () → Returns qunmap s z k d 0#64)))

/-- R357, R367 and R368: the image of SEMMAP and BARMAP lies in private memory below 0x40000; they exchange an image with semaphore counts, a coach's views or a barrier's state. The
image has been read in v; x is the state in which the old contents have been written to it. What rests on log entries 101
and 102 is the model's reading or choice. -/
def Obligations.Exchanges : Prop :=
  ∀ (s : State) (k : Tok) (d a b : BitVec 4) (die n : Nat) (v : State), s.cur = .dray die n → s.pois a = false →
    s.pois b = false →
    let va := s.reg a
    let vb := s.reg b
    let c := s.caller die n
    let semmap := Instr.semmap k d a b
    let barmap := Instr.barmap k d a b
    let quad := bits va 13 5
    let bs := v.me.reply
    let read := fun (n : Nat) => s.Loads vb n 0 0 v ∧ v.me.replyPoison = false ∧ v.probe .write (linePieces vb.toNat n) = none ∧
      v.watchFault vb n .write 0 = none
    let writes := fun (i : Instr) (n : Nat) (t : State) (old : List Byte) =>
      ∀ x, t.storePieces pmStore 0 none vb.toNat old (linePieces vb.toNat n) = .ok x → Returns i s x k d 0#64
    let elsewhere := 0x40000 ≤ vb.toNat
    let refused := fun (i : Instr) => exec i s = .next (v.takeOpen s.cur 0x0205 (some vb) none s.me.pc)
    (s.Issues (sysWord 2 (some rightSched)) semmap k → bits va 63 14 = 0 → bits va 4 1 = 0 → elsewhere →
      Traps semmap s k 0x0205 (some vb) none) ∧
    (s.Issues (sysWord 2 (some rightSched)) barmap k → bits va 63 14 = 0 → bit va 1 = false →
      (bit va 0 = false → bits va 11 9 = 0) → (bit va 0 = true → bits va 4 1 = 0) → elsewhere →
      Traps barmap s k 0x0205 (some vb) none) ∧
    (s.Issues (sysWord 2 (some rightSched)) semmap k → bits va 63 14 = 0 → bits va 4 1 = 0 → vb.toNat % 128 = 0 → vb.toNat < 0x40000 →
      s.masterOk c (.coach quad 31) = true →
      (bit va 0 = false →
        ((s.quad quad).semWait ≠ [] → Returns semmap s s k d 1#64) ∧
        ((s.quad quad).semWait = [] → read 128 →
          ((∃ y ∈ bs.drop 64, y ≠ 0#8) → refused semmap) ∧
          ((∀ y ∈ bs.drop 64, y = 0#8) →
            writes semmap 128 (v.swapCounts quad bs).1 (v.swapCounts quad bs).2 ∧
            ∀ j, j < 32 → SMap.get (fun _ => 0#16) ((v.swapCounts quad bs).1.quad quad).sems j =
              BitVec.ofNat 16 (natOfBytes ((bs.drop (2 * j)).take 2))))) ∧
      (bit va 0 = true →
        (s.resting quad = none → Returns semmap s s k d 1#64) ∧
        (∀ o, s.resting quad = some o → read 128 →
          let entry := fun (j : Nat) => natOfBytes ((bs.drop (2 * j)).take 2)
          let good := ∀ j, j < 64 → (entry j).testBit 15 = true →
            v.ownsQuad o.slice (4 * quadCore quad + entry j / 32 % 4) = true
          (¬good → refused semmap) ∧
          (good → ∃ t, writes semmap 128 t
              ((List.range 64).flatMap (fun j => bytesOfNat 2 (SMap.get (fun _ => 0#16) o.semView j).toNat)) ∧
            ∃ view, t = v.updCoach quad (fun c => { c with semView := view }) ∧
              ∀ j, j < 64 → SMap.get (fun _ => 0#16) view j = BitVec.ofNat 16 (entry j))))) ∧
    (s.Issues (sysWord 2 (some rightSched)) barmap k → bits va 63 14 = 0 → bit va 1 = false → vb.toNat % 16 = 0 → vb.toNat < 0x40000 →
      (bit va 0 = true → bits va 4 1 = 0 → s.masterOk c (.coach quad 31) = true →
        (s.resting quad = none → Returns barmap s s k d 1#64) ∧
        (∀ o, s.resting quad = some o → read 16 → ∀ t,
          t = v.updCoach quad (fun c => { c with barView := SMap.putAll (fun _ => 0#8) [] 0 bs }) →
          ∀ o', t.coach? quad = some o' → (∀ h, h < 16 → (bs.getD h 0#8).getLsbD 7 = true → (t.barrier o' h).isSome = true) →
            writes barmap 16 t ((List.range 16).map (fun h => SMap.get (fun _ => 0#8) o.barView h)))) ∧
      (bit va 0 = false → bits va 11 9 = 0 →
        let j := (bits va 13 12 * 8 + bits va 8 6) * 16 + bits va 5 2
        let was := (SMap.get (fun _ => 0#8) s.barOwner j).toNat
        (mayExchange s c was = false → Denies barmap s k) ∧
        (mayExchange s c was = true →
          (s.barWaiting j = true → Returns barmap s s k d 1#64) ∧
          (s.barWaiting j = false → read 16 → mayExchange v c (bs.getD 8 0#8).toNat = true →
            let r := v.swapBarrier j (wordOf8 (bs.take 8)) (bs.getD 8 0#8).toNat
            writes barmap 16 r.1 r.2 ∧ SMap.get (fun _ => 0#8) r.1.barOwner j = bs.getD 8 0#8 ∧
            SMap.get noFlag r.1.barError j = false))))

/-! ## System words: invalidation, tables and weight sets -/

/-- R344, R345 and R330: S1INV, S2INV and WINSET remove the translations that they select at once, and complete when nothing
that passed them is left in flight; until then they wait. New roots come into force at the completion, which removes once
more what walks have kept by the old ones. What rests on log entry 37 is the model's reading or choice. -/
def Obligations.Invalidations : Prop :=
  ∀ (s : State) (k : Tok) (a b : BitVec 4) (die n : Nat), s.cur = .dray die n → s.pois a = false → s.pois b = false →
    let c := s.caller die n
    let va := s.reg a
    let vb := s.reg b
    let first := s.me.reply = []
    let since := if s.me.reply.isEmpty then s.nextReq else natOfBytes (s.me.reply.take 8)
    let clock := if s.me.reply.isEmpty then s.tsc else wordOf8 (s.me.reply.drop 8)
    let ends := fun (i : Instr) (x y : State) (hit : Option Nat × Option Nat → Bool) (later : Bool) =>
      let busy := x.inFlight hit since clock || (later && x.inFlight hit x.nextReq x.tsc)
      (busy = false → exec i s = .next (y.complete k 1)) ∧
      (busy = true → first → exec i s = .next ((x.addReply (bytesOfNat 8 since ++ bytesOf8 clock) false).updMe (fun st =>
        { st.parkOn .fence x.tsc with begun := true }))) ∧
      (busy = true → ¬first → exec i s = .next (x.updMe (fun st => { st.parkOn .fence x.tsc with begun := true })))
    let drops := fun (e : TlbEntry → Bool) (g : WalkCached → Bool) (x y : State) =>
      y.tlb = x.tlb.filter (fun z => !e z) ∧ y.walkCache = x.walkCache.filter (fun z => !g z)
    let removed := fun (e : TlbEntry → Bool) (g : WalkCached → Bool) (x : State) =>
      x = { s with tlb := x.tlb, walkCache := x.walkCache } ∧ (first → drops e g s x) ∧ (¬first → x = s)
    let slices := fun (i : Instr) (p : Nat → Bool) (roots : Bool) (e : TlbEntry → Bool) (g : WalkCached → Bool) =>
      let later := roots && s.rootsNew1 p
      let mine := fun (z : TlbEntry) => p z.slice && e z
      let led := fun (z : WalkCached) => !z.stage2 && p z.slice && g z
      ∃ x y, ends i x y (fun z => (z.1.map p).getD false) later ∧ removed mine led x ∧
        (later = false → y = x) ∧ (later = true → drops mine led x y ∧
          y = { x with tlb := y.tlb, walkCache := y.walkCache, root1 := y.root1 }) ∧
        ∀ j, j < 256 → SMap.get zeroWord y.root1 j =
          if roots = true ∧ p (j % 64) = true then s.sliceRoot (j / 64) (j % 64) else SMap.get zeroWord s.root1 j
    let domains := fun (i : Instr) (p : Nat → Bool) (roots : Bool) (e : TlbEntry → Bool) (g : WalkCached → Bool) =>
      let later := roots && s.rootsNew2 p
      let mine := fun (z : TlbEntry) => p z.domain && e z
      let led := fun (z : WalkCached) => p z.domain && (!z.stage2 || g z)
      ∃ x y, ends i x y (fun z => (z.2.map p).getD false) later ∧ removed mine led x ∧
        (later = false → y = x) ∧ (later = true → drops mine led x y ∧
          y = { x with tlb := y.tlb, walkCache := y.walkCache, root2 := y.root2 }) ∧
        ∀ j, j < 64 → SMap.get zeroWord y.root2 j =
          if roots = true ∧ p (j % 16) = true then s.domainRoot (j / 16) (j % 16) else SMap.get zeroWord s.root2 j
    let bySlice := fun (i : Instr) (v : Word) (does : Prop) =>
      (64 ≤ v.toNat → Traps i s k 0x0205 (some v) none) ∧
      (v.toNat < 64 → c.has s v.toNat = false → Denies i s k) ∧ (v.toNat < 64 → c.has s v.toNat = true → does)
    let byDomain := fun (i : Instr) (v : Word) (does : Prop) =>
      (16 ≤ v.toNat → Traps i s k 0x0205 (some v) none) ∧
      (v.toNat < 16 → ownsDomain c.level c.served v.toNat = false → Denies i s k) ∧
      (v.toNat < 16 → ownsDomain c.level c.served v.toNat = true → does)
    let all := fun (_ : TlbEntry) => true
    let every := fun (_ : WalkCached) => true
    let leads := fun (z : WalkCached) => decide (z.base ≤ va.toNat) && decide (va.toNat < z.base + z.size)
    (s.Issues (sysWord 2 (some rightMap1)) (.s1inv k) k → slices (.s1inv k) (fun j => c.has s j) true all every) ∧
    (s.Issues (sysWord 2 (some rightMap1)) (.s1invPage k a b) k → bySlice (.s1invPage k a b) vb
      (slices (.s1invPage k a b) (fun j => j == vb.toNat) false
        (fun e => va.toNat / e.size1 == e.tva * 4096 / e.size1) leads)) ∧
    (s.Issues (sysWord 2 (some rightMap1)) (.s1invSlice k b) k → bySlice (.s1invSlice k b) vb
      (slices (.s1invSlice k b) (fun j => j == vb.toNat) true all every)) ∧
    (s.Issues (sysWord 1 (some rightMap2)) (.s2inv k) k →
      domains (.s2inv k) (fun j => ownsDomain c.level c.served j) true all every) ∧
    (s.Issues (sysWord 1 (some rightMap2)) (.s2invPage k a b) k → byDomain (.s2invPage k a b) vb
      (domains (.s2invPage k a b) (fun j => j == vb.toNat) false
        (fun e => va.toNat / e.size2 == e.spa * 4096 / e.size2) leads)) ∧
    (s.Issues (sysWord 1 (some rightMap2)) (.s2invDomain k b) k → byDomain (.s2invDomain k b) vb
      (domains (.s2invDomain k b) (fun j => j == vb.toNat) true all every)) ∧
    (s.Issues (sysWord 0 none) (.winset k a b) k →
      let w0 := s.pmWord die vb.toNat
      let w1 := s.pmWord die (vb.toNat + 8)
      let dom := bits va 11 8
      let j := bits va 5 0
      let badA := bits va 63 12 ≠ 0 ∨ bits va 7 6 ≠ 0
      let badB := vb.toNat % 16 ≠ 0 ∨ 0x40000 ≤ vb.toNat ∨ windowWf w0 w1 = false
      (badA → Traps (.winset k a b) s k 0x0205 (some va) none) ∧
      (¬badA → badB → Traps (.winset k a b) s k 0x0205 (some vb) none) ∧
      (¬badA → ¬badB → ∃ x, ends (.winset k a b) x x (fun y => y.2 == some dom) false ∧ (¬first → x = s) ∧
        (first → drops (fun e => e.domain == dom) (fun e => e.domain == dom) s x ∧ x.mem = s.mem ∧ x.coaches = s.coaches ∧
          ∀ y, SMap.get (fun _ => (0#64, 0#64)) x.windows y =
            if y = 64 * dom + j then (w0, w1) else SMap.get (fun _ => (0#64, 0#64)) s.windows y)))

/-- R346 and R347: RIGHTS grants, revokes and reads the mask of a slice or a domain, and gives the old one. -/
def Obligations.RightsMasks : Prop :=
  (∀ v t, rightsTarget v = some t ↔
    v.toNat = (if t.1 then 256 else 0) + t.2 ∧ t.2 < (if t.1 then 64 else 16)) ∧
  (∀ (s : State) t m j, (t.2 < if t.1 then 64 else 16) → j < 80 →
    (s.setRights t m).rightsMask j = if j = (if t.1 then t.2 else 64 + t.2) then m else s.rightsMask j) ∧
  ∀ (s : State) (k : Tok) (d a b : BitVec 4) (die n : Nat), s.cur = .dray die n → s.pois a = false → s.pois b = false →
    let c := s.caller die n
    let add := (s.reg b).setWidth 16
    let grant := Instr.rights k d a b
    let revoke := Instr.rightsRevoke k d a b
    let read := Instr.rightsRead k d a
    let cls := sysWord 1 (some rightDelegate)
    (rightsTarget (s.reg a) = none → ∀ i ∈ [grant, revoke, read], s.Issues cls i k →
      Traps i s k 0x0205 (some (s.reg a)) none) ∧
    ∀ t, rightsTarget (s.reg a) = some t →
      let key := if t.1 then t.2 else 64 + t.2
      let old := s.rightsMask key
      let mayChange := c.level = 0 ∨ (t.1 = true ∧ c.has s t.2 = true)
      (2 ^ 16 ≤ (s.reg b).toNat → ∀ i ∈ [grant, revoke], s.Issues cls i k → Traps i s k 0x0205 (some (s.reg b)) none) ∧
      ((s.reg b).toNat < 2 ^ 16 →
        (¬mayChange → ∀ i ∈ [grant, revoke], s.Issues cls i k → Denies i s k) ∧
        (mayChange → s.Issues cls grant k →
          (add &&& ~~~ (s.effRights die c.level c.served) ≠ 0#16 → Denies grant s k) ∧
          (add &&& ~~~ (s.effRights die c.level c.served) = 0#16 →
            Returns grant s (s.setRights t (old ||| add)) k d (old.setWidth 64))) ∧
        (mayChange → s.Issues cls revoke k → Returns revoke s (s.setRights t (old &&& ~~~ add)) k d (old.setWidth 64))) ∧
      (s.Issues cls read k →
        let mayRead := mayChange ∨ (t.1 = false ∧ ownsDomain c.level c.served t.2 = true)
        let eff := if t.1 then s.rightsMask t.2 &&& s.rightsMask (64 + s.sliceDomain die t.2) else old
        (¬mayRead → Denies read s k) ∧
        (mayRead → Returns read s s k d (old.setWidth 64 ||| (eff.setWidth 64 <<< 16))))

/-- R349, R350 and R351: FMASK writes a function's mask for leaf 1, TIMEOFS a slice's time offset, IDMAP the tables of a
slice or a domain from an image that keeps their form; the first two give the old value. What rests on log entries 11 and
12 is the model's reading or choice. -/
def Obligations.SliceTables : Prop :=
  ∀ (s : State) (k : Tok) (d a b : BitVec 4) (die n : Nat), s.cur = .dray die n → s.pois a = false → s.pois b = false →
    let c := s.caller die n
    let va := s.reg a
    let vb := s.reg b
    let ones := fun (_ : Nat) => (-1#64 : Word)
    let fmask := Instr.fmask k d a b
    let timeofs := Instr.timeofs k d a b
    let idmap := Instr.idmap k a b
    let image := fun (w : Who) (n : Nat) (x : State) =>
      s.spaPieces w ((linePieces vb.toNat n).filter (fun p => decide (vb.toNat + s.me.reply.length ≤ p.1))) = .ok x ∧
        x.me.replyPoison = false
    (s.Issues (sysWord 1 (some rightFeat)) fmask k →
      let f := bits va 7 0
      (va.toNat / 256 ≠ 1 → Traps fmask s k 0x0205 (some va) none) ∧
      (va.toNat / 256 = 1 → c.level = 0 →
        Returns fmask s { s with featO := SMap.put ones s.featO f vb } k d (SMap.get ones s.featO f)) ∧
      (va.toNat / 256 = 1 → c.level ≠ 0 →
        (∀ i, s.fnAttach f = some (2, i) → c.has s i = true →
          Returns fmask s { s with featD := SMap.put ones s.featD f vb } k d (SMap.get ones s.featD f)) ∧
        ((∀ i, s.fnAttach f = some (2, i) → c.has s i = false) → Denies fmask s k))) ∧
    (s.Issues (sysWord 1 (some rightTimeofs)) timeofs k →
      (64 ≤ va.toNat → Traps timeofs s k 0x0205 (some va) none) ∧
      (va.toNat < 64 → c.has s va.toNat = false → Denies timeofs s k) ∧
      (va.toNat < 64 → c.has s va.toNat = true →
        Returns timeofs s { s with offsets := SMap.put zeroWord s.offsets va.toNat vb } k d
          (SMap.get zeroWord s.offsets va.toNat))) ∧
    (s.Issues (sysWord 1 (some rightIdmap)) idmap k →
      let bad := bits va 63 9 ≠ 0 ∨ bits va 7 6 ≠ 0 ∨ (bit va 8 = true ∧ 16 ≤ bits va 5 0)
      (bad → Traps idmap s k 0x0205 (some va) none) ∧
      (¬bad → vb.toNat % 8 ≠ 0 → Traps idmap s k 0x0205 (some vb) none) ∧
      (¬bad → vb.toNat % 8 = 0 → bit va 8 = true →
        (c.level ≠ 0 → Denies idmap s k) ∧
        (c.level = 0 → ∀ x, image { s.hwWho die 0 with domain := bits va 3 0 } 256 x →
          let bs := x.me.reply
          let t := x.withDomainTable (bits va 3 0) bs
          let good := (∀ e ∈ halfWords bs 0 128, e < 16) ∧ x.domainTableOk t die (bits va 3 0) = true
          (good → exec idmap s = .next (t.complete k 1)) ∧
          (¬good → exec idmap s = .next (x.takeOpen s.cur 0x0205 (some vb) none s.me.pc)) ∧
          (∀ e, e < 128 → SMap.get (fun _ => 0#16) t.domTab (bits va 3 0 * 128 + e) =
            BitVec.ofNat 16 (natOfBytes ((bs.drop (2 * e)).take 2))))) ∧
      (¬bad → vb.toNat % 8 = 0 → bit va 8 = false →
        let i := bits va 5 0
        (c.has s i = false → Denies idmap s k) ∧
        (c.has s i = true → ∀ x, image (s.hwWho die i) 264 x →
          let bs := x.me.reply
          let t := x.withSliceTables i bs
          let good := sliceImageOk bs = true ∧ x.sliceTablesOk t i (x.sliceDomain die i) = true
          (good → exec idmap s =
            .next (((t.passQuads i).pmSetBitsAll (sliceBlock i + 24) 51 0 vb.toNat).complete k 1)) ∧
          (¬good → exec idmap s = .next (x.takeOpen s.cur 0x0205 (some vb) none s.me.pc)))))

/-- R378, R417 and R457: ENSET sets an energy account within its caps, KATSET the floor test of its die, and SLOTW enters
an image of slots, which take effect with a frame, and then gives its count. What rests on log entries 107 and 131 is the
model's reading or choice. -/
def Obligations.DieTables : Prop :=
  ∀ (s : State) (k : Tok) (d a b : BitVec 4) (die n : Nat), s.cur = .dray die n → s.pois a = false → s.pois b = false →
    let c := s.caller die n
    let va := s.reg a
    let vb := s.reg b
    let enset := Instr.enset k d a b
    let katset := Instr.katset k d a b
    let slotw := Instr.slotw k d a b
    (s.Issues (sysWord 1 (some rightEnergy)) enset k →
      let j := bits va 5 0
      let bad := bits va 63 9 ≠ 0 ∨ bits va 7 6 ≠ 0 ∨ (bit va 8 = true ∧ (16 ≤ j ∨ c.level ≠ 0))
      let set := fun (x : Account) =>
        { x with
          refill := vb.setWidth 32
          ceil := (vb >>> 32).setWidth 32
          bal := if x.bal ≤ bits vb 63 32 then x.bal else bits vb 63 32 }
      let old := fun (x : Account) => x.refill.setWidth 64 ||| (x.ceil.setWidth 64 <<< 32)
      let fits := fun (t : State) (dom : Nat) => t.domainCaps die dom = true ∧ t.packageRefill die ≤ 2600000
      (bad → Traps enset s k 0x0205 (some va) none) ∧
      (¬bad → bit va 8 = true →
        let t := s.setDomAccount j (set (s.domAccount j))
        (fits t j → Returns enset s t k d (old (s.domAccount j))) ∧
        (¬fits t j → Traps enset s k 0x0205 (some vb) none)) ∧
      (¬bad → bit va 8 = false →
        let t := s.setAccount j (set (s.account j))
        (c.has s j = false → Denies enset s k) ∧
        (c.has s j = true → fits t (s.sliceDomain die j) → Returns enset s t k d (old (s.account j))) ∧
        (c.has s j = true → ¬fits t (s.sliceDomain die j) → Traps enset s k 0x0205 (some vb) none))) ∧
    (s.Issues (sysWord 0 none) katset k →
      let badA := bits va 63 19 ≠ 0 ∨ bits va 18 16 = 7
      let badB := bits vb 62 7 ≠ 0
      let q := 128 * die + bits vb 6 0
      let x := s.die die
      (badA → Traps katset s k 0x0205 (some va) none) ∧
      (¬badA → badB → Traps katset s k 0x0205 (some vb) none) ∧
      (¬badA → ¬badB → ∃ t,
        Returns katset s t k d (word (x.katEvery + x.katFamily.toNat * 2 ^ 16 + s.quarantineCount die * 2 ^ 32)) ∧
        (t.die die).katEvery = bits va 15 0 ∧ (t.die die).katFamily.toNat = bits va 18 16 ∧ t.mem = s.mem ∧
        t.coaches = s.coaches ∧
        ∀ p, (t.quad p).quarantined = ((s.quad p).quarantined && !(bit vb 63 && p == q)) ∧
          (t.quad p).mustPass = ((s.quad p).mustPass || ((s.quad p).quarantined && bit vb 63 && p == q)))) ∧
    (s.Issues (sysWord 2 (some rightSlottab)) slotw k →
      let tgt := bits va 13 12
      let table := bits va 3 0
      let who := 8 * die + n
      let badA := bits va 63 14 ≠ 0 ∨ bits va 11 4 ≠ 0 ∨ table = 7
      let badB := vb.toNat % 8 ≠ 0 ∨ 0x40000 ≤ vb.toNat
      (badA → Traps slotw s k 0x0205 (some va) none) ∧
      (¬badA → badB → Traps slotw s k 0x0205 (some vb) none) ∧
      (¬badA → ¬badB →
        (s.me.granted = true → Returns slotw s s k d (word (s.slotCount c tgt table))) ∧
        (s.me.granted = false → s.slotsWait tgt who = true → Parks slotw s k (.frame tgt)) ∧
        (s.me.granted = false → s.slotsWait tgt who = false →
          (∀ j, s.slotImage die vb.toNat = .error j → Traps slotw s k 0x0705 (some vb) (some (word j))) ∧
          ∀ es, s.slotImage die vb.toNat = .ok es →
            let mine := fun (e : Nat) => slotV e = false ∨ c.has s (slotSlice e) = true
            let all := ∀ e ∈ es, mine (s.slotEntry tgt table e.1) ∧ mine e.2
            let ranged := ∀ e ∈ es, slotV e.2 = true → s.slotOk tgt table e.2 = true
            (¬all → Denies slotw s k) ∧
            (all → ranged → s.sharesOk tgt table (s.tableWith tgt table es) = false →
              Traps slotw s k 0x0705 (some vb) (some 0#64)) ∧
            (all → ranged → s.sharesOk tgt table (s.tableWith tgt table es) = true →
              exec slotw s = .next ((s.updDie tgt (fun x => { x with
                slotNew := x.slotNew ++ es.map (fun e => (table, e.1, BitVec.ofNat 32 e.2, who)) })).updMe
                  (fun st => { st.parkOn (.frame tgt) s.tsc with begun := true })))))) ∧
    ((s.die die).slotNew = [] → ∃ t, exec (.slotTableUpdate die) s = .next t ∧ t.mem = s.mem ∧ t.coaches = s.coaches) ∧
    (n < 8 → ∀ es, (s.die die).slotNew = es → es ≠ [] → (∀ e ∈ es, s.frameOver e.2.2.2 = true ∧ e.2.2.2 = 8 * die + n) →
      ∃ t, exec (.slotTableUpdate die) s = .next t ∧ (t.die die).slotNew = [] ∧ t.me.granted = true ∧
        (t.die die).slotTab =
          es.foldl (fun m e => SMap.put (fun _ => 0#32) m (e.1 * 256 + e.2.1) e.2.2.1) (s.die die).slotTab)

/-- R400 and R401: the weight words' operand, their status word, and what create, shard, verify, free and the switch do
with a set's copies. The manifest, or the shard, has been read in the state v. What rests on log entries 8, 105 and 106
is the model's reading or choice. -/
def Obligations.WeightSets : Prop :=
  ∀ (s : State) (k : Tok) (d a b : BitVec 4) (die n : Nat) (v : State), s.cur = .dray die n → s.pois a = false →
    s.pois b = false →
    let cls := sysWord 2 (some rightWeight)
    let va := s.reg a
    let vb := s.reg b
    let r : WRef := { slice := bits va 45 40, shard := bits va 31 20, copy := bit va 16, handle := bits va 15 0 }
    let copy := s.copyOf r
    let create := Instr.wset k d a b
    let shard := Instr.wsetShard k d a b
    let verify := Instr.wsetVerify k d a
    let free := Instr.wsetFree k d a
    let swap := Instr.wswap k d a
    let gives := fun (i : Instr) (x : State) (status : Nat) => Returns i s x k d (x.wsetWord r.slice r.handle status)
    let missing := s.wsetOf r.slice r.handle = none
    let form := bits va 63 46 = 0 ∧ bits va 39 32 = 0 ∧ bits va 19 17 = 0 ∧ bits va 15 0 ≠ 0
    (∀ i ∈ [create, shard, verify, free, swap], s.Issues cls i k → ¬form → Traps i s k 0x0205 (some va) none) ∧
    (∀ i ∈ [create, verify, free, swap], s.Issues cls i k → bits va 31 20 ≠ 0 → Traps i s k 0x0205 (some va) none) ∧
    (s.Issues cls swap k → bit va 16 = true → Traps swap s k 0x0205 (some va) none) ∧
    (s.Issues cls shard k → form → (s.caller die n).has s r.slice = false → Denies shard s k) ∧
    (form → (s.caller die n).has s r.slice = true →
      (s.Issues cls shard k →
        (missing → gives shard s 5) ∧
        (¬missing → copy.st ≠ .building → gives shard s 1) ∧
        (¬missing → copy.st = .building → copy.shards[r.shard]? = none → Traps shard s k 0x0205 (some va) none) ∧
        (¬missing → copy.st = .building → ∀ x, copy.shards[r.shard]? = some x →
          (x.2.2.2 = true → gives shard s 1) ∧
          (x.2.2.2 = false → 0 < x.2.1 → s.Loads vb x.2.1 0 0 v → v.copyOf r = copy → v.me.reply.length = x.2.1 →
            let base := (v.copyBase r.slice copy).toNat + x.1
            let fails := fun (y : State) =>
              (3 ≤ copy.fetches → exec shard s =
                .next ((y.putCopy r { copy with st := .failed, fetches := 0 }).takeOpen s.cur 0x0B02 (some vb)
                  (some (word (r.handle + flagNat r.copy * 2 ^ 16 + r.shard * 2 ^ 20 + 4 * 2 ^ 32))) (s.me.pc + 1#64))) ∧
              (copy.fetches < 3 →
                let z := (y.putCopy r { copy with fetches := copy.fetches + 1 }).updMe (fun st =>
                  { st with reply := [], replyPoison := false })
                exec shard s = .next (z.updMe (fun st => { st.parkOn .fence z.tsc with begun := true })))
            (v.me.replyPoison = true → fails v) ∧
            (v.me.replyPoison = false → ∀ y, y.copyOf r = copy →
              v.putShard (v.hwWho (r.slice % 4) r.slice) base v.me.reply (linePieces base x.2.1) = .ok y () →
              let good := BitVec.ofNat 256 (natOfBytes (shake256 v.me.reply 32)) = x.2.2.1
              (¬good → fails y) ∧
              (good → gives shard (y.putCopy r
                { copy with shards := copy.shards.set r.shard (x.1, x.2.1, x.2.2.1, true), fetches := 0 }) 0))))) ∧
      (bits va 31 20 = 0 →
        (s.Issues cls create k →
          (copy.st ≠ .empty → gives create s 1) ∧
          (copy.st = .empty → s.Loads vb 64 0 0 v → v.me.replyPoison = false →
            (manifestHeadOk v.me.reply = false →
              exec create s = .next (v.takeOpen s.cur 0x0205 (some vb) none s.me.pc)) ∧
            (manifestHeadOk v.me.reply = true → v.me.reply.length = 64 →
              let head := manifestKeyAt v.me.reply + publicKeyLen + 2
              let rest := fun (x : State) (n : Nat) =>
                (linePieces vb.toNat n).filter (fun p => decide (vb.toNat + x.me.reply.length ≤ p.1))
              ∀ w, v.loadPieces v.me.strict 0 (rest v head) = .ok w → w.me.replyPoison = false → w.me.reply ≠ [] →
                let l := atN w.me.reply (head - 2) 2
                l ≤ 1280 → shardsOk (manifestTotal w.me.reply) (manifestShards w.me.reply) = true →
                ∀ x, w.loadPieces w.me.strict 0 (rest w (head + l)) = .ok x → x.me.replyPoison = false →
                  let bs := x.me.reply
                  let units := (manifestTotal bs + 2 ^ 21 - 1) / 2 ^ 21
                  x.manifestSigned r.slice bs = true →
                  ((x.wsetOf r.slice r.handle).isSome = true ∨
                    (x.wsets.filter (fun w => w.slice == r.slice)).length < 64) →
                  ∀ base, x.poolRun r.slice units = some base →
                    gives create (x.putCopy r { st := .building, base := base, units := units,
                                                shards := (manifestShards bs).map (fun y => (y.1, y.2.1, y.2.2, false)) }) 0))) ∧
        (s.Issues cls verify k →
          let full := copy.st = .building ∧ ∀ x ∈ copy.shards, x.2.2.2 = true
          (missing → gives verify s 5) ∧
          (¬missing → ¬full → gives verify s 1) ∧
          (¬missing → full → gives verify (s.putCopy r { copy with st := .verified }) 0)) ∧
        (s.Issues cls free k →
          let kept := copy.st = .empty ∨ copy.st = .active ∨ copy.st = .draining
          (missing → gives free s 5) ∧ (¬missing → kept → gives free s 1) ∧
          (¬missing → ¬kept → gives free (s.putCopy r WCopy.reset) 0)) ∧
        (s.Issues cls swap k → bit va 16 = false →
          (missing → gives swap s 5) ∧
          ∀ w, s.wsetOf r.slice r.handle = some w →
            (w.swap = none → gives swap s 1) ∧
            (∀ x, w.swap = some x →
              gives swap ((s.updWset r.slice r.handle (fun _ => x)).drainCopies r.slice r.handle) 0 ∧
              ∃ c, x.active = some c ∧ (w.copy c).st = .verified ∧ (x.copy c).st = .active ∧ w.active ≠ some c ∧
                (∀ o, w.active = some o → (x.copy o).st = .draining)))))

/-! ## The vector unit -/

/-- R145, R159 and R161 to R163: a vector word whose tiles are declared enters the vector unit, which holds two, with its
operands; it faults for a tile that is not declared, and waits while the unit or the range checker is full. What rests on
log entries 43 and 47 is the model's reading or choice. -/
def Obligations.VectorWords : Prop :=
  ∀ (s : State) (k : Tok) (c : Coach) (d a b n : BitVec 6) (t sr : BitVec 4) (y m p q : BitVec 3),
    s.myCoach? = some c →
    let on2 := [Instr.vadd k d a b y, .vsub k d a b y, .vmul k d a b y, .vmin k d a b y, .vmax k d a b y, .vand k d a b y,
      .vor k d a b y, .vxor k d a b y, .vsel k d a b y, .vperm k d a b y]
    let on1 := [Instr.vabs k d a y, .vneg k d a y, .vmov k d a y, .vreds k d a y, .vshl k d a n y, .vshr k d a n y,
      .vsra k d a n y, .vredm k d a n y, .vscan k d a n y, .vrot k d a n y]
    let table : List (Instr × List Nat × List (BitVec 6) × List (BitVec 6) × BitVec 4) :=
      on2.map (fun i => (i, [], [d], [a, b], 0#4)) ++ on1.map (fun i => (i, [], [d], [a], 0#4)) ++
      [(.vfma k d a b y, [], [d], [a, b, d], 0#4), (.vfms k d a b y, [], [d], [a, b, d], 0#4),
       (.vpack k d a b y, [9], [d], [a, b], 0#4), (.vunpk k d a b y, [9], [d], [a, b], 0#4),
       (.vexp2 k d a, [7], [d], [a], 0#4), (.vlog2 k d a, [7], [d], [a], 0#4), (.vrcp k d a, [7], [d], [a], 0#4),
       (.vrsq k d a, [7], [d], [a], 0#4), (.vcmp k a b p m y, [], [], [a, b], 0#4), (.vbcs k d sr y, [], [d], [], sr),
       (.vins k d sr y, [], [d], [], sr), (.vmovs k a sr y, [], [], [a], 0#4), (.viota k d y, [], [d], [], 0#4),
       (.vclr k t, [], [t ++ 0#2], [], 0#4), (.vdrain k, [11], [], [], 0#4), (.setm k m, [], [], [], 0#4),
       (.mand k m p q, [], [], [], 0#4), (.mor k m p q, [], [], [], 0#4), (.mxor k m p q, [], [], [], 0#4),
       (.mnot k m p, [], [], [], 0#4), (.mpopc k sr m, [], [], [], 0#4)]
    ∀ r ∈ table, s.Issues (xWord r.2.1 true) r.1 k →
      let es := r.2.2.1.map (fun t => tileExtent t false true) ++ r.2.2.2.1.map (fun t => tileExtent t true false)
      let declared := tilesDeclared s c (r.2.2.1 ++ r.2.2.2.1) = true
      let o : VecOp :=
        { ins := r.1, desc := Desc.zero, sval := s.reg r.2.2.2.2, spois := s.pois r.2.2.2.2, pc := s.me.pc,
          push := k.push.toNat, seq := c.nextSeq, extents := es, started := false, loops := s.me.loops }
      (¬declared → Traps r.1 s k 0x0206 none none) ∧
      (declared → 2 ≤ c.unit.length → Parks r.1 s k .vectorUnit) ∧
      (declared → c.unit.length < 2 → es ≠ [] → c.checkerFull = true → Parks r.1 s k .checker) ∧
      (declared → c.unit.length < 2 → es = [] ∨ c.checkerFull = false →
        Accepts r.1 s (s.takeToken k) k 1 c.nextSeq false (fun x => { x with unit := x.unit ++ [o] }))

/-- R154 to R158 and R165 to R176: when a vector instruction retires, the active cells of its destination hold what it
computes from its sources, the other cells and registers keep their contents, and the unit goes on to the next one. What
rests on log entry 51 is the model's reading or choice. -/
def Obligations.VectorResults : Prop :=
  (∀ (y : BitVec 3) (f : Nat → Nat × BitVec 9) (l : Nat), l < laneCount y →
    laneGet y (lanesOf y f).1 l = (f l).1 % 2 ^ laneWidth y) ∧
  (∀ (w a b : Nat) (g : Bool), 0 < w → ((Lane.int w g).add a b).1 = (a + b) % 2 ^ w ∧
    ((Lane.int w g).mul a b).1 = a * b % 2 ^ w ∧ (b ≤ 2 ^ w → ((Lane.int w g).sub a b).1 = (a + (2 ^ w - b)) % 2 ^ w)) ∧
  ∀ (s : State) (q : Nat) (c : Coach) (o : VecOp) (rest : List VecOp) (k : Tok) (d a b n : BitVec 6) (t sr : BitVec 4)
    (y m p r : BitVec 3),
    s.coach? q = some c → c.unit = o :: rest →
    (o.started = true → c.pushHeld 2 o.push = false → ∃ u c', exec (.vectorRetire q) s = .next u ∧
      u.coach? q = some c' ∧ c'.unit = rest ∧ u.mem = s.mem ∧
      let x := s.quad q
      let z := u.quad q
      let act := fun (d : BitVec 6) (j i : Nat) => maskAt (x.mask c.maskSel.toNat) d j i = true
      let keepsMasks := ∀ j, z.mask j = x.mask j
      let cells := fun (d : BitVec 6) (f : Nat → Nat → Nat) => keepsMasks ∧ c'.maskSel = c.maskSel ∧
        (∀ j i, j < 32 → i < 32 → (act d j i → z.at_ d j i = f j i) ∧ (¬act d j i → z.at_ d j i = x.at_ d j i)) ∧
        ∀ v j i, v < 16 → j < 32 → i < 32 → v ≠ opTile d → z.cell v j i = x.cell v j i
      let two := fun (f : Nat → Nat → Nat × BitVec 9) => cells d (fun j i =>
        (lanesOf y (fun l => f (laneGet y (x.at_ a j i) l) (laneGet y (x.at_ b j i) l))).1)
      let one := fun (f : Nat → Nat × BitVec 9) => cells d (fun j i =>
        (lanesOf y (fun l => f (laneGet y (x.at_ a j i) l))).1)
      let shifts := fun (f : Nat → Nat) => one (fun v => (f v, 0#9))
      let masks := fun (v : BitVec 1024) =>
        (m ≠ 0#3 → z.mask m.toNat = v) ∧ (∀ j, j < 8 → j ≠ m.toNat → z.mask j = x.mask j) ∧
          ∀ v j i, v < 16 → j < 32 → i < 32 → z.cell v j i = x.cell v j i
      (o.ins = .vadd k d a b y → two (laneOf y).add) ∧ (o.ins = .vsub k d a b y → two (laneOf y).sub) ∧
      (o.ins = .vmul k d a b y → two (laneOf y).mul) ∧ (o.ins = .vmin k d a b y → two ((laneOf y).minMax false)) ∧
      (o.ins = .vmax k d a b y → two ((laneOf y).minMax true)) ∧
      (o.ins = .vabs k d a y → one (laneOf y).abs) ∧ (o.ins = .vneg k d a y → one (laneOf y).neg) ∧
      (o.ins = .vshl k d a n y → shifts (fun v => v * 2 ^ n.toNat % 2 ^ laneWidth y)) ∧
      (o.ins = .vshr k d a n y → shifts (fun v => v / 2 ^ n.toNat)) ∧
      (o.ins = .vand k d a b y → cells d (fun j i => x.at_ a j i &&& x.at_ b j i)) ∧
      (o.ins = .vor k d a b y → cells d (fun j i => x.at_ a j i ||| x.at_ b j i)) ∧
      (o.ins = .vxor k d a b y → cells d (fun j i => x.at_ a j i ^^^ x.at_ b j i)) ∧
      (o.ins = .vmov k d a y → cells d (fun j i => x.at_ a j i)) ∧
      (o.ins = .vrot k d a n y → cells d (fun j i => x.at_ a j ((i + n.toNat) % 32))) ∧
      (o.ins = .vperm k d a b y → cells d (fun j i => if x.at_ b j i < 32 then x.at_ a j (x.at_ b j i) else 0)) ∧
      (o.ins = .vsel k d a b y → ∀ j i, j < 32 → i < 32 →
        (act d j i → z.at_ d j i = x.at_ a j i) ∧ (¬act d j i → z.at_ d j i = x.at_ b j i)) ∧
      (o.ins = .vclr k t → ∀ j i, j < 32 → i < 32 → z.cell t.toNat j i = 0#32) ∧
      (o.ins = .setm k m → c'.maskSel = m) ∧
      (o.ins = .mand k m p r → masks (x.mask p.toNat &&& x.mask r.toNat)) ∧
      (o.ins = .mor k m p r → masks (x.mask p.toNat ||| x.mask r.toNat)) ∧
      (o.ins = .mxor k m p r → masks (x.mask p.toNat ^^^ x.mask r.toNat)) ∧
      (o.ins = .mnot k m p → masks (~~~ (x.mask p.toNat))) ∧
      (o.ins = .mpopc k sr m → (c'.strand 9).reg sr =
        if sr = 0#4 then 0#64 else word ((List.range 1024).filter (fun i => (x.mask m.toNat).getLsbD i)).length)) ∧
    (c.vecReady = some o → (∀ k' d' e' s' y', o.ins ≠ .vdefer k' d' e' s' y') → (∀ k', o.ins ≠ .vdrain k') →
      ∃ u c', exec (.vectorStart q) s = .next u ∧ u.coach? q = some c' ∧ c'.unit = { o with started := true } :: rest)

/-- R159, R177, R180 and R181: VLD, VST and VDEFER check their descriptor and enter the unit; VCVT captures SEED and the
call counter; a VDEFER that starts leaves the unit with a snapshot, and a VDRAIN starts once the deferral queue is empty.
What rests on log entries 48 and 49 is the model's reading or choice. -/
def Obligations.TileMoves : Prop :=
  ∀ (s : State) (k : Tok) (c : Coach) (d a e : BitVec 6) (sr f4 : BitVec 4) (y rm : BitVec 3) (pol : BitVec 2),
    s.myCoach? = some c →
    let desc := c.desc e.toNat
    let table : List (Instr × List Nat × List Nat × Bool × Bool × Bool) :=
      [(.vld k d e sr y, [], [spAbuf, spAcc], false, true, false), (.vst k d e sr y, [], [spAbuf, spAcc], true, false, false),
       (.vdefer k d e sr y, [11], [spGlobal], true, false, true)]
    (∀ r ∈ table, s.Issues (xWord r.2.1 true) r.1 k →
      let check := tileMoveCheck s c desc d y r.2.2.1 (s.reg sr)
      let es := tileExtent d r.2.2.2.1 r.2.2.2.2.1 ::
        desc.extentAt (word desc.base + s.reg sr).toNat r.2.2.2.2.1 r.2.2.2.1
      let o : VecOp :=
        { ins := r.1, desc := desc, sval := s.reg sr, spois := false, pc := s.me.pc, push := k.push.toNat,
          seq := c.nextSeq, extents := es, started := false, loops := s.me.loops }
      (s.pois sr = true → Traps r.1 s k 0x0401 none none) ∧
      let unscoped := r.2.2.1.contains desc.space = true ∧ desc.scopeBad = true
      (s.pois sr = false → unscoped →
        Traps r.1 s k 0x0201 (some s.me.pc) (some ((instrWord r.1).setWidth 64))) ∧
      (s.pois sr = false → ¬unscoped →
        (∀ code, check = some code → Traps r.1 s k code none none) ∧
        (check = none → 2 ≤ c.unit.length → Parks r.1 s k .vectorUnit) ∧
        (check = none → c.unit.length < 2 → c.checkerFull = true → Parks r.1 s k .checker) ∧
        (check = none → c.unit.length < 2 → c.checkerFull = false →
          Accepts r.1 s (s.takeToken k) k 1 c.nextSeq r.2.2.2.2.2 (fun x => { x with unit := x.unit ++ [o] })))) ∧
    (desc.check1 = false → ∀ spaces, tileMoveCheck s c desc d y spaces (s.reg sr) = some 0x0204) ∧
    (desc.check1 = true → ∀ spaces, spaces.contains desc.space = false →
      tileMoveCheck s c desc d y spaces (s.reg sr) = some 0x0206) ∧
    (let i := Instr.vcvt k d a rm pol f4
     s.Issues (xWord (if rm = 5#3 then [8] else []) true) i k →
      let o : VecOp :=
        { ins := i, desc := { Desc.zero with w0 := s.myStream.seed, w1 := s.myStream.calls.setWidth 64 }, sval := 0#64,
          spois := false, pc := s.me.pc, push := k.push.toNat, seq := c.nextSeq,
          extents := [tileExtent d false true, tileExtent a true false], started := false, loops := s.me.loops }
      let u := (s.takeToken k).accepts k c.nextSeq (fun x => { x with unit := x.unit ++ [o] })
      (tilesDeclared s c [d, a] = false → Traps i s k 0x0206 none none) ∧
      (tilesDeclared s c [d, a] = true → c.unit.length < 2 → c.checkerFull = false →
        Enters i s (if rm = 5#3 then u.updMyStream (fun t => { t with calls := t.calls + 1#32 }) else u) 1)) ∧
    (∀ o rest, c.unit = o :: rest → o.started = false → c.blocked o.seq o.extents = false →
      (o.ins = .vdefer k d e sr y → c.defer.length < 4 → c.deferPark = none → (s.snapshot c o d y).poison = 0#32 →
        ∃ u c', exec (.vectorStart c.quad) s = .next u ∧ u.coach? c.quad = some c' ∧ c'.unit = rest ∧
          c'.defer = c.defer ++ [s.snapshot c o d y]) ∧
      (o.ins = .vdrain k → c.defer = [] → ∃ u c', exec (.vectorStart c.quad) s = .next u ∧
        u.coach? c.quad = some c' ∧ c'.unit = { o with started := true } :: rest) ∧
      (o.ins = .vdrain k → c.defer ≠ [] → exec (.vectorStart c.quad) s = .next s)) ∧
    (∀ h rest, c.defer = h :: rest → c.deferPark = none → c.deferFrozen = false → s.boot.halted = false →
      h.poison = 0#32 →
      (32 ≤ h.progress → s.deferPending c.quad h.seq = false → c.pushHeld 2 h.push = false →
        exec (.deferWriteAck c.quad) s =
          .next (s.updCoach c.quad (fun c => { c with defer := rest }.enginePush 2 h.push))) ∧
      (h.progress < 32 → (h.pieces h.progress).length ≤ h.sent → s.deferPending c.quad h.seq = false →
        (h.hit = none → exec (.deferWriteAck c.quad) s = .next (s.updCoach c.quad (fun c =>
          c.updDefer (fun e => { e with progress := e.progress + 1, sent := 0 })))) ∧
        (∀ w, h.hit = some w → exec (.deferWriteAck c.quad) s =
          .next (s.deferFault c.quad h 0x0A02 w.1 w.2 (h.progress + 1)))))

/-- R41, R178 and R179: a VATOM checks its operands, waits for the vector unit to be empty, and performs the atomics of its
active lanes from the resume lane on, in ascending order, with the descriptor and base that it was issued with; it then
completes, once its push finds room. What rests on log entries 83, 134 and 139 is the model's reading or choice. -/
def Obligations.VectorAtomics : Prop :=
  ∀ (s : State) (k : Tok) (c : Coach) (t e : BitVec 6) (sr : BitVec 4) (y : BitVec 3), s.myCoach? = some c →
    let d := c.desc e.toNat
    let check := vatomCheck s c d t y (s.reg sr)
    let lanes := fun (d : Desc) => vatomLanes ((s.quad c.quad).mask c.maskSel.toNat) d t c.resume.toNat
    (∀ d p, p ∈ lanes d ↔ p < 1024 ∧ c.resume.toNat ≤ p ∧
      maskAt ((s.quad c.quad).mask c.maskSel.toNat) t (p / 32) (p % 32) = true ∧ p % 32 < d.dim0 ∧ p / 32 < d.rows) ∧
    (∀ d, List.Pairwise (· < ·) (lanes d)) ∧
    ∀ r ∈ [(Instr.vatomAdd k t e sr y, 0), (.vatomMin k t e sr y, 1), (.vatomMax k t e sr y, 2), (.vatomSwp k t e sr y, 3)],
      s.Issues (xWord [10] true) r.1 k →
      let es := [tileExtent t true true]
      let unscoped := d.space = spGlobal ∧ d.scopeBad = true
      let pushes := fun (z : State) => ∀ c', z.myCoach? = some c' →
        (c'.pushHeld 2 k.push.toNat = false → exec r.1 s = .next (z.complete k 1)) ∧
        (c'.pushHeld 2 k.push.toNat = true →
          let g := z.updMe (fun st => { st with granted := true })
          exec r.1 s = .next (g.updMe (fun st =>
            { st.parkOn (.owed (selected 2 k.push.toNat)) g.tsc with begun := true })))
      let runs := fun (u : State) (d : Desc) (shift : Word) =>
        let a : LaneSpec := { t := t, op := vatomOp r.2 y, desc := d, base := word d.base + shift }
        ∀ x c', performLanes a .done (u.updCoach c.quad (fun c => { c with vatom := some (d, shift) })) (lanes d) = .done x →
          x.cur = s.cur → x.myCoach? = some c' → pushes ((x.endLanes c.quad).charge c'.slice .vectorTile 1)
      (s.me.granted = true → pushes (s.takeToken k)) ∧
      (s.me.granted = false → c.vatom = none →
        (s.pois sr = true → Traps r.1 s k 0x0401 none none) ∧
        (s.pois sr = false → unscoped → Traps r.1 s k 0x0201 (some s.me.pc) (some ((instrWord r.1).setWidth 64))) ∧
        (s.pois sr = false → ¬unscoped → ∀ code, check = some code → Traps r.1 s k code none none) ∧
        (s.pois sr = false → ¬unscoped → check = none → c.unit ≠ [] → Parks r.1 s k .vectorUnit) ∧
        (s.pois sr = false → ¬unscoped → check = none → c.unit = [] → c.spmSeq 9 = none → c.checkerFull = false →
          s.cur = .coach c.quad 9 → c.entries.any (fun x => extentsClash x.2 es) = false →
          ∀ o, (s.takeToken k).myCoach? = some o →
            runs ((s.takeToken k).updCoach c.quad (fun _ => o.spmEnter 9 es)) d (s.reg sr))) ∧
      (s.me.granted = false → s.cur = .coach c.quad 9 → ∀ v seq, c.vatom = some v → c.spmSeq 9 = some seq →
        (c.blocked seq es = true → Parks r.1 s k .checker) ∧
        (c.blocked seq es = false → runs (s.takeToken k) v.1 v.2))

/-! ## The matrix queue -/

/-- R184 to R191, R198 to R201: a matrix word checks its descriptors and enters the matrix queue, which holds eight, with
its operands; MSTAT reads the unit's counts and MWAIT waits for the queue; MKAT passes where each quadrant's
checksum is the expected one, and else quarantines the others. A coach that has taken KAT_MISMATCH raises it again. What rests on log entry 60 is the model's reading or choice. -/
def Obligations.MatrixWords : Prop :=
  ∀ (s : State) (k : Tok) (c : Coach) (a b d : BitVec 6) (f : BitVec 3) (sr n : BitVec 4) (seed : BitVec 18)
    (low high : BitVec 32), s.myCoach? = some c →
    let x := c.desc a.toNat
    let y := c.desc b.toNat
    let z := c.desc d.toNat
    let table : List (Instr × List Nat × Bool × Option Nat × MatOp) :=
      [(.mwld k a f, familyFeature f, true, mwldCheck c x f, mwldOp c a f s.me.pc k.push.toNat 0),
       (.mma k a b d f, familyFeature f, true, mmaCheck c x z (if b = 0#6 then none else some y) f,
         mmaOp c opMma a b d f s.me.pc k.push.toNat 0),
       (.mmas k a b d f, 12 :: familyFeature f, true, mmasCheck c x y z f, mmaOp c opMmas a b d f s.me.pc k.push.toNat 0),
       (.mgath k a b, [13], true, mgathCheck c x y b.toNat,
         newMatOp opMgath 0#3 x y Desc.zero Desc.zero true s.me.pc k.push.toNat 0),
       (.mzero k d, [], false, mzeroCheck c z,
         newMatOp opMzero 0#3 Desc.zero Desc.zero z Desc.zero false s.me.pc k.push.toNat 0)]
    let reads : List (Instr × Word × (Coach → Coach)) :=
      [(.mstatOccupancy k sr, word c.matq.length, fun c => c),
       (.mstatSticky k sr, word (flagNat c.spx + 2 * flagNat c.iov), fun c => { c with spx := false, iov := false }),
       (.mstatRetired k sr, c.retired, fun c => c)]
    let mkat := Instr.mkat k seed f low high
    let kat := { xWord (familyFeature f) false with words := 3 }
    let passes := fun (q : Nat) => katChecksum f seed.toNat ^^^ (s.quad q).defect = high ++ low
    (∀ r ∈ table, s.Issues (xWord r.2.1 true) r.1 k → c.kat = none →
      (∀ code, r.2.2.2.1 = some code → Traps r.1 s k code none none) ∧
      (r.2.2.2.1 = none → 8 ≤ c.matq.length → Parks r.1 s k (.matrixQueue 7)) ∧
      (r.2.2.2.1 = none → c.matq.length < 8 → c.checkerFull = true → Parks r.1 s k .checker) ∧
      (r.2.2.2.1 = none → c.matq.length < 8 → c.checkerFull = false →
        Accepts r.1 s (s.takeToken k) k 1 c.nextSeq r.2.2.1
          (fun q => q.enterMatrix { r.2.2.2.2 with iword := instrWord r.1 } c.nextSeq))) ∧
    (∀ r ∈ reads, s.Issues (xWord [] false) r.1 k → c.kat = none →
      Acts r.1 s ((s.takeToken k).updCoach c.quad r.2.2) sr r.2.1 false) ∧
    (s.Issues (xWord [] false) (.mwait k n) k → c.kat = none →
      (c.matq.length ≤ n.toNat → Does (.mwait k n) s s) ∧
      (n.toNat < c.matq.length → Parks (.mwait k n) s k (.matrixQueue n.toNat))) ∧
    (s.Issues kat mkat k → c.kat = none →
      (c.matq ≠ [] → Parks mkat s k (.matrixQueue 0)) ∧
      (c.matq = [] → (∀ q ∈ c.quads, passes q) → ∃ t c', exec mkat s = .next t ∧ SameRegs s t ∧ Moved s t 3 ∧
        t.mem = s.mem ∧ t.coach? c.quad = some c' ∧ c'.setA = none ∧ c'.setB = none ∧ c'.flip = false ∧
        c'.retired = c.retired + 1#64 ∧ ∀ q ∈ c.quads, (t.quad q).lastKat = s.tsc ∧ (t.quad q).mustPass = false) ∧
      (c.matq = [] → (∃ q ∈ c.quads, ¬passes q) → ∃ t c', exec mkat s = .next t ∧ t.me.pc = s.me.pc ∧
        t.me.fcode = 0x0403#64 ∧ t.me.faddr = 0#64 ∧ t.me.run = .stopped 3 ∧ t.coach? c.quad = some c' ∧
        c'.kat = some t.me.fprog ∧ (∀ q ∈ c.quads, ¬passes q → (t.quad q).quarantined = true) ∧
        (∀ q ∈ c.quads, passes q → (t.quad q).quarantined = (s.quad q).quarantined ∧ (t.quad q).lastKat = s.tsc))) ∧
    (∀ m, c.kat = some m →
      (∀ r ∈ table, s.Issues (xWord r.2.1 true) r.1 k → Traps r.1 s k 0x0403 (some 0#64) (some m)) ∧
      (s.Issues (xWord [] false) (.mwait k n) k → Traps (.mwait k n) s k 0x0403 (some 0#64) (some m)))

/-- R188 to R190, R198 and R202: an operation of the matrix queue starts when its conflicts and predecessors let it, an
MMA with a weight set that fits it, and one that finds none faults in its turn (R153); an MZERO clears its accumulator bytes, and a completed head retires. What rests on
log entries 59 and 81 is the model's reading or choice. -/
def Obligations.MatrixQueue : Prop :=
  ∀ (s : State) (q : Nat) (c : Coach), s.coach? q = some c →
    (∀ o, s.nextMat c = some o →
      (o.op ≠ opMma → o.op ≠ opMmas → ∃ t c', exec (.matrixOpStart q) s = .next t ∧ t.coach? q = some c' ∧
        ∀ p ∈ c'.matq, p.seq = o.seq → p.started = true) ∧
      (o.op = opMma ∨ o.op = opMmas →
        let k := if o.op = opMmas then o.a.dim0 / 2 else o.a.dim0
        let ahead := ∃ p ∈ c.matq, p.seq < o.seq ∧ p.done = false
        let faults := fun (code : Nat) =>
          (ahead → exec (.matrixOpStart q) s = .next s) ∧
          (¬ahead → exec (.matrixOpStart q) s = .next (s.matFault q o code 0#64 0))
        (c.nextSet = none → faults 0x0206) ∧
        ∀ w, c.nextSet = some w →
          (w.family ≠ o.family → faults 0x0206) ∧
          (w.family = o.family → w.kw ≠ k ∨ w.nw ≠ o.c.dim0 → faults 0x0205) ∧
          (w.family = o.family → w.kw = k → w.nw = o.c.dim0 → ∃ t c', exec (.matrixOpStart q) s = .next t ∧
            t.coach? q = some c' ∧ c'.flip = false ∧ c'.nextSet = some w ∧
            ∀ p ∈ c'.matq, p.seq = o.seq → p.started = true ∧ p.set = some w))) ∧
    (s.nextMat c = none → exec (.matrixOpStart q) s = .next s) ∧
    (∀ h rest, c.matq = h :: rest →
      (h.done = true → c.pushHeld h.stream h.push = false →
        exec (.matrixOpComplete q) s = .next (s.updCoach q (fun x => x.retireMat h rest)) ∧
        (c.retireMat h rest).matq = rest ∧ (c.retireMat h rest).retired = c.retired + 1#64) ∧
      (h.done = false → c.matPark = none → c.matFrozen = false → c.froze = false → ∀ o, c.runningMat = some o →
        o.op = opMzero → o.c.base + o.c.extentLen ≤ c.bufSize .acc → ∃ t c', exec (.matrixOpComplete q) s = .next t ∧
          t.mem = s.mem ∧ t.coach? q = some c' ∧ (∀ p ∈ c'.matq, p.seq = o.seq → p.done = true) ∧
          ∀ i, i < c.bufSize .acc → t.bufByte c .acc i =
            if o.c.base ≤ i ∧ i < o.c.base + o.c.extentLen then 0#8 else s.bufByte c .acc i))

/-! ## The copy queue and carriage queues -/

/-- R24, R42, R208 to R228: a copy word checks its policy word and its operands and enters the copy queue, which holds 32;
CWAIT waits for the commands of its own stream; CPYC takes its follow-on with it. A command that leaves the launch's
memory opens the launch. What rests on log entries 17, 18, 19, 46, 54, 55, 57, 140, 141 and 142 is the model's reading or choice. -/
def Obligations.CopyWords : Prop :=
  ∀ (s : State) (k : Tok) (c : Coach) (d e : BitVec 6) (n p : BitVec 4) (v : BitVec 1) (w : BitVec 5) (fo : FollowOn),
    s.myCoach? = some c →
    let zero : BitVec 4 := 0#4
    let cpyh := Instr.cpyh k d e n p v
    let hash := moveCmd cpyh 0x45 d e n p k s c
    let hfin := { newCopy (.hfin k d) 0x4A (c.desc d.toNat) Desc.zero s k with count := (c.desc d.toNat).count }
    let table : List (Instr × List Nat × BitVec 4 × BitVec 4 × CopyCmd) :=
      [(.cpy k d e n p, [], n, p, moveCmd (.cpy k d e n p) 0x40 d e n p k s c),
       (.cpyg k d e n p, [], n, p, moveCmd (.cpyg k d e n p) 0x42 d e n p k s c),
       (.cpys k d e n p, [], n, p, moveCmd (.cpys k d e n p) 0x43 d e n p k s c),
       (.cpyr k d e n p, [16], n, p, moveCmd (.cpyr k d e n p) 0x44 d e n p k s c),
       (cpyh, [17], n, p, if d = 0#6 then { hash with dst := hash.src, noDst := true } else hash),
       (.cpfx k e n p, [], n, p, moveCmd (.cpfx k e n p) 0x47 0#6 e n p k s c),
       (.cwb k e n, [], n, zero, moveCmd (.cwb k e n) 0x48 0#6 e n zero k s c), (.hfin k d, [17], zero, zero, hfin)]
    let enters := fun (i : Instr) (words : Nat) (o : CopyCmd) (esc : Bool) =>
      (32 ≤ c.copyq.length → Parks i s k (.copyQueue 32)) ∧
      (c.copyq.length < 32 → o.checker ≠ [] → c.checkerFull = true → Parks i s k .checker) ∧
      (c.copyq.length < 32 → o.checker = [] ∨ c.checkerFull = false →
        Accepts i s (if esc then (s.takeToken k).openLaunch s.cur else s.takeToken k) k words c.nextSeq true
          (fun x => { x with copyq := x.copyq ++ [{ o with seq := c.nextSeq, extents := o.checker }] }))
    let goes := fun (i : Instr) (o : CopyCmd) (pol : BitVec 4) =>
      let refused := badPolicy o.pol = true ∨ o.scopeBad = true
      (refused → Traps i s k 0x0201 (some s.me.pc) (some ((instrWord i).setWidth 64))) ∧
      (¬refused → ∀ code, copyCheck s c o pol = some code → Traps i s k code none none) ∧
      (¬refused → copyCheck s c o pol = none → enters i 1 o (o.op == 0x44 || decide (o.endp < 8)))
    (∀ r ∈ table, s.Issues (lsWord r.2.1 true) r.1 k →
      ((s.pois r.2.2.1 || s.pois r.2.2.2.1) = true → Traps r.1 s k 0x0401 none none) ∧
      ((s.pois r.2.2.1 || s.pois r.2.2.2.1) = false → goes r.1 r.2.2.2.2 r.2.2.2.1)) ∧
    (let i := Instr.cfill k d n p v
     let dst := c.desc d.toNat
     let o := { newCopy i 0x46 dst Desc.zero s k with
       pol := (s.reg p).setWidth 32
       cval := if v = 1#1 then (s.reg n).setWidth 32 ++ (s.reg n).setWidth 32 else s.reg n
       cpoison := s.pois n
       count := dst.count }
     let poisoned := s.pois p = true ∨ (s.pois n = true ∧ dst.space = spGlobal)
     s.Issues (lsWord [] true) i k → (poisoned → Traps i s k 0x0401 none none) ∧ (¬poisoned → goes i o p)) ∧
    (let i := Instr.cpyc k d e n p fo
     let o := moveCmd i 0x41 d e n p k s c
     let m := followOp c fo s.me.pc (if threadStream s.cur = 1 then 1 else 2)
     s.Issues { lsWord (followFeatures fo) true with words := 2 } i k → (s.pois n || s.pois p) = false →
      let refused := badPolicy o.pol = true ∨ o.scopeBad = true
      (refused → Traps i s k 0x0201 (some s.me.pc) (some ((instrWord i).setWidth 64))) ∧
      (¬refused → ∀ code, copyCheck s c o p = some code → Traps i s k code none none) ∧
      (¬refused → copyCheck s c o p = none →
        (∀ q, c.kat = some q → Traps i s k 0x0403 (some 0#64) (some q)) ∧
        (c.kat = none → ∀ code, m.1 = some code → Traps i s k code none none) ∧
        (c.kat = none → m.1 = none →
          enters i 2 { o with follow := some { m.2 with iword := (encode i).getD 1 0#32 } } (decide (o.endp < 8))))) ∧
    (let mine := (c.copyq.filter (fun o => o.stream == threadStream s.cur)).length
     s.Issues (lsWord [] false) (.cwait k w) k →
      (mine ≤ w.toNat → Does (.cwait k w) s s) ∧ (w.toNat < mine → Parks (.cwait k w) s k (.copyQueue w.toNat)))

/-- R419 to R423: CQBIND, CQUNB, CQSEND and CQRECV check their endpoint and enter the copy queue, and the first two set
the state that later commands find the endpoint in; CQSTAT reads an endpoint. What rests on log entries 56 and 68 is the
model's reading or choice. -/
def Obligations.CarriageWords : Prop :=
  ∀ (s : State) (k : Tok) (c : Coach) (q : BitVec 3) (e : BitVec 6) (sr : BitVec 4), s.myCoach? = some c →
    let d := c.desc e.toNat
    let ep := c.endp q.toNat
    let binds : List (Instr × Bool × Nat) := [(.cqbindSend k q e sr, false, 1), (.cqbindRecv k q e sr, true, 2)]
    let unbinds := [Instr.cqunbDrain k q, .cqunbDiscard k q]
    let sendCmd := { newCopy (.cqsend k q e sr) 0x4D Desc.zero d s k with endp := q.toNat }.counted s sr
    let recvCmd := { newCopy (.cqrecv k q e sr) 0x4E d Desc.zero s k with endp := q.toNat }.counted s sr
    let moves : List (Instr × Nat × CopyCmd × List Nat) :=
      [(.cqsend k q e sr, 1, sendCmd, [spGlobal, spAbuf, spAcc, spTile, spL2s]),
       (.cqrecv k q e sr, 2, recvCmd, [spGlobal, spAbuf, spWbuf, spAcc, spTile, spL2s])]
    let reads : List (Instr × Word) := [(.cqstatStatus k q sr, ep.status), (.cqstatRows k q sr, word ep.rows.length),
      (.cqstatCredits k q sr, word (if ep.bound = false then 0 else if ep.recv then 64 - ep.rows.length else ep.credits))]
    let enters := fun (i : Instr) (o : CopyCmd) (precise esc : Bool) (f : Coach → Coach) =>
      (32 ≤ c.copyq.length → Parks i s k (.copyQueue 32)) ∧
      (c.copyq.length < 32 → o.checker ≠ [] → c.checkerFull = true → Parks i s k .checker) ∧
      (c.copyq.length < 32 → o.checker = [] ∨ c.checkerFull = false →
        Accepts i s (if esc then (s.takeToken k).openLaunch s.cur else s.takeToken k) k 1 c.nextSeq precise
          (fun x => f { x with copyq := x.copyq ++ [{ o with seq := c.nextSeq, extents := o.checker }] }))
    (∀ r ∈ binds, s.Issues (lsWord [18] true) r.1 k →
      let o := { newCopy r.1 0x4B Desc.zero d s k with cval := s.reg sr, endp := q.toNat, count := 1 }
      (s.pois sr = true → Traps r.1 s k 0x0401 none none) ∧
      (s.pois sr = false → ∀ code, bindCheck s c d q.toNat r.2.1 (s.reg sr) = some code → Traps r.1 s k code none none) ∧
      (s.pois sr = false → bindCheck s c d q.toNat r.2.1 (s.reg sr) = none →
        enters r.1 o false false (fun x => x.acceptEndp q.toNat r.2.2))) ∧
    (∀ i ∈ unbinds, s.Issues (lsWord [18] true) i k →
      let o := { newCopy i 0x4C Desc.zero Desc.zero s k with endp := q.toNat, count := 1 }
      (ep.accepted = 0 → Traps i s k 0x0206 none none) ∧
      (ep.accepted ≠ 0 → enters i o false false (fun x => x.acceptEndp q.toNat 0))) ∧
    (∀ r ∈ moves, s.Issues (lsWord [18] true) r.1 k →
      let check := rowCheck s c d q.toNat r.2.1 r.2.2.1.count r.2.2.2
      (s.pois sr = true → Traps r.1 s k 0x0401 none none) ∧
      let unscoped := r.2.2.2.contains d.space = true ∧ d.scopeBad = true
      (s.pois sr = false → unscoped → Traps r.1 s k 0x0201 (some s.me.pc) (some ((instrWord r.1).setWidth 64))) ∧
      (s.pois sr = false → ¬unscoped → ∀ code, check = some code → Traps r.1 s k code none none) ∧
      (s.pois sr = false → ¬unscoped → check = none → enters r.1 r.2.2.1 true true (fun x => x))) ∧
    (∀ r ∈ reads, Gives (lsWord [18] false) r.1 k s sr r.2 false) ∧
    (ep.bound = false → ep.status = 0#64) ∧
    (ep.bound = true → ep.rows.length ≤ 64 → ep.credits ≤ 64 → ep.recv = false →
      bit ep.status 0 = true ∧ bit ep.status 2 = false ∧ bit ep.status 5 = ep.broken ∧ bit ep.status 6 = ep.closed ∧
        bits ep.status 15 8 = ep.credits ∧ bits ep.status 31 16 = ep.rows.length ∧ bits ep.status 63 32 = ep.next.toNat)

/-! ## Waits, tasks and queues -/

/-- R17, R94, R105, R122, R124, R146 and R243: a thread whose wait is over goes on, one that waited for a token with the token,
one that waited for the divider with its result; a WAITE whose clocks have passed goes on; the
global timer latches event 3 in every thread; a wait of 10 ms on a POP, and a barrier wait past its limit, stop the
thread with a record to the slice's level. What rests on log entry 5 is the model's reading or choice. -/
def Obligations.WaitEnds : Prop :=
  (∀ (s : State) (th : ThreadId) (st : Strand), s.strand? th = some st →
    (∀ w, st.run = .parked w → s.waitOver th st w = true → (∀ src, w ≠ .token src) → w ≠ .divide →
      ∃ t, exec (.strandReady th) s = .next t ∧ OnlyOf th s t ∧ t.strand? th = some { st with run := .ready }) ∧
    (∀ w, st.run = .parked w → s.waitOver th st w = false → exec (.strandReady th) s = .next s) ∧
    (∀ q n src c, th = .coach q n → st.run = .parked (.token src) → s.coach? q = some c →
      let key := fifoKey src (threadStream th)
      s.waitOver th st (.token src) = true → ∃ t c' after, exec (.strandReady th) s = .next t ∧ OnlyOf th s t ∧
        t.strand? th = some { st with run := .ready, popped := (src + 4 - threadStream th) % 4, behind := after } ∧
        t.coach? q = some c' ∧ c'.fifoCount key + 1 = c.fifoCount key) ∧
    (∀ x, s.stream? th = some x → st.run = .parked .divide → s.waitOver th st .divide = true →
      ∃ t, exec (.strandReady th) s = .next t ∧ t.mem = s.mem ∧ t.strand? th = some { st with run := .ready, granted := true } ∧
        t.stream? th = some { x with divider := x.divider.tail }) ∧
    (∀ m start limit, st.run = .parked (.event m (some (start, limit))) →
      (limit.toNat ≤ (s.clocks - start).toNat → ∃ t, exec (.waiteTimeout th) s = .next t ∧ OnlyOf th s t ∧
        t.strand? th = some { st with run := .ready, granted := true }) ∧
      ((s.clocks - start).toNat < limit.toNat → exec (.waiteTimeout th) s = .next s))) ∧
  (∀ s : State, ∃ t, exec .timerEvent s = .next t ∧ t = { s with coaches := t.coaches, dies := t.dies } ∧
    let tick := fun (st : Strand) => { st with latch := st.latch ||| 8#4 }
    (∀ q p, p < 11 → t.strand? (.coach q p) = (s.strand? (.coach q p)).map tick) ∧
    ∀ d k, d < 4 → k < 8 → t.strand? (.dray d k) = (s.strand? (.dray d k)).map tick) ∧
  (∀ (s : State) (q p : Nat) (c : Coach) (st : Strand), s.coach? q = some c → s.strand? (.coach q p) = some st →
    let th := ThreadId.coach q p
    let waited := (s.tsc - st.since).toNat
    let stops := fun (i : Instr) (code : Nat) (faddr fprog : Word) => ∃ t r, exec i s = .next t ∧ t.mem = s.mem ∧
      t.strand? th = some (st.stop code faddr fprog st.pc) ∧
      t.faults = s.faults ++ [{ id := s.nextReq, body := r, level := c.slice, die := quadDie q, waiting := false }] ∧
      r.code = BitVec.ofNat 16 code ∧ r.faddr = faddr ∧ r.fprog = fprog ∧ r.epc = st.pc.setWidth 17 ∧
      r.handle = threadHandle th ∧ r.vtag = s.vtagOf th ∧ r.slice = c.slice ∧ r.time = word (bits s.tsc 41 10)
    (∀ src, st.run = .parked (.token src) →
      (10000000 ≤ waited → s.tokenHeld th = false → stops (.tokenTimeout th) 0x0207 (word src) 0#64) ∧
      (waited < 10000000 ∨ s.tokenHeld th = true → exec (.tokenTimeout th) s = .next s)) ∧
    (∀ h b, st.run = .parked (.barrier h) → s.barrier c h = some b →
      let snap := ((SMap.get (fun _ => (none : Option (BitVec 16))) st.snaps h).getD 0#16).toNat
      (st.granted = false → barLimit (s.bar b) < waited →
        stops (.barrierTimeout th) 0x0602 (word h) (word (snap * 2 ^ 16 + barCount (s.bar b)))) ∧
      (st.granted = true ∨ waited ≤ barLimit (s.bar b) → exec (.barrierTimeout th) s = .next s)))

/-- R143, R144, R253, R259, R260 and R293: the walker has the regions of a launch's record claimed, one by one, and then binds a coach to a launch's next point; the loader fills the shadow
plane; a task starts with cleared registers and its argument block in s14; a drained task is followed by the point's next
one, or its coach exits; a share window starts anew every millisecond. What rests on log entries 73, 85, 93 and 97 is the
model's reading or choice. -/
def Obligations.Tasks : Prop :=
  (∀ (s : State) (die : Nat) (l : Launch) (fresh : Bool) (lead : Nat), s.pick die = some (l, fresh) →
    s.leadFor l die = some lead → (lnrClaims l.hdr).length ≤ l.claims.length → ∃ t c w, exec (.walkerPick die) s = .next t ∧ t.mem = s.mem ∧
      t.coaches = s.coaches ++ [c] ∧ c.quad = lead ∧ c.shape = l.shape ∧ c.slice = l.slice ∧ c.tag = l.tag ∧
      c.temporal = 0 ∧ c.phase = .loading ∧ c.args = l.args ∧ t.walker die l.tag = some w ∧ w.next = c.point + 1 ∧
      (∀ v, s.walker die l.tag = some v → c.point = v.next ∧ w = { v with next := v.next + 1, bound := v.bound + 1 }) ∧
      (s.walker die l.tag = none → c.point = 0 ∧ w.bound = 1 ∧ w.total = s.spatial l die)) ∧
  (∀ (s : State) (die : Nat) (l : Launch) (fresh : Bool) (r : Nat × Nat), s.pick die = some (l, fresh) →
    (lnrClaims l.hdr)[l.claims.length]? = some r → exec (.walkerPick die) s = .next (s.claimNext l r.1 r.2)) ∧
  (∀ (s : State) (q tag : Nat) (c : Coach) (l : Launch), s.coach? q = some c → s.launch? tag = some l → c.tag = tag →
    c.phase = .loading → (s.quad q).swap = false → (s.quad q).owner (s.quad q).activeB ≠ some tag →
    ∃ t, exec (.loaderPlaneLoad q tag) s = .next t ∧ t = { s with quads := t.quads } ∧ (∀ p, p ≠ q → t.quad p = s.quad p) ∧
      (t.quad q).activeB = (s.quad q).activeB ∧ (t.quad q).swap = true ∧
      (t.quad q).owner (!(s.quad q).activeB) = some tag ∧
      (∀ i, SMap.get (fun _ => 0#32) (if (s.quad q).activeB then (t.quad q).planeA else (t.quad q).planeB) i =
        l.code.getD i 0#32) ∧
      (if (s.quad q).activeB then (t.quad q).planeB = (s.quad q).planeB else (t.quad q).planeA = (s.quad q).planeA)) ∧
  (∀ (s : State) (q : Nat) (c : Coach) (l : Launch), s.coach? q = some c → s.launch? c.tag = some l →
    (c.phase ≠ .running → c.held = none → c.frozen = false → s.mayStart l (quadDie q) = true → s.codeReady c = true →
      ∃ t c', exec (.taskStart q) s = .next t ∧ t.mem = s.mem ∧ t.coach? q = some c' ∧ c'.phase = .running ∧
        (∀ p ∈ [0, 8, 9, 10], (c'.strand p).pc = 0#64 ∧ (c'.strand p).loops = [] ∧
          ∀ r, (c'.strand p).reg r = if r = 14#4 then c.args else 0#64) ∧
        ((c'.strand 0).run = if (hdrLens l.hdr).getD 0 0 = 0 then .idle else .ready) ∧
        ((c'.strand 8).run = if (hdrLens l.hdr).getD 1 0 = 0 then .idle else .ready) ∧
        ((c'.strand 9).run = if (hdrLens l.hdr).getD 2 0 = 0 then .idle else .ready) ∧
        ((c'.strand 10).run = if (hdrLens l.hdr).getD 3 0 = 0 then .idle else .ready) ∧
        c'.fifo = [] ∧ c'.descs = [] ∧ c'.unit = [] ∧ c'.matq = [] ∧ c'.copyq = [] ∧ c'.defer = []) ∧
    (s.drained c = true → c.frozen = false → c.held = none →
      (c.temporal + 1 < kindCount l.hdr 0 → exec (.taskDrain q) s = .next (s.updCoach q (fun c =>
        { c with phase := .between, temporal := c.temporal + 1 }))) ∧
      (kindCount l.hdr 0 ≤ c.temporal + 1 → ∃ t, exec (.taskDrain q) s = .next t ∧ t.coach? q = none ∧
        ∀ v, s.walker (quadDie q) c.tag = some v →
          t.walker (quadDie q) c.tag = some { v with bound := v.bound - 1 }))) ∧
  (∀ (s : State) (die : Nat),
    ((s.tsc - (s.die die).winStart).toNat < 1000000 → exec (.shareWindow die) s = .next s) ∧
    (1000000 ≤ (s.tsc - (s.die die).winStart).toNat → ∃ t, exec (.shareWindow die) s = .next t ∧
      t = { s with coaches := t.coaches, dies := t.dies } ∧
      t.die die = { s.die die with winTime := [], winStart := s.tsc } ∧ (∀ d, d ≠ die → t.die d = s.die d) ∧
      ∀ q, t.coach? q = (s.coach? q).map (fun c => if quadDie q = die then { c with tallied := s.tsc } else c)))

/-- R256 to R259, R262, R264, R435 and R468: a doorbell is a notify; a notify makes the slot of an enabled queue read
TAIL, or makes the queue pending; a free slot takes the first pending queue of the order; a slot takes the next launch of
its ring, or rejects a malformed entry, or waits for a tag; a launch whose gate is open becomes ready when those ahead of it
are; after the commit its held records fire in order, and then it retires. What rests on log entries 66, 67, 69, 78, 79, 80
and 148 is the model's reading or choice. -/
def Obligations.QueueEvents : Prop :=
  (∀ (s : State) (fn queue slice : Nat), s.fnSlice fn = some slice →
    ((s.fn fn).frozen = true → exec (.doorbell fn queue) s = .next s) ∧
    ((s.fn fn).frozen = false → s.migState slice = 1 → exec (.doorbell fn queue) s = .next (s.countDrop slice)) ∧
    ((s.fn fn).frozen = false → s.migState slice ≠ 1 → ∃ t, exec (.doorbell fn queue) s = .next t ∧
      t = { s with notes := t.notes } ∧ (∃ die, (slice, queue, die) ∈ t.notes) ∧ (∀ n ∈ s.notes, n ∈ t.notes))) ∧
  (∀ (s u : State) (slice queue die : Nat) (e : QEntry),
    s.notes.find? (fun n => n.1 == slice && n.2.1 == queue) = some (slice, queue, die) → s.migState slice ≠ 1 →
    s.readQueue die slice queue = .ok u e →
    let served := fun (t : State) => ∀ d, (slice, queue, d) ∉ t.notes
    (∀ m v f, u.mappedTo slice queue = some m → e.en = true →
      (u.updSlot m.1 m.2 (fun x => { x with told := false })).readQueue m.1 slice queue = .ok v f → f.bad = false → ∃ t,
      exec (.notifyEvent slice queue) s = .next t ∧ (t.slot m.1 m.2).tail = BitVec.ofNat 32 f.tail ∧ served t) ∧
    (∀ v, u.mappedTo slice queue = none ∨ e.en = false → u.makePending die slice queue e = .ok v () → ∃ t,
      exec (.notifyEvent slice queue) s = .next t ∧ served t ∧
      t = { (if e.en ∧ (u.mappedTo slice queue).isNone then (v.latchNotify slice).askScan die slice queue
        else v.latchNotify slice) with notes := t.notes })) ∧
  (∀ (s : State) (die : Nat), ((s.die die).scans = [] → exec (.slotScan die) s = .next s) ∧
    ∀ r rs, (s.die die).scans = r :: rs →
      let gone := s.updDie die (fun x => { x with scans := rs })
      (s.freeSlot die = none ∨ s.scanPick die = none → exec (.slotScan die) s = .next gone) ∧
      ∀ k slice q e, s.freeSlot die = some k → s.scanPick die = some (slice, q, e) →
        let u := if r.all (fun x => x == (slice, q)) then gone else s
        (∀ v, u.mapQueue die k slice q false e = some v →
          exec (.slotScan die) s = .next (if e.bad then (v.putPend die slice q false).orElse v else v) ∧
          (v.slot die k).queue = some (slice, q) ∧ (v.slot die k).pinned = false ∧ (v.slot die k).taken = [] ∧
          (v.slot die k).head = BitVec.ofNat 32 e.head) ∧
        (∀ w f, ((u.updSlot die k (fun _ => { Slot.reset with
            queue := some (slice, q), pinned := false, head := BitVec.ofNat 32 e.head,
            tail := BitVec.ofNat 32 e.head })).updSlot die k (fun x => { x with told := false })).readQueue die slice q =
              .ok w f → f.bad = false → ∃ v, u.mapQueue die k slice q false e = some v ∧
              (v.slot die k).tail = BitVec.ofNat 32 f.tail) ∧
        ∀ i n f, i < 64 → n < 256 → s.sliceV die i = true → s.sliceOnDie i die = true → s.migState i ≠ 1 →
          s.candidate die i n = some f → beforeQueue (i, n, f) (slice, q, e) = false) ∧
  (∀ (s u : State) (die k slice q : Nat) (e : QEntry), (s.slot die k).queue = some (slice, q) →
    (s.slot die k).told = false → s.readQueue die slice q = .ok u e → e.en = true → e.bad = false →
    (16 ≤ ((s.slot die k).taken.filter (fun t => t != 4096)).length ∨ (s.slot die k).behind e.log = 0 →
      exec (.slotTake die k) s = .next (u.updSlot die k (fun x => { x with noTag := false }))) ∧
    (((s.slot die k).taken.filter (fun t => t != 4096)).length < 16 → (s.slot die k).behind e.log ≠ 0 →
      u.tagFor die k = none → exec (.slotTake die k) s = .next (u.updSlot die k (fun x => { x with noTag := true })))) ∧
  (∀ (s r u v : State) (die k slice q tag j : Nat) (e : QEntry) (ws : List Word), (s.slot die k).queue = some (slice, q) →
    (s.slot die k).told = false → s.readQueue die slice q = .ok r e → e.en = true → e.bad = false →
    ((s.slot die k).taken.filter (fun t => t != 4096)).length < 16 → (s.slot die k).behind e.log ≠ 0 →
    r.tagFor die k = some tag → u = r.updSlot die k (fun x => { x with noTag := false }) →
    u.hwWords (u.hwWho die slice) false
      (e.ring + 32 * (((s.slot die k).head.toNat + (s.slot die k).taken.length) % 2 ^ e.log)) [0, 1, 2, 3] = (.ok v ws, j) →
    let lnr := word (bits (ws.getD 0 0#64) 55 0)
    let arg := ws.getD 1 0#64
    (∀ n, ringFail ws = some n → exec (.slotTake die k) s =
      .next (v.rejectEntry die k slice e 0x0201 lnr (word (0x100 + n)) 0#16)) ∧
    (∀ (w : State) (h : List Word) (n : Nat), ringFail ws = none →
      v.hwWords (v.hwWho die slice) false lnr.toNat (List.range 32) = (.ok w h, n) →
      (∀ m, hdrFail h (w.noDies slice) = some m → exec (.slotTake die k) s =
        .next (w.rejectEntry die k slice e 0x0201 lnr (word m) 0#16)) ∧
      (∀ (x y : State) (code : List IWord),
        let args := if arg ≠ 0#64 then arg else word (bits (h.getD 5 0#64) 55 0)
        hdrFail h (w.noDies slice) = none →
        w.readCode (v.hwWho die slice) (lnr.toNat + 256) ((hdrLens h).foldl (· + ·) 0) = .ok x code →
        x.latchAll (v.hwWho die slice) args (wsetHandles (h.getD 14 0#64)) = .ok y true →
        ∃ t l, exec (.slotTake die k) s = .next t ∧ t.launches = y.launches ++ [l] ∧ l.tag = tag ∧ l.lnr = lnr ∧ l.hdr = h ∧
          l.args = args ∧ l.code = code ∧ l.age = y.tsc ∧ l.attempt = 0 ∧ l.ready = false ∧ l.slice = slice ∧
          l.queue = q ∧ (t.tag tag).st = .running ∧ (t.slot die k).taken = (y.slot die k).taken ++ [tag] ∧
          t.mem = y.mem))) ∧
  (∀ (s : State) (tag : Nat) (l : Launch), s.launch? tag = some l →
    (s.mayBeReady l = false → exec (.launchReady tag) s = .next s) ∧
    (s.mayBeReady l = true → ∃ t, exec (.launchReady tag) s = .next t ∧
      t = { s with launches := t.launches } ∧ t.launch? tag = some { l with ready := true } ∧
      ∀ u, u ≠ tag → t.launch? u = s.launch? u) ∧
    ((s.tag tag).st = .committed → l.retryAt.toNat ≤ s.tsc.toNat →
      (l.held = [] → ∃ t, exec (.appendRetry tag) s = .next t ∧ t.launch? tag = none ∧
        ∀ g, bits (l.h 6) 25 18 = g → bit (l.h 6) 17 = true → t.gate l.slice g = s.gate l.slice g + 1#48) ∧
      (∀ r rs, l.held = r :: rs →
        (∀ v, s.fireRec (tagDie tag) r = .ok v → exec (.appendRetry tag) s = .next (v.updLaunch tag (fun l =>
          { l with held := rs, reported := false, retryAt := 0#64 }))) ∧
        (s.fireRec (tagDie tag) r = .full → exec (.appendRetry tag) s = .next s) ∧
        (∀ code a p, s.fireRec (tagDie tag) r = .fault code a p → ∃ t, exec (.appendRetry tag) s = .next t ∧
          (l.reported = true → t.faults = s.faults) ∧ (l.reported = false → t.faults.length = s.faults.length + 1 ∨
            t.faults.length = s.faults.length + 3) ∧
          t.launch? tag = some { l with reported := true, retryAt := s.tsc + 1000000#64 }))))

/-! ## Commit and abort -/

/-- R288, R294, R295, R301, R303, R305 to R307: a staged write is its own launch's to see and nobody else's; a request
that waited goes on when its owners are done; of a cycle of launches that have waited 100 us the youngest aborts. A
launch whose commit conditions hold enters PENDING; each die marks its entries and acknowledges; with the last
acknowledgement the staged bytes are data, and the launch is COMMITTED; its lines leave the cocoon one by one. An
aborting launch loses its staged bytes die by die, and is then tried again or reported. What rests on log entries 44
and 147 is the model's reading or choice. -/
def Obligations.Commits : Prop :=
  ((∀ (s : State) (id : Nat) (r : HomeReq) (l : Launch) (tg : Nat × BitVec 4),
     s.homeq.find? (fun x => x.id == id) = some r → r.staging = true → s.inOrder r = true → r.tag = some tg →
     s.currentAttempt tg = some l → l.irrev = false → l.promoting = false → r.release ≠ some 6 →
     apertureOf (64 * r.line) = .hbm →
     s.stagers l.tag r.line r.mask ++ s.claimers (some l.tag) r.line r.mask = [] → r.mask &&& l.claimMask r.line = 0#64 →
     s.hasRoom l r.line = true → ∃ t, exec (.stageRequest id) s = .next t ∧ t.mem = s.mem ∧ t.coaches = s.coaches ∧
       t.homeq = s.homeq.filter (fun x => x.id != id) ∧
       (∀ i, i < 64 → r.mask.getLsbD i = true → t.viewByte (some l.tag) (64 * r.line + i) = lineByte r.data i) ∧
       (∀ a, a / 64 ≠ r.line ∨ r.mask.getLsbD (a % 64) = false → t.viewByte (some l.tag) a = s.viewByte (some l.tag) a) ∧
       (∀ u a, u ≠ l.tag → t.viewByte (some u) a = s.viewByte (some u) a) ∧
       ∀ a, t.viewByte none a = s.viewByte none a) ∧
   (∀ (s : State) (id : Nat) (w : WaitReq), s.waiting.find? (fun w => w.req.id == id) = some w →
     (s.mayRetry w = false ∨ s.behind w = true → exec (.conflictWaitApply id) s = .next s) ∧
     (s.mayRetry w = true → s.behind w = false →
       (∀ a, w.req.atom = some a → exec (.conflictWaitApply id) s = .next (s.retryAtom w.req a)) ∧
       (w.req.atom = none → w.req.mask = 0#64 → ∃ t, exec (.conflictWaitApply id) s = .next t ∧
         t = { s with homeq := t.homeq, waiting := t.waiting } ∧ ∀ x ∈ t.waiting, x.req.id ≠ id) ∧
       (w.req.atom = none → w.req.mask ≠ 0#64 → exec (.conflictWaitApply id) s = .next (s.applyReq w.req)))) ∧
   (∀ (s : State) (tag : Nat),
     let reach := fun t => s.waitReach s.launches.length (s.waitOwners t)
     let long := s.waiting.any (fun w => (w.req.tag.map (fun t => t.1)) == some tag &&
       decide (100000 ≤ (s.tsc - w.since).toNat))
     let cycle := s.launches.filter (fun l => (reach tag).contains l.tag && (reach l.tag).contains tag)
     (long = false ∨ (reach tag).contains tag = false → exec (.waitCycleCheck tag) s = .next s) ∧
     (long = true → (reach tag).contains tag = true → cycle ≠ [] → ∃ l ∈ cycle, (∀ x ∈ cycle, l.older x = false) ∧
       exec (.waitCycleCheck tag) s =
         .next (s.abortLaunch l.tag 0x0501 (((s.waitOwners l.tag).head?.map s.vtag).getD 0#16) 0#13)))) ∧
  ((∀ (s : State) (tag : Nat) (l : Launch), s.launch? tag = some l →
     (s.mayCommit l = false → exec (.commitPending tag) s = .next s) ∧
     (s.mayCommit l = true → ∃ t, exec (.commitPending tag) s = .next t ∧
       t = { s with tags := t.tags, launches := t.launches } ∧ t.tag tag = { s.tag tag with st := .pending } ∧
       t.launch? tag = some { l with acks := 0#4 }) ∧
     (∀ die, (s.tag tag).st = .pending → l.acks.getLsbD die = false →
       let acks := l.acks ||| (1#4 <<< die)
       (acks ≠ 15#4 → ∃ t, exec (.pendingAck tag die) s = .next t ∧
         t = { s with staged := t.staged, launches := t.launches, l1 := t.l1 } ∧
         t.launch? tag = some { l with acks := acks } ∧ ∀ e ∈ t.staged, e.tag = tag → e.committed = false → homeDie (64 * e.line) = die → e.pending = true) ∧
       (acks = 15#4 → l.promoting = false → ∃ t, exec (.pendingAck tag die) s = .next t ∧
         t.tag tag = { s.tag tag with st := .committed } ∧
         t.launch? tag = some { l with acks := acks, claims := [], runs := [] } ∧
         (∀ e ∈ t.staged, e.tag = tag → e.committed = true) ∧
         ∀ e, s.staged.filter (fun x => x.tag == tag && !x.committed) = [e] → e.leaf = none → ∀ a,
           t.byteAt a = if a / 64 = e.line ∧ e.mask.getLsbD (a % 64) = true then lineByte e.data (a % 64) else s.byteAt a)) ∧
     (∀ die, l.promoting = true → l.acks.getLsbD die = false → l.acks ||| (1#4 <<< die) = 15#4 → ∃ t,
       exec (.pendingAck tag die) s = .next t ∧ t.tag tag = { s.tag tag with st := .irrev } ∧
       t.launch? tag = some { l with acks := 15#4, irrev := true, promoting := false } ∧
       ∀ e ∈ t.staged, e.tag = tag → e.committed = true) ∧
     (∀ die, s.aborting l = true → l.acks.getLsbD die = false →
       let acks := l.acks ||| (1#4 <<< die)
       (acks ≠ 15#4 → ∃ t, exec (.discardAck tag die) s = .next t ∧ t.mem = s.mem ∧
         t.launch? tag = some { l with acks := acks } ∧
         (∀ e ∈ t.staged, e.tag = tag → homeDie (64 * e.line) = die → e.committed = true) ∧
         ∀ e ∈ s.staged, e.tag ≠ tag → e ∈ t.staged) ∧
       (acks = 15#4 → l.irrev = false → l.opened = false → retried l.cause.toNat = true →
         l.attempt < s.sliceRetry l.die l.slice → ∃ t m, exec (.discardAck tag die) s = .next t ∧ t.mem = s.mem ∧
           t.tag tag = { st := .running, gen := (s.tag tag).gen + 1#4 } ∧ t.launch? tag = some m ∧
           m.attempt = l.attempt + 1 ∧ m.cause = 0#16 ∧ m.ready = l.ready ∧ m.claims = [] ∧ m.age = l.age) ∧
       (acks = 15#4 → l.irrev = true ∨
         l.opened = true ∨ retried l.cause.toNat = false ∨ s.sliceRetry l.die l.slice ≤ l.attempt → ∃ t,
         exec (.discardAck tag die) s = .next t ∧ t.tag tag = { st := .free, gen := (s.tag tag).gen + 1#4 } ∧
           t.launch? tag = none ∧ s.faults.length < t.faults.length))) ∧
   (∀ (s : State) (tag : Nat) (e : Staged), s.staged.find? (fun e => e.tag == tag && e.committed) = some e →
     s.tagWanted tag = true ∨ s.staged.any (fun e => e.committed && s.tagWanted e.tag) = false →
     ∃ t, exec (.stagedMerge tag) s = .next t ∧ t.coaches = s.coaches ∧ t.staged.length < s.staged.length ∧
       (∀ x ∈ t.staged, x.line = e.line → x.tag = tag → x.committed = false) ∧ ∀ a, a / 64 = e.line → t.byteAt a = s.byteAt a))

/-! ## Homes, scrubbing and walks -/

/-- R271, R274, R278, R281, R283, R284, R328 and R375: a plain write is applied at its home; a memory-side unit performs
an atomic and answers with the old value; ways change class one by one, a cache way with nothing left in it; a scrubbed
line that is uncorrectable is poisoned in HBM and reported to level O, and a second corrected error repairs its sector; the
scrub factor follows temperature and errors; a walk that is in a walker leaves its entries, starts a pull or waits; a
watchdog reports to level O and aborts the launch of its coach. What rests on log entries 42, 76, 156 and 158 is the model's
reading or choice. -/
def Obligations.HomeUnits : Prop :=
  (∀ (s : State) (id : Nat) (r : HomeReq), s.homeq.find? (fun r => r.id == id) = some r → s.inOrder r = true →
    (r.atom = none → r.tag = none → r.memSide = false → r.release ≠ some 6 → apertureOf (64 * r.line) = .hbm → ∃ t, exec (.homeAccess id) s = .next t ∧ t.coaches = s.coaches ∧
      t.dies = s.dies ∧ t.homeq = s.homeq.filter (fun x => x.id != id) ∧ ∀ a, a / 64 = r.line →
        t.byteAt a = if r.mask.getLsbD (a % 64) then lineByte r.data (a % 64) else s.byteAt a) ∧
    (∀ a tg, r.atom = some a → r.tag = some tg → s.currentAttempt tg = none →
      exec (.memorySideAtomic id) s = .next (s.dropReq id)) ∧
    (∀ a, r.atom = some a → (∀ tg, r.tag = some tg → s.currentAttempt tg ≠ none) →
      let dpa := 64 * r.line + a.off
      let old := natOfBytes (s.viewBytes none true dpa a.bytes)
      let new := (atomNew a.op a.bytes old a.v a.cmp).1
      let u := s.writeSide r.line (lineData a.off (bytesOfNat a.bytes new)) (lineMask a.off a.bytes) r.rel
      exec (.memorySideAtomic id) s =
        .next (((u.dropReq id).scopeFlag s r.by_ a.sem a.scope none dpa a.bytes).giveReply r.by_ (bytesOfNat a.bytes old) (s.viewPois none true dpa a.bytes)))) ∧
  (∀ (s : State) (die : Nat), ((s.die die).moves = [] → exec (.wayMove die) s = .next s) ∧
    ∀ m ms, (s.die die).moves = m :: ms →
      (m.2 / 4 = 1 → s.cocoonEmpty die m.1 = false → exec (.wayMove die) s = .next s) ∧
      (m.2 / 4 ≠ 1 ∨ s.cocoonEmpty die m.1 = true → ∃ t, exec (.wayMove die) s = .next t ∧ t.coaches = s.coaches ∧
        (t.die die).moves = ms ∧ (∀ w, t.wayNow die w = if w = m.1 then m.2 % 4 else s.wayNow die w) ∧
        (m.2 / 4 = 0 → ∀ c ∈ t.cache, homeDie (64 * c.line) = die → c.way ≠ m.1) ∧
        (ms = [] → bit (t.pmWord die 0x3F100) 8 = false))) ∧
  (∀ (s : State) (line : Nat),
    let dpa := 64 * line
    let on := apertureOf dpa = .hbm ∧ bit (s.pmWord (homeDie dpa) 0x3F108) 0 = true ∧
      s.repaired line = false
    let again := s.eccSeen.any (fun e => e.1 == line && decide ((s.tsc - e.2).toNat < 86400 * 10 ^ 9))
    let used := (s.repair.filter (fun r => homeDie r.1 == homeDie dpa && homeSlice r.1 == homeSlice dpa)).length
    (∀ f, ¬on ∨ f = EccOutcome.clean → exec (.scrubLine line f) s = .next s) ∧
    (on → ∃ t, exec (.scrubLine line .corrected) s = .next t ∧ t.coaches = s.coaches ∧
      t.eccSeen.head? = some (line, s.tsc) ∧ (again = false → t.repair = s.repair) ∧
      (again = true → used < 4096 → t.repair = s.repair ++ [(dpa, 1)])) ∧
    (on → ∃ t p, exec (.scrubLine line .uncorrectable) s = .next t ∧ t.coaches = s.coaches ∧
      (s.held line = false → t.linePois dpa = true) ∧
      (bits (s.pmWord (homeDie dpa) 0x3F110) 51 0 = 0 → s.held line = true → t.hbmPois dpa = true ∧
        (∀ l, t.linePois l = s.linePois l) ∧ t.cache = s.cache) ∧ p ∈ t.faults ∧ p.level = 80 ∧ p.die = homeDie dpa ∧
      p.body.code = 0x0402#16 ∧ p.body.faddr = word dpa ∧ (used < 4096 → t.repair = s.repair ++ [(dpa, 0)]))) ∧
  (∀ (s : State) (stack tempC corrected mt me : Nat),
    (tempC < 75 → mt = 1) → (75 ≤ tempC → tempC < 85 → mt = 2) → (85 ≤ tempC → tempC < 95 → mt = 4) →
    (95 ≤ tempC → mt = 6) → (corrected = 0 → me = 1) → (1 ≤ corrected → corrected < 16 → me = 2) →
    (16 ≤ corrected → me = 4) → ∃ t, exec (.scrubRateEval stack tempC corrected) s = .next t ∧
      t = { s with dies := t.dies } ∧
      SMap.get (fun _ => 1) (t.die (stack / 2 % 4)).scrubBoost (stack % 2) = Nat.min 12 (mt * me)) ∧
  (∀ (s : State) (cluster slice : Nat) (tva : Word) (kind : AccessKind),
    let w := s.walkWho cluster slice
    let i := Instr.pageWalk cluster slice tva kind
    let mine := s.walks.find? (fun x => x.running && x.isFor cluster slice (tva.toNat / 4096))
    (mine = none → exec i s = .next s) ∧
    ∀ x, mine = some x →
      (x.ue = true → exec i s = .next (s.endWalk x true)) ∧
      (x.ue = false →
        (∀ y e, s.walkNow w tva.toNat 1 kind = .ok y → y.entry = some e → exec i s = .next
          (((s.fillWalkCache w tva.toNat (e.spa * 4096)).settleXlate { y with near := some x.quad, setD := none }).endWalk
            x false)) ∧
        (∀ y, s.walkNow w tva.toNat 1 kind = .ok y → y.entry = none → exec i s = .next (s.endWalk x false)) ∧
        (∀ line, s.walkNow w tva.toNat 1 kind = .error (.line line) → exec i s = .next s) ∧
        (∀ page, s.walkNow w tva.toNat 1 kind = .error (.pull page) →
          exec i s = .next ((s.endWalk x true).startPull w.die w.domain slice page)) ∧
        (∀ c l p, s.walkNow w tva.toNat 1 kind = .error (.fault c l p) → exec i s = .next (s.endWalk x true)))) ∧
  (∀ (s : State) (unit : WatchUnit),
    let die := match unit with
      | .sequencer q => quadDie q
      | .drayStrand d _ => d
      | .walker d => d
      | .linkEngine p => p / 4
    ∃ t p, exec (.watchdogExpiry unit) s = .next t ∧ t.mem = s.mem ∧ p ∈ t.faults ∧ p.level = 80 ∧ p.die = die ∧
      p.body.code = 0x0402#16 ∧
      ∀ q c l, unit = .sequencer q → s.coachHolding q = some c → s.launch? c.tag = some l → l.cause = 0#16 →
        (s.tag c.tag).st = .running → (t.tag c.tag).st = .aborting ∧ ∀ x ∈ t.coaches, x.tag ≠ c.tag)

/-! ## Records, stop points and the known-answer floor -/

/-- R338, R341 and R452: a record goes into the ring of the strand that its route entry names, PROD advances, event 2
latches, and the stopped thread has its handling level; a record whose ring is full waits, and is tried again; the first
fault of a strand 0 is held in BOOTSTAT. What rests on log entries 95, 96, 113 and 119 is the model's reading or
choice. -/
def Obligations.Deliveries : Prop :=
  ∀ (s : State) (id : Nat) (p : PendingRec) (i : Instr),
    (i = .faultDelivery id ∧ s.faults.find? (fun f => f.id == id && !f.waiting) = some p) ∨
      (i = .pendingRecordDelivery id ∧ s.faults.find? (fun f => f.id == id && f.waiting) = some p) →
    (p.level ≤ 80 → p.body.info = false → p.body.code ≠ 0x0A03#16 →
      let key := s.routeFrom p.die p.body p.level
      let e := if key = 81 then p.die * 16 else s.routeEntry p.die key p.body.cls
      let d := if key = 81 then p.die else e / 16 % 4
      let k := e % 8
      let base := s.strandDbase d k
      let prod := s.pmWord d (base + 0x800)
      let level := if key = 81 then 0 else keyLevel key
      e.testBit 14 = false → p.die < 4 →
      (s.ringFits d k = true → prod - s.pmWord d (base + 0x808) ≠ 64#64 → ∃ t, exec i s = .next t ∧ t.mem = s.mem ∧
        (∀ x ∈ t.faults, x.id ≠ id) ∧ t.pmBytes d (base + 32 * (prod.toNat % 64)) 32 = p.body.bytes ∧
        t.pmWord d (base + 0x800) = prod + 1#64 ∧ (t.drayStrand d k).th.latch.getLsbD 2 = true ∧
        ∀ q n st, masterOf (p.body.handle.setWidth 64) = some (.coach q n) → queueOf n = none →
          s.strand? (.coach q n) = some st → st.run = .stopped 3 →
          t.strand? (.coach q n) = some { st with run := .stopped level }) ∧
      (s.ringFits d k = false ∨ prod - s.pmWord d (base + 0x808) = 64#64 → ∃ t, exec i s = .next t ∧
        t = { s with faults := t.faults } ∧ t.faults.length = s.faults.length ∧ ∀ x ∈ t.faults, x.id = id → x.waiting = true)) ∧
    (p.level = 82 → s.boot.state ≠ 5#4 → ∃ t, exec i s = .next t ∧ t = { s with boot := t.boot, faults := t.faults } ∧
      t.boot = { s.boot with state := 5#4, fdie := BitVec.ofNat 2 p.die, fcode := p.body.code } ∧
      ∀ x ∈ t.faults, x.id = id → x.level = 83)

/-- R207, R353, R355, R376 and R377: a coach at its stop point is held; the timers of a request raise its rung; 4 us
after a stop the array freezes; a due known-answer test that passes is remembered, and one that fails quarantines the
quadrant and is reported to level O. What rests on log entries 126 and 161 is the model's reading or choice. -/
def Obligations.StopPoints : Prop :=
  (∀ (s : State) (q : Nat) (c : Coach), s.coach? q = some c →
    let die := quadDie q
    let rung := s.preRung die c.slice
    let u := if 2 ≤ rung ∧ c.phase = .running then
        (s.stopCoach q).updCoach q (fun c => { c with stopAt := c.stopAt.or (some s.tsc) })
      else s
    (∀ d, (s.abandonAll q).coach? q = some d →
      (s.stopCoach q).coach? q = some (if d.unitBlocked then d.withdrawUnit else d)) ∧
    (c.frozen = true → exec (.coachHeld q) s = .next ((s.stopCoach q).settleDie die)) ∧
    (c.frozen = false → s.preState die c.slice = 0 ∨ rung = 0 ∨ c.held.isSome = true →
      exec (.coachHeld q) s = .next (s.settleDie die)) ∧
    (c.frozen = false → s.preState die c.slice ≠ 0 → rung ≠ 0 → c.held = none → ∀ c', u.coach? q = some c' →
      (u.atStop c' = true → ∃ t, exec (.coachHeld q) s = .next t ∧
        t = (u.updCoach q (fun c => c.hold rung u.tsc u.clocks)).settleDie die ∧
        t.coach? q = some (c'.hold rung u.tsc u.clocks) ∧ (c'.hold rung u.tsc u.clocks).held = some rung) ∧
      (u.atStop c' = false → exec (.coachHeld q) s = .next u))) ∧
  (∀ (s : State) (die slice : Nat) (r : PreReq), s.preReq die slice = some r →
    let age := (s.tsc - r.began).toNat / 1000
    (s.preState die slice = 1 → s.preRung die slice < 2 → r.t1 < r.t2 → r.t1 ≤ age → ∃ t,
      exec (.preT1Expiry die slice) s = .next t ∧ t.mem = s.mem ∧ t.coaches = s.coaches ∧ t.preRung die slice = 2) ∧
    (s.preState die slice ≠ 1 ∨ 2 ≤ s.preRung die slice ∨ r.t2 ≤ r.t1 ∨ age < r.t1 →
      exec (.preT1Expiry die slice) s = .next s) ∧
    (s.preState die slice = 1 → s.preRung die slice < 3 → r.t2 ≤ age → ∃ t,
      exec (.preT2Expiry die slice) s = .next t ∧ t.mem = s.mem ∧ t.preRung die slice = 3) ∧
    (s.preState die slice ≠ 1 ∨ 3 ≤ s.preRung die slice ∨ age < r.t2 → exec (.preT2Expiry die slice) s = .next s)) ∧
  (∀ (s : State) (q : Nat) (c : Coach) (stop : Word), s.coach? q = some c → c.stopAt = some stop →
    let due := (s.halting c = true ∨ c.frozen = true) ∧ c.matStill = false ∧ 4000 ≤ (s.tsc - stop).toNat
    (due → ∃ t, exec (.mmaBoundaryTimeout q) s = .next t ∧ t.coach? q = some { c with froze := true } ∧
      (s.halting c = true → bit (t.pmWord (quadDie q) (0x3FC00 + 16 * c.slice)) 8 = true) ∧
      (s.halting c = false → t = { s with coaches := t.coaches })) ∧
    (¬due → exec (.mmaBoundaryTimeout q) s = .next s)) ∧
  (∀ (s : State) (q late : Nat) (defect : Bool) (i : Instr), s.katLate q = some late → s.boot.halted = false →
    (i = .katFloorTest q defect ∧ s.matrixBusy q = false) ∨ (i = .katFloorFreeze q defect ∧ 1000000 ≤ late) →
    let die := quadDie q
    let e := s.katEntry die (s.die die).katNext
    let pass := !defect && (s.quad q).defect == 0#64 && katChecksum (s.die die).katFamily e.1 == e.2
    (pass = true → ∃ t, exec i s = .next t ∧ t = { s with dies := t.dies, quads := t.quads } ∧
      t.quad q = { s.quad q with lastKat := s.tsc, mustPass := false } ∧ (∀ p, p ≠ q → t.quad p = s.quad p) ∧
      (t.die die).katNext = ((s.die die).katNext + 1) % 16) ∧
    (pass = false → ∃ t p, exec i s = .next t ∧ (t.quad q).quarantined = true ∧ p ∈ t.faults ∧ p.level = 80 ∧
      p.die = die ∧ p.body.code = 0x0403#16))

/-- R209, R210, R211, R223, R225 and R233: a copy command starts when nothing earlier is in its way; a beat goes on or the next
one is issued, when its core has room for one more; a performed beat is acknowledged, and a finished command retires. What rests on log entries 53, 58, 62
and 145 is the model's reading or choice. -/
def Obligations.CopyQueue : Prop :=
  ∀ (s : State) (q : Nat) (c : Coach), s.coach? q = some c →
    (∀ o, c.copyq.find? (fun o => !o.started) = some o →
      let blocked := s.quiet c || c.copyPark.isSome || c.copyFrozen || c.blocked o.seq o.extents || s.l2sClash c o ||
        c.hashBefore o || c.copyq.any (fun p => decide (p.seq < o.seq) && decide (p.pos < p.total))
      (blocked = true → exec (.copyCommandStart q) s = .next s) ∧
      (blocked = false → ∃ t c', exec (.copyCommandStart q) s = .next t ∧ t = { s with coaches := t.coaches } ∧
        t.coach? q = some c' ∧ c'.copyq.length = c.copyq.length ∧ (∀ p ∈ c'.copyq, p.seq = o.seq → p.started = true) ∧
        (o.isHash = false → c'.hashL = c.hashL ∧ c'.hashS = c.hashS))) ∧
    (c.copyFrozen = false → s.boot.halted = false →
      let beats := c.copyq.flatMap (fun o => o.beats.map (fun b => (o, b)))
      (∀ t, s.firstBeat c beats = .moved t → exec (.beatIssue q) s = .next t) ∧
      (∀ o t, s.firstBeat c beats = .stuck → s.quiet c = false → c.copyPark = none → s.beatRoom c = true →
        c.issuing = some o → s.newBeat c o = .moved t → exec (.beatIssue q) s = .next t) ∧
      (s.firstBeat c beats = .stuck → s.quiet c = true ∨ c.copyPark.isSome = true ∨ s.beatRoom c = false ∨ c.issuing = none →
        exec (.beatIssue q) s = .next s)) ∧
    (∀ o b, s.ackReady c = some (o, b) → exec (.beatAck q) s = .next (s.ackBeat c o b)) ∧
    (s.ackReady c = none →
      (∀ o b, c.passable = some (o, b) → exec (.beatAck q) s = .next (s.passBeat c o b)) ∧
      (c.passable = none →
        let open_ := c.copyPark.isSome = false ∧ c.copyFrozen = false
        (∀ o b, open_ → s.failing c = some (o, b) → exec (.beatAck q) s = .next (s.copyFault c o b)) ∧
        (¬open_ ∨ s.failing c = none →
          (∀ o m, c.following = some (o, m) → exec (.beatAck q) s = .next (s.followOn c o m)) ∧
          (∀ o, c.following = none → c.retiring = some o → ∃ t, exec (.beatAck q) s = .next t ∧ t.mem = s.mem ∧
            t.coach? q = some (c.retireCopy o)) ∧
          (c.following = none → c.retiring = none → exec (.beatAck q) s = .next s))))

/-! ## Links and requests of other parts -/

/-- R406 to R409, R411 to R413, R415, R418: a frame of the link gives back the flit that it was made of, and one whose
CRC fails is discarded; sequenced flits are taken in order, and one out of order is answered by one NAK and has no
other effect; an ACK frees replay entries; a port without progress retrains, comes up again with its replay, or goes
down; owed credits go out; held requests are discarded; an output's slot sends its circuit's oldest row; a repeated
credit report changes nothing. What rests on log entries 52, 84, 109, 150, 151 and 162 is the model's reading or
choice. -/
def Obligations.Links : Prop :=
  (∀ (s : State) (p : Nat) (fl : Flit) (i : Instr),
    i = .idleFlit p fl ∨ i = .reservedFlit p fl ∨ i = .rowFlit p fl ∨
      (p < 32 ∧ (i = .cqcredFlit p fl ∨ i = .cqcloseFlit p fl)) →
    (s.portState p ≠ 2 → exec i s = .next s) ∧
    (s.portState p = 2 → fl.seq ≠ (s.port p).rxSeq →
      ((s.port p).nakOpen = true → exec i s = .next s) ∧
      ((s.port p).nakOpen = false → ∃ t f, exec i s = .next t ∧ t = { s with ports := t.ports } ∧
        (t.port p).nakOpen = true ∧ (t.port p).rxSeq = (s.port p).rxSeq ∧ (t.port p).out = (s.port p).out ++ [f] ∧
        f.ty = 1#6 ∧ f.ack = (s.port p).rxSeq - 1#12 ∧ bit f.h1 0 = true)) ∧
    (s.portState p = 2 → fl.seq = (s.port p).rxSeq → ∃ t, exec i s = .next t ∧ t.mem = s.mem ∧
      (t.port p).rxSeq = (s.port p).rxSeq + 1#12 ∧ (t.port p).nakOpen = false)) ∧
  (∀ (s : State) (p : Nat) (fl : Flit),
    (∀ bad, s.portState p = 2 → exec (.flitDiscard p bad) s = .next ((if bad then s.countErr p else s).nak p)) ∧
    (∀ bad, s.portState p ≠ 2 → exec (.flitDiscard p bad) s = .next s) ∧
    (s.portState p ≠ 2 → exec (.lackFlit p fl) s = .next s) ∧
    (∀ r1 f r2, s.portState p = 2 → bit fl.h1 0 = false → (s.port p).replay = r1 ++ f :: r2 → f.seq = fl.ack →
      (∀ x ∈ r1, x.seq ≠ fl.ack) → ∃ t, exec (.lackFlit p fl) s = .next t ∧ t = { s with ports := t.ports } ∧
        r2 <+: (t.port p).replay ∧ (s.port p).out <+: (t.port p).out) ∧
    (32 ≤ p → exec (.cqcredFlit p fl) s = .next (s.report fl) ∧ exec (.cqcloseFlit p fl) s = .next (s.report fl)) ∧
    (let circ := BitVec.ofNat 16 (bits fl.h1 63 48)
     s.endpsOn false circ = [] → s.endpsOn true circ = [] → (circ.toNat, fl) ∈ (s.report fl).heldCq)) ∧
  (∀ (p : Nat) (fl : Flit) (f : BitVec 2240), flitOfFrame (frameOf fl) = some fl ∧
    Input.instr (.frame p (frameOf fl)) = Input.instr (.flit p fl) ∧
    (f.extractLsb' 2176 64 ≠ crc64 (bodyBytes (f.extractLsb' 0 2176)) →
      Input.instr (.frame p f) = some (.flitDiscard p true))) ∧
  (∀ (e : Endpoint) (next taken : BitVec 32), (e.credit next taken).credit next taken = e.credit next taken) ∧
  (∀ (s : State) (p : Nat),
    let idle := (s.tsc - (s.port p).progress).toNat
    let retrains := fun (i : Instr) => ∃ t, exec i s = .next t ∧ t.mem = s.mem ∧ t.coaches = s.coaches ∧ t.portState p = 1 ∧
      (t.port p).progress = s.tsc ∧ (t.port p).replay = (s.port p).replay
    retrains (.retrainWrite p) ∧
    (s.portState p = 2 → (s.port p).replay ≠ [] → 10000 ≤ idle → retrains (.ackProgressTimeout p)) ∧
    (s.portState p ≠ 2 ∨ (s.port p).replay = [] ∨ idle < 10000 → exec (.ackProgressTimeout p) s = .next s) ∧
    (p < 16 → s.portState p ≠ 2 → ∃ t, exec (.retrainDone p) s = .next t ∧ t.coaches = s.coaches ∧ t.portState p = 2 ∧
      (t.port p).nakOpen = false ∧ (s.port p).out ++ (s.port p).replay <+: (t.port p).out) ∧
    (s.portState p = 1 → 1000000 ≤ idle → ∃ t, exec (.retrainTimeout p) s = .next t ∧ t.mem = s.mem ∧ t.portState p = 0 ∧
      (t.port p).replay = [] ∧ (t.port p).queue = []) ∧
    (s.portState p ≠ 1 ∨ idle < 1000000 → exec (.retrainTimeout p) s = .next s) ∧
    ((s.port p).owed = [] → exec (.creditReturnTimeout p) s = .next s) ∧
    ((s.port p).owed ≠ [] → s.portState p = 2 → (s.port p).replay.length < 512 → ∃ t f,
      exec (.creditReturnTimeout p) s = .next t ∧ t = { s with ports := t.ports } ∧
      (t.port p).out = (s.port p).out ++ [f] ∧ (t.port p).replay = (s.port p).replay ++ [f] ∧ f.ty = 0#6 ∧
      f.seq = (s.port p).txSeq) ∧
    (∃ t, exec (.flitHoldTimeout p) s = .next t ∧ t = { s with ports := t.ports } ∧ ∀ e, e ∈ (t.port p).queue ↔
      e ∈ (s.port p).queue ∧ ¬(3 ≤ e.2.ty.toNat ∧ e.2.ty.toNat ≤ 10 ∧ 10000 ≤ (s.tsc - e.1).toNat))) ∧
  (∀ (s : State) (die table slot : Nat),
    let e := s.slotEntry die table slot
    let p := 4 * die + table
    let mine := fun (r : Nat × Nat × Word × Flit) =>
      r.1 == table && r.2.1 == slotIn e && bits r.2.2.2.h1 63 48 == slotCirc e
    (∀ r ∈ (s.die die).rows, (s.tsc - r.2.2.1).toNat ≤ 320) →
    (∀ r, (s.die die).rows.find? mine = some r → slotV e = true → table < 4 → s.portState p = 2 →
      (s.port p).replay.length < 512 → ∃ t f, exec (.circuitSlot die table slot) s = .next t ∧ t.mem = s.mem ∧
        t.coaches = s.coaches ∧ (t.die die).rows = (s.die die).rows.eraseP mine ∧
        (t.port p).out = (s.port p).out ++ [f] ∧ f.payload = r.2.2.2.payload ∧ f.h1 = r.2.2.2.h1) ∧
    ((s.die die).rows.find? mine = none → ∃ t, exec (.circuitSlot die table slot) s = .next t ∧
      t = { s with dies := t.dies } ∧ ∀ d, t.die d = s.die d))

/-- R291 and R426 to R430: a request of another part that its grant or its translation refuses is answered by a NACK with
the status, one that meets a page on its way or bytes that are pending waits, and one that passes is performed and
answered; an atomic that was answered before gets its stored reply. A reply ends its request with data or a fault;
unanswered requests are sent again, and given up after 260 us. What rests on log entries 22, 23, 24, 30 and 110 is the
model's reading or choice. -/
def Obligations.RemoteRequests : Prop :=
  (∀ (s u : State) (p : Nat) (fl : Flit), s.Receives p fl u →
    let die := portDie p
    let through := fun (g : Grant) (kind : AccessKind) (n : Nat) (is : List Nat) =>
      let w : Who := { die := die, cluster := 32 + die, slice := g.slice, domain := g.domain, plain := false }
      u.linesThrough w g.spa n kind is
    let inHbm := fun (xs : List (Nat × Xlate)) => ∀ x ∈ xs, apertureOf x.2.dpa = .hbm
    let pends := fun (v : State) (xs : List (Nat × Xlate)) =>
      xs.any (fun x => !x.2.memSide && v.pendingLine none (x.2.dpa / 64))
    (∀ r ∈ [(Instr.readFlit p fl, AccessKind.read, askLines fl), (Instr.writeFlit p fl, AccessKind.write, askLines fl),
        (Instr.writepFlit p fl, AccessKind.write, [0])],
      (∀ st, u.grantOf die fl r.2.1 = .error (st, none) → exec r.1 s = .next (u.nackAsk p fl st)) ∧
      (∀ st i, u.grantOf die fl r.2.1 = .error (st, some i) → exec r.1 s = .next ((u.countDrop i).nackAsk p fl st)) ∧
      ∀ g, u.grantOf die fl r.2.1 = .ok g →
        (through g r.2.1 64 r.2.2 = .fault → exec r.1 s = .next (u.nackAsk p fl 5)) ∧
        ∀ v, through g r.2.1 64 r.2.2 = .page v → exec r.1 s = .next (v.holdAsk p fl)) ∧
    (∀ g v xs, u.grantOf die fl .read = .ok g → through g .read 64 (askLines fl) = .ok v xs → inHbm xs →
      (pends v xs = true → exec (.readFlit p fl) s = .next (v.holdAsk p fl)) ∧
      (pends v xs = false →
        let r := xs.foldl readPart (v, begunFlit fl)
        r.1.askOut p r.2 = false → exec (.readFlit p fl) s = .next ((r.1.finishAsk p r.2).watchAsk g.slice fl .read
          (xs.map (fun x => (x.2.dpa / 64, -1#64)))))) ∧
    (∀ r ∈ [(Instr.writeFlit p fl, askLines fl, -1#64), (Instr.writepFlit p fl, [0], askMask fl)], ∀ g v xs,
      u.grantOf die fl .write = .ok g → through g .write 64 r.2.1 = .ok v xs → inHbm xs →
      let w := xs.foldl (writePart fl r.2.2) v
      w.askOut p (begunFlit fl) = false → ∃ t, exec r.1 s = .next t ∧
        t = (w.finishAsk p (begunFlit fl)).watchAsk g.slice fl .write (xs.map (fun x => (x.2.dpa / 64, r.2.2))) ∧
        ∀ n x, xs = [(n, x)] → x.memSide = false → ∀ a, a / 64 = x.dpa / 64 →
          t.byteAt a = if r.2.2.getLsbD (a % 64) then lineByte (askData fl n) (a % 64) else v.byteAt a) ∧
    (let i := Instr.atomicFlit p fl
     let stored := u.dupsOf fl.src.toNat
     (∀ e, stored.find? (fun e => e.tag == askTag fl) = some e →
        exec i s = .next ((u.sendFlit die e.reply).consumed p fl)) ∧
      (stored.find? (fun e => e.tag == askTag fl) = none →
        (flitField fl 18 2 ≠ u.epoch.toNat → exec i s = .next (u.nackAsk p fl 6)) ∧
        (flitField fl 18 2 = u.epoch.toNat → u.atomInside fl = true → exec i s = .next (u.consumed p fl)) ∧
        (flitField fl 18 2 = u.epoch.toNat → u.atomInside fl = false →
          (askAtom fl = none → exec i s = .next (u.nackAsk p fl 8)) ∧
          ∀ a, askAtom fl = some a →
            (1024 ≤ stored.length → exec i s = .next (u.nackAsk p fl 7)) ∧
            ∀ g v n x, stored.length < 1024 → u.grantOf die fl .atomic = .ok g →
              through g .atomic a.bytes [0] = .ok v [(n, x)] → apertureOf x.dpa = .hbm → pends v [(n, x)] = false →
              exec i s = .next ((atomPart v p fl a x).watchAsk g.slice fl .atomic
                [(x.dpa / 64, lineMask (x.dpa % 64) a.bytes)]))))) ∧
  (∀ (s u : State) (p : Nat) (fl : Flit), s.Receives p fl u →
    let epoch := BitVec.ofNat 16 (bits fl.h1 31 16)
    let w := { u with known := SMap.put (fun _ => 0#16) u.known fl.src.toNat epoch }.consumed p fl
    let status := bits fl.h1 47 40
    let found := fun (ok : RemoteReq → Bool) =>
      w.remote.find? (fun r => r.tag == askTag fl && r.fl.dst == fl.src && ok r)
    (∀ i ok, (i, ok) ∈ [(Instr.readrspFlit p fl, fun (r : RemoteReq) => r.fl.ty == 3#6),
        (.wrackFlit p fl, fun r => r.fl.ty == 4#6 || r.fl.ty == 5#6), (.atomrspFlit p fl, fun r => r.fl.ty == 6#6),
        (.nackFlit p fl, fun _ => true)] → found ok = none → exec i s = .next w) ∧
    (∀ r, found (fun r => r.fl.ty == 3#6) = some r →
      let pois := (List.range 4).any (fun i =>
        bit fl.h1 (32 + i) && decide (r.off < 64 * i + 64) && decide (64 * i < r.off + r.len))
      exec (.readrspFlit p fl) s =
        .next ((w.dropRemote r.tag).giveAsker r.who r.tva (flitBytes fl r.off r.len) pois)) ∧
    (∀ r, found (fun r => r.fl.ty == 4#6 || r.fl.ty == 5#6) = some r →
      exec (.wrackFlit p fl) s = .next ((w.dropRemote r.tag).giveAsker r.who r.tva [] false)) ∧
    (∀ r, found (fun r => r.fl.ty == 6#6) = some r → exec (.atomrspFlit p fl) s =
      .next ((w.dropRemote r.tag).giveAsker r.who r.tva (flitBytes fl 0 r.len) (bit fl.h1 32))) ∧
    (∀ r, found (fun _ => true) = some r →
      (status = 7 → ∃ t, exec (.nackFlit p fl) s = .next t ∧ t = { w with remote := t.remote } ∧
        ∀ x ∈ t.remote, x.tag = r.tag → x.full = true ∧ x.last = w.tsc) ∧
      (status = 6 → r.fl.ty = 6#6 → r.resent = true →
        exec (.nackFlit p fl) s = .next ((w.dropRemote r.tag).failAsker r.who 0x0704 r.tva 0#64)) ∧
      (status = 6 → r.fl.ty = 6#6 → r.resent = false → exec (.nackFlit p fl) s = .next (w.sendAfresh r)) ∧
      (status ≠ 7 → status ≠ 6 ∨ r.fl.ty ≠ 6#6 → exec (.nackFlit p fl) s =
        .next ((w.dropRemote r.tag).failAsker r.who 0x0703 r.tva (word (status * 2 ^ 40)))))) ∧
  (∀ (s : State) (tag : Nat) (r : RemoteReq), s.remote.find? (fun r => r.tag == tag) = some r →
    let late := (s.tsc - r.last).toNat
    let old := (s.tsc - r.first).toNat
    (20000 ≤ late → old ≤ 100000 → exec (.requestResend tag) s = .next (s.resend r)) ∧
    (late < 20000 ∨ 100000 < old → exec (.requestResend tag) s = .next s) ∧
    (r.full = true → 1000 ≤ late → old ≤ 100000 → exec (.duplicateFullResend tag) s = .next (s.resend r)) ∧
    (r.full = false ∨ late < 1000 ∨ 100000 < old → exec (.duplicateFullResend tag) s = .next s) ∧
    (260000 ≤ old → exec (.remoteGiveUp tag) s = .next ((s.dropRemote tag).failAsker r.who
      (if r.fl.ty = 6#6 then 0x0704 else 0x0701) r.tva 0#64)) ∧
    (old < 260000 → exec (.remoteGiveUp tag) s = .next s)) ∧
  (∀ (s : State) (node tag : Nat), ∃ t, exec (.duplicateEntryExpiry node tag) s = .next t ∧ t = { s with dups := t.dups } ∧
    ∀ e, e ∈ t.dups ↔ e ∈ s.dups ∧ ¬(e.node = node ∧ e.tag = tag ∧ 200000 ≤ (s.tsc - e.at_).toNat)) ∧
  (∀ (s : State) (quad q : Nat) (c : Coach) (start : Word), s.coach? quad = some c → (c.endp q).waitFrom = some start →
    let waited := ((c.endp q).waited + (s.tsc - start)).toNat
    let limit := s.cqTimeoutMs (quadDie quad) c.slice * 1000000
    (waited < limit → exec (.cqTimeout quad q) s = .next s) ∧
    (limit ≤ waited → (c.endp q).bound = true → (c.endp q).broken = false → ∃ t, exec (.cqTimeout quad q) s = .next t ∧
      t.mem = s.mem ∧ t.coach? quad =
        some (c.setEndp q { c.endp q with broken := true, downOp := none, waitFrom := none, waited := 0#64 })))

/-! ## The host, the loader and migration -/

/-- R434 to R440 and R451: what a read and a write of the host come to, by target and function; a completion or a PXDONE
gives its bytes to whoever asked; an access that the windows fail freezes its function; 10 ms without one end the request; FRCONS moves a ring's consumer. What rests on log
entries 25, 35, 114, 115, 116, 117 and 160 is the model's reading or choice. -/
def Obligations.HostRequests : Prop :=
  (∀ (s : State) (fn off len : Nat) (data : BitVec 512),
    let read := Instr.hostRead fn off len
    let write := Instr.hostWrite fn off len data
    let bytes := bytesOfNat len data.toNat
    let there := s.hostUp = true ∧ s.fnThere fn = true
    (s.boot.halted = true → exec read s = .next s ∧ exec write s = .next s) ∧
    (s.boot.halted = false →
      (∀ o, hostTarget off = .mgmt o →
        exec read s = s.complete0 fn .success ((List.range len).map (fun i => s.mgmtByte fn (o + i))) false ∧
        (fn ≠ 0 → exec write s = .next s) ∧
        (fn = 0 → exec write s =
          .next ((dwordsOf o len).foldl (fun s d => s.putMgmt (d / 8) (dwordPart o bytes d)) s))) ∧
      ((∀ o, hostTarget off ≠ .mgmt o) →
        (¬there → exec read s = s.complete0 fn .unsupported [] false ∧ exec write s = .next s) ∧
        (there → (s.fn fn).frozen = true → exec read s = s.complete0 fn .abort [] false ∧ exec write s = .next s) ∧
        (there → (s.fn fn).frozen = false → s.hostBehind fn = true → exec read s = .next (s.holdHost (.hostRead fn off len)) ∧
          exec write s = .next (s.holdHost (.hostWrite fn off len data))) ∧
        (there → (s.fn fn).frozen = false → s.hostBehind fn = false →
          (∀ o, hostTarget off = .bar o → o < 0x1000 →
            exec read s = s.complete0 fn .success ((List.range len).map (fun k => s.barByte fn (o + k))) false ∧
            exec write s = .next ((dwordsOf o len).foldl (fun s d => s.putFnWord fn (d / 8) (dwordPart o bytes d)) s)) ∧
          (∀ o q, hostTarget off = .bar o → doorbellOf o len = some q → exec write s = exec (.doorbell fn q) s) ∧
          (∀ spa place v xs, hostTarget off = .memory spa → s.fnPlace fn = some place → s.migState place.1 ≠ 1 →
            (∀ x ∈ xs, apertureOf x.2.2.dpa = .hbm) →
            (s.hostReach (hostWho place) .read (linePieces spa len) = .ok v xs →
              xs.any (fun x => !x.2.2.memSide && v.pendingLine none (x.2.2.dpa / 64)) = false →
              let r := xs.foldl hostRead1 (v, [], false)
              exec read s = r.1.complete0 fn .success r.2.1 r.2.2) ∧
            (s.hostReach (hostWho place) .read (linePieces spa len) = .barred →
              exec read s = (s.freezeFn fn).complete0 fn .abort [] false) ∧
            (s.hostReach (hostWho place) .write (linePieces spa len) = .barred → exec write s = .next (s.freezeFn fn)) ∧
            (s.hostReach (hostWho place) .write (linePieces spa len) = .ok v xs →
              exec write s = .next (xs.foldl (hostWrite1 spa bytes) v))))))) ∧
  (∀ (s : State) (id : Nat) (r : HostReq) (data : BitVec 512), s.hostReqs.find? (fun r => r.id == id) = some r →
    let t := s.dropHost id
    let ended := exec (.completionTimeout id) s
    (r.op ≠ 254 → exec (.hostCompletion id .success data) s =
      .next ((t.flushed r.who).giveAsker r.who r.tva (bytesOfNat r.bytes data.toNat) false)) ∧
    (r.op = 254 → exec (.hostCompletion id .success data) s =
      .next { t with agenda := .pxdone r.operand.toNat (data.setWidth 64) :: t.agenda }) ∧
    exec (.hostCompletion id .unsupported data) s = .next (t.hostRefused r 1#64) ∧
    exec (.hostCompletion id .abort data) s = .next (t.hostRefused r 4#64) ∧
    ((s.tsc - r.since).toNat < 10000000 → ended = .next s) ∧
    (10000000 ≤ (s.tsc - r.since).toNat → r.op ≠ 254 → ended = .next (t.hostLost r.who r.tva).pumpProxies)) ∧
  (∀ (s : State) (index : Nat) (w2 : Word) (p : HostReq),
    (s.proxies.find? (fun p => p.written && p.id == index) = some p → exec (.pxdone index w2) s =
      .next ({ s with proxies := s.proxies.filter (fun x => !(x.written && x.id == index)) }.giveAsker p.who p.tva
        (bytesOfNat p.bytes w2.toNat) false).pumpProxies) ∧
    (s.proxies.find? (fun p => p.id == index && p.policy) = some p →
      ((s.tsc - p.since).toNat < 10000000 → exec (.proxyTimeout index) s = .next s) ∧
      (10000000 ≤ (s.tsc - p.since).toNat → exec (.proxyTimeout index) s =
        .next ({ s with proxies := s.proxies.filter (fun x => x.id != index) }.hostLost p.who p.tva).pumpProxies))) ∧
  (∀ (s : State) (fn : Nat) (n : BitVec 32), ∃ t, exec (.frcons fn n) s = .next t ∧ t = { s with fns := t.fns } ∧
    t.fn fn = { s.fn fn with cons := n } ∧ ∀ f, f ≠ fn → t.fn f = s.fn f)

/-- R392 to R396, R441, R444 and R446 to R448: a load request starts and ends; a migration command changes STATE or is
refused with its ERR; a page is served or refused by its source, and arrives chunk by chunk; the loss of a source leaves
the slice in state 3. What rests on log entries 7, 26, 118, 120 and 121 is the model's reading or choice. -/
def Obligations.LoadsAndMigration : Prop :=
  (∀ (s : State) (die slice : Nat),
    let a := 0x3B600 + 32 * slice
    (s.loads.any (fun l => l.die == die && l.slice == slice) = false → ∃ t l, exec (.loadRequest die slice) s = .next t ∧
      t = { s with loads := s.loads ++ [l] } ∧ l.die = die ∧ l.slice = slice ∧
      l.chain = bits (s.pmWord die a) 55 0 ∧ l.out = bits (s.pmWord die (a + 8)) 55 0 ∧
      l.max = bits (s.pmWord die (a + 16)) 31 0) ∧
    (s.loads.any (fun l => l.die == die && l.slice == slice) = true → exec (.loadRequest die slice) s = .next s) ∧
    (∀ l, s.loads.find? (fun l => l.die == die && l.slice == slice) = some l →
      let w := s.hwWho die slice
      let done := fun (t : State) (err idx len : Nat) => t.loads = s.loads.filter (fun x => x.die != die || x.slice != slice) ∧
        bit (t.pmWord die a) 63 = false ∧ bit (t.pmWord die a) 62 = false ∧ bits (t.pmWord die (a + 24)) 63 48 = err ∧
        bits (t.pmWord die (a + 24)) 47 32 = idx ∧ bits (t.pmWord die (a + 16)) 63 32 = len
      (l.chain = 0 → l.max < 64 → ∃ t, exec (.loadDone die slice) s = .next t ∧ t.mem = s.mem ∧ done t errSpace 0 64) ∧
      (l.chain = 0 → 64 ≤ l.max → exec (.loadDone die slice) s = .next (s.putOutput l w (s.capabilityList slice))) ∧
      (∀ v code idx, l.chain ≠ 0 → s.readChain w (s.features slice) l.chain 65537 0 {} [] = .err v code idx →
        exec (.loadDone die slice) s = .next (v.finishLoad l code idx 0)) ∧
      (∀ v r bs, l.chain ≠ 0 → s.readChain w (s.features slice) l.chain 65537 0 {} [] = .ok v r bs →
        let digest := natOfBytes (bs ++ bytesOf8 (v.features slice))
        codeTotal digest ≤ 8192 → exec (.loadDone die slice) s = .next (v.putOutput l w (r.image digest))))) ∧
  (∀ (s : State) (slice : Nat),
    let st := s.migState slice
    (st ≠ 0 → exec (.migrationExport slice) s = .next (s.setMigErr slice 1)) ∧
    (st = 0 → s.exportBusy slice = true → exec (.migrationExport slice) s = .next (s.setMigErr slice 2)) ∧
    (st = 0 → s.exportBusy slice = false → s.imageWritable slice = false →
      exec (.migrationExport slice) s = .next (s.setMigErr slice 3)) ∧
    (st = 0 → s.exportBusy slice = false → s.imageWritable slice = true → ∃ t,
      exec (.migrationExport slice) s = .next t ∧ t.migState slice = 1 ∧ ∀ c ∈ t.coaches, c.slice ≠ slice) ∧
    (let u := s.setMigCmd slice 0
     (u.migState slice ≠ 0 → exec (.migrationImport slice) s = .next (u.setMigErr slice 1)) ∧
     (u.migState slice = 0 →
      (∀ v, u.getImage slice migPieces = .later v → exec (.migrationImport slice) s = .next (v.setMigCmd slice 2)) ∧
      (∀ c a p, u.getImage slice migPieces = .fault c a p → exec (.migrationImport slice) s = .next (u.setMigErr slice 3)) ∧
      (∀ v bs, u.getImage slice migPieces = .ok v bs → exec (.migrationImport slice) s = .next (v.importFrom slice bs)))) ∧
    (st = 1 → ∃ t, exec (.migrationRelease slice) s = .next t ∧ t.migState slice = 0 ∧ t.mem = s.mem) ∧
    (st ≠ 1 → exec (.migrationRelease slice) s = .next (s.setMigErr slice 1)) ∧
    (st = 3 ∨ (st = 2 ∧ s.migRpend slice = 0) → ∃ t, exec (.migrationClear slice) s = .next t ∧ t.migState slice = 0 ∧
      t.mem = s.mem) ∧
    (st ≠ 3 → st ≠ 2 ∨ s.migRpend slice ≠ 0 → exec (.migrationClear slice) s = .next (s.setMigErr slice 1)) ∧
    (∀ p, s.pulls.find? (fun p => p.slice == slice && s.pullLate p) = some p → ∃ t,
      exec (.migrationLoss slice) s = .next t ∧ t.migState slice = 3 ∧ ∀ x ∈ t.pulls, x.slice ≠ slice) ∧
    (s.pulls.find? (fun p => p.slice == slice && s.pullLate p) = none → exec (.migrationLoss slice) s = .next s)) ∧
  (∀ (s : State) (n : Nat) (p : Pull), s.pulls[n]? = some p →
    ((s.tsc - p.last).toNat < 1000000 → exec (.pullResend n) s = .next s) ∧
    (1000000 ≤ (s.tsc - p.last).toNat → ∃ t, exec (.pullResend n) s = .next t ∧ t.mem = s.mem ∧ t.coaches = s.coaches ∧
      ∀ x ∈ t.pulls, x.domain = p.domain → x.page = p.page → x.last = s.tsc)) ∧
  (∀ (s u : State) (p : Nat) (fl : Flit), s.Receives p fl u →
    let die := portDie p
    let v := u.consumed p fl
    (∀ f, u.pulledPage (u.migDie (migSlice fl)) (migSlice fl) (migPage fl) = some f → exec (.pullFlit p fl) s =
      .next (((List.range 16).foldl (fun t i => t.sendFlit die (u.pageChunk die fl f i)) u).consumed p fl)) ∧
    (u.pulledPage (u.migDie (migSlice fl)) (migSlice fl) (migPage fl) = none → exec (.pullFlit p fl) s =
      .next ((u.sendFlit die (mkFlit 13 4 fl.domain.toNat (u.node die) fl.src.toNat
        (migHead 3 (migSlice fl) (migPage fl) 0) [])).consumed p fl)) ∧
    (v.pullOf fl = none → exec (.pageFlit p fl) s = .next v ∧ exec (.refuseFlit p fl) s = .next v) ∧
    (∀ l, v.pullOf fl = some l →
      exec (.refuseFlit p fl) s = .next (v.finishPull l (fun s f => s.poisonPage f.out)) ∧
      ((l.take fl).got = 0xFFFF#16 →
        exec (.pageFlit p fl) s = .next (v.finishPull (l.take fl) (fun s f => s.writePage f (l.take fl)))) ∧
      ((l.take fl).got ≠ 0xFFFF#16 → ∃ t, exec (.pageFlit p fl) s = .next t ∧ t = { v with pulls := t.pulls } ∧
        l.take fl ∈ t.pulls)))

/-! ## Control structures, energy and reset -/

/-- R266, R270, R276, R281 and R470: a write of a control structure that its level does not own violates a window; others
take effect; the way word and an allotment are checked, and a refused one sets BAD. What rests on log entries 71, 72 and
77 is the model's reading or choice. -/
def Obligations.ControlWrites : Prop :=
  (∀ (s : State) (w : CtlWrite) (i : Instr),
    i ∈ [Instr.cocoonBlockWrite w, .weightBlockWrite w, .routeBlockWrite w, .sliceBlockWrite w, .strandTableWrite w,
      .watchpointWrite w, .controlStructureWrite w] →
    let own := s.ctlWritable w.die w.level w.served (ctlWord w.addr)
    let r := s.pmStoreAt w.die w.level w.served w.addr (bytesOfNat w.bytes w.val.toNat)
    (own = false → exec i s =
      .next (s.takeOpen s.cur 0x0121 (some (word w.addr)) (some (word (7 * 2 ^ 61))) s.me.pc)) ∧
    (∀ t, own = true → r = .ok t → exec i s = .next t) ∧
    (∀ c fa fp, own = true → r = .fault c fa fp → exec i s = .next (s.takeOpen s.cur c fa fp s.me.pc))) ∧
  (∀ (s : State) (die level served a : Nat) (v : Word), a % 8 = 0 → a < 0x39000 →
    ∃ t, s.pmStoreAt die level served a (bytesOf8 v) = .ok t ∧ t.pmWord die a = v ∧ t.mem = s.mem ∧
      ∀ b, b < a ∨ a + 8 ≤ b → t.pmByte die b = s.pmByte die b) ∧
  (∀ (s : State) (die : Nat) (v : Word),
    let old := s.pmWord die 0x3F100
    let c := bits v 3 0
    let g := bits v 7 4
    let fits := (List.range 64).all (fun i => allotFits (s.allotBase die i) (s.allotLen die i) g)
    let good := 1 ≤ c ∧ c ≤ 8 ∧ g ≤ 8 ∧ c + g ≤ 12 ∧ bit old 8 = false ∧ fits = true
    let moves := wayMoves (bits old 3 0) (bits old 7 4) c g
    ∃ t, exec (.memoryWayWrite die v) s = .next t ∧ t = { s with dies := t.dies } ∧
      (good → bits (t.pmWord die 0x3F100) 3 0 = c ∧ bits (t.pmWord die 0x3F100) 7 4 = g ∧ (t.die die).moves = moves ∧
        (moves ≠ [] → bit (t.pmWord die 0x3F100) 8 = true)) ∧
      (¬good → bit (t.pmWord die 0x3F100) 9 = true ∧ (t.die die).moves = (s.die die).moves ∧
        bits (t.pmWord die 0x3F100) 7 0 = bits old 7 0)) ∧
  (∀ (s : State) (die slice : Nat) (v : Word), slice < 64 →
    let base := bits v 5 0
    let len := bits v 13 8
    let g := bits (s.pmWord die 0x3F100) 7 4
    let clash := (List.range 64).any (fun j => j != slice && allotClash base len (s.allotBase die j) (s.allotLen die j))
    ∃ t, exec (.allotmentWrite die slice v) s = .next t ∧ t.mem = s.mem ∧ t.coaches = s.coaches ∧
      (len = 0 ∨ base + len ≤ 4 * g → clash = false → t.allotBase die slice = base ∧ t.allotLen die slice = len ∧
        ∀ k, k < len → SMap.get zeroNat (t.die die).holder (base + k) = slice + 1) ∧
      ((len ≠ 0 ∧ 4 * g < base + len) ∨ clash = true → bit (t.pmWord die 0x3F100) 9 = true ∧
        t.allotBase die slice = s.allotBase die slice ∧ t.allotLen die slice = s.allotLen die slice)) ∧
  (∀ (s : State) (die : Nat) (v : Word),
    let sector := bits v 51 0 / 64 * 64
    let used := (s.repair.filter (fun r => homeDie r.1 == homeDie sector && homeSlice r.1 == homeSlice sector)).length
    ∃ t, exec (.repadd die v) s = .next t ∧ t.coaches = s.coaches ∧
      (apertureOf sector = .hbm → s.repair.any (fun r => r.1 == sector) = false → used < 4096 →
        t.repair = s.repair ++ [(sector, 2)]))

/-- R449, R450, R453, R454 and R456: what a cold and a warm reset leave, the attestation report, the clock after a
reading, and the charges and refills of energy accounts. What rests on log entries 28, 29, 50, 112, 122, 123, 124 and 125
is the model's reading or choice. -/
def Obligations.PowerAndReset : Prop :=
  (∀ s : State, ∃ t, exec .coldReset s = .next t ∧ t.mem = [] ∧ t.coaches = [] ∧ t.launches = [] ∧ t.staged = [] ∧
    t.repair = State.reset.repair ∧ t.epoch ≠ 0#16 ∧ t.boot.state = if Config.imageAuthentic then 3#4 else 4#4) ∧
  (∀ s : State,
    (s.boot.state.toNat < 3 ∨ s.boot.state = 6#4 → exec .warmReset s = .next s) ∧
    (3 ≤ s.boot.state.toNat → s.boot.state ≠ 6#4 → ∃ t, exec .warmReset s = .next t ∧ t.coaches = [] ∧ t.launches = [] ∧
      t.staged = [] ∧ t.tsc = s.tsc ∧ t.repair = s.repair ∧ t.poison = s.poison ∧ t.epoch ≠ 0#16 ∧
      (s.epoch ≠ 0xFFFF#16 → t.epoch = s.epoch + 1#16) ∧ t.boot.nonce = s.boot.nonce ∧
      ∀ a, (∀ d, d < 4 → a < bits (s.pmWord d 0x3F400) 51 0 ∨
        bits (s.pmWord d 0x3F400) 51 0 + bits (s.pmWord d 0x3F408) 15 0 * 2 ^ 20 ≤ a) → t.byteAt a = s.byteAt a)) ∧
  (∀ s : State,
    (s.boot.attest = false → exec .attest s = .next s) ∧
    (s.boot.attest = true → ∃ t, exec .attest s = .next t ∧ t.boot = { s.boot with attest := false } ∧ t.mem = s.mem ∧
      t.coaches = s.coaches ∧ t.hostOut.length = s.hostOut.length + (s.attestReport.length + 63) / 64)) ∧
  (∀ (s : State) (junction power mhz : Nat),
    (s.boot.halted = true → exec (.thermalSample junction power) s = .next s) ∧
    (s.boot.halted = false → 110 ≤ junction → exec (.thermalSample junction power) s =
      .next { s with boot := { s.boot with state := 6#4, halted := true } }) ∧
    (s.boot.halted = false → junction < 110 →
      (100 ≤ junction ∨ 2600 < power → mhz = Nat.max 875 (s.boot.mhz - 125)) →
      (junction ≤ 95 → power < 2500 → mhz = Nat.min 1750 (s.boot.mhz + 125)) →
      (junction < 100 → power ≤ 2600 → 95 < junction ∨ 2500 ≤ power → mhz = s.boot.mhz) →
      exec (.thermalSample junction power) s = .next { s with boot := { s.boot with mhz := mhz } })) ∧
  (∀ (s : State) (slice count : Nat) (cls : EnergyClass),
    let a := s.account slice
    let n := a.frac + energyUnits cls * count
    ∃ t, exec (.energyCharge slice cls count) s = .next t ∧ t = { s with accounts := t.accounts } ∧
      t.account slice = { a with bal := max (a.bal - (n / 100000 : Nat)) (-2147483648), frac := n % 100000 } ∧
      ∀ j, j ≠ slice → t.account j = s.account j) ∧
  (∀ s : State, ∃ t, exec .energyRefill s = .next t ∧ t = { s with accounts := t.accounts } ∧ ∀ j, j < 64 →
    (t.account j = if (s.account j).refill = 0xFFFFFFFF#32 then s.account j
      else { s.account j with bal := min ((s.account j).bal + (s.account j).refill.toNat) (s.account j).ceil.toNat }))

/-! ## The machine -/

/-- R43, R44, R45, R17, R18, R97 and R99: the checks of a word in their order, on a word of each class; what a precise fault saves;
what a completed word does to its token counts. A word that decodes to nothing is UNDEF, like one of a masked feature: nothing
is taken or written, and the record names the word. -/
def Obligations.IssueChecks : Prop :=
  (∀ (s : State) (k : Tok) (d a b : BitVec 4) (x y z : BitVec 6) (f : BitVec 3) (n : BitVec 5) (m : BitVec 13) (h : BitVec 4),
    (s.strand? s.cur).isSome = true → s.me.run = .ready → s.live s.cur = true →
    (∀ w : IWord, exec (.undefWord w) s = .next (s.takeFault s.cur 0x0201 s.me.pc (w.setWidth 64) s.me.pc)) ∧
    ∀ p ∈ [(commonWord, Instr.add k d a b), (mulDivWord, .mul k d a b), (commonWord, .tfence k), (coachWord, .dget k x d),
        (coachWord, .cbarA k h), (kWord [], .gateRead k d a), (kWord [3], .fork k d a m),
        ({ kWord [] with coachOnly := true }, .txabort k m), (sysWord 2 none, .eret k d a),
        (sysWord 2 (some rightPreempt), .moult k d a b), (xWord [] true, .vadd k x y z f), (xWord [] false, .mwait k h),
        (lsWord [] true, .cpy k x y d a), (lsWord [] false, .cwait k n)],
      let w := (instrWord p.2).setWidth 64
      let stops := fun code => exec p.2 s = .next (s.takeFault s.cur code s.me.pc w s.me.pc)
      (s.assigned p.1 k = false → stops 0x0201) ∧
      (s.assigned p.1 k = true →
        (p.1.minLevel < s.levelOf s.cur → stops 0x0202) ∧
        (s.levelOf s.cur ≤ p.1.minLevel →
          (s.me.begun = false → s.mayUse p.1.right = false → stops 0x0C01) ∧
          (s.me.begun = true ∨ s.mayUse p.1.right = true →
            (∀ wt, s.tokenWait k p.1.engineOp = some wt → exec p.2 s = .next (s.updMe (fun st => st.parkOn wt s.tsc))) ∧
            (s.tokenWait k p.1.engineOp = none → ∀ r, s.scalarDue p.2 = some r → Parks p.2 s k (.scalarResult r)))))) ∧
  (∀ (s : State) (th : ThreadId) (st : Strand) (code : Nat) (a p e : Word), s.strand? th = some st → code ≠ 0x0401 →
    code ≠ 0x0121 →
    let t := s.takeFault th code a p e
    (∃ u, t.strand? th = some u ∧ u.regs = st.regs ∧ u.poison = st.poison ∧ u.pc = st.pc ∧ u.loops = st.loops ∧
      u.epc = e &&& 0x1FFFF#64 ∧ u.fcode = BitVec.ofNat 64 code ∧ u.faddr = a ∧ u.fprog = p ∧ u.run = .stopped 3 ∧
      u.popped = 0) ∧
    t.mem = s.mem ∧ (∀ o, o ≠ th → t.strand? o = s.strand? o) ∧
    (∃ r ∈ t.faults, r.body.handle = threadHandle th ∧ r.body.code = BitVec.ofNat 16 code ∧ r.body.faddr = a ∧
      r.body.fprog = p ∧ r.body.epc = e.setWidth 17) ∧ (∀ r ∈ s.faults, r ∈ t.faults) ∧
    ∀ q i c, th = .coach q i → s.coach? q = some c → ∃ c', t.coach? q = some c' ∧ ∀ key, c'.fifoCount key =
      c.fifoCount key + (if st.popped ≠ 0 ∧
        key = fifoKey (selected (streamOfPart i).index st.popped) (streamOfPart i).index then 1 else 0)) ∧
  ∀ (s : State) (k : Tok) (q p : Nat) (c : Coach), s.cur = .coach q p → s.coach? q = some c →
    let i := (streamOfPart p).index
    let inKey := fifoKey (selected i k.pop.toNat) i
    let outKey := fifoKey i (selected i k.push.toNat)
    let pops := k.pop ≠ 0#2 ∧ (c.strand p).popped = 0
    let none_ := c.fifoCount inKey ≤ c.tokenWaiters (selected i k.pop.toNat) i 8
    ((s.tokenWait k false).isSome = true ↔
      (pops ∧ none_) ∨ (k.push ≠ 0#2 ∧ 15 ≤ c.fifoCount outKey)) ∧
    ((s.tokenWait k true).isSome = true ↔
      (pops ∧ none_) ∨ (k.push ≠ 0#2 ∧ 8 ≤ c.owedCount outKey)) ∧
    (s.Issues commonWord (.nop k) k → ∃ t c', exec (.nop k) s = .next t ∧ t.coach? q = some c' ∧
      (pops → c'.fifoCount inKey = c.fifoCount inKey - 1) ∧
      (k.push ≠ 0#2 → c'.fifoCount outKey = c.fifoCount outKey + 1) ∧
      ∀ key, (pops → key ≠ inKey) → (k.push ≠ 0#2 → key ≠ outKey) → c'.fifoCount key = c.fifoCount key)

/-- R12, R13, R15, R43, R44, R94 and R454: what one step does beside time, which passes first. An event that is due takes
its turn before an input, and an input before a word (log entry 3); a word is fetched at the program counter of the
thread whose turn it is, and the instruction that it decodes to is executed; a word that decodes to nothing is UNDEF; a
program counter outside the code range is FETCH_RANGE. An input is a row of the table, or an upset. With its clocks stopped the part takes nothing in but a cold
reset. What rests on log entries 5, 31 and 154 is the model's reading or choice. -/
def Obligations.StepRuns : Prop :=
  ∀ s : State,
    (s.boot.halted = false →
      (∀ e es, s.agenda = e :: es → step s = exec e.instr { s.tick with agenda := es }) ∧
      (∀ x xs i, s.agenda = [] → s.inputs = x :: xs → x.instr = some i →
        step s = settle (exec i { s.tick with inputs := xs })) ∧
      (∀ x xs, s.agenda = [] → s.inputs = .upset x :: xs →
        step s = settle (.next ({ s.tick with inputs := xs }.upset x))) ∧
      (s.agenda = [] → s.inputs = [] →
        (s.tick.nextThread = none → step s = settle (.next s.tick)) ∧
        ∀ th, s.tick.nextThread = some th →
          let u := s.tick.onto th
          let ws := u.fetchWords th u.me.pc
          (u.inRange th u.me.pc = false → step s = settle (.next (u.takeOpen th 0x0203 (some u.me.pc) none u.me.pc))) ∧
          (u.inRange th u.me.pc = true →
            (∀ i, decode (threadEngine th) ws = .ok i → i.wf = true ∧ step s = settle (exec i u)) ∧
            (∀ w rest r, ws = w :: rest → decode (threadEngine th) ws = .error r → r ≠ .trailing →
              step s = settle (exec (.undefWord w) u)) ∧
            (∀ w rest, ws = w :: rest → decode (threadEngine th) ws = .error .trailing →
              step s = settle (issueShort w u))))) ∧
    (s.boot.halted = true →
      (s.inputs = [] → step s = .next s) ∧
      (∀ x xs, s.inputs = x :: xs → x ≠ .coldReset → step s = .next { s with inputs := xs }) ∧
      (∀ xs, s.inputs = .coldReset :: xs → step s = exec .coldReset { s with inputs := xs })) ∧
    (∀ u : State, ∃ es, settle (.next u) = .next { u with agenda := u.agenda ++ es, dueAt := u.tsc })

/-- Words written out bit by bit from R11 and R23 to R39 decode to their instructions, on the engines whose map has them. -/
def Obligations.Decoding : Prop :=
  decode .k [0x5020DE00#32] = .ok (.add { pop := 1#2, push := 1#2 } 0#4 6#4 15#4) ∧
  decode .x [0x00424600#32] = .ok (.mul Tok.none 1#4 2#4 3#4) ∧
  decode .k [0x01CA0001#32] = .ok (.li Tok.none 5#4 1#17) ∧
  decode .l [0x03800C01#32] = .ok (.loopi Tok.none 3#11 1#10) ∧
  decode .dray [0x05E40001#32] = .ok (.idCore Tok.none 2#4) ∧
  decode .k [0x09A7C006#32] = .ok (.fork Tok.none 3#4 14#4 6#13) ∧
  decode .dray [0x0C068000#32] = .ok (.eret Tok.none 3#4 4#4) ∧
  decode .dray [0x40000000#32] = .error .notOnEngine ∧
  decode .x [0x08008640#32] = .ok (.vadd Tok.none 1#6 3#6 8#6 0#3) ∧
  decode .l [0x08008640#32] = .ok (.cpy Tok.none 1#6 3#6 2#4 0#4) ∧
  decode .s [0x08208400#32, 0x0E020001#32] = .ok (.cpyc Tok.none 1#6 2#6 0#4 0#4 (.mwld Tok.none 4#6 1#3)) ∧
  decode .x [0x0EA0002A#32, 7#32, 9#32] = .ok (.mkat Tok.none 5#18 2#3 7#32 9#32) ∧
  decode .x [0x0EA0002A#32, 7#32] = .error .trailing ∧ decode .x [0x0EA0002F#32] = .error .unassigned ∧
  decode .s [0x08208401#32] = .error .unassigned ∧ decode .k [0x0FE00000#32] = .error .unassigned

/-- R11, R12 and R15: every instruction word but one is read back from its encoding, with every field at every value that the
encoding admits; PRE RESUME is a PRE word by another name, whose operand says which of the two it is. -/
def Obligations.RoundTrip : Prop :=
  (∀ i : Instr, i.wf = true → encode i ≠ [] → (∀ k d a b, i ≠ .preResume k d a b) →
    ∃ e ∈ [Engine.k, .x, .l], decode e (encode i) = .ok i) ∧
  ∀ k d a b, encode (.preResume k d a b) = encode (.pre k d a b) ∧
    ∀ s, exec (.preResume k d a b) s = exec (.pre k d a b) s

/-- Memory stays in its canonical form, whatever a step does: from every state that has it, not only from reset. The
form, and what an unlisted byte reads as, are the model's (log entry 128). -/
def Obligations.MemoryForm : Prop :=
  ∀ s t : State, s.mem.wf = true → step s = .next t → t.mem.wf = true

/-- R449, R451, R267, R287, R97 and R138: what power-up leaves. Memory has its canonical form and reads zero; every Dray strand
has zero registers, none of them poisoned; strand 0 of each die runs at level O from word 0 to its limit of 0xE400, and no
other strand of it runs; every tag is free, and no coach, launch or staged byte exists; the boot sequence is the first step. The
zero of the registers, and that of memory before boot, are the model's (log entry 1). -/
def Obligations.ResetState : Prop :=
  let s := State.reset
  s.mem.wf = true ∧ (∀ a, s.byteAt a = 0#8) ∧ s.boot.state = 0#4 ∧ s.boot.halted = false ∧ s.agenda = [.coldReset] ∧
  s.coaches = [] ∧ s.launches = [] ∧ s.staged = [] ∧ s.homeq = [] ∧ s.faults = [] ∧ s.walkers = [] ∧
  (∀ d k, (∀ r, (s.drayStrand d k).th.reg r = 0#64 ∧ (s.drayStrand d k).th.pois r = false) ∧
    (s.drayStrand d k).th.loops = [] ∧ (s.drayStrand d k).th.epc = 0#64 ∧ (s.drayStrand d k).th.fcode = 0#64 ∧
    (s.drayStrand d k).th.pc = 0#64) ∧
  (∀ d, s.strandEn d 0 = true ∧ s.strandLevel d 0 = 0 ∧ s.strandCbase d 0 = 0 ∧ s.strandClimit d 0 = 0xE400) ∧
  (∀ d k, 0 < k → k < 8 → s.strandEn d k = false) ∧
  (∀ t, (s.tag t).st = .free) ∧ (∀ slice g, s.gate slice g = 0#48) ∧ (∀ q p, s.stream? (.coach q p) = none) ∧
  (∀ n, s.semCount n = 0#16) ∧ ∀ d, s.cocoonWays d = [1, 2, 3, 4]
end

