-- ==== Sys2Proof/Laws/Maps.lean ====
section
/-! SUPPORT. Maps: the laws of the sparse maps. A read after a write gives the value written, a write leaves
every other key alone, and every operation keeps the canonical form. -/

namespace Sys2Proof.Machine

variable {α : Type} (d : Nat → α) (m : SMap α)

/-! ## Reads after writes -/

@[simp] theorem SMap.get_nil (k : Nat) : SMap.get d [] k = d k := rfl

theorem SMap.get_cons (e : Nat × α) (k : Nat) :
    SMap.get d (e :: m) k = if e.1 = k then e.2 else SMap.get d m k := rfl

theorem SMap.get_erase (k j : Nat) :
    SMap.get d (SMap.erase m k) j = if j = k then d j else SMap.get d m j := by
  induction m with
  | nil => simp [SMap.erase]
  | cons e m ih =>
    by_cases hk : e.1 = k
    · rw [SMap.erase, if_pos hk, ih, SMap.get_cons]
      split <;> rename_i hj
      · rfl
      · rw [if_neg (fun h => hj (h.symm.trans hk))]
    · rw [SMap.erase, if_neg hk, SMap.get_cons, SMap.get_cons, ih]
      by_cases hj : e.1 = j
      · rw [if_pos hj, if_pos hj, if_neg (fun h => hk (hj.trans h))]
      · rw [if_neg hj, if_neg hj]

/-- A key is unlisted. -/
def SMap.Free (m : SMap α) (k : Nat) : Prop := ∀ e ∈ m, e.1 ≠ k

theorem SMap.free_erase (k : Nat) : SMap.Free (SMap.erase m k) k := by
  induction m with
  | nil => intro e he; cases he
  | cons e m ih =>
    by_cases hk : e.1 = k
    · rwa [SMap.erase, if_pos hk]
    · rw [SMap.erase, if_neg hk]
      exact List.forall_mem_cons.2 ⟨hk, ih⟩

theorem SMap.get_insert (k : Nat) (v : α) (h : SMap.Free m k) (j : Nat) :
    SMap.get d (SMap.insert m k v) j = if j = k then v else SMap.get d m j := by
  induction m with
  | nil => simp [SMap.insert, SMap.get_cons, eq_comm]
  | cons e m ih =>
    have he : e.1 ≠ k := h e (List.mem_cons_self ..)
    have hm : SMap.Free m k := fun f hf => h f (List.mem_cons_of_mem _ hf)
    rw [SMap.insert]
    split
    · rw [SMap.get_cons]; simp only [eq_comm]
    · rw [SMap.get_cons, SMap.get_cons, ih hm]
      by_cases hj : e.1 = j
      · rw [if_pos hj, if_pos hj, if_neg (fun h => he (hj.trans h))]
      · rw [if_neg hj, if_neg hj]

variable [DecidableEq α]

/-- Reading after a write: the value written at its key, and what was there everywhere else. -/
theorem SMap.get_put (k : Nat) (v : α) (j : Nat) :
    SMap.get d (SMap.put d m k v) j = if j = k then v else SMap.get d m j := by
  rw [SMap.put]
  split <;> rename_i hv
  · rw [SMap.get_erase]
    split <;> rename_i hj
    · rw [hv, hj]
    · rfl
  · rw [SMap.get_insert d _ k v (SMap.free_erase m k), SMap.get_erase]
    split <;> rfl

@[simp] theorem SMap.get_put_self (k : Nat) (v : α) : SMap.get d (SMap.put d m k v) k = v := by
  rw [SMap.get_put, if_pos rfl]

theorem SMap.get_put_of_ne {k j : Nat} (v : α) (h : j ≠ k) :
    SMap.get d (SMap.put d m k v) j = SMap.get d m j := by
  rw [SMap.get_put, if_neg h]

/-! ## The canonical form -/

/-- The canonical form as a sorted list without default entries. -/
theorem SMap.wf_iff : SMap.wf d m = true ↔ m.Pairwise (fun a b => a.1 < b.1) ∧ ∀ e ∈ m, e.2 ≠ d e.1 := by
  induction m with
  | nil => simp [SMap.wf]
  | cons e m ih =>
    cases m with
    | nil => simp [SMap.wf]
    | cons f m =>
      rw [SMap.wf, Bool.and_eq_true, Bool.and_eq_true, ih, decide_eq_true_iff, decide_eq_true_iff,
        List.pairwise_cons (a := e)]
      constructor
      · rintro ⟨⟨he, hef⟩, hs, hd⟩
        exact ⟨⟨List.forall_mem_cons.2 ⟨hef, fun g hg => hef.trans ((List.pairwise_cons.1 hs).1 g hg)⟩, hs⟩,
          List.forall_mem_cons.2 ⟨he, hd⟩⟩
      · rintro ⟨⟨hlt, hs⟩, hd⟩
        exact ⟨⟨hd e (List.mem_cons_self ..), hlt f (List.mem_cons_self ..)⟩, hs,
          fun g hg => hd g (List.mem_cons_of_mem _ hg)⟩

omit [DecidableEq α] in
theorem SMap.mem_erase {k : Nat} {e : Nat × α} : e ∈ SMap.erase m k ↔ e ∈ m ∧ e.1 ≠ k := by
  induction m with
  | nil => simp [SMap.erase]
  | cons f m ih =>
    rw [SMap.erase]
    split <;> rename_i hf
    · rw [ih, List.mem_cons]
      constructor
      · exact fun h => ⟨.inr h.1, h.2⟩
      · rintro ⟨rfl | h, hk⟩
        · exact absurd hf hk
        · exact ⟨h, hk⟩
    · rw [List.mem_cons, List.mem_cons, ih]
      constructor
      · rintro (rfl | h)
        · exact ⟨.inl rfl, hf⟩
        · exact ⟨.inr h.1, h.2⟩
      · rintro ⟨rfl | h, hk⟩
        · exact .inl rfl
        · exact .inr ⟨h, hk⟩

omit [DecidableEq α] in
theorem SMap.sorted_erase (k : Nat) (h : m.Pairwise (fun a b => a.1 < b.1)) :
    (SMap.erase m k).Pairwise (fun a b => a.1 < b.1) := by
  induction m with
  | nil => exact h
  | cons e m ih =>
    obtain ⟨he, hm⟩ := List.pairwise_cons.1 h
    rw [SMap.erase]
    split
    · exact ih hm
    · exact List.pairwise_cons.2 ⟨fun f hf => he f ((SMap.mem_erase m).1 hf).1, ih hm⟩

omit [DecidableEq α] in
theorem SMap.mem_insert {k : Nat} {v : α} {e : Nat × α} : e ∈ SMap.insert m k v ↔ e = (k, v) ∨ e ∈ m := by
  induction m with
  | nil => simp [SMap.insert]
  | cons f m ih =>
    rw [SMap.insert]
    split
    · simp
    · rw [List.mem_cons, ih, List.mem_cons]; tauto

omit [DecidableEq α] in
theorem SMap.sorted_insert (k : Nat) (v : α) (hk : SMap.Free m k) (h : m.Pairwise (fun a b => a.1 < b.1)) :
    (SMap.insert m k v).Pairwise (fun a b => a.1 < b.1) := by
  induction m with
  | nil => exact List.pairwise_singleton ..
  | cons e m ih =>
    obtain ⟨he, hm⟩ := List.pairwise_cons.1 h
    have hek : e.1 ≠ k := hk e (List.mem_cons_self ..)
    rw [SMap.insert]
    split <;> rename_i hlt
    · exact List.pairwise_cons.2 ⟨List.forall_mem_cons.2 ⟨hlt, fun f hf => hlt.trans (he f hf)⟩, h⟩
    · refine List.pairwise_cons.2 ⟨fun f hf => ?_, ih (fun f hf => hk f (List.mem_cons_of_mem _ hf)) hm⟩
      rcases (SMap.mem_insert m).1 hf with rfl | hf
      · exact lt_of_le_of_ne (not_lt.1 hlt) hek
      · exact he f hf

/-- A write keeps the canonical form. -/
theorem SMap.wf_put (k : Nat) (v : α) (h : SMap.wf d m = true) : SMap.wf d (SMap.put d m k v) = true := by
  rw [SMap.wf_iff] at h ⊢
  have hs := SMap.sorted_erase m k h.1
  have hd : ∀ e ∈ SMap.erase m k, e.2 ≠ d e.1 := fun e he => h.2 e ((SMap.mem_erase m).1 he).1
  rw [SMap.put]
  split <;> rename_i hv
  · exact ⟨hs, hd⟩
  · refine ⟨SMap.sorted_insert _ k v (SMap.free_erase m k) hs, fun e he => ?_⟩
    rcases (SMap.mem_insert _).1 he with rfl | he
    · exact hv
    · exact hd e he

theorem SMap.wf_putAll (k : Nat) (vs : List α) (h : SMap.wf d m = true) : SMap.wf d (SMap.putAll d m k vs) = true := by
  induction vs generalizing m k with
  | nil => exact h
  | cons v vs ih => exact ih _ _ (SMap.wf_put d m k v h)

theorem SMap.wf_fill (k n : Nat) (v : α) (h : SMap.wf d m = true) : SMap.wf d (SMap.fill d m k n v) = true := by
  induction n generalizing m k with
  | zero => exact h
  | succ n ih => exact ih _ _ (SMap.wf_put d m k v h)

theorem SMap.wf_filter (p : Nat × α → Bool) (h : SMap.wf d m = true) : SMap.wf d (m.filter p) = true := by
  rw [SMap.wf_iff] at h ⊢
  exact ⟨h.1.filter p, fun e he => h.2 e (List.mem_filter.1 he).1⟩

theorem SMap.wf_clear (lo n : Nat) (h : SMap.wf d m = true) : SMap.wf d (SMap.clear m lo n) = true :=
  SMap.wf_filter d m _ h

/-- Canonical maps that read the same are the same data. -/
theorem SMap.ext_of_wf (m' : SMap α) (h : SMap.wf d m = true) (h' : SMap.wf d m' = true)
    (hg : ∀ k, SMap.get d m k = SMap.get d m' k) : m = m' := by
  induction m generalizing m' with
  | nil =>
    cases m' with
    | nil => rfl
    | cons f m' =>
      have := ((SMap.wf_iff d _).1 h').2 f (List.mem_cons_self ..)
      have hf := hg f.1
      rw [SMap.get_cons, if_pos rfl] at hf
      exact absurd hf.symm this
  | cons e m ih =>
    have hw := (SMap.wf_iff d _).1 h
    obtain ⟨hlt, hs⟩ := List.pairwise_cons.1 hw.1
    have low : ∀ (l : SMap α) (k : Nat), (∀ f ∈ l, k < f.1) → SMap.get d l k = d k := by
      intro l k hl
      induction l with
      | nil => rfl
      | cons f l ih =>
        rw [SMap.get_cons, if_neg (Nat.ne_of_gt (hl f (List.mem_cons_self ..)))]
        exact ih (fun g hg => hl g (List.mem_cons_of_mem _ hg))
    cases m' with
    | nil =>
      have hf := hg e.1
      rw [SMap.get_cons, if_pos rfl] at hf
      exact absurd hf (hw.2 e (List.mem_cons_self ..))
    | cons f m' =>
      have hw' := (SMap.wf_iff d _).1 h'
      obtain ⟨hlt', hs'⟩ := List.pairwise_cons.1 hw'.1
      have hkey : e.1 = f.1 := by
        rcases Nat.lt_trichotomy e.1 f.1 with hl | he | hl
        · have := hg e.1
          rw [SMap.get_cons, if_pos rfl, SMap.get_cons, if_neg (Nat.ne_of_gt hl),
            low m' e.1 (fun g hg => hl.trans (hlt' g hg))] at this
          exact absurd this (hw.2 e (List.mem_cons_self ..))
        · exact he
        · have := hg f.1
          rw [SMap.get_cons, if_neg (Nat.ne_of_gt hl), low m f.1 (fun g hg => hl.trans (hlt g hg)),
            SMap.get_cons, if_pos rfl] at this
          exact absurd this.symm (hw'.2 f (List.mem_cons_self ..))
      have hval : e.2 = f.2 := by
        have := hg e.1
        rwa [SMap.get_cons, if_pos rfl, SMap.get_cons, if_pos hkey.symm] at this
      have hrest : m = m' := by
        refine ih m' ((SMap.wf_iff d _).2 ⟨hs, fun g hg => hw.2 g (List.mem_cons_of_mem _ hg)⟩)
          ((SMap.wf_iff d _).2 ⟨hs', fun g hg => hw'.2 g (List.mem_cons_of_mem _ hg)⟩) (fun k => ?_)
        by_cases hk : e.1 = k
        · rw [← hk, low m e.1 hlt, hkey, low m' f.1 hlt']
        · have := hg k
          rwa [SMap.get_cons, if_neg hk, SMap.get_cons, if_neg (fun h => hk (hkey.trans h))] at this
      rw [hrest, Prod.ext hkey hval]

/-! ## Memory -/

theorem Memory.get_put (m : Memory) (a : Nat) (v : Byte) (b : Nat) :
    (m.put a v).get b = if b = a then v else m.get b := SMap.get_put memByte m a v b

theorem Memory.wf_put (m : Memory) (a : Nat) (v : Byte) (h : m.wf = true) : (m.put a v).wf = true :=
  SMap.wf_put memByte m a v h

/-- Writing a list of bytes one by one keeps the canonical form. -/
theorem Memory.wf_foldl_put (es : List (Nat × Byte)) (m : Memory) (h : m.wf = true) :
    (es.foldl (fun m e => m.put e.1 e.2) m).wf = true := by
  induction es generalizing m with
  | nil => exact h
  | cons e es ih => exact ih _ (Memory.wf_put m e.1 e.2 h)

/-- Memory at reset lists nothing. -/
theorem State.reset_mem_wf : State.reset.mem.wf = true := rfl

/-- Ordinary bytes and bytes of HBM are written in canonical form (R275, R326). -/
theorem State.putByte_mem_wf (s : State) (a : Nat) (v : Byte) (h : s.mem.wf = true) : (s.putByte a v).mem.wf = true :=
  Memory.wf_put _ a v h

theorem State.putHbm_mem_wf (s : State) (a : Nat) (v : Byte) (h : s.mem.wf = true) : (s.putHbm a v).mem.wf = true := by
  rw [State.putHbm]
  split
  · exact h
  · exact Memory.wf_put _ a v h

theorem State.dropLine_mem_wf (s : State) (c : CacheLine) (h : s.mem.wf = true) : (s.dropLine c).mem.wf = true := by
  simp only [State.dropLine]
  split
  · exact h
  · split
    · exact h
    · exact Memory.wf_foldl_put _ _ h

theorem State.touch_mem_wf (s : State) (line cls : Nat) (w : Bool) (h : s.mem.wf = true) :
    (s.touch line cls w).mem.wf = true := by
  rw [State.touch]
  split
  · exact h
  · split
    · exact h
    · simp only []
      split
      · exact h
      · split
        · exact h
        · exact State.dropLine_mem_wf s _ h

theorem State.settleLine_mem (s : State) (line : Nat) : (s.settleLine line).mem = s.mem := by
  rw [State.settleLine]; split <;> rfl

theorem State.putPois_mem (s : State) (line : Nat) (p : Bool) : (s.putPois line p).mem = s.mem := rfl

theorem State.putHbmPois_mem (s : State) (line : Nat) (p : Bool) : (s.putHbmPois line p).mem = s.mem := by
  rw [State.putHbmPois]; split <;> rfl

theorem State.putLine_mem_wf (s : State) (line : Nat) (data : BitVec 512) (mask : BitVec 64) (h : s.mem.wf = true) :
    (s.putLine line data mask).mem.wf = true := by
  have fold : ∀ (l : List Nat) (s : State), s.mem.wf = true →
      (l.foldl (fun s i => s.putByte (64 * line + i) (lineByte data i)) s).mem.wf = true := by
    intro l
    induction l with
    | nil => exact fun _ h => h
    | cons i l ih => exact fun s h => ih _ (State.putByte_mem_wf s _ _ h)
  simp only [State.putLine]
  split
  · exact (State.putPois_mem ..).symm ▸ fold _ s h
  · exact fold _ s h

theorem State.putLineHbm_mem_wf (s : State) (line : Nat) (data : BitVec 512) (mask : BitVec 64) (h : s.mem.wf = true) :
    (s.putLineHbm line data mask).mem.wf = true := by
  have fold : ∀ (l : List Nat) (s : State), s.mem.wf = true →
      (l.foldl (fun s i => s.putHbm (64 * line + i) (lineByte data i)) s).mem.wf = true := by
    intro l
    induction l with
    | nil => exact fun _ h => h
    | cons i l ih => exact fun s h => ih _ (State.putHbm_mem_wf s _ _ h)
  simp only [State.putLineHbm]
  split
  · exact (State.putHbmPois_mem ..).symm ▸ fold _ s h
  · exact fold _ s h

theorem State.writeDirect_mem_wf (s : State) (line : Nat) (data : BitVec 512) (mask : BitVec 64) (evict : Nat)
    (keep : L1Line → Bool) (rel : Option (ThreadId × Nat)) (h : s.mem.wf = true) :
    (s.writeDirect line data mask evict keep rel).mem.wf = true :=
  (congrArg Memory.wf (State.settleLine_mem ..)).trans
    (State.putLine_mem_wf _ _ _ _ (State.touch_mem_wf (s.l1Drop line keep) _ _ _ h))

theorem State.writeSide_mem_wf (s : State) (line : Nat) (data : BitVec 512) (mask : BitVec 64)
    (rel : Option (ThreadId × Nat)) (h : s.mem.wf = true) : (s.writeSide line data mask rel).mem.wf = true :=
  State.putLineHbm_mem_wf _ _ _ _ h

end Sys2Proof.Machine
end

