-- ==== Sys2Proof/Laws/State.lean ====
section
/-! SUPPORT. State: the small lemmas of the state record. One lemma per field for each named update, and the
fields of a state after a change of one thread. -/

namespace Sys2Proof.Machine

/-! ## A die replaced. Every other field keeps its value. -/

@[simp] theorem State.setDie_tsc (s : State) (d : Nat) (v : Die) : (s.setDie d v).tsc = s.tsc := rfl
@[simp] theorem State.setDie_dueAt (s : State) (d : Nat) (v : Die) : (s.setDie d v).dueAt = s.dueAt := rfl
@[simp] theorem State.setDie_clocks (s : State) (d : Nat) (v : Die) : (s.setDie d v).clocks = s.clocks := rfl
@[simp] theorem State.setDie_steps (s : State) (d : Nat) (v : Die) : (s.setDie d v).steps = s.steps := rfl
@[simp] theorem State.setDie_free (s : State) (d : Nat) (v : Die) : (s.setDie d v).free = s.free := rfl
@[simp] theorem State.setDie_cur (s : State) (d : Nat) (v : Die) : (s.setDie d v).cur = s.cur := rfl
@[simp] theorem State.setDie_agenda (s : State) (d : Nat) (v : Die) : (s.setDie d v).agenda = s.agenda := rfl
@[simp] theorem State.setDie_inputs (s : State) (d : Nat) (v : Die) : (s.setDie d v).inputs = s.inputs := rfl
@[simp] theorem State.setDie_mem (s : State) (d : Nat) (v : Die) : (s.setDie d v).mem = s.mem := rfl
@[simp] theorem State.setDie_stale (s : State) (d : Nat) (v : Die) : (s.setDie d v).stale = s.stale := rfl
@[simp] theorem State.setDie_poison (s : State) (d : Nat) (v : Die) : (s.setDie d v).poison = s.poison := rfl
@[simp] theorem State.setDie_stalePois (s : State) (d : Nat) (v : Die) : (s.setDie d v).stalePois = s.stalePois := rfl
@[simp] theorem State.setDie_cache (s : State) (d : Nat) (v : Die) : (s.setDie d v).cache = s.cache := rfl
@[simp] theorem State.setDie_repair (s : State) (d : Nat) (v : Die) : (s.setDie d v).repair = s.repair := rfl
@[simp] theorem State.setDie_eccSeen (s : State) (d : Nat) (v : Die) : (s.setDie d v).eccSeen = s.eccSeen := rfl
@[simp] theorem State.setDie_l1 (s : State) (d : Nat) (v : Die) : (s.setDie d v).l1 = s.l1 := rfl
@[simp] theorem State.setDie_l2s (s : State) (d : Nat) (v : Die) : (s.setDie d v).l2s = s.l2s := rfl
@[simp] theorem State.setDie_l2sPoison (s : State) (d : Nat) (v : Die) : (s.setDie d v).l2sPoison = s.l2sPoison := rfl
@[simp] theorem State.setDie_releases (s : State) (d : Nat) (v : Die) : (s.setDie d v).releases = s.releases := rfl
@[simp] theorem State.setDie_homeq (s : State) (d : Nat) (v : Die) : (s.setDie d v).homeq = s.homeq := rfl
@[simp] theorem State.setDie_waiting (s : State) (d : Nat) (v : Die) : (s.setDie d v).waiting = s.waiting := rfl
@[simp] theorem State.setDie_nextReq (s : State) (d : Nat) (v : Die) : (s.setDie d v).nextReq = s.nextReq := rfl
@[simp] theorem State.setDie_staged (s : State) (d : Nat) (v : Die) : (s.setDie d v).staged = s.staged := rfl
@[simp] theorem State.setDie_tags (s : State) (d : Nat) (v : Die) : (s.setDie d v).tags = s.tags := rfl
@[simp] theorem State.setDie_launches (s : State) (d : Nat) (v : Die) : (s.setDie d v).launches = s.launches := rfl
@[simp] theorem State.setDie_notes (s : State) (d : Nat) (v : Die) : (s.setDie d v).notes = s.notes := rfl
@[simp] theorem State.setDie_walkers (s : State) (d : Nat) (v : Die) : (s.setDie d v).walkers = s.walkers := rfl
@[simp] theorem State.setDie_gates (s : State) (d : Nat) (v : Die) : (s.setDie d v).gates = s.gates := rfl
@[simp] theorem State.setDie_coaches (s : State) (d : Nat) (v : Die) : (s.setDie d v).coaches = s.coaches := rfl
@[simp] theorem State.setDie_quads (s : State) (d : Nat) (v : Die) : (s.setDie d v).quads = s.quads := rfl
@[simp] theorem State.setDie_bars (s : State) (d : Nat) (v : Die) : (s.setDie d v).bars = s.bars := rfl
@[simp] theorem State.setDie_barOwner (s : State) (d : Nat) (v : Die) : (s.setDie d v).barOwner = s.barOwner := rfl
@[simp] theorem State.setDie_barError (s : State) (d : Nat) (v : Die) : (s.setDie d v).barError = s.barError := rfl
@[simp] theorem State.setDie_tlb (s : State) (d : Nat) (v : Die) : (s.setDie d v).tlb = s.tlb := rfl
@[simp] theorem State.setDie_walks (s : State) (d : Nat) (v : Die) : (s.setDie d v).walks = s.walks := rfl
@[simp] theorem State.setDie_walkTurn (s : State) (d : Nat) (v : Die) : (s.setDie d v).walkTurn = s.walkTurn := rfl
@[simp] theorem State.setDie_walkCache (s : State) (d : Nat) (v : Die) : (s.setDie d v).walkCache = s.walkCache := rfl
@[simp] theorem State.setDie_root1 (s : State) (d : Nat) (v : Die) : (s.setDie d v).root1 = s.root1 := rfl
@[simp] theorem State.setDie_root2 (s : State) (d : Nat) (v : Die) : (s.setDie d v).root2 = s.root2 := rfl
@[simp] theorem State.setDie_rights (s : State) (d : Nat) (v : Die) : (s.setDie d v).rights = s.rights := rfl
@[simp] theorem State.setDie_windows (s : State) (d : Nat) (v : Die) : (s.setDie d v).windows = s.windows := rfl
@[simp] theorem State.setDie_featO (s : State) (d : Nat) (v : Die) : (s.setDie d v).featO = s.featO := rfl
@[simp] theorem State.setDie_featD (s : State) (d : Nat) (v : Die) : (s.setDie d v).featD = s.featD := rfl
@[simp] theorem State.setDie_offsets (s : State) (d : Nat) (v : Die) : (s.setDie d v).offsets = s.offsets := rfl
@[simp] theorem State.setDie_dieTab (s : State) (d : Nat) (v : Die) : (s.setDie d v).dieTab = s.dieTab := rfl
@[simp] theorem State.setDie_coreTab (s : State) (d : Nat) (v : Die) : (s.setDie d v).coreTab = s.coreTab := rfl
@[simp] theorem State.setDie_domTab (s : State) (d : Nat) (v : Die) : (s.setDie d v).domTab = s.domTab := rfl
@[simp] theorem State.setDie_faults (s : State) (d : Nat) (v : Die) : (s.setDie d v).faults = s.faults := rfl
@[simp] theorem State.setDie_pres (s : State) (d : Nat) (v : Die) : (s.setDie d v).pres = s.pres := rfl
@[simp] theorem State.setDie_preWaits (s : State) (d : Nat) (v : Die) : (s.setDie d v).preWaits = s.preWaits := rfl
@[simp] theorem State.setDie_ports (s : State) (d : Nat) (v : Die) : (s.setDie d v).ports = s.ports := rfl
@[simp] theorem State.setDie_epoch (s : State) (d : Nat) (v : Die) : (s.setDie d v).epoch = s.epoch := rfl
@[simp] theorem State.setDie_known (s : State) (d : Nat) (v : Die) : (s.setDie d v).known = s.known := rfl
@[simp] theorem State.setDie_remote (s : State) (d : Nat) (v : Die) : (s.setDie d v).remote = s.remote := rfl
@[simp] theorem State.setDie_spent (s : State) (d : Nat) (v : Die) : (s.setDie d v).spent = s.spent := rfl
@[simp] theorem State.setDie_nextTag (s : State) (d : Nat) (v : Die) : (s.setDie d v).nextTag = s.nextTag := rfl
@[simp] theorem State.setDie_dups (s : State) (d : Nat) (v : Die) : (s.setDie d v).dups = s.dups := rfl
@[simp] theorem State.setDie_heldCq (s : State) (d : Nat) (v : Die) : (s.setDie d v).heldCq = s.heldCq := rfl
@[simp] theorem State.setDie_fns (s : State) (d : Nat) (v : Die) : (s.setDie d v).fns = s.fns := rfl
@[simp] theorem State.setDie_hostReqs (s : State) (d : Nat) (v : Die) : (s.setDie d v).hostReqs = s.hostReqs := rfl
@[simp] theorem State.setDie_proxies (s : State) (d : Nat) (v : Die) : (s.setDie d v).proxies = s.proxies := rfl
@[simp] theorem State.setDie_nextHost (s : State) (d : Nat) (v : Die) : (s.setDie d v).nextHost = s.nextHost := rfl
@[simp] theorem State.setDie_hostOut (s : State) (d : Nat) (v : Die) : (s.setDie d v).hostOut = s.hostOut := rfl
@[simp] theorem State.setDie_wsets (s : State) (d : Nat) (v : Die) : (s.setDie d v).wsets = s.wsets := rfl
@[simp] theorem State.setDie_latches (s : State) (d : Nat) (v : Die) : (s.setDie d v).latches = s.latches := rfl
@[simp] theorem State.setDie_pulls (s : State) (d : Nat) (v : Die) : (s.setDie d v).pulls = s.pulls := rfl
@[simp] theorem State.setDie_loads (s : State) (d : Nat) (v : Die) : (s.setDie d v).loads = s.loads := rfl
@[simp] theorem State.setDie_stalled (s : State) (d : Nat) (v : Die) : (s.setDie d v).stalled = s.stalled := rfl
@[simp] theorem State.setDie_accounts (s : State) (d : Nat) (v : Die) : (s.setDie d v).accounts = s.accounts := rfl
@[simp] theorem State.setDie_domAccts (s : State) (d : Nat) (v : Die) : (s.setDie d v).domAccts = s.domAccts := rfl
@[simp] theorem State.setDie_boot (s : State) (d : Nat) (v : Die) : (s.setDie d v).boot = s.boot := rfl

/-! ## A die changed. Every other field keeps its value. -/

@[simp] theorem State.updDie_tsc (s : State) (d : Nat) (f : Die → Die) : (s.updDie d f).tsc = s.tsc := rfl
@[simp] theorem State.updDie_dueAt (s : State) (d : Nat) (f : Die → Die) : (s.updDie d f).dueAt = s.dueAt := rfl
@[simp] theorem State.updDie_clocks (s : State) (d : Nat) (f : Die → Die) : (s.updDie d f).clocks = s.clocks := rfl
@[simp] theorem State.updDie_steps (s : State) (d : Nat) (f : Die → Die) : (s.updDie d f).steps = s.steps := rfl
@[simp] theorem State.updDie_free (s : State) (d : Nat) (f : Die → Die) : (s.updDie d f).free = s.free := rfl
@[simp] theorem State.updDie_cur (s : State) (d : Nat) (f : Die → Die) : (s.updDie d f).cur = s.cur := rfl
@[simp] theorem State.updDie_agenda (s : State) (d : Nat) (f : Die → Die) : (s.updDie d f).agenda = s.agenda := rfl
@[simp] theorem State.updDie_inputs (s : State) (d : Nat) (f : Die → Die) : (s.updDie d f).inputs = s.inputs := rfl
@[simp] theorem State.updDie_mem (s : State) (d : Nat) (f : Die → Die) : (s.updDie d f).mem = s.mem := rfl
@[simp] theorem State.updDie_stale (s : State) (d : Nat) (f : Die → Die) : (s.updDie d f).stale = s.stale := rfl
@[simp] theorem State.updDie_poison (s : State) (d : Nat) (f : Die → Die) : (s.updDie d f).poison = s.poison := rfl
@[simp] theorem State.updDie_stalePois (s : State) (d : Nat) (f : Die → Die) : (s.updDie d f).stalePois = s.stalePois := rfl
@[simp] theorem State.updDie_cache (s : State) (d : Nat) (f : Die → Die) : (s.updDie d f).cache = s.cache := rfl
@[simp] theorem State.updDie_repair (s : State) (d : Nat) (f : Die → Die) : (s.updDie d f).repair = s.repair := rfl
@[simp] theorem State.updDie_eccSeen (s : State) (d : Nat) (f : Die → Die) : (s.updDie d f).eccSeen = s.eccSeen := rfl
@[simp] theorem State.updDie_l1 (s : State) (d : Nat) (f : Die → Die) : (s.updDie d f).l1 = s.l1 := rfl
@[simp] theorem State.updDie_l2s (s : State) (d : Nat) (f : Die → Die) : (s.updDie d f).l2s = s.l2s := rfl
@[simp] theorem State.updDie_l2sPoison (s : State) (d : Nat) (f : Die → Die) : (s.updDie d f).l2sPoison = s.l2sPoison := rfl
@[simp] theorem State.updDie_releases (s : State) (d : Nat) (f : Die → Die) : (s.updDie d f).releases = s.releases := rfl
@[simp] theorem State.updDie_homeq (s : State) (d : Nat) (f : Die → Die) : (s.updDie d f).homeq = s.homeq := rfl
@[simp] theorem State.updDie_waiting (s : State) (d : Nat) (f : Die → Die) : (s.updDie d f).waiting = s.waiting := rfl
@[simp] theorem State.updDie_nextReq (s : State) (d : Nat) (f : Die → Die) : (s.updDie d f).nextReq = s.nextReq := rfl
@[simp] theorem State.updDie_staged (s : State) (d : Nat) (f : Die → Die) : (s.updDie d f).staged = s.staged := rfl
@[simp] theorem State.updDie_tags (s : State) (d : Nat) (f : Die → Die) : (s.updDie d f).tags = s.tags := rfl
@[simp] theorem State.updDie_launches (s : State) (d : Nat) (f : Die → Die) : (s.updDie d f).launches = s.launches := rfl
@[simp] theorem State.updDie_notes (s : State) (d : Nat) (f : Die → Die) : (s.updDie d f).notes = s.notes := rfl
@[simp] theorem State.updDie_walkers (s : State) (d : Nat) (f : Die → Die) : (s.updDie d f).walkers = s.walkers := rfl
@[simp] theorem State.updDie_gates (s : State) (d : Nat) (f : Die → Die) : (s.updDie d f).gates = s.gates := rfl
@[simp] theorem State.updDie_coaches (s : State) (d : Nat) (f : Die → Die) : (s.updDie d f).coaches = s.coaches := rfl
@[simp] theorem State.updDie_quads (s : State) (d : Nat) (f : Die → Die) : (s.updDie d f).quads = s.quads := rfl
@[simp] theorem State.updDie_bars (s : State) (d : Nat) (f : Die → Die) : (s.updDie d f).bars = s.bars := rfl
@[simp] theorem State.updDie_barOwner (s : State) (d : Nat) (f : Die → Die) : (s.updDie d f).barOwner = s.barOwner := rfl
@[simp] theorem State.updDie_barError (s : State) (d : Nat) (f : Die → Die) : (s.updDie d f).barError = s.barError := rfl
@[simp] theorem State.updDie_tlb (s : State) (d : Nat) (f : Die → Die) : (s.updDie d f).tlb = s.tlb := rfl
@[simp] theorem State.updDie_walks (s : State) (d : Nat) (f : Die → Die) : (s.updDie d f).walks = s.walks := rfl
@[simp] theorem State.updDie_walkTurn (s : State) (d : Nat) (f : Die → Die) : (s.updDie d f).walkTurn = s.walkTurn := rfl
@[simp] theorem State.updDie_walkCache (s : State) (d : Nat) (f : Die → Die) : (s.updDie d f).walkCache = s.walkCache := rfl
@[simp] theorem State.updDie_root1 (s : State) (d : Nat) (f : Die → Die) : (s.updDie d f).root1 = s.root1 := rfl
@[simp] theorem State.updDie_root2 (s : State) (d : Nat) (f : Die → Die) : (s.updDie d f).root2 = s.root2 := rfl
@[simp] theorem State.updDie_rights (s : State) (d : Nat) (f : Die → Die) : (s.updDie d f).rights = s.rights := rfl
@[simp] theorem State.updDie_windows (s : State) (d : Nat) (f : Die → Die) : (s.updDie d f).windows = s.windows := rfl
@[simp] theorem State.updDie_featO (s : State) (d : Nat) (f : Die → Die) : (s.updDie d f).featO = s.featO := rfl
@[simp] theorem State.updDie_featD (s : State) (d : Nat) (f : Die → Die) : (s.updDie d f).featD = s.featD := rfl
@[simp] theorem State.updDie_offsets (s : State) (d : Nat) (f : Die → Die) : (s.updDie d f).offsets = s.offsets := rfl
@[simp] theorem State.updDie_dieTab (s : State) (d : Nat) (f : Die → Die) : (s.updDie d f).dieTab = s.dieTab := rfl
@[simp] theorem State.updDie_coreTab (s : State) (d : Nat) (f : Die → Die) : (s.updDie d f).coreTab = s.coreTab := rfl
@[simp] theorem State.updDie_domTab (s : State) (d : Nat) (f : Die → Die) : (s.updDie d f).domTab = s.domTab := rfl
@[simp] theorem State.updDie_faults (s : State) (d : Nat) (f : Die → Die) : (s.updDie d f).faults = s.faults := rfl
@[simp] theorem State.updDie_pres (s : State) (d : Nat) (f : Die → Die) : (s.updDie d f).pres = s.pres := rfl
@[simp] theorem State.updDie_preWaits (s : State) (d : Nat) (f : Die → Die) : (s.updDie d f).preWaits = s.preWaits := rfl
@[simp] theorem State.updDie_ports (s : State) (d : Nat) (f : Die → Die) : (s.updDie d f).ports = s.ports := rfl
@[simp] theorem State.updDie_epoch (s : State) (d : Nat) (f : Die → Die) : (s.updDie d f).epoch = s.epoch := rfl
@[simp] theorem State.updDie_known (s : State) (d : Nat) (f : Die → Die) : (s.updDie d f).known = s.known := rfl
@[simp] theorem State.updDie_remote (s : State) (d : Nat) (f : Die → Die) : (s.updDie d f).remote = s.remote := rfl
@[simp] theorem State.updDie_spent (s : State) (d : Nat) (f : Die → Die) : (s.updDie d f).spent = s.spent := rfl
@[simp] theorem State.updDie_nextTag (s : State) (d : Nat) (f : Die → Die) : (s.updDie d f).nextTag = s.nextTag := rfl
@[simp] theorem State.updDie_dups (s : State) (d : Nat) (f : Die → Die) : (s.updDie d f).dups = s.dups := rfl
@[simp] theorem State.updDie_heldCq (s : State) (d : Nat) (f : Die → Die) : (s.updDie d f).heldCq = s.heldCq := rfl
@[simp] theorem State.updDie_fns (s : State) (d : Nat) (f : Die → Die) : (s.updDie d f).fns = s.fns := rfl
@[simp] theorem State.updDie_hostReqs (s : State) (d : Nat) (f : Die → Die) : (s.updDie d f).hostReqs = s.hostReqs := rfl
@[simp] theorem State.updDie_proxies (s : State) (d : Nat) (f : Die → Die) : (s.updDie d f).proxies = s.proxies := rfl
@[simp] theorem State.updDie_nextHost (s : State) (d : Nat) (f : Die → Die) : (s.updDie d f).nextHost = s.nextHost := rfl
@[simp] theorem State.updDie_hostOut (s : State) (d : Nat) (f : Die → Die) : (s.updDie d f).hostOut = s.hostOut := rfl
@[simp] theorem State.updDie_wsets (s : State) (d : Nat) (f : Die → Die) : (s.updDie d f).wsets = s.wsets := rfl
@[simp] theorem State.updDie_latches (s : State) (d : Nat) (f : Die → Die) : (s.updDie d f).latches = s.latches := rfl
@[simp] theorem State.updDie_pulls (s : State) (d : Nat) (f : Die → Die) : (s.updDie d f).pulls = s.pulls := rfl
@[simp] theorem State.updDie_loads (s : State) (d : Nat) (f : Die → Die) : (s.updDie d f).loads = s.loads := rfl
@[simp] theorem State.updDie_stalled (s : State) (d : Nat) (f : Die → Die) : (s.updDie d f).stalled = s.stalled := rfl
@[simp] theorem State.updDie_accounts (s : State) (d : Nat) (f : Die → Die) : (s.updDie d f).accounts = s.accounts := rfl
@[simp] theorem State.updDie_domAccts (s : State) (d : Nat) (f : Die → Die) : (s.updDie d f).domAccts = s.domAccts := rfl
@[simp] theorem State.updDie_boot (s : State) (d : Nat) (f : Die → Die) : (s.updDie d f).boot = s.boot := rfl

/-! ## A Dray strand changed. Every other field keeps its value. -/

@[simp] theorem State.updDray_tsc (s : State) (d k : Nat) (f : DrayStrand → DrayStrand) : (s.updDray d k f).tsc = s.tsc := rfl
@[simp] theorem State.updDray_dueAt (s : State) (d k : Nat) (f : DrayStrand → DrayStrand) : (s.updDray d k f).dueAt = s.dueAt := rfl
@[simp] theorem State.updDray_clocks (s : State) (d k : Nat) (f : DrayStrand → DrayStrand) : (s.updDray d k f).clocks = s.clocks := rfl
@[simp] theorem State.updDray_steps (s : State) (d k : Nat) (f : DrayStrand → DrayStrand) : (s.updDray d k f).steps = s.steps := rfl
@[simp] theorem State.updDray_free (s : State) (d k : Nat) (f : DrayStrand → DrayStrand) : (s.updDray d k f).free = s.free := rfl
@[simp] theorem State.updDray_cur (s : State) (d k : Nat) (f : DrayStrand → DrayStrand) : (s.updDray d k f).cur = s.cur := rfl
@[simp] theorem State.updDray_agenda (s : State) (d k : Nat) (f : DrayStrand → DrayStrand) : (s.updDray d k f).agenda = s.agenda := rfl
@[simp] theorem State.updDray_inputs (s : State) (d k : Nat) (f : DrayStrand → DrayStrand) : (s.updDray d k f).inputs = s.inputs := rfl
@[simp] theorem State.updDray_mem (s : State) (d k : Nat) (f : DrayStrand → DrayStrand) : (s.updDray d k f).mem = s.mem := rfl
@[simp] theorem State.updDray_stale (s : State) (d k : Nat) (f : DrayStrand → DrayStrand) : (s.updDray d k f).stale = s.stale := rfl
@[simp] theorem State.updDray_poison (s : State) (d k : Nat) (f : DrayStrand → DrayStrand) : (s.updDray d k f).poison = s.poison := rfl
@[simp] theorem State.updDray_stalePois (s : State) (d k : Nat) (f : DrayStrand → DrayStrand) : (s.updDray d k f).stalePois = s.stalePois := rfl
@[simp] theorem State.updDray_cache (s : State) (d k : Nat) (f : DrayStrand → DrayStrand) : (s.updDray d k f).cache = s.cache := rfl
@[simp] theorem State.updDray_repair (s : State) (d k : Nat) (f : DrayStrand → DrayStrand) : (s.updDray d k f).repair = s.repair := rfl
@[simp] theorem State.updDray_eccSeen (s : State) (d k : Nat) (f : DrayStrand → DrayStrand) : (s.updDray d k f).eccSeen = s.eccSeen := rfl
@[simp] theorem State.updDray_l1 (s : State) (d k : Nat) (f : DrayStrand → DrayStrand) : (s.updDray d k f).l1 = s.l1 := rfl
@[simp] theorem State.updDray_l2s (s : State) (d k : Nat) (f : DrayStrand → DrayStrand) : (s.updDray d k f).l2s = s.l2s := rfl
@[simp] theorem State.updDray_l2sPoison (s : State) (d k : Nat) (f : DrayStrand → DrayStrand) : (s.updDray d k f).l2sPoison = s.l2sPoison := rfl
@[simp] theorem State.updDray_releases (s : State) (d k : Nat) (f : DrayStrand → DrayStrand) : (s.updDray d k f).releases = s.releases := rfl
@[simp] theorem State.updDray_homeq (s : State) (d k : Nat) (f : DrayStrand → DrayStrand) : (s.updDray d k f).homeq = s.homeq := rfl
@[simp] theorem State.updDray_waiting (s : State) (d k : Nat) (f : DrayStrand → DrayStrand) : (s.updDray d k f).waiting = s.waiting := rfl
@[simp] theorem State.updDray_nextReq (s : State) (d k : Nat) (f : DrayStrand → DrayStrand) : (s.updDray d k f).nextReq = s.nextReq := rfl
@[simp] theorem State.updDray_staged (s : State) (d k : Nat) (f : DrayStrand → DrayStrand) : (s.updDray d k f).staged = s.staged := rfl
@[simp] theorem State.updDray_tags (s : State) (d k : Nat) (f : DrayStrand → DrayStrand) : (s.updDray d k f).tags = s.tags := rfl
@[simp] theorem State.updDray_launches (s : State) (d k : Nat) (f : DrayStrand → DrayStrand) : (s.updDray d k f).launches = s.launches := rfl
@[simp] theorem State.updDray_notes (s : State) (d k : Nat) (f : DrayStrand → DrayStrand) : (s.updDray d k f).notes = s.notes := rfl
@[simp] theorem State.updDray_walkers (s : State) (d k : Nat) (f : DrayStrand → DrayStrand) : (s.updDray d k f).walkers = s.walkers := rfl
@[simp] theorem State.updDray_gates (s : State) (d k : Nat) (f : DrayStrand → DrayStrand) : (s.updDray d k f).gates = s.gates := rfl
@[simp] theorem State.updDray_coaches (s : State) (d k : Nat) (f : DrayStrand → DrayStrand) : (s.updDray d k f).coaches = s.coaches := rfl
@[simp] theorem State.updDray_quads (s : State) (d k : Nat) (f : DrayStrand → DrayStrand) : (s.updDray d k f).quads = s.quads := rfl
@[simp] theorem State.updDray_bars (s : State) (d k : Nat) (f : DrayStrand → DrayStrand) : (s.updDray d k f).bars = s.bars := rfl
@[simp] theorem State.updDray_barOwner (s : State) (d k : Nat) (f : DrayStrand → DrayStrand) : (s.updDray d k f).barOwner = s.barOwner := rfl
@[simp] theorem State.updDray_barError (s : State) (d k : Nat) (f : DrayStrand → DrayStrand) : (s.updDray d k f).barError = s.barError := rfl
@[simp] theorem State.updDray_tlb (s : State) (d k : Nat) (f : DrayStrand → DrayStrand) : (s.updDray d k f).tlb = s.tlb := rfl
@[simp] theorem State.updDray_walks (s : State) (d k : Nat) (f : DrayStrand → DrayStrand) : (s.updDray d k f).walks = s.walks := rfl
@[simp] theorem State.updDray_walkTurn (s : State) (d k : Nat) (f : DrayStrand → DrayStrand) : (s.updDray d k f).walkTurn = s.walkTurn := rfl
@[simp] theorem State.updDray_walkCache (s : State) (d k : Nat) (f : DrayStrand → DrayStrand) : (s.updDray d k f).walkCache = s.walkCache := rfl
@[simp] theorem State.updDray_root1 (s : State) (d k : Nat) (f : DrayStrand → DrayStrand) : (s.updDray d k f).root1 = s.root1 := rfl
@[simp] theorem State.updDray_root2 (s : State) (d k : Nat) (f : DrayStrand → DrayStrand) : (s.updDray d k f).root2 = s.root2 := rfl
@[simp] theorem State.updDray_rights (s : State) (d k : Nat) (f : DrayStrand → DrayStrand) : (s.updDray d k f).rights = s.rights := rfl
@[simp] theorem State.updDray_windows (s : State) (d k : Nat) (f : DrayStrand → DrayStrand) : (s.updDray d k f).windows = s.windows := rfl
@[simp] theorem State.updDray_featO (s : State) (d k : Nat) (f : DrayStrand → DrayStrand) : (s.updDray d k f).featO = s.featO := rfl
@[simp] theorem State.updDray_featD (s : State) (d k : Nat) (f : DrayStrand → DrayStrand) : (s.updDray d k f).featD = s.featD := rfl
@[simp] theorem State.updDray_offsets (s : State) (d k : Nat) (f : DrayStrand → DrayStrand) : (s.updDray d k f).offsets = s.offsets := rfl
@[simp] theorem State.updDray_dieTab (s : State) (d k : Nat) (f : DrayStrand → DrayStrand) : (s.updDray d k f).dieTab = s.dieTab := rfl
@[simp] theorem State.updDray_coreTab (s : State) (d k : Nat) (f : DrayStrand → DrayStrand) : (s.updDray d k f).coreTab = s.coreTab := rfl
@[simp] theorem State.updDray_domTab (s : State) (d k : Nat) (f : DrayStrand → DrayStrand) : (s.updDray d k f).domTab = s.domTab := rfl
@[simp] theorem State.updDray_faults (s : State) (d k : Nat) (f : DrayStrand → DrayStrand) : (s.updDray d k f).faults = s.faults := rfl
@[simp] theorem State.updDray_pres (s : State) (d k : Nat) (f : DrayStrand → DrayStrand) : (s.updDray d k f).pres = s.pres := rfl
@[simp] theorem State.updDray_preWaits (s : State) (d k : Nat) (f : DrayStrand → DrayStrand) : (s.updDray d k f).preWaits = s.preWaits := rfl
@[simp] theorem State.updDray_ports (s : State) (d k : Nat) (f : DrayStrand → DrayStrand) : (s.updDray d k f).ports = s.ports := rfl
@[simp] theorem State.updDray_epoch (s : State) (d k : Nat) (f : DrayStrand → DrayStrand) : (s.updDray d k f).epoch = s.epoch := rfl
@[simp] theorem State.updDray_known (s : State) (d k : Nat) (f : DrayStrand → DrayStrand) : (s.updDray d k f).known = s.known := rfl
@[simp] theorem State.updDray_remote (s : State) (d k : Nat) (f : DrayStrand → DrayStrand) : (s.updDray d k f).remote = s.remote := rfl
@[simp] theorem State.updDray_spent (s : State) (d k : Nat) (f : DrayStrand → DrayStrand) : (s.updDray d k f).spent = s.spent := rfl
@[simp] theorem State.updDray_nextTag (s : State) (d k : Nat) (f : DrayStrand → DrayStrand) : (s.updDray d k f).nextTag = s.nextTag := rfl
@[simp] theorem State.updDray_dups (s : State) (d k : Nat) (f : DrayStrand → DrayStrand) : (s.updDray d k f).dups = s.dups := rfl
@[simp] theorem State.updDray_heldCq (s : State) (d k : Nat) (f : DrayStrand → DrayStrand) : (s.updDray d k f).heldCq = s.heldCq := rfl
@[simp] theorem State.updDray_fns (s : State) (d k : Nat) (f : DrayStrand → DrayStrand) : (s.updDray d k f).fns = s.fns := rfl
@[simp] theorem State.updDray_hostReqs (s : State) (d k : Nat) (f : DrayStrand → DrayStrand) : (s.updDray d k f).hostReqs = s.hostReqs := rfl
@[simp] theorem State.updDray_proxies (s : State) (d k : Nat) (f : DrayStrand → DrayStrand) : (s.updDray d k f).proxies = s.proxies := rfl
@[simp] theorem State.updDray_nextHost (s : State) (d k : Nat) (f : DrayStrand → DrayStrand) : (s.updDray d k f).nextHost = s.nextHost := rfl
@[simp] theorem State.updDray_hostOut (s : State) (d k : Nat) (f : DrayStrand → DrayStrand) : (s.updDray d k f).hostOut = s.hostOut := rfl
@[simp] theorem State.updDray_wsets (s : State) (d k : Nat) (f : DrayStrand → DrayStrand) : (s.updDray d k f).wsets = s.wsets := rfl
@[simp] theorem State.updDray_latches (s : State) (d k : Nat) (f : DrayStrand → DrayStrand) : (s.updDray d k f).latches = s.latches := rfl
@[simp] theorem State.updDray_pulls (s : State) (d k : Nat) (f : DrayStrand → DrayStrand) : (s.updDray d k f).pulls = s.pulls := rfl
@[simp] theorem State.updDray_loads (s : State) (d k : Nat) (f : DrayStrand → DrayStrand) : (s.updDray d k f).loads = s.loads := rfl
@[simp] theorem State.updDray_stalled (s : State) (d k : Nat) (f : DrayStrand → DrayStrand) : (s.updDray d k f).stalled = s.stalled := rfl
@[simp] theorem State.updDray_accounts (s : State) (d k : Nat) (f : DrayStrand → DrayStrand) : (s.updDray d k f).accounts = s.accounts := rfl
@[simp] theorem State.updDray_domAccts (s : State) (d k : Nat) (f : DrayStrand → DrayStrand) : (s.updDray d k f).domAccts = s.domAccts := rfl
@[simp] theorem State.updDray_boot (s : State) (d k : Nat) (f : DrayStrand → DrayStrand) : (s.updDray d k f).boot = s.boot := rfl

/-! ## Private memory written. Every other field keeps its value. -/

@[simp] theorem State.pmPut_tsc (s : State) (d a : Nat) (bs : List Byte) : (s.pmPut d a bs).tsc = s.tsc := rfl
@[simp] theorem State.pmPut_dueAt (s : State) (d a : Nat) (bs : List Byte) : (s.pmPut d a bs).dueAt = s.dueAt := rfl
@[simp] theorem State.pmPut_clocks (s : State) (d a : Nat) (bs : List Byte) : (s.pmPut d a bs).clocks = s.clocks := rfl
@[simp] theorem State.pmPut_steps (s : State) (d a : Nat) (bs : List Byte) : (s.pmPut d a bs).steps = s.steps := rfl
@[simp] theorem State.pmPut_free (s : State) (d a : Nat) (bs : List Byte) : (s.pmPut d a bs).free = s.free := rfl
@[simp] theorem State.pmPut_cur (s : State) (d a : Nat) (bs : List Byte) : (s.pmPut d a bs).cur = s.cur := rfl
@[simp] theorem State.pmPut_agenda (s : State) (d a : Nat) (bs : List Byte) : (s.pmPut d a bs).agenda = s.agenda := rfl
@[simp] theorem State.pmPut_inputs (s : State) (d a : Nat) (bs : List Byte) : (s.pmPut d a bs).inputs = s.inputs := rfl
@[simp] theorem State.pmPut_mem (s : State) (d a : Nat) (bs : List Byte) : (s.pmPut d a bs).mem = s.mem := rfl
@[simp] theorem State.pmPut_stale (s : State) (d a : Nat) (bs : List Byte) : (s.pmPut d a bs).stale = s.stale := rfl
@[simp] theorem State.pmPut_poison (s : State) (d a : Nat) (bs : List Byte) : (s.pmPut d a bs).poison = s.poison := rfl
@[simp] theorem State.pmPut_stalePois (s : State) (d a : Nat) (bs : List Byte) : (s.pmPut d a bs).stalePois = s.stalePois := rfl
@[simp] theorem State.pmPut_cache (s : State) (d a : Nat) (bs : List Byte) : (s.pmPut d a bs).cache = s.cache := rfl
@[simp] theorem State.pmPut_repair (s : State) (d a : Nat) (bs : List Byte) : (s.pmPut d a bs).repair = s.repair := rfl
@[simp] theorem State.pmPut_eccSeen (s : State) (d a : Nat) (bs : List Byte) : (s.pmPut d a bs).eccSeen = s.eccSeen := rfl
@[simp] theorem State.pmPut_l1 (s : State) (d a : Nat) (bs : List Byte) : (s.pmPut d a bs).l1 = s.l1 := rfl
@[simp] theorem State.pmPut_l2s (s : State) (d a : Nat) (bs : List Byte) : (s.pmPut d a bs).l2s = s.l2s := rfl
@[simp] theorem State.pmPut_l2sPoison (s : State) (d a : Nat) (bs : List Byte) : (s.pmPut d a bs).l2sPoison = s.l2sPoison := rfl
@[simp] theorem State.pmPut_releases (s : State) (d a : Nat) (bs : List Byte) : (s.pmPut d a bs).releases = s.releases := rfl
@[simp] theorem State.pmPut_homeq (s : State) (d a : Nat) (bs : List Byte) : (s.pmPut d a bs).homeq = s.homeq := rfl
@[simp] theorem State.pmPut_waiting (s : State) (d a : Nat) (bs : List Byte) : (s.pmPut d a bs).waiting = s.waiting := rfl
@[simp] theorem State.pmPut_nextReq (s : State) (d a : Nat) (bs : List Byte) : (s.pmPut d a bs).nextReq = s.nextReq := rfl
@[simp] theorem State.pmPut_staged (s : State) (d a : Nat) (bs : List Byte) : (s.pmPut d a bs).staged = s.staged := rfl
@[simp] theorem State.pmPut_tags (s : State) (d a : Nat) (bs : List Byte) : (s.pmPut d a bs).tags = s.tags := rfl
@[simp] theorem State.pmPut_launches (s : State) (d a : Nat) (bs : List Byte) : (s.pmPut d a bs).launches = s.launches := rfl
@[simp] theorem State.pmPut_notes (s : State) (d a : Nat) (bs : List Byte) : (s.pmPut d a bs).notes = s.notes := rfl
@[simp] theorem State.pmPut_walkers (s : State) (d a : Nat) (bs : List Byte) : (s.pmPut d a bs).walkers = s.walkers := rfl
@[simp] theorem State.pmPut_gates (s : State) (d a : Nat) (bs : List Byte) : (s.pmPut d a bs).gates = s.gates := rfl
@[simp] theorem State.pmPut_coaches (s : State) (d a : Nat) (bs : List Byte) : (s.pmPut d a bs).coaches = s.coaches := rfl
@[simp] theorem State.pmPut_quads (s : State) (d a : Nat) (bs : List Byte) : (s.pmPut d a bs).quads = s.quads := rfl
@[simp] theorem State.pmPut_bars (s : State) (d a : Nat) (bs : List Byte) : (s.pmPut d a bs).bars = s.bars := rfl
@[simp] theorem State.pmPut_barOwner (s : State) (d a : Nat) (bs : List Byte) : (s.pmPut d a bs).barOwner = s.barOwner := rfl
@[simp] theorem State.pmPut_barError (s : State) (d a : Nat) (bs : List Byte) : (s.pmPut d a bs).barError = s.barError := rfl
@[simp] theorem State.pmPut_tlb (s : State) (d a : Nat) (bs : List Byte) : (s.pmPut d a bs).tlb = s.tlb := rfl
@[simp] theorem State.pmPut_walks (s : State) (d a : Nat) (bs : List Byte) : (s.pmPut d a bs).walks = s.walks := rfl
@[simp] theorem State.pmPut_walkTurn (s : State) (d a : Nat) (bs : List Byte) : (s.pmPut d a bs).walkTurn = s.walkTurn := rfl
@[simp] theorem State.pmPut_walkCache (s : State) (d a : Nat) (bs : List Byte) : (s.pmPut d a bs).walkCache = s.walkCache := rfl
@[simp] theorem State.pmPut_root1 (s : State) (d a : Nat) (bs : List Byte) : (s.pmPut d a bs).root1 = s.root1 := rfl
@[simp] theorem State.pmPut_root2 (s : State) (d a : Nat) (bs : List Byte) : (s.pmPut d a bs).root2 = s.root2 := rfl
@[simp] theorem State.pmPut_rights (s : State) (d a : Nat) (bs : List Byte) : (s.pmPut d a bs).rights = s.rights := rfl
@[simp] theorem State.pmPut_windows (s : State) (d a : Nat) (bs : List Byte) : (s.pmPut d a bs).windows = s.windows := rfl
@[simp] theorem State.pmPut_featO (s : State) (d a : Nat) (bs : List Byte) : (s.pmPut d a bs).featO = s.featO := rfl
@[simp] theorem State.pmPut_featD (s : State) (d a : Nat) (bs : List Byte) : (s.pmPut d a bs).featD = s.featD := rfl
@[simp] theorem State.pmPut_offsets (s : State) (d a : Nat) (bs : List Byte) : (s.pmPut d a bs).offsets = s.offsets := rfl
@[simp] theorem State.pmPut_dieTab (s : State) (d a : Nat) (bs : List Byte) : (s.pmPut d a bs).dieTab = s.dieTab := rfl
@[simp] theorem State.pmPut_coreTab (s : State) (d a : Nat) (bs : List Byte) : (s.pmPut d a bs).coreTab = s.coreTab := rfl
@[simp] theorem State.pmPut_domTab (s : State) (d a : Nat) (bs : List Byte) : (s.pmPut d a bs).domTab = s.domTab := rfl
@[simp] theorem State.pmPut_faults (s : State) (d a : Nat) (bs : List Byte) : (s.pmPut d a bs).faults = s.faults := rfl
@[simp] theorem State.pmPut_pres (s : State) (d a : Nat) (bs : List Byte) : (s.pmPut d a bs).pres = s.pres := rfl
@[simp] theorem State.pmPut_preWaits (s : State) (d a : Nat) (bs : List Byte) : (s.pmPut d a bs).preWaits = s.preWaits := rfl
@[simp] theorem State.pmPut_ports (s : State) (d a : Nat) (bs : List Byte) : (s.pmPut d a bs).ports = s.ports := rfl
@[simp] theorem State.pmPut_epoch (s : State) (d a : Nat) (bs : List Byte) : (s.pmPut d a bs).epoch = s.epoch := rfl
@[simp] theorem State.pmPut_known (s : State) (d a : Nat) (bs : List Byte) : (s.pmPut d a bs).known = s.known := rfl
@[simp] theorem State.pmPut_remote (s : State) (d a : Nat) (bs : List Byte) : (s.pmPut d a bs).remote = s.remote := rfl
@[simp] theorem State.pmPut_spent (s : State) (d a : Nat) (bs : List Byte) : (s.pmPut d a bs).spent = s.spent := rfl
@[simp] theorem State.pmPut_nextTag (s : State) (d a : Nat) (bs : List Byte) : (s.pmPut d a bs).nextTag = s.nextTag := rfl
@[simp] theorem State.pmPut_dups (s : State) (d a : Nat) (bs : List Byte) : (s.pmPut d a bs).dups = s.dups := rfl
@[simp] theorem State.pmPut_heldCq (s : State) (d a : Nat) (bs : List Byte) : (s.pmPut d a bs).heldCq = s.heldCq := rfl
@[simp] theorem State.pmPut_fns (s : State) (d a : Nat) (bs : List Byte) : (s.pmPut d a bs).fns = s.fns := rfl
@[simp] theorem State.pmPut_hostReqs (s : State) (d a : Nat) (bs : List Byte) : (s.pmPut d a bs).hostReqs = s.hostReqs := rfl
@[simp] theorem State.pmPut_proxies (s : State) (d a : Nat) (bs : List Byte) : (s.pmPut d a bs).proxies = s.proxies := rfl
@[simp] theorem State.pmPut_nextHost (s : State) (d a : Nat) (bs : List Byte) : (s.pmPut d a bs).nextHost = s.nextHost := rfl
@[simp] theorem State.pmPut_hostOut (s : State) (d a : Nat) (bs : List Byte) : (s.pmPut d a bs).hostOut = s.hostOut := rfl
@[simp] theorem State.pmPut_wsets (s : State) (d a : Nat) (bs : List Byte) : (s.pmPut d a bs).wsets = s.wsets := rfl
@[simp] theorem State.pmPut_latches (s : State) (d a : Nat) (bs : List Byte) : (s.pmPut d a bs).latches = s.latches := rfl
@[simp] theorem State.pmPut_pulls (s : State) (d a : Nat) (bs : List Byte) : (s.pmPut d a bs).pulls = s.pulls := rfl
@[simp] theorem State.pmPut_loads (s : State) (d a : Nat) (bs : List Byte) : (s.pmPut d a bs).loads = s.loads := rfl
@[simp] theorem State.pmPut_stalled (s : State) (d a : Nat) (bs : List Byte) : (s.pmPut d a bs).stalled = s.stalled := rfl
@[simp] theorem State.pmPut_accounts (s : State) (d a : Nat) (bs : List Byte) : (s.pmPut d a bs).accounts = s.accounts := rfl
@[simp] theorem State.pmPut_domAccts (s : State) (d a : Nat) (bs : List Byte) : (s.pmPut d a bs).domAccts = s.domAccts := rfl
@[simp] theorem State.pmPut_boot (s : State) (d a : Nat) (bs : List Byte) : (s.pmPut d a bs).boot = s.boot := rfl

/-! ## A quadrant replaced. Every other field keeps its value. -/

@[simp] theorem State.setQuad_tsc (s : State) (q : Nat) (v : Quadrant) : (s.setQuad q v).tsc = s.tsc := rfl
@[simp] theorem State.setQuad_dueAt (s : State) (q : Nat) (v : Quadrant) : (s.setQuad q v).dueAt = s.dueAt := rfl
@[simp] theorem State.setQuad_clocks (s : State) (q : Nat) (v : Quadrant) : (s.setQuad q v).clocks = s.clocks := rfl
@[simp] theorem State.setQuad_steps (s : State) (q : Nat) (v : Quadrant) : (s.setQuad q v).steps = s.steps := rfl
@[simp] theorem State.setQuad_free (s : State) (q : Nat) (v : Quadrant) : (s.setQuad q v).free = s.free := rfl
@[simp] theorem State.setQuad_cur (s : State) (q : Nat) (v : Quadrant) : (s.setQuad q v).cur = s.cur := rfl
@[simp] theorem State.setQuad_agenda (s : State) (q : Nat) (v : Quadrant) : (s.setQuad q v).agenda = s.agenda := rfl
@[simp] theorem State.setQuad_inputs (s : State) (q : Nat) (v : Quadrant) : (s.setQuad q v).inputs = s.inputs := rfl
@[simp] theorem State.setQuad_mem (s : State) (q : Nat) (v : Quadrant) : (s.setQuad q v).mem = s.mem := rfl
@[simp] theorem State.setQuad_stale (s : State) (q : Nat) (v : Quadrant) : (s.setQuad q v).stale = s.stale := rfl
@[simp] theorem State.setQuad_poison (s : State) (q : Nat) (v : Quadrant) : (s.setQuad q v).poison = s.poison := rfl
@[simp] theorem State.setQuad_stalePois (s : State) (q : Nat) (v : Quadrant) : (s.setQuad q v).stalePois = s.stalePois := rfl
@[simp] theorem State.setQuad_cache (s : State) (q : Nat) (v : Quadrant) : (s.setQuad q v).cache = s.cache := rfl
@[simp] theorem State.setQuad_repair (s : State) (q : Nat) (v : Quadrant) : (s.setQuad q v).repair = s.repair := rfl
@[simp] theorem State.setQuad_eccSeen (s : State) (q : Nat) (v : Quadrant) : (s.setQuad q v).eccSeen = s.eccSeen := rfl
@[simp] theorem State.setQuad_l1 (s : State) (q : Nat) (v : Quadrant) : (s.setQuad q v).l1 = s.l1 := rfl
@[simp] theorem State.setQuad_l2s (s : State) (q : Nat) (v : Quadrant) : (s.setQuad q v).l2s = s.l2s := rfl
@[simp] theorem State.setQuad_l2sPoison (s : State) (q : Nat) (v : Quadrant) : (s.setQuad q v).l2sPoison = s.l2sPoison := rfl
@[simp] theorem State.setQuad_releases (s : State) (q : Nat) (v : Quadrant) : (s.setQuad q v).releases = s.releases := rfl
@[simp] theorem State.setQuad_homeq (s : State) (q : Nat) (v : Quadrant) : (s.setQuad q v).homeq = s.homeq := rfl
@[simp] theorem State.setQuad_waiting (s : State) (q : Nat) (v : Quadrant) : (s.setQuad q v).waiting = s.waiting := rfl
@[simp] theorem State.setQuad_nextReq (s : State) (q : Nat) (v : Quadrant) : (s.setQuad q v).nextReq = s.nextReq := rfl
@[simp] theorem State.setQuad_staged (s : State) (q : Nat) (v : Quadrant) : (s.setQuad q v).staged = s.staged := rfl
@[simp] theorem State.setQuad_tags (s : State) (q : Nat) (v : Quadrant) : (s.setQuad q v).tags = s.tags := rfl
@[simp] theorem State.setQuad_launches (s : State) (q : Nat) (v : Quadrant) : (s.setQuad q v).launches = s.launches := rfl
@[simp] theorem State.setQuad_notes (s : State) (q : Nat) (v : Quadrant) : (s.setQuad q v).notes = s.notes := rfl
@[simp] theorem State.setQuad_walkers (s : State) (q : Nat) (v : Quadrant) : (s.setQuad q v).walkers = s.walkers := rfl
@[simp] theorem State.setQuad_gates (s : State) (q : Nat) (v : Quadrant) : (s.setQuad q v).gates = s.gates := rfl
@[simp] theorem State.setQuad_coaches (s : State) (q : Nat) (v : Quadrant) : (s.setQuad q v).coaches = s.coaches := rfl
@[simp] theorem State.setQuad_bars (s : State) (q : Nat) (v : Quadrant) : (s.setQuad q v).bars = s.bars := rfl
@[simp] theorem State.setQuad_barOwner (s : State) (q : Nat) (v : Quadrant) : (s.setQuad q v).barOwner = s.barOwner := rfl
@[simp] theorem State.setQuad_barError (s : State) (q : Nat) (v : Quadrant) : (s.setQuad q v).barError = s.barError := rfl
@[simp] theorem State.setQuad_tlb (s : State) (q : Nat) (v : Quadrant) : (s.setQuad q v).tlb = s.tlb := rfl
@[simp] theorem State.setQuad_walks (s : State) (q : Nat) (v : Quadrant) : (s.setQuad q v).walks = s.walks := rfl
@[simp] theorem State.setQuad_walkTurn (s : State) (q : Nat) (v : Quadrant) : (s.setQuad q v).walkTurn = s.walkTurn := rfl
@[simp] theorem State.setQuad_walkCache (s : State) (q : Nat) (v : Quadrant) : (s.setQuad q v).walkCache = s.walkCache := rfl
@[simp] theorem State.setQuad_root1 (s : State) (q : Nat) (v : Quadrant) : (s.setQuad q v).root1 = s.root1 := rfl
@[simp] theorem State.setQuad_root2 (s : State) (q : Nat) (v : Quadrant) : (s.setQuad q v).root2 = s.root2 := rfl
@[simp] theorem State.setQuad_dies (s : State) (q : Nat) (v : Quadrant) : (s.setQuad q v).dies = s.dies := rfl
@[simp] theorem State.setQuad_rights (s : State) (q : Nat) (v : Quadrant) : (s.setQuad q v).rights = s.rights := rfl
@[simp] theorem State.setQuad_windows (s : State) (q : Nat) (v : Quadrant) : (s.setQuad q v).windows = s.windows := rfl
@[simp] theorem State.setQuad_featO (s : State) (q : Nat) (v : Quadrant) : (s.setQuad q v).featO = s.featO := rfl
@[simp] theorem State.setQuad_featD (s : State) (q : Nat) (v : Quadrant) : (s.setQuad q v).featD = s.featD := rfl
@[simp] theorem State.setQuad_offsets (s : State) (q : Nat) (v : Quadrant) : (s.setQuad q v).offsets = s.offsets := rfl
@[simp] theorem State.setQuad_dieTab (s : State) (q : Nat) (v : Quadrant) : (s.setQuad q v).dieTab = s.dieTab := rfl
@[simp] theorem State.setQuad_coreTab (s : State) (q : Nat) (v : Quadrant) : (s.setQuad q v).coreTab = s.coreTab := rfl
@[simp] theorem State.setQuad_domTab (s : State) (q : Nat) (v : Quadrant) : (s.setQuad q v).domTab = s.domTab := rfl
@[simp] theorem State.setQuad_faults (s : State) (q : Nat) (v : Quadrant) : (s.setQuad q v).faults = s.faults := rfl
@[simp] theorem State.setQuad_pres (s : State) (q : Nat) (v : Quadrant) : (s.setQuad q v).pres = s.pres := rfl
@[simp] theorem State.setQuad_preWaits (s : State) (q : Nat) (v : Quadrant) : (s.setQuad q v).preWaits = s.preWaits := rfl
@[simp] theorem State.setQuad_ports (s : State) (q : Nat) (v : Quadrant) : (s.setQuad q v).ports = s.ports := rfl
@[simp] theorem State.setQuad_epoch (s : State) (q : Nat) (v : Quadrant) : (s.setQuad q v).epoch = s.epoch := rfl
@[simp] theorem State.setQuad_known (s : State) (q : Nat) (v : Quadrant) : (s.setQuad q v).known = s.known := rfl
@[simp] theorem State.setQuad_remote (s : State) (q : Nat) (v : Quadrant) : (s.setQuad q v).remote = s.remote := rfl
@[simp] theorem State.setQuad_spent (s : State) (q : Nat) (v : Quadrant) : (s.setQuad q v).spent = s.spent := rfl
@[simp] theorem State.setQuad_nextTag (s : State) (q : Nat) (v : Quadrant) : (s.setQuad q v).nextTag = s.nextTag := rfl
@[simp] theorem State.setQuad_dups (s : State) (q : Nat) (v : Quadrant) : (s.setQuad q v).dups = s.dups := rfl
@[simp] theorem State.setQuad_heldCq (s : State) (q : Nat) (v : Quadrant) : (s.setQuad q v).heldCq = s.heldCq := rfl
@[simp] theorem State.setQuad_fns (s : State) (q : Nat) (v : Quadrant) : (s.setQuad q v).fns = s.fns := rfl
@[simp] theorem State.setQuad_hostReqs (s : State) (q : Nat) (v : Quadrant) : (s.setQuad q v).hostReqs = s.hostReqs := rfl
@[simp] theorem State.setQuad_proxies (s : State) (q : Nat) (v : Quadrant) : (s.setQuad q v).proxies = s.proxies := rfl
@[simp] theorem State.setQuad_nextHost (s : State) (q : Nat) (v : Quadrant) : (s.setQuad q v).nextHost = s.nextHost := rfl
@[simp] theorem State.setQuad_hostOut (s : State) (q : Nat) (v : Quadrant) : (s.setQuad q v).hostOut = s.hostOut := rfl
@[simp] theorem State.setQuad_wsets (s : State) (q : Nat) (v : Quadrant) : (s.setQuad q v).wsets = s.wsets := rfl
@[simp] theorem State.setQuad_latches (s : State) (q : Nat) (v : Quadrant) : (s.setQuad q v).latches = s.latches := rfl
@[simp] theorem State.setQuad_pulls (s : State) (q : Nat) (v : Quadrant) : (s.setQuad q v).pulls = s.pulls := rfl
@[simp] theorem State.setQuad_loads (s : State) (q : Nat) (v : Quadrant) : (s.setQuad q v).loads = s.loads := rfl
@[simp] theorem State.setQuad_stalled (s : State) (q : Nat) (v : Quadrant) : (s.setQuad q v).stalled = s.stalled := rfl
@[simp] theorem State.setQuad_accounts (s : State) (q : Nat) (v : Quadrant) : (s.setQuad q v).accounts = s.accounts := rfl
@[simp] theorem State.setQuad_domAccts (s : State) (q : Nat) (v : Quadrant) : (s.setQuad q v).domAccts = s.domAccts := rfl
@[simp] theorem State.setQuad_boot (s : State) (q : Nat) (v : Quadrant) : (s.setQuad q v).boot = s.boot := rfl

/-! ## A quadrant changed. Every other field keeps its value. -/

@[simp] theorem State.updQuad_tsc (s : State) (q : Nat) (f : Quadrant → Quadrant) : (s.updQuad q f).tsc = s.tsc := rfl
@[simp] theorem State.updQuad_dueAt (s : State) (q : Nat) (f : Quadrant → Quadrant) : (s.updQuad q f).dueAt = s.dueAt := rfl
@[simp] theorem State.updQuad_clocks (s : State) (q : Nat) (f : Quadrant → Quadrant) : (s.updQuad q f).clocks = s.clocks := rfl
@[simp] theorem State.updQuad_steps (s : State) (q : Nat) (f : Quadrant → Quadrant) : (s.updQuad q f).steps = s.steps := rfl
@[simp] theorem State.updQuad_free (s : State) (q : Nat) (f : Quadrant → Quadrant) : (s.updQuad q f).free = s.free := rfl
@[simp] theorem State.updQuad_cur (s : State) (q : Nat) (f : Quadrant → Quadrant) : (s.updQuad q f).cur = s.cur := rfl
@[simp] theorem State.updQuad_agenda (s : State) (q : Nat) (f : Quadrant → Quadrant) : (s.updQuad q f).agenda = s.agenda := rfl
@[simp] theorem State.updQuad_inputs (s : State) (q : Nat) (f : Quadrant → Quadrant) : (s.updQuad q f).inputs = s.inputs := rfl
@[simp] theorem State.updQuad_mem (s : State) (q : Nat) (f : Quadrant → Quadrant) : (s.updQuad q f).mem = s.mem := rfl
@[simp] theorem State.updQuad_stale (s : State) (q : Nat) (f : Quadrant → Quadrant) : (s.updQuad q f).stale = s.stale := rfl
@[simp] theorem State.updQuad_poison (s : State) (q : Nat) (f : Quadrant → Quadrant) : (s.updQuad q f).poison = s.poison := rfl
@[simp] theorem State.updQuad_stalePois (s : State) (q : Nat) (f : Quadrant → Quadrant) : (s.updQuad q f).stalePois = s.stalePois := rfl
@[simp] theorem State.updQuad_cache (s : State) (q : Nat) (f : Quadrant → Quadrant) : (s.updQuad q f).cache = s.cache := rfl
@[simp] theorem State.updQuad_repair (s : State) (q : Nat) (f : Quadrant → Quadrant) : (s.updQuad q f).repair = s.repair := rfl
@[simp] theorem State.updQuad_eccSeen (s : State) (q : Nat) (f : Quadrant → Quadrant) : (s.updQuad q f).eccSeen = s.eccSeen := rfl
@[simp] theorem State.updQuad_l1 (s : State) (q : Nat) (f : Quadrant → Quadrant) : (s.updQuad q f).l1 = s.l1 := rfl
@[simp] theorem State.updQuad_l2s (s : State) (q : Nat) (f : Quadrant → Quadrant) : (s.updQuad q f).l2s = s.l2s := rfl
@[simp] theorem State.updQuad_l2sPoison (s : State) (q : Nat) (f : Quadrant → Quadrant) : (s.updQuad q f).l2sPoison = s.l2sPoison := rfl
@[simp] theorem State.updQuad_releases (s : State) (q : Nat) (f : Quadrant → Quadrant) : (s.updQuad q f).releases = s.releases := rfl
@[simp] theorem State.updQuad_homeq (s : State) (q : Nat) (f : Quadrant → Quadrant) : (s.updQuad q f).homeq = s.homeq := rfl
@[simp] theorem State.updQuad_waiting (s : State) (q : Nat) (f : Quadrant → Quadrant) : (s.updQuad q f).waiting = s.waiting := rfl
@[simp] theorem State.updQuad_nextReq (s : State) (q : Nat) (f : Quadrant → Quadrant) : (s.updQuad q f).nextReq = s.nextReq := rfl
@[simp] theorem State.updQuad_staged (s : State) (q : Nat) (f : Quadrant → Quadrant) : (s.updQuad q f).staged = s.staged := rfl
@[simp] theorem State.updQuad_tags (s : State) (q : Nat) (f : Quadrant → Quadrant) : (s.updQuad q f).tags = s.tags := rfl
@[simp] theorem State.updQuad_launches (s : State) (q : Nat) (f : Quadrant → Quadrant) : (s.updQuad q f).launches = s.launches := rfl
@[simp] theorem State.updQuad_notes (s : State) (q : Nat) (f : Quadrant → Quadrant) : (s.updQuad q f).notes = s.notes := rfl
@[simp] theorem State.updQuad_walkers (s : State) (q : Nat) (f : Quadrant → Quadrant) : (s.updQuad q f).walkers = s.walkers := rfl
@[simp] theorem State.updQuad_gates (s : State) (q : Nat) (f : Quadrant → Quadrant) : (s.updQuad q f).gates = s.gates := rfl
@[simp] theorem State.updQuad_coaches (s : State) (q : Nat) (f : Quadrant → Quadrant) : (s.updQuad q f).coaches = s.coaches := rfl
@[simp] theorem State.updQuad_bars (s : State) (q : Nat) (f : Quadrant → Quadrant) : (s.updQuad q f).bars = s.bars := rfl
@[simp] theorem State.updQuad_barOwner (s : State) (q : Nat) (f : Quadrant → Quadrant) : (s.updQuad q f).barOwner = s.barOwner := rfl
@[simp] theorem State.updQuad_barError (s : State) (q : Nat) (f : Quadrant → Quadrant) : (s.updQuad q f).barError = s.barError := rfl
@[simp] theorem State.updQuad_tlb (s : State) (q : Nat) (f : Quadrant → Quadrant) : (s.updQuad q f).tlb = s.tlb := rfl
@[simp] theorem State.updQuad_walks (s : State) (q : Nat) (f : Quadrant → Quadrant) : (s.updQuad q f).walks = s.walks := rfl
@[simp] theorem State.updQuad_walkTurn (s : State) (q : Nat) (f : Quadrant → Quadrant) : (s.updQuad q f).walkTurn = s.walkTurn := rfl
@[simp] theorem State.updQuad_walkCache (s : State) (q : Nat) (f : Quadrant → Quadrant) : (s.updQuad q f).walkCache = s.walkCache := rfl
@[simp] theorem State.updQuad_root1 (s : State) (q : Nat) (f : Quadrant → Quadrant) : (s.updQuad q f).root1 = s.root1 := rfl
@[simp] theorem State.updQuad_root2 (s : State) (q : Nat) (f : Quadrant → Quadrant) : (s.updQuad q f).root2 = s.root2 := rfl
@[simp] theorem State.updQuad_dies (s : State) (q : Nat) (f : Quadrant → Quadrant) : (s.updQuad q f).dies = s.dies := rfl
@[simp] theorem State.updQuad_rights (s : State) (q : Nat) (f : Quadrant → Quadrant) : (s.updQuad q f).rights = s.rights := rfl
@[simp] theorem State.updQuad_windows (s : State) (q : Nat) (f : Quadrant → Quadrant) : (s.updQuad q f).windows = s.windows := rfl
@[simp] theorem State.updQuad_featO (s : State) (q : Nat) (f : Quadrant → Quadrant) : (s.updQuad q f).featO = s.featO := rfl
@[simp] theorem State.updQuad_featD (s : State) (q : Nat) (f : Quadrant → Quadrant) : (s.updQuad q f).featD = s.featD := rfl
@[simp] theorem State.updQuad_offsets (s : State) (q : Nat) (f : Quadrant → Quadrant) : (s.updQuad q f).offsets = s.offsets := rfl
@[simp] theorem State.updQuad_dieTab (s : State) (q : Nat) (f : Quadrant → Quadrant) : (s.updQuad q f).dieTab = s.dieTab := rfl
@[simp] theorem State.updQuad_coreTab (s : State) (q : Nat) (f : Quadrant → Quadrant) : (s.updQuad q f).coreTab = s.coreTab := rfl
@[simp] theorem State.updQuad_domTab (s : State) (q : Nat) (f : Quadrant → Quadrant) : (s.updQuad q f).domTab = s.domTab := rfl
@[simp] theorem State.updQuad_faults (s : State) (q : Nat) (f : Quadrant → Quadrant) : (s.updQuad q f).faults = s.faults := rfl
@[simp] theorem State.updQuad_pres (s : State) (q : Nat) (f : Quadrant → Quadrant) : (s.updQuad q f).pres = s.pres := rfl
@[simp] theorem State.updQuad_preWaits (s : State) (q : Nat) (f : Quadrant → Quadrant) : (s.updQuad q f).preWaits = s.preWaits := rfl
@[simp] theorem State.updQuad_ports (s : State) (q : Nat) (f : Quadrant → Quadrant) : (s.updQuad q f).ports = s.ports := rfl
@[simp] theorem State.updQuad_epoch (s : State) (q : Nat) (f : Quadrant → Quadrant) : (s.updQuad q f).epoch = s.epoch := rfl
@[simp] theorem State.updQuad_known (s : State) (q : Nat) (f : Quadrant → Quadrant) : (s.updQuad q f).known = s.known := rfl
@[simp] theorem State.updQuad_remote (s : State) (q : Nat) (f : Quadrant → Quadrant) : (s.updQuad q f).remote = s.remote := rfl
@[simp] theorem State.updQuad_spent (s : State) (q : Nat) (f : Quadrant → Quadrant) : (s.updQuad q f).spent = s.spent := rfl
@[simp] theorem State.updQuad_nextTag (s : State) (q : Nat) (f : Quadrant → Quadrant) : (s.updQuad q f).nextTag = s.nextTag := rfl
@[simp] theorem State.updQuad_dups (s : State) (q : Nat) (f : Quadrant → Quadrant) : (s.updQuad q f).dups = s.dups := rfl
@[simp] theorem State.updQuad_heldCq (s : State) (q : Nat) (f : Quadrant → Quadrant) : (s.updQuad q f).heldCq = s.heldCq := rfl
@[simp] theorem State.updQuad_fns (s : State) (q : Nat) (f : Quadrant → Quadrant) : (s.updQuad q f).fns = s.fns := rfl
@[simp] theorem State.updQuad_hostReqs (s : State) (q : Nat) (f : Quadrant → Quadrant) : (s.updQuad q f).hostReqs = s.hostReqs := rfl
@[simp] theorem State.updQuad_proxies (s : State) (q : Nat) (f : Quadrant → Quadrant) : (s.updQuad q f).proxies = s.proxies := rfl
@[simp] theorem State.updQuad_nextHost (s : State) (q : Nat) (f : Quadrant → Quadrant) : (s.updQuad q f).nextHost = s.nextHost := rfl
@[simp] theorem State.updQuad_hostOut (s : State) (q : Nat) (f : Quadrant → Quadrant) : (s.updQuad q f).hostOut = s.hostOut := rfl
@[simp] theorem State.updQuad_wsets (s : State) (q : Nat) (f : Quadrant → Quadrant) : (s.updQuad q f).wsets = s.wsets := rfl
@[simp] theorem State.updQuad_latches (s : State) (q : Nat) (f : Quadrant → Quadrant) : (s.updQuad q f).latches = s.latches := rfl
@[simp] theorem State.updQuad_pulls (s : State) (q : Nat) (f : Quadrant → Quadrant) : (s.updQuad q f).pulls = s.pulls := rfl
@[simp] theorem State.updQuad_loads (s : State) (q : Nat) (f : Quadrant → Quadrant) : (s.updQuad q f).loads = s.loads := rfl
@[simp] theorem State.updQuad_stalled (s : State) (q : Nat) (f : Quadrant → Quadrant) : (s.updQuad q f).stalled = s.stalled := rfl
@[simp] theorem State.updQuad_accounts (s : State) (q : Nat) (f : Quadrant → Quadrant) : (s.updQuad q f).accounts = s.accounts := rfl
@[simp] theorem State.updQuad_domAccts (s : State) (q : Nat) (f : Quadrant → Quadrant) : (s.updQuad q f).domAccts = s.domAccts := rfl
@[simp] theorem State.updQuad_boot (s : State) (q : Nat) (f : Quadrant → Quadrant) : (s.updQuad q f).boot = s.boot := rfl

/-! ## A link port changed. Every other field keeps its value. -/

@[simp] theorem State.updPort_tsc (s : State) (p : Nat) (f : Port → Port) : (s.updPort p f).tsc = s.tsc := rfl
@[simp] theorem State.updPort_dueAt (s : State) (p : Nat) (f : Port → Port) : (s.updPort p f).dueAt = s.dueAt := rfl
@[simp] theorem State.updPort_clocks (s : State) (p : Nat) (f : Port → Port) : (s.updPort p f).clocks = s.clocks := rfl
@[simp] theorem State.updPort_steps (s : State) (p : Nat) (f : Port → Port) : (s.updPort p f).steps = s.steps := rfl
@[simp] theorem State.updPort_free (s : State) (p : Nat) (f : Port → Port) : (s.updPort p f).free = s.free := rfl
@[simp] theorem State.updPort_cur (s : State) (p : Nat) (f : Port → Port) : (s.updPort p f).cur = s.cur := rfl
@[simp] theorem State.updPort_agenda (s : State) (p : Nat) (f : Port → Port) : (s.updPort p f).agenda = s.agenda := rfl
@[simp] theorem State.updPort_inputs (s : State) (p : Nat) (f : Port → Port) : (s.updPort p f).inputs = s.inputs := rfl
@[simp] theorem State.updPort_mem (s : State) (p : Nat) (f : Port → Port) : (s.updPort p f).mem = s.mem := rfl
@[simp] theorem State.updPort_stale (s : State) (p : Nat) (f : Port → Port) : (s.updPort p f).stale = s.stale := rfl
@[simp] theorem State.updPort_poison (s : State) (p : Nat) (f : Port → Port) : (s.updPort p f).poison = s.poison := rfl
@[simp] theorem State.updPort_stalePois (s : State) (p : Nat) (f : Port → Port) : (s.updPort p f).stalePois = s.stalePois := rfl
@[simp] theorem State.updPort_cache (s : State) (p : Nat) (f : Port → Port) : (s.updPort p f).cache = s.cache := rfl
@[simp] theorem State.updPort_repair (s : State) (p : Nat) (f : Port → Port) : (s.updPort p f).repair = s.repair := rfl
@[simp] theorem State.updPort_eccSeen (s : State) (p : Nat) (f : Port → Port) : (s.updPort p f).eccSeen = s.eccSeen := rfl
@[simp] theorem State.updPort_l1 (s : State) (p : Nat) (f : Port → Port) : (s.updPort p f).l1 = s.l1 := rfl
@[simp] theorem State.updPort_l2s (s : State) (p : Nat) (f : Port → Port) : (s.updPort p f).l2s = s.l2s := rfl
@[simp] theorem State.updPort_l2sPoison (s : State) (p : Nat) (f : Port → Port) : (s.updPort p f).l2sPoison = s.l2sPoison := rfl
@[simp] theorem State.updPort_releases (s : State) (p : Nat) (f : Port → Port) : (s.updPort p f).releases = s.releases := rfl
@[simp] theorem State.updPort_homeq (s : State) (p : Nat) (f : Port → Port) : (s.updPort p f).homeq = s.homeq := rfl
@[simp] theorem State.updPort_waiting (s : State) (p : Nat) (f : Port → Port) : (s.updPort p f).waiting = s.waiting := rfl
@[simp] theorem State.updPort_nextReq (s : State) (p : Nat) (f : Port → Port) : (s.updPort p f).nextReq = s.nextReq := rfl
@[simp] theorem State.updPort_staged (s : State) (p : Nat) (f : Port → Port) : (s.updPort p f).staged = s.staged := rfl
@[simp] theorem State.updPort_tags (s : State) (p : Nat) (f : Port → Port) : (s.updPort p f).tags = s.tags := rfl
@[simp] theorem State.updPort_launches (s : State) (p : Nat) (f : Port → Port) : (s.updPort p f).launches = s.launches := rfl
@[simp] theorem State.updPort_notes (s : State) (p : Nat) (f : Port → Port) : (s.updPort p f).notes = s.notes := rfl
@[simp] theorem State.updPort_walkers (s : State) (p : Nat) (f : Port → Port) : (s.updPort p f).walkers = s.walkers := rfl
@[simp] theorem State.updPort_gates (s : State) (p : Nat) (f : Port → Port) : (s.updPort p f).gates = s.gates := rfl
@[simp] theorem State.updPort_coaches (s : State) (p : Nat) (f : Port → Port) : (s.updPort p f).coaches = s.coaches := rfl
@[simp] theorem State.updPort_quads (s : State) (p : Nat) (f : Port → Port) : (s.updPort p f).quads = s.quads := rfl
@[simp] theorem State.updPort_bars (s : State) (p : Nat) (f : Port → Port) : (s.updPort p f).bars = s.bars := rfl
@[simp] theorem State.updPort_barOwner (s : State) (p : Nat) (f : Port → Port) : (s.updPort p f).barOwner = s.barOwner := rfl
@[simp] theorem State.updPort_barError (s : State) (p : Nat) (f : Port → Port) : (s.updPort p f).barError = s.barError := rfl
@[simp] theorem State.updPort_tlb (s : State) (p : Nat) (f : Port → Port) : (s.updPort p f).tlb = s.tlb := rfl
@[simp] theorem State.updPort_walks (s : State) (p : Nat) (f : Port → Port) : (s.updPort p f).walks = s.walks := rfl
@[simp] theorem State.updPort_walkTurn (s : State) (p : Nat) (f : Port → Port) : (s.updPort p f).walkTurn = s.walkTurn := rfl
@[simp] theorem State.updPort_walkCache (s : State) (p : Nat) (f : Port → Port) : (s.updPort p f).walkCache = s.walkCache := rfl
@[simp] theorem State.updPort_root1 (s : State) (p : Nat) (f : Port → Port) : (s.updPort p f).root1 = s.root1 := rfl
@[simp] theorem State.updPort_root2 (s : State) (p : Nat) (f : Port → Port) : (s.updPort p f).root2 = s.root2 := rfl
@[simp] theorem State.updPort_dies (s : State) (p : Nat) (f : Port → Port) : (s.updPort p f).dies = s.dies := rfl
@[simp] theorem State.updPort_rights (s : State) (p : Nat) (f : Port → Port) : (s.updPort p f).rights = s.rights := rfl
@[simp] theorem State.updPort_windows (s : State) (p : Nat) (f : Port → Port) : (s.updPort p f).windows = s.windows := rfl
@[simp] theorem State.updPort_featO (s : State) (p : Nat) (f : Port → Port) : (s.updPort p f).featO = s.featO := rfl
@[simp] theorem State.updPort_featD (s : State) (p : Nat) (f : Port → Port) : (s.updPort p f).featD = s.featD := rfl
@[simp] theorem State.updPort_offsets (s : State) (p : Nat) (f : Port → Port) : (s.updPort p f).offsets = s.offsets := rfl
@[simp] theorem State.updPort_dieTab (s : State) (p : Nat) (f : Port → Port) : (s.updPort p f).dieTab = s.dieTab := rfl
@[simp] theorem State.updPort_coreTab (s : State) (p : Nat) (f : Port → Port) : (s.updPort p f).coreTab = s.coreTab := rfl
@[simp] theorem State.updPort_domTab (s : State) (p : Nat) (f : Port → Port) : (s.updPort p f).domTab = s.domTab := rfl
@[simp] theorem State.updPort_faults (s : State) (p : Nat) (f : Port → Port) : (s.updPort p f).faults = s.faults := rfl
@[simp] theorem State.updPort_pres (s : State) (p : Nat) (f : Port → Port) : (s.updPort p f).pres = s.pres := rfl
@[simp] theorem State.updPort_preWaits (s : State) (p : Nat) (f : Port → Port) : (s.updPort p f).preWaits = s.preWaits := rfl
@[simp] theorem State.updPort_epoch (s : State) (p : Nat) (f : Port → Port) : (s.updPort p f).epoch = s.epoch := rfl
@[simp] theorem State.updPort_known (s : State) (p : Nat) (f : Port → Port) : (s.updPort p f).known = s.known := rfl
@[simp] theorem State.updPort_remote (s : State) (p : Nat) (f : Port → Port) : (s.updPort p f).remote = s.remote := rfl
@[simp] theorem State.updPort_spent (s : State) (p : Nat) (f : Port → Port) : (s.updPort p f).spent = s.spent := rfl
@[simp] theorem State.updPort_nextTag (s : State) (p : Nat) (f : Port → Port) : (s.updPort p f).nextTag = s.nextTag := rfl
@[simp] theorem State.updPort_dups (s : State) (p : Nat) (f : Port → Port) : (s.updPort p f).dups = s.dups := rfl
@[simp] theorem State.updPort_heldCq (s : State) (p : Nat) (f : Port → Port) : (s.updPort p f).heldCq = s.heldCq := rfl
@[simp] theorem State.updPort_fns (s : State) (p : Nat) (f : Port → Port) : (s.updPort p f).fns = s.fns := rfl
@[simp] theorem State.updPort_hostReqs (s : State) (p : Nat) (f : Port → Port) : (s.updPort p f).hostReqs = s.hostReqs := rfl
@[simp] theorem State.updPort_proxies (s : State) (p : Nat) (f : Port → Port) : (s.updPort p f).proxies = s.proxies := rfl
@[simp] theorem State.updPort_nextHost (s : State) (p : Nat) (f : Port → Port) : (s.updPort p f).nextHost = s.nextHost := rfl
@[simp] theorem State.updPort_hostOut (s : State) (p : Nat) (f : Port → Port) : (s.updPort p f).hostOut = s.hostOut := rfl
@[simp] theorem State.updPort_wsets (s : State) (p : Nat) (f : Port → Port) : (s.updPort p f).wsets = s.wsets := rfl
@[simp] theorem State.updPort_latches (s : State) (p : Nat) (f : Port → Port) : (s.updPort p f).latches = s.latches := rfl
@[simp] theorem State.updPort_pulls (s : State) (p : Nat) (f : Port → Port) : (s.updPort p f).pulls = s.pulls := rfl
@[simp] theorem State.updPort_loads (s : State) (p : Nat) (f : Port → Port) : (s.updPort p f).loads = s.loads := rfl
@[simp] theorem State.updPort_stalled (s : State) (p : Nat) (f : Port → Port) : (s.updPort p f).stalled = s.stalled := rfl
@[simp] theorem State.updPort_accounts (s : State) (p : Nat) (f : Port → Port) : (s.updPort p f).accounts = s.accounts := rfl
@[simp] theorem State.updPort_domAccts (s : State) (p : Nat) (f : Port → Port) : (s.updPort p f).domAccts = s.domAccts := rfl
@[simp] theorem State.updPort_boot (s : State) (p : Nat) (f : Port → Port) : (s.updPort p f).boot = s.boot := rfl

/-! ## A coach changed. Every other field keeps its value. -/

@[simp] theorem State.updCoach_tsc (s : State) (q : Nat) (f : Coach → Coach) : (s.updCoach q f).tsc = s.tsc := rfl
@[simp] theorem State.updCoach_dueAt (s : State) (q : Nat) (f : Coach → Coach) : (s.updCoach q f).dueAt = s.dueAt := rfl
@[simp] theorem State.updCoach_clocks (s : State) (q : Nat) (f : Coach → Coach) : (s.updCoach q f).clocks = s.clocks := rfl
@[simp] theorem State.updCoach_steps (s : State) (q : Nat) (f : Coach → Coach) : (s.updCoach q f).steps = s.steps := rfl
@[simp] theorem State.updCoach_free (s : State) (q : Nat) (f : Coach → Coach) : (s.updCoach q f).free = s.free := rfl
@[simp] theorem State.updCoach_cur (s : State) (q : Nat) (f : Coach → Coach) : (s.updCoach q f).cur = s.cur := rfl
@[simp] theorem State.updCoach_agenda (s : State) (q : Nat) (f : Coach → Coach) : (s.updCoach q f).agenda = s.agenda := rfl
@[simp] theorem State.updCoach_inputs (s : State) (q : Nat) (f : Coach → Coach) : (s.updCoach q f).inputs = s.inputs := rfl
@[simp] theorem State.updCoach_mem (s : State) (q : Nat) (f : Coach → Coach) : (s.updCoach q f).mem = s.mem := rfl
@[simp] theorem State.updCoach_stale (s : State) (q : Nat) (f : Coach → Coach) : (s.updCoach q f).stale = s.stale := rfl
@[simp] theorem State.updCoach_poison (s : State) (q : Nat) (f : Coach → Coach) : (s.updCoach q f).poison = s.poison := rfl
@[simp] theorem State.updCoach_stalePois (s : State) (q : Nat) (f : Coach → Coach) : (s.updCoach q f).stalePois = s.stalePois := rfl
@[simp] theorem State.updCoach_cache (s : State) (q : Nat) (f : Coach → Coach) : (s.updCoach q f).cache = s.cache := rfl
@[simp] theorem State.updCoach_repair (s : State) (q : Nat) (f : Coach → Coach) : (s.updCoach q f).repair = s.repair := rfl
@[simp] theorem State.updCoach_eccSeen (s : State) (q : Nat) (f : Coach → Coach) : (s.updCoach q f).eccSeen = s.eccSeen := rfl
@[simp] theorem State.updCoach_l1 (s : State) (q : Nat) (f : Coach → Coach) : (s.updCoach q f).l1 = s.l1 := rfl
@[simp] theorem State.updCoach_l2s (s : State) (q : Nat) (f : Coach → Coach) : (s.updCoach q f).l2s = s.l2s := rfl
@[simp] theorem State.updCoach_l2sPoison (s : State) (q : Nat) (f : Coach → Coach) : (s.updCoach q f).l2sPoison = s.l2sPoison := rfl
@[simp] theorem State.updCoach_releases (s : State) (q : Nat) (f : Coach → Coach) : (s.updCoach q f).releases = s.releases := rfl
@[simp] theorem State.updCoach_homeq (s : State) (q : Nat) (f : Coach → Coach) : (s.updCoach q f).homeq = s.homeq := rfl
@[simp] theorem State.updCoach_waiting (s : State) (q : Nat) (f : Coach → Coach) : (s.updCoach q f).waiting = s.waiting := rfl
@[simp] theorem State.updCoach_nextReq (s : State) (q : Nat) (f : Coach → Coach) : (s.updCoach q f).nextReq = s.nextReq := rfl
@[simp] theorem State.updCoach_staged (s : State) (q : Nat) (f : Coach → Coach) : (s.updCoach q f).staged = s.staged := rfl
@[simp] theorem State.updCoach_tags (s : State) (q : Nat) (f : Coach → Coach) : (s.updCoach q f).tags = s.tags := rfl
@[simp] theorem State.updCoach_launches (s : State) (q : Nat) (f : Coach → Coach) : (s.updCoach q f).launches = s.launches := rfl
@[simp] theorem State.updCoach_notes (s : State) (q : Nat) (f : Coach → Coach) : (s.updCoach q f).notes = s.notes := rfl
@[simp] theorem State.updCoach_walkers (s : State) (q : Nat) (f : Coach → Coach) : (s.updCoach q f).walkers = s.walkers := rfl
@[simp] theorem State.updCoach_gates (s : State) (q : Nat) (f : Coach → Coach) : (s.updCoach q f).gates = s.gates := rfl
@[simp] theorem State.updCoach_quads (s : State) (q : Nat) (f : Coach → Coach) : (s.updCoach q f).quads = s.quads := rfl
@[simp] theorem State.updCoach_bars (s : State) (q : Nat) (f : Coach → Coach) : (s.updCoach q f).bars = s.bars := rfl
@[simp] theorem State.updCoach_barOwner (s : State) (q : Nat) (f : Coach → Coach) : (s.updCoach q f).barOwner = s.barOwner := rfl
@[simp] theorem State.updCoach_barError (s : State) (q : Nat) (f : Coach → Coach) : (s.updCoach q f).barError = s.barError := rfl
@[simp] theorem State.updCoach_tlb (s : State) (q : Nat) (f : Coach → Coach) : (s.updCoach q f).tlb = s.tlb := rfl
@[simp] theorem State.updCoach_walks (s : State) (q : Nat) (f : Coach → Coach) : (s.updCoach q f).walks = s.walks := rfl
@[simp] theorem State.updCoach_walkTurn (s : State) (q : Nat) (f : Coach → Coach) : (s.updCoach q f).walkTurn = s.walkTurn := rfl
@[simp] theorem State.updCoach_walkCache (s : State) (q : Nat) (f : Coach → Coach) : (s.updCoach q f).walkCache = s.walkCache := rfl
@[simp] theorem State.updCoach_root1 (s : State) (q : Nat) (f : Coach → Coach) : (s.updCoach q f).root1 = s.root1 := rfl
@[simp] theorem State.updCoach_root2 (s : State) (q : Nat) (f : Coach → Coach) : (s.updCoach q f).root2 = s.root2 := rfl
@[simp] theorem State.updCoach_dies (s : State) (q : Nat) (f : Coach → Coach) : (s.updCoach q f).dies = s.dies := rfl
@[simp] theorem State.updCoach_rights (s : State) (q : Nat) (f : Coach → Coach) : (s.updCoach q f).rights = s.rights := rfl
@[simp] theorem State.updCoach_windows (s : State) (q : Nat) (f : Coach → Coach) : (s.updCoach q f).windows = s.windows := rfl
@[simp] theorem State.updCoach_featO (s : State) (q : Nat) (f : Coach → Coach) : (s.updCoach q f).featO = s.featO := rfl
@[simp] theorem State.updCoach_featD (s : State) (q : Nat) (f : Coach → Coach) : (s.updCoach q f).featD = s.featD := rfl
@[simp] theorem State.updCoach_offsets (s : State) (q : Nat) (f : Coach → Coach) : (s.updCoach q f).offsets = s.offsets := rfl
@[simp] theorem State.updCoach_dieTab (s : State) (q : Nat) (f : Coach → Coach) : (s.updCoach q f).dieTab = s.dieTab := rfl
@[simp] theorem State.updCoach_coreTab (s : State) (q : Nat) (f : Coach → Coach) : (s.updCoach q f).coreTab = s.coreTab := rfl
@[simp] theorem State.updCoach_domTab (s : State) (q : Nat) (f : Coach → Coach) : (s.updCoach q f).domTab = s.domTab := rfl
@[simp] theorem State.updCoach_faults (s : State) (q : Nat) (f : Coach → Coach) : (s.updCoach q f).faults = s.faults := rfl
@[simp] theorem State.updCoach_pres (s : State) (q : Nat) (f : Coach → Coach) : (s.updCoach q f).pres = s.pres := rfl
@[simp] theorem State.updCoach_preWaits (s : State) (q : Nat) (f : Coach → Coach) : (s.updCoach q f).preWaits = s.preWaits := rfl
@[simp] theorem State.updCoach_ports (s : State) (q : Nat) (f : Coach → Coach) : (s.updCoach q f).ports = s.ports := rfl
@[simp] theorem State.updCoach_epoch (s : State) (q : Nat) (f : Coach → Coach) : (s.updCoach q f).epoch = s.epoch := rfl
@[simp] theorem State.updCoach_known (s : State) (q : Nat) (f : Coach → Coach) : (s.updCoach q f).known = s.known := rfl
@[simp] theorem State.updCoach_remote (s : State) (q : Nat) (f : Coach → Coach) : (s.updCoach q f).remote = s.remote := rfl
@[simp] theorem State.updCoach_spent (s : State) (q : Nat) (f : Coach → Coach) : (s.updCoach q f).spent = s.spent := rfl
@[simp] theorem State.updCoach_nextTag (s : State) (q : Nat) (f : Coach → Coach) : (s.updCoach q f).nextTag = s.nextTag := rfl
@[simp] theorem State.updCoach_dups (s : State) (q : Nat) (f : Coach → Coach) : (s.updCoach q f).dups = s.dups := rfl
@[simp] theorem State.updCoach_heldCq (s : State) (q : Nat) (f : Coach → Coach) : (s.updCoach q f).heldCq = s.heldCq := rfl
@[simp] theorem State.updCoach_fns (s : State) (q : Nat) (f : Coach → Coach) : (s.updCoach q f).fns = s.fns := rfl
@[simp] theorem State.updCoach_hostReqs (s : State) (q : Nat) (f : Coach → Coach) : (s.updCoach q f).hostReqs = s.hostReqs := rfl
@[simp] theorem State.updCoach_proxies (s : State) (q : Nat) (f : Coach → Coach) : (s.updCoach q f).proxies = s.proxies := rfl
@[simp] theorem State.updCoach_nextHost (s : State) (q : Nat) (f : Coach → Coach) : (s.updCoach q f).nextHost = s.nextHost := rfl
@[simp] theorem State.updCoach_hostOut (s : State) (q : Nat) (f : Coach → Coach) : (s.updCoach q f).hostOut = s.hostOut := rfl
@[simp] theorem State.updCoach_wsets (s : State) (q : Nat) (f : Coach → Coach) : (s.updCoach q f).wsets = s.wsets := rfl
@[simp] theorem State.updCoach_latches (s : State) (q : Nat) (f : Coach → Coach) : (s.updCoach q f).latches = s.latches := rfl
@[simp] theorem State.updCoach_pulls (s : State) (q : Nat) (f : Coach → Coach) : (s.updCoach q f).pulls = s.pulls := rfl
@[simp] theorem State.updCoach_loads (s : State) (q : Nat) (f : Coach → Coach) : (s.updCoach q f).loads = s.loads := rfl
@[simp] theorem State.updCoach_stalled (s : State) (q : Nat) (f : Coach → Coach) : (s.updCoach q f).stalled = s.stalled := rfl
@[simp] theorem State.updCoach_accounts (s : State) (q : Nat) (f : Coach → Coach) : (s.updCoach q f).accounts = s.accounts := rfl
@[simp] theorem State.updCoach_domAccts (s : State) (q : Nat) (f : Coach → Coach) : (s.updCoach q f).domAccts = s.domAccts := rfl
@[simp] theorem State.updCoach_boot (s : State) (q : Nat) (f : Coach → Coach) : (s.updCoach q f).boot = s.boot := rfl

/-! ## A commit-table entry replaced. Every other field keeps its value. -/

@[simp] theorem State.setTag_tsc (s : State) (n : Nat) (e : TagEntry) : (s.setTag n e).tsc = s.tsc := rfl
@[simp] theorem State.setTag_dueAt (s : State) (n : Nat) (e : TagEntry) : (s.setTag n e).dueAt = s.dueAt := rfl
@[simp] theorem State.setTag_clocks (s : State) (n : Nat) (e : TagEntry) : (s.setTag n e).clocks = s.clocks := rfl
@[simp] theorem State.setTag_steps (s : State) (n : Nat) (e : TagEntry) : (s.setTag n e).steps = s.steps := rfl
@[simp] theorem State.setTag_free (s : State) (n : Nat) (e : TagEntry) : (s.setTag n e).free = s.free := rfl
@[simp] theorem State.setTag_cur (s : State) (n : Nat) (e : TagEntry) : (s.setTag n e).cur = s.cur := rfl
@[simp] theorem State.setTag_agenda (s : State) (n : Nat) (e : TagEntry) : (s.setTag n e).agenda = s.agenda := rfl
@[simp] theorem State.setTag_inputs (s : State) (n : Nat) (e : TagEntry) : (s.setTag n e).inputs = s.inputs := rfl
@[simp] theorem State.setTag_mem (s : State) (n : Nat) (e : TagEntry) : (s.setTag n e).mem = s.mem := rfl
@[simp] theorem State.setTag_stale (s : State) (n : Nat) (e : TagEntry) : (s.setTag n e).stale = s.stale := rfl
@[simp] theorem State.setTag_poison (s : State) (n : Nat) (e : TagEntry) : (s.setTag n e).poison = s.poison := rfl
@[simp] theorem State.setTag_stalePois (s : State) (n : Nat) (e : TagEntry) : (s.setTag n e).stalePois = s.stalePois := rfl
@[simp] theorem State.setTag_cache (s : State) (n : Nat) (e : TagEntry) : (s.setTag n e).cache = s.cache := rfl
@[simp] theorem State.setTag_repair (s : State) (n : Nat) (e : TagEntry) : (s.setTag n e).repair = s.repair := rfl
@[simp] theorem State.setTag_eccSeen (s : State) (n : Nat) (e : TagEntry) : (s.setTag n e).eccSeen = s.eccSeen := rfl
@[simp] theorem State.setTag_l1 (s : State) (n : Nat) (e : TagEntry) : (s.setTag n e).l1 = s.l1 := rfl
@[simp] theorem State.setTag_l2s (s : State) (n : Nat) (e : TagEntry) : (s.setTag n e).l2s = s.l2s := rfl
@[simp] theorem State.setTag_l2sPoison (s : State) (n : Nat) (e : TagEntry) : (s.setTag n e).l2sPoison = s.l2sPoison := rfl
@[simp] theorem State.setTag_releases (s : State) (n : Nat) (e : TagEntry) : (s.setTag n e).releases = s.releases := rfl
@[simp] theorem State.setTag_homeq (s : State) (n : Nat) (e : TagEntry) : (s.setTag n e).homeq = s.homeq := rfl
@[simp] theorem State.setTag_waiting (s : State) (n : Nat) (e : TagEntry) : (s.setTag n e).waiting = s.waiting := rfl
@[simp] theorem State.setTag_nextReq (s : State) (n : Nat) (e : TagEntry) : (s.setTag n e).nextReq = s.nextReq := rfl
@[simp] theorem State.setTag_staged (s : State) (n : Nat) (e : TagEntry) : (s.setTag n e).staged = s.staged := rfl
@[simp] theorem State.setTag_launches (s : State) (n : Nat) (e : TagEntry) : (s.setTag n e).launches = s.launches := rfl
@[simp] theorem State.setTag_notes (s : State) (n : Nat) (e : TagEntry) : (s.setTag n e).notes = s.notes := rfl
@[simp] theorem State.setTag_walkers (s : State) (n : Nat) (e : TagEntry) : (s.setTag n e).walkers = s.walkers := rfl
@[simp] theorem State.setTag_gates (s : State) (n : Nat) (e : TagEntry) : (s.setTag n e).gates = s.gates := rfl
@[simp] theorem State.setTag_coaches (s : State) (n : Nat) (e : TagEntry) : (s.setTag n e).coaches = s.coaches := rfl
@[simp] theorem State.setTag_quads (s : State) (n : Nat) (e : TagEntry) : (s.setTag n e).quads = s.quads := rfl
@[simp] theorem State.setTag_bars (s : State) (n : Nat) (e : TagEntry) : (s.setTag n e).bars = s.bars := rfl
@[simp] theorem State.setTag_barOwner (s : State) (n : Nat) (e : TagEntry) : (s.setTag n e).barOwner = s.barOwner := rfl
@[simp] theorem State.setTag_barError (s : State) (n : Nat) (e : TagEntry) : (s.setTag n e).barError = s.barError := rfl
@[simp] theorem State.setTag_tlb (s : State) (n : Nat) (e : TagEntry) : (s.setTag n e).tlb = s.tlb := rfl
@[simp] theorem State.setTag_walks (s : State) (n : Nat) (e : TagEntry) : (s.setTag n e).walks = s.walks := rfl
@[simp] theorem State.setTag_walkTurn (s : State) (n : Nat) (e : TagEntry) : (s.setTag n e).walkTurn = s.walkTurn := rfl
@[simp] theorem State.setTag_walkCache (s : State) (n : Nat) (e : TagEntry) : (s.setTag n e).walkCache = s.walkCache := rfl
@[simp] theorem State.setTag_root1 (s : State) (n : Nat) (e : TagEntry) : (s.setTag n e).root1 = s.root1 := rfl
@[simp] theorem State.setTag_root2 (s : State) (n : Nat) (e : TagEntry) : (s.setTag n e).root2 = s.root2 := rfl
@[simp] theorem State.setTag_dies (s : State) (n : Nat) (e : TagEntry) : (s.setTag n e).dies = s.dies := rfl
@[simp] theorem State.setTag_rights (s : State) (n : Nat) (e : TagEntry) : (s.setTag n e).rights = s.rights := rfl
@[simp] theorem State.setTag_windows (s : State) (n : Nat) (e : TagEntry) : (s.setTag n e).windows = s.windows := rfl
@[simp] theorem State.setTag_featO (s : State) (n : Nat) (e : TagEntry) : (s.setTag n e).featO = s.featO := rfl
@[simp] theorem State.setTag_featD (s : State) (n : Nat) (e : TagEntry) : (s.setTag n e).featD = s.featD := rfl
@[simp] theorem State.setTag_offsets (s : State) (n : Nat) (e : TagEntry) : (s.setTag n e).offsets = s.offsets := rfl
@[simp] theorem State.setTag_dieTab (s : State) (n : Nat) (e : TagEntry) : (s.setTag n e).dieTab = s.dieTab := rfl
@[simp] theorem State.setTag_coreTab (s : State) (n : Nat) (e : TagEntry) : (s.setTag n e).coreTab = s.coreTab := rfl
@[simp] theorem State.setTag_domTab (s : State) (n : Nat) (e : TagEntry) : (s.setTag n e).domTab = s.domTab := rfl
@[simp] theorem State.setTag_faults (s : State) (n : Nat) (e : TagEntry) : (s.setTag n e).faults = s.faults := rfl
@[simp] theorem State.setTag_pres (s : State) (n : Nat) (e : TagEntry) : (s.setTag n e).pres = s.pres := rfl
@[simp] theorem State.setTag_preWaits (s : State) (n : Nat) (e : TagEntry) : (s.setTag n e).preWaits = s.preWaits := rfl
@[simp] theorem State.setTag_ports (s : State) (n : Nat) (e : TagEntry) : (s.setTag n e).ports = s.ports := rfl
@[simp] theorem State.setTag_epoch (s : State) (n : Nat) (e : TagEntry) : (s.setTag n e).epoch = s.epoch := rfl
@[simp] theorem State.setTag_known (s : State) (n : Nat) (e : TagEntry) : (s.setTag n e).known = s.known := rfl
@[simp] theorem State.setTag_remote (s : State) (n : Nat) (e : TagEntry) : (s.setTag n e).remote = s.remote := rfl
@[simp] theorem State.setTag_spent (s : State) (n : Nat) (e : TagEntry) : (s.setTag n e).spent = s.spent := rfl
@[simp] theorem State.setTag_nextTag (s : State) (n : Nat) (e : TagEntry) : (s.setTag n e).nextTag = s.nextTag := rfl
@[simp] theorem State.setTag_dups (s : State) (n : Nat) (e : TagEntry) : (s.setTag n e).dups = s.dups := rfl
@[simp] theorem State.setTag_heldCq (s : State) (n : Nat) (e : TagEntry) : (s.setTag n e).heldCq = s.heldCq := rfl
@[simp] theorem State.setTag_fns (s : State) (n : Nat) (e : TagEntry) : (s.setTag n e).fns = s.fns := rfl
@[simp] theorem State.setTag_hostReqs (s : State) (n : Nat) (e : TagEntry) : (s.setTag n e).hostReqs = s.hostReqs := rfl
@[simp] theorem State.setTag_proxies (s : State) (n : Nat) (e : TagEntry) : (s.setTag n e).proxies = s.proxies := rfl
@[simp] theorem State.setTag_nextHost (s : State) (n : Nat) (e : TagEntry) : (s.setTag n e).nextHost = s.nextHost := rfl
@[simp] theorem State.setTag_hostOut (s : State) (n : Nat) (e : TagEntry) : (s.setTag n e).hostOut = s.hostOut := rfl
@[simp] theorem State.setTag_wsets (s : State) (n : Nat) (e : TagEntry) : (s.setTag n e).wsets = s.wsets := rfl
@[simp] theorem State.setTag_latches (s : State) (n : Nat) (e : TagEntry) : (s.setTag n e).latches = s.latches := rfl
@[simp] theorem State.setTag_pulls (s : State) (n : Nat) (e : TagEntry) : (s.setTag n e).pulls = s.pulls := rfl
@[simp] theorem State.setTag_loads (s : State) (n : Nat) (e : TagEntry) : (s.setTag n e).loads = s.loads := rfl
@[simp] theorem State.setTag_stalled (s : State) (n : Nat) (e : TagEntry) : (s.setTag n e).stalled = s.stalled := rfl
@[simp] theorem State.setTag_accounts (s : State) (n : Nat) (e : TagEntry) : (s.setTag n e).accounts = s.accounts := rfl
@[simp] theorem State.setTag_domAccts (s : State) (n : Nat) (e : TagEntry) : (s.setTag n e).domAccts = s.domAccts := rfl
@[simp] theorem State.setTag_boot (s : State) (n : Nat) (e : TagEntry) : (s.setTag n e).boot = s.boot := rfl

/-! ## A launch changed. Every other field keeps its value. -/

@[simp] theorem State.updLaunch_tsc (s : State) (n : Nat) (f : Launch → Launch) : (s.updLaunch n f).tsc = s.tsc := rfl
@[simp] theorem State.updLaunch_dueAt (s : State) (n : Nat) (f : Launch → Launch) : (s.updLaunch n f).dueAt = s.dueAt := rfl
@[simp] theorem State.updLaunch_clocks (s : State) (n : Nat) (f : Launch → Launch) : (s.updLaunch n f).clocks = s.clocks := rfl
@[simp] theorem State.updLaunch_steps (s : State) (n : Nat) (f : Launch → Launch) : (s.updLaunch n f).steps = s.steps := rfl
@[simp] theorem State.updLaunch_free (s : State) (n : Nat) (f : Launch → Launch) : (s.updLaunch n f).free = s.free := rfl
@[simp] theorem State.updLaunch_cur (s : State) (n : Nat) (f : Launch → Launch) : (s.updLaunch n f).cur = s.cur := rfl
@[simp] theorem State.updLaunch_agenda (s : State) (n : Nat) (f : Launch → Launch) : (s.updLaunch n f).agenda = s.agenda := rfl
@[simp] theorem State.updLaunch_inputs (s : State) (n : Nat) (f : Launch → Launch) : (s.updLaunch n f).inputs = s.inputs := rfl
@[simp] theorem State.updLaunch_mem (s : State) (n : Nat) (f : Launch → Launch) : (s.updLaunch n f).mem = s.mem := rfl
@[simp] theorem State.updLaunch_stale (s : State) (n : Nat) (f : Launch → Launch) : (s.updLaunch n f).stale = s.stale := rfl
@[simp] theorem State.updLaunch_poison (s : State) (n : Nat) (f : Launch → Launch) : (s.updLaunch n f).poison = s.poison := rfl
@[simp] theorem State.updLaunch_stalePois (s : State) (n : Nat) (f : Launch → Launch) : (s.updLaunch n f).stalePois = s.stalePois := rfl
@[simp] theorem State.updLaunch_cache (s : State) (n : Nat) (f : Launch → Launch) : (s.updLaunch n f).cache = s.cache := rfl
@[simp] theorem State.updLaunch_repair (s : State) (n : Nat) (f : Launch → Launch) : (s.updLaunch n f).repair = s.repair := rfl
@[simp] theorem State.updLaunch_eccSeen (s : State) (n : Nat) (f : Launch → Launch) : (s.updLaunch n f).eccSeen = s.eccSeen := rfl
@[simp] theorem State.updLaunch_l1 (s : State) (n : Nat) (f : Launch → Launch) : (s.updLaunch n f).l1 = s.l1 := rfl
@[simp] theorem State.updLaunch_l2s (s : State) (n : Nat) (f : Launch → Launch) : (s.updLaunch n f).l2s = s.l2s := rfl
@[simp] theorem State.updLaunch_l2sPoison (s : State) (n : Nat) (f : Launch → Launch) : (s.updLaunch n f).l2sPoison = s.l2sPoison := rfl
@[simp] theorem State.updLaunch_releases (s : State) (n : Nat) (f : Launch → Launch) : (s.updLaunch n f).releases = s.releases := rfl
@[simp] theorem State.updLaunch_homeq (s : State) (n : Nat) (f : Launch → Launch) : (s.updLaunch n f).homeq = s.homeq := rfl
@[simp] theorem State.updLaunch_waiting (s : State) (n : Nat) (f : Launch → Launch) : (s.updLaunch n f).waiting = s.waiting := rfl
@[simp] theorem State.updLaunch_nextReq (s : State) (n : Nat) (f : Launch → Launch) : (s.updLaunch n f).nextReq = s.nextReq := rfl
@[simp] theorem State.updLaunch_staged (s : State) (n : Nat) (f : Launch → Launch) : (s.updLaunch n f).staged = s.staged := rfl
@[simp] theorem State.updLaunch_tags (s : State) (n : Nat) (f : Launch → Launch) : (s.updLaunch n f).tags = s.tags := rfl
@[simp] theorem State.updLaunch_notes (s : State) (n : Nat) (f : Launch → Launch) : (s.updLaunch n f).notes = s.notes := rfl
@[simp] theorem State.updLaunch_walkers (s : State) (n : Nat) (f : Launch → Launch) : (s.updLaunch n f).walkers = s.walkers := rfl
@[simp] theorem State.updLaunch_gates (s : State) (n : Nat) (f : Launch → Launch) : (s.updLaunch n f).gates = s.gates := rfl
@[simp] theorem State.updLaunch_coaches (s : State) (n : Nat) (f : Launch → Launch) : (s.updLaunch n f).coaches = s.coaches := rfl
@[simp] theorem State.updLaunch_quads (s : State) (n : Nat) (f : Launch → Launch) : (s.updLaunch n f).quads = s.quads := rfl
@[simp] theorem State.updLaunch_bars (s : State) (n : Nat) (f : Launch → Launch) : (s.updLaunch n f).bars = s.bars := rfl
@[simp] theorem State.updLaunch_barOwner (s : State) (n : Nat) (f : Launch → Launch) : (s.updLaunch n f).barOwner = s.barOwner := rfl
@[simp] theorem State.updLaunch_barError (s : State) (n : Nat) (f : Launch → Launch) : (s.updLaunch n f).barError = s.barError := rfl
@[simp] theorem State.updLaunch_tlb (s : State) (n : Nat) (f : Launch → Launch) : (s.updLaunch n f).tlb = s.tlb := rfl
@[simp] theorem State.updLaunch_walks (s : State) (n : Nat) (f : Launch → Launch) : (s.updLaunch n f).walks = s.walks := rfl
@[simp] theorem State.updLaunch_walkTurn (s : State) (n : Nat) (f : Launch → Launch) : (s.updLaunch n f).walkTurn = s.walkTurn := rfl
@[simp] theorem State.updLaunch_walkCache (s : State) (n : Nat) (f : Launch → Launch) : (s.updLaunch n f).walkCache = s.walkCache := rfl
@[simp] theorem State.updLaunch_root1 (s : State) (n : Nat) (f : Launch → Launch) : (s.updLaunch n f).root1 = s.root1 := rfl
@[simp] theorem State.updLaunch_root2 (s : State) (n : Nat) (f : Launch → Launch) : (s.updLaunch n f).root2 = s.root2 := rfl
@[simp] theorem State.updLaunch_dies (s : State) (n : Nat) (f : Launch → Launch) : (s.updLaunch n f).dies = s.dies := rfl
@[simp] theorem State.updLaunch_rights (s : State) (n : Nat) (f : Launch → Launch) : (s.updLaunch n f).rights = s.rights := rfl
@[simp] theorem State.updLaunch_windows (s : State) (n : Nat) (f : Launch → Launch) : (s.updLaunch n f).windows = s.windows := rfl
@[simp] theorem State.updLaunch_featO (s : State) (n : Nat) (f : Launch → Launch) : (s.updLaunch n f).featO = s.featO := rfl
@[simp] theorem State.updLaunch_featD (s : State) (n : Nat) (f : Launch → Launch) : (s.updLaunch n f).featD = s.featD := rfl
@[simp] theorem State.updLaunch_offsets (s : State) (n : Nat) (f : Launch → Launch) : (s.updLaunch n f).offsets = s.offsets := rfl
@[simp] theorem State.updLaunch_dieTab (s : State) (n : Nat) (f : Launch → Launch) : (s.updLaunch n f).dieTab = s.dieTab := rfl
@[simp] theorem State.updLaunch_coreTab (s : State) (n : Nat) (f : Launch → Launch) : (s.updLaunch n f).coreTab = s.coreTab := rfl
@[simp] theorem State.updLaunch_domTab (s : State) (n : Nat) (f : Launch → Launch) : (s.updLaunch n f).domTab = s.domTab := rfl
@[simp] theorem State.updLaunch_faults (s : State) (n : Nat) (f : Launch → Launch) : (s.updLaunch n f).faults = s.faults := rfl
@[simp] theorem State.updLaunch_pres (s : State) (n : Nat) (f : Launch → Launch) : (s.updLaunch n f).pres = s.pres := rfl
@[simp] theorem State.updLaunch_preWaits (s : State) (n : Nat) (f : Launch → Launch) : (s.updLaunch n f).preWaits = s.preWaits := rfl
@[simp] theorem State.updLaunch_ports (s : State) (n : Nat) (f : Launch → Launch) : (s.updLaunch n f).ports = s.ports := rfl
@[simp] theorem State.updLaunch_epoch (s : State) (n : Nat) (f : Launch → Launch) : (s.updLaunch n f).epoch = s.epoch := rfl
@[simp] theorem State.updLaunch_known (s : State) (n : Nat) (f : Launch → Launch) : (s.updLaunch n f).known = s.known := rfl
@[simp] theorem State.updLaunch_remote (s : State) (n : Nat) (f : Launch → Launch) : (s.updLaunch n f).remote = s.remote := rfl
@[simp] theorem State.updLaunch_spent (s : State) (n : Nat) (f : Launch → Launch) : (s.updLaunch n f).spent = s.spent := rfl
@[simp] theorem State.updLaunch_nextTag (s : State) (n : Nat) (f : Launch → Launch) : (s.updLaunch n f).nextTag = s.nextTag := rfl
@[simp] theorem State.updLaunch_dups (s : State) (n : Nat) (f : Launch → Launch) : (s.updLaunch n f).dups = s.dups := rfl
@[simp] theorem State.updLaunch_heldCq (s : State) (n : Nat) (f : Launch → Launch) : (s.updLaunch n f).heldCq = s.heldCq := rfl
@[simp] theorem State.updLaunch_fns (s : State) (n : Nat) (f : Launch → Launch) : (s.updLaunch n f).fns = s.fns := rfl
@[simp] theorem State.updLaunch_hostReqs (s : State) (n : Nat) (f : Launch → Launch) : (s.updLaunch n f).hostReqs = s.hostReqs := rfl
@[simp] theorem State.updLaunch_proxies (s : State) (n : Nat) (f : Launch → Launch) : (s.updLaunch n f).proxies = s.proxies := rfl
@[simp] theorem State.updLaunch_nextHost (s : State) (n : Nat) (f : Launch → Launch) : (s.updLaunch n f).nextHost = s.nextHost := rfl
@[simp] theorem State.updLaunch_hostOut (s : State) (n : Nat) (f : Launch → Launch) : (s.updLaunch n f).hostOut = s.hostOut := rfl
@[simp] theorem State.updLaunch_wsets (s : State) (n : Nat) (f : Launch → Launch) : (s.updLaunch n f).wsets = s.wsets := rfl
@[simp] theorem State.updLaunch_latches (s : State) (n : Nat) (f : Launch → Launch) : (s.updLaunch n f).latches = s.latches := rfl
@[simp] theorem State.updLaunch_pulls (s : State) (n : Nat) (f : Launch → Launch) : (s.updLaunch n f).pulls = s.pulls := rfl
@[simp] theorem State.updLaunch_loads (s : State) (n : Nat) (f : Launch → Launch) : (s.updLaunch n f).loads = s.loads := rfl
@[simp] theorem State.updLaunch_stalled (s : State) (n : Nat) (f : Launch → Launch) : (s.updLaunch n f).stalled = s.stalled := rfl
@[simp] theorem State.updLaunch_accounts (s : State) (n : Nat) (f : Launch → Launch) : (s.updLaunch n f).accounts = s.accounts := rfl
@[simp] theorem State.updLaunch_domAccts (s : State) (n : Nat) (f : Launch → Launch) : (s.updLaunch n f).domAccts = s.domAccts := rfl
@[simp] theorem State.updLaunch_boot (s : State) (n : Nat) (f : Launch → Launch) : (s.updLaunch n f).boot = s.boot := rfl

/-! ## A barrier word replaced. Every other field keeps its value. -/

@[simp] theorem State.setBar_tsc (s : State) (b : Nat) (w : Word) : (s.setBar b w).tsc = s.tsc := rfl
@[simp] theorem State.setBar_dueAt (s : State) (b : Nat) (w : Word) : (s.setBar b w).dueAt = s.dueAt := rfl
@[simp] theorem State.setBar_clocks (s : State) (b : Nat) (w : Word) : (s.setBar b w).clocks = s.clocks := rfl
@[simp] theorem State.setBar_steps (s : State) (b : Nat) (w : Word) : (s.setBar b w).steps = s.steps := rfl
@[simp] theorem State.setBar_free (s : State) (b : Nat) (w : Word) : (s.setBar b w).free = s.free := rfl
@[simp] theorem State.setBar_cur (s : State) (b : Nat) (w : Word) : (s.setBar b w).cur = s.cur := rfl
@[simp] theorem State.setBar_agenda (s : State) (b : Nat) (w : Word) : (s.setBar b w).agenda = s.agenda := rfl
@[simp] theorem State.setBar_inputs (s : State) (b : Nat) (w : Word) : (s.setBar b w).inputs = s.inputs := rfl
@[simp] theorem State.setBar_mem (s : State) (b : Nat) (w : Word) : (s.setBar b w).mem = s.mem := rfl
@[simp] theorem State.setBar_stale (s : State) (b : Nat) (w : Word) : (s.setBar b w).stale = s.stale := rfl
@[simp] theorem State.setBar_poison (s : State) (b : Nat) (w : Word) : (s.setBar b w).poison = s.poison := rfl
@[simp] theorem State.setBar_stalePois (s : State) (b : Nat) (w : Word) : (s.setBar b w).stalePois = s.stalePois := rfl
@[simp] theorem State.setBar_cache (s : State) (b : Nat) (w : Word) : (s.setBar b w).cache = s.cache := rfl
@[simp] theorem State.setBar_repair (s : State) (b : Nat) (w : Word) : (s.setBar b w).repair = s.repair := rfl
@[simp] theorem State.setBar_eccSeen (s : State) (b : Nat) (w : Word) : (s.setBar b w).eccSeen = s.eccSeen := rfl
@[simp] theorem State.setBar_l1 (s : State) (b : Nat) (w : Word) : (s.setBar b w).l1 = s.l1 := rfl
@[simp] theorem State.setBar_l2s (s : State) (b : Nat) (w : Word) : (s.setBar b w).l2s = s.l2s := rfl
@[simp] theorem State.setBar_l2sPoison (s : State) (b : Nat) (w : Word) : (s.setBar b w).l2sPoison = s.l2sPoison := rfl
@[simp] theorem State.setBar_releases (s : State) (b : Nat) (w : Word) : (s.setBar b w).releases = s.releases := rfl
@[simp] theorem State.setBar_homeq (s : State) (b : Nat) (w : Word) : (s.setBar b w).homeq = s.homeq := rfl
@[simp] theorem State.setBar_waiting (s : State) (b : Nat) (w : Word) : (s.setBar b w).waiting = s.waiting := rfl
@[simp] theorem State.setBar_nextReq (s : State) (b : Nat) (w : Word) : (s.setBar b w).nextReq = s.nextReq := rfl
@[simp] theorem State.setBar_staged (s : State) (b : Nat) (w : Word) : (s.setBar b w).staged = s.staged := rfl
@[simp] theorem State.setBar_tags (s : State) (b : Nat) (w : Word) : (s.setBar b w).tags = s.tags := rfl
@[simp] theorem State.setBar_launches (s : State) (b : Nat) (w : Word) : (s.setBar b w).launches = s.launches := rfl
@[simp] theorem State.setBar_notes (s : State) (b : Nat) (w : Word) : (s.setBar b w).notes = s.notes := rfl
@[simp] theorem State.setBar_walkers (s : State) (b : Nat) (w : Word) : (s.setBar b w).walkers = s.walkers := rfl
@[simp] theorem State.setBar_gates (s : State) (b : Nat) (w : Word) : (s.setBar b w).gates = s.gates := rfl
@[simp] theorem State.setBar_coaches (s : State) (b : Nat) (w : Word) : (s.setBar b w).coaches = s.coaches := rfl
@[simp] theorem State.setBar_quads (s : State) (b : Nat) (w : Word) : (s.setBar b w).quads = s.quads := rfl
@[simp] theorem State.setBar_barOwner (s : State) (b : Nat) (w : Word) : (s.setBar b w).barOwner = s.barOwner := rfl
@[simp] theorem State.setBar_barError (s : State) (b : Nat) (w : Word) : (s.setBar b w).barError = s.barError := rfl
@[simp] theorem State.setBar_tlb (s : State) (b : Nat) (w : Word) : (s.setBar b w).tlb = s.tlb := rfl
@[simp] theorem State.setBar_walks (s : State) (b : Nat) (w : Word) : (s.setBar b w).walks = s.walks := rfl
@[simp] theorem State.setBar_walkTurn (s : State) (b : Nat) (w : Word) : (s.setBar b w).walkTurn = s.walkTurn := rfl
@[simp] theorem State.setBar_walkCache (s : State) (b : Nat) (w : Word) : (s.setBar b w).walkCache = s.walkCache := rfl
@[simp] theorem State.setBar_root1 (s : State) (b : Nat) (w : Word) : (s.setBar b w).root1 = s.root1 := rfl
@[simp] theorem State.setBar_root2 (s : State) (b : Nat) (w : Word) : (s.setBar b w).root2 = s.root2 := rfl
@[simp] theorem State.setBar_dies (s : State) (b : Nat) (w : Word) : (s.setBar b w).dies = s.dies := rfl
@[simp] theorem State.setBar_rights (s : State) (b : Nat) (w : Word) : (s.setBar b w).rights = s.rights := rfl
@[simp] theorem State.setBar_windows (s : State) (b : Nat) (w : Word) : (s.setBar b w).windows = s.windows := rfl
@[simp] theorem State.setBar_featO (s : State) (b : Nat) (w : Word) : (s.setBar b w).featO = s.featO := rfl
@[simp] theorem State.setBar_featD (s : State) (b : Nat) (w : Word) : (s.setBar b w).featD = s.featD := rfl
@[simp] theorem State.setBar_offsets (s : State) (b : Nat) (w : Word) : (s.setBar b w).offsets = s.offsets := rfl
@[simp] theorem State.setBar_dieTab (s : State) (b : Nat) (w : Word) : (s.setBar b w).dieTab = s.dieTab := rfl
@[simp] theorem State.setBar_coreTab (s : State) (b : Nat) (w : Word) : (s.setBar b w).coreTab = s.coreTab := rfl
@[simp] theorem State.setBar_domTab (s : State) (b : Nat) (w : Word) : (s.setBar b w).domTab = s.domTab := rfl
@[simp] theorem State.setBar_faults (s : State) (b : Nat) (w : Word) : (s.setBar b w).faults = s.faults := rfl
@[simp] theorem State.setBar_pres (s : State) (b : Nat) (w : Word) : (s.setBar b w).pres = s.pres := rfl
@[simp] theorem State.setBar_preWaits (s : State) (b : Nat) (w : Word) : (s.setBar b w).preWaits = s.preWaits := rfl
@[simp] theorem State.setBar_ports (s : State) (b : Nat) (w : Word) : (s.setBar b w).ports = s.ports := rfl
@[simp] theorem State.setBar_epoch (s : State) (b : Nat) (w : Word) : (s.setBar b w).epoch = s.epoch := rfl
@[simp] theorem State.setBar_known (s : State) (b : Nat) (w : Word) : (s.setBar b w).known = s.known := rfl
@[simp] theorem State.setBar_remote (s : State) (b : Nat) (w : Word) : (s.setBar b w).remote = s.remote := rfl
@[simp] theorem State.setBar_spent (s : State) (b : Nat) (w : Word) : (s.setBar b w).spent = s.spent := rfl
@[simp] theorem State.setBar_nextTag (s : State) (b : Nat) (w : Word) : (s.setBar b w).nextTag = s.nextTag := rfl
@[simp] theorem State.setBar_dups (s : State) (b : Nat) (w : Word) : (s.setBar b w).dups = s.dups := rfl
@[simp] theorem State.setBar_heldCq (s : State) (b : Nat) (w : Word) : (s.setBar b w).heldCq = s.heldCq := rfl
@[simp] theorem State.setBar_fns (s : State) (b : Nat) (w : Word) : (s.setBar b w).fns = s.fns := rfl
@[simp] theorem State.setBar_hostReqs (s : State) (b : Nat) (w : Word) : (s.setBar b w).hostReqs = s.hostReqs := rfl
@[simp] theorem State.setBar_proxies (s : State) (b : Nat) (w : Word) : (s.setBar b w).proxies = s.proxies := rfl
@[simp] theorem State.setBar_nextHost (s : State) (b : Nat) (w : Word) : (s.setBar b w).nextHost = s.nextHost := rfl
@[simp] theorem State.setBar_hostOut (s : State) (b : Nat) (w : Word) : (s.setBar b w).hostOut = s.hostOut := rfl
@[simp] theorem State.setBar_wsets (s : State) (b : Nat) (w : Word) : (s.setBar b w).wsets = s.wsets := rfl
@[simp] theorem State.setBar_latches (s : State) (b : Nat) (w : Word) : (s.setBar b w).latches = s.latches := rfl
@[simp] theorem State.setBar_pulls (s : State) (b : Nat) (w : Word) : (s.setBar b w).pulls = s.pulls := rfl
@[simp] theorem State.setBar_loads (s : State) (b : Nat) (w : Word) : (s.setBar b w).loads = s.loads := rfl
@[simp] theorem State.setBar_stalled (s : State) (b : Nat) (w : Word) : (s.setBar b w).stalled = s.stalled := rfl
@[simp] theorem State.setBar_accounts (s : State) (b : Nat) (w : Word) : (s.setBar b w).accounts = s.accounts := rfl
@[simp] theorem State.setBar_domAccts (s : State) (b : Nat) (w : Word) : (s.setBar b w).domAccts = s.domAccts := rfl
@[simp] theorem State.setBar_boot (s : State) (b : Nat) (w : Word) : (s.setBar b w).boot = s.boot := rfl

/-! ## A thread changed. Only coaches and dies can differ. -/

@[simp] theorem State.updStrand_tsc (s : State) (th : ThreadId) (f : Strand → Strand) : (s.updStrand th f).tsc = s.tsc := by cases th <;> rfl
@[simp] theorem State.updStrand_dueAt (s : State) (th : ThreadId) (f : Strand → Strand) : (s.updStrand th f).dueAt = s.dueAt := by cases th <;> rfl
@[simp] theorem State.updStrand_clocks (s : State) (th : ThreadId) (f : Strand → Strand) : (s.updStrand th f).clocks = s.clocks := by cases th <;> rfl
@[simp] theorem State.updStrand_steps (s : State) (th : ThreadId) (f : Strand → Strand) : (s.updStrand th f).steps = s.steps := by cases th <;> rfl
@[simp] theorem State.updStrand_free (s : State) (th : ThreadId) (f : Strand → Strand) : (s.updStrand th f).free = s.free := by cases th <;> rfl
@[simp] theorem State.updStrand_cur (s : State) (th : ThreadId) (f : Strand → Strand) : (s.updStrand th f).cur = s.cur := by cases th <;> rfl
@[simp] theorem State.updStrand_agenda (s : State) (th : ThreadId) (f : Strand → Strand) : (s.updStrand th f).agenda = s.agenda := by cases th <;> rfl
@[simp] theorem State.updStrand_inputs (s : State) (th : ThreadId) (f : Strand → Strand) : (s.updStrand th f).inputs = s.inputs := by cases th <;> rfl
@[simp] theorem State.updStrand_mem (s : State) (th : ThreadId) (f : Strand → Strand) : (s.updStrand th f).mem = s.mem := by cases th <;> rfl
@[simp] theorem State.updStrand_stale (s : State) (th : ThreadId) (f : Strand → Strand) : (s.updStrand th f).stale = s.stale := by cases th <;> rfl
@[simp] theorem State.updStrand_poison (s : State) (th : ThreadId) (f : Strand → Strand) : (s.updStrand th f).poison = s.poison := by cases th <;> rfl
@[simp] theorem State.updStrand_stalePois (s : State) (th : ThreadId) (f : Strand → Strand) : (s.updStrand th f).stalePois = s.stalePois := by cases th <;> rfl
@[simp] theorem State.updStrand_cache (s : State) (th : ThreadId) (f : Strand → Strand) : (s.updStrand th f).cache = s.cache := by cases th <;> rfl
@[simp] theorem State.updStrand_repair (s : State) (th : ThreadId) (f : Strand → Strand) : (s.updStrand th f).repair = s.repair := by cases th <;> rfl
@[simp] theorem State.updStrand_eccSeen (s : State) (th : ThreadId) (f : Strand → Strand) : (s.updStrand th f).eccSeen = s.eccSeen := by cases th <;> rfl
@[simp] theorem State.updStrand_l1 (s : State) (th : ThreadId) (f : Strand → Strand) : (s.updStrand th f).l1 = s.l1 := by cases th <;> rfl
@[simp] theorem State.updStrand_l2s (s : State) (th : ThreadId) (f : Strand → Strand) : (s.updStrand th f).l2s = s.l2s := by cases th <;> rfl
@[simp] theorem State.updStrand_l2sPoison (s : State) (th : ThreadId) (f : Strand → Strand) : (s.updStrand th f).l2sPoison = s.l2sPoison := by cases th <;> rfl
@[simp] theorem State.updStrand_releases (s : State) (th : ThreadId) (f : Strand → Strand) : (s.updStrand th f).releases = s.releases := by cases th <;> rfl
@[simp] theorem State.updStrand_homeq (s : State) (th : ThreadId) (f : Strand → Strand) : (s.updStrand th f).homeq = s.homeq := by cases th <;> rfl
@[simp] theorem State.updStrand_waiting (s : State) (th : ThreadId) (f : Strand → Strand) : (s.updStrand th f).waiting = s.waiting := by cases th <;> rfl
@[simp] theorem State.updStrand_nextReq (s : State) (th : ThreadId) (f : Strand → Strand) : (s.updStrand th f).nextReq = s.nextReq := by cases th <;> rfl
@[simp] theorem State.updStrand_staged (s : State) (th : ThreadId) (f : Strand → Strand) : (s.updStrand th f).staged = s.staged := by cases th <;> rfl
@[simp] theorem State.updStrand_tags (s : State) (th : ThreadId) (f : Strand → Strand) : (s.updStrand th f).tags = s.tags := by cases th <;> rfl
@[simp] theorem State.updStrand_launches (s : State) (th : ThreadId) (f : Strand → Strand) : (s.updStrand th f).launches = s.launches := by cases th <;> rfl
@[simp] theorem State.updStrand_notes (s : State) (th : ThreadId) (f : Strand → Strand) : (s.updStrand th f).notes = s.notes := by cases th <;> rfl
@[simp] theorem State.updStrand_walkers (s : State) (th : ThreadId) (f : Strand → Strand) : (s.updStrand th f).walkers = s.walkers := by cases th <;> rfl
@[simp] theorem State.updStrand_gates (s : State) (th : ThreadId) (f : Strand → Strand) : (s.updStrand th f).gates = s.gates := by cases th <;> rfl
@[simp] theorem State.updStrand_quads (s : State) (th : ThreadId) (f : Strand → Strand) : (s.updStrand th f).quads = s.quads := by cases th <;> rfl
@[simp] theorem State.updStrand_bars (s : State) (th : ThreadId) (f : Strand → Strand) : (s.updStrand th f).bars = s.bars := by cases th <;> rfl
@[simp] theorem State.updStrand_barOwner (s : State) (th : ThreadId) (f : Strand → Strand) : (s.updStrand th f).barOwner = s.barOwner := by cases th <;> rfl
@[simp] theorem State.updStrand_barError (s : State) (th : ThreadId) (f : Strand → Strand) : (s.updStrand th f).barError = s.barError := by cases th <;> rfl
@[simp] theorem State.updStrand_tlb (s : State) (th : ThreadId) (f : Strand → Strand) : (s.updStrand th f).tlb = s.tlb := by cases th <;> rfl
@[simp] theorem State.updStrand_walks (s : State) (th : ThreadId) (f : Strand → Strand) : (s.updStrand th f).walks = s.walks := by cases th <;> rfl
@[simp] theorem State.updStrand_walkTurn (s : State) (th : ThreadId) (f : Strand → Strand) : (s.updStrand th f).walkTurn = s.walkTurn := by cases th <;> rfl
@[simp] theorem State.updStrand_walkCache (s : State) (th : ThreadId) (f : Strand → Strand) : (s.updStrand th f).walkCache = s.walkCache := by cases th <;> rfl
@[simp] theorem State.updStrand_root1 (s : State) (th : ThreadId) (f : Strand → Strand) : (s.updStrand th f).root1 = s.root1 := by cases th <;> rfl
@[simp] theorem State.updStrand_root2 (s : State) (th : ThreadId) (f : Strand → Strand) : (s.updStrand th f).root2 = s.root2 := by cases th <;> rfl
@[simp] theorem State.updStrand_rights (s : State) (th : ThreadId) (f : Strand → Strand) : (s.updStrand th f).rights = s.rights := by cases th <;> rfl
@[simp] theorem State.updStrand_windows (s : State) (th : ThreadId) (f : Strand → Strand) : (s.updStrand th f).windows = s.windows := by cases th <;> rfl
@[simp] theorem State.updStrand_featO (s : State) (th : ThreadId) (f : Strand → Strand) : (s.updStrand th f).featO = s.featO := by cases th <;> rfl
@[simp] theorem State.updStrand_featD (s : State) (th : ThreadId) (f : Strand → Strand) : (s.updStrand th f).featD = s.featD := by cases th <;> rfl
@[simp] theorem State.updStrand_offsets (s : State) (th : ThreadId) (f : Strand → Strand) : (s.updStrand th f).offsets = s.offsets := by cases th <;> rfl
@[simp] theorem State.updStrand_dieTab (s : State) (th : ThreadId) (f : Strand → Strand) : (s.updStrand th f).dieTab = s.dieTab := by cases th <;> rfl
@[simp] theorem State.updStrand_coreTab (s : State) (th : ThreadId) (f : Strand → Strand) : (s.updStrand th f).coreTab = s.coreTab := by cases th <;> rfl
@[simp] theorem State.updStrand_domTab (s : State) (th : ThreadId) (f : Strand → Strand) : (s.updStrand th f).domTab = s.domTab := by cases th <;> rfl
@[simp] theorem State.updStrand_faults (s : State) (th : ThreadId) (f : Strand → Strand) : (s.updStrand th f).faults = s.faults := by cases th <;> rfl
@[simp] theorem State.updStrand_pres (s : State) (th : ThreadId) (f : Strand → Strand) : (s.updStrand th f).pres = s.pres := by cases th <;> rfl
@[simp] theorem State.updStrand_preWaits (s : State) (th : ThreadId) (f : Strand → Strand) : (s.updStrand th f).preWaits = s.preWaits := by cases th <;> rfl
@[simp] theorem State.updStrand_ports (s : State) (th : ThreadId) (f : Strand → Strand) : (s.updStrand th f).ports = s.ports := by cases th <;> rfl
@[simp] theorem State.updStrand_epoch (s : State) (th : ThreadId) (f : Strand → Strand) : (s.updStrand th f).epoch = s.epoch := by cases th <;> rfl
@[simp] theorem State.updStrand_known (s : State) (th : ThreadId) (f : Strand → Strand) : (s.updStrand th f).known = s.known := by cases th <;> rfl
@[simp] theorem State.updStrand_remote (s : State) (th : ThreadId) (f : Strand → Strand) : (s.updStrand th f).remote = s.remote := by cases th <;> rfl
@[simp] theorem State.updStrand_spent (s : State) (th : ThreadId) (f : Strand → Strand) : (s.updStrand th f).spent = s.spent := by cases th <;> rfl
@[simp] theorem State.updStrand_nextTag (s : State) (th : ThreadId) (f : Strand → Strand) : (s.updStrand th f).nextTag = s.nextTag := by cases th <;> rfl
@[simp] theorem State.updStrand_dups (s : State) (th : ThreadId) (f : Strand → Strand) : (s.updStrand th f).dups = s.dups := by cases th <;> rfl
@[simp] theorem State.updStrand_heldCq (s : State) (th : ThreadId) (f : Strand → Strand) : (s.updStrand th f).heldCq = s.heldCq := by cases th <;> rfl
@[simp] theorem State.updStrand_fns (s : State) (th : ThreadId) (f : Strand → Strand) : (s.updStrand th f).fns = s.fns := by cases th <;> rfl
@[simp] theorem State.updStrand_hostReqs (s : State) (th : ThreadId) (f : Strand → Strand) : (s.updStrand th f).hostReqs = s.hostReqs := by cases th <;> rfl
@[simp] theorem State.updStrand_proxies (s : State) (th : ThreadId) (f : Strand → Strand) : (s.updStrand th f).proxies = s.proxies := by cases th <;> rfl
@[simp] theorem State.updStrand_nextHost (s : State) (th : ThreadId) (f : Strand → Strand) : (s.updStrand th f).nextHost = s.nextHost := by cases th <;> rfl
@[simp] theorem State.updStrand_hostOut (s : State) (th : ThreadId) (f : Strand → Strand) : (s.updStrand th f).hostOut = s.hostOut := by cases th <;> rfl
@[simp] theorem State.updStrand_wsets (s : State) (th : ThreadId) (f : Strand → Strand) : (s.updStrand th f).wsets = s.wsets := by cases th <;> rfl
@[simp] theorem State.updStrand_latches (s : State) (th : ThreadId) (f : Strand → Strand) : (s.updStrand th f).latches = s.latches := by cases th <;> rfl
@[simp] theorem State.updStrand_pulls (s : State) (th : ThreadId) (f : Strand → Strand) : (s.updStrand th f).pulls = s.pulls := by cases th <;> rfl
@[simp] theorem State.updStrand_loads (s : State) (th : ThreadId) (f : Strand → Strand) : (s.updStrand th f).loads = s.loads := by cases th <;> rfl
@[simp] theorem State.updStrand_stalled (s : State) (th : ThreadId) (f : Strand → Strand) : (s.updStrand th f).stalled = s.stalled := by cases th <;> rfl
@[simp] theorem State.updStrand_accounts (s : State) (th : ThreadId) (f : Strand → Strand) : (s.updStrand th f).accounts = s.accounts := by cases th <;> rfl
@[simp] theorem State.updStrand_domAccts (s : State) (th : ThreadId) (f : Strand → Strand) : (s.updStrand th f).domAccts = s.domAccts := by cases th <;> rfl
@[simp] theorem State.updStrand_boot (s : State) (th : ThreadId) (f : Strand → Strand) : (s.updStrand th f).boot = s.boot := by cases th <;> rfl

/-! ## A stream changed. Only coaches and dies can differ. -/

@[simp] theorem State.updStream_tsc (s : State) (th : ThreadId) (f : Stream → Stream) : (s.updStream th f).tsc = s.tsc := by cases th <;> rfl
@[simp] theorem State.updStream_dueAt (s : State) (th : ThreadId) (f : Stream → Stream) : (s.updStream th f).dueAt = s.dueAt := by cases th <;> rfl
@[simp] theorem State.updStream_clocks (s : State) (th : ThreadId) (f : Stream → Stream) : (s.updStream th f).clocks = s.clocks := by cases th <;> rfl
@[simp] theorem State.updStream_steps (s : State) (th : ThreadId) (f : Stream → Stream) : (s.updStream th f).steps = s.steps := by cases th <;> rfl
@[simp] theorem State.updStream_free (s : State) (th : ThreadId) (f : Stream → Stream) : (s.updStream th f).free = s.free := by cases th <;> rfl
@[simp] theorem State.updStream_cur (s : State) (th : ThreadId) (f : Stream → Stream) : (s.updStream th f).cur = s.cur := by cases th <;> rfl
@[simp] theorem State.updStream_agenda (s : State) (th : ThreadId) (f : Stream → Stream) : (s.updStream th f).agenda = s.agenda := by cases th <;> rfl
@[simp] theorem State.updStream_inputs (s : State) (th : ThreadId) (f : Stream → Stream) : (s.updStream th f).inputs = s.inputs := by cases th <;> rfl
@[simp] theorem State.updStream_mem (s : State) (th : ThreadId) (f : Stream → Stream) : (s.updStream th f).mem = s.mem := by cases th <;> rfl
@[simp] theorem State.updStream_stale (s : State) (th : ThreadId) (f : Stream → Stream) : (s.updStream th f).stale = s.stale := by cases th <;> rfl
@[simp] theorem State.updStream_poison (s : State) (th : ThreadId) (f : Stream → Stream) : (s.updStream th f).poison = s.poison := by cases th <;> rfl
@[simp] theorem State.updStream_stalePois (s : State) (th : ThreadId) (f : Stream → Stream) : (s.updStream th f).stalePois = s.stalePois := by cases th <;> rfl
@[simp] theorem State.updStream_cache (s : State) (th : ThreadId) (f : Stream → Stream) : (s.updStream th f).cache = s.cache := by cases th <;> rfl
@[simp] theorem State.updStream_repair (s : State) (th : ThreadId) (f : Stream → Stream) : (s.updStream th f).repair = s.repair := by cases th <;> rfl
@[simp] theorem State.updStream_eccSeen (s : State) (th : ThreadId) (f : Stream → Stream) : (s.updStream th f).eccSeen = s.eccSeen := by cases th <;> rfl
@[simp] theorem State.updStream_l1 (s : State) (th : ThreadId) (f : Stream → Stream) : (s.updStream th f).l1 = s.l1 := by cases th <;> rfl
@[simp] theorem State.updStream_l2s (s : State) (th : ThreadId) (f : Stream → Stream) : (s.updStream th f).l2s = s.l2s := by cases th <;> rfl
@[simp] theorem State.updStream_l2sPoison (s : State) (th : ThreadId) (f : Stream → Stream) : (s.updStream th f).l2sPoison = s.l2sPoison := by cases th <;> rfl
@[simp] theorem State.updStream_releases (s : State) (th : ThreadId) (f : Stream → Stream) : (s.updStream th f).releases = s.releases := by cases th <;> rfl
@[simp] theorem State.updStream_homeq (s : State) (th : ThreadId) (f : Stream → Stream) : (s.updStream th f).homeq = s.homeq := by cases th <;> rfl
@[simp] theorem State.updStream_waiting (s : State) (th : ThreadId) (f : Stream → Stream) : (s.updStream th f).waiting = s.waiting := by cases th <;> rfl
@[simp] theorem State.updStream_nextReq (s : State) (th : ThreadId) (f : Stream → Stream) : (s.updStream th f).nextReq = s.nextReq := by cases th <;> rfl
@[simp] theorem State.updStream_staged (s : State) (th : ThreadId) (f : Stream → Stream) : (s.updStream th f).staged = s.staged := by cases th <;> rfl
@[simp] theorem State.updStream_tags (s : State) (th : ThreadId) (f : Stream → Stream) : (s.updStream th f).tags = s.tags := by cases th <;> rfl
@[simp] theorem State.updStream_launches (s : State) (th : ThreadId) (f : Stream → Stream) : (s.updStream th f).launches = s.launches := by cases th <;> rfl
@[simp] theorem State.updStream_notes (s : State) (th : ThreadId) (f : Stream → Stream) : (s.updStream th f).notes = s.notes := by cases th <;> rfl
@[simp] theorem State.updStream_walkers (s : State) (th : ThreadId) (f : Stream → Stream) : (s.updStream th f).walkers = s.walkers := by cases th <;> rfl
@[simp] theorem State.updStream_gates (s : State) (th : ThreadId) (f : Stream → Stream) : (s.updStream th f).gates = s.gates := by cases th <;> rfl
@[simp] theorem State.updStream_quads (s : State) (th : ThreadId) (f : Stream → Stream) : (s.updStream th f).quads = s.quads := by cases th <;> rfl
@[simp] theorem State.updStream_bars (s : State) (th : ThreadId) (f : Stream → Stream) : (s.updStream th f).bars = s.bars := by cases th <;> rfl
@[simp] theorem State.updStream_barOwner (s : State) (th : ThreadId) (f : Stream → Stream) : (s.updStream th f).barOwner = s.barOwner := by cases th <;> rfl
@[simp] theorem State.updStream_barError (s : State) (th : ThreadId) (f : Stream → Stream) : (s.updStream th f).barError = s.barError := by cases th <;> rfl
@[simp] theorem State.updStream_tlb (s : State) (th : ThreadId) (f : Stream → Stream) : (s.updStream th f).tlb = s.tlb := by cases th <;> rfl
@[simp] theorem State.updStream_walks (s : State) (th : ThreadId) (f : Stream → Stream) : (s.updStream th f).walks = s.walks := by cases th <;> rfl
@[simp] theorem State.updStream_walkTurn (s : State) (th : ThreadId) (f : Stream → Stream) : (s.updStream th f).walkTurn = s.walkTurn := by cases th <;> rfl
@[simp] theorem State.updStream_walkCache (s : State) (th : ThreadId) (f : Stream → Stream) : (s.updStream th f).walkCache = s.walkCache := by cases th <;> rfl
@[simp] theorem State.updStream_root1 (s : State) (th : ThreadId) (f : Stream → Stream) : (s.updStream th f).root1 = s.root1 := by cases th <;> rfl
@[simp] theorem State.updStream_root2 (s : State) (th : ThreadId) (f : Stream → Stream) : (s.updStream th f).root2 = s.root2 := by cases th <;> rfl
@[simp] theorem State.updStream_rights (s : State) (th : ThreadId) (f : Stream → Stream) : (s.updStream th f).rights = s.rights := by cases th <;> rfl
@[simp] theorem State.updStream_windows (s : State) (th : ThreadId) (f : Stream → Stream) : (s.updStream th f).windows = s.windows := by cases th <;> rfl
@[simp] theorem State.updStream_featO (s : State) (th : ThreadId) (f : Stream → Stream) : (s.updStream th f).featO = s.featO := by cases th <;> rfl
@[simp] theorem State.updStream_featD (s : State) (th : ThreadId) (f : Stream → Stream) : (s.updStream th f).featD = s.featD := by cases th <;> rfl
@[simp] theorem State.updStream_offsets (s : State) (th : ThreadId) (f : Stream → Stream) : (s.updStream th f).offsets = s.offsets := by cases th <;> rfl
@[simp] theorem State.updStream_dieTab (s : State) (th : ThreadId) (f : Stream → Stream) : (s.updStream th f).dieTab = s.dieTab := by cases th <;> rfl
@[simp] theorem State.updStream_coreTab (s : State) (th : ThreadId) (f : Stream → Stream) : (s.updStream th f).coreTab = s.coreTab := by cases th <;> rfl
@[simp] theorem State.updStream_domTab (s : State) (th : ThreadId) (f : Stream → Stream) : (s.updStream th f).domTab = s.domTab := by cases th <;> rfl
@[simp] theorem State.updStream_faults (s : State) (th : ThreadId) (f : Stream → Stream) : (s.updStream th f).faults = s.faults := by cases th <;> rfl
@[simp] theorem State.updStream_pres (s : State) (th : ThreadId) (f : Stream → Stream) : (s.updStream th f).pres = s.pres := by cases th <;> rfl
@[simp] theorem State.updStream_preWaits (s : State) (th : ThreadId) (f : Stream → Stream) : (s.updStream th f).preWaits = s.preWaits := by cases th <;> rfl
@[simp] theorem State.updStream_ports (s : State) (th : ThreadId) (f : Stream → Stream) : (s.updStream th f).ports = s.ports := by cases th <;> rfl
@[simp] theorem State.updStream_epoch (s : State) (th : ThreadId) (f : Stream → Stream) : (s.updStream th f).epoch = s.epoch := by cases th <;> rfl
@[simp] theorem State.updStream_known (s : State) (th : ThreadId) (f : Stream → Stream) : (s.updStream th f).known = s.known := by cases th <;> rfl
@[simp] theorem State.updStream_remote (s : State) (th : ThreadId) (f : Stream → Stream) : (s.updStream th f).remote = s.remote := by cases th <;> rfl
@[simp] theorem State.updStream_spent (s : State) (th : ThreadId) (f : Stream → Stream) : (s.updStream th f).spent = s.spent := by cases th <;> rfl
@[simp] theorem State.updStream_nextTag (s : State) (th : ThreadId) (f : Stream → Stream) : (s.updStream th f).nextTag = s.nextTag := by cases th <;> rfl
@[simp] theorem State.updStream_dups (s : State) (th : ThreadId) (f : Stream → Stream) : (s.updStream th f).dups = s.dups := by cases th <;> rfl
@[simp] theorem State.updStream_heldCq (s : State) (th : ThreadId) (f : Stream → Stream) : (s.updStream th f).heldCq = s.heldCq := by cases th <;> rfl
@[simp] theorem State.updStream_fns (s : State) (th : ThreadId) (f : Stream → Stream) : (s.updStream th f).fns = s.fns := by cases th <;> rfl
@[simp] theorem State.updStream_hostReqs (s : State) (th : ThreadId) (f : Stream → Stream) : (s.updStream th f).hostReqs = s.hostReqs := by cases th <;> rfl
@[simp] theorem State.updStream_proxies (s : State) (th : ThreadId) (f : Stream → Stream) : (s.updStream th f).proxies = s.proxies := by cases th <;> rfl
@[simp] theorem State.updStream_nextHost (s : State) (th : ThreadId) (f : Stream → Stream) : (s.updStream th f).nextHost = s.nextHost := by cases th <;> rfl
@[simp] theorem State.updStream_hostOut (s : State) (th : ThreadId) (f : Stream → Stream) : (s.updStream th f).hostOut = s.hostOut := by cases th <;> rfl
@[simp] theorem State.updStream_wsets (s : State) (th : ThreadId) (f : Stream → Stream) : (s.updStream th f).wsets = s.wsets := by cases th <;> rfl
@[simp] theorem State.updStream_latches (s : State) (th : ThreadId) (f : Stream → Stream) : (s.updStream th f).latches = s.latches := by cases th <;> rfl
@[simp] theorem State.updStream_pulls (s : State) (th : ThreadId) (f : Stream → Stream) : (s.updStream th f).pulls = s.pulls := by cases th <;> rfl
@[simp] theorem State.updStream_loads (s : State) (th : ThreadId) (f : Stream → Stream) : (s.updStream th f).loads = s.loads := by cases th <;> rfl
@[simp] theorem State.updStream_stalled (s : State) (th : ThreadId) (f : Stream → Stream) : (s.updStream th f).stalled = s.stalled := by cases th <;> rfl
@[simp] theorem State.updStream_accounts (s : State) (th : ThreadId) (f : Stream → Stream) : (s.updStream th f).accounts = s.accounts := by cases th <;> rfl
@[simp] theorem State.updStream_domAccts (s : State) (th : ThreadId) (f : Stream → Stream) : (s.updStream th f).domAccts = s.domAccts := by cases th <;> rfl
@[simp] theorem State.updStream_boot (s : State) (th : ThreadId) (f : Stream → Stream) : (s.updStream th f).boot = s.boot := by cases th <;> rfl

/-! ## The running thread changed. -/

@[simp] theorem State.updMe_tsc (s : State) (f : Strand → Strand) : (s.updMe f).tsc = s.tsc := State.updStrand_tsc s s.cur f
@[simp] theorem State.updMe_dueAt (s : State) (f : Strand → Strand) : (s.updMe f).dueAt = s.dueAt := State.updStrand_dueAt s s.cur f
@[simp] theorem State.updMe_clocks (s : State) (f : Strand → Strand) : (s.updMe f).clocks = s.clocks := State.updStrand_clocks s s.cur f
@[simp] theorem State.updMe_steps (s : State) (f : Strand → Strand) : (s.updMe f).steps = s.steps := State.updStrand_steps s s.cur f
@[simp] theorem State.updMe_free (s : State) (f : Strand → Strand) : (s.updMe f).free = s.free := State.updStrand_free s s.cur f
@[simp] theorem State.updMe_cur (s : State) (f : Strand → Strand) : (s.updMe f).cur = s.cur := State.updStrand_cur s s.cur f
@[simp] theorem State.updMe_agenda (s : State) (f : Strand → Strand) : (s.updMe f).agenda = s.agenda := State.updStrand_agenda s s.cur f
@[simp] theorem State.updMe_inputs (s : State) (f : Strand → Strand) : (s.updMe f).inputs = s.inputs := State.updStrand_inputs s s.cur f
@[simp] theorem State.updMe_mem (s : State) (f : Strand → Strand) : (s.updMe f).mem = s.mem := State.updStrand_mem s s.cur f
@[simp] theorem State.updMe_stale (s : State) (f : Strand → Strand) : (s.updMe f).stale = s.stale := State.updStrand_stale s s.cur f
@[simp] theorem State.updMe_poison (s : State) (f : Strand → Strand) : (s.updMe f).poison = s.poison := State.updStrand_poison s s.cur f
@[simp] theorem State.updMe_stalePois (s : State) (f : Strand → Strand) : (s.updMe f).stalePois = s.stalePois := State.updStrand_stalePois s s.cur f
@[simp] theorem State.updMe_cache (s : State) (f : Strand → Strand) : (s.updMe f).cache = s.cache := State.updStrand_cache s s.cur f
@[simp] theorem State.updMe_repair (s : State) (f : Strand → Strand) : (s.updMe f).repair = s.repair := State.updStrand_repair s s.cur f
@[simp] theorem State.updMe_eccSeen (s : State) (f : Strand → Strand) : (s.updMe f).eccSeen = s.eccSeen := State.updStrand_eccSeen s s.cur f
@[simp] theorem State.updMe_l1 (s : State) (f : Strand → Strand) : (s.updMe f).l1 = s.l1 := State.updStrand_l1 s s.cur f
@[simp] theorem State.updMe_l2s (s : State) (f : Strand → Strand) : (s.updMe f).l2s = s.l2s := State.updStrand_l2s s s.cur f
@[simp] theorem State.updMe_l2sPoison (s : State) (f : Strand → Strand) : (s.updMe f).l2sPoison = s.l2sPoison := State.updStrand_l2sPoison s s.cur f
@[simp] theorem State.updMe_releases (s : State) (f : Strand → Strand) : (s.updMe f).releases = s.releases := State.updStrand_releases s s.cur f
@[simp] theorem State.updMe_homeq (s : State) (f : Strand → Strand) : (s.updMe f).homeq = s.homeq := State.updStrand_homeq s s.cur f
@[simp] theorem State.updMe_waiting (s : State) (f : Strand → Strand) : (s.updMe f).waiting = s.waiting := State.updStrand_waiting s s.cur f
@[simp] theorem State.updMe_nextReq (s : State) (f : Strand → Strand) : (s.updMe f).nextReq = s.nextReq := State.updStrand_nextReq s s.cur f
@[simp] theorem State.updMe_staged (s : State) (f : Strand → Strand) : (s.updMe f).staged = s.staged := State.updStrand_staged s s.cur f
@[simp] theorem State.updMe_tags (s : State) (f : Strand → Strand) : (s.updMe f).tags = s.tags := State.updStrand_tags s s.cur f
@[simp] theorem State.updMe_launches (s : State) (f : Strand → Strand) : (s.updMe f).launches = s.launches := State.updStrand_launches s s.cur f
@[simp] theorem State.updMe_notes (s : State) (f : Strand → Strand) : (s.updMe f).notes = s.notes := State.updStrand_notes s s.cur f
@[simp] theorem State.updMe_walkers (s : State) (f : Strand → Strand) : (s.updMe f).walkers = s.walkers := State.updStrand_walkers s s.cur f
@[simp] theorem State.updMe_gates (s : State) (f : Strand → Strand) : (s.updMe f).gates = s.gates := State.updStrand_gates s s.cur f
@[simp] theorem State.updMe_quads (s : State) (f : Strand → Strand) : (s.updMe f).quads = s.quads := State.updStrand_quads s s.cur f
@[simp] theorem State.updMe_bars (s : State) (f : Strand → Strand) : (s.updMe f).bars = s.bars := State.updStrand_bars s s.cur f
@[simp] theorem State.updMe_barOwner (s : State) (f : Strand → Strand) : (s.updMe f).barOwner = s.barOwner := State.updStrand_barOwner s s.cur f
@[simp] theorem State.updMe_barError (s : State) (f : Strand → Strand) : (s.updMe f).barError = s.barError := State.updStrand_barError s s.cur f
@[simp] theorem State.updMe_tlb (s : State) (f : Strand → Strand) : (s.updMe f).tlb = s.tlb := State.updStrand_tlb s s.cur f
@[simp] theorem State.updMe_walks (s : State) (f : Strand → Strand) : (s.updMe f).walks = s.walks := State.updStrand_walks s s.cur f
@[simp] theorem State.updMe_walkTurn (s : State) (f : Strand → Strand) : (s.updMe f).walkTurn = s.walkTurn := State.updStrand_walkTurn s s.cur f
@[simp] theorem State.updMe_walkCache (s : State) (f : Strand → Strand) : (s.updMe f).walkCache = s.walkCache := State.updStrand_walkCache s s.cur f
@[simp] theorem State.updMe_root1 (s : State) (f : Strand → Strand) : (s.updMe f).root1 = s.root1 := State.updStrand_root1 s s.cur f
@[simp] theorem State.updMe_root2 (s : State) (f : Strand → Strand) : (s.updMe f).root2 = s.root2 := State.updStrand_root2 s s.cur f
@[simp] theorem State.updMe_rights (s : State) (f : Strand → Strand) : (s.updMe f).rights = s.rights := State.updStrand_rights s s.cur f
@[simp] theorem State.updMe_windows (s : State) (f : Strand → Strand) : (s.updMe f).windows = s.windows := State.updStrand_windows s s.cur f
@[simp] theorem State.updMe_featO (s : State) (f : Strand → Strand) : (s.updMe f).featO = s.featO := State.updStrand_featO s s.cur f
@[simp] theorem State.updMe_featD (s : State) (f : Strand → Strand) : (s.updMe f).featD = s.featD := State.updStrand_featD s s.cur f
@[simp] theorem State.updMe_offsets (s : State) (f : Strand → Strand) : (s.updMe f).offsets = s.offsets := State.updStrand_offsets s s.cur f
@[simp] theorem State.updMe_dieTab (s : State) (f : Strand → Strand) : (s.updMe f).dieTab = s.dieTab := State.updStrand_dieTab s s.cur f
@[simp] theorem State.updMe_coreTab (s : State) (f : Strand → Strand) : (s.updMe f).coreTab = s.coreTab := State.updStrand_coreTab s s.cur f
@[simp] theorem State.updMe_domTab (s : State) (f : Strand → Strand) : (s.updMe f).domTab = s.domTab := State.updStrand_domTab s s.cur f
@[simp] theorem State.updMe_faults (s : State) (f : Strand → Strand) : (s.updMe f).faults = s.faults := State.updStrand_faults s s.cur f
@[simp] theorem State.updMe_pres (s : State) (f : Strand → Strand) : (s.updMe f).pres = s.pres := State.updStrand_pres s s.cur f
@[simp] theorem State.updMe_preWaits (s : State) (f : Strand → Strand) : (s.updMe f).preWaits = s.preWaits := State.updStrand_preWaits s s.cur f
@[simp] theorem State.updMe_ports (s : State) (f : Strand → Strand) : (s.updMe f).ports = s.ports := State.updStrand_ports s s.cur f
@[simp] theorem State.updMe_epoch (s : State) (f : Strand → Strand) : (s.updMe f).epoch = s.epoch := State.updStrand_epoch s s.cur f
@[simp] theorem State.updMe_known (s : State) (f : Strand → Strand) : (s.updMe f).known = s.known := State.updStrand_known s s.cur f
@[simp] theorem State.updMe_remote (s : State) (f : Strand → Strand) : (s.updMe f).remote = s.remote := State.updStrand_remote s s.cur f
@[simp] theorem State.updMe_spent (s : State) (f : Strand → Strand) : (s.updMe f).spent = s.spent := State.updStrand_spent s s.cur f
@[simp] theorem State.updMe_nextTag (s : State) (f : Strand → Strand) : (s.updMe f).nextTag = s.nextTag := State.updStrand_nextTag s s.cur f
@[simp] theorem State.updMe_dups (s : State) (f : Strand → Strand) : (s.updMe f).dups = s.dups := State.updStrand_dups s s.cur f
@[simp] theorem State.updMe_heldCq (s : State) (f : Strand → Strand) : (s.updMe f).heldCq = s.heldCq := State.updStrand_heldCq s s.cur f
@[simp] theorem State.updMe_fns (s : State) (f : Strand → Strand) : (s.updMe f).fns = s.fns := State.updStrand_fns s s.cur f
@[simp] theorem State.updMe_hostReqs (s : State) (f : Strand → Strand) : (s.updMe f).hostReqs = s.hostReqs := State.updStrand_hostReqs s s.cur f
@[simp] theorem State.updMe_proxies (s : State) (f : Strand → Strand) : (s.updMe f).proxies = s.proxies := State.updStrand_proxies s s.cur f
@[simp] theorem State.updMe_nextHost (s : State) (f : Strand → Strand) : (s.updMe f).nextHost = s.nextHost := State.updStrand_nextHost s s.cur f
@[simp] theorem State.updMe_hostOut (s : State) (f : Strand → Strand) : (s.updMe f).hostOut = s.hostOut := State.updStrand_hostOut s s.cur f
@[simp] theorem State.updMe_wsets (s : State) (f : Strand → Strand) : (s.updMe f).wsets = s.wsets := State.updStrand_wsets s s.cur f
@[simp] theorem State.updMe_latches (s : State) (f : Strand → Strand) : (s.updMe f).latches = s.latches := State.updStrand_latches s s.cur f
@[simp] theorem State.updMe_pulls (s : State) (f : Strand → Strand) : (s.updMe f).pulls = s.pulls := State.updStrand_pulls s s.cur f
@[simp] theorem State.updMe_loads (s : State) (f : Strand → Strand) : (s.updMe f).loads = s.loads := State.updStrand_loads s s.cur f
@[simp] theorem State.updMe_stalled (s : State) (f : Strand → Strand) : (s.updMe f).stalled = s.stalled := State.updStrand_stalled s s.cur f
@[simp] theorem State.updMe_accounts (s : State) (f : Strand → Strand) : (s.updMe f).accounts = s.accounts := State.updStrand_accounts s s.cur f
@[simp] theorem State.updMe_domAccts (s : State) (f : Strand → Strand) : (s.updMe f).domAccts = s.domAccts := State.updStrand_domAccts s s.cur f
@[simp] theorem State.updMe_boot (s : State) (f : Strand → Strand) : (s.updMe f).boot = s.boot := State.updStrand_boot s s.cur f

/-! ## A register of the running thread written. -/

@[simp] theorem State.setReg_tsc (s : State) (n : BitVec 4) (v : Word) (p : Bool) : (s.setReg n v p).tsc = s.tsc := State.updMe_tsc s _
@[simp] theorem State.setReg_dueAt (s : State) (n : BitVec 4) (v : Word) (p : Bool) : (s.setReg n v p).dueAt = s.dueAt := State.updMe_dueAt s _
@[simp] theorem State.setReg_clocks (s : State) (n : BitVec 4) (v : Word) (p : Bool) : (s.setReg n v p).clocks = s.clocks := State.updMe_clocks s _
@[simp] theorem State.setReg_steps (s : State) (n : BitVec 4) (v : Word) (p : Bool) : (s.setReg n v p).steps = s.steps := State.updMe_steps s _
@[simp] theorem State.setReg_free (s : State) (n : BitVec 4) (v : Word) (p : Bool) : (s.setReg n v p).free = s.free := State.updMe_free s _
@[simp] theorem State.setReg_cur (s : State) (n : BitVec 4) (v : Word) (p : Bool) : (s.setReg n v p).cur = s.cur := State.updMe_cur s _
@[simp] theorem State.setReg_agenda (s : State) (n : BitVec 4) (v : Word) (p : Bool) : (s.setReg n v p).agenda = s.agenda := State.updMe_agenda s _
@[simp] theorem State.setReg_inputs (s : State) (n : BitVec 4) (v : Word) (p : Bool) : (s.setReg n v p).inputs = s.inputs := State.updMe_inputs s _
@[simp] theorem State.setReg_mem (s : State) (n : BitVec 4) (v : Word) (p : Bool) : (s.setReg n v p).mem = s.mem := State.updMe_mem s _
@[simp] theorem State.setReg_stale (s : State) (n : BitVec 4) (v : Word) (p : Bool) : (s.setReg n v p).stale = s.stale := State.updMe_stale s _
@[simp] theorem State.setReg_poison (s : State) (n : BitVec 4) (v : Word) (p : Bool) : (s.setReg n v p).poison = s.poison := State.updMe_poison s _
@[simp] theorem State.setReg_stalePois (s : State) (n : BitVec 4) (v : Word) (p : Bool) : (s.setReg n v p).stalePois = s.stalePois := State.updMe_stalePois s _
@[simp] theorem State.setReg_cache (s : State) (n : BitVec 4) (v : Word) (p : Bool) : (s.setReg n v p).cache = s.cache := State.updMe_cache s _
@[simp] theorem State.setReg_repair (s : State) (n : BitVec 4) (v : Word) (p : Bool) : (s.setReg n v p).repair = s.repair := State.updMe_repair s _
@[simp] theorem State.setReg_eccSeen (s : State) (n : BitVec 4) (v : Word) (p : Bool) : (s.setReg n v p).eccSeen = s.eccSeen := State.updMe_eccSeen s _
@[simp] theorem State.setReg_l1 (s : State) (n : BitVec 4) (v : Word) (p : Bool) : (s.setReg n v p).l1 = s.l1 := State.updMe_l1 s _
@[simp] theorem State.setReg_l2s (s : State) (n : BitVec 4) (v : Word) (p : Bool) : (s.setReg n v p).l2s = s.l2s := State.updMe_l2s s _
@[simp] theorem State.setReg_l2sPoison (s : State) (n : BitVec 4) (v : Word) (p : Bool) : (s.setReg n v p).l2sPoison = s.l2sPoison := State.updMe_l2sPoison s _
@[simp] theorem State.setReg_releases (s : State) (n : BitVec 4) (v : Word) (p : Bool) : (s.setReg n v p).releases = s.releases := State.updMe_releases s _
@[simp] theorem State.setReg_homeq (s : State) (n : BitVec 4) (v : Word) (p : Bool) : (s.setReg n v p).homeq = s.homeq := State.updMe_homeq s _
@[simp] theorem State.setReg_waiting (s : State) (n : BitVec 4) (v : Word) (p : Bool) : (s.setReg n v p).waiting = s.waiting := State.updMe_waiting s _
@[simp] theorem State.setReg_nextReq (s : State) (n : BitVec 4) (v : Word) (p : Bool) : (s.setReg n v p).nextReq = s.nextReq := State.updMe_nextReq s _
@[simp] theorem State.setReg_staged (s : State) (n : BitVec 4) (v : Word) (p : Bool) : (s.setReg n v p).staged = s.staged := State.updMe_staged s _
@[simp] theorem State.setReg_tags (s : State) (n : BitVec 4) (v : Word) (p : Bool) : (s.setReg n v p).tags = s.tags := State.updMe_tags s _
@[simp] theorem State.setReg_launches (s : State) (n : BitVec 4) (v : Word) (p : Bool) : (s.setReg n v p).launches = s.launches := State.updMe_launches s _
@[simp] theorem State.setReg_notes (s : State) (n : BitVec 4) (v : Word) (p : Bool) : (s.setReg n v p).notes = s.notes := State.updMe_notes s _
@[simp] theorem State.setReg_walkers (s : State) (n : BitVec 4) (v : Word) (p : Bool) : (s.setReg n v p).walkers = s.walkers := State.updMe_walkers s _
@[simp] theorem State.setReg_gates (s : State) (n : BitVec 4) (v : Word) (p : Bool) : (s.setReg n v p).gates = s.gates := State.updMe_gates s _
@[simp] theorem State.setReg_quads (s : State) (n : BitVec 4) (v : Word) (p : Bool) : (s.setReg n v p).quads = s.quads := State.updMe_quads s _
@[simp] theorem State.setReg_bars (s : State) (n : BitVec 4) (v : Word) (p : Bool) : (s.setReg n v p).bars = s.bars := State.updMe_bars s _
@[simp] theorem State.setReg_barOwner (s : State) (n : BitVec 4) (v : Word) (p : Bool) : (s.setReg n v p).barOwner = s.barOwner := State.updMe_barOwner s _
@[simp] theorem State.setReg_barError (s : State) (n : BitVec 4) (v : Word) (p : Bool) : (s.setReg n v p).barError = s.barError := State.updMe_barError s _
@[simp] theorem State.setReg_tlb (s : State) (n : BitVec 4) (v : Word) (p : Bool) : (s.setReg n v p).tlb = s.tlb := State.updMe_tlb s _
@[simp] theorem State.setReg_walks (s : State) (n : BitVec 4) (v : Word) (p : Bool) : (s.setReg n v p).walks = s.walks := State.updMe_walks s _
@[simp] theorem State.setReg_walkTurn (s : State) (n : BitVec 4) (v : Word) (p : Bool) : (s.setReg n v p).walkTurn = s.walkTurn := State.updMe_walkTurn s _
@[simp] theorem State.setReg_walkCache (s : State) (n : BitVec 4) (v : Word) (p : Bool) : (s.setReg n v p).walkCache = s.walkCache := State.updMe_walkCache s _
@[simp] theorem State.setReg_root1 (s : State) (n : BitVec 4) (v : Word) (p : Bool) : (s.setReg n v p).root1 = s.root1 := State.updMe_root1 s _
@[simp] theorem State.setReg_root2 (s : State) (n : BitVec 4) (v : Word) (p : Bool) : (s.setReg n v p).root2 = s.root2 := State.updMe_root2 s _
@[simp] theorem State.setReg_rights (s : State) (n : BitVec 4) (v : Word) (p : Bool) : (s.setReg n v p).rights = s.rights := State.updMe_rights s _
@[simp] theorem State.setReg_windows (s : State) (n : BitVec 4) (v : Word) (p : Bool) : (s.setReg n v p).windows = s.windows := State.updMe_windows s _
@[simp] theorem State.setReg_featO (s : State) (n : BitVec 4) (v : Word) (p : Bool) : (s.setReg n v p).featO = s.featO := State.updMe_featO s _
@[simp] theorem State.setReg_featD (s : State) (n : BitVec 4) (v : Word) (p : Bool) : (s.setReg n v p).featD = s.featD := State.updMe_featD s _
@[simp] theorem State.setReg_offsets (s : State) (n : BitVec 4) (v : Word) (p : Bool) : (s.setReg n v p).offsets = s.offsets := State.updMe_offsets s _
@[simp] theorem State.setReg_dieTab (s : State) (n : BitVec 4) (v : Word) (p : Bool) : (s.setReg n v p).dieTab = s.dieTab := State.updMe_dieTab s _
@[simp] theorem State.setReg_coreTab (s : State) (n : BitVec 4) (v : Word) (p : Bool) : (s.setReg n v p).coreTab = s.coreTab := State.updMe_coreTab s _
@[simp] theorem State.setReg_domTab (s : State) (n : BitVec 4) (v : Word) (p : Bool) : (s.setReg n v p).domTab = s.domTab := State.updMe_domTab s _
@[simp] theorem State.setReg_faults (s : State) (n : BitVec 4) (v : Word) (p : Bool) : (s.setReg n v p).faults = s.faults := State.updMe_faults s _
@[simp] theorem State.setReg_pres (s : State) (n : BitVec 4) (v : Word) (p : Bool) : (s.setReg n v p).pres = s.pres := State.updMe_pres s _
@[simp] theorem State.setReg_preWaits (s : State) (n : BitVec 4) (v : Word) (p : Bool) : (s.setReg n v p).preWaits = s.preWaits := State.updMe_preWaits s _
@[simp] theorem State.setReg_ports (s : State) (n : BitVec 4) (v : Word) (p : Bool) : (s.setReg n v p).ports = s.ports := State.updMe_ports s _
@[simp] theorem State.setReg_epoch (s : State) (n : BitVec 4) (v : Word) (p : Bool) : (s.setReg n v p).epoch = s.epoch := State.updMe_epoch s _
@[simp] theorem State.setReg_known (s : State) (n : BitVec 4) (v : Word) (p : Bool) : (s.setReg n v p).known = s.known := State.updMe_known s _
@[simp] theorem State.setReg_remote (s : State) (n : BitVec 4) (v : Word) (p : Bool) : (s.setReg n v p).remote = s.remote := State.updMe_remote s _
@[simp] theorem State.setReg_spent (s : State) (n : BitVec 4) (v : Word) (p : Bool) : (s.setReg n v p).spent = s.spent := State.updMe_spent s _
@[simp] theorem State.setReg_nextTag (s : State) (n : BitVec 4) (v : Word) (p : Bool) : (s.setReg n v p).nextTag = s.nextTag := State.updMe_nextTag s _
@[simp] theorem State.setReg_dups (s : State) (n : BitVec 4) (v : Word) (p : Bool) : (s.setReg n v p).dups = s.dups := State.updMe_dups s _
@[simp] theorem State.setReg_heldCq (s : State) (n : BitVec 4) (v : Word) (p : Bool) : (s.setReg n v p).heldCq = s.heldCq := State.updMe_heldCq s _
@[simp] theorem State.setReg_fns (s : State) (n : BitVec 4) (v : Word) (p : Bool) : (s.setReg n v p).fns = s.fns := State.updMe_fns s _
@[simp] theorem State.setReg_hostReqs (s : State) (n : BitVec 4) (v : Word) (p : Bool) : (s.setReg n v p).hostReqs = s.hostReqs := State.updMe_hostReqs s _
@[simp] theorem State.setReg_proxies (s : State) (n : BitVec 4) (v : Word) (p : Bool) : (s.setReg n v p).proxies = s.proxies := State.updMe_proxies s _
@[simp] theorem State.setReg_nextHost (s : State) (n : BitVec 4) (v : Word) (p : Bool) : (s.setReg n v p).nextHost = s.nextHost := State.updMe_nextHost s _
@[simp] theorem State.setReg_hostOut (s : State) (n : BitVec 4) (v : Word) (p : Bool) : (s.setReg n v p).hostOut = s.hostOut := State.updMe_hostOut s _
@[simp] theorem State.setReg_wsets (s : State) (n : BitVec 4) (v : Word) (p : Bool) : (s.setReg n v p).wsets = s.wsets := State.updMe_wsets s _
@[simp] theorem State.setReg_latches (s : State) (n : BitVec 4) (v : Word) (p : Bool) : (s.setReg n v p).latches = s.latches := State.updMe_latches s _
@[simp] theorem State.setReg_pulls (s : State) (n : BitVec 4) (v : Word) (p : Bool) : (s.setReg n v p).pulls = s.pulls := State.updMe_pulls s _
@[simp] theorem State.setReg_loads (s : State) (n : BitVec 4) (v : Word) (p : Bool) : (s.setReg n v p).loads = s.loads := State.updMe_loads s _
@[simp] theorem State.setReg_stalled (s : State) (n : BitVec 4) (v : Word) (p : Bool) : (s.setReg n v p).stalled = s.stalled := State.updMe_stalled s _
@[simp] theorem State.setReg_accounts (s : State) (n : BitVec 4) (v : Word) (p : Bool) : (s.setReg n v p).accounts = s.accounts := State.updMe_accounts s _
@[simp] theorem State.setReg_domAccts (s : State) (n : BitVec 4) (v : Word) (p : Bool) : (s.setReg n v p).domAccts = s.domAccts := State.updMe_domAccts s _
@[simp] theorem State.setReg_boot (s : State) (n : BitVec 4) (v : Word) (p : Bool) : (s.setReg n v p).boot = s.boot := State.updMe_boot s _

end Sys2Proof.Machine
end

