-- ==== Sys2Proof/Laws/Access.lean ====
section
/-! SUPPORT. Access: what reading a coach, a thread, a stream or a register gives after one of them has changed. -/

namespace Sys2Proof.Machine

/-! ## Coaches -/

theorem find?_updateWhere {α : Type} (p q : α → Bool) (f : α → α) (l : List α) (hq : ∀ x, q (f x) = q x) :
    (updateWhere p f l).find? q = (l.find? q).map (fun x => if p x then f x else x) := by
  have hg : (q ∘ fun x => if p x then f x else x) = q := by
    funext x
    exact (apply_ite q _ _ _).trans (by rw [hq, ite_self])
  rw [updateWhere, List.find?_map, hg]

/-- Reading a coach after one has changed (the change keeps its lead quadrant). -/
theorem State.coach?_updCoach (s : State) (q p : Nat) (f : Coach → Coach) (hf : ∀ c, (f c).quad = c.quad) :
    (s.updCoach q f).coach? p = if p = q then (s.coach? q).map f else s.coach? p := by
  unfold State.coach? State.updCoach
  rw [find?_updateWhere _ _ f s.coaches (fun c => by rw [hf])]
  split <;> rename_i h
  · subst h
    cases hc : s.coaches.find? (fun c => c.quad == p) with
    | none => rfl
    | some c =>
      have hk : c.quad = p := by simpa using List.find?_some hc
      simp [hk]
  · cases hc : s.coaches.find? (fun c => c.quad == p) with
    | none => rfl
    | some c =>
      have := List.find?_some hc
      simp only [beq_iff_eq] at this
      simp [this, h]

@[simp] theorem Coach.setStrand_quad (c : Coach) (p : Nat) (v : Strand) : (c.setStrand p v).quad = c.quad := rfl
@[simp] theorem Coach.updStrand_quad (c : Coach) (p : Nat) (f : Strand → Strand) : (c.updStrand p f).quad = c.quad := rfl
@[simp] theorem Coach.setFifo_quad (c : Coach) (k n : Nat) : (c.setFifo k n).quad = c.quad := rfl
@[simp] theorem Coach.setOwed_quad (c : Coach) (k n : Nat) : (c.setOwed k n).quad = c.quad := rfl
@[simp] theorem Coach.setStream_quad (c : Coach) (i : StreamId) (v : Stream) : (c.setStream i v).quad = c.quad := by
  cases i <;> rfl

/-- Reading a strand of a coach after one has changed. -/
theorem Coach.strand_updStrand (c : Coach) (p q : Nat) (f : Strand → Strand) :
    (c.updStrand p f).strand q = if q = p then f (c.strand p) else c.strand q :=
  SMap.get_put _ c.strands p _ q

@[simp] theorem Coach.strand_setFifo (c : Coach) (k n p : Nat) : (c.setFifo k n).strand p = c.strand p := rfl
@[simp] theorem Coach.strand_setOwed (c : Coach) (k n p : Nat) : (c.setOwed k n).strand p = c.strand p := rfl

/-! ## Dies and Dray strands -/

theorem State.die_updDie (s : State) (d e : Nat) (f : Die → Die) :
    (s.updDie d f).die e = if e = d then f (s.die d) else s.die e :=
  SMap.get_put _ s.dies d _ e

theorem State.drayStrand_updDray (s : State) (d k e j : Nat) (f : DrayStrand → DrayStrand) :
    (s.updDray d k f).drayStrand e j = if e = d ∧ j = k then f (s.drayStrand d k) else s.drayStrand e j := by
  unfold State.drayStrand State.updDray
  rw [State.die_updDie]
  by_cases he : e = d
  · subst he
    simp only [if_true, true_and]
    exact SMap.get_put _ _ k _ j
  · simp [he]

/-- A change of a Dray strand leaves the rest of every die as it was. -/
theorem State.die_updDray (s : State) (d k e : Nat) (f : DrayStrand → DrayStrand) :
    (s.updDray d k f).die e = { s.die e with strands := ((s.updDray d k f).die e).strands } := by
  unfold State.updDray
  rw [State.die_updDie]
  split <;> rename_i h
  · subst h; rfl
  · rfl

/-! ## Threads -/

/-- Reading a thread after one has changed. -/
theorem State.strand?_updStrand (s : State) (th u : ThreadId) (f : Strand → Strand) :
    (s.updStrand th f).strand? u = if u = th then (s.strand? th).map f else s.strand? u := by
  cases th with
  | coach q p =>
    cases u with
    | coach q' p' =>
      simp only [State.strand?, State.updStrand]
      rw [State.coach?_updCoach s q q' (fun c => c.updStrand p f) (fun c => rfl)]
      by_cases hq : q' = q
      · subst hq
        by_cases hp : p' = p
        · subst hp
          simp only [if_true, Option.map_map]
          congr 1; funext c; simp [Coach.strand_updStrand]
        · have : ¬ (ThreadId.coach q' p' = ThreadId.coach q' p) := by simp [hp]
          simp only [if_true, if_neg this, Option.map_map]
          congr 1; funext c; simp [Coach.strand_updStrand, hp]
      · simp [hq]
    | dray d k => simp [State.strand?, State.updStrand, State.drayStrand, State.die]
  | dray d k =>
    cases u with
    | coach q p => simp [State.strand?, State.updStrand, State.coach?]
    | dray e j =>
      simp only [State.strand?, State.updStrand]
      rw [State.drayStrand_updDray]
      by_cases h : e = d ∧ j = k
      · obtain ⟨rfl, rfl⟩ := h; simp
      · have : ¬ (ThreadId.dray e j = ThreadId.dray d k) := by simpa using h
        simp [h, this]

theorem State.strand?_updMe (s : State) (f : Strand → Strand) :
    (s.updMe f).strand? s.cur = (s.strand? s.cur).map f := by
  simp [State.updMe, State.strand?_updStrand]

/-- The running thread after it has changed. -/
theorem State.me_updMe (s : State) (f : Strand → Strand) (h : (s.strand? s.cur).isSome = true) :
    (s.updMe f).me = f s.me := by
  obtain ⟨st, hst⟩ := Option.isSome_iff_exists.1 h
  simp [State.me, State.strand?_updMe, hst]

/-- The streams of threads do not change with a thread. -/
theorem State.stream?_updStrand (s : State) (th u : ThreadId) (f : Strand → Strand) :
    (s.updStrand th f).stream? u = s.stream? u := by
  cases th with
  | coach q p =>
    cases u with
    | coach q' p' =>
      simp only [State.stream?, State.updStrand]
      rw [State.coach?_updCoach s q q' (fun c => c.updStrand p f) (fun c => rfl)]
      split <;> rename_i h
      · subst h
        rw [Option.map_map]
        rfl
      · rfl
    | dray d k => simp [State.stream?, State.updStrand, State.drayStrand, State.die]
  | dray d k =>
    cases u with
    | coach q p => simp [State.stream?, State.updStrand, State.coach?]
    | dray e j =>
      simp only [State.stream?, State.updStrand]
      rw [State.drayStrand_updDray]
      split <;> rename_i h
      · obtain ⟨rfl, rfl⟩ := h; rfl
      · rfl

/-! ## Registers (R21, R95) -/

/-- ReadS after WriteS: s0 stays zero, and every other register keeps its value. -/
theorem Strand.reg_setReg (st : Strand) (n r : BitVec 4) (v : Word) (p : Bool) :
    (st.setReg n v p).reg r = if r = n ∧ n ≠ 0#4 then v else st.reg r := by
  unfold Strand.reg Strand.setReg
  by_cases hr : r = 0#4
  · subst hr
    by_cases hn : n = 0#4
    · simp [hn]
    · simp [Ne.symm hn]
  · by_cases hn : n = 0#4
    · simp [hn, hr]
    · simp only [if_neg hr, if_neg hn]
      rw [SMap.get_put]
      by_cases h : r = n
      · simp [h, hn]
      · have : r.toNat ≠ n.toNat := fun e => h (BitVec.eq_of_toNat_eq e)
        simp [h, this]

theorem Strand.pois_setReg (st : Strand) (n r : BitVec 4) (v : Word) (p : Bool) :
    (st.setReg n v p).pois r = if r = n ∧ n ≠ 0#4 then p else st.pois r := by
  unfold Strand.pois Strand.setReg
  by_cases hr : r = 0#4
  · subst hr
    by_cases hn : n = 0#4
    · simp [hn]
    · simp [Ne.symm hn]
  · by_cases hn : n = 0#4
    · simp [hn, hr]
    · simp only [if_neg hr, if_neg hn]
      have hlt : r.toNat < 16 := r.isLt
      by_cases h : r = n
      · subst h
        cases p <;> simp [hn, hlt]
      · have hne : r.toNat ≠ n.toNat := fun e => h (BitVec.eq_of_toNat_eq e)
        have hb : (1#16 <<< n.toNat).getLsbD r.toNat = false := by
          simp only [BitVec.getLsbD_shiftLeft, BitVec.getLsbD_one]
          by_cases hl : r.toNat < n.toNat
          · simp [hl]
          · have : r.toNat - n.toNat ≠ 0 := by omega
            simp [this]
        rw [if_neg (fun (e : r = n ∧ n ≠ 0#4) => h e.1)]
        cases p
        · show (st.poison &&& ~~~ (1#16 <<< n.toNat)).getLsbD r.toNat = _
          rw [BitVec.getLsbD_and, BitVec.getLsbD_not, hb]; simp [hlt]
        · show (st.poison ||| (1#16 <<< n.toNat)).getLsbD r.toNat = _
          rw [BitVec.getLsbD_or, hb, Bool.or_false]

@[simp] theorem Strand.reg_s0 (st : Strand) : st.reg 0#4 = 0#64 := rfl

theorem State.reg_setReg (s : State) (n r : BitVec 4) (v : Word) (p : Bool) (h : (s.strand? s.cur).isSome = true) :
    (s.setReg n v p).reg r = if r = n ∧ n ≠ 0#4 then v else s.reg r := by
  unfold State.reg State.setReg
  rw [State.me_updMe s _ h, Strand.reg_setReg]

theorem State.pois_setReg (s : State) (n r : BitVec 4) (v : Word) (p : Bool) (h : (s.strand? s.cur).isSome = true) :
    (s.setReg n v p).pois r = if r = n ∧ n ≠ 0#4 then p else s.pois r := by
  unfold State.pois State.setReg
  rw [State.me_updMe s _ h, Strand.pois_setReg]

end Sys2Proof.Machine
end

