-- ==== Sys2Proof/Laws/Ops.lean ====
section
/-! SUPPORT. Ops: what the issue of a word, its tokens and its completion do, said once for each shared operation. -/

namespace Sys2Proof.Machine

/-! ## What one thread's step leaves alone -/

theorem OnlyThread.refl (s : State) : OnlyThread s s := ⟨rfl, fun _ => rfl, fun _ => rfl, fun _ _ => rfl, fun _ => rfl⟩

theorem OnlyThread.cur {s t : State} (h : OnlyThread s t) : t.cur = s.cur := by rw [h.1]

theorem OnlyThread.mem {s t : State} (h : OnlyThread s t) : t.mem = s.mem := by rw [h.1]

theorem OnlyThread.trans {s t u : State} (h : OnlyThread s t) (g : OnlyThread t u) : OnlyThread s u := by
  refine ⟨?_, fun d => ?_, fun q => (g.2.2.1 q).trans (h.2.2.1 q), fun x hx => ?_, fun x => (g.2.2.2.2 x).trans (h.2.2.2.2 x)⟩
  · exact g.1.trans (by rw [h.1])
  · exact (g.2.1 d).trans (by rw [h.2.1 d])
  · exact (g.2.2.2.1 x (by rwa [h.cur])).trans (h.2.2.2.1 x hx)

theorem State.updStrand_eq (s : State) (th : ThreadId) (f : Strand → Strand) :
    s.updStrand th f = { s with coaches := (s.updStrand th f).coaches, dies := (s.updStrand th f).dies } := by
  cases th <;> rfl

/-- A change of the running thread. -/
theorem State.updMe_only (s : State) (f : Strand → Strand) : OnlyThread s (s.updMe f) := by
  refine ⟨?_, fun d => ?_, fun q => ?_, fun u hu => ?_, fun u => State.stream?_updStrand s s.cur u f⟩
  · exact State.updStrand_eq s s.cur f
  · unfold State.updMe
    cases hc : s.cur with
    | coach q p => rfl
    | dray e k => exact State.die_updDray s e k d _
  · unfold State.updMe
    cases hc : s.cur with
    | coach p n =>
      rw [State.updStrand, State.coach?_updCoach s p q (fun c => c.updStrand n f) (fun c => rfl)]
      split <;> rename_i h
      · subst h; rw [Option.map_map]; rfl
      · rfl
    | dray e k => rfl
  · rw [State.updMe, State.strand?_updStrand, if_neg hu]

/-- A change of a coach's tokens and latches. -/
theorem State.updCoach_only (s : State) (q : Nat) (f : Coach → Coach) (hr : ∀ c, (f c).rest = c.rest)
    (hs : ∀ c p, ThreadId.coach q p ≠ s.cur → ((f c).strand p).rest = (c.strand p).rest) :
    OnlyThread s (s.updCoach q f) := by
  have hq : ∀ c, (f c).quad = c.quad := fun c => by
    show (f c).rest.quad = c.rest.quad
    rw [hr c]
  refine ⟨rfl, fun _ => rfl, fun p => ?_, fun u hu => ?_, fun u => ?_⟩
  · rw [State.coach?_updCoach s q p f hq]
    split <;> rename_i h
    · subst h
      rw [Option.map_map]
      congr 1
      funext c
      exact hr c
    · rfl
  · cases u with
    | dray d k => rfl
    | coach p n =>
      simp only [State.strand?]
      rw [State.coach?_updCoach s q p f hq]
      split <;> rename_i h
      · subst h
        simp only [Option.map_map]
        congr 1
        funext c
        exact hs c n hu
      · rfl
  · cases u with
    | dray d k => rfl
    | coach p n =>
      simp only [State.stream?]
      rw [State.coach?_updCoach s q p f hq]
      split <;> rename_i h
      · subst h
        rw [Option.map_map]
        congr 1
        funext c
        have h1 : (f c).sk = c.sk := by
          show (f c).rest.sk = c.rest.sk
          rw [hr c]
        have h2 : (f c).sl = c.sl := by
          show (f c).rest.sl = c.rest.sl
          rw [hr c]
        have h3 : (f c).sx = c.sx := by
          show (f c).rest.sx = c.rest.sx
          rw [hr c]
        have h4 : (f c).ss = c.ss := by
          show (f c).rest.ss = c.rest.ss
          rw [hr c]
        show (f c).stream (streamOfPart n) = c.stream (streamOfPart n)
        unfold Coach.stream
        cases streamOfPart n <;> assumption
      · rfl

/-! ## Taking a token (R17) -/

theorem State.takeToken_only (s : State) (k : Tok) : OnlyThread s (s.takeToken k) := by
  unfold State.takeToken
  cases hc : s.cur with
  | dray d n => exact OnlyThread.refl s
  | coach q p =>
    dsimp only
    split
    · exact OnlyThread.refl s
    · refine State.updCoach_only s q _ (fun c => rfl) (fun c n hn => ?_)
      rw [Coach.strand_updStrand, if_neg (fun e => hn (by rw [hc, e]))]
      rfl

/-- The thread after it has taken its token: only the mark of it is new, and what the token makes it follow. -/
theorem State.takeToken_me (s : State) (k : Tok) :
    (s.takeToken k).me = { s.me with
      popped := (s.takeToken k).me.popped, behind := (s.takeToken k).me.behind } := by
  have hcur : (s.takeToken k).cur = s.cur := (State.takeToken_only s k).cur
  unfold State.takeToken State.me at *
  cases hc : s.cur with
  | dray d n => simp only [hc]
  | coach q p =>
    simp only [hc] at hcur ⊢
    split <;> rename_i h
    · simp only [hc]
    · simp only [State.popFrom, State.updCoach_cur, hc, State.strand?]
      rw [State.coach?_updCoach, if_pos rfl]
      · cases s.coach? q with
        | none => rfl
        | some c => simp [Coach.strand_updStrand, Coach.popToken]
      · exact fun c => rfl

@[simp] theorem State.takeToken_cur (s : State) (k : Tok) : (s.takeToken k).cur = s.cur := (State.takeToken_only s k).cur

@[simp] theorem State.takeToken_reg (s : State) (k : Tok) (r : BitVec 4) : (s.takeToken k).reg r = s.reg r := by
  rw [State.reg, State.takeToken_me]; rfl

@[simp] theorem State.takeToken_pois (s : State) (k : Tok) (r : BitVec 4) : (s.takeToken k).pois r = s.pois r := by
  rw [State.pois, State.takeToken_me]; rfl

@[simp] theorem State.takeToken_pc (s : State) (k : Tok) : (s.takeToken k).me.pc = s.me.pc := by
  rw [State.takeToken_me]

/-- A coach after a word that changes only its thread and tokens. -/
theorem OnlyThread.coach {s t : State} (h : OnlyThread s t) (q : Nat) :
    (t.coach? q).map Coach.rest = (s.coach? q).map Coach.rest := h.2.2.1 q

theorem OnlyThread.isSome {s t : State} (h : OnlyThread s t) : (t.strand? t.cur).isSome = (s.strand? s.cur).isSome := by
  rw [h.cur]
  cases hc : s.cur with
  | dray d k => rfl
  | coach q p =>
    have := congrArg Option.isSome (h.coach q)
    simpa [State.strand?] using this

/-- The register still to be written that a word waits for, from what a vector unit holds. -/
def scalarDueUnit (i : Instr) (o : Option (List VecOp)) : Option Nat :=
  o.bind (fun u => ((regsOf i).find? (fun r => u.any (fun x => x.result == some r))).map (fun r => r.toNat))

/-- The same from the coach. -/
def scalarDueIn (i : Instr) (o : Option Coach) : Option Nat :=
  match o with
  | some c => ((regsOf i).find? (fun r => c.unit.any (fun x => x.result == some r))).map (fun r => r.toNat)
  | none => none

/-- The words that the vector unit holds do not change with a thread. -/
theorem OnlyThread.scalarDue {s t : State} (h : OnlyThread s t) (i : Instr) : t.scalarDue i = s.scalarDue i := by
  unfold State.scalarDue
  rw [h.cur]
  split
  · rename_i q _
    have hq : (t.coach? q).map (fun c => c.unit) = (s.coach? q).map (fun c => c.unit) := by
      have := congrArg (Option.map (fun (c : Coach) => c.unit)) (h.coach q)
      rwa [Option.map_map, Option.map_map] at this
    have key : ∀ o : Option Coach, scalarDueIn i o = scalarDueUnit i (o.map (fun c => c.unit)) := fun o => by cases o <;> rfl
    exact (key _).trans ((congrArg _ hq).trans (key _).symm)
  · rfl

/-! ## Pushing a token (R17) -/

/-- A latch of a stream's threads leaves the threads of the others alone. -/
theorem Coach.strand_latch_of_notMem (c : Coach) (j : Nat) (m : BitVec 4) (p : Nat) (h : p ∉ partsOfStream j) :
    (c.latch j m).strand p = c.strand p := by
  have fold : ∀ (l : List Nat) (c : Coach), p ∉ l →
      (l.foldl (fun c q => c.updStrand q (fun st => { st with latch := st.latch ||| m })) c).strand p = c.strand p := by
    intro l
    induction l with
    | nil => exact fun _ _ => rfl
    | cons q l ih =>
      intro c hl
      rw [List.foldl_cons, ih _ (fun hp => hl (List.mem_cons_of_mem _ hp)), Coach.strand_updStrand,
        if_neg (fun e => hl (by rw [e]; exact List.mem_cons_self ..))]
  exact fold _ c h

theorem Coach.strand_latch_rest (c : Coach) (j : Nat) (m : BitVec 4) (p : Nat) :
    ((c.latch j m).strand p).rest = (c.strand p).rest := by
  have fold : ∀ (l : List Nat) (c : Coach),
      ((l.foldl (fun c q => c.updStrand q (fun st => { st with latch := st.latch ||| m })) c).strand p).rest =
        (c.strand p).rest := by
    intro l
    induction l with
    | nil => exact fun _ => rfl
    | cons q l ih =>
      intro c
      rw [List.foldl_cons, ih, Coach.strand_updStrand]
      split <;> rename_i h
      · rw [h]; rfl
      · rfl
  exact fold _ c

theorem Coach.latch_rest (c : Coach) (j : Nat) (m : BitVec 4) : (c.latch j m).rest = c.rest := by
  have fold : ∀ (l : List Nat) (c : Coach),
      (l.foldl (fun c q => c.updStrand q (fun st => { st with latch := st.latch ||| m })) c).rest = c.rest := by
    intro l
    induction l with
    | nil => exact fun _ => rfl
    | cons q l ih => exact fun c => (ih _).trans rfl
  exact fold _ c

theorem Coach.pushToken_rest (c : Coach) (i j : Nat) : (c.pushToken i j).rest = c.rest :=
  (Coach.latch_rest _ _ _).trans rfl

theorem State.pushToken_only (s : State) (k : Tok) : OnlyThread s (s.pushToken k) := by
  unfold State.pushToken
  cases hc : s.cur with
  | dray d n => exact OnlyThread.refl s
  | coach q p =>
    dsimp only
    split
    · exact OnlyThread.refl s
    · exact State.updCoach_only s q _ (fun c => Coach.pushToken_rest c _ _) (fun c n _ => Coach.strand_latch_rest _ _ _ _)

/-- No thread of the pushing stream belongs to the stream that receives. -/
theorem notMem_partsOfStream (p n : Nat) (hn : n ≠ 0) (h4 : n < 4) :
    p ∉ partsOfStream (selected (streamOfPart p).index n) := by
  intro hp
  have hlt : selected (streamOfPart p).index n < 4 := Nat.mod_lt _ (by decide)
  have key : ∀ j, j < 4 → p ∈ partsOfStream j → (streamOfPart p).index = j := by
    intro j hj hm
    match j, hj with
    | 0, _ => simp only [partsOfStream, List.mem_cons, List.not_mem_nil, or_false] at hm; rcases hm with h | h | h | h | h | h | h | h <;> subst h <;> rfl
    | 1, _ => simp only [partsOfStream, List.mem_singleton] at hm; subst hm; rfl
    | 2, _ => simp only [partsOfStream, List.mem_singleton] at hm; subst hm; rfl
    | 3, _ => simp only [partsOfStream, List.mem_singleton] at hm; subst hm; rfl
  have h := key _ hlt hp
  have hi : (streamOfPart p).index < 4 := by rw [h]; exact hlt
  unfold selected at h
  omega

theorem State.pushToken_me (s : State) (k : Tok) : (s.pushToken k).me = s.me := by
  have hcur : (s.pushToken k).cur = s.cur := (State.pushToken_only s k).cur
  unfold State.me
  rw [hcur]
  unfold State.pushToken
  cases hc : s.cur with
  | dray d n => rfl
  | coach q p =>
    dsimp only
    split <;> rename_i h
    · rfl
    · simp only [State.strand?]
      rw [State.coach?_updCoach, if_pos rfl]
      swap
      · exact fun c => by
          show (c.pushToken _ _).rest.quad = c.rest.quad
          rw [Coach.pushToken_rest]
      cases s.coach? q with
      | none => rfl
      | some c =>
        have hn : k.push.toNat ≠ 0 := fun e => h (BitVec.eq_of_toNat_eq e)
        have := Coach.strand_latch_of_notMem
          (c.setFifo (fifoKey (streamOfPart p).index (selected (streamOfPart p).index k.push.toNat))
            (c.fifoCount (fifoKey (streamOfPart p).index (selected (streamOfPart p).index k.push.toNat)) + 1))
          _ 1#4 p (notMem_partsOfStream p k.push.toNat hn k.push.isLt)
        simpa [Coach.pushToken] using this

theorem State.settled_only (s : State) : OnlyThread s s.settled := by
  unfold State.settled
  split
  · exact State.updCoach_only s _ _ (fun c => rfl) (fun c n _ => rfl)
  · exact OnlyThread.refl s

theorem State.settled_me (s : State) : s.settled.me = s.me := by
  have hcur : s.settled.cur = s.cur := (State.settled_only s).cur
  unfold State.me
  rw [hcur]
  unfold State.settled
  cases hc : s.cur with
  | dray d n => rfl
  | coach q p =>
    split
    · rename_i q' h
      injection h with h1 h2
      subst h1 h2
      simp only [State.strand?]
      rw [State.coach?_updCoach, if_pos rfl]
      · cases s.coach? q <;> rfl
      · exact fun c => rfl
    · rfl

/-! ## Completion (R17, R106, R108) -/

theorem State.completeBy_only (s : State) (k : Tok) (f : Strand → Strand) : OnlyThread s (s.completeBy k f) :=
  ((State.updMe_only s f).trans (State.pushToken_only _ k)).trans (State.settled_only _)

theorem State.completeBy_me (s : State) (k : Tok) (f : Strand → Strand) (h : (s.strand? s.cur).isSome = true) :
    (s.completeBy k f).me = f s.me := by
  unfold State.completeBy
  rw [State.settled_me, State.pushToken_me, State.me_updMe s f h]

/-! ## Issue (R44) -/

/-- A word that issues runs its body on the state in which it has taken its token. -/
theorem issueWord_of_issues {cls : WordClass} {i : Instr} {k : Tok} {s : State} (w : IWord) (body : State → Res)
    (h : s.Issues cls i k) :
    issueWord cls w k body s = (body (s.takeToken k)).apply k cls.words s.me.pc s.cur := by
  obtain ⟨h1, h2, h3, h4, h5, h6, h7, -⟩ := h
  have h0 : ¬((s.strand? s.cur).isNone = true ∨ s.me.run ≠ .ready ∨ s.live s.cur = false) := by
    simp [h2, h3, Option.isSome_iff_ne_none.1 h1]
  rw [issueWord, if_neg h0, if_neg (by simp [h4]), if_neg (Nat.not_lt.2 h5), if_neg (by simp [h6]), h7]

theorem issue_of_issues {cls : WordClass} {i : Instr} {k : Tok} {s : State} (body : State → Res)
    (h : s.Issues cls i k) :
    issue cls i k body s = (body (s.takeToken k)).apply k cls.words s.me.pc s.cur := by
  rw [issue, issueWord_of_issues _ _ h]
  simp only [(State.takeToken_only s k).scalarDue i, h.2.2.2.2.2.2.2]

/-- The thread of a word that issues is there. -/
theorem State.Issues.isSome {cls : WordClass} {i : Instr} {k : Tok} {s : State} (h : s.Issues cls i k) :
    ((s.takeToken k).strand? (s.takeToken k).cur).isSome = true := by
  rw [(State.takeToken_only s k).isSome]; exact h.1

/-! ## WriteS and completion -/

/-- A word that is done in a state whose running thread has had one register written: it completes there. -/
theorem acts_of_done {i : Instr} {k : Tok} {s u : State} {d : BitVec 4} {v : Word} {p : Bool} {n : Nat}
    {pc : Word} {th : ThreadId} (he : exec i s = (Res.done u).apply k n pc th) (hn : n = 1)
    (hu : (u.strand? u.cur).isSome = true) (hme : u.me = (s.takeToken k).me.setReg d v p) : Acts i s u d v p := by
  have hc : (u.completeBy k (Strand.advance 1)).me = Strand.advance 1 ((s.takeToken k).me.setReg d v p) := by
    rw [State.completeBy_me _ k _ hu, hme]
  refine ⟨_, by rw [he, hn]; rfl, ⟨fun r => ?_, fun r => ?_⟩, ?_, State.completeBy_only _ k _⟩
  · rw [State.reg, hc, ← State.takeToken_reg s k r]
    exact Strand.reg_setReg (s.takeToken k).me d r v p
  · rw [State.pois, hc, ← State.takeToken_pois s k r]
    exact Strand.pois_setReg (s.takeToken k).me d r v p
  · unfold Moved Leaves
    rw [hc, State.takeToken_me]
    unfold Strand.setReg
    split <;> rfl

/-- A word that is done in a state whose running thread differs only in registers it did not write. -/
theorem does_of_done {i : Instr} {k : Tok} {s u : State} {n : Nat} {pc : Word} {th : ThreadId}
    (he : exec i s = (Res.done u).apply k n pc th) (hn : n = 1) (hu : (u.strand? u.cur).isSome = true)
    (hme : u.me = (s.takeToken k).me) : Does i s u := by
  have hc : (u.completeBy k (Strand.advance 1)).me = Strand.advance 1 (s.takeToken k).me := by
    rw [State.completeBy_me _ k _ hu, hme]
  refine ⟨_, by rw [he, hn]; rfl, ⟨fun r => ?_, fun r => ?_⟩, ?_, State.completeBy_only _ k _⟩
  · rw [State.reg, hc, ← State.takeToken_reg s k r]; rfl
  · rw [State.pois, hc, ← State.takeToken_pois s k r]; rfl
  · unfold Moved Leaves
    rw [hc, State.takeToken_me]
    rfl

/-- A word whose outcome is a write of one register: it completes, and only that register, the program counter, the
loop stack and tokens differ. -/
theorem computes_of_writeS {cls : WordClass} {i : Instr} {k : Tok} {s : State} {d : BitVec 4} {v : Word} {p : Bool}
    (h : s.Issues cls i k) (hw : cls.words = 1)
    (he : exec i s = (writeS d v p (s.takeToken k)).apply k cls.words s.me.pc s.cur) : Computes i s d v p := by
  have hset := (State.updMe_only (s.takeToken k) (fun st => st.setReg d v p)).isSome.trans h.isSome
  obtain ⟨t, h1, h2, h3, h4⟩ := acts_of_done (u := (s.takeToken k).setReg d v p) he hw hset
    (State.me_updMe _ _ h.isSome)
  exact ⟨t, h1, h2, h3, ((State.takeToken_only s k).trans (State.updMe_only _ _)).trans h4⟩

end Sys2Proof.Machine
end

