-- ==== Sys2Proof/Laws/PerInstr.lean ====
section
/-! SUPPORT. PerInstr: laws of the instructions as syntax, one lemma per constructor. Length: a row that no
word fetches has no encoding, and the encoding of any other is its word and the trailing words of R15. -/

namespace Sys2Proof.Laws.Length

/-- The words that follow an instruction's word and belong to it (R15). -/
def trailing (i : Instr) : Nat :=
  match i with
  | .mkat _ _ _ _ _ => 2
  | .cpyc _ _ _ _ _ _ => 1
  | _ => 0

def Statement (i : Instr) : Prop := encode i = [] ∨ (encode i).length = trailing i + 1

theorem vadd (k : Tok) (d : BitVec 6) (a : BitVec 6) (b : BitVec 6) (y : BitVec 3) : Statement (.vadd k d a b y) := .inr rfl
theorem vsub (k : Tok) (d : BitVec 6) (a : BitVec 6) (b : BitVec 6) (y : BitVec 3) : Statement (.vsub k d a b y) := .inr rfl
theorem vmul (k : Tok) (d : BitVec 6) (a : BitVec 6) (b : BitVec 6) (y : BitVec 3) : Statement (.vmul k d a b y) := .inr rfl
theorem vfma (k : Tok) (d : BitVec 6) (a : BitVec 6) (b : BitVec 6) (y : BitVec 3) : Statement (.vfma k d a b y) := .inr rfl
theorem vfms (k : Tok) (d : BitVec 6) (a : BitVec 6) (b : BitVec 6) (y : BitVec 3) : Statement (.vfms k d a b y) := .inr rfl
theorem vmin (k : Tok) (d : BitVec 6) (a : BitVec 6) (b : BitVec 6) (y : BitVec 3) : Statement (.vmin k d a b y) := .inr rfl
theorem vmax (k : Tok) (d : BitVec 6) (a : BitVec 6) (b : BitVec 6) (y : BitVec 3) : Statement (.vmax k d a b y) := .inr rfl
theorem vabs (k : Tok) (d : BitVec 6) (a : BitVec 6) (y : BitVec 3) : Statement (.vabs k d a y) := .inr rfl
theorem vneg (k : Tok) (d : BitVec 6) (a : BitVec 6) (y : BitVec 3) : Statement (.vneg k d a y) := .inr rfl
theorem vand (k : Tok) (d : BitVec 6) (a : BitVec 6) (b : BitVec 6) (y : BitVec 3) : Statement (.vand k d a b y) := .inr rfl
theorem vor (k : Tok) (d : BitVec 6) (a : BitVec 6) (b : BitVec 6) (y : BitVec 3) : Statement (.vor k d a b y) := .inr rfl
theorem vxor (k : Tok) (d : BitVec 6) (a : BitVec 6) (b : BitVec 6) (y : BitVec 3) : Statement (.vxor k d a b y) := .inr rfl
theorem vshl (k : Tok) (d : BitVec 6) (a : BitVec 6) (i : BitVec 6) (y : BitVec 3) : Statement (.vshl k d a i y) := .inr rfl
theorem vshr (k : Tok) (d : BitVec 6) (a : BitVec 6) (i : BitVec 6) (y : BitVec 3) : Statement (.vshr k d a i y) := .inr rfl
theorem vsra (k : Tok) (d : BitVec 6) (a : BitVec 6) (i : BitVec 6) (y : BitVec 3) : Statement (.vsra k d a i y) := .inr rfl
theorem vcmp (k : Tok) (a : BitVec 6) (b : BitVec 6) (c : BitVec 3) (m : BitVec 3) (y : BitVec 3) : Statement (.vcmp k a b c m y) := .inr rfl
theorem vsel (k : Tok) (d : BitVec 6) (a : BitVec 6) (b : BitVec 6) (y : BitVec 3) : Statement (.vsel k d a b y) := .inr rfl
theorem vmov (k : Tok) (d : BitVec 6) (a : BitVec 6) (y : BitVec 3) : Statement (.vmov k d a y) := .inr rfl
theorem vbcs (k : Tok) (d : BitVec 6) (sr : BitVec 4) (y : BitVec 3) : Statement (.vbcs k d sr y) := .inr rfl
theorem vmovs (k : Tok) (a : BitVec 6) (sr : BitVec 4) (y : BitVec 3) : Statement (.vmovs k a sr y) := .inr rfl
theorem vins (k : Tok) (d : BitVec 6) (sr : BitVec 4) (y : BitVec 3) : Statement (.vins k d sr y) := .inr rfl
theorem vexp2 (k : Tok) (d : BitVec 6) (a : BitVec 6) : Statement (.vexp2 k d a) := .inr rfl
theorem vlog2 (k : Tok) (d : BitVec 6) (a : BitVec 6) : Statement (.vlog2 k d a) := .inr rfl
theorem vrcp (k : Tok) (d : BitVec 6) (a : BitVec 6) : Statement (.vrcp k d a) := .inr rfl
theorem vrsq (k : Tok) (d : BitVec 6) (a : BitVec 6) : Statement (.vrsq k d a) := .inr rfl
theorem vcvt (k : Tok) (d : BitVec 6) (a : BitVec 6) (r : BitVec 3) (f : BitVec 2) (c : BitVec 4) : Statement (.vcvt k d a r f c) := .inr rfl
theorem vpack (k : Tok) (d : BitVec 6) (a : BitVec 6) (b : BitVec 6) (y : BitVec 3) : Statement (.vpack k d a b y) := .inr rfl
theorem vunpk (k : Tok) (d : BitVec 6) (a : BitVec 6) (b : BitVec 6) (y : BitVec 3) : Statement (.vunpk k d a b y) := .inr rfl
theorem vreds (k : Tok) (d : BitVec 6) (a : BitVec 6) (y : BitVec 3) : Statement (.vreds k d a y) := .inr rfl
theorem vredm (k : Tok) (d : BitVec 6) (a : BitVec 6) (i : BitVec 6) (y : BitVec 3) : Statement (.vredm k d a i y) := .inr rfl
theorem vscan (k : Tok) (d : BitVec 6) (a : BitVec 6) (i : BitVec 6) (y : BitVec 3) : Statement (.vscan k d a i y) := .inr rfl
theorem vperm (k : Tok) (d : BitVec 6) (a : BitVec 6) (b : BitVec 6) (y : BitVec 3) : Statement (.vperm k d a b y) := .inr rfl
theorem vrot (k : Tok) (d : BitVec 6) (a : BitVec 6) (i : BitVec 6) (y : BitVec 3) : Statement (.vrot k d a i y) := .inr rfl
theorem vld (k : Tok) (tr : BitVec 6) (e : BitVec 6) (sr : BitVec 4) (y : BitVec 3) : Statement (.vld k tr e sr y) := .inr rfl
theorem vst (k : Tok) (tr : BitVec 6) (e : BitVec 6) (sr : BitVec 4) (y : BitVec 3) : Statement (.vst k tr e sr y) := .inr rfl
theorem vatomAdd (k : Tok) (tr : BitVec 6) (e : BitVec 6) (sr : BitVec 4) (y : BitVec 3) : Statement (.vatomAdd k tr e sr y) := .inr rfl
theorem vatomMin (k : Tok) (tr : BitVec 6) (e : BitVec 6) (sr : BitVec 4) (y : BitVec 3) : Statement (.vatomMin k tr e sr y) := .inr rfl
theorem vatomMax (k : Tok) (tr : BitVec 6) (e : BitVec 6) (sr : BitVec 4) (y : BitVec 3) : Statement (.vatomMax k tr e sr y) := .inr rfl
theorem vatomSwp (k : Tok) (tr : BitVec 6) (e : BitVec 6) (sr : BitVec 4) (y : BitVec 3) : Statement (.vatomSwp k tr e sr y) := .inr rfl
theorem vdefer (k : Tok) (tr : BitVec 6) (e : BitVec 6) (sr : BitVec 4) (y : BitVec 3) : Statement (.vdefer k tr e sr y) := .inr rfl
theorem vdrain (k : Tok) : Statement (.vdrain k) := .inr rfl
theorem setm (k : Tok) (m : BitVec 3) : Statement (.setm k m) := .inr rfl
theorem mand (k : Tok) (d : BitVec 3) (a : BitVec 3) (b : BitVec 3) : Statement (.mand k d a b) := .inr rfl
theorem mor (k : Tok) (d : BitVec 3) (a : BitVec 3) (b : BitVec 3) : Statement (.mor k d a b) := .inr rfl
theorem mxor (k : Tok) (d : BitVec 3) (a : BitVec 3) (b : BitVec 3) : Statement (.mxor k d a b) := .inr rfl
theorem mnot (k : Tok) (d : BitVec 3) (a : BitVec 3) : Statement (.mnot k d a) := .inr rfl
theorem mpopc (k : Tok) (sr : BitVec 4) (m : BitVec 3) : Statement (.mpopc k sr m) := .inr rfl
theorem viota (k : Tok) (d : BitVec 6) (y : BitVec 3) : Statement (.viota k d y) := .inr rfl
theorem vclr (k : Tok) (d : BitVec 4) : Statement (.vclr k d) := .inr rfl
theorem mwld (k : Tok) (a : BitVec 6) (f : BitVec 3) : Statement (.mwld k a f) := .inr rfl
theorem mma (k : Tok) (a : BitVec 6) (b : BitVec 6) (c : BitVec 6) (f : BitVec 3) : Statement (.mma k a b c f) := .inr rfl
theorem mmas (k : Tok) (a : BitVec 6) (b : BitVec 6) (c : BitVec 6) (f : BitVec 3) : Statement (.mmas k a b c f) := .inr rfl
theorem mgath (k : Tok) (a : BitVec 6) (b : BitVec 6) : Statement (.mgath k a b) := .inr rfl
theorem mzero (k : Tok) (c : BitVec 6) : Statement (.mzero k c) := .inr rfl
theorem mkat (k : Tok) (seed : BitVec 18) (f : BitVec 3) (low : BitVec 32) (high : BitVec 32) : Statement (.mkat k seed f low high) := .inr rfl
theorem mstatOccupancy (k : Tok) (d : BitVec 4) : Statement (.mstatOccupancy k d) := .inr rfl
theorem mstatSticky (k : Tok) (d : BitVec 4) : Statement (.mstatSticky k d) := .inr rfl
theorem mstatRetired (k : Tok) (d : BitVec 4) : Statement (.mstatRetired k d) := .inr rfl
theorem mwait (k : Tok) (n : BitVec 4) : Statement (.mwait k n) := .inr rfl
theorem cpy (k : Tok) (d : BitVec 6) (sr : BitVec 6) (c : BitVec 4) (l : BitVec 4) : Statement (.cpy k d sr c l) := .inr rfl
theorem cpyc (k : Tok) (d : BitVec 6) (sr : BitVec 6) (c : BitVec 4) (l : BitVec 4) (fo : FollowOn) : Statement (.cpyc k d sr c l fo) := .inr rfl
theorem cpyg (k : Tok) (d : BitVec 6) (sr : BitVec 6) (c : BitVec 4) (l : BitVec 4) : Statement (.cpyg k d sr c l) := .inr rfl
theorem cpys (k : Tok) (d : BitVec 6) (sr : BitVec 6) (c : BitVec 4) (l : BitVec 4) : Statement (.cpys k d sr c l) := .inr rfl
theorem cpyr (k : Tok) (d : BitVec 6) (sr : BitVec 6) (c : BitVec 4) (l : BitVec 4) : Statement (.cpyr k d sr c l) := .inr rfl
theorem cpyh (k : Tok) (d : BitVec 6) (sr : BitVec 6) (c : BitVec 4) (l : BitVec 4) (v : BitVec 1) : Statement (.cpyh k d sr c l v) := .inr rfl
theorem cfill (k : Tok) (d : BitVec 6) (c : BitVec 4) (l : BitVec 4) (v : BitVec 1) : Statement (.cfill k d c l v) := .inr rfl
theorem cpfx (k : Tok) (sr : BitVec 6) (c : BitVec 4) (l : BitVec 4) : Statement (.cpfx k sr c l) := .inr rfl
theorem cwb (k : Tok) (sr : BitVec 6) (c : BitVec 4) : Statement (.cwb k sr c) := .inr rfl
theorem cwait (k : Tok) (n : BitVec 5) : Statement (.cwait k n) := .inr rfl
theorem hfin (k : Tok) (d : BitVec 6) : Statement (.hfin k d) := .inr rfl
theorem cqbindSend (k : Tok) (q : BitVec 3) (e : BitVec 6) (sr : BitVec 4) : Statement (.cqbindSend k q e sr) := .inr rfl
theorem cqbindRecv (k : Tok) (q : BitVec 3) (e : BitVec 6) (sr : BitVec 4) : Statement (.cqbindRecv k q e sr) := .inr rfl
theorem cqunbDrain (k : Tok) (q : BitVec 3) : Statement (.cqunbDrain k q) := .inr rfl
theorem cqunbDiscard (k : Tok) (q : BitVec 3) : Statement (.cqunbDiscard k q) := .inr rfl
theorem cqsend (k : Tok) (q : BitVec 3) (e : BitVec 6) (sr : BitVec 4) : Statement (.cqsend k q e sr) := .inr rfl
theorem cqrecv (k : Tok) (q : BitVec 3) (e : BitVec 6) (sr : BitVec 4) : Statement (.cqrecv k q e sr) := .inr rfl
theorem cqstatStatus (k : Tok) (q : BitVec 3) (sr : BitVec 4) : Statement (.cqstatStatus k q sr) := .inr rfl
theorem cqstatRows (k : Tok) (q : BitVec 3) (sr : BitVec 4) : Statement (.cqstatRows k q sr) := .inr rfl
theorem cqstatCredits (k : Tok) (q : BitVec 3) (sr : BitVec 4) : Statement (.cqstatCredits k q sr) := .inr rfl
theorem aadd (k : Tok) (d : BitVec 4) (b : BitVec 4) (v : BitVec 4) (c : BitVec 4) (m : BitVec 2) (e : BitVec 3) : Statement (.aadd k d b v c m e) := .inr rfl
theorem aand (k : Tok) (d : BitVec 4) (b : BitVec 4) (v : BitVec 4) (c : BitVec 4) (m : BitVec 2) (e : BitVec 3) : Statement (.aand k d b v c m e) := .inr rfl
theorem aor (k : Tok) (d : BitVec 4) (b : BitVec 4) (v : BitVec 4) (c : BitVec 4) (m : BitVec 2) (e : BitVec 3) : Statement (.aor k d b v c m e) := .inr rfl
theorem axor (k : Tok) (d : BitVec 4) (b : BitVec 4) (v : BitVec 4) (c : BitVec 4) (m : BitVec 2) (e : BitVec 3) : Statement (.axor k d b v c m e) := .inr rfl
theorem aswp (k : Tok) (d : BitVec 4) (b : BitVec 4) (v : BitVec 4) (c : BitVec 4) (m : BitVec 2) (e : BitVec 3) : Statement (.aswp k d b v c m e) := .inr rfl
theorem acas (k : Tok) (d : BitVec 4) (b : BitVec 4) (v : BitVec 4) (c : BitVec 4) (m : BitVec 2) (e : BitVec 3) : Statement (.acas k d b v c m e) := .inr rfl
theorem amin (k : Tok) (d : BitVec 4) (b : BitVec 4) (v : BitVec 4) (c : BitVec 4) (m : BitVec 2) (e : BitVec 3) : Statement (.amin k d b v c m e) := .inr rfl
theorem amax (k : Tok) (d : BitVec 4) (b : BitVec 4) (v : BitVec 4) (c : BitVec 4) (m : BitVec 2) (e : BitVec 3) : Statement (.amax k d b v c m e) := .inr rfl
theorem aminu (k : Tok) (d : BitVec 4) (b : BitVec 4) (v : BitVec 4) (c : BitVec 4) (m : BitVec 2) (e : BitVec 3) : Statement (.aminu k d b v c m e) := .inr rfl
theorem amaxu (k : Tok) (d : BitVec 4) (b : BitVec 4) (v : BitVec 4) (c : BitVec 4) (m : BitVec 2) (e : BitVec 3) : Statement (.amaxu k d b v c m e) := .inr rfl
theorem aaddW (k : Tok) (d : BitVec 4) (b : BitVec 4) (v : BitVec 4) (c : BitVec 4) (m : BitVec 2) (e : BitVec 3) : Statement (.aaddW k d b v c m e) := .inr rfl
theorem aswpW (k : Tok) (d : BitVec 4) (b : BitVec 4) (v : BitVec 4) (c : BitVec 4) (m : BitVec 2) (e : BitVec 3) : Statement (.aswpW k d b v c m e) := .inr rfl
theorem acasW (k : Tok) (d : BitVec 4) (b : BitVec 4) (v : BitVec 4) (c : BitVec 4) (m : BitVec 2) (e : BitVec 3) : Statement (.acasW k d b v c m e) := .inr rfl
theorem fork (k : Tok) (d : BitVec 4) (a : BitVec 4) (o : BitVec 13) : Statement (.fork k d a o) := .inr rfl
theorem join (k : Tok) (a : BitVec 4) : Statement (.join k a) := .inr rfl
theorem syield (k : Tok) : Statement (.syield k) := .inr rfl
theorem sexit (k : Tok) : Statement (.sexit k) := .inr rfl
theorem bsel (k : Tok) (d : BitVec 4) (a : BitVec 4) (b : BitVec 4) : Statement (.bsel k d a b) := .inr rfl
theorem launch (k : Tok) (a : BitVec 4) (b : BitVec 4) : Statement (.launch k a b) := .inr rfl
theorem launchImm (k : Tok) (a : BitVec 4) (b : BitVec 4) : Statement (.launchImm k a b) := .inr rfl
theorem qnotify (k : Tok) (a : BitVec 4) : Statement (.qnotify k a) := .inr rfl
theorem txstat (k : Tok) (d : BitVec 4) : Statement (.txstat k d) := .inr rfl
theorem txabort (k : Tok) (c : BitVec 13) : Statement (.txabort k c) := .inr rfl
theorem txclaim (k : Tok) (a : BitVec 4) (b : BitVec 4) : Statement (.txclaim k a b) := .inr rfl
theorem gateRead (k : Tok) (d : BitVec 4) (a : BitVec 4) : Statement (.gateRead k d a) := .inr rfl
theorem gateAdd (k : Tok) (d : BitVec 4) (a : BitVec 4) (b : BitVec 4) : Statement (.gateAdd k d a b) := .inr rfl
theorem gateWaitge (k : Tok) (d : BitVec 4) (a : BitVec 4) (b : BitVec 4) : Statement (.gateWaitge k d a b) := .inr rfl
theorem eret (k : Tok) (d : BitVec 4) (a : BitVec 4) : Statement (.eret k d a) := .inr rfl
theorem fres (k : Tok) (d : BitVec 4) (a : BitVec 4) : Statement (.fres k d a) := .inr rfl
theorem fkill (k : Tok) (d : BitVec 4) (a : BitVec 4) : Statement (.fkill k d a) := .inr rfl
theorem freeze (k : Tok) (d : BitVec 4) (a : BitVec 4) : Statement (.freeze k d a) := .inr rfl
theorem thaw (k : Tok) (d : BitVec 4) (a : BitVec 4) : Statement (.thaw k d a) := .inr rfl
theorem pre (k : Tok) (d : BitVec 4) (a : BitVec 4) (b : BitVec 4) : Statement (.pre k d a b) := .inr rfl
theorem preResume (k : Tok) (d : BitVec 4) (a : BitVec 4) (b : BitVec 4) : Statement (.preResume k d a b) := .inr rfl
theorem preTask (k : Tok) (d : BitVec 4) (a : BitVec 4) (b : BitVec 4) : Statement (.preTask k d a b) := .inr rfl
theorem preInsn (k : Tok) (d : BitVec 4) (a : BitVec 4) (b : BitVec 4) : Statement (.preInsn k d a b) := .inr rfl
theorem preKill (k : Tok) (d : BitVec 4) (a : BitVec 4) (b : BitVec 4) : Statement (.preKill k d a b) := .inr rfl
theorem moult (k : Tok) (d : BitVec 4) (a : BitVec 4) (b : BitVec 4) : Statement (.moult k d a b) := .inr rfl
theorem unmoult (k : Tok) (d : BitVec 4) (a : BitVec 4) (b : BitVec 4) : Statement (.unmoult k d a b) := .inr rfl
theorem qmap (k : Tok) (d : BitVec 4) (a : BitVec 4) (b : BitVec 4) : Statement (.qmap k d a b) := .inr rfl
theorem qunmap (k : Tok) (d : BitVec 4) (a : BitVec 4) : Statement (.qunmap k d a) := .inr rfl
theorem semmap (k : Tok) (d : BitVec 4) (a : BitVec 4) (b : BitVec 4) : Statement (.semmap k d a b) := .inr rfl
theorem barmap (k : Tok) (d : BitVec 4) (a : BitVec 4) (b : BitVec 4) : Statement (.barmap k d a b) := .inr rfl
theorem idmap (k : Tok) (a : BitVec 4) (b : BitVec 4) : Statement (.idmap k a b) := .inr rfl
theorem timeofs (k : Tok) (d : BitVec 4) (a : BitVec 4) (b : BitVec 4) : Statement (.timeofs k d a b) := .inr rfl
theorem s1inv (k : Tok) : Statement (.s1inv k) := .inr rfl
theorem s1invPage (k : Tok) (a : BitVec 4) (b : BitVec 4) : Statement (.s1invPage k a b) := .inr rfl
theorem s1invSlice (k : Tok) (b : BitVec 4) : Statement (.s1invSlice k b) := .inr rfl
theorem s2inv (k : Tok) : Statement (.s2inv k) := .inr rfl
theorem s2invPage (k : Tok) (a : BitVec 4) (b : BitVec 4) : Statement (.s2invPage k a b) := .inr rfl
theorem s2invDomain (k : Tok) (b : BitVec 4) : Statement (.s2invDomain k b) := .inr rfl
theorem winset (k : Tok) (a : BitVec 4) (b : BitVec 4) : Statement (.winset k a b) := .inr rfl
theorem rights (k : Tok) (d : BitVec 4) (a : BitVec 4) (b : BitVec 4) : Statement (.rights k d a b) := .inr rfl
theorem rightsRevoke (k : Tok) (d : BitVec 4) (a : BitVec 4) (b : BitVec 4) : Statement (.rightsRevoke k d a b) := .inr rfl
theorem rightsRead (k : Tok) (d : BitVec 4) (a : BitVec 4) : Statement (.rightsRead k d a) := .inr rfl
theorem fmask (k : Tok) (d : BitVec 4) (a : BitVec 4) (b : BitVec 4) : Statement (.fmask k d a b) := .inr rfl
theorem slotw (k : Tok) (d : BitVec 4) (a : BitVec 4) (b : BitVec 4) : Statement (.slotw k d a b) := .inr rfl
theorem wset (k : Tok) (d : BitVec 4) (a : BitVec 4) (b : BitVec 4) : Statement (.wset k d a b) := .inr rfl
theorem wsetShard (k : Tok) (d : BitVec 4) (a : BitVec 4) (b : BitVec 4) : Statement (.wsetShard k d a b) := .inr rfl
theorem wsetVerify (k : Tok) (d : BitVec 4) (a : BitVec 4) : Statement (.wsetVerify k d a) := .inr rfl
theorem wsetFree (k : Tok) (d : BitVec 4) (a : BitVec 4) : Statement (.wsetFree k d a) := .inr rfl
theorem wswap (k : Tok) (d : BitVec 4) (a : BitVec 4) : Statement (.wswap k d a) := .inr rfl
theorem enset (k : Tok) (d : BitVec 4) (a : BitVec 4) (b : BitVec 4) : Statement (.enset k d a b) := .inr rfl
theorem walksave (k : Tok) (d : BitVec 4) (a : BitVec 4) (b : BitVec 4) : Statement (.walksave k d a b) := .inr rfl
theorem walkload (k : Tok) (d : BitVec 4) (a : BitVec 4) (b : BitVec 4) : Statement (.walkload k d a b) := .inr rfl
theorem katset (k : Tok) (d : BitVec 4) (a : BitVec 4) (b : BitVec 4) : Statement (.katset k d a b) := .inr rfl
theorem csrx (k : Tok) (d : BitVec 4) (a : BitVec 4) (b : BitVec 4) (n : BitVec 7) : Statement (.csrx k d a b n) := .inr rfl
theorem csrxW (k : Tok) (d : BitVec 4) (a : BitVec 4) (b : BitVec 4) (n : BitVec 7) : Statement (.csrxW k d a b n) := .inr rfl
theorem csrxS (k : Tok) (d : BitVec 4) (a : BitVec 4) (b : BitVec 4) (n : BitVec 7) : Statement (.csrxS k d a b n) := .inr rfl
theorem csrxC (k : Tok) (d : BitVec 4) (a : BitVec 4) (b : BitVec 4) (n : BitVec 7) : Statement (.csrxC k d a b n) := .inr rfl
theorem nop (k : Tok) : Statement (.nop k) := .inr rfl
theorem add (k : Tok) (d : BitVec 4) (a : BitVec 4) (b : BitVec 4) : Statement (.add k d a b) := .inr rfl
theorem sub (k : Tok) (d : BitVec 4) (a : BitVec 4) (b : BitVec 4) : Statement (.sub k d a b) := .inr rfl
theorem andd (k : Tok) (d : BitVec 4) (a : BitVec 4) (b : BitVec 4) : Statement (.andd k d a b) := .inr rfl
theorem orr (k : Tok) (d : BitVec 4) (a : BitVec 4) (b : BitVec 4) : Statement (.orr k d a b) := .inr rfl
theorem xorr (k : Tok) (d : BitVec 4) (a : BitVec 4) (b : BitVec 4) : Statement (.xorr k d a b) := .inr rfl
theorem shl (k : Tok) (d : BitVec 4) (a : BitVec 4) (b : BitVec 4) : Statement (.shl k d a b) := .inr rfl
theorem shr (k : Tok) (d : BitVec 4) (a : BitVec 4) (b : BitVec 4) : Statement (.shr k d a b) := .inr rfl
theorem sra (k : Tok) (d : BitVec 4) (a : BitVec 4) (b : BitVec 4) : Statement (.sra k d a b) := .inr rfl
theorem slt (k : Tok) (d : BitVec 4) (a : BitVec 4) (b : BitVec 4) : Statement (.slt k d a b) := .inr rfl
theorem sltu (k : Tok) (d : BitVec 4) (a : BitVec 4) (b : BitVec 4) : Statement (.sltu k d a b) := .inr rfl
theorem min (k : Tok) (d : BitVec 4) (a : BitVec 4) (b : BitVec 4) : Statement (.min k d a b) := .inr rfl
theorem max (k : Tok) (d : BitVec 4) (a : BitVec 4) (b : BitVec 4) : Statement (.max k d a b) := .inr rfl
theorem minu (k : Tok) (d : BitVec 4) (a : BitVec 4) (b : BitVec 4) : Statement (.minu k d a b) := .inr rfl
theorem maxu (k : Tok) (d : BitVec 4) (a : BitVec 4) (b : BitVec 4) : Statement (.maxu k d a b) := .inr rfl
theorem andn (k : Tok) (d : BitVec 4) (a : BitVec 4) (b : BitVec 4) : Statement (.andn k d a b) := .inr rfl
theorem lea0 (k : Tok) (d : BitVec 4) (a : BitVec 4) (b : BitVec 4) : Statement (.lea0 k d a b) := .inr rfl
theorem lea1 (k : Tok) (d : BitVec 4) (a : BitVec 4) (b : BitVec 4) : Statement (.lea1 k d a b) := .inr rfl
theorem lea2 (k : Tok) (d : BitVec 4) (a : BitVec 4) (b : BitVec 4) : Statement (.lea2 k d a b) := .inr rfl
theorem lea3 (k : Tok) (d : BitVec 4) (a : BitVec 4) (b : BitVec 4) : Statement (.lea3 k d a b) := .inr rfl
theorem mul (k : Tok) (d : BitVec 4) (a : BitVec 4) (b : BitVec 4) : Statement (.mul k d a b) := .inr rfl
theorem mulh (k : Tok) (d : BitVec 4) (a : BitVec 4) (b : BitVec 4) : Statement (.mulh k d a b) := .inr rfl
theorem mulhu (k : Tok) (d : BitVec 4) (a : BitVec 4) (b : BitVec 4) : Statement (.mulhu k d a b) := .inr rfl
theorem div (k : Tok) (d : BitVec 4) (a : BitVec 4) (b : BitVec 4) : Statement (.div k d a b) := .inr rfl
theorem divu (k : Tok) (d : BitVec 4) (a : BitVec 4) (b : BitVec 4) : Statement (.divu k d a b) := .inr rfl
theorem rem (k : Tok) (d : BitVec 4) (a : BitVec 4) (b : BitVec 4) : Statement (.rem k d a b) := .inr rfl
theorem remu (k : Tok) (d : BitVec 4) (a : BitVec 4) (b : BitVec 4) : Statement (.remu k d a b) := .inr rfl
theorem clz (k : Tok) (d : BitVec 4) (a : BitVec 4) : Statement (.clz k d a) := .inr rfl
theorem ctz (k : Tok) (d : BitVec 4) (a : BitVec 4) : Statement (.ctz k d a) := .inr rfl
theorem popc (k : Tok) (d : BitVec 4) (a : BitVec 4) : Statement (.popc k d a) := .inr rfl
theorem sext8 (k : Tok) (d : BitVec 4) (a : BitVec 4) : Statement (.sext8 k d a) := .inr rfl
theorem sext16 (k : Tok) (d : BitVec 4) (a : BitVec 4) : Statement (.sext16 k d a) := .inr rfl
theorem sext32 (k : Tok) (d : BitVec 4) (a : BitVec 4) : Statement (.sext32 k d a) := .inr rfl
theorem zext8 (k : Tok) (d : BitVec 4) (a : BitVec 4) : Statement (.zext8 k d a) := .inr rfl
theorem zext16 (k : Tok) (d : BitVec 4) (a : BitVec 4) : Statement (.zext16 k d a) := .inr rfl
theorem zext32 (k : Tok) (d : BitVec 4) (a : BitVec 4) : Statement (.zext32 k d a) := .inr rfl
theorem brev (k : Tok) (d : BitVec 4) (a : BitVec 4) : Statement (.brev k d a) := .inr rfl
theorem addi (k : Tok) (d : BitVec 4) (a : BitVec 4) (i : BitVec 13) : Statement (.addi k d a i) := .inr rfl
theorem andi (k : Tok) (d : BitVec 4) (a : BitVec 4) (i : BitVec 13) : Statement (.andi k d a i) := .inr rfl
theorem ori (k : Tok) (d : BitVec 4) (a : BitVec 4) (i : BitVec 13) : Statement (.ori k d a i) := .inr rfl
theorem xori (k : Tok) (d : BitVec 4) (a : BitVec 4) (i : BitVec 13) : Statement (.xori k d a i) := .inr rfl
theorem slti (k : Tok) (d : BitVec 4) (a : BitVec 4) (i : BitVec 13) : Statement (.slti k d a i) := .inr rfl
theorem sltiu (k : Tok) (d : BitVec 4) (a : BitVec 4) (i : BitVec 13) : Statement (.sltiu k d a i) := .inr rfl
theorem shli (k : Tok) (d : BitVec 4) (a : BitVec 4) (sr : BitVec 6) : Statement (.shli k d a sr) := .inr rfl
theorem shri (k : Tok) (d : BitVec 4) (a : BitVec 4) (sr : BitVec 6) : Statement (.shri k d a sr) := .inr rfl
theorem srai (k : Tok) (d : BitVec 4) (a : BitVec 4) (sr : BitVec 6) : Statement (.srai k d a sr) := .inr rfl
theorem muli (k : Tok) (d : BitVec 4) (a : BitVec 4) (i : BitVec 13) : Statement (.muli k d a i) := .inr rfl
theorem li (k : Tok) (d : BitVec 4) (i : BitVec 17) : Statement (.li k d i) := .inr rfl
theorem likH1 (k : Tok) (d : BitVec 4) (i : BitVec 16) : Statement (.likH1 k d i) := .inr rfl
theorem likH2 (k : Tok) (d : BitVec 4) (i : BitVec 16) : Statement (.likH2 k d i) := .inr rfl
theorem likH3 (k : Tok) (d : BitVec 4) (i : BitVec 16) : Statement (.likH3 k d i) := .inr rfl
theorem bEq (k : Tok) (a : BitVec 4) (b : BitVec 4) (o : BitVec 13) : Statement (.bEq k a b o) := .inr rfl
theorem bNe (k : Tok) (a : BitVec 4) (b : BitVec 4) (o : BitVec 13) : Statement (.bNe k a b o) := .inr rfl
theorem bLt (k : Tok) (a : BitVec 4) (b : BitVec 4) (o : BitVec 13) : Statement (.bLt k a b o) := .inr rfl
theorem bGe (k : Tok) (a : BitVec 4) (b : BitVec 4) (o : BitVec 13) : Statement (.bGe k a b o) := .inr rfl
theorem bLtu (k : Tok) (a : BitVec 4) (b : BitVec 4) (o : BitVec 13) : Statement (.bLtu k a b o) := .inr rfl
theorem bGeu (k : Tok) (a : BitVec 4) (b : BitVec 4) (o : BitVec 13) : Statement (.bGeu k a b o) := .inr rfl
theorem j (k : Tok) (o : BitVec 21) : Statement (.j k o) := .inr rfl
theorem jal (k : Tok) (o : BitVec 21) : Statement (.jal k o) := .inr rfl
theorem jr (k : Tok) (d : BitVec 4) (a : BitVec 4) (o : BitVec 13) : Statement (.jr k d a o) := .inr rfl
theorem loop (k : Tok) (a : BitVec 4) (o : BitVec 13) : Statement (.loop k a o) := .inr rfl
theorem loopi (k : Tok) (c : BitVec 11) (l : BitVec 10) : Statement (.loopi k c l) := .inr rfl
theorem endTask (k : Tok) : Statement (.endTask k) := .inr rfl
theorem semP (k : Tok) (a : BitVec 4) (i : BitVec 5) : Statement (.semP k a i) := .inr rfl
theorem semV (k : Tok) (a : BitVec 4) (i : BitVec 5) : Statement (.semV k a i) := .inr rfl
theorem semTryp (k : Tok) (d : BitVec 4) (a : BitVec 4) (i : BitVec 5) : Statement (.semTryp k d a i) := .inr rfl
theorem semRead (k : Tok) (d : BitVec 4) (a : BitVec 4) (i : BitVec 5) : Statement (.semRead k d a i) := .inr rfl
theorem cbarA (k : Tok) (h : BitVec 4) : Statement (.cbarA k h) := .inr rfl
theorem cbarW (k : Tok) (h : BitVec 4) : Statement (.cbarW k h) := .inr rfl
theorem cbarAw (k : Tok) (h : BitVec 4) : Statement (.cbarAw k h) := .inr rfl
theorem ld (k : Tok) (tr : BitVec 4) (b : BitVec 4) (c : BitVec 4) (o : BitVec 7) (sr : BitVec 2) : Statement (.ld k tr b c o sr) := .inr rfl
theorem ldu (k : Tok) (tr : BitVec 4) (b : BitVec 4) (c : BitVec 4) (o : BitVec 7) (sr : BitVec 2) : Statement (.ldu k tr b c o sr) := .inr rfl
theorem st (k : Tok) (tr : BitVec 4) (b : BitVec 4) (c : BitVec 4) (o : BitVec 7) (sr : BitVec 2) : Statement (.st k tr b c o sr) := .inr rfl
theorem lda (k : Tok) (tr : BitVec 4) (b : BitVec 4) (c : BitVec 4) (e : BitVec 3) (o : BitVec 4) (sr : BitVec 2) : Statement (.lda k tr b c e o sr) := .inr rfl
theorem stl (k : Tok) (tr : BitVec 4) (b : BitVec 4) (c : BitVec 4) (e : BitVec 3) (o : BitVec 4) (sr : BitVec 2) : Statement (.stl k tr b c e o sr) := .inr rfl
theorem ldsp (k : Tok) (tr : BitVec 4) (b : BitVec 4) (kk : BitVec 2) (o : BitVec 9) (sr : BitVec 2) : Statement (.ldsp k tr b kk o sr) := .inr rfl
theorem stsp (k : Tok) (tr : BitVec 4) (b : BitVec 4) (kk : BitVec 2) (o : BitVec 9) (sr : BitVec 2) : Statement (.stsp k tr b kk o sr) := .inr rfl
theorem fenceAcq (k : Tok) (a : BitVec 4) (e : BitVec 3) (h : BitVec 5) : Statement (.fenceAcq k a e h) := .inr rfl
theorem fenceRel (k : Tok) (a : BitVec 4) (e : BitVec 3) (h : BitVec 5) : Statement (.fenceRel k a e h) := .inr rfl
theorem fenceFull (k : Tok) (a : BitVec 4) (e : BitVec 3) (h : BitVec 5) : Statement (.fenceFull k a e h) := .inr rfl
theorem tfence (k : Tok) : Statement (.tfence k) := .inr rfl
theorem csrr (k : Tok) (d : BitVec 4) (n : BitVec 9) : Statement (.csrr k d n) := .inr rfl
theorem csrw (k : Tok) (d : BitVec 4) (a : BitVec 4) (n : BitVec 9) : Statement (.csrw k d a n) := .inr rfl
theorem csrs (k : Tok) (d : BitVec 4) (a : BitVec 4) (n : BitVec 9) : Statement (.csrs k d a n) := .inr rfl
theorem csrc (k : Tok) (d : BitVec 4) (a : BitVec 4) (n : BitVec 9) : Statement (.csrc k d a n) := .inr rfl
theorem qfeat (k : Tok) (d : BitVec 4) (a : BitVec 4) (i : BitVec 13) : Statement (.qfeat k d a i) := .inr rfl
theorem timeNs (k : Tok) (d : BitVec 4) : Statement (.timeNs k d) := .inr rfl
theorem timeClocks (k : Tok) (d : BitVec 4) : Statement (.timeClocks k d) := .inr rfl
theorem timeEnergy (k : Tok) (d : BitVec 4) : Statement (.timeEnergy k d) := .inr rfl
theorem ecall (k : Tok) (c : BitVec 13) : Statement (.ecall k c) := .inr rfl
theorem ebreak (k : Tok) (c : BitVec 13) : Statement (.ebreak k c) := .inr rfl
theorem waite (k : Tok) (a : BitVec 4) (m : BitVec 4) : Statement (.waite k a m) := .inr rfl
theorem dset (k : Tok) (e : BitVec 6) (sr : BitVec 4) : Statement (.dset k e sr) := .inr rfl
theorem dget (k : Tok) (e : BitVec 6) (sr : BitVec 4) : Statement (.dget k e sr) := .inr rfl
theorem dadd (k : Tok) (e : BitVec 6) (sr : BitVec 4) : Statement (.dadd k e sr) := .inr rfl
theorem idCoach (k : Tok) (d : BitVec 4) : Statement (.idCoach k d) := .inr rfl
theorem idCore (k : Tok) (d : BitVec 4) : Statement (.idCore k d) := .inr rfl
theorem idCluster (k : Tok) (d : BitVec 4) : Statement (.idCluster k d) := .inr rfl
theorem idDie (k : Tok) (d : BitVec 4) : Statement (.idDie k d) := .inr rfl
theorem idSlice (k : Tok) (d : BitVec 4) : Statement (.idSlice k d) := .inr rfl
theorem idShape (k : Tok) (d : BitVec 4) : Statement (.idShape k d) := .inr rfl
theorem strandReady (th : ThreadId) : Statement (.strandReady th) := .inl rfl
theorem waiteTimeout (th : ThreadId) : Statement (.waiteTimeout th) := .inl rfl
theorem timerEvent : Statement (.timerEvent) := .inl rfl
theorem tokenTimeout (th : ThreadId) : Statement (.tokenTimeout th) := .inl rfl
theorem barrierTimeout (th : ThreadId) : Statement (.barrierTimeout th) := .inl rfl
theorem walkerPick (die : Nat) : Statement (.walkerPick die) := .inl rfl
theorem loaderPlaneLoad (quad : Nat) (tag : Nat) : Statement (.loaderPlaneLoad quad tag) := .inl rfl
theorem taskStart (quad : Nat) : Statement (.taskStart quad) := .inl rfl
theorem taskDrain (quad : Nat) : Statement (.taskDrain quad) := .inl rfl
theorem shareWindow (die : Nat) : Statement (.shareWindow die) := .inl rfl
theorem notifyEvent (slice : Nat) (queue : Nat) : Statement (.notifyEvent slice queue) := .inl rfl
theorem doorbell (fn : Nat) (queue : Nat) : Statement (.doorbell fn queue) := .inl rfl
theorem slotTake (die : Nat) (slot : Nat) : Statement (.slotTake die slot) := .inl rfl
theorem slotScan (die : Nat) : Statement (.slotScan die) := .inl rfl
theorem launchReady (tag : Nat) : Statement (.launchReady tag) := .inl rfl
theorem appendRetry (tag : Nat) : Statement (.appendRetry tag) := .inl rfl
theorem stageRequest (req : Nat) : Statement (.stageRequest req) := .inl rfl
theorem conflictWaitApply (req : Nat) : Statement (.conflictWaitApply req) := .inl rfl
theorem waitCycleCheck (tag : Nat) : Statement (.waitCycleCheck tag) := .inl rfl
theorem commitPending (tag : Nat) : Statement (.commitPending tag) := .inl rfl
theorem pendingAck (tag : Nat) (die : Nat) : Statement (.pendingAck tag die) := .inl rfl
theorem stagedMerge (tag : Nat) : Statement (.stagedMerge tag) := .inl rfl
theorem discardAck (tag : Nat) (die : Nat) : Statement (.discardAck tag die) := .inl rfl
theorem homeAccess (req : Nat) : Statement (.homeAccess req) := .inl rfl
theorem memorySideAtomic (req : Nat) : Statement (.memorySideAtomic req) := .inl rfl
theorem wayMove (die : Nat) : Statement (.wayMove die) := .inl rfl
theorem scrubLine (line : Nat) (found : EccOutcome) : Statement (.scrubLine line found) := .inl rfl
theorem scrubRateEval (stack : Nat) (tempC : Nat) (corrected : Nat) : Statement (.scrubRateEval stack tempC corrected) := .inl rfl
theorem pageWalk (cluster : Nat) (slice : Nat) (tva : Word) (kind : AccessKind) : Statement (.pageWalk cluster slice tva kind) := .inl rfl
theorem faultDelivery (rec : Nat) : Statement (.faultDelivery rec) := .inl rfl
theorem pendingRecordDelivery (rec : Nat) : Statement (.pendingRecordDelivery rec) := .inl rfl
theorem coachHeld (quad : Nat) : Statement (.coachHeld quad) := .inl rfl
theorem preT1Expiry (die : Nat) (slice : Nat) : Statement (.preT1Expiry die slice) := .inl rfl
theorem preT2Expiry (die : Nat) (slice : Nat) : Statement (.preT2Expiry die slice) := .inl rfl
theorem mmaBoundaryTimeout (quad : Nat) : Statement (.mmaBoundaryTimeout quad) := .inl rfl
theorem copyCommandStart (quad : Nat) : Statement (.copyCommandStart quad) := .inl rfl
theorem beatIssue (quad : Nat) : Statement (.beatIssue quad) := .inl rfl
theorem beatAck (quad : Nat) : Statement (.beatAck quad) := .inl rfl
theorem matrixOpStart (quad : Nat) : Statement (.matrixOpStart quad) := .inl rfl
theorem matrixOpComplete (quad : Nat) : Statement (.matrixOpComplete quad) := .inl rfl
theorem katFloorTest (quad : Nat) (defect : Bool) : Statement (.katFloorTest quad defect) := .inl rfl
theorem vectorStart (quad : Nat) : Statement (.vectorStart quad) := .inl rfl
theorem vectorRetire (quad : Nat) : Statement (.vectorRetire quad) := .inl rfl
theorem deferWriteAck (quad : Nat) : Statement (.deferWriteAck quad) := .inl rfl
theorem watchdogExpiry (unit : WatchUnit) : Statement (.watchdogExpiry unit) := .inl rfl
theorem idleFlit (port : Nat) (fl : Flit) : Statement (.idleFlit port fl) := .inl rfl
theorem lackFlit (port : Nat) (fl : Flit) : Statement (.lackFlit port fl) := .inl rfl
theorem flitDiscard (port : Nat) (crcBad : Bool) : Statement (.flitDiscard port crcBad) := .inl rfl
theorem reservedFlit (port : Nat) (fl : Flit) : Statement (.reservedFlit port fl) := .inl rfl
theorem rowFlit (port : Nat) (fl : Flit) : Statement (.rowFlit port fl) := .inl rfl
theorem readFlit (port : Nat) (fl : Flit) : Statement (.readFlit port fl) := .inl rfl
theorem writeFlit (port : Nat) (fl : Flit) : Statement (.writeFlit port fl) := .inl rfl
theorem writepFlit (port : Nat) (fl : Flit) : Statement (.writepFlit port fl) := .inl rfl
theorem atomicFlit (port : Nat) (fl : Flit) : Statement (.atomicFlit port fl) := .inl rfl
theorem readrspFlit (port : Nat) (fl : Flit) : Statement (.readrspFlit port fl) := .inl rfl
theorem wrackFlit (port : Nat) (fl : Flit) : Statement (.wrackFlit port fl) := .inl rfl
theorem atomrspFlit (port : Nat) (fl : Flit) : Statement (.atomrspFlit port fl) := .inl rfl
theorem nackFlit (port : Nat) (fl : Flit) : Statement (.nackFlit port fl) := .inl rfl
theorem cqcredFlit (port : Nat) (fl : Flit) : Statement (.cqcredFlit port fl) := .inl rfl
theorem cqcloseFlit (port : Nat) (fl : Flit) : Statement (.cqcloseFlit port fl) := .inl rfl
theorem pullFlit (port : Nat) (fl : Flit) : Statement (.pullFlit port fl) := .inl rfl
theorem pageFlit (port : Nat) (fl : Flit) : Statement (.pageFlit port fl) := .inl rfl
theorem refuseFlit (port : Nat) (fl : Flit) : Statement (.refuseFlit port fl) := .inl rfl
theorem ackProgressTimeout (port : Nat) : Statement (.ackProgressTimeout port) := .inl rfl
theorem retrainDone (port : Nat) : Statement (.retrainDone port) := .inl rfl
theorem retrainTimeout (port : Nat) : Statement (.retrainTimeout port) := .inl rfl
theorem creditReturnTimeout (port : Nat) : Statement (.creditReturnTimeout port) := .inl rfl
theorem flitHoldTimeout (held : Nat) : Statement (.flitHoldTimeout held) := .inl rfl
theorem circuitSlot (die : Nat) (table : Nat) (slot : Nat) : Statement (.circuitSlot die table slot) := .inl rfl
theorem slotTableUpdate (die : Nat) : Statement (.slotTableUpdate die) := .inl rfl
theorem requestResend (tag : Nat) : Statement (.requestResend tag) := .inl rfl
theorem duplicateFullResend (tag : Nat) : Statement (.duplicateFullResend tag) := .inl rfl
theorem remoteGiveUp (tag : Nat) : Statement (.remoteGiveUp tag) := .inl rfl
theorem duplicateEntryExpiry (node : Nat) (tag : Nat) : Statement (.duplicateEntryExpiry node tag) := .inl rfl
theorem cqTimeout (quad : Nat) (endp : Nat) : Statement (.cqTimeout quad endp) := .inl rfl
theorem hostRead (fn : Nat) (off : Nat) (len : Nat) : Statement (.hostRead fn off len) := .inl rfl
theorem hostWrite (fn : Nat) (off : Nat) (len : Nat) (data : BitVec 512) : Statement (.hostWrite fn off len data) := .inl rfl
theorem hostCompletion (id : Nat) (status : HostStatus) (data : BitVec 512) : Statement (.hostCompletion id status data) := .inl rfl
theorem completionTimeout (id : Nat) : Statement (.completionTimeout id) := .inl rfl
theorem pxdone (index : Nat) (w2 : Word) : Statement (.pxdone index w2) := .inl rfl
theorem proxyTimeout (index : Nat) : Statement (.proxyTimeout index) := .inl rfl
theorem frcons (fn : Nat) (count : BitVec 32) : Statement (.frcons fn count) := .inl rfl
theorem loadRequest (die : Nat) (slice : Nat) : Statement (.loadRequest die slice) := .inl rfl
theorem loadDone (die : Nat) (slice : Nat) : Statement (.loadDone die slice) := .inl rfl
theorem migrationExport (slice : Nat) : Statement (.migrationExport slice) := .inl rfl
theorem migrationImport (slice : Nat) : Statement (.migrationImport slice) := .inl rfl
theorem migrationRelease (slice : Nat) : Statement (.migrationRelease slice) := .inl rfl
theorem migrationClear (slice : Nat) : Statement (.migrationClear slice) := .inl rfl
theorem pullResend (pull : Nat) : Statement (.pullResend pull) := .inl rfl
theorem migrationLoss (slice : Nat) : Statement (.migrationLoss slice) := .inl rfl
theorem memoryWayWrite (die : Nat) (val : Word) : Statement (.memoryWayWrite die val) := .inl rfl
theorem allotmentWrite (die : Nat) (slice : Nat) (val : Word) : Statement (.allotmentWrite die slice val) := .inl rfl
theorem repadd (die : Nat) (val : Word) : Statement (.repadd die val) := .inl rfl
theorem cocoonBlockWrite (w : CtlWrite) : Statement (.cocoonBlockWrite w) := .inl rfl
theorem weightBlockWrite (w : CtlWrite) : Statement (.weightBlockWrite w) := .inl rfl
theorem routeBlockWrite (w : CtlWrite) : Statement (.routeBlockWrite w) := .inl rfl
theorem sliceBlockWrite (w : CtlWrite) : Statement (.sliceBlockWrite w) := .inl rfl
theorem strandTableWrite (w : CtlWrite) : Statement (.strandTableWrite w) := .inl rfl
theorem watchpointWrite (w : CtlWrite) : Statement (.watchpointWrite w) := .inl rfl
theorem retrainWrite (port : Nat) : Statement (.retrainWrite port) := .inl rfl
theorem controlStructureWrite (w : CtlWrite) : Statement (.controlStructureWrite w) := .inl rfl
theorem energyCharge (slice : Nat) (cls : EnergyClass) (count : Nat) : Statement (.energyCharge slice cls count) := .inl rfl
theorem energyRefill : Statement (.energyRefill) := .inl rfl
theorem thermalSample (junctionC : Nat) (powerW : Nat) : Statement (.thermalSample junctionC powerW) := .inl rfl
theorem coldReset : Statement (.coldReset) := .inl rfl
theorem warmReset : Statement (.warmReset) := .inl rfl
theorem attest : Statement (.attest) := .inl rfl
theorem undefWord (w : BitVec 32) : Statement (.undefWord w) := .inl rfl
theorem katFloorFreeze (quad : Nat) (defect : Bool) : Statement (.katFloorFreeze quad defect) := .inl rfl

end Sys2Proof.Laws.Length
end

