-- ==== Sys2Proof/Tests/Slice0.lean ====
section
/-! SUPPORT. Tests: ill-formed terms that the field checks refuse, words written out from the encoding tables and
what they decode to, single steps with results worked out from the rules, and for each statement with hypotheses a
state and operands that meet them (the theorems named witness_). -/

namespace Sys2Proof.Tests

open Sys2Proof.Machine

set_option Elab.async false

/-! ## States to test in -/

/-- Strand 0 of a task on quadrant 0. -/
def onK : State := State.reset.placed (some .k) [0#32]

/-- The X, L and S streams of such a task. -/
def onX : State := State.reset.placed (some .x) [0#32]
def onL : State := State.reset.placed (some .l) [0#32]
def onS : State := State.reset.placed (some .s) [0#32]

/-- Strand 0 of die 0, at level O. -/
def onDray0 : State := State.reset.only (.dray 0 0) 0x400#64

/-- The running thread with a value in a register. -/
def State.with (s : State) (r : BitVec 4) (v : Word) : State := s.setReg r v false

/-- What `State.Issues` asks, computed. -/
def issues (s : State) (cls : WordClass) (i : Instr) (k : Tok) : Bool :=
  (s.strand? s.cur).isSome && s.me.run == .ready && s.live s.cur && s.assigned cls k &&
    decide (s.levelOf s.cur ≤ cls.minLevel) && s.mayUse cls.right && s.tokenWait k cls.engineOp == none &&
    s.scalarDue i == none

theorem issues_of {s : State} {cls : WordClass} {i : Instr} {k : Tok} (h : issues s cls i k = true) : s.Issues cls i k := by
  simpa [issues, State.Issues, and_assoc] using h

/-- The register that a step leaves. -/
def regAfter (o : Host.Outcome State Fault Refusal) (r : BitVec 4) : Option Word :=
  match o with
  | .next s => some (s.reg r)
  | _ => none

/-- What a step leaves of the thread: its program counter, its run state and its fault code. -/
def stopAfter (o : Host.Outcome State Fault Refusal) : Option (Word × RunState × Word) :=
  match o with
  | .next s => some (s.me.pc, s.me.run, s.me.fcode)
  | _ => none

/-- No token. -/
def k0 : Tok := Tok.none

/-- Doublewords in memory. -/
def putWords (s : State) (a : Nat) (ws : List Word) : State :=
  { s with mem := SMap.putAll memByte s.mem a (ws.flatMap bytesOf8) }

/-- What the TLB of cluster 0 keeps of the first gigabyte of slice 0. -/
def worldTlb : TlbEntry where
  cluster := 0
  slice := 0
  domain := 0
  tva := 0
  size1 := 2 ^ 30
  spa := 0
  size2 := 2 ^ 30
  dpa := 0
  attr := 0
  rd := true
  wr := true
  rd2 := true
  wr2 := true
  dirty := true
  leaf2 := 0x101000

/-- A slice 0 of domain 0 with core 0 of die 0, whose first gigabyte is mapped at both stages and open in a window; its queue
table lies at SPA 0x200000 and its pending bitmap at 0x210000. -/
def world (s : State) : State :=
  let s := putWords (putWords (putWords (putWords s 0x100000 [0x101001#64]) 0x101000 [0x4F#64]) 0x102000 [0x103001#64])
    0x103000 [0xF#64]
  let s := { s with
    tlb := [worldTlb]
    root1 := [(0, 0x8000000000102000#64)], root2 := [(0, 0x8000000000100000#64)]
    windows := [(0, (0xF000000000000000#64, 0xFFFFFFFF00003FFF#64))]
    dieTab := [(0, 0x80#8)], coreTab := [(0, 0x8F00#16)], barOwner := [(0, 0x80#8)] }
  let s := s.pmPut 0 0x3D000 (bytesOf8 0x8000200000000001#64 ++ bytesOf8 0x200000#64 ++ bytesOf8 0x210000#64)
  s.updCoach 0 (fun c => { c with semView := [(0, 0x8000#16)], barView := [(0, 0x80#8)] })

/-- Queue 0 of slice 0: enabled, with a ring of 16 entries at 0x220000 of which one is taken. -/
def withQueue (s : State) : State := putWords s 0x200000 [0x8400000000220000#64, 1#64, 0#64, 0#64]

/-- The translation of an access that goes past private memory. -/
def dpaOf (r : Except Stop Place) : Option Xlate :=
  match r with
  | .ok (.dpa x) => some x
  | _ => none

theorem resolve_of {r : Except Stop Place} {x : Xlate} (h : dpaOf r = some x) : r = .ok (.dpa x) := by
  rcases r with _ | _ | y
  · exact nomatch h
  · exact nomatch h
  · rw [Option.some.inj h]

/-- What an access of the hardware has brought, when it is done. -/
def hwDone {α : Type} (r : Hw α) : Option (State × α) :=
  match r with
  | .ok s v => some (s, v)
  | _ => none

/-- A result that is there and passes a test. -/
theorem some_and {α : Type} {o : Option α} {p : α → Bool} (h : o.any p = true) : ∃ x, o = some x ∧ p x = true :=
  (Option.any_eq_true_iff_get ..).1 h |>.elim (fun hs hp => ⟨o.get hs, (Option.some_get hs).symm, hp⟩)

theorem except_and {ε α : Type} {r : Except ε α} {p : α → Bool} (h : r.toOption.any p = true) :
    ∃ v, r = .ok v ∧ p v = true := by
  obtain ⟨v, hv, hp⟩ := some_and h
  rcases r with _ | w
  · exact nomatch hv
  · exact ⟨v, congrArg _ (Option.some.inj hv), hp⟩

theorem hw_and {α : Type} {r : Hw α} {p : State → α → Bool} (h : (hwDone r).any (fun x => p x.1 x.2) = true) :
    ∃ s v, r = .ok s v ∧ p s v = true := by
  obtain ⟨x, hx, hp⟩ := some_and h
  rcases r with ⟨s, v⟩ | _ | _
  · exact ⟨s, v, rfl, by rwa [← Option.some.inj hx] at hp⟩
  · exact nomatch hx
  · exact nomatch hx

theorem names_dray {s : State} {v : Word} {slice n : Nat} (d k : Nat) (h : s.cur = .dray d k)
    (f : bits v 63 16 = 0 ∧ bits v 15 8 < 64 ∧ slice = bits v 15 8 ∧ n = bits v 7 0)
    (o : s.ownsSlice d (s.strandLevel d k) (s.strandServed d k) slice = true) : s.Names v slice n := by
  unfold State.Names
  rw [h]
  exact ⟨f.1, f.2.1, f.2.2.1, f.2.2.2, o⟩

theorem names_coach {s : State} {v : Word} {slice n : Nat} (q p : Nat) (h : s.cur = .coach q p)
    (c : (s.coach? q).any (fun c => decide (slice = c.slice)) = true) (f : n = v.toNat) : s.Names v slice n := by
  unfold State.Names
  rw [h]
  obtain ⟨x, hx, hs⟩ := some_and c
  exact ⟨x, hx, of_decide_eq_true hs, f⟩

/-- Such a task, while strand 0 of die 0 runs. -/
def both : State := { world onK with cur := .dray 0 0 }.updStrand (.dray 0 0) (fun st => { st with run := .ready })


/-! ## Fields that the encoding refuses -/

/-- Every term of a list breaks a field check. -/
def refused (is : List Instr) : Bool := is.all (fun i => !i.wf)

theorem test_wf_scalar :
    refused [.loop k0 1#4 0#13, .loopi k0 3#11 0#10, .lda k0 1#4 2#4 0#4 7#3 0#4 0#2, .stl k0 1#4 2#4 0#4 7#3 0#4 0#2,
      .ldsp k0 1#4 2#4 3#2 0#9 0#2, .stsp k0 1#4 2#4 3#2 0#9 0#2, .fenceAcq k0 0#4 7#3 1#5, .fenceAcq k0 0#4 1#3 0#5,
      .fenceRel k0 0#4 7#3 1#5, .fenceRel k0 0#4 1#3 0#5, .fenceFull k0 0#4 7#3 1#5, .fenceFull k0 0#4 1#3 0#5,
      .csrr k0 1#4 0x16#9, .csrr k0 1#4 0xF#9, .csrw k0 1#4 2#4 0x10#9, .csrs k0 1#4 2#4 0xB#9, .csrc k0 1#4 2#4 0xB#9,
      .waite k0 1#4 0#4, .dset k0 1#6 13#4, .dget k0 1#6 13#4, .csrx k0 1#4 2#4 3#4 0x16#7, .csrxW k0 1#4 2#4 3#4 0x10#7,
      .csrxS k0 1#4 2#4 3#4 0x10#7, .csrxC k0 1#4 2#4 3#4 0x10#7] = true := by decide

theorem test_wf_atomic :
    refused ([Instr.aadd, .aand, .aor, .axor, .aswp, .acas, .amin, .amax, .aminu, .amaxu, .aaddW, .aswpW, .acasW].map
      (fun f => f k0 1#4 2#4 3#4 0#4 0#2 7#3)) = true := by decide

theorem test_wf_vector :
    refused ([Instr.vshl, .vshr, .vsra].flatMap (fun f => [f k0 1#6 2#6 32#6 1#3, f k0 1#6 2#6 16#6 5#3, f k0 1#6 2#6 1#6 0#3]) ++
      [.vcmp k0 1#6 2#6 0#3 1#3 3#3, .vcmp k0 1#6 2#6 0#3 0#3 0#3, .vcmp k0 1#6 2#6 6#3 1#3 1#3, .vins k0 1#6 2#4 3#3,
        .vmovs k0 1#6 2#4 3#3, .viota k0 1#6 3#3, .vcvt k0 1#6 2#6 6#3 0#2 0#4, .vcvt k0 1#6 2#6 0#3 1#2 8#4,
        .vpack k0 1#6 2#6 3#6 5#3, .vunpk k0 1#6 2#6 3#6 5#3, .vreds k0 1#6 2#6 3#3, .vredm k0 1#6 2#6 2#6 0#3,
        .vredm k0 1#6 2#6 0#6 3#3, .vscan k0 1#6 2#6 3#6 0#3, .vscan k0 1#6 2#6 0#6 3#3, .vrot k0 1#6 2#6 32#6 0#3] ++
      [Instr.vatomAdd, .vatomMin, .vatomMax, .vatomSwp].map (fun f => f k0 1#6 2#6 3#4 3#3) ++
      [.mand k0 0#3 1#3 1#3, .mor k0 0#3 1#3 1#3, .mxor k0 0#3 1#3 1#3, .mnot k0 0#3 1#3]) = true := by decide

theorem test_wf_matrix_and_copy :
    refused [.mwld k0 1#6 7#3, .mma k0 1#6 2#6 3#6 7#3, .mmas k0 1#6 2#6 3#6 7#3, .mkat k0 0#18 7#3 0#32 0#32, .mwait k0 9#4,
      .cpyc k0 1#6 2#6 0#4 0#4 (.mwld k0 4#6 7#3), .cpyc k0 1#6 2#6 0#4 0#4 (.mma k0 4#6 1#6 2#6 7#3)] = true := by decide

/-! ## Words written out from R11 and R23 to R39 -/

/-- ADD s0, s6, s15 with a pop and a push (R16); MUL s1, s2, s3; LI s5, 1. -/
theorem test_decode_scalar :
    decode .k [0x5020DE00#32] = .ok (.add { pop := 1#2, push := 1#2 } 0#4 6#4 15#4) ∧
      decode .x [0x00424600#32] = .ok (.mul k0 1#4 2#4 3#4) ∧ decode .k [0x01CA0001#32] = .ok (.li k0 5#4 1#17) :=
  ⟨rfl, rfl, rfl⟩

/-- LOOPI 3, 1; END; SEXIT; JOIN s3; TFENCE; ID s2, 1. -/
theorem test_decode_control :
    decode .l [0x03800C01#32] = .ok (.loopi k0 3#11 1#10) ∧ decode .k [0x03A00000#32] = .ok (.endTask k0) ∧
      decode .k [0x0A000000#32] = .ok (.sexit k0) ∧ decode .k [0x09C06000#32] = .ok (.join k0 3#4) ∧
      decode .s [0x05000000#32] = .ok (.tfence k0) ∧ decode .dray [0x05E40001#32] = .ok (.idCore k0 2#4) :=
  ⟨rfl, rfl, rfl, rfl, rfl, rfl⟩

/-- LD.D s7, 0(s14); R352's ST.D s6, 0(s7), c0 and FENCE.REL s0, device, P; AADD.rlx s6, (s14), s5, c0, coach. -/
theorem test_decode_memory :
    decode .k [0x040FC003#32] = .ok (.ld k0 7#4 14#4 0#4 0#7 3#2) ∧ decode .dray [0x044CE003#32] = .ok (.st k0 6#4 7#4 0#4 0#7 3#2) ∧
      decode .dray [0x04E01108#32] = .ok (.fenceRel k0 0#4 4#3 1#5) ∧
      decode .k [0x080DCA00#32] = .ok (.aadd k0 6#4 14#4 5#4 0#4 0#2 0#3) := ⟨rfl, rfl, rfl, rfl⟩

/-- FORK s3, s14, 6; R352's ERET s3, s4; R457's ENSET s3, s4, s5. -/
theorem test_decode_launch_and_privileged :
    decode .k [0x09A7C006#32] = .ok (.fork k0 3#4 14#4 6#13) ∧ decode .dray [0x0C068000#32] = .ok (.eret k0 3#4 4#4) ∧
      decode .dray [0x0EC68A00#32] = .ok (.enset k0 3#4 4#4 5#4) := ⟨rfl, rfl, rfl⟩

/-- One word, VADD on the X engine and CPY on the L engine. -/
theorem test_decode_maps :
    decode .x [0x08008640#32] = .ok (.vadd k0 1#6 3#6 8#6 0#3) ∧ decode .l [0x08008640#32] = .ok (.cpy k0 1#6 3#6 2#4 0#4) :=
  ⟨rfl, rfl⟩

/-- CPYC with its follow-on MWLD, and MKAT with its two expected words. -/
theorem test_decode_long :
    decode .s [0x08208400#32, 0x0E020001#32] = .ok (.cpyc k0 1#6 2#6 0#4 0#4 (.mwld k0 4#6 1#3)) ∧
      decode .x [0x0EA0002A#32, 7#32, 9#32] = .ok (.mkat k0 5#18 2#3 7#32 9#32) := ⟨rfl, rfl⟩

theorem test_decode_refuses :
    decode .k [0x0FE00000#32] = .error .unassigned ∧ decode .dray [0x40000000#32] = .error .notOnEngine := ⟨rfl, rfl⟩

/-! ## Single steps -/

/-- R102: addition wraps. -/
theorem test_add_wraps :
    regAfter (exec (.add k0 3#4 1#4 2#4) (State.with (State.with onK 1#4 (-1#64)) 2#4 3#64)) 3#4 = some 2#64 := by
  decide +kernel

/-- R86, with the divider's result there: a division by zero gives all ones; the most negative number by -1 gives itself. -/
theorem test_div_corners :
    let s := onK.updMe (fun st => { st with granted := true })
    regAfter (exec (.div k0 3#4 1#4 2#4) (State.with s 1#4 7#64)) 3#4 = some (-1#64) ∧
      regAfter (exec (.div k0 3#4 1#4 2#4) (State.with (State.with s 1#4 0x8000000000000000#64) 2#4 (-1#64))) 3#4 =
        some 0x8000000000000000#64 := by
  decide +kernel

/-- R273: stack 1's group 1 is channel set 5; with address bits 10:8 at 3 and 20:18 at 5 the channel is 8 + (3 xor 5). -/
theorem test_channels :
    channelSet 0x1400140300 = 5 ∧ channelOf 0x1400140300 = 14 ∧ channelOf 0x23456789C0 = 0 := by decide

/-- R406: the check value of the CRC of these parameters, over the ASCII digits 1 to 9. -/
theorem test_crc :
    crc64 [0x31#8, 0x32#8, 0x33#8, 0x34#8, 0x35#8, 0x36#8, 0x37#8, 0x38#8, 0x39#8] = 0x995DC9BBDF1939FA#64 := by decide +kernel

/-- R21: s0 is zero, and a write to it is discarded. -/
theorem test_zero_register :
    regAfter (exec (.add k0 0#4 1#4 1#4) (State.with onK 1#4 5#64)) 0#4 = some 0#64 := by decide +kernel

/-- R43: a word that no engine has is UNDEF, and its strand stops. -/
theorem test_undef_stops :
    (stopAfter (exec (.undefWord 0x0FE00000#32) onK)).map (fun r => (r.2.1, r.2.2)) = some (.stopped 3, 0x0201#64) := by
  decide +kernel

/-- R457's example: ENSET of a fresh account returns its unlimited refill and its ceiling of 0. -/
theorem test_enset_returns_old :
    regAfter (exec (.enset k0 3#4 1#4 2#4) (State.with (State.with onDray0 1#4 5#64) 2#4 0x0001388000009C40#64)) 3#4 =
      some 0x00000000FFFFFFFF#64 := by
  decide +kernel

/-- R102: signed and unsigned comparison differ; a shift count is taken mod 64. -/
theorem test_compare_and_shift :
    let s := State.with (State.with onK 1#4 (-1#64)) 2#4 65#64
    regAfter (exec (.slt k0 3#4 1#4 2#4) s) 3#4 = some 1#64 ∧ regAfter (exec (.sltu k0 3#4 1#4 2#4) s) 3#4 = some 0#64 ∧
      regAfter (exec (.shl k0 3#4 2#4 2#4) s) 3#4 = some 130#64 := by decide +kernel
/-! ## Witnesses -/

theorem witness_RegisterWords : onK.Issues commonWord (.add k0 3#4 1#4 2#4) k0 := issues_of (by decide +kernel)

theorem witness_MultiplyDivide :
    let s := State.with (State.with onX 1#4 0x8000000000000000#64) 2#4 (-1#64)
    let back := s.updMe (fun st => { st with granted := true })
    s.Issues mulDivWord (.div k0 3#4 1#4 2#4) k0 ∧ s.me.granted = false ∧ back.Issues mulDivWord (.div k0 3#4 1#4 2#4) k0 ∧
      back.me.granted = true ∧ back.reg 1#4 = 0x8000000000000000#64 ∧ back.reg 2#4 = -1#64 ∧ s.reg 1#4 = 0x8000000000000000#64 ∧ s.reg 2#4 = -1#64 ∧
      s.reg 2#4 ≠ 0#64 ∧ s.reg 4#4 = 0#64 :=
  ⟨issues_of (by decide +kernel), by decide +kernel, issues_of (by decide +kernel), by decide +kernel, by decide +kernel,
    by decide +kernel, by decide +kernel, by decide +kernel, by decide +kernel, by decide +kernel⟩

theorem witness_OneSourceWords :
    onK.Issues commonWord (.clz k0 3#4 1#4) k0 ∧ onK.Issues (kWord []) (.bsel k0 3#4 1#4 2#4) k0 ∧
      (onK.reg 1#4).toNat < 2 ^ (64 - 64) ∧ (onK.reg 1#4).toNat % 2 ^ 64 = 0 :=
  ⟨issues_of (by decide +kernel), issues_of (by decide +kernel), by decide +kernel, by decide +kernel⟩

theorem witness_Transfers :
    onK.Issues commonWord (.bEq k0 1#4 2#4 2#13) k0 ∧ onK.inRange onK.cur (onK.me.pc + 2#64) = true ∧
      onK.inRange onK.cur (onK.me.pc + 3#64) = false ∧ onK.reg 1#4 = onK.reg 2#4 ∧ onK.pois 1#4 = false ∧
      (onK.setReg 1#4 0#64 true).pois 1#4 = true ∧ (onK.setReg 1#4 0#64 true).Issues commonWord (.bEq k0 1#4 2#4 2#13) k0 ∧
      onK.Issues commonWord (.jr k0 15#4 1#4 1#13) k0 :=
  ⟨issues_of (by decide +kernel), by decide +kernel, by decide +kernel, by decide +kernel, by decide +kernel,
    by decide +kernel, issues_of (by decide +kernel), issues_of (by decide +kernel)⟩

theorem witness_Loops :
    let full := onK.updMe (fun st => { st with loops := List.replicate 4 { start := 1#64, stop := 2#64, remaining := 1#64 } })
    onK.Issues commonWord (.loopi k0 3#11 1#10) k0 ∧ onK.me.loops.length < 4 ∧ full.Issues commonWord (.loop k0 1#4 1#13) k0 ∧
      4 ≤ full.me.loops.length ∧ onK.inRange onK.cur (onK.me.pc + 2#64) = true ∧ onK.inRange onK.cur (onK.me.pc + 3#64) = false ∧
      badLast .k 0x0A000000#32 = true ∧ badLast .k 0#32 = false :=
  ⟨issues_of (by decide +kernel), by decide +kernel, issues_of (by decide +kernel), by decide +kernel, by decide +kernel,
    by decide +kernel, by decide +kernel, by decide +kernel⟩

/-- Of two strands the second is idle; with all eight taken none is free. -/
theorem witness_Strands :
    let busy := (List.range 8).foldl (fun s p => s.updStrand (.coach 0 p) (fun st => { st with run := .ready })) onK
    onK.Issues (kWord [3]) (.fork k0 3#4 4#4 2#13) k0 ∧ onK.freeStrand onK.cur = some (.coach 0 1) ∧
      onK.inRange (.coach 0 1) (onK.me.pc + 2#64) = true ∧ onK.inRange (.coach 0 1) (onK.me.pc + 3#64) = false ∧
      busy.Issues (kWord [3]) (.fork k0 3#4 4#4 2#13) k0 ∧ busy.freeStrand busy.cur = none ∧
      (State.with busy 5#4 7#64).Issues (kWord [3]) (.join k0 5#4) k0 ∧ busy.sideIdle busy.cur 7 = false ∧
      busy.Issues commonWord (.endTask k0) k0 ∧ busy.othersIdle busy.cur = false ∧ onK.othersIdle onK.cur = true ∧
      onK.Issues (kWord []) (.sexit k0) k0 :=
  ⟨issues_of (by decide +kernel), by decide +kernel, by decide +kernel, by decide +kernel, issues_of (by decide +kernel),
    by decide +kernel, issues_of (by decide +kernel), by decide +kernel, issues_of (by decide +kernel), by decide +kernel,
    by decide +kernel, issues_of (by decide +kernel)⟩
theorem witness_Semaphores :
    let s := world onK
    let one := s.setSem 0 1#16
    s.Issues coachWord (.semP k0 0#4 0#5) k0 ∧ s.myCoach?.bind (fun c => s.semaphore c ((s.reg 0#4).toNat + 0)) = some 0 ∧
      s.semCount 0 = 0#16 ∧ s.me.granted = false ∧ s.semWaiter 0 = none ∧
      s.myCoach?.bind (fun c => s.semaphore c 1) = none ∧
      one.Issues coachWord (.semTryp k0 3#4 0#4 0#5) k0 ∧ one.semCount 0 = 1#16 ∧
      (one.joinSem 0 one.cur).semWaiter 0 = some (.coach 0 0) ∧ (one.setSem 0 0xFFFF#16).semCount 0 = 0xFFFF#16 :=
  ⟨issues_of (by decide +kernel), by decide +kernel, by decide +kernel, by decide +kernel, by decide +kernel,
    by decide +kernel, issues_of (by decide +kernel), by decide +kernel, by decide +kernel, by decide +kernel⟩

theorem witness_Barriers :
    let s := world onK
    let back := s.updMe (fun st => { st with arrived := true, snaps := [(0, some 0#16)] })
    s.Issues coachWord (.cbarAw k0 0#4) k0 ∧ s.myCoach?.bind (fun c => s.barrier c 0) = some 0 ∧
      s.myCoach?.bind (fun c => s.barrier c 1) = none ∧ SMap.get noFlag s.barError 0 = false ∧ s.me.arrived = false ∧
      s.arrivalWaits = false ∧ barCount (s.bar 0) + 1 ≠ barExpect (s.bar 0) ∧ s.me.granted = false ∧
      back.Issues coachWord (.cbarW k0 0#4) k0 ∧ SMap.get (fun _ => none) back.me.snaps 0 = some 0#16 ∧
      bits (back.bar 0) 63 48 = 0 ∧ SMap.get (fun _ => none) back.me.snaps 15 = none :=
  ⟨issues_of (by decide +kernel), by decide +kernel, by decide +kernel, by decide +kernel, by decide +kernel,
    by decide +kernel, by decide +kernel, by decide +kernel, issues_of (by decide +kernel), by decide +kernel,
    by decide +kernel, by decide +kernel⟩

theorem witness_EventsAndServices :
    let hit := onK.updMyStream (fun t => { t with flags := 0x180#9, trapen := 0x100#9 })
    onK.Issues commonWord (.waite k0 0#4 1#4) k0 ∧ (State.with onK 1#4 0#64).reg 1#4 = 0#64 ∧ onK.me.latch &&& 1#4 = 0#4 ∧
      (onK.updMe (fun st => { st with latch := 1#4 })).me.latch &&& 1#4 ≠ 0#4 ∧ onK.Issues commonWord (.ecall k0 5#13) k0 ∧
      onK.Issues commonWord (.ebreak k0 5#13) k0 ∧ hit.Issues commonWord (.tfence k0) k0 ∧ hit.enginesBusy hit.cur = false ∧
      (hit.myStream.flags &&& hit.myStream.trapen).getLsbD 8 = true ∧ onK.myStream.flags &&& onK.myStream.trapen = 0#9 :=
  ⟨issues_of (by decide +kernel), by decide +kernel, by decide +kernel, by decide +kernel, issues_of (by decide +kernel),
    issues_of (by decide +kernel), issues_of (by decide +kernel), by decide +kernel, by decide +kernel, by decide +kernel⟩

theorem witness_StateAndDescriptors :
    (State.with onK 1#4 0xFFFF#64).Issues commonWord (.csrw k0 3#4 1#4 1#9) k0 ∧
      (onK.setReg 1#4 0#64 true).Issues commonWord (.csrs k0 3#4 1#4 0#9) k0 ∧ (onK.setReg 1#4 0#64 true).pois 1#4 = true ∧
      onK.Issues coachWord (.dset k0 63#6 12#4) k0 ∧ onK.Issues coachWord (.dget k0 63#6 12#4) k0 ∧
      onK.Issues coachWord (.dadd k0 0#6 1#4) k0 ∧ (∃ c, onK.myCoach? = some c) ∧ (onK.strand? onK.cur).isSome = true :=
  ⟨issues_of (by decide +kernel), issues_of (by decide +kernel), by decide +kernel, issues_of (by decide +kernel),
    issues_of (by decide +kernel), issues_of (by decide +kernel), Option.isSome_iff_exists.mp (by decide +kernel),
    by decide +kernel⟩

theorem witness_FeatureLeaves :
    onK.Issues commonWord (.qfeat k0 3#4 0#4 1#13) k0 ∧ (∃ c, onK.cur = .coach 0 0 ∧ onK.coach? 0 = some c) :=
  ⟨issues_of (by decide +kernel),
    (Option.isSome_iff_exists.mp (by decide +kernel : (onK.coach? 0).isSome = true)).imp fun _ h => ⟨by decide +kernel, h⟩⟩

theorem witness_TimeAndIdentity :
    onK.Issues commonWord (.timeNs k0 3#4) k0 ∧ onDray0.Issues commonWord (.idDie k0 3#4) k0 ∧ onDray0.cur = .dray 0 0 ∧
      onDray0.strandLevel 0 0 = 0 ∧ (onDray0.pmSetWord 0 0x3F000 0x8000000000000200#64).strandLevel 0 0 ≠ 0 :=
  ⟨issues_of (by decide +kernel), issues_of (by decide +kernel), by decide +kernel, by decide +kernel, by decide +kernel⟩

/-- The last doubleword below the control structures, and the last one of private memory, which a load may read. -/
theorem witness_PrivateMemoryAccess :
    let s := State.with (State.with onDray0 1#4 0x38FF8#64) 2#4 0x3FFF8#64
    s.Issues commonWord (.st k0 3#4 1#4 0#4 0#7 3#2) k0 ∧ s.Issues commonWord (.ld k0 3#4 2#4 0#4 0#7 3#2) k0 ∧
      s.me.reply = [] ∧ s.me.replyPoison = false ∧ s.pois 1#4 = false ∧ s.reg 1#4 = 0x38FF8#64 ∧ 0x38FF8 + 8 ≤ 0x39000 ∧
      0x38FF8 % 64 + 8 ≤ 64 ∧ s.pmAllowed 0 0 0x38FF8 8 .write = true ∧ s.reg 2#4 = 0x3FFF8#64 ∧
      s.pmAllowed 0 0 0x3FFF8 8 .read = true ∧ s.pois 3#4 = false :=
  ⟨issues_of (by decide +kernel), issues_of (by decide +kernel), by decide +kernel, by decide +kernel, by decide +kernel,
    by decide +kernel, by decide, by decide, by decide +kernel, by decide +kernel, by decide +kernel, by decide +kernel⟩

/-- A task's access of its first gigabyte. -/
def taskXlate : Xlate where
  dpa := 0x40000
  memSide := false
  entry := some worldTlb
  setD := none
  near := some 0

/-- A copy of that access's line in the L1 of the task's quadrant. -/
def l1Copy : L1Line where
  quad := 0
  line := 0x1000
  tag := none
  data := 0#512
  pois := 0#64

/-- An access of a task through its translation, which sets the dirty bit of no leaf; its line is in no L1, or in the task's. -/
theorem witness_GlobalAccesses :
    let s := State.with (world onK) 1#4 0x40000#64
    let u := s.takeToken k0
    let hit := { s with l1 := [l1Copy] }
    let dray := State.with onDray0 1#4 0x40000#64
    s.Issues commonWord (.ld k0 3#4 1#4 0#4 0#7 3#2) k0 ∧ s.Issues commonWord (.st k0 3#4 1#4 0#4 0#7 3#2) k0 ∧
      s.reg 1#4 = 0x40000#64 ∧ s.me.reply = [] ∧ s.me.replyPoison = false ∧ s.pois 1#4 = false ∧ s.pois 3#4 = false ∧
      s.resolve s.cur 0x40000#64 8 .read true = .ok (.dpa taskXlate) ∧
      s.resolve s.cur 0x40000#64 8 .write true = .ok (.dpa taskXlate) ∧
      s.watchFault 0x40000#64 8 .read 0 = none ∧ s.watchFault 0x40000#64 8 .write 0 = none ∧
      s.mustWait s.cur 0 0 0x1000 (lineMask 0 8) (fun _ => true) = none ∧ s.pendingLine (some 0) 0x1000 = false ∧
      (s.launchOf s.cur).map (fun l => s.claimers (some l.tag) 0x1000 (lineMask 0 8)) = some [] ∧
      (∃ q, u.myCoach? = some q ∧ (u.l1Hit q 0x1000).isNone = true) ∧
      hit.Issues commonWord (.ld k0 3#4 1#4 0#4 0#7 3#2) k0 ∧
      hit.resolve hit.cur 0x40000#64 8 .read true = .ok (.dpa taskXlate) ∧
      (∃ q, (hit.takeToken k0).myCoach? = some q ∧ ((hit.takeToken k0).l1Hit q 0x1000).isSome = true) ∧
      dray.Issues commonWord (.lda k0 3#4 1#4 0#4 4#3 0#4 3#2) k0 ∧
      dray.resolve dray.cur 0x40000#64 8 .read true =
        .ok (.dpa { dpa := 0x40000, memSide := false, entry := none, setD := none }) ∧
      dray.mustWait dray.cur 0 0 0x1000 (lineMask 0 8) (dray.ownOrBehind dray.cur) = none ∧ dray.pendingLine none 0x1000 = false :=
  ⟨issues_of (by decide +kernel), issues_of (by decide +kernel), by decide +kernel, by decide +kernel, by decide +kernel,
    by decide +kernel, by decide +kernel, resolve_of (by decide +kernel), resolve_of (by decide +kernel),
    by decide +kernel, by decide +kernel, by decide +kernel, by decide +kernel, by decide +kernel, some_and (by decide +kernel),
    issues_of (by decide +kernel), resolve_of (by decide +kernel), some_and (by decide +kernel), issues_of (by decide +kernel),
    resolve_of (by decide +kernel), by decide +kernel, by decide +kernel⟩
theorem witness_Atomics :
    let s := State.with (State.with onDray0 1#4 0x38FF8#64) 2#4 0x40000#64
    s.Issues (kWord [1]) (.aadd k0 3#4 1#4 4#4 0#4 3#2 4#3) k0 ∧ s.Issues (kWord [2]) (.acasW k0 3#4 2#4 4#4 0#4 0#2 0#3) k0 ∧
      s.me.reply = [] ∧ s.pois 1#4 = false ∧ s.pois 3#4 = false ∧ s.pois 4#4 = false ∧
      s.watchFault 0x38FF8#64 8 .atomic 0 = none ∧ (s.fenceWait s.cur allClasses scalarPaths 4).isNone = true ∧
      s.pmAllowed 0 0 0x38FF8 8 .atomic = true ∧
      s.resolve s.cur 0x40000#64 4 .atomic true = .ok (.dpa { dpa := 0x40000, memSide := false, entry := none, setD := none }) ∧
      apertureOf 0x40000 = .hbm ∧ s.mustWait s.cur 0 0 0x1000 (lineMask 0 4) (fun _ => true) = none ∧ s.pendingLine none 0x1000 = false ∧
      s.launchOf s.cur = none :=
  ⟨issues_of (by decide +kernel), issues_of (by decide +kernel), by decide +kernel, by decide +kernel, by decide +kernel,
    by decide +kernel, by decide +kernel, by decide +kernel, by decide +kernel, resolve_of (by decide +kernel), by decide,
    by decide +kernel, by decide +kernel, by decide +kernel⟩

/-- The last doubleword of ABUF's used part, and the byte past it. -/
theorem witness_BufferAccess :
    let s := State.with (State.with onK 1#4 0x2FFF8#64) 2#4 0x30000#64
    s.Issues coachWord (.stsp k0 3#4 1#4 0#2 0#9 3#2) k0 ∧ s.Issues coachWord (.ldsp k0 3#4 2#4 0#2 0#9 0#2) k0 ∧
      s.pois 1#4 = false ∧ s.pois 3#4 = false ∧ s.reg 1#4 = 0x2FFF8#64 ∧ s.reg 2#4 = 0x30000#64 ∧
      ∃ c, s.myCoach? = some c ∧ (decide (c.usedSize .abuf = 0x30000) && !c.checkerFull && c.spmSeq 0 == none &&
        c.entries.isEmpty) = true :=
  ⟨issues_of (by decide +kernel), issues_of (by decide +kernel), by decide +kernel, by decide +kernel, by decide +kernel,
    by decide +kernel, some_and (by decide +kernel)⟩

theorem witness_Fences :
    let s := State.with onK 1#4 1#64
    let waits := { s with homeq := [{ parkedReq s s.cur 0 0 0 0 .thread with mask := 1#64 }] }
    s.Issues commonWord (.fenceFull k0 1#4 6#3 31#5) k0 ∧ s.pois 1#4 = false ∧
      (s.fenceWait s.cur 1#16 31#5 6).isNone = true ∧ (s.setReg 1#4 0#64 true).pois 1#4 = true ∧
      (s.setReg 1#4 0#64 true).Issues commonWord (.fenceAcq k0 1#4 0#3 1#5) k0 ∧
      waits.Issues commonWord (.fenceRel k0 1#4 2#3 1#5) k0 ∧
      ((waits.takeToken k0).fenceWait waits.cur 1#16 1#5 2).isSome = true :=
  ⟨issues_of (by decide +kernel), by decide +kernel, by decide +kernel, by decide +kernel, issues_of (by decide +kernel),
    issues_of (by decide +kernel), by decide +kernel⟩

/-- Queue and gate 255 of slice 63 on a Dray strand and of slice 0 in a task; number 256 in a task. -/
theorem witness_QueueWords :
    let s := State.with onDray0 1#4 0x3FFF#64
    let t := State.with (State.with onK 1#4 255#64) 2#4 256#64
    s.Issues (kWord [4]) (.qnotify k0 1#4) k0 ∧ s.Names (s.reg 1#4) 63 255 ∧ s.mayUse (some rightQueue) = true ∧
      s.Issues (kWord []) (.gateAdd k0 3#4 1#4 2#4) k0 ∧ onDray s.cur = true ∧
      t.Issues (kWord []) (.gateWaitge k0 3#4 1#4 2#4) k0 ∧ t.Names (t.reg 1#4) 0 255 ∧ t.Names (t.reg 2#4) 0 256 ∧
      t.mayUse (some rightQueue) = false ∧ (t.pois 1#4 || t.pois 2#4) = false ∧
      (t.gate 0 255).toNat < (t.reg 2#4).toNat % 2 ^ 48 ∧
      (∃ l, t.launchOf t.cur = some l ∧ decide (l.held.length < 64) = true) :=
  ⟨issues_of (by decide +kernel), names_dray 0 0 (by decide +kernel) (by decide +kernel) (by decide +kernel), by decide +kernel,
    issues_of (by decide +kernel), by decide +kernel, issues_of (by decide +kernel),
    names_coach 0 0 (by decide +kernel) (by decide +kernel) (by decide +kernel),
    names_coach 0 0 (by decide +kernel) (by decide +kernel) (by decide +kernel), by decide +kernel, by decide +kernel,
    by decide +kernel, some_and (by decide +kernel)⟩

/-- A record in private memory, appended by a Dray strand to queue 0 of slice 0. -/
theorem witness_Launches :
    let s := State.with (withQueue (world onDray0)) 1#4 0x2000#64
    s.Issues (kWord [4]) (.launch k0 1#4 2#4) k0 ∧ (s.pois 1#4 || s.pois 2#4) = false ∧ s.Names (s.reg 2#4) 0 0 ∧
      s.mayUse (some rightQueue) = true ∧ (s.reg 1#4).toNat % 32 = 0 ∧
      (∃ v, s.loadPieces true 0 (linePieces 0x2000 32) = .ok v ∧ (!v.me.replyPoison && decide (v.me.reply.length = 32) &&
        (v.fenceWait v.cur allClasses scalarPaths 4).isNone && (match v.append 0 0 0 v.me.reply with
          | .ok _ => true
          | _ => false)) = true) ∧
      s.me.reply = [] ∧ (s.probe .read (linePieces 0x2000 32)).isNone = true ∧ s.watchFault 0x2000#64 32 .read 0 = none ∧
      (∃ x e, s.readQueue 0 0 0 = .ok x e ∧ !e.bad = true) ∧ s.migState 0 ≠ 1 :=
  ⟨issues_of (by decide +kernel), by decide +kernel,
    names_dray 0 0 (by decide +kernel) (by decide +kernel) (by decide +kernel), by decide +kernel,
    by decide +kernel, except_and (by decide +kernel), by decide +kernel, by decide +kernel, by decide +kernel,
    hw_and (by decide +kernel), by decide +kernel⟩

/-- The task of an open launch. -/
theorem witness_LaunchImm :
    let s := (withQueue (world onK)).updLaunch 0 (fun l => { l with hdr := [0#64, 0x0003FFFCA0000001#64] })
    s.Issues { kWord [4, 5] with coachOnly := true } (.launchImm k0 1#4 2#4) k0 ∧
      (∃ l, s.launchOf s.cur = some l ∧ l.mode = true) ∧ (∃ l, onK.launchOf onK.cur = some l ∧ !l.mode = true) :=
  ⟨issues_of (by decide +kernel), some_and (by decide +kernel), some_and (by decide +kernel)⟩

theorem witness_Transactions :
    let s := State.with (State.with (world onK) 1#4 0x40000#64) 2#4 64#64
    s.Issues { kWord [6] with coachOnly := true } (.txclaim k0 1#4 2#4) k0 ∧ (s.pois 1#4 || s.pois 2#4) = false ∧
      s.reg 1#4 = 0x40000#64 ∧ s.reg 2#4 = 64#64 ∧ (∃ l, s.launchOf s.cur = some l ∧
        (!l.irrev && decide (l.claims.length < 16) && l.cause == 0#16) = true) ∧
      (match (s.unpark s.cur 0).claimRuns (s.whoOf s.cur true) 0x40000 64 with
        | .ok v runs => v.runOwners 0 runs == [] && decide (v.launches.foldl (fun n x => n + x.runs.length) runs.length ≤ 4096)
        | _ => false) = true ∧
      s.Issues { kWord [] with coachOnly := true } (.txstat k0 3#4) k0 ∧
      s.Issues { kWord [] with coachOnly := true } (.txabort k0 7#13) k0 ∧ (s.tag 0).st = .running :=
  ⟨issues_of (by decide +kernel), by decide +kernel, by decide +kernel, by decide +kernel, some_and (by decide +kernel),
    by decide +kernel, issues_of (by decide +kernel), issues_of (by decide +kernel), by decide +kernel⟩

/-- The handle of the task's strand 0, of its whole coach, of another Dray strand and of function 255; one with a bit that must be
zero, and the strand's own. -/
theorem witness_MasterHandles :
    let u := State.with both 1#4 0x1F#64
    u.Issues (sysWord 2 (some rightPreempt)) (.freeze k0 3#4 1#4) k0 ∧ masterOf (u.reg 1#4) = some (.coach 0 31) ∧
      masterOf 0#64 = some (.coach 0 0) ∧ masterOf 0x400007#64 = some (.dray 0 7) ∧ masterOf 0x8000FF#64 = some (.fn 255) ∧
      masterOf 0x8001FF#64 = none ∧ masterOf 0xB#64 = none ∧ masterOf 0x400000#64 = some (.dray 0 0) ∧
      u.masterOk (u.caller 0 0) (.coach 0 31) = true ∧ u.pois 1#4 = false ∧ u.cur = .dray 0 0 :=
  ⟨issues_of (by decide +kernel), by decide +kernel, by decide, by decide, by decide, by decide, by decide, by decide,
    by decide +kernel, by decide +kernel, by decide +kernel⟩
/-- A record of a copy queue. -/
def parkedRec : FaultRec where
  handle := 16#24
  epc := 0#17
  cls := 1
  overrun := false
  frozen := false
  info := false
  eng := true
  code := 0x0101#16
  faddr := 0#64
  fprog := 0#64
  vtag := 0#16
  slice := 0
  domain := 0
  time := 0#64
  level := 3

/-- A strand of the task that is stopped at level 3, under level O; a copy queue that is not parked, and one that is; another
Dray strand, a function, a strand that a FREEZE finds at a boundary and one that it waits for. -/
theorem witness_MasterWords :
    let s := (State.with both 1#4 0#64).updStrand (.coach 0 0) (fun st => { st with run := .stopped 3 })
    let t := State.with both 1#4 16#64
    let u := State.with both 1#4 0x8000FF#64
    let v := t.updCoach 0 (fun c => { c with copyPark := some parkedRec })
    let w := State.with both 1#4 0x400007#64
    let back := (State.with both 1#4 0#64).updMe (fun st => { st with reply := [0#8] })
    s.Issues (sysWord 2 none) (.eret k0 3#4 1#4) k0 ∧ masterOf (s.reg 1#4) = some (.coach 0 0) ∧
      s.masterOk (s.caller 0 0) (.coach 0 0) = true ∧ (s.strand? (.coach 0 0)).map (fun st => st.run) = some (.stopped 3) ∧
      s.threadFrozen (.coach 0 0) = false ∧ s.strandLevel 0 0 = 0 ∧ s.pois 1#4 = false ∧ s.cur = .dray 0 0 ∧
      t.Issues (sysWord 2 (some rightSched)) (.fres k0 3#4 1#4) k0 ∧ masterOf (t.reg 1#4) = some (.coach 0 16) ∧
      (∃ c, t.coach? 0 = some c ∧ (!c.frozen && !c.copyFrozen) = true) ∧
      u.Issues (sysWord 2 (some rightKill)) (.fkill k0 3#4 1#4) k0 ∧ masterOf (u.reg 1#4) = some (.fn 255) ∧
      u.Issues (sysWord 2 (some rightPreempt)) (.thaw k0 3#4 1#4) k0 ∧ (u.fn 255).frozen = false ∧
      v.Issues (sysWord 2 (some rightSched)) (.fres k0 3#4 1#4) k0 ∧
      (∃ c, v.coach? 0 = some c ∧ (!c.frozen && (c.parked .copy).isSome && !c.queueFrozen .copy) = true) ∧
      w.Issues (sysWord 2 (some rightKill)) (.fkill k0 3#4 1#4) k0 ∧ masterOf (w.reg 1#4) = some (.dray 0 7) ∧
      w.masterOk (w.caller 0 0) (.dray 0 7) = true ∧ back.Issues (sysWord 2 (some rightPreempt)) (.freeze k0 3#4 1#4) k0 ∧
      back.me.reply ≠ [] ∧ (back.bringStill (.coach 0 0)).frozenStill (.coach 0 0) = true ∧
      s.Issues (sysWord 2 (some rightPreempt)) (.freeze k0 3#4 1#4) k0 ∧ s.me.reply = [] :=
  ⟨issues_of (by decide +kernel), by decide +kernel, by decide +kernel, by decide +kernel, by decide +kernel,
    by decide +kernel, by decide +kernel, by decide +kernel, issues_of (by decide +kernel), by decide +kernel,
    some_and (by decide +kernel), issues_of (by decide +kernel), by decide +kernel, issues_of (by decide +kernel),
    by decide +kernel, issues_of (by decide +kernel), some_and (by decide +kernel), issues_of (by decide +kernel),
    by decide +kernel, by decide +kernel, issues_of (by decide +kernel), by decide +kernel, by decide +kernel,
    issues_of (by decide +kernel), by decide +kernel⟩

theorem witness_OtherRegisters :
    let s := (State.with both 1#4 10#64).updStrand (.coach 0 10) (fun st => { st with frozen := true })
    s.Issues (sysWord 2 (some rightDebug)) (.csrxW k0 3#4 1#4 2#4 3#7) k0 ∧ masterOf (s.reg 1#4) = some (.coach 0 10) ∧
      (Master.coach 0 10).isThread = true ∧ s.masterOk (s.caller 0 0) (.coach 0 10) = true ∧
      (∃ st, s.strand? (.coach 0 10) = some st ∧ st.frozen = true) ∧ s.pois 1#4 = false ∧ s.pois 2#4 = false :=
  ⟨issues_of (by decide +kernel), by decide +kernel, by decide, by decide +kernel, some_and (by decide +kernel),
    by decide +kernel, by decide +kernel⟩

/-- Slices 63 and 64, and operands with each bit of b. -/
theorem witness_Preemption :
    let s := State.with (State.with both 1#4 63#64) 2#4 0x101#64
    s.Issues (sysWord 2 (some rightPreempt)) (.preInsn k0 3#4 1#4 2#4) k0 ∧ (s.reg 1#4).toNat < 64 ∧
      bit (s.reg 2#4) 8 = true ∧ (s.caller 0 0).has s 63 = true ∧ (State.with s 1#4 64#64).reg 1#4 = 64#64 ∧
      s.Issues (sysWord 2 (some rightPreempt)) (.preResume k0 3#4 1#4 2#4) k0 ∧ bits (s.reg 2#4) 63 9 = 0 ∧
      bits (s.reg 2#4) 7 4 = 0 ∧ s.pois 1#4 = false ∧ s.pois 2#4 = false ∧ s.cur = .dray 0 0 :=
  ⟨issues_of (by decide +kernel), by decide +kernel, by decide +kernel, by decide +kernel, by decide +kernel,
    issues_of (by decide +kernel), by decide +kernel, by decide +kernel, by decide +kernel, by decide +kernel,
    by decide +kernel⟩

/-- A coach that is held, and a record area in HBM. -/
theorem witness_Moults :
    let s := (State.with (State.with both 1#4 31#64) 2#4 0x40000#64).updCoach 0 (fun c => { c with held := some 2 })
    s.Issues (sysWord 2 (some rightPreempt)) (.moult k0 3#4 1#4 2#4) k0 ∧
      s.Issues (sysWord 2 (some rightPreempt)) (.unmoult k0 3#4 1#4 2#4) k0 ∧ masterOf (s.reg 1#4) = some (.coach 0 31) ∧
      s.masterOk (s.caller 0 0) (.coach 0 31) = true ∧ (s.reg 2#4).toNat % 256 = 0 ∧
      (∃ c, s.coach? 0 = some c ∧ (!c.frozen && c.held.isSome && !s.rowsOut c && (s.launch? c.tag).isSome) = true) ∧
      s.me.reply = [] ∧ s.pois 1#4 = false ∧ s.pois 2#4 = false :=
  ⟨issues_of (by decide +kernel), issues_of (by decide +kernel), by decide +kernel, by decide +kernel, by decide +kernel,
    some_and (by decide +kernel), by decide +kernel, by decide +kernel, by decide +kernel⟩

/-- The record of a coach between its tasks, on slice 0: its views are empty, and it has no other section. -/
def restRecord : List Byte :=
  layOut 1280 [dwords 0 [0x0000050000000001#64, 0x0000000010000000#64, 0x40000#64], dwords 0x90 [0x0000040000000100#64]]

/-- A record area in private memory, a walk with a saved coach, and no coach on quadrant 0. -/
theorem witness_Unmoults :
    let e : WalkEntry := { die := 0, tag := 0, next := 1, total := 1, saved := 1, bound := 0 }
    let s := { State.with (State.with both 1#4 31#64) 2#4 0x2000#64 with coaches := [], walkers := [e] }.pmPut 0 0x2000 restRecord
    s.Issues (sysWord 2 (some rightPreempt)) (.unmoult k0 3#4 1#4 2#4) k0 ∧ s.me.reply = [] ∧
      (s.probe .read (linePieces 0x2000 256)).isNone = true ∧ s.watchFault 0x2000#64 256 .read 0 = none ∧
      ∃ v, s.loadPieces s.me.strict 0 (linePieces 0x2000 256) = .ok v ∧
        (bits (at8 v.me.reply 0) 63 32 == 1280 && bits (at8 v.me.reply 0) 15 0 == 1 &&
          (v.loadPieces v.me.strict 0 ((linePieces 0x2000 1280).filter (fun p => decide (0x2000 + v.me.reply.length ≤ p.1)))).toOption.any
            (fun w => !w.me.replyPoison &&
              (hwDone (w.hwWords (w.hwWho 0 0) false 0x40000 (List.range 32)).1).any (fun x =>
                let m : Moult := { bytes := w.me.reply, hdr := x.2 }
                m.ok && (s.caller 0 0).has x.1 m.slice && (x.1.namedLaunch m.vtag).any (fun l =>
                  l.slice == m.slice && (x.1.walker 0 l.tag).any (fun e => decide (0 < e.saved)) &&
                  (shapeLeads m.shape 0).contains 0 && (shapeQuads m.shape 0).all (x.1.ownsQuad m.slice) &&
                  (shapeQuads m.shape 0).all (x.1.quadFree m.slice) && (x.1.moultPoint l m 0).any (fun p =>
                    x.1.viewsOk (x.1.moultCoach l m 0 p) && x.1.circuitsOk (x.1.moultCoach l m 0 p)))))) = true :=
  ⟨issues_of (by decide +kernel), by decide +kernel, by decide +kernel, by decide +kernel, except_and (by decide +kernel)⟩

/-- A walk of launch 0 that no coach is bound to, on a slice that is held; slot 63 and queue 0 of slice 0. -/
theorem witness_WalksAndSlots :
    let w : WalkEntry := { die := 0, tag := 0, next := 1, total := 1, saved := 0, bound := 0 }
    let s := ({ State.with (State.with both 1#4 0#64) 2#4 0x2000#64 with coaches := [], walkers := [w] }).pmSetBits 0 0x3FC00 1 0 2
    let t := State.with (State.with (withQueue (world onDray0)) 1#4 0#64) 2#4 63#64
    s.Issues (sysWord 2 (some rightPreempt)) (.walksave k0 3#4 1#4 2#4) k0 ∧
      s.Issues (sysWord 2 (some rightPreempt)) (.walkload k0 3#4 1#4 2#4) k0 ∧ bits (s.reg 1#4) 63 16 = 0 ∧
      (s.reg 2#4).toNat % 64 = 0 ∧ (s.namedLaunch 0).isSome = true ∧ s.walker 0 0 = some w ∧ s.preState 0 0 = 2 ∧
      s.coaches = [] ∧ (s.probe .write (linePieces 0x2000 64)).isNone = true ∧ s.pois 1#4 = false ∧
      t.Issues (sysWord 2 (some rightQueue)) (.qmap k0 3#4 1#4 2#4) k0 ∧ t.Names (t.reg 1#4) 0 0 ∧
      t.sliceOnDie 0 0 = true ∧ t.mappedTo 0 0 = none ∧ (t.slot 0 63).queue = none ∧ t.slotLaunches 0 63 = [] ∧
      t.mayUse (some rightQueue) = true ∧ (hwDone (t.readQueue 0 0 0)).isSome = true ∧
      t.Issues (sysWord 2 (some rightQueue)) (.qunmap k0 3#4 1#4) k0 :=
  ⟨issues_of (by decide +kernel), issues_of (by decide +kernel), by decide +kernel, by decide +kernel, by decide +kernel,
    by decide +kernel, by decide +kernel, by decide +kernel, by decide +kernel, by decide +kernel,
    issues_of (by decide +kernel), names_dray 0 0 (by decide +kernel) (by decide +kernel) (by decide +kernel),
    by decide +kernel, by decide +kernel, by decide +kernel, by decide +kernel, by decide +kernel, by decide +kernel,
    issues_of (by decide +kernel)⟩

/-- An image of counts in private memory, and the views of a coach at rest. -/
theorem witness_Exchanges :
    let s := (State.with (State.with both 1#4 1#64) 2#4 0x2000#64).updCoach 0 (fun c => { c with held := some 2 })
    s.Issues (sysWord 2 (some rightSched)) (.semmap k0 3#4 1#4 2#4) k0 ∧
      s.Issues (sysWord 2 (some rightSched)) (.barmap k0 3#4 1#4 2#4) k0 ∧ bits (s.reg 1#4) 63 14 = 0 ∧
      bits (s.reg 1#4) 4 1 = 0 ∧ bit (s.reg 1#4) 0 = true ∧ (s.reg 2#4).toNat % 128 = 0 ∧ (s.resting 0).isSome = true ∧
      (s.quad 0).semWait = [] ∧ s.me.reply = [] ∧ (∃ v, s.loadPieces false 0 (linePieces 0x2000 128) = .ok v ∧
        (!v.me.replyPoison && (v.probe .write (linePieces 0x2000 128)).isNone && v.me.reply.all (fun b => b == 0#8) &&
          ((v.swapCounts 0 v.me.reply).1.storePieces pmStore 0 none 0x2000 (v.swapCounts 0 v.me.reply).2
            (linePieces 0x2000 128)).toOption.isSome) = true) ∧
      s.masterOk (s.caller 0 0) (.coach 0 31) = true ∧ mayExchange s (s.caller 0 0) 0 = true ∧ s.barWaiting 511 = false :=
  ⟨issues_of (by decide +kernel), issues_of (by decide +kernel), by decide +kernel, by decide +kernel, by decide +kernel,
    by decide +kernel, by decide +kernel, by decide +kernel, by decide +kernel, except_and (by decide +kernel),
    by decide +kernel, by decide +kernel, by decide +kernel⟩

/-- Slices 63 and 64, domains 15 and 16, and window 63 of domain 15 with its words in private memory. -/
theorem witness_Invalidations :
    let s := State.with (State.with onDray0 1#4 0xF3F#64) 2#4 0x2000#64
    let t := State.with onDray0 2#4 63#64
    s.Issues (sysWord 0 none) (.winset k0 1#4 2#4) k0 ∧ bits (s.reg 1#4) 63 12 = 0 ∧ bits (s.reg 1#4) 7 6 = 0 ∧
      (s.reg 2#4).toNat % 16 = 0 ∧ windowWf (s.pmWord 0 0x2000) (s.pmWord 0 0x2008) = true ∧ s.me.reply = [] ∧
      t.Issues (sysWord 2 (some rightMap1)) (.s1invSlice k0 2#4) k0 ∧ (t.reg 2#4).toNat < 64 ∧ 16 ≤ (t.reg 2#4).toNat ∧
      t.Issues (sysWord 1 (some rightMap2)) (.s2invDomain k0 2#4) k0 ∧ (t.caller 0 0).has t 63 = true ∧
      ownsDomain (t.caller 0 0).level (t.caller 0 0).served 15 = true ∧
      t.Issues (sysWord 2 (some rightMap1)) (.s1inv k0) k0 ∧ t.Issues (sysWord 1 (some rightMap2)) (.s2inv k0) k0 ∧
      s.pois 1#4 = false ∧ s.pois 2#4 = false :=
  ⟨issues_of (by decide +kernel), by decide +kernel, by decide +kernel, by decide +kernel, by decide +kernel,
    by decide +kernel, issues_of (by decide +kernel), by decide +kernel, by decide +kernel, issues_of (by decide +kernel),
    by decide +kernel, by decide +kernel, issues_of (by decide +kernel), issues_of (by decide +kernel), by decide +kernel,
    by decide +kernel⟩

theorem witness_RightsMasks :
    let s := State.with (State.with onDray0 1#4 0x13F#64) 2#4 0xFFFF#64
    s.Issues (sysWord 1 (some rightDelegate)) (.rights k0 3#4 1#4 2#4) k0 ∧ rightsTarget (s.reg 1#4) = some (true, 63) ∧
      rightsTarget 15#64 = some (false, 15) ∧ rightsTarget 16#64 = none ∧ (s.reg 2#4).toNat < 2 ^ 16 ∧
      (s.reg 2#4).setWidth 16 &&& ~~~ (s.effRights 0 (s.caller 0 0).level (s.caller 0 0).served) = 0#16 ∧
      (s.caller 0 0).level = 0 ∧ s.Issues (sysWord 1 (some rightDelegate)) (.rightsRead k0 3#4 1#4) k0 ∧
      s.pois 1#4 = false ∧ s.pois 2#4 = false :=
  ⟨issues_of (by decide +kernel), by decide +kernel, by decide, by decide, by decide +kernel, by decide +kernel,
    by decide +kernel, issues_of (by decide +kernel), by decide +kernel, by decide +kernel⟩

/-- Function 255, slice 63, and an image of zeros for the tables of domain 0 in the mapped memory. -/
theorem witness_SliceTables :
    let s := State.with (State.with (world onDray0) 1#4 0x1FF#64) 2#4 0x40000#64
    let t := State.with s 1#4 0x100#64
    s.Issues (sysWord 1 (some rightFeat)) (.fmask k0 3#4 1#4 2#4) k0 ∧ (s.reg 1#4).toNat / 256 = 1 ∧
      (s.caller 0 0).level = 0 ∧ (State.with s 1#4 63#64).Issues (sysWord 1 (some rightTimeofs)) (.timeofs k0 3#4 1#4 2#4) k0 ∧
      (s.caller 0 0).has s 63 = true ∧ t.Issues (sysWord 1 (some rightIdmap)) (.idmap k0 1#4 2#4) k0 ∧
      bits (t.reg 1#4) 63 9 = 0 ∧ bits (t.reg 1#4) 7 6 = 0 ∧ bit (t.reg 1#4) 8 = true ∧ (t.reg 2#4).toNat % 8 = 0 ∧
      (hwDone (t.hwWords { t.hwWho 0 0 with domain := 0 } true 0x40000 (List.range 32)).1).isSome = true ∧
      s.pois 1#4 = false ∧ s.pois 2#4 = false :=
  ⟨issues_of (by decide +kernel), by decide +kernel, by decide +kernel, issues_of (by decide +kernel), by decide +kernel,
    issues_of (by decide +kernel), by decide +kernel, by decide +kernel, by decide +kernel, by decide +kernel,
    by decide +kernel, by decide +kernel, by decide +kernel⟩

/-- R457's example of ENSET, KATSET with the largest fields, and SLOTW of one entry. -/
theorem witness_DieTables :
    let s := State.with (State.with onDray0 1#4 5#64) 2#4 0x0001388000009C40#64
    let t := State.with (State.with onDray0 1#4 0x6FFFF#64) 2#4 0x7F#64
    let u := (State.with (State.with onDray0 1#4 0#64) 2#4 0x2000#64).pmSetWord 0 0x2000 1#64
    let v := { onDray0.updDie 0 (fun x => { x with slotNew := [(0, 0, 0#32, 0)] }) with tsc := 1000#64 }
    s.Issues (sysWord 1 (some rightEnergy)) (.enset k0 3#4 1#4 2#4) k0 ∧ bits (s.reg 1#4) 63 9 = 0 ∧
      bits (s.reg 1#4) 7 6 = 0 ∧ bit (s.reg 1#4) 8 = false ∧ (s.caller 0 0).has s 5 = true ∧
      t.Issues (sysWord 0 none) (.katset k0 3#4 1#4 2#4) k0 ∧ bits (t.reg 1#4) 63 19 = 0 ∧ bits (t.reg 1#4) 18 16 ≠ 7 ∧
      bits (t.reg 2#4) 62 7 = 0 ∧ u.Issues (sysWord 2 (some rightSlottab)) (.slotw k0 3#4 1#4 2#4) k0 ∧
      bits (u.reg 1#4) 63 14 = 0 ∧ bits (u.reg 1#4) 11 4 = 0 ∧ bits (u.reg 1#4) 3 0 ≠ 7 ∧ u.me.granted = false ∧
      u.slotsWait 0 0 = false ∧ (∃ es, u.slotImage 0 0x2000 = .ok es ∧ (es == [(0, 0)]) = true) ∧
      (u.die 0).slotNew = [] ∧ (v.die 0).slotNew = [(0, 0, 0#32, 0)] ∧ v.frameOver 0 = true :=
  ⟨issues_of (by decide +kernel), by decide +kernel, by decide +kernel, by decide +kernel, by decide +kernel,
    issues_of (by decide +kernel), by decide +kernel, by decide +kernel, by decide +kernel, issues_of (by decide +kernel),
    by decide +kernel, by decide +kernel, by decide +kernel, by decide +kernel, by decide +kernel,
    except_and (by decide +kernel), by decide +kernel, by decide +kernel, by decide +kernel⟩

/-- Set 0xFFFF of slice 63: missing, with an empty copy, and with a verified copy that a swap makes active. -/
theorem witness_WeightSets :
    let s := State.with onDray0 1#4 0x3F000000FFFF#64
    let t := { s with wsets := [{ slice := 63, handle := 0xFFFF, a := { WCopy.reset with st := .verified }, b := WCopy.reset }] }
    s.Issues (sysWord 2 (some rightWeight)) (.wset k0 3#4 1#4 2#4) k0 ∧ bits (s.reg 1#4) 63 46 = 0 ∧
      bits (s.reg 1#4) 39 32 = 0 ∧ bits (s.reg 1#4) 19 17 = 0 ∧ bits (s.reg 1#4) 15 0 = 0xFFFF ∧ bits (s.reg 1#4) 31 20 = 0 ∧
      bits (s.reg 1#4) 45 40 = 63 ∧ s.wsetOf 63 0xFFFF = none ∧ (s.caller 0 0).has s 63 = true ∧
      t.Issues (sysWord 2 (some rightWeight)) (.wswap k0 3#4 1#4) k0 ∧
      (∃ w, t.wsetOf 63 0xFFFF = some w ∧ w.swap.isSome = true) ∧ bit (t.reg 1#4) 16 = false ∧
      t.Issues (sysWord 2 (some rightWeight)) (.wsetFree k0 3#4 1#4) k0 :=
  ⟨issues_of (by decide +kernel), by decide +kernel, by decide +kernel, by decide +kernel, by decide +kernel,
    by decide +kernel, by decide +kernel, by decide +kernel, by decide +kernel, issues_of (by decide +kernel),
    some_and (by decide +kernel), by decide +kernel, issues_of (by decide +kernel)⟩
/-- A descriptor: type 0 (32-bit) in a space at a base, with an extent of one row. -/
def descAt (space base dim0 : Nat) : Desc :=
  { Desc.zero with w0 := word (space * 2 ^ 56 + base), w1 := word dim0 }

/-- The X stream with descriptor 1 in ABUF and descriptor 2 in global memory, and the L stream with them. -/
def onXd : State := (onX.setDesc 1 (descAt 1 0 32)).setDesc 2 (descAt 0 0x40000 32)
def onLd : State := (onL.setDesc 1 (descAt 1 0 32)).setDesc 2 (descAt 0 0x40000 32)

theorem witness_VectorWords :
    onX.Issues (xWord [] true) (.vadd k0 1#6 3#6 8#6 0#3) k0 ∧ onX.Issues (xWord [7] true) (.vexp2 k0 1#6 3#6) k0 ∧
      onX.Issues (xWord [] true) (.setm k0 7#3) k0 ∧ onX.Issues (xWord [11] true) (.vdrain k0) k0 ∧
      ∃ c, onX.myCoach? = some c ∧ (tilesDeclared onX c [1#6, 3#6, 8#6] && decide (c.unit.length < 2) && !c.checkerFull) =
        true :=
  ⟨issues_of (by decide +kernel), issues_of (by decide +kernel), issues_of (by decide +kernel), issues_of (by decide +kernel),
    some_and (by decide +kernel)⟩

/-- A vector instruction of the unit. -/
def vecOp (i : Instr) (started : Bool) : VecOp :=
  { ins := i, desc := Desc.zero, sval := 0#64, spois := false, pc := 0#64, push := 0, seq := 0, extents := [],
    started := started, loops := [] }

theorem witness_VectorResults :
    let s := onX.updCoach 0 (fun c => { c with unit := [vecOp (.vadd k0 1#6 3#6 8#6 0#3) true] })
    let t := onX.updCoach 0 (fun c => { c with unit := [vecOp (.mpopc k0 5#4 7#3) false] })
    (∃ c, s.coach? 0 = some c ∧ (c.unit.map (fun o => o.started) == [true] && !c.pushHeld 2 0) = true) ∧
      (∃ c, t.coach? 0 = some c ∧ c.vecReady.isSome = true) ∧ 31 < laneCount 0#3 * 32 ∧ laneCount 6#3 = 4 :=
  ⟨some_and (by decide +kernel), some_and (by decide +kernel), by decide, by decide⟩

theorem witness_TileMoves :
    let s := onXd.updCoach 0 (fun c => { c with unit := [{ vecOp (.vdefer k0 1#6 2#6 0#4 0#3) false with desc := descAt 0 0x40000 32 }] })
    onXd.Issues (xWord [] true) (.vld k0 1#6 1#6 0#4 0#3) k0 ∧ onXd.pois 0#4 = false ∧
      (∃ c, onXd.myCoach? = some c ∧ (tileMoveCheck onXd c (c.desc 1) 1#6 0#3 [spAbuf, spAcc] 0#64 == none &&
        decide (c.unit.length < 2) && !c.checkerFull && (c.desc 1).check1 && c.defer.isEmpty) = true) ∧
      onX.Issues (xWord [8] true) (.vcvt k0 1#6 3#6 5#3 0#2 0#4) k0 ∧
      (∃ c, s.myCoach? = some c ∧ (c.unit.all (fun o => !c.blocked o.seq o.extents && (s.snapshot c o 1#6 0#3).poison == 0#32) &&
        decide (c.defer.length < 4) && c.deferPark.isNone) = true) :=
  ⟨issues_of (by decide +kernel), by decide +kernel, some_and (by decide +kernel), issues_of (by decide +kernel),
    some_and (by decide +kernel)⟩

/-- The X stream with a deferred store that stands at a row. -/
def deferAt (row : Nat) (hit : Option (Word × Word)) : State :=
  onX.updCoach 0 (fun c => { c with defer := [{ onX.snapshot c (vecOp (.vdefer k0 1#6 2#6 0#4 0#3) false) 1#6 0#3 with
    progress := row, sent := 100, hit := hit }] })

/-- A deferred store whose rows have all been written, and its last row, with a watchpoint on it and without. -/
theorem witness_Deferred :
    let s := deferAt 32 none
    let row := fun (hit : Option (Word × Word)) => ∃ c, (deferAt 31 hit).myCoach? = some c ∧
      c.defer.all (fun h => h.poison == 0#32 && decide (h.progress = 31) && decide ((h.pieces h.progress).length ≤ h.sent) &&
        !(deferAt 31 hit).deferPending 0 h.seq && h.hit == hit) = true
    (∃ c, s.myCoach? = some c ∧ (c.deferPark.isNone && !c.deferFrozen && !c.frozen &&
      c.defer.all (fun h => h.poison == 0#32 && decide (32 ≤ h.progress) && !s.deferPending 0 h.seq && !c.pushHeld 2 h.push)) =
        true) ∧ s.boot.halted = false ∧ row none ∧ row (some (0#64, 0#64)) :=
  ⟨some_and (by decide +kernel), by decide +kernel, some_and (by decide +kernel), some_and (by decide +kernel)⟩

/-- A VATOM before its first lane, one between lanes that the range checker lets on, and one whose push waits. -/
theorem witness_VectorAtomics :
    let s := (world onXd).updQuad 0 (fun x => { x with masks := [(0, 0#1024)] })
    let on := (s.updCoach 0 (fun c => { c with vatom := some (descAt 0 0x40000 32, 0#64) })).updCoach 0 (fun c =>
      c.spmEnter 9 [tileExtent 1#6 true true])
    let done := s.updMe (fun st => { st with granted := true })
    s.Issues (xWord [10] true) (.vatomAdd k0 1#6 2#6 0#4 0#3) k0 ∧ s.pois 0#4 = false ∧ s.cur = .coach 0 9 ∧
      s.me.granted = false ∧ on.Issues (xWord [10] true) (.vatomAdd k0 1#6 2#6 0#4 0#3) k0 ∧
      (∃ c, on.myCoach? = some c ∧ (c.vatom.isSome && (c.spmSeq 9).any (fun n => !c.blocked n [tileExtent 1#6 true true])) =
        true) ∧ done.Issues (xWord [10] true) (.vatomAdd k0 1#6 2#6 0#4 0#3) k0 ∧ done.me.granted = true ∧
      (∃ c, s.myCoach? = some c ∧ (vatomCheck s c (c.desc 2) 1#6 0#3 0#64 == none && c.unit.isEmpty && c.spmSeq 9 == none &&
        c.vatom.isNone && !c.checkerFull && c.entries.isEmpty && !c.pushHeld 2 0) = true) :=
  ⟨issues_of (by decide +kernel), by decide +kernel, by decide +kernel, by decide +kernel, issues_of (by decide +kernel),
    some_and (by decide +kernel), issues_of (by decide +kernel), by decide +kernel, some_and (by decide +kernel)⟩

/-- The checksum of a family's floor test folded into the array of the task's quadrant, so that the test finds 0 there. -/
def withDefect (v : Word) : State := onX.updQuad 0 (fun x => { x with defect := v })

theorem withDefect_defect (v : Word) : ((withDefect v).quad 0).defect = v := rfl

def katZero : State := withDefect (katChecksum 6#3 (5#18).toNat)

theorem katZero_defect : katChecksum 6#3 (5#18).toNat ^^^ (katZero.quad 0).defect = 0#32 ++ 0#32 := by
  rw [katZero, withDefect_defect, BitVec.xor_self]
  decide

theorem witness_MatrixWords :
    let s := onX.setDesc 3 (descAt 3 0 32)
    let bad := onX.updCoach 0 (fun c => { c with kat := some 1#64 })
    s.Issues (xWord [] true) (.mzero k0 3#6) k0 ∧ s.Issues (xWord [] false) (.mwait k0 8#4) k0 ∧
      s.Issues (xWord [] false) (.mstatRetired k0 3#4) k0 ∧
      (∃ c, s.myCoach? = some c ∧ (c.kat.isNone && mzeroCheck c (c.desc 3) == none && decide (c.matq.length < 8) &&
        !c.checkerFull && c.matq.isEmpty) = true) ∧
      s.Issues { xWord (familyFeature 6#3) false with words := 3 } (.mkat k0 5#18 6#3 7#32 9#32) k0 ∧
      bad.Issues (xWord (familyFeature 0#3) true) (.mwld k0 3#6 0#3) k0 ∧ (∃ c, bad.myCoach? = some c ∧ c.kat.isSome = true) ∧
      katZero.Issues { xWord (familyFeature 6#3) false with words := 3 } (.mkat k0 5#18 6#3 0#32 0#32) k0 ∧
      (∃ c, katZero.myCoach? = some c ∧ (c.quads == [0] && c.kat.isNone && c.matq.isEmpty) = true) ∧
      katChecksum 6#3 (5#18).toNat ^^^ (katZero.quad 0).defect = 0#32 ++ 0#32 ∧
      katChecksum 6#3 (5#18).toNat ^^^ (katZero.quad 0).defect ≠ 0#32 ++ 1#32 :=
  ⟨issues_of (by decide +kernel), issues_of (by decide +kernel), issues_of (by decide +kernel), some_and (by decide +kernel),
    issues_of (by decide +kernel), issues_of (by decide +kernel), some_and (by decide +kernel), issues_of (by decide +kernel),
    some_and (by decide +kernel), katZero_defect, by rw [katZero_defect]; decide⟩
/-- An MZERO that runs on the first 128 bytes of ACC, and an MMA that has no weight set. -/
theorem witness_MatrixQueue :
    let zero : MatOp := { newMatOp opMzero 0#3 Desc.zero Desc.zero (descAt 3 0 32) Desc.zero false 0#64 0 0 with started := true }
    let mma := newMatOp opMma 0#3 (descAt 1 0 32) Desc.zero (descAt 3 0 32) Desc.zero false 0#64 0 0
    let s := onX.updCoach 0 (fun c => { c with matq := [zero] })
    let t := onX.updCoach 0 (fun c => { c with matq := [mma] })
    let u := onX.updCoach 0 (fun c => { c with matq := [{ zero with done := true }] })
    let set : WeightSet := { family := 0#3, kw := 32, nw := 32, ty := 5, scaled := false, elems := [], scales := [], poison := false }
    let v := onX.updCoach 0 (fun c => { c with matq := [mma], setA := some set, setB := some set })
    (∃ c, s.coach? 0 = some c ∧ (c.runningMat == some zero && c.matPark.isNone && !c.matFrozen && !c.froze &&
        decide (zero.c.base + zero.c.extentLen ≤ c.bufSize .acc)) = true) ∧
      (∃ c, t.coach? 0 = some c ∧ (t.nextMat c == some mma && c.nextSet.isNone) = true) ∧
      (∃ c, v.coach? 0 = some c ∧ (v.nextMat c == some mma && c.nextSet == some set && mma.a.dim0 == 32 && mma.c.dim0 == 32) =
        true) ∧
      (∃ c, u.coach? 0 = some c ∧ (c.matq.all (fun h => h.done && !c.pushHeld h.stream h.push)) = true) ∧
      (∃ c, onX.coach? 0 = some c ∧ (onX.nextMat c).isNone = true) :=
  ⟨some_and (by decide +kernel), some_and (by decide +kernel), some_and (by decide +kernel), some_and (by decide +kernel), some_and (by decide +kernel)⟩

theorem witness_CopyWords :
    onLd.Issues (lsWord [] true) (.cpy k0 1#6 2#6 0#4 0#4) k0 ∧ onLd.Issues (lsWord [] true) (.cfill k0 1#6 0#4 0#4 1#1) k0 ∧
      onLd.Issues (lsWord [] false) (.cwait k0 31#5) k0 ∧
      onLd.Issues { lsWord (followFeatures (.mwld k0 1#6 0#3)) true with words := 2 }
        (.cpyc k0 1#6 2#6 0#4 0#4 (.mwld k0 1#6 0#3)) k0 ∧
      onLd.Issues (lsWord [17] true) (.cpyh k0 0#6 2#6 0#4 0#4 0#1) k0 ∧ (onLd.pois 0#4 || onLd.pois 0#4) = false ∧
      (∃ c, onLd.myCoach? = some c ∧
        (let o := moveCmd (.cpy k0 1#6 2#6 0#4 0#4) 0x40 1#6 2#6 0#4 0#4 k0 onLd c
         !badPolicy o.pol && copyCheck onLd c o 0#4 == none && decide (c.copyq.length < 32) && !c.checkerFull &&
           c.kat.isNone) = true) ∧ badPolicy 0xFFFFFFFF#32 = true :=
  ⟨issues_of (by decide +kernel), issues_of (by decide +kernel), issues_of (by decide +kernel), issues_of (by decide +kernel),
    issues_of (by decide +kernel), by decide +kernel, some_and (by decide +kernel), by decide⟩

/-- Endpoint 7 unbound; and bound by an accepted CQBIND. -/
theorem witness_CarriageWords :
    let s := onLd.updCoach 0 (fun c => c.acceptEndp 7 1)
    onLd.Issues (lsWord [18] true) (.cqbindSend k0 7#3 2#6 0#4) k0 ∧ onLd.Issues (lsWord [18] true) (.cqunbDrain k0 7#3) k0 ∧
      (∃ c, onLd.myCoach? = some c ∧ ((c.endp 7).accepted == 0 && !(c.endp 7).bound && decide (c.copyq.length < 32)) = true) ∧
      (∃ c, s.myCoach? = some c ∧ ((c.endp 7).accepted != 0 && !c.checkerFull) = true) ∧
      s.Issues (lsWord [18] true) (.cqsend k0 7#3 1#6 0#4) k0 ∧ s.Issues (lsWord [18] false) (.cqstatRows k0 7#3 3#4) k0 ∧
      s.pois 0#4 = false :=
  ⟨issues_of (by decide +kernel), issues_of (by decide +kernel), some_and (by decide +kernel), some_and (by decide +kernel),
    issues_of (by decide +kernel), issues_of (by decide +kernel), by decide +kernel⟩

/-- The running strand parked on a wait. -/
def parkedOn (s : State) (w : Wait) : State := s.updMe (fun st => { st with run := .parked w })

/-- How long a thread has waited, at least. -/
def waited (s : State) (st : Strand) (ns : Nat) : Bool := decide (ns ≤ (s.tsc - st.since).toNat)

def popWait : State := { parkedOn onK (.token 3) with tsc := 10000000#64 }

/-- The S stream has pushed the token that strand 0 waits for. -/
def popDue : State := popWait.updCoach 0 (fun c => c.pushToken 3 0)

/-- The divider has the result of strand 0. -/
def divided : State := (parkedOn onK .divide).updStream (.coach 0 0) (fun t => { t with divider := [0] })

def barWait : State :=
  let s := parkedOn (world onK) (.barrier 0)
  { s with tsc := word (barLimit (s.bar 0) + 1) }

/-- A WAITE whose limit of 0 clocks has passed, a POP whose token has come, one that has waited 10 ms, a divide, a JOIN on an idle strand, and a barrier wait past its
limit. -/
theorem witness_WaitEnds :
    let s := parkedOn onK (.event 1#4 (some (0#64, 0#64)))
    (s.strand? (.coach 0 0)).map (fun st => st.run) = some (.parked (.event 1#4 (some (0#64, 0#64)))) ∧
      (s.clocks - 0#64).toNat = 0 ∧
      (∃ st, popWait.strand? (.coach 0 0) = some st ∧ (st.run == .parked (.token 3) && waited popWait st 10000000 &&
        !popWait.tokenHeld (.coach 0 0)) = true) ∧
      (∃ st, popDue.strand? (.coach 0 0) = some st ∧ (st.run == .parked (.token 3) &&
        popDue.waitOver (.coach 0 0) st (.token 3)) = true) ∧
      (∃ st, divided.strand? (.coach 0 0) = some st ∧ (st.run == .parked .divide &&
        divided.waitOver (.coach 0 0) st .divide) = true) ∧
      (∃ st, onK.strand? (.coach 0 0) = some st ∧ onK.waitOver (.coach 0 0) st (.join 7) = true) ∧
      (∃ c, barWait.coach? 0 = some c ∧ (barWait.barrier c 0 == some 0) = true) ∧
      (∃ st, barWait.strand? (.coach 0 0) = some st ∧ (st.run == .parked (.barrier 0) && !st.granted &&
        waited barWait st (barLimit (barWait.bar 0) + 1)) = true) :=
  ⟨by decide +kernel, by decide +kernel, some_and (by decide +kernel), some_and (by decide +kernel),
    some_and (by decide +kernel), some_and (by decide +kernel), some_and (by decide +kernel), some_and (by decide +kernel)⟩

/-- A task that may start, one whose point has been drained, and a launch that a die may bind. -/
theorem witness_Tasks :
    let s := (world onK).updCoach 0 (fun c => { c with phase := .loading })
    let idle := (world onK).updStrand (.coach 0 0) (fun st => { st with run := .idle })
    (∃ c, s.coach? 0 = some c ∧ (c.phase != .running && c.held.isNone && !c.frozen && s.codeReady c &&
        (s.launch? c.tag).any (fun l => s.mayStart l 0)) = true) ∧
      (∃ c, idle.coach? 0 = some c ∧ (idle.drained c && !c.frozen && c.held.isNone) = true) ∧ (s.quad 0).swap = false ∧
      ((s.setQuad 0 Quadrant.reset).quad 0).owner false ≠ some 0 ∧
      (s.die 0).winStart = 0#64 :=
  ⟨some_and (by decide +kernel), some_and (by decide +kernel), by decide +kernel, by decide +kernel, by decide +kernel⟩

/-- A launch that no coach runs yet is picked. -/
theorem witness_WalkerPick :
    let s := ({ world onK with coaches := [] }).updLaunch 0 (fun l => { l with ready := true })
    let u := s.updLaunch 0 (fun l => { l with hdr := l.hdr ++ List.replicate 14 0#64 ++ [0x40000#64, 64#64] })
    (∃ p, s.pick 0 = some p ∧ ((s.leadFor p.1 0).isSome && (lnrClaims p.1.hdr).isEmpty) = true) ∧
      ∃ p, u.pick 0 = some p ∧ (lnrClaims p.1.hdr)[p.1.claims.length]?.isSome = true :=
  ⟨some_and (by decide +kernel), some_and (by decide +kernel)⟩
/-- Function 0 as slice 0's, a notify on its way, a pending queue that a scan is asked for, and a launch that may become ready. -/
def withPslice (s : State) : State := s.updFn 0 (fun f => { f with pslice := 0x8000000000000000#64 })

def notified : State := { withPslice (withQueue (world onDray0)) with notes := [(0, 0, 0)] }

def pendingQueue : State := (putWords notified 0x210000 [1#64]).updDie 0 (fun x => { x with scans := [none] })

def unready : State := (world onK).updLaunch 0 (fun l => { l with ready := false })

theorem witness_QueueEvents :
    notified.fnSlice 0 = some 0 ∧ (notified.fn 0).frozen = false ∧ notified.migState 0 ≠ 1 ∧
      notified.notes.find? (fun n => n.1 == 0 && n.2.1 == 0) = some (0, 0, 0) ∧
      (∃ u e, notified.readQueue 0 0 0 = .ok u e ∧ (e.en && !e.bad && (u.mappedTo 0 0).isNone &&
        (hwDone (u.makePending 0 0 0 e)).isSome) = true) ∧
      (∃ p, pendingQueue.scanPick 0 = some p ∧ (p.1 == 0 && p.2.1 == 0 && !p.2.2.bad) = true) ∧
      pendingQueue.freeSlot 0 = some 0 ∧
      (∃ l, unready.launch? 0 = some l ∧ unready.mayBeReady l = true) ∧
      pendingQueue.freeTagOf 0 = some 0 ∧ (pendingQueue.die 0).scans.length = 1 ∧ (notified.die 0).scans = [] ∧
      pendingQueue.sliceV 0 0 = true ∧ (pendingQueue.candidate 0 0 0).isSome = true ∧
      (∃ p, pendingQueue.scanPick 0 = some p ∧ (pendingQueue.mapQueue 0 0 0 0 false p.2.2).isSome = true) :=
  ⟨by decide +kernel, by decide +kernel, by decide +kernel, by decide +kernel, hw_and (by decide +kernel),
    some_and (by decide +kernel), by decide +kernel, some_and (by decide +kernel), by decide +kernel, by decide +kernel, by decide +kernel,
    by decide +kernel, by decide +kernel, some_and (by decide +kernel)⟩

/-- A slot that has taken a queue, and the first two words of its ring. -/
def taken : State :=
  putWords (pendingQueue.updSlot 0 0 (fun x => { x with queue := some (0, 0), tail := 1#32 })) 0x220000 [0x230000#64, 0#64]

theorem witness_SlotTake :
    (taken.slot 0 0).queue = some (0, 0) ∧ (taken.slot 0 0).taken = [] ∧ taken.tagFor 0 0 = some 0 ∧
      (taken.slot 0 0).told = false ∧
      (taken.slot 0 0).behind 4 ≠ 0 ∧ (∃ u e, taken.readQueue 0 0 0 = .ok u e ∧
        (e.en && !e.bad && e.log == 4 && (hwDone (u.hwWords (u.hwWho 0 0) false e.ring [0, 1, 2, 3]).1).isSome) = true) ∧
      ringFail [0x230000#64, 0#64, 0#64, 0#64] = none :=
  ⟨by decide +kernel, by decide +kernel, by decide +kernel, by decide +kernel, by decide +kernel, hw_and (by decide +kernel),
    by decide⟩

/-- A write of a launch at its home, and one that waits on a launch that has gone. -/
def homeReq : HomeReq := { parkedReq onK (.coach 0 0) 0 0x1000 0 0 .thread with mask := 1#64, id := 0 }

def staging : State := { world onK with homeq := [homeReq] }

def waiting : State := { world onK with waiting := [{ req := homeReq, owners := [], since := 0#64 }] }

def finished : State :=
  (({ world onK with coaches := [] }).updLaunch 0 (fun l => { l with ready := true })).setTag 0 { st := .pending, gen := 0#4 }

def promoting : State := finished.updLaunch 0 (fun l => { l with promoting := true, acks := 7#4 })

def aborting : State :=
  ((world onK).updLaunch 0 (fun l => { l with cause := 0x0502#16, acks := 7#4 })).setTag 0 { st := .aborting, gen := 0#4 }

theorem witness_Commits :
    staging.homeq.find? (fun x => x.id == 0) = some homeReq ∧ homeReq.staging = true ∧ staging.inOrder homeReq = true ∧
      homeReq.tag = some (0, 0#4) ∧ (∃ l, staging.currentAttempt (0, 0#4) = some l ∧ (!l.irrev && !l.promoting &&
        (staging.stagers l.tag 0x1000 1#64 ++ staging.claimers (some l.tag) 0x1000 1#64).isEmpty &&
        1#64 &&& l.claimMask 0x1000 == 0#64 && staging.hasRoom l 0x1000) = true) ∧
      (∃ w, waiting.waiting.find? (fun w => w.req.id == 0) = some w ∧ (waiting.mayRetry w && !waiting.behind w) = true) ∧
      (∃ l, finished.launch? 0 = some l ∧ (!l.acks.getLsbD 3 && (finished.tag 0).st == .pending) = true) ∧
      (∃ l, promoting.launch? 0 = some l ∧ (l.promoting && !l.acks.getLsbD 3 && l.acks ||| (1#4 <<< 3) == 15#4) = true) ∧
      (∃ l, aborting.launch? 0 = some l ∧ (aborting.aborting l && !l.acks.getLsbD 3 && l.acks ||| (1#4 <<< 3) == 15#4 &&
        retried l.cause.toNat && decide (l.attempt < aborting.sliceRetry 0 0) && !l.irrev && !l.opened) = true) :=
  ⟨by decide +kernel, by decide +kernel, by decide +kernel, by decide +kernel, some_and (by decide +kernel),
    some_and (by decide +kernel), some_and (by decide +kernel), some_and (by decide +kernel), some_and (by decide +kernel)⟩

/-- A plain write at its home, an atomic of a memory-side unit, and a second corrected error of line 0. -/
theorem witness_HomeUnits :
    let plain := { homeReq with tag := none }
    let atom := { plain with atom := some { op := .add, off := 56, bytes := 8, v := 0, cmp := 0, sem := 0, scope := 0 } }
    let s := { world onK with homeq := [plain] }
    let t := { world onK with homeq := [atom] }
    let u := { onDray0 with eccSeen := [(0, 0#64)] }
    let walk : Walk :=
      { cluster := 0, quad := 0, slice := 0, page := 0x40, kind := .read, running := true, ended := false, ue := false }
    let v := { world onK with walks := [walk] }
    let w := v.walkWho 0 0
    s.homeq.find? (fun r => r.id == 0) = some plain ∧ s.inOrder plain = true ∧ plain.atom = none ∧ plain.memSide = false ∧
      t.homeq.find? (fun r => r.id == 0) = some atom ∧ t.inOrder atom = true ∧
      apertureOf 0 = .hbm ∧ bit (u.pmWord 0 0x3F108) 0 = true ∧ u.repair.any (fun r => r.1 == 0) = false ∧
      u.eccSeen.any (fun e => e.1 == 0) = true ∧ u.held 0 = false ∧ (u.die 0).moves = [] ∧
      v.walks.find? (fun x => x.running && x.isFor 0 0 0x40) = some walk ∧
      (∃ x, v.walkNow w 0x40000 1 .read = .ok x ∧ x.entry.isSome = true) ∧
      (s.coachHolding 0).isSome = true :=
  ⟨by decide +kernel, by decide +kernel, by decide +kernel, by decide +kernel, by decide +kernel, by decide +kernel, by decide,
    by decide +kernel, by decide +kernel, by decide +kernel, by decide +kernel, by decide +kernel, by decide +kernel,
    except_and (by decide +kernel), by decide +kernel⟩

/-- A record for level 80 of die 0 whose entry routes it to strand 0, and one for BOOTSTAT. -/
def routed (level : Nat) : State :=
  let r := mkRecord onDray0 (threadHandle (.dray 0 1)) 0#64 0x0201 false 0#64 0#64 0#16 0 0
  { (onDray0.pmPut 0 0x3A000 (List.replicate 16 0x80#8)) with
    faults := [{ id := 0, body := r, level := level, die := 0, waiting := false }] }

theorem witness_Deliveries :
    (∃ p, (routed 81).faults.find? (fun f => f.id == 0 && !f.waiting) = some p ∧ (!p.body.info && p.body.code != 0x0A03#16 &&
        p.level == 81) = true) ∧
      (∃ p, (routed 80).faults.find? (fun f => f.id == 0 && !f.waiting) = some p ∧ (!p.body.info && p.body.code != 0x0A03#16 &&
        (routed 80).routeFrom 0 p.body 80 == 80 &&
        !((routed 80).routeEntry 0 80 p.body.cls).testBit 14) = true) ∧
      (routed 80).ringFits 0 0 = true ∧ (routed 82).boot.state ≠ 5#4 ∧
      (routed 80).pmWord 0 ((routed 80).strandDbase 0 0 + 0x800) - (routed 80).pmWord 0 ((routed 80).strandDbase 0 0 + 0x808) ≠
        64#64 :=
  ⟨some_and (by decide +kernel), some_and (by decide +kernel), by decide +kernel, by decide +kernel, by decide +kernel⟩

/-- A request at rung 2 for slice 0, on a coach at a boundary; and a quadrant whose test is due. -/
def halted : State :=
  ({ world onK with pres := [{ die := 0, slice := 0, began := 0#64, t1 := 0, t2 := 1 }] }).pmSetWord 0 0x3FC00 0x21#64

theorem witness_StopPoints :
    halted.preState 0 0 = 1 ∧ halted.preRung 0 0 = 2 ∧ (halted.preReq 0 0).isSome = true ∧
      (∃ c, halted.coach? 0 = some c ∧ (c.held.isNone && !c.frozen) = true) ∧
      (onDray0.updQuad 0 (fun x => { x with mustPass := true })).katLate 0 = some 0 ∧ onDray0.matrixBusy 0 = false ∧
      onDray0.boot.halted = false :=
  ⟨by decide +kernel, by decide +kernel, by decide +kernel, some_and (by decide +kernel), by decide +kernel,
    by decide +kernel, by decide +kernel⟩

/-- A copy queue with a command that has not started, and one that is empty. -/
theorem witness_CopyQueue :
    let s := onLd.updCoach 0 (fun c => { c with copyq := [moveCmd (.cpy k0 1#6 2#6 0#4 0#4) 0x40 1#6 2#6 0#4 0#4 k0 onLd c] })
    (∃ c, s.coach? 0 = some c ∧ ((c.copyq.find? (fun o => !o.started)).any (fun o => !(s.quiet c || c.copyPark.isSome ||
        c.copyFrozen || c.blocked o.seq o.extents || s.l2sClash c o || c.hashBefore o ||
        c.copyq.any (fun p => decide (p.seq < o.seq) && decide (p.pos < p.total)))) && !c.frozen) = true) ∧
      (∃ c, s.coach? 0 = some c ∧ s.beatRoom c = true) ∧ s.boot.halted = false ∧
      (∃ c, onLd.coach? 0 = some c ∧ ((onLd.ackReady c).isNone && c.passable.isNone && c.following.isNone &&
        c.retiring.isNone) = true) :=
  ⟨some_and (by decide +kernel), some_and (by decide +kernel), by decide +kernel, some_and (by decide +kernel)⟩

/-- Port 0 of die 0 is up, 20 us after its last progress, with a flit to be acknowledged and a credit that is owed. -/
def aFlit : Flit := mkFlit 0 0 0 1 0 0#64 []

def linked : State :=
  { (onDray0.pmSetWord 0 0x3A200 2#64).updPort 0 (fun x => { x with replay := [aFlit], owed := [(0, 1)] }) with tsc := 2000000#64 }

/-- A row that waits at an output whose slot 0 is its circuit's. -/
def rowed : State := linked.updDie 0 (fun x => { x with slotTab := [(0, 0x80000000#32)], rows := [(0, 0, 2000000#64, aFlit)] })

/-- A frame of zeros whose CRC has each of its bits inverted. -/
def badFrame : BitVec 2240 := ~~~ (crc64 (bodyBytes (0#2176))) ++ 0#2176

theorem witness_Frames : badFrame.extractLsb' 2176 64 ≠ crc64 (bodyBytes (badFrame.extractLsb' 0 2176)) := by
  have crc : badFrame.extractLsb' 2176 64 = ~~~ (crc64 (bodyBytes (0#2176))) := BitVec.extractLsb'_append_eq_left
  have body : badFrame.extractLsb' 0 2176 = 0#2176 := BitVec.extractLsb'_append_eq_right
  rw [crc, body]
  intro h
  simpa using congrArg (fun v => v.getLsbD 0) h

theorem witness_Links :
    linked.portState 0 = 2 ∧ aFlit.seq = (linked.port 0).rxSeq ∧ aFlit.seq ≠ (linked.port 1).rxSeq + 1#12 ∧
      (linked.port 0).nakOpen = false ∧ bit aFlit.h1 0 = false ∧ (linked.port 0).replay = [] ++ aFlit :: [] ∧
      aFlit.seq = aFlit.ack ∧ linked.endpsOn false 0#16 = [] ∧ linked.endpsOn true 0#16 = [] ∧
      10000 ≤ (linked.tsc - (linked.port 0).progress).toNat ∧ linked.portState 1 ≠ 2 ∧
      (linked.setPortState 0 1).portState 0 = 1 ∧ 1000000 ≤ (linked.tsc - (linked.port 0).progress).toNat ∧
      (linked.port 0).owed ≠ [] ∧ (linked.port 0).replay.length < 512 ∧
      (∀ r ∈ (rowed.die 0).rows, (rowed.tsc - r.2.2.1).toNat ≤ 320) ∧ slotV (rowed.slotEntry 0 0 0) = true ∧
      (∃ r, (rowed.die 0).rows.find? (fun r => r.1 == 0 && r.2.1 == slotIn (rowed.slotEntry 0 0 0) &&
        bits r.2.2.2.h1 63 48 == slotCirc (rowed.slotEntry 0 0 0)) = some r ∧ (r.1 == 0) = true) ∧
      rowed.portState 0 = 2 ∧ (rowed.port 0).replay.length < 512 :=
  ⟨by decide +kernel, by decide +kernel, by decide +kernel, by decide +kernel, by decide, by decide +kernel, by decide,
    by decide +kernel, by decide +kernel, by decide +kernel, by decide +kernel, by decide +kernel, by decide +kernel,
    by decide +kernel, by decide +kernel, by decide +kernel, by decide +kernel, some_and (by decide +kernel),
    by decide +kernel, by decide +kernel⟩

/-- Grant 0 of domain 0: 4 KiB of slice 0 at 0x40000, for any node. -/
def granting : State :=
  putWords ((world onDray0).pmPut 0 0x3A400 (bytesOf8 0x240001#64 ++ bytesOf8 0x800#64)) 0x240000
    [0xF000000000040000#64, 0x1000#64, 0x8000000000000000#64, 0#64]

def readAsk : Flit := mkFlit 3 0 0 1 0 (word (2 ^ 42)) []
def atomAsk : Flit := mkFlit 6 0 0 1 0 0#64 (List.replicate 17 0#8 ++ [8#8, 0#8])
def grantLines (fl : Flit) (kind : AccessKind) : Option (List (Nat × Nat)) :=
  match granting.linesThrough { die := 0, cluster := 32, slice := 0, domain := 0, plain := false } 0x40000 64 kind (askLines fl) with
  | .ok _ xs => some (xs.map (fun x => (x.1, x.2.dpa)))
  | _ => none

theorem own_receives (s : State) (fl : Flit) : s.Receives 32 fl s := Or.inl ⟨by decide, by decide, rfl⟩

/-- A read of another part, that awaits its reply, and an endpoint that waits. -/
def asking : State :=
  { granting with
    tsc := 400000#64
    remote := [{ tag := 0, fl := { readAsk with dst := 1#8 }, who := .thread (.dray 0 0), tva := 0#64, off := 0, len := 8,
                 die := 0, first := 300000#64, last := 300000#64, resent := false, full := true }] }

theorem witness_RemoteRequests :
    granting.Receives 32 readAsk granting ∧
      (granting.grantOf 0 readAsk .read).toOption.any (fun g => g.slice == 0 && g.spa == 0x40000) = true ∧
      grantLines readAsk .read = some [(0, 0x40000)] ∧ grantLines readAsk .write = some [(0, 0x40000)] ∧
      apertureOf 0x40000 = .hbm ∧ granting.pendingLine none 0x1000 = false ∧ granting.askOut 32 readAsk = false ∧
      (granting.dupsOf 1).find? (fun e => e.tag == askTag atomAsk) = none ∧ flitField atomAsk 18 2 = granting.epoch.toNat ∧
      granting.atomInside atomAsk = false ∧ (∃ a, askAtom atomAsk = some a) ∧ (granting.dupsOf 1).length < 1024 ∧
      (granting.grantOf 0 atomAsk .atomic).toOption.any (fun g => g.slice == 0) = true ∧
      (∃ r, asking.remote.find? (fun r => r.tag == askTag readAsk && r.fl.dst == 1#8 && r.fl.ty == 3#6) = some r ∧
        (20000 ≤ (asking.tsc - r.last).toNat && (asking.tsc - r.first).toNat ≤ 100000 && r.full) = true) :=
  ⟨own_receives _ _, by decide +kernel, by decide +kernel, by decide +kernel, by decide, by decide +kernel, by decide +kernel,
    by decide +kernel, by decide +kernel, by decide +kernel, Option.isSome_iff_exists.mp (by decide +kernel), by decide +kernel,
    by decide +kernel, some_and (by decide +kernel)⟩

/-- The host is up, with one request of ours outstanding since time 0. -/
def hosted : State :=
  let s := withPslice (world onDray0)
  { s with
    boot := { s.boot with state := 3#4 }
    tsc := 20000000#64
    hostReqs := [{ id := 0, who := .thread (.dray 0 0), tva := 0#64, addr := 0, bytes := 8, op := 0, operand := 0#64,
                   compare := 0#64, policy := false, fn := 0, since := 0#64, written := false }] }

def barOf (t : HostTarget) : Option Nat :=
  match t with
  | .bar o => some o
  | _ => none

def hostLines (kind : AccessKind) : Option (List (Nat × Nat × Nat)) :=
  match hosted.hostReach (hostWho (0, 0)) kind (linePieces 0x40000 8) with
  | .ok _ xs => some (xs.map (fun x => (x.1, x.2.1, x.2.2.dpa)))
  | _ => none

/-- The same part with no window open: the host's access is turned away. -/
def unwindowed : Bool :=
  match ({ hosted with windows := [] } : State).hostReach (hostWho (0, 0)) .read (linePieces 0x40000 8) with
  | .barred => true
  | _ => false

theorem witness_HostRequests :
    hosted.hostUp = true ∧ hosted.fnThere 0 = true ∧ hosted.boot.halted = false ∧ (hosted.fn 0).frozen = false ∧
      hosted.hostBehind 0 = false ∧ hostTarget 0x1000000000040000 = .memory 0x40000 ∧ hostTarget 0xFFF = .bar 0xFFF ∧
      hostTarget (2 ^ 56) = .mgmt 0 ∧ doorbellOf 0x1FF000 8 = some 255 ∧ hosted.fnPlace 0 = some (0, 0) ∧
      hosted.migState 0 ≠ 1 ∧ hostLines .read = some [(0x40000, 8, 0x40000)] ∧ hostLines .write = some [(0x40000, 8, 0x40000)] ∧
      hosted.pendingLine none 0x1000 = false ∧ unwindowed = true ∧ (∃ r, ({ hosted with proxies := hosted.hostReqs } : State).proxies.find?
        (fun p => p.id == 0) = some r ∧ (r.id == 0) = true) ∧
      (∃ r, hosted.hostReqs.find? (fun r => r.id == 0) = some r ∧ (10000000 ≤ (hosted.tsc - r.since).toNat && r.op != 254) = true) :=
  ⟨by decide +kernel, by decide +kernel, by decide +kernel, by decide +kernel, by decide +kernel, rfl, rfl, rfl,
    by decide, by decide +kernel, by decide +kernel, by decide +kernel, by decide +kernel, by decide +kernel,
    by decide +kernel, some_and (by decide +kernel), some_and (by decide +kernel)⟩

/-- A load request of slice 0 for its capability list; and a slice that pulls a page from node 1, long ago. -/
def loading : State :=
  { world onDray0 with loads := [{ die := 0, slice := 0, chain := 0, out := 0x250000, max := 64 }] }

def pulling : State :=
  let s := (world onDray0).setMigState 0 2
  { s with
    tsc := 100000000#64
    pulls := [{ die := 0, domain := 0, slice := 0, page := 0, first := 0#64, last := 0#64, got := 0x7FFF#16, data := [],
                poison := 0#64 }] }

/-- The last chunk of that page, from the node that the slice names as its peer. -/
def pageIn : Flit := mkFlit 13 4 0 0 0 (migHead 2 0 0 (15 * 16)) []

theorem witness_LoadsAndMigration :
    (world onDray0).loads.any (fun l => l.die == 0 && l.slice == 0) = false ∧
      (∃ l, loading.loads.find? (fun l => l.die == 0 && l.slice == 0) = some l ∧ (l.chain == 0 && decide (64 ≤ l.max)) = true) ∧
      (world onDray0).migState 0 = 0 ∧ (world onDray0).imageWritable 0 = true ∧ pulling.migState 0 = 2 ∧
      (pulling.setMigState 0 3).migState 0 = 3 ∧ pulling.migRpend 0 = 0 ∧
      (∃ p, pulling.pulls.find? (fun p => p.slice == 0 && pulling.pullLate p) = some p ∧
        decide (1000000 ≤ (pulling.tsc - p.last).toNat) = true) ∧
      pulling.Receives 32 pageIn pulling ∧
      (∃ l, (pulling.consumed 32 pageIn).pullOf pageIn = some l ∧ ((l.take pageIn).got == 0xFFFF#16) = true) ∧
      (((world onDray0).setMigState 0 1).pulledPage 0 0 0x40).isSome = true :=
  ⟨by decide +kernel, some_and (by decide +kernel), by decide +kernel, by decide +kernel, by decide +kernel, by decide +kernel,
    by decide +kernel, some_and (by decide +kernel), own_receives _ _, some_and (by decide +kernel), by decide +kernel⟩

/-- A write of operator control by level S, and one by level O; a way word that asks for 8 + 4 ways; the last block of
the staging ways; and a sector of HBM that no repair covers. -/
theorem witness_ControlWrites :
    (world onDray0).ctlWritable 0 2 0 (ctlWord 0x3F100) = false ∧ (world onDray0).ctlWritable 0 0 0 (ctlWord 0x3F100) = true ∧
      (let c := bits 0x48#64 3 0; let g := bits 0x48#64 7 4; 1 ≤ c ∧ c ≤ 8 ∧ g ≤ 8 ∧ c + g ≤ 12) ∧
      bit ((world onDray0).pmWord 0 0x3F100) 8 = false ∧
      (List.range 64).all (fun i => allotFits ((world onDray0).allotBase 0 i) ((world onDray0).allotLen 0 i) 4) = true ∧
      (List.range 64).any (fun j => j != 63 && allotClash 0 1 (onDray0.allotBase 0 j) (onDray0.allotLen 0 j)) = false ∧
      apertureOf 0x40000 = .hbm ∧ (world onDray0).repair.any (fun r => r.1 == 0x40000) = false :=
  ⟨by decide +kernel, by decide +kernel, by decide, by decide +kernel, by decide +kernel, by decide +kernel, by decide,
    by decide +kernel⟩

theorem witness_PowerAndReset :
    3 ≤ hosted.boot.state.toNat ∧ hosted.boot.state ≠ 6#4 ∧ State.reset.boot.state.toNat < 3 ∧
      ({ hosted with boot := { hosted.boot with attest := true } } : State).boot.attest = true ∧ hosted.boot.halted = false ∧
      Nat.max 875 (hosted.boot.mhz - 125) ≠ hosted.boot.mhz :=
  ⟨by decide +kernel, by decide +kernel, by decide, rfl, by decide +kernel, by decide +kernel⟩

/-- An ADD that may run, one on the wrong engine, one of too low a level, one without its right, and one whose token is
not there. -/
theorem witness_IssueChecks :
    (onK.strand? onK.cur).isSome = true ∧ onK.me.run = .ready ∧ onK.live onK.cur = true ∧
      onK.assigned (xWord [] true) k0 = false ∧ onK.assigned commonWord k0 = true ∧
      (sysWord 2 none).minLevel < onK.levelOf onK.cur ∧ onDray0.levelOf onDray0.cur ≤ (sysWord 2 none).minLevel ∧
      onDray0.mayUse (sysWord 2 none).right = true ∧
      (∃ wt, onX.tokenWait { pop := 1#2, push := 0#2 } false = some wt) ∧ onX.tokenWait k0 false = none ∧
      onDray0.me.begun = false ∧ (onDray0.updMe (fun st => { st with begun := true })).me.begun = true ∧
      onK.me.begun = false ∧ onK.mayUse (sysWord 2 (some rightPreempt)).right = false ∧
      onX.Issues commonWord (.nop k0) k0 ∧ onX.cur = .coach 0 9 ∧ (∃ c, onX.coach? 0 = some c) :=
  ⟨by decide +kernel, by decide +kernel, by decide +kernel, by decide +kernel, by decide +kernel, by decide +kernel,
    by decide +kernel, by decide +kernel, Option.isSome_iff_exists.mp (by decide +kernel), by decide +kernel,
    by decide +kernel, by decide +kernel, by decide +kernel, by decide +kernel, issues_of (by decide +kernel), by decide +kernel, Option.isSome_iff_exists.mp (by decide +kernel)⟩

/-- The thread has its turn, at a word that decodes, at one that does not, and outside its range; with the clocks
stopped, a cold reset comes in. -/
theorem witness_StepRuns :
    onK.boot.halted = false ∧ onK.inputs = [] ∧
      (∃ w rest, ({ onK with agenda := [.coldReset] } : State).agenda = w :: rest) ∧
      onK.inRange onK.cur onK.me.pc = true ∧ onK.inRange onK.cur 0x20000#64 = false ∧
      decode .k [0x0FE00000#32] = .error .unassigned ∧ decode .x [0x0EA0002A#32, 7#32] = .error .trailing ∧
      (∃ xs, ({ onK with inputs := [.coldReset], boot := { onK.boot with halted := true } } : State).inputs = .coldReset :: xs) :=
  ⟨by decide +kernel, by decide +kernel, ⟨_, _, rfl⟩, by decide +kernel, by decide +kernel, rfl, rfl, ⟨_, rfl⟩⟩

theorem witness_RoundTrip :
    (Instr.mkat Tok.none 0x3FFFF#18 6#3 0xFFFFFFFF#32 0#32).wf = true ∧
      encode (Instr.mkat Tok.none 0x3FFFF#18 6#3 0xFFFFFFFF#32 0#32) ≠ [] := by decide

theorem witness_MemoryForm : State.reset.mem.wf = true := by decide

end Sys2Proof.Tests
end

section
/-! SUPPORT. Encoding: the fields of an encoded word, and that decoding reads every encoded instruction back (R11, R12,
R15). -/

namespace Sys2Proof

/-! ## The frame of a word (R11) -/

@[simp] theorem tokOf_wordOf (k : Tok) (op : BitVec 7) (b : BitVec 21) : tokOf (wordOf k op b) = k := by
  simp (disch := decide) only [tokOf, wordOf, BitVec.extractLsb'_append_eq_of_le,
    BitVec.extractLsb'_append_eq_of_add_le, Nat.reduceSub, BitVec.extractLsb'_eq_self]

@[simp] theorem opOf_wordOf (k : Tok) (op : BitVec 7) (b : BitVec 21) : opOf (wordOf k op b) = op.toNat := by
  simp (disch := decide) only [opOf, wordOf, BitVec.extractLsb'_append_eq_of_le,
    BitVec.extractLsb'_append_eq_of_add_le, Nat.reduceSub, BitVec.extractLsb'_eq_self]

@[simp] theorem bodyOf_wordOf (k : Tok) (op : BitVec 7) (b : BitVec 21) : bodyOf (wordOf k op b) = b :=
  BitVec.extractLsb'_append_eq_right

/-! ## The fields of a body

`encode` gives a body the width 21, while the library's lemmas about `++` want the sum of the fields' widths there; so these
speak of `BitVec.append`, which `++` unfolds to. -/

theorem extractLsb'_append_high {v w start len : Nat} (x : BitVec v) (y : BitVec w) (h : w ≤ start) :
    (x.append y).extractLsb' start len = x.extractLsb' (start - w) len :=
  BitVec.extractLsb'_append_eq_of_le h

theorem extractLsb'_append_low {v w start len : Nat} (x : BitVec v) (y : BitVec w) (h : start + len ≤ w) :
    (x.append y).extractLsb' start len = y.extractLsb' start len :=
  BitVec.extractLsb'_append_eq_of_add_le h

/-- A sub-code that is not zero keeps a longer field over it from being zero. -/
theorem extractLsb'_append_ne_zero {v w len : Nat} (x : BitVec v) (y : BitVec w) (hy : y ≠ 0#w) (hw : w ≤ len) :
    (x.append y).extractLsb' 0 len ≠ 0#len := by
  intro h
  apply hy
  rw [← BitVec.extractLsb'_append_eq_right (a := x) (b := y)]
  have := congrArg (BitVec.extractLsb' 0 w) h
  rw [BitVec.extractLsb'_extractLsb'_of_le (by omega)] at this
  simpa using this
/-! ## One word of a map (R12) -/

/-- The common block ends at opcode 0x35. -/
theorem decodeCommon_eq_none (k : Tok) {op : Nat} (b : BitVec 21) (h : 0x36 ≤ op) : decodeCommon k op b = none := by
  unfold decodeCommon
  split
  on_goal -1 => rfl
  all_goals omega

/-- A word that the common block assigns is the same on every engine (R33). -/
theorem decodeLow_of_common (e : Engine) {k : Tok} {op : BitVec 7} {b : BitVec 21} {i : Instr}
    (h : decodeCommon k op.toNat b = some i) : decodeLow e (wordOf k op b) = some i := by
  simp only [decodeLow, tokOf_wordOf, opOf_wordOf, bodyOf_wordOf, h]

/-- A word above the common block is left to the engine's own map (R12). -/
theorem decodeLow_of_le (e : Engine) (k : Tok) {op : BitVec 7} (b : BitVec 21) (h : 0x36 ≤ op.toNat) :
    decodeLow e (wordOf k op b) =
      match e with
      | .k => decodeK k op.toNat b
      | .dray => decodeK k op.toNat b
      | .x => decodeX k op.toNat b
      | .l => decodeLS k op.toNat b
      | .s => decodeLS k op.toNat b := by
  have hc := decodeCommon_eq_none k b h
  cases e <;> simp only [decodeLow, tokOf_wordOf, opOf_wordOf, bodyOf_wordOf, hc]

/-- The checks that end check 2 of R44 pass for a well-formed instruction away from the Dray. -/
theorem decodeChecked_of_wf {e : Engine} {i : Instr} (t : Tok) (he : e ≠ .dray) (hw : i.wf = true) :
    decodeChecked e i t = .ok i := by
  rw [decodeChecked, if_pos hw, if_neg (fun h => he h.1)]

/-- A word that is no ID word, has no trailing word and is assigned to a well-formed instruction decodes to it. -/
theorem decode_of_decodeLow {e : Engine} {k : Tok} {op : BitVec 7} {b : BitVec 21} {i : Instr} (hw : i.wf = true)
    (he : e ≠ .dray) (hid : op.toNat ≠ 0x2F) (ht : trailingWords e op.toNat = 0)
    (hd : decodeLow e (wordOf k op b) = some i) : decode e [wordOf k op b] = .ok i := by
  simp only [decode, idCode, opOf_wordOf, hid, false_and, if_false, decodeMain, ht, if_true, hd]
  exact decodeChecked_of_wf _ he hw

/-- Where a word is assigned: the common block (R33), the ID words of it (R34), the map of the K stream and the Dray (R35,
R37), that of the X stream (R38), that of the L and S streams (R39), or several words together (R15). -/
inductive WordMap where
  | common | id | k | x | ls | mkat | cpyc

/-- The map that assigns an instruction's word; none has a word of its own for PRE RESUME or for a step that no word
fetches. -/
def Instr.map? (i : Instr) : Option WordMap :=
  match i with
  | .nop .. | .add .. | .sub .. | .andd .. | .orr .. | .xorr .. | .shl .. | .shr .. | .sra .. | .slt ..
  | .sltu .. | .min .. | .max .. | .minu .. | .maxu .. | .andn .. | .lea0 .. | .lea1 .. | .lea2 .. | .lea3 ..
  | .mul .. | .mulh .. | .mulhu .. | .div .. | .divu .. | .rem .. | .remu .. | .clz .. | .ctz .. | .popc ..
  | .sext8 .. | .sext16 .. | .sext32 .. | .zext8 .. | .zext16 .. | .zext32 .. | .brev .. | .addi .. | .andi ..
  | .ori .. | .xori .. | .slti .. | .sltiu .. | .shli .. | .shri .. | .srai .. | .muli .. | .li .. | .likH1 ..
  | .likH2 .. | .likH3 .. | .bEq .. | .bNe .. | .bLt .. | .bGe .. | .bLtu .. | .bGeu .. | .j .. | .jal ..
  | .jr .. | .loop .. | .loopi .. | .endTask .. | .semP .. | .semV .. | .semTryp .. | .semRead .. | .cbarA ..
  | .cbarW .. | .cbarAw .. | .ld .. | .ldu .. | .st .. | .lda .. | .stl .. | .ldsp .. | .stsp .. | .fenceAcq ..
  | .fenceRel .. | .fenceFull .. | .tfence .. | .csrr .. | .csrw .. | .csrs .. | .csrc .. | .qfeat ..
  | .timeNs .. | .timeClocks .. | .timeEnergy .. | .ecall .. | .ebreak .. | .waite .. | .dset .. | .dget ..
  | .dadd .. => some .common
  | .idCoach .. | .idCore .. | .idCluster .. | .idDie .. | .idSlice .. | .idShape .. => some .id
  | .aadd .. | .aand .. | .aor .. | .axor .. | .aswp .. | .acas .. | .amin .. | .amax .. | .aminu ..
  | .amaxu .. | .aaddW .. | .aswpW .. | .acasW .. | .fork .. | .join .. | .syield .. | .sexit .. | .bsel ..
  | .launch .. | .launchImm .. | .qnotify .. | .txstat .. | .txabort .. | .txclaim .. | .gateRead ..
  | .gateAdd .. | .gateWaitge .. | .eret .. | .fres .. | .fkill .. | .freeze .. | .thaw .. | .pre ..
  | .preTask .. | .preInsn .. | .preKill .. | .moult .. | .unmoult .. | .qmap .. | .qunmap .. | .semmap ..
  | .barmap .. | .idmap .. | .timeofs .. | .s1inv .. | .s1invPage .. | .s1invSlice .. | .s2inv ..
  | .s2invPage .. | .s2invDomain .. | .winset .. | .rights .. | .rightsRevoke .. | .rightsRead .. | .fmask ..
  | .slotw .. | .wset .. | .wsetShard .. | .wsetVerify .. | .wsetFree .. | .wswap .. | .enset .. | .walksave ..
  | .walkload .. | .katset .. | .csrx .. | .csrxW .. | .csrxS .. | .csrxC .. => some .k
  | .vadd .. | .vsub .. | .vmul .. | .vfma .. | .vfms .. | .vmin .. | .vmax .. | .vabs .. | .vneg .. | .vand ..
  | .vor .. | .vxor .. | .vshl .. | .vshr .. | .vsra .. | .vcmp .. | .vsel .. | .vmov .. | .vbcs .. | .vmovs ..
  | .vins .. | .vexp2 .. | .vlog2 .. | .vrcp .. | .vrsq .. | .vcvt .. | .vpack .. | .vunpk .. | .vreds ..
  | .vredm .. | .vscan .. | .vperm .. | .vrot .. | .vld .. | .vst .. | .vatomAdd .. | .vatomMin ..
  | .vatomMax .. | .vatomSwp .. | .vdefer .. | .vdrain .. | .setm .. | .mand .. | .mor .. | .mxor .. | .mnot ..
  | .mpopc .. | .viota .. | .vclr .. | .mwld .. | .mma .. | .mmas .. | .mgath .. | .mzero ..
  | .mstatOccupancy .. | .mstatSticky .. | .mstatRetired .. | .mwait .. => some .x
  | .cpy .. | .cpyg .. | .cpys .. | .cpyr .. | .cpyh .. | .cfill .. | .cpfx .. | .cwb .. | .cwait .. | .hfin ..
  | .cqbindSend .. | .cqbindRecv .. | .cqunbDrain .. | .cqunbDiscard .. | .cqsend .. | .cqrecv ..
  | .cqstatStatus .. | .cqstatRows .. | .cqstatCredits .. => some .ls
  | .mkat .. => some .mkat
  | .cpyc .. => some .cpyc
  | _ => none

/-! ## The maps' own words (R33, R35, R37, R38, R39) -/

theorem decode_common {i : Instr} (hm : i.map? = some .common) (hw : i.wf = true) : decode .k (encode i) = .ok i := by
  cases i <;> cases hm
  all_goals
    refine decode_of_decodeLow hw nofun (by decide) rfl (decodeLow_of_common .k ?_)
    simp only [BitVec.reduceToNat, HAppend.hAppend]
    unfold decodeCommon
    simp only [↓extractLsb'_append_ne_zero, extractLsb'_append_high, extractLsb'_append_low,
      BitVec.extractLsb'_eq_self, Nat.reduceSub, Nat.reduceAdd, Nat.reduceLeDiff,
      BitVec.reduceEq, ne_eq, not_false_eq_true, and_true, and_false, false_and, if_true, if_false]

theorem decode_k {i : Instr} (hm : i.map? = some .k) (hw : i.wf = true) : decode .k (encode i) = .ok i := by
  cases i <;> cases hm
  all_goals
    refine decode_of_decodeLow hw nofun (by decide) rfl ((decodeLow_of_le .k _ _ (by decide)).trans ?_)
    simp only [BitVec.reduceToNat, HAppend.hAppend]
    unfold decodeK
    simp only [↓extractLsb'_append_ne_zero, extractLsb'_append_high, extractLsb'_append_low,
      BitVec.extractLsb'_eq_self, Nat.reduceSub, Nat.reduceAdd, Nat.reduceLeDiff, BitVec.reduceExtractLsb',
      BitVec.reduceEq, ne_eq, not_false_eq_true, and_true, false_and, if_true, if_false]

theorem decode_x {i : Instr} (hm : i.map? = some .x) (hw : i.wf = true) : decode .x (encode i) = .ok i := by
  cases i <;> cases hm
  all_goals
    refine decode_of_decodeLow hw nofun (by decide) rfl ((decodeLow_of_le .x _ _ (by decide)).trans ?_)
    simp only [BitVec.reduceToNat, HAppend.hAppend]
    unfold decodeX
    simp only [↓extractLsb'_append_ne_zero, extractLsb'_append_high, extractLsb'_append_low,
      BitVec.extractLsb'_eq_self, Nat.reduceSub, Nat.reduceAdd, Nat.reduceLeDiff, BitVec.reduceExtractLsb',
      BitVec.reduceEq, ne_eq, not_false_eq_true, and_true, if_true, if_false]

theorem decode_ls {i : Instr} (hm : i.map? = some .ls) (hw : i.wf = true) : decode .l (encode i) = .ok i := by
  cases i <;> cases hm
  all_goals
    refine decode_of_decodeLow hw nofun (by decide) rfl ((decodeLow_of_le .l _ _ (by decide)).trans ?_)
    simp only [BitVec.reduceToNat, HAppend.hAppend]
    unfold decodeLS
    simp only [↓extractLsb'_append_ne_zero, extractLsb'_append_high, extractLsb'_append_low,
      BitVec.extractLsb'_eq_self, Nat.reduceSub, Nat.reduceAdd, Nat.reduceLeDiff,
      BitVec.reduceEq, ne_eq, not_false_eq_true, and_true, if_true, if_false]

/-! ## ID words (R34) -/

theorem idCode_wordOf (k : Tok) (d : BitVec 4) (c : BitVec 17) (h : c.toNat ≤ 5) :
    idCode (wordOf k 0x2F#7 (d ++ c)) = some c.toNat := by
  have hn : (BitVec.extractLsb' 0 17 (d ++ c : BitVec 21)).toNat = c.toNat :=
    congrArg BitVec.toNat BitVec.extractLsb'_append_eq_right
  simp only [idCode, opOf_wordOf, bodyOf_wordOf, hn, BitVec.reduceToNat, h, and_self, if_true]

theorem decodeId_wordOf (k : Tok) (d : BitVec 4) (c : BitVec 17) (n : Nat) :
    decodeId (wordOf k 0x2F#7 (d ++ c)) n =
      match n with
      | 0 => .idCoach k d
      | 1 => .idCore k d
      | 2 => .idCluster k d
      | 3 => .idDie k d
      | 4 => .idSlice k d
      | _ => .idShape k d := by
  have hd : BitVec.extractLsb' 17 4 (d ++ c : BitVec 21) = d := BitVec.extractLsb'_append_eq_left
  match n with
  | 0 | 1 | 2 | 3 | 4 | _ + 5 => simp only [decodeId, tokOf_wordOf, bodyOf_wordOf, hd]

/-- The words of an ID decode as its code says, since the ID instructions have no field to check. -/
theorem decode_idWord {k : Tok} {d : BitVec 4} {c : BitVec 17} {i : Instr} (hw : i.wf = true) (hc : c.toNat ≤ 5)
    (hd : decodeId (wordOf k 0x2F#7 (d ++ c)) c.toNat = i) : decode .k [wordOf k 0x2F#7 (d ++ c)] = .ok i := by
  rw [decode, idCode_wordOf k d c hc]
  exact hd ▸ decodeChecked_of_wf _ (by decide) (hd ▸ hw)

theorem decode_id {i : Instr} (hm : i.map? = some .id) (hw : i.wf = true) : decode .k (encode i) = .ok i := by
  cases i <;> cases hm
  all_goals exact decode_idWord hw (by decide) (decodeId_wordOf ..)

/-! ## Words of several words (R15) -/

/-- A follow-on word that names a family is read back. -/
theorem decodeFollow_encodeFollow (fo : FollowOn) (h : fo.wf = true) : decodeFollow (encodeFollow fo) = some fo := by
  cases fo with
  | mwld k a f =>
    have hf : f.toNat ≤ 6 := of_decide_eq_true h
    simp (disch := decide) only [decodeFollow, encodeFollow, tokOf_wordOf, opOf_wordOf, bodyOf_wordOf, decodeX, hf,
      BitVec.reduceToNat, HAppend.hAppend, extractLsb'_append_high, extractLsb'_append_low, BitVec.extractLsb'_eq_self,
      Nat.reduceSub, if_true]
  | mma k a b c f =>
    have hf : f.toNat ≤ 6 := of_decide_eq_true h
    simp (disch := decide) only [decodeFollow, encodeFollow, tokOf_wordOf, opOf_wordOf, bodyOf_wordOf, decodeX, hf,
      BitVec.reduceToNat, HAppend.hAppend, extractLsb'_append_high, extractLsb'_append_low, BitVec.extractLsb'_eq_self,
      Nat.reduceSub, if_true]

theorem decode_mkat {i : Instr} (hm : i.map? = some .mkat) (h : i.wf = true) : decode .x (encode i) = .ok i := by
  cases i <;> cases hm
  case mkat k seed f low high =>
    have hf : f ≠ 7#3 := by rintro rfl; cases h
    simp (disch := decide) only [decode, encode, idCode, opOf_wordOf, decodeMain, trailingWords, decodeLong, tokOf_wordOf,
      bodyOf_wordOf, hf, OfNat.ofNat_ne_zero, Nat.reduceEqDiff, false_and, BitVec.reduceToNat, HAppend.hAppend,
      extractLsb'_append_high, extractLsb'_append_low, BitVec.extractLsb'_eq_self, Nat.reduceSub, if_false]
    exact decodeChecked_of_wf _ (by decide) h

theorem decode_cpyc {i : Instr} (hm : i.map? = some .cpyc) (h : i.wf = true) : decode .l (encode i) = .ok i := by
  cases i <;> cases hm
  case cpyc k d sr c l fo =>
    simp (disch := decide) only [decode, encode, idCode, opOf_wordOf, decodeMain, trailingWords, decodeLong, tokOf_wordOf,
      bodyOf_wordOf, decodeFollow_encodeFollow fo h, Nat.reduceEqDiff, false_and, BitVec.reduceToNat, HAppend.hAppend,
      extractLsb'_append_high, extractLsb'_append_low, BitVec.extractLsb'_eq_self, Nat.reduceSub, BitVec.reduceEq,
      if_false]
    exact decodeChecked_of_wf _ (by decide) h

/-! ## Every instruction -/

/-- PRE RESUME apart, an instruction that no map assigns is a step that no word fetches. -/
theorem encode_eq_nil {i : Instr} (hm : i.map? = none) (hp : ∀ k d a b, i ≠ .preResume k d a b) : encode i = [] := by
  cases i <;> cases hm
  case preResume k d a b => exact absurd rfl (hp k d a b)
  all_goals rfl

/-- Every well-formed instruction that has an encoding is read back by an engine whose map has it, but for PRE RESUME,
whose word is PRE's. -/
theorem decode_encode (i : Instr) (hw : i.wf = true) (h : encode i ≠ []) (hp : ∀ k d a b, i ≠ .preResume k d a b) :
    ∃ e ∈ [Engine.k, .x, .l], decode e (encode i) = .ok i := by
  cases hm : i.map? with
  | none => exact absurd (encode_eq_nil hm hp) h
  | some m =>
    cases m with
    | common => exact ⟨.k, by decide, decode_common hm hw⟩
    | id => exact ⟨.k, by decide, decode_id hm hw⟩
    | k => exact ⟨.k, by decide, decode_k hm hw⟩
    | x => exact ⟨.x, by decide, decode_x hm hw⟩
    | ls => exact ⟨.l, by decide, decode_ls hm hw⟩
    | mkat => exact ⟨.x, by decide, decode_mkat hm hw⟩
    | cpyc => exact ⟨.l, by decide, decode_cpyc hm hw⟩

/-- Settles O57: the decoder is run on each of the words. -/
theorem decoding : Obligations.Decoding :=
  ⟨rfl, rfl, rfl, rfl, rfl, rfl, rfl, rfl, rfl, rfl, rfl, rfl, rfl, rfl, rfl, rfl⟩

/-- Settles O58: PRE RESUME and PRE have one word by definition, and do the same with it. -/
theorem roundTrip : Obligations.RoundTrip :=
  ⟨decode_encode, fun _ _ _ _ => ⟨rfl, fun _ => rfl⟩⟩

end Sys2Proof
end

section
/-! SUPPORT. Steps: what runs in a step is what the dispatcher gives the row of an event, of an input or of a decoded word
(R12, R43, R94). -/

namespace Sys2Proof.Machine

/-! ## Events and inputs -/

theorem Event.run_eq_exec (e : Event) (s : State) : e.run s = exec e.instr s := by
  cases e <;> rfl

theorem runFlit_eq_exec (port : Nat) (fl : Flit) (s : State) : runFlit port fl s = exec (flitInstr port fl) s := by
  unfold runFlit flitInstr
  split
  case h_14 => split <;> rfl
  all_goals rfl

/-- An input with a row does what its row says. -/
theorem Input.run_eq_exec {x : Input} {i : Instr} (h : x.instr = some i) (s : State) : x.run s = exec i s := by
  cases x
  case upset => cases h
  case flit port fl =>
    cases h
    exact runFlit_eq_exec port fl s
  case frame port f =>
    simp only [Input.instr] at h
    simp only [Input.run]
    split at h <;> cases h
    · exact runFlit_eq_exec port _ s
    · rfl
  all_goals
    cases h
    rfl

/-! ## Words -/

/-- What passes check 2 of R44 is the instruction itself, and well-formed. -/
theorem decodeChecked_eq_ok {e : Engine} {i j : Instr} {t : Tok} (h : decodeChecked e i t = .ok j) :
    j = i ∧ i.wf = true ∧ ¬(e = .dray ∧ (t ≠ Tok.none ∨ i.coachOnly = true)) := by
  unfold decodeChecked at h
  split at h
  case isFalse => cases h
  case isTrue hw =>
    split at h
    case isTrue => cases h
    case isFalse hd => exact ⟨(Except.ok.inj h).symm, hw, hd⟩

theorem decodeChecked_ne_trailing (e : Engine) (i : Instr) (t : Tok) : decodeChecked e i t ≠ .error .trailing := by
  unfold decodeChecked
  split
  · split <;> nofun
  · nofun

theorem decodeMain_wf {e : Engine} {w : IWord} {rest : List IWord} {i : Instr} (h : decodeMain e w rest = .ok i) :
    i.wf = true := by
  have checked : ∀ {j : Instr}, decodeChecked e j (tokOf w) = .ok i → i.wf = true := fun hj => by
    obtain ⟨rfl, hw, -⟩ := decodeChecked_eq_ok hj
    exact hw
  unfold decodeMain at h
  split at h
  · split at h
    · exact checked h
    · cases h
  · split at h
    · exact checked h
    · cases h

theorem decodeId_wf (w : IWord) (n : Nat) : (decodeId w n).wf = true := by
  unfold decodeId
  split <;> rfl

theorem decodeId_coachOnly (w : IWord) (n : Nat) : (decodeId w n).coachOnly = false := by
  unfold decodeId
  split <;> rfl

/-- An ID word on an engine that may carry its token is executed as it decodes. -/
theorem runId_eq_exec {w : IWord} {s : State} (n : Nat) (h : ¬(threadEngine s.cur = .dray ∧ tokOf w ≠ Tok.none)) :
    runId w n s = exec (decodeId w n) s := by
  rw [runId, if_neg h]
  match n with
  | 0 | 1 | 2 | 3 | 4 | _ + 5 => rfl

theorem decode_of_id {w : IWord} {n : Nat} (e : Engine) (rest : List IWord) (hc : idCode w = some n) :
    decode e (w :: rest) = decodeChecked e (decodeId w n) (tokOf w) := by
  simp only [decode, hc]

theorem decode_of_main {w : IWord} (e : Engine) (rest : List IWord) (hc : idCode w = none) :
    decode e (w :: rest) = decodeMain e w rest := by
  simp only [decode, hc]

theorem runWords_of_id {w : IWord} {n : Nat} (rest : List IWord) (s : State) (hc : idCode w = some n) :
    runWords (w :: rest) s = runId w n s := by
  simp only [runWords, hc]

theorem runWords_of_main_ok {w : IWord} {rest : List IWord} {s : State} {i : Instr} (hc : idCode w = none)
    (h : decodeMain (threadEngine s.cur) w rest = .ok i) : runWords (w :: rest) s = exec i s := by
  simp only [runWords, hc, h]

theorem runWords_of_main_trailing {w : IWord} {rest : List IWord} {s : State} (hc : idCode w = none)
    (h : decodeMain (threadEngine s.cur) w rest = .error .trailing) : runWords (w :: rest) s = issueShort w s := by
  simp only [runWords, hc, h]

theorem runWords_of_main_error {w : IWord} {rest : List IWord} {s : State} {r : DecodeError} (hc : idCode w = none)
    (h : decodeMain (threadEngine s.cur) w rest = .error r) (hr : r ≠ .trailing) :
    runWords (w :: rest) s = execUndefWord w s := by
  simp only [runWords, hc, h]

/-- An ID word fails to decode only on an engine that may not carry its token. -/
theorem dray_of_id_error {e : Engine} {w : IWord} {n : Nat} {r : DecodeError}
    (h : decodeChecked e (decodeId w n) (tokOf w) = .error r) : e = .dray ∧ tokOf w ≠ Tok.none := by
  by_contra hd
  rw [decodeChecked, if_pos (decodeId_wf _ _), decodeId_coachOnly, if_neg (by simpa using hd)] at h
  cases h

/-- A decoded word is executed, and is well-formed. -/
theorem runWords_of_decode {ws : List IWord} {s : State} {i : Instr} (h : decode (threadEngine s.cur) ws = .ok i) :
    i.wf = true ∧ runWords ws s = exec i s := by
  cases ws with
  | nil => cases h
  | cons w rest =>
    cases hc : idCode w with
    | some n =>
      rw [decode_of_id _ _ hc] at h
      obtain ⟨rfl, hw, hd⟩ := decodeChecked_eq_ok h
      exact ⟨hw, (runWords_of_id rest s hc).trans (runId_eq_exec n (fun hx => hd ⟨hx.1, .inl hx.2⟩))⟩
    | none =>
      rw [decode_of_main _ _ hc] at h
      exact ⟨decodeMain_wf h, runWords_of_main_ok hc h⟩

/-- A word that decodes to nothing is UNDEF. -/
theorem runWords_of_error {w : IWord} {rest : List IWord} {s : State} {r : DecodeError}
    (h : decode (threadEngine s.cur) (w :: rest) = .error r) (hr : r ≠ .trailing) :
    runWords (w :: rest) s = exec (.undefWord w) s := by
  cases hc : idCode w with
  | some n =>
    rw [decode_of_id _ _ hc] at h
    rw [runWords_of_id rest s hc]
    exact if_pos (dray_of_id_error h)
  | none =>
    rw [decode_of_main _ _ hc] at h
    exact runWords_of_main_error hc h hr

/-- A word whose trailing words are missing. -/
theorem runWords_of_trailing {w : IWord} {rest : List IWord} {s : State}
    (h : decode (threadEngine s.cur) (w :: rest) = .error .trailing) : runWords (w :: rest) s = issueShort w s := by
  cases hc : idCode w with
  | some n =>
    rw [decode_of_id _ _ hc] at h
    exact absurd h (decodeChecked_ne_trailing _ _ _)
  | none =>
    rw [decode_of_main _ _ hc] at h
    exact runWords_of_main_trailing hc h

@[simp] theorem State.onto_cur (s : State) (th : ThreadId) : (s.onto th).cur = th := State.updStream_cur _ _ _

/-! ## Steps -/

theorem step_of_halted {s : State} (h : s.boot.halted = true) : step s = stepHalted s := by
  rw [step, stepOnce, if_pos h]

theorem step_of_event {s : State} {e : Event} {es : List Event} (h : s.boot.halted = false) (ha : s.agenda = e :: es) :
    step s = e.run { s.tick with agenda := es } := by
  simp only [step, stepOnce, h, Bool.false_eq_true, if_false, ha]

theorem step_of_input {s : State} {x : Input} {xs : List Input} (h : s.boot.halted = false) (ha : s.agenda = [])
    (hi : s.inputs = x :: xs) : step s = settle (x.run { s.tick with inputs := xs }) := by
  simp only [step, stepOnce, h, Bool.false_eq_true, if_false, ha, hi]

theorem step_of_quiet {s : State} (h : s.boot.halted = false) (ha : s.agenda = []) (hi : s.inputs = []) :
    step s = settle (runWord s.tick) := by
  simp only [step, stepOnce, h, Bool.false_eq_true, if_false, ha, hi]

/-- A step that gives a thread its turn at words of its code. -/
theorem step_of_thread {s : State} {th : ThreadId} (h : s.boot.halted = false) (ha : s.agenda = []) (hi : s.inputs = [])
    (hn : s.tick.nextThread = some th) (hr : (s.tick.onto th).inRange th (s.tick.onto th).me.pc = true) :
    step s = settle (runWords ((s.tick.onto th).fetchWords th (s.tick.onto th).me.pc) (s.tick.onto th)) := by
  simp only [step_of_quiet h ha hi, runWord, hn, runThread, hr, Bool.true_eq_false, if_false]

/-- Settles O56: an event, an input or the next thread's word is run as its row, or as what its words decode to. -/
theorem stepRuns : Obligations.StepRuns := by
  intro s
  refine ⟨fun h => ⟨?_, ?_, ?_, fun ha hi => ⟨fun hn => ?_, fun th hn => ⟨fun hr => ?_, fun hr => ⟨?_, ?_, ?_⟩⟩⟩⟩,
    fun h => ⟨?_, ?_, ?_⟩, fun u => ⟨due u, rfl⟩⟩
  · exact fun e es ha => (step_of_event h ha).trans (Event.run_eq_exec e _)
  · exact fun x xs i ha hi hx => (step_of_input h ha hi).trans (congrArg settle (Input.run_eq_exec hx _))
  · exact fun x xs ha hi => step_of_input h ha hi
  · rw [step_of_quiet h ha hi, runWord, hn]
  · simp only [step_of_quiet h ha hi, runWord, hn, runThread, hr, if_true]
    rfl
  · intro i hd
    obtain ⟨hw, hx⟩ := runWords_of_decode (s := s.tick.onto th) (by rwa [State.onto_cur])
    exact ⟨hw, (step_of_thread h ha hi hn hr).trans (congrArg settle hx)⟩
  · intro w rest r hw hd hne
    rw [step_of_thread h ha hi hn hr, hw, runWords_of_error (by rwa [State.onto_cur, ← hw]) hne]
  · intro w rest hw hd
    rw [step_of_thread h ha hi hn hr, hw, runWords_of_trailing (by rwa [State.onto_cur, ← hw])]
  · intro hi
    rw [step_of_halted h, stepHalted, hi]
  · intro x xs hi hx
    rw [step_of_halted h, stepHalted, hi]
    cases x
    case coldReset => exact absurd rfl hx
    all_goals rfl
  · intro xs hi
    rw [step_of_halted h, stepHalted, hi]
    rfl

end Sys2Proof.Machine
end

section
/-! SUPPORT. Checks: the checks of a word in their order (R44), what a precise fault saves (R18, R97), and what a word that
completes does to its token counts (R17). -/

namespace Sys2Proof.Machine

/-! ## The checks of a word (R44) -/

/-- The word passes the checks of a class before anything of its own. -/
def IssuedAs (cls : WordClass) (k : Tok) (i : Instr) : Prop := ∃ body, exec i = issue cls i k body

theorem regForm_issued {cls : WordClass} {i : Instr} {k : Tok} {d a b : BitVec 4} {f}
    (he : exec i = regForm cls i k d a b f) : IssuedAs cls k i :=
  ⟨_, he⟩

theorem barForm_issued {i : Instr} {k : Tok} {h : BitVec 4} {body} (he : exec i = barForm i k h body) :
    IssuedAs coachWord k i :=
  ⟨_, he⟩

theorem gateForm_issued {i : Instr} {k : Tok} {a b : BitVec 4} {f} (he : exec i = gateForm i k a b f) :
    IssuedAs (kWord []) k i :=
  ⟨_, he⟩

theorem sysForm_issued {i : Instr} {k : Tok} {level right} {a b : BitVec 4} {f} (he : exec i = sysForm level right i k a b f) :
    IssuedAs (sysWord level right) k i :=
  ⟨_, he⟩

theorem vectorForm_issued {i : Instr} {k : Tok} {fs wr rd} {sr : BitVec 4} (he : exec i = vectorForm fs i k wr rd sr) :
    IssuedAs (xWord fs true) k i :=
  ⟨_, he⟩

theorem copyForm_issued {i : Instr} {k : Tok} {fs} {cnt pol : BitVec 4} {entry} (he : exec i = copyForm fs i k cnt pol entry) :
    IssuedAs (lsWord fs true) k i :=
  ⟨_, he⟩
section Checks

variable {s : State} {cls : WordClass} {i : Instr} {k : Tok} {body : State → Res}

/-- A thread that may issue passes check 1. -/
theorem issueWord_of_ready (w : IWord) (h1 : (s.strand? s.cur).isSome = true) (h2 : s.me.run = .ready)
    (h3 : s.live s.cur = true) :
    issueWord cls w k body s =
      if s.assigned cls k = false then .next (s.undef w)
      else if s.levelOf s.cur > cls.minLevel then .next (s.takeFault s.cur codePriv s.me.pc (w.setWidth 64) s.me.pc)
      else if s.me.begun = false ∧ s.mayUse cls.right = false then
        .next (s.takeFault s.cur codeRights s.me.pc (w.setWidth 64) s.me.pc)
      else
        match s.tokenWait k cls.engineOp with
        | some wt => .next (s.updMe (fun st => st.parkOn wt s.tsc))
        | none => (body (s.takeToken k)).apply k cls.words s.me.pc s.cur := by
  have h0 : ¬((s.strand? s.cur).isNone = true ∨ s.me.run ≠ .ready ∨ s.live s.cur = false) := by
    simp [h2, h3, Option.isSome_iff_ne_none.1 h1]
  rw [issueWord]
  exact if_neg h0

/-- Checks 2 to 5 of R44 in order, and the wait for a register that an earlier word still has to write. -/
theorem checks_of_issue (h1 : (s.strand? s.cur).isSome = true) (h2 : s.me.run = .ready) (h3 : s.live s.cur = true)
    (he : IssuedAs cls k i) :
    let stops := fun code => exec i s = .next (s.takeFault s.cur code s.me.pc ((instrWord i).setWidth 64) s.me.pc)
    (s.assigned cls k = false → stops 0x0201) ∧
    (s.assigned cls k = true →
      (cls.minLevel < s.levelOf s.cur → stops 0x0202) ∧
      (s.levelOf s.cur ≤ cls.minLevel →
        (s.me.begun = false → s.mayUse cls.right = false → stops 0x0C01) ∧
        (s.me.begun = true ∨ s.mayUse cls.right = true →
          (∀ wt, s.tokenWait k cls.engineOp = some wt → exec i s = .next (s.updMe (fun st => st.parkOn wt s.tsc))) ∧
          (s.tokenWait k cls.engineOp = none → ∀ r, s.scalarDue i = some r → Parks i s k (.scalarResult r))))) := by
  obtain ⟨body, hb⟩ := he
  have he := (congrFun hb s).trans (issueWord_of_ready _ h1 h2 h3)
  refine ⟨fun ha => ?_, fun ha => ?_⟩
  · rw [if_pos ha] at he
    exact he
  rw [if_neg (by simp [ha])] at he
  refine ⟨fun hl => ?_, fun hl => ?_⟩
  · rw [if_pos hl] at he
    exact he
  rw [if_neg (Nat.not_lt.2 hl)] at he
  refine ⟨fun hb hr => ?_, fun hbr => ?_⟩
  · rw [if_pos ⟨hb, hr⟩] at he
    exact he
  rw [if_neg (by rintro ⟨hb, hr⟩; simp [hb, hr] at hbr)] at he
  refine ⟨fun wt ht => ?_, fun ht r hr => ?_⟩
  · rw [ht] at he
    exact he
  · simp only [ht, (State.takeToken_only s k).scalarDue i, hr] at he
    rw [Parks, he, Res.apply, (State.takeToken_only s k).1]

end Checks

/-! ## The record of a fault (R374) -/

/-- Records have been posted, the first of them with this body; nothing else of the part has changed. -/
def PostsRecord (s t : State) (r : FaultRec) : Prop :=
  ∃ n l, t = { s with nextReq := n, faults := s.faults ++ l } ∧ ∃ x ∈ l, x.body = r

theorem State.post_postsRecord (s : State) (r : FaultRec) (level die : Nat) : PostsRecord s (s.post r level die) r :=
  ⟨_, _, rfl, _, List.mem_singleton.2 rfl, rfl⟩

/-- A further record leaves the first one posted. -/
theorem PostsRecord.post {s t : State} {r : FaultRec} (h : PostsRecord s t r) (r' : FaultRec) (level die : Nat) :
    PostsRecord s (t.post r' level die) r := by
  obtain ⟨n, l, rfl, x, hx, hr⟩ := h
  exact ⟨_, l ++ [_], by rw [State.post, List.append_assoc], x, List.mem_append_left _ hx, hr⟩

theorem State.postSlice_postsRecord (s : State) (r : FaultRec) (die : Nat) : PostsRecord s (s.postSlice r die) r := by
  unfold State.postSlice
  dsimp only
  split
  · exact ((State.post_postsRecord ..).post ..).post ..
  · exact State.post_postsRecord ..

theorem State.postDray_postsRecord (s : State) (r : FaultRec) (die k : Nat) : PostsRecord s (s.postDray r die k) r := by
  unfold State.postDray
  dsimp only
  split
  · exact State.post_postsRecord ..
  · split
    · exact (State.post_postsRecord ..).post ..
    · exact State.post_postsRecord ..
  · split
    · exact ((State.post_postsRecord ..).post ..).post ..
    · exact State.post_postsRecord ..

/-- The record of a thread's fault. -/
def State.threadRecord (s : State) (th : ThreadId) (code : Nat) (faddr fprog epc : Word) : FaultRec :=
  mkRecord s (threadHandle th) epc code false faddr fprog (s.vtagOf th) ((s.sliceOf th).getD 0) ((s.domainOf th).getD 0)

theorem State.postThread_postsRecord (s : State) (th : ThreadId) (code : Nat) (faddr fprog epc : Word) :
    PostsRecord s (s.postThread th code faddr fprog epc) (s.threadRecord th code faddr fprog epc) := by
  cases th with
  | coach q p => exact State.postSlice_postsRecord ..
  | dray d k => exact State.postDray_postsRecord ..

/-! ## Token counts -/

/-- What a coach holds after an update of it. -/
theorem State.coach?_updCoach_self {s : State} {q : Nat} {c : Coach} {f : Coach → Coach} (hc : s.coach? q = some c)
    (hf : ∀ c, (f c).quad = c.quad) : (s.updCoach q f).coach? q = some (f c) := by
  rw [State.coach?_updCoach _ _ _ _ hf, if_pos rfl, hc]
  rfl

theorem Coach.fifoCount_setFifo (c : Coach) (k n j : Nat) :
    (c.setFifo k n).fifoCount j = if j = k then n else c.fifoCount j :=
  SMap.get_put zeroNat c.fifo k n j

theorem Coach.latch_fifo (c : Coach) (j : Nat) (m : BitVec 4) : (c.latch j m).fifo = c.fifo := by
  have fold : ∀ (l : List Nat) (c : Coach),
      (l.foldl (fun c q => c.updStrand q (fun st => { st with latch := st.latch ||| m })) c).fifo = c.fifo := by
    intro l
    induction l with
    | nil => exact fun _ => rfl
    | cons q l ih => exact fun c => (ih _).trans rfl
  exact fold _ c

theorem Coach.pushToken_quad (c : Coach) (i j : Nat) : (c.pushToken i j).quad = c.quad := by
  have h : (c.pushToken i j).rest.quad = c.rest.quad := congrArg Coach.quad (Coach.pushToken_rest c i j)
  exact h

/-- A token arrives in one FIFO. -/
theorem Coach.fifoCount_pushToken (c : Coach) (i j key : Nat) :
    (c.pushToken i j).fifoCount key = if key = fifoKey i j then c.fifoCount key + 1 else c.fifoCount key := by
  have h : (c.pushToken i j).fifoCount key = (c.setFifo (fifoKey i j) (c.fifoCount (fifoKey i j) + 1)).fifoCount key := by
    rw [Coach.pushToken, Coach.fifoCount, Coach.latch_fifo]
    rfl
  rw [h, Coach.fifoCount_setFifo]
  split <;> rename_i hk
  · rw [hk]
  · rfl

/-- A token goes back to one FIFO (R18). -/
theorem Coach.fifoCount_returnToken (c : Coach) (i j key : Nat) :
    (c.returnToken i j).fifoCount key = c.fifoCount key + if key = fifoKey i j then 1 else 0 := by
  rw [Coach.returnToken, Coach.fifoCount_setFifo]
  split <;> rename_i hk
  · rw [hk]
  · rfl

/-- A token is taken from one FIFO. -/
theorem Coach.fifoCount_popToken (c : Coach) (i j key : Nat) :
    (c.popToken i j).fifoCount key = if key = fifoKey i j then c.fifoCount key - 1 else c.fifoCount key := by
  rw [Coach.popToken, Coach.fifoCount_setFifo]
  split <;> rename_i hk
  · rw [hk]
  · rfl

theorem StreamId.index_lt (i : StreamId) : i.index < 4 := by cases i <;> decide

/-- The FIFO that a word pops is none that it pushes: no stream sends tokens to itself (R16). -/
theorem fifoKey_pop_ne_push {i n : Nat} (m : Nat) (hi : i < 4) (hn : n ≠ 0) (hn4 : n < 4) :
    fifoKey (selected i n) i ≠ fifoKey i (selected i m) := by
  unfold fifoKey selected
  omega

/-! ## A precise fault (R18, R97, R99) -/

/-- What leaves the strands of a coach as they were leaves every thread as it was. -/
theorem State.strand?_updCoach (s : State) (q : Nat) {f : Coach → Coach} (u : ThreadId)
    (hq : ∀ c, (f c).quad = c.quad) (hs : ∀ c p, (f c).strand p = c.strand p) :
    (s.updCoach q f).strand? u = s.strand? u := by
  cases u with
  | dray d k => rfl
  | coach r p =>
    simp only [State.strand?, State.coach?_updCoach s q r f hq]
    split <;> rename_i h
    · simp only [h, Option.map_map, Function.comp_def, hs]
    · rfl

/-- The token goes back before the thread stops: no thread sees more of it than the count. -/
theorem State.giveBack_strand? (s : State) (th u : ThreadId) : (s.giveBack th).strand? u = s.strand? u := by
  unfold State.giveBack
  split
  · split
    · rfl
    · exact State.strand?_updCoach _ _ _ (fun _ => rfl) (fun _ _ => rfl)
  · rfl

@[simp] theorem State.giveBack_mem (s : State) (th : ThreadId) : (s.giveBack th).mem = s.mem := by
  unfold State.giveBack
  split
  · split <;> rfl
  · rfl

@[simp] theorem State.giveBack_faults (s : State) (th : ThreadId) : (s.giveBack th).faults = s.faults := by
  unfold State.giveBack
  split
  · split <;> rfl
  · rfl

/-- The token that the current word took is counted again in the FIFO that it came from. -/
theorem State.giveBack_coach {s : State} {q p : Nat} {c : Coach} (hc : s.coach? q = some c) :
    ∃ c', (s.giveBack (.coach q p)).coach? q = some c' ∧ ∀ key, c'.fifoCount key = c.fifoCount key +
      if (c.strand p).popped ≠ 0 ∧
        key = fifoKey (selected (streamOfPart p).index (c.strand p).popped) (streamOfPart p).index then 1 else 0 := by
  have hst : s.strand? (.coach q p) = some (c.strand p) := by simp only [State.strand?, hc, Option.map_some]
  by_cases hp : (c.strand p).popped = 0
  · refine ⟨c, ?_, fun key => ?_⟩
    · simp only [State.giveBack, hst, hp, if_true, hc]
    · simp only [hp, ne_eq, not_true_eq_false, false_and, if_false, Nat.add_zero]
  · refine ⟨c.returnToken (selected (streamOfPart p).index (c.strand p).popped) (streamOfPart p).index, ?_, fun key => ?_⟩
    · simp only [State.giveBack, hst, hp, if_false]
      exact State.coach?_updCoach_self hc (fun _ => rfl)
    · simp only [Coach.fifoCount_returnToken, ne_eq, hp, not_false_eq_true, true_and]

/-- A fault that neither freezes its master nor aborts its launch: the record sets out, the token goes back, the thread
stops. -/
theorem State.takeFault_of_ne {code : Nat} (s : State) (th : ThreadId) (a p e : Word) (h1 : code ≠ codePoison)
    (h2 : code ≠ codeWindow) :
    s.takeFault th code a p e =
      ((s.postThread th code a p e).giveBack th).updStrand th (fun st => st.stop code a p e) := by
  simp only [State.takeFault, h1, h2, if_false]

/-- The thread that faults, the others, memory, the records and the token counts after a precise fault. -/
theorem State.takeFault_saves {s : State} {th : ThreadId} {st : Strand} {code : Nat} (a p e : Word)
    (hs : s.strand? th = some st) (h1 : code ≠ codePoison) (h2 : code ≠ codeWindow) :
    (s.takeFault th code a p e).strand? th = some (st.stop code a p e) ∧ (s.takeFault th code a p e).mem = s.mem ∧
      (∀ o, o ≠ th → (s.takeFault th code a p e).strand? o = s.strand? o) ∧
      (∃ l, (s.takeFault th code a p e).faults = s.faults ++ l ∧
        ∃ x ∈ l, x.body = s.threadRecord th code a p e) ∧
      ∀ q i c, th = .coach q i → s.coach? q = some c → ∃ c', (s.takeFault th code a p e).coach? q = some c' ∧
        ∀ key, c'.fifoCount key = c.fifoCount key + if st.popped ≠ 0 ∧
          key = fifoKey (selected (streamOfPart i).index st.popped) (streamOfPart i).index then 1 else 0 := by
  obtain ⟨n, l, hp, x, hx, hb⟩ := State.postThread_postsRecord s th code a p e
  rw [State.takeFault_of_ne s th a p e h1 h2, hp]
  refine ⟨?_, by simp, fun o ho => ?_, ⟨l, by simp, x, hx, hb⟩, ?_⟩
  · rw [State.strand?_updStrand, if_pos rfl, State.giveBack_strand?]
    exact congrArg (Option.map _) hs
  · rw [State.strand?_updStrand, if_neg ho, State.giveBack_strand?]
    rfl
  · rintro q i c rfl hc
    obtain rfl : c.strand i = st := by
      rw [State.strand?, hc] at hs
      exact Option.some.inj hs
    obtain ⟨c', hc', hf⟩ := State.giveBack_coach (s := { s with nextReq := n, faults := s.faults ++ l }) (p := i) hc
    exact ⟨c'.updStrand i (fun st => st.stop code a p e), State.coach?_updCoach_self hc' (fun _ => rfl), hf⟩

/-! ## Tokens at issue and at completion (R17) -/

/-- What a word that pops a token leaves of its coach. -/
theorem State.popFrom_coach {s : State} {q : Nat} {c : Coach} (p src sel : Nat) (hc : s.coach? q = some c) :
    ∃ c' after, (s.popFrom q p src sel).coach? q = some c' ∧
      c'.strand p = { c.strand p with popped := sel, behind := after } ∧ ∀ key, c'.fifoCount key =
      if key = fifoKey src (streamOfPart p).index then c.fifoCount key - 1 else c.fifoCount key :=
  ⟨_, _, State.coach?_updCoach_self hc (fun _ => rfl), (Coach.strand_updStrand _ p p _).trans (if_pos rfl),
    Coach.fifoCount_popToken c _ _⟩

section Tokens

variable {s : State} {q p : Nat} {c : Coach} (k : Tok) (hcur : s.cur = .coach q p) (hc : s.coach? q = some c)
include hcur hc

theorem State.me_of_coach : s.me = c.strand p := by
  simp only [State.me, hcur, State.strand?, hc, Option.map_some, Option.getD_some]

theorem State.takeToken_coach :
    ∃ c', (s.takeToken k).coach? q = some c' ∧ ∀ key, c'.fifoCount key =
      if (k.pop ≠ 0#2 ∧ (c.strand p).popped = 0) ∧
        key = fifoKey (selected (streamOfPart p).index k.pop.toNat) (streamOfPart p).index
      then c.fifoCount key - 1 else c.fifoCount key := by
  by_cases h : k.pop = 0#2 ∨ s.me.popped ≠ 0
  · have hn : ¬(k.pop ≠ 0#2 ∧ (c.strand p).popped = 0) := by
      rw [State.me_of_coach hcur hc] at h
      tauto
    refine ⟨c, ?_, fun key => by rw [if_neg (fun hk => hn hk.1)]⟩
    simp only [State.takeToken, hcur, h, if_true, hc]
  · have hp : k.pop ≠ 0#2 ∧ (c.strand p).popped = 0 := by
      rw [State.me_of_coach hcur hc] at h
      tauto
    obtain ⟨c', -, hc', -, hf⟩ := State.popFrom_coach p (selected (streamOfPart p).index k.pop.toNat) k.pop.toNat hc
    refine ⟨c', by simpa only [State.takeToken, hcur, h, if_false] using hc', fun key => ?_⟩
    · rw [hf]
      simp only [hp, ne_eq, not_false_eq_true, and_self, true_and]

theorem State.pushToken_coach :
    ∃ c', (s.pushToken k).coach? q = some c' ∧ ∀ key, c'.fifoCount key =
      if k.push ≠ 0#2 ∧ key = fifoKey (streamOfPart p).index (selected (streamOfPart p).index k.push.toNat)
      then c.fifoCount key + 1 else c.fifoCount key := by
  by_cases h : k.push = 0#2
  · refine ⟨c, ?_, fun key => by rw [if_neg (fun hk => hk.1 h)]⟩
    simp only [State.pushToken, hcur, h, if_true, hc]
  · refine ⟨c.pushToken (streamOfPart p).index (selected (streamOfPart p).index k.push.toNat), ?_, fun key => ?_⟩
    · simp only [State.pushToken, hcur, h, if_false]
      exact State.coach?_updCoach_self hc (fun c => Coach.pushToken_quad c _ _)
    · simp only [ne_eq, h, not_false_eq_true, true_and]
      exact Coach.fifoCount_pushToken c _ _ key

theorem State.settled_coach : ∃ c', s.settled.coach? q = some c' ∧ ∀ key, c'.fifoCount key = c.fifoCount key := by
  unfold State.settled
  rw [hcur]
  split
  · rename_i q' h
    obtain ⟨rfl, rfl⟩ := ThreadId.coach.inj h
    exact ⟨_, State.coach?_updCoach_self hc (fun _ => rfl), fun _ => rfl⟩
  · exact ⟨c, hc, fun _ => rfl⟩

theorem State.updMe_coach (f : Strand → Strand) : (s.updMe f).coach? q = some (c.updStrand p f) := by
  rw [State.updMe, hcur]
  exact State.coach?_updCoach_self hc (fun _ => rfl)

/-- Completion pushes one token, and touches no other count. -/
theorem State.completeBy_coach (f : Strand → Strand) :
    ∃ c', (s.completeBy k f).coach? q = some c' ∧ ∀ key, c'.fifoCount key =
      if k.push ≠ 0#2 ∧ key = fifoKey (streamOfPart p).index (selected (streamOfPart p).index k.push.toNat)
      then c.fifoCount key + 1 else c.fifoCount key := by
  have h1 := State.updMe_coach hcur hc f
  have hcur1 : (s.updMe f).cur = .coach q p := by rw [State.updMe_cur, hcur]
  obtain ⟨c2, h2, hf2⟩ := State.pushToken_coach k hcur1 h1
  have hcur2 : ((s.updMe f).pushToken k).cur = .coach q p := by rw [(State.pushToken_only _ k).cur, hcur1]
  obtain ⟨c3, h3, hf3⟩ := State.settled_coach hcur2 h2
  exact ⟨c3, h3, fun key => (hf3 key).trans (hf2 key)⟩

/-- What stands in the way of a word's tokens, from the coach that it runs on. -/
theorem State.tokenWait_isSome (engineOp : Bool) :
    (s.tokenWait k engineOp).isSome = true ↔
      ((k.pop ≠ 0#2 ∧ (c.strand p).popped = 0) ∧
        c.fifoCount (fifoKey (selected (streamOfPart p).index k.pop.toNat) (streamOfPart p).index) ≤
          c.tokenWaiters (selected (streamOfPart p).index k.pop.toNat) (streamOfPart p).index 8) ∨
      (k.push ≠ 0#2 ∧
        let outKey := fifoKey (streamOfPart p).index (selected (streamOfPart p).index k.push.toNat)
        if engineOp then 8 ≤ c.owedCount outKey else 15 ≤ c.fifoCount outKey) := by
  simp only [State.tokenWait, hcur, hc]
  split
  case isTrue hp => simp [hp]
  case isFalse hp =>
    have hn : ¬((k.pop ≠ 0#2 ∧ (c.strand p).popped = 0) ∧
        c.fifoCount (fifoKey (selected (streamOfPart p).index k.pop.toNat) (streamOfPart p).index) ≤
          c.tokenWaiters (selected (streamOfPart p).index k.pop.toNat) (streamOfPart p).index 8) := by tauto
    rw [or_iff_right hn]
    split
    case isTrue h0 => simp [h0]
    case isFalse h0 =>
      cases engineOp
      · simp only [Bool.false_eq_true, if_false, ne_eq, h0, not_false_eq_true, true_and]
        split <;> simp_all
      · simp only [if_true, ne_eq, h0, not_false_eq_true, true_and]
        split <;> simp_all

end Tokens

/-- NOP has no effect but that of its tokens. -/
theorem exec_nop {s : State} {k : Tok} (h : s.Issues commonWord (.nop k) k) :
    exec (.nop k) s = .next ((s.takeToken k).complete k 1) :=
  issue_of_issues (fun s => .done s) h

/-- Settles O55: each word of the list is an issue of its class; a fault's save is `State.takeFault_saves`; tokens are
taken and pushed in different FIFOs. -/
theorem issueChecks : Obligations.IssueChecks := by
  refine ⟨?_, ?_, ?_⟩
  · intro s k d a b x y z f n m h h1 h2 h3
    refine ⟨fun w => ?_, fun p hp => ?_⟩
    · have h0 : ¬((s.strand? s.cur).isNone = true ∨ s.me.run ≠ .ready ∨ s.live s.cur = false) := by
        simp [h2, h3, Option.isSome_iff_ne_none.1 h1]
      exact if_neg h0
    · simp only [List.mem_cons, List.not_mem_nil, or_false] at hp
      have hi : IssuedAs p.1 k p.2 := by
        rcases hp with rfl | rfl | rfl | rfl | rfl | rfl | rfl | rfl | rfl | rfl | rfl | rfl | rfl | rfl
        · exact regForm_issued (show execAdd k d a b = _ from rfl)
        · exact regForm_issued (show execMul k d a b = _ from rfl)
        · exact ⟨_, show execTfence k = _ from rfl⟩
        · exact ⟨_, show execDget k x d = _ from rfl⟩
        · exact barForm_issued (show execCbarA k h = _ from rfl)
        · exact gateForm_issued (show execGateRead k d a = _ from rfl)
        · exact ⟨_, show execFork k d a m = _ from rfl⟩
        · exact ⟨_, show execTxabort k m = _ from rfl⟩
        · exact sysForm_issued (show execEret k d a = _ from rfl)
        · exact sysForm_issued (show execMoult k d a b = _ from rfl)
        · exact vectorForm_issued (show execVadd k x y z f = _ from rfl)
        · exact ⟨_, show execMwait k h = _ from rfl⟩
        · exact copyForm_issued (show execCpy k x y d a = _ from rfl)
        · exact ⟨_, show execCwait k n = _ from rfl⟩
      exact checks_of_issue h1 h2 h3 hi
  · intro s th st code a p e hs h1 h2
    obtain ⟨hth, hmem, ho, ⟨l, hl, x, hx, hb⟩, hf⟩ := State.takeFault_saves a p e hs h1 h2
    refine ⟨⟨_, hth, rfl, rfl, rfl, rfl, rfl, rfl, rfl, rfl, rfl, rfl⟩, hmem, ho,
      ⟨x, hl ▸ List.mem_append_right _ hx, ?_⟩, fun r hr => hl ▸ List.mem_append_left _ hr, hf⟩
    rw [hb]
    exact ⟨rfl, rfl, rfl, rfl, rfl⟩
  · intro s k q p c hcur hc
    refine ⟨State.tokenWait_isSome k hcur hc false, State.tokenWait_isSome k hcur hc true, fun h => ?_⟩
    obtain ⟨c1, h1, hf1⟩ := State.takeToken_coach k hcur hc
    obtain ⟨c2, h2, hf2⟩ := State.completeBy_coach k ((State.takeToken_cur s k).trans hcur) h1 (Strand.advance 1)
    refine ⟨_, c2, exec_nop h, h2, fun hp => ?_, fun hp => ?_, fun key hin hout => ?_⟩
    · have hne := fifoKey_pop_ne_push k.push.toNat (StreamId.index_lt (streamOfPart p))
        (fun e => hp.1 (BitVec.eq_of_toNat_eq e)) k.pop.isLt
      rw [hf2, if_neg (fun hk => hne hk.2), hf1, if_pos ⟨hp, rfl⟩]
    · rw [hf2, if_pos ⟨hp, rfl⟩, hf1, if_neg]
      rintro ⟨hk, he⟩
      exact fifoKey_pop_ne_push k.push.toNat (StreamId.index_lt (streamOfPart p))
        (fun e => hk.1 (BitVec.eq_of_toNat_eq e)) k.pop.isLt he.symm
    · rw [hf2, if_neg (fun hk => hout hk.1 hk.2), hf1, if_neg (fun hk => hin hk.1 hk.2)]

end Sys2Proof.Machine
end

section
/-! SUPPORT. Waits: the end of a thread's wait, its timeouts, and the timer event (R17, R94, R105, R122, R124, R146,
R243). -/

namespace Sys2Proof.Machine

/-! ## What leaves all threads but one alone -/

theorem OnlyOf.trans {th : ThreadId} {s t u : State} (h : OnlyOf th s t) (g : OnlyOf th t u) : OnlyOf th s u :=
  OnlyThread.trans h g

theorem State.updStrand_onlyOf (s : State) (th : ThreadId) (f : Strand → Strand) : OnlyOf th s (s.updStrand th f) := by
  have h : ({ s with cur := th } : State).updMe f = { s.updStrand th f with cur := th } := by cases th <;> rfl
  rw [OnlyOf, ← h]
  exact State.updMe_only _ f

theorem State.popFrom_onlyOf (s : State) (q p src sel : Nat) : OnlyOf (.coach q p) s (s.popFrom q p src sel) := by
  refine State.updCoach_only { s with cur := .coach q p } q _ (fun _ => rfl) (fun c n hn => ?_)
  rw [Coach.strand_updStrand, if_neg (fun e => hn (by rw [e]))]
  rfl

theorem Coach.strand_setStream (c : Coach) (i : StreamId) (v : Stream) (p : Nat) :
    (c.setStream i v).strand p = c.strand p := by
  cases i <;> rfl

theorem Coach.stream_setStream (c : Coach) (i : StreamId) (v : Stream) : (c.setStream i v).stream i = v := by
  cases i <;> rfl

/-- Threads do not change with a stream. -/
theorem State.strand?_updStream (s : State) (th u : ThreadId) (f : Stream → Stream) :
    (s.updStream th f).strand? u = s.strand? u := by
  cases th with
  | coach q p =>
    exact State.strand?_updCoach _ _ _ (fun _ => Coach.setStream_quad ..) (fun _ _ => Coach.strand_setStream ..)
  | dray d k =>
    cases u with
    | coach q p => rfl
    | dray e j =>
      simp only [State.strand?, State.updStream, State.drayStrand_updDray]
      split <;> rename_i h
      · obtain ⟨rfl, rfl⟩ := h
        rfl
      · rfl

theorem State.stream?_updStream_same (s : State) (th : ThreadId) (f : Stream → Stream) :
    (s.updStream th f).stream? th = (s.stream? th).map f := by
  cases th with
  | coach q p =>
    simp only [State.stream?, State.updStream]
    rw [State.coach?_updCoach s q q _ (fun _ => Coach.setStream_quad ..), if_pos rfl]
    simp only [Option.map_map, Function.comp_def, Coach.stream_setStream]
  | dray d k => simp only [State.stream?, State.updStream, State.drayStrand_updDray, and_self, if_true, Option.map_some]

/-! ## The end of a wait (R94) -/

section Wake

variable {s : State} {th : ThreadId} {st : Strand} {w : Wait}

/-- Only a token and the divider's result are handed over. -/
theorem State.handOver_of_ne (s : State) (th : ThreadId) (h1 : ∀ src, w ≠ .token src) (h2 : w ≠ .divide) :
    s.handOver th w = s := by
  unfold State.handOver
  split
  · exact absurd rfl (h1 _)
  · exact absurd rfl h2
  · rfl

theorem exec_strandReady_of_parked (hs : s.strand? th = some st) (hr : st.run = .parked w) :
    exec (.strandReady th) s =
      if s.waitOver th st w then .next ((s.handOver th w).updStrand th (fun st => { st with run := .ready }))
      else .next s := by
  show execStrandReady th s = _
  simp only [execStrandReady, hs, hr]

/-- A thread that has changed, and nothing of the others. -/
theorem State.strand?_updStrand_same (f : Strand → Strand) (hs : s.strand? th = some st) :
    (s.updStrand th f).strand? th = some (f st) := by
  rw [State.strand?_updStrand, if_pos rfl, hs, Option.map_some]

theorem exec_waiteTimeout_of_parked {m : BitVec 4} {l : Word × Word} (hs : s.strand? th = some st)
    (hr : st.run = .parked (.event m (some l))) :
    exec (.waiteTimeout th) s =
      if l.2.toNat ≤ (s.clocks - l.1).toNat then
        .next (s.updStrand th (fun st => { st with run := .ready, granted := true }))
      else .next s := by
  show execWaiteTimeout th s = _
  simp only [execWaiteTimeout, hs, hr]

theorem strandReady_of_token {q n src : Nat} {c : Coach} (hs : s.strand? (.coach q n) = some st)
    (hr : st.run = .parked (.token src)) (hc : s.coach? q = some c)
    (hw : s.waitOver (.coach q n) st (.token src) = true) :
    ∃ t c' after, exec (.strandReady (.coach q n)) s = .next t ∧ OnlyOf (.coach q n) s t ∧
      t.strand? (.coach q n) = some { st with
        run := .ready, popped := (src + 4 - threadStream (.coach q n)) % 4, behind := after } ∧
      t.coach? q = some c' ∧
        c'.fifoCount (fifoKey src (threadStream (.coach q n))) + 1 =
          c.fifoCount (fifoKey src (threadStream (.coach q n))) := by
  have hlt : c.tokenWaiters src (threadStream (.coach q n)) n < c.fifoCount (fifoKey src (threadStream (.coach q n))) := by
    simp only [State.waitOver, State.coachWait, threadQuad, threadPart, hc, Option.map_some, Option.getD_some] at hw
    exact of_decide_eq_true hw
  obtain rfl : c.strand n = st := by
    rw [State.strand?, hc] at hs
    exact Option.some.inj hs
  obtain ⟨c', after, hc', hst, hf⟩ :=
    State.popFrom_coach n src ((src + 4 - threadStream (.coach q n)) % 4) hc
  refine ⟨_, c'.updStrand n (fun st => { st with run := .ready }), after,
    (exec_strandReady_of_parked hs hr).trans (if_pos hw),
    (State.popFrom_onlyOf ..).trans (State.updStrand_onlyOf ..), ?_,
    State.coach?_updCoach_self hc' (fun _ => rfl), ?_⟩
  · refine (State.strand?_updStrand_same (st := c'.strand n) _ ?_).trans (by rw [hst])
    exact congrArg (Option.map (fun c => c.strand n)) hc'
  · have h := hf (fifoKey src (threadStream (.coach q n)))
    rw [threadStream, if_pos rfl] at h
    exact (congrArg (· + 1) h).trans (Nat.sub_add_cancel (Nat.zero_lt_of_lt hlt))

theorem strandReady_of_divide {x : Stream} (hs : s.strand? th = some st) (hr : st.run = .parked .divide)
    (hx : s.stream? th = some x) (hw : s.waitOver th st .divide = true) :
    ∃ t, exec (.strandReady th) s = .next t ∧ t.mem = s.mem ∧
      t.strand? th = some { st with run := .ready, granted := true } ∧
      t.stream? th = some { x with divider := x.divider.tail } := by
  refine ⟨_, (exec_strandReady_of_parked hs hr).trans (if_pos hw), by simp [State.handOver], ?_, ?_⟩
  · exact State.strand?_updStrand_same _ (State.strand?_updStrand_same _ ((State.strand?_updStream ..).trans hs))
  · simp only [State.handOver, State.stream?_updStrand, State.stream?_updStream_same, hx, Option.map_some]

end Wake

/-! ## The timer event (R124) -/

/-- Updates of single entries, one after the other, each of them once. -/
theorem foldl_read {σ α : Type} (get : σ → Nat → α) (upd : σ → Nat → σ) (g : α → α)
    (h : ∀ s k j, get (upd s k) j = if j = k then g (get s j) else get s j) (l : List Nat) (hl : l.Nodup)
    (s : σ) (j : Nat) :
    get (l.foldl upd s) j = if j ∈ l then g (get s j) else get s j := by
  induction l generalizing s with
  | nil => rfl
  | cons k l ih =>
    obtain ⟨hk, hl⟩ := List.nodup_cons.1 hl
    rw [List.foldl_cons, ih hl, h]
    by_cases hj : j = k
    · subst hj
      simp [hk]
    · simp [hj]

/-- What the timer event does to a thread. -/
def Strand.ticked (st : Strand) : Strand := { st with latch := st.latch ||| 8#4 }

/-- What it does to a coach. -/
def Coach.ticked (c : Coach) : Coach := (List.range 11).foldl (fun c p => c.updStrand p Strand.ticked) c

/-- What it does to the threads of a Dray. -/
def State.tickDray (s : State) (d : Nat) : State :=
  (List.range 8).foldl (fun s k => s.updDray d k (fun x => { x with th := x.th.ticked })) s

theorem Coach.strand_ticked (c : Coach) {p : Nat} (hp : p < 11) : c.ticked.strand p = (c.strand p).ticked := by
  have h := foldl_read Coach.strand (fun c p => c.updStrand p Strand.ticked) Strand.ticked
    (fun c k j => by
      rw [Coach.strand_updStrand]
      split <;> rename_i hj
      · rw [hj]
      · rfl) (List.range 11) List.nodup_range c p
  rw [if_pos (List.mem_range.2 hp)] at h
  exact h

theorem Coach.ticked_quad (c : Coach) : c.ticked.quad = c.quad := by
  have fold : ∀ (l : List Nat) (c : Coach), (l.foldl (fun c p => c.updStrand p Strand.ticked) c).quad = c.quad := by
    intro l
    induction l with
    | nil => exact fun _ => rfl
    | cons p l ih => exact fun c => (ih _).trans rfl
  exact fold _ c

theorem State.drayStrand_tickDray (s : State) (d e : Nat) {k : Nat} (hk : k < 8) :
    (s.tickDray d).drayStrand e k =
      if e = d then { s.drayStrand e k with th := (s.drayStrand e k).th.ticked } else s.drayStrand e k := by
  by_cases he : e = d
  · subst he
    have h := foldl_read (fun s : State => s.drayStrand e) (fun s k => s.updDray e k (fun x => { x with th := x.th.ticked }))
      (fun x => { x with th := x.th.ticked }) (fun s k j => by
        rw [State.drayStrand_updDray]
        by_cases hj : j = k
        · simp [hj]
        · simp [hj]) (List.range 8) List.nodup_range s k
    rw [if_pos (List.mem_range.2 hk)] at h
    rw [if_pos rfl]
    exact h
  · have h := foldl_read (fun s : State => s.drayStrand e) (fun s k => s.updDray d k (fun x => { x with th := x.th.ticked }))
      id (fun s k j => by simp [State.drayStrand_updDray, he]) (List.range 8) List.nodup_range s k
    rw [if_neg he]
    exact h.trans (ite_self _)

/-- The Drays' threads of all dies after the event. -/
theorem State.drayStrand_tickDrays (s : State) {d k : Nat} (hd : d < 4) (hk : k < 8) :
    ([0, 1, 2, 3].foldl State.tickDray s).drayStrand d k =
      { s.drayStrand d k with th := (s.drayStrand d k).th.ticked } := by
  have h := foldl_read (fun (s : State) d => s.drayStrand d k) State.tickDray (fun x => { x with th := x.th.ticked })
    (fun s d e => State.drayStrand_tickDray s d e hk) [0, 1, 2, 3] (by decide) s d
  rw [if_pos (by simp only [List.mem_cons, List.not_mem_nil, or_false]; omega)] at h
  exact h

theorem State.tickDray_eq (s : State) (d : Nat) : s.tickDray d = { s with dies := (s.tickDray d).dies } := by
  have fold : ∀ (l : List Nat) (s : State), l.foldl (fun s k => s.updDray d k (fun x => { x with th := x.th.ticked })) s =
      { s with dies := (l.foldl (fun s k => s.updDray d k (fun x => { x with th := x.th.ticked })) s).dies } := by
    intro l
    induction l with
    | nil => exact fun _ => rfl
    | cons k l ih => exact fun s => (ih _).trans rfl
  exact fold _ s

theorem State.tickDrays_eq (l : List Nat) (s : State) :
    l.foldl State.tickDray s = { s with dies := (l.foldl State.tickDray s).dies } := by
  induction l generalizing s with
  | nil => rfl
  | cons d l ih =>
    rw [List.foldl_cons, ih, State.tickDray_eq]

/-- The part after the timer event. -/
def State.ticked (s : State) : State :=
  [0, 1, 2, 3].foldl State.tickDray { s with coaches := s.coaches.map Coach.ticked }

theorem exec_timerEvent (s : State) : exec .timerEvent s = .next s.ticked := rfl

theorem State.ticked_eq (s : State) :
    s.ticked = { s with coaches := s.coaches.map Coach.ticked, dies := s.ticked.dies } :=
  State.tickDrays_eq _ _

theorem State.ticked_coach? (s : State) (q : Nat) : s.ticked.coach? q = (s.coach? q).map Coach.ticked := by
  rw [State.ticked_eq]
  simp only [State.coach?, List.find?_map, Function.comp_def, Coach.ticked_quad]

theorem State.ticked_strand?_coach (s : State) (q : Nat) {p : Nat} (hp : p < 11) :
    s.ticked.strand? (.coach q p) = (s.strand? (.coach q p)).map Strand.ticked := by
  simp only [State.strand?, State.ticked_coach?, Option.map_map, Function.comp_def, Coach.strand_ticked _ hp]

theorem State.ticked_strand?_dray (s : State) {d k : Nat} (hd : d < 4) (hk : k < 8) :
    s.ticked.strand? (.dray d k) = (s.strand? (.dray d k)).map Strand.ticked := by
  simp only [State.strand?, State.ticked, State.drayStrand_tickDrays _ hd hk]
  rfl

/-! ## Timeouts (R146, R243) -/

theorem State.threadRecord_slice {s : State} {q p code : Nat} {c : Coach} {a f e : Word} (hc : s.coach? q = some c) :
    (s.threadRecord (.coach q p) code a f e).slice = c.slice := by
  simp only [State.threadRecord, mkRecord, State.sliceOf, hc, Option.map_some, Option.getD_some]

/-- A timeout of a coach's thread, a fault of class 2: one record to the slice's level, and the thread stops. -/
theorem State.takeFault_class2 {s : State} {q p code : Nat} {c : Coach} {st : Strand} (a f e : Word)
    (hc : s.coach? q = some c) (hs : s.strand? (.coach q p) = some st) (h2 : faultClass code = 2) :
    let th := ThreadId.coach q p
    let t := s.takeFault th code a f e
    t.mem = s.mem ∧ t.strand? th = some (st.stop code a f e) ∧ t.faults = s.faults ++
      [{ id := s.nextReq, body := s.threadRecord th code a f e, level := c.slice, die := quadDie q, waiting := false }] := by
  have h1 : code ≠ codePoison ∧ code ≠ codeWindow := by
    constructor <;> (rintro rfl; cases h2)
  obtain ⟨hth, hmem, -⟩ := State.takeFault_saves a f e hs h1.1 h1.2
  refine ⟨hmem, hth, ?_⟩
  have hp : s.postThread (.coach q p) code a f e = s.post (s.threadRecord (.coach q p) code a f e) c.slice (quadDie q) := by
    simp [State.postThread, State.postSlice, State.threadRecord, mkRecord, h2, classHome, levelKey, State.sliceOf, hc]
  rw [State.takeFault_of_ne s _ a f e h1.1 h1.2, hp]
  simp [State.post]

/-- Settles O41: `exec_strandReady_of_parked` for the waits, `foldl_read` for the timer, `State.takeFault_class2` for the
timeouts. -/
theorem waitEnds : Obligations.WaitEnds := by
  refine ⟨fun s th st hs => ⟨?_, ?_, ?_, ?_, fun m start limit hr => ⟨?_, ?_⟩⟩, fun s => ?_,
    fun s q p c st hc hs => ⟨fun src hr => ⟨?_, ?_⟩, fun h b hr hb => ⟨?_, ?_⟩⟩⟩
  · intro w hr hw h1 h2
    refine ⟨_, (exec_strandReady_of_parked hs hr).trans (if_pos hw), ?_, ?_⟩
    · rw [State.handOver_of_ne s th h1 h2]
      exact State.updStrand_onlyOf ..
    · rw [State.handOver_of_ne s th h1 h2]
      exact State.strand?_updStrand_same _ hs
  · intro w hr hw
    exact (exec_strandReady_of_parked hs hr).trans (if_neg (by simp [hw]))
  · rintro q n src c rfl hr hc key hw
    exact strandReady_of_token hs hr hc hw
  · exact fun x hx hr hw => strandReady_of_divide hs hr hx hw
  · exact fun hl => ⟨_, (exec_waiteTimeout_of_parked hs hr).trans (if_pos hl), State.updStrand_onlyOf s th _,
      State.strand?_updStrand_same _ hs⟩
  · exact fun hl => (exec_waiteTimeout_of_parked hs hr).trans (if_neg (Nat.not_le.2 hl))
  · exact ⟨_, exec_timerEvent s, by rw [State.ticked_eq], fun q p hp => State.ticked_strand?_coach s q hp,
      fun d k hd hk => State.ticked_strand?_dray s hd hk⟩
  · intro hw hh
    obtain ⟨hm, ht, hf⟩ := State.takeFault_class2 (word src) 0#64 st.pc hc hs (code := codeTokenTimeout) rfl
    refine ⟨_, _, ?_, hm, ht, hf, rfl, rfl, rfl, rfl, rfl, rfl, State.threadRecord_slice hc, rfl⟩
    show execTokenTimeout _ s = _
    simp only [execTokenTimeout, hs, hr, hw, hh, and_self, if_true]
  · intro hw
    show execTokenTimeout _ s = _
    simp only [execTokenTimeout, hs, hr]
    rw [if_neg]
    rintro ⟨h1, h2⟩
    rcases hw with hw | hw
    · omega
    · simp [hw] at h2
  · intro hg hw
    obtain ⟨hm, ht, hf⟩ := State.takeFault_class2 (code := codeBarrierTimeout) (word h) (word (((SMap.get (fun _ =>
      (none : Option (BitVec 16))) st.snaps h).getD 0#16).toNat * 2 ^ 16 + barCount (s.bar b))) st.pc hc hs rfl
    refine ⟨_, _, ?_, hm, ht, hf, rfl, rfl, rfl, rfl, rfl, rfl, State.threadRecord_slice hc, rfl⟩
    show execBarrierTimeout _ s = _
    simp only [execBarrierTimeout, hs, threadQuad, hc, hr, hb, hg, hw, and_self, if_true]
  · intro hw
    show execBarrierTimeout _ s = _
    simp only [execBarrierTimeout, hs, threadQuad, hc, hr, hb]
    rw [if_neg]
    rintro ⟨h1, h2⟩
    rcases hw with hw | hw
    · simp [hw] at h1
    · omega

end Sys2Proof.Machine
end

section
/-! SUPPORT. CoachWords: a word that only coaches have: the coach that it runs on, and its acceptance into a queue (R17,
R41, R384). -/

namespace Sys2Proof.Machine

/-! ## The coach of a running word -/

theorem State.coach?_quad {s : State} {q : Nat} {c : Coach} (h : s.coach? q = some c) : c.quad = q := by
  simpa using List.find?_some h

theorem State.myCoach?_eq_some {s : State} {c : Coach} (h : s.myCoach? = some c) :
    ∃ p, s.cur = .coach c.quad p ∧ s.coach? c.quad = some c := by
  unfold State.myCoach? at h
  split at h
  · rename_i q p hcur
    have hq := State.coach?_quad h
    exact ⟨p, hq ▸ hcur, hq ▸ h⟩
  · cases h

theorem State.myCoach?_of_cur {s : State} {q p : Nat} (h : s.cur = .coach q p) : s.myCoach? = s.coach? q := by
  rw [State.myCoach?, h]

theorem withCoach_of_some {s : State} {c : Coach} (h : s.myCoach? = some c) (f : Coach → Res) : withCoach s f = f c := by
  rw [withCoach, h]

/-- Reading a coach that another one of its quadrant has replaced. -/
theorem State.coach?_replaced {s : State} {q : Nat} {c c' : Coach} (hc : s.coach? q = some c) (hq : c'.quad = q) :
    (s.updCoach q (fun _ => c')).coach? q = some c' := by
  have hf : s.updCoach q (fun _ => c') = s.updCoach q (fun x => if x.quad = q then c' else x) := by
    unfold State.updCoach updateWhere
    congr 1
    refine List.map_congr_left (fun x _ => ?_)
    simp only [beq_iff_eq]
    split <;> rfl
  rw [hf, State.coach?_updCoach_self hc (fun x => ?_), if_pos (State.coach?_quad hc)]
  split <;> rename_i h
  · rw [hq, h]
  · rfl

/-- A coach with other threads and token counts. -/
def Coach.withThreads (c : Coach) (st : SMap Strand) (ff : SMap Nat) : Coach := { c with strands := st, fifo := ff }

theorem State.takeToken_eq (s : State) (k : Tok) : s.takeToken k = { s with coaches := (s.takeToken k).coaches } := by
  unfold State.takeToken
  split
  · rfl
  · split <;> rfl

/-- A word that takes its token changes no more of its coach than a thread and a count. -/
theorem State.takeToken_myCoach? {s : State} {c : Coach} (k : Tok) (hc : s.myCoach? = some c) :
    ∃ st ff, (s.takeToken k).myCoach? = some (c.withThreads st ff) := by
  obtain ⟨p, hcur, hq⟩ := State.myCoach?_eq_some hc
  rw [State.myCoach?_of_cur ((State.takeToken_cur s k).trans hcur)]
  unfold State.takeToken
  rw [hcur]
  dsimp only
  split
  · exact ⟨c.strands, c.fifo, hq⟩
  · exact ⟨_, _, State.coach?_updCoach_self hq (fun _ => rfl)⟩

section Issue

variable {cls : WordClass} {i : Instr} {k : Tok} {s : State} {c : Coach}

/-- A word that issues on a coach runs there once its token is taken. -/
theorem exec_of_withCoach {body : State → Coach → Res} (h : s.Issues cls i k) (hc : s.myCoach? = some c)
    (he : exec i = issue cls i k (fun s => withCoach s (body s))) :
    ∃ st ff, (s.takeToken k).myCoach? = some (c.withThreads st ff) ∧
      exec i s = (body (s.takeToken k) (c.withThreads st ff)).apply k cls.words s.me.pc s.cur := by
  obtain ⟨st, ff, h1⟩ := State.takeToken_myCoach? k hc
  refine ⟨st, ff, h1, ?_⟩
  rw [he, issue_of_issues _ h, withCoach_of_some h1]

theorem traps_of_fault {n code : Nat} {a p : Option Word}
    (he : exec i s = (Res.fault (s.takeToken k) code a p).apply k n s.me.pc s.cur) : Traps i s k code a p :=
  he

theorem traps_of_undefUse {j : Instr} {n : Nat} (hj : j = i)
    (he : exec i s = (undefUse (s.takeToken k) j).apply k n s.me.pc s.cur) :
    Traps i s k 0x0201 (some s.me.pc) (some ((instrWord i).setWidth 64)) := by
  rw [undefUse, State.takeToken_pc, hj] at he
  exact he

theorem parks_of_wait {n : Nat} {w : Wait}
    (he : exec i s = (Res.wait (s.takeToken k) w).apply k n s.me.pc s.cur) : Parks i s k w := by
  rw [Parks, he, Res.apply, (State.takeToken_only s k).1]

/-- A word that is done where it has taken its token does nothing else. -/
theorem does_self_of_done {n : Nat} {pc : Word} {th : ThreadId} (h : s.Issues cls i k)
    (he : exec i s = (Res.done (s.takeToken k)).apply k n pc th) (hn : n = 1) : Does i s s := by
  obtain ⟨t, h1, h2, h3, h4⟩ := does_of_done he hn h.isSome rfl
  exact ⟨t, h1, h2, h3, (State.takeToken_only s k).trans h4⟩

end Issue

/-! ## Acceptance (R17, R384) -/

theorem State.stream?_updCoach (s : State) (q : Nat) {f : Coach → Coach} (u : ThreadId)
    (hq : ∀ c, (f c).quad = c.quad) (hs : ∀ c i, (f c).stream i = c.stream i) :
    (s.updCoach q f).stream? u = s.stream? u := by
  cases u with
  | dray d k => rfl
  | coach r p =>
    simp only [State.stream?, State.coach?_updCoach s q r f hq]
    split <;> rename_i h
    · simp only [h, Option.map_map, Function.comp_def, hs]
    · rfl

theorem OnlyThread.preciseMode {s t : State} (h : OnlyThread s t) : t.preciseMode = s.preciseMode := by
  have hcur := h.cur
  obtain ⟨-, -, -, -, hstream⟩ := h
  rw [State.preciseMode, State.preciseMode, State.myStream, State.myStream, hstream, hcur]

@[simp] theorem Coach.owe_quad (c : Coach) (i push : Nat) : (c.owe i push).quad = c.quad := by
  unfold Coach.owe
  split <;> rfl

@[simp] theorem Coach.strand_owe (c : Coach) (i push p : Nat) : (c.owe i push).strand p = c.strand p := by
  unfold Coach.owe
  split <;> rfl

@[simp] theorem Coach.stream_owe (c : Coach) (i push : Nat) (j : StreamId) : (c.owe i push).stream j = c.stream j := by
  unfold Coach.owe
  split
  · rfl
  · cases j <;> rfl

/-- What enters a queue leaves the coach's threads and streams as they were. -/
structure Coach.Queues (f : Coach → Coach) : Prop where
  quad   : ∀ c, (f c).quad = c.quad
  strand : ∀ c p, (f c).strand p = c.strand p
  stream : ∀ c i, (f c).stream i = c.stream i

section Accept

variable {w : State} {k : Tok} {seq : Nat} {f : Coach → Coach} (hf : Coach.Queues f)
include hf

theorem Coach.Queues.accepts_me : (w.accepts k seq f).me = w.me := by
  have h := State.strand?_updCoach w (threadQuad w.cur) w.cur
    (fun c => (Coach.owe_quad ..).trans (hf.quad { c with nextSeq := seq + 1 }))
    (fun c p => (Coach.strand_owe _ (threadStream w.cur) k.push.toNat p).trans (hf.strand { c with nextSeq := seq + 1 } p))
  rw [State.me, State.me, ← h]
  rfl

theorem Coach.Queues.accepts_preciseMode : (w.accepts k seq f).preciseMode = w.preciseMode := by
  have h := State.stream?_updCoach w (threadQuad w.cur) w.cur
    (fun c => (Coach.owe_quad ..).trans (hf.quad { c with nextSeq := seq + 1 }))
    (fun c p => (Coach.stream_owe _ (threadStream w.cur) k.push.toNat p).trans (hf.stream { c with nextSeq := seq + 1 } p))
  rw [State.preciseMode, State.preciseMode, State.myStream, State.myStream, ← h]
  rfl

theorem Coach.Queues.accepts_isSome : ((w.accepts k seq f).strand? w.cur).isSome = (w.strand? w.cur).isSome := by
  have h := State.strand?_updCoach w (threadQuad w.cur) w.cur
    (fun c => (Coach.owe_quad ..).trans (hf.quad { c with nextSeq := seq + 1 }))
    (fun c p => (Coach.strand_owe _ (threadStream w.cur) k.push.toNat p).trans (hf.strand { c with nextSeq := seq + 1 } p))
  exact congrArg Option.isSome h

/-- An accepted word's thread moves past it; the token that it pushes is owed. -/
theorem enters_of_queued {i : Instr} {s : State} {n : Nat} {pc : Word} {th : ThreadId}
    (hme : w.me = (s.takeToken k).me) (hsome : (w.strand? w.cur).isSome = true)
    (he : exec i s = (Res.queued (w.accepts k seq f) none).apply k n pc th) : Enters i s (w.accepts k seq f) n := by
  have hm : ((w.accepts k seq f).updMe (Strand.advance n)).settled.me = Strand.advance n (s.takeToken k).me := by
    rw [State.settled_me, State.me_updMe _ _ (hf.accepts_isSome.trans hsome), hf.accepts_me, hme]
  refine ⟨_, he, ⟨fun r => ?_, fun r => ?_⟩, ?_, (State.updMe_only _ _).trans (State.settled_only _)⟩
  · rw [State.reg, hm, ← State.takeToken_reg s k r]
    rfl
  · rw [State.pois, hm, ← State.takeToken_pois s k r]
    rfl
  · unfold Moved Leaves
    rw [hm, State.takeToken_me]
    rfl

/-- A word that an engine accepts, where it has taken its token and may have opened its launch. -/
theorem accepts_of_accept {cls : WordClass} {i : Instr} {s : State} {c : Coach} {n : Nat} {precise : Bool}
    {enter : Coach → Nat → Coach} {pc : Word} {th : ThreadId} (h : s.Issues cls i k) (hc : s.myCoach? = some c)
    (hw : ∃ l, w = { s.takeToken k with launches := l }) (hq : c.nextSeq = seq)
    (hen : (fun x => enter x seq) = f) {st : SMap Strand} {ff : SMap Nat}
    (he : exec i s = (accept w (c.withThreads st ff) k precise enter).apply k n pc th) :
    Accepts i s w k n seq precise f := by
  obtain ⟨p, hs, -⟩ := State.myCoach?_eq_some hc
  obtain ⟨l, rfl⟩ := hw
  subst hq hen
  have hcur := State.takeToken_cur s k
  have hpm : State.preciseMode { s.takeToken k with launches := l } = s.preciseMode :=
    (State.takeToken_only s k).preciseMode
  have hquad : threadQuad (s.takeToken k).cur = c.quad := by rw [hcur, hs, threadQuad]
  have ha : accept { s.takeToken k with launches := l } (c.withThreads st ff) k precise enter =
      .queued (State.accepts { s.takeToken k with launches := l } k c.nextSeq (fun x => enter x c.nextSeq))
        (if precise && s.preciseMode then some c.nextSeq else none) := by
    rw [← hpm, ← hf.accepts_preciseMode (k := k) (seq := c.nextSeq)]
    unfold accept State.accepts
    rw [hquad]
    rfl
  rw [ha] at he
  refine ⟨fun hp => ?_, fun hp => ?_⟩
  · rw [hp] at he
    exact enters_of_queued hf rfl h.isSome he
  · rw [hp] at he
    rw [he]
    have ht : (State.accepts { s.takeToken k with launches := l } k c.nextSeq (fun x => enter x c.nextSeq)).tsc = s.tsc := by
      rw [State.takeToken_eq]
      rfl
    simp only [if_true, Res.apply, ht]

end Accept

end Sys2Proof.Machine
end

section
/-! SUPPORT. CopyEntry: the checks of a copy word and its entry into the copy queue (R24, R42, R208-R228). -/

namespace Sys2Proof.Machine

/-! ## What the checks read of a coach: nothing of its threads and tokens -/

section Checks

variable (s : State) (c : Coach) (l : List Coach) (st : SMap Strand) (ff : SMap Nat)

theorem desc_withThreads (e : Nat) : (c.withThreads st ff).desc e = c.desc e := rfl

theorem copyCheck_withThreads (o : CopyCmd) (pol : BitVec 4) :
    copyCheck { s with coaches := l } (c.withThreads st ff) o pol = copyCheck s c o pol := rfl

theorem followOp_withThreads (fo : FollowOn) (pc : Word) (source : Nat) :
    followOp (c.withThreads st ff) fo pc source = followOp c fo pc source := rfl

theorem neighbour_withThreads (d : Desc) :
    State.neighbour { s with coaches := l } (c.withThreads st ff) d = s.neighbour c d := rfl

theorem copyCheck_takeToken (k : Tok) (o : CopyCmd) (pol : BitVec 4) :
    copyCheck (s.takeToken k) (c.withThreads st ff) o pol = copyCheck s c o pol := by
  rw [State.takeToken_eq, copyCheck_withThreads]

theorem neighbour_takeToken (k : Tok) (d : Desc) : (s.takeToken k).neighbour (c.withThreads st ff) d = s.neighbour c d := by
  rw [State.takeToken_eq, neighbour_withThreads]

theorem newCopy_takeToken (i : Instr) (op : Nat) (dst src : Desc) (k k' : Tok) :
    newCopy i op dst src (s.takeToken k) k' = newCopy i op dst src s k' := by
  simp only [newCopy, State.takeToken_pc, State.takeToken_cur]

theorem moveCmd_takeToken (i : Instr) (op : Nat) (d sr : BitVec 6) (cnt pol : BitVec 4) (k k' : Tok) :
    moveCmd i op d sr cnt pol k' (s.takeToken k) (c.withThreads st ff) = moveCmd i op d sr cnt pol k' s c := by
  simp only [moveCmd, CopyCmd.counted, newCopy_takeToken, State.takeToken_reg, neighbour_takeToken]
  rfl

end Checks

theorem State.openLaunch_eq (s : State) (th : ThreadId) : ∃ l, s.openLaunch th = { s with launches := l } := by
  unfold State.openLaunch
  split
  · exact ⟨_, rfl⟩
  · exact ⟨s.launches, rfl⟩

/-! ## Entry into the queue (R208, R222, R384) -/

/-- The command joins the queue's tail. -/
def CopyCmd.queued (o : CopyCmd) (seq : Nat) (c : Coach) : Coach :=
  { c with copyq := c.copyq ++ [{ o with seq := seq, extents := o.checker }] }

theorem CopyCmd.queues (o : CopyCmd) (seq : Nat) : Coach.Queues (o.queued seq) :=
  ⟨fun _ => rfl, fun _ _ => rfl, fun _ i => by cases i <;> rfl⟩

/-- The word waits for a place in the queue and in the range checker, and is then accepted. -/
def EntersCopyQueue (i : Instr) (s : State) (k : Tok) (c : Coach) (n : Nat) (o : CopyCmd) (esc : Bool) : Prop :=
  (32 ≤ c.copyq.length → Parks i s k (.copyQueue 32)) ∧
  (c.copyq.length < 32 → o.checker ≠ [] → c.checkerFull = true → Parks i s k .checker) ∧
  (c.copyq.length < 32 → o.checker = [] ∨ c.checkerFull = false →
    Accepts i s (if esc then (s.takeToken k).openLaunch s.cur else s.takeToken k) k n c.nextSeq true (o.queued c.nextSeq))

/-- The word checks its policy and its operands, and then enters the queue. -/
def GoesToCopyQueue (i : Instr) (s : State) (k : Tok) (c : Coach) (o : CopyCmd) (pol : BitVec 4) : Prop :=
  let refused := badPolicy o.pol = true ∨ o.scopeBad = true
  (refused → Traps i s k 0x0201 (some s.me.pc) (some ((instrWord i).setWidth 64))) ∧
  (¬refused → ∀ code, copyCheck s c o pol = some code → Traps i s k code none none) ∧
  (¬refused → copyCheck s c o pol = none → EntersCopyQueue i s k c 1 o (o.op == 0x44 || decide (o.endp < 8)))

section Word

variable {cls : WordClass} {i : Instr} {k : Tok} {s : State} {c : Coach} {st : SMap Strand} {ff : SMap Nat}
  {o : CopyCmd} {pol : BitVec 4} {n : Nat}

theorem entersCopyQueue_of_copyEnter {esc : Bool} (h : s.Issues cls i k)
    (hc : s.myCoach? = some c)
    (he : exec i s = (copyEnter (s.takeToken k) (c.withThreads st ff) k o true esc (fun c => c)).apply k n s.me.pc s.cur) :
    EntersCopyQueue i s k c n o esc := by
  unfold copyEnter at he
  refine ⟨fun h32 => ?_, fun h32 hne hfull => ?_, fun h32 hfree => ?_⟩
  · rw [if_pos (show 32 ≤ (c.withThreads st ff).copyq.length from h32)] at he
    exact parks_of_wait he
  · have hfull' : (c.withThreads st ff).checkerFull = true := hfull
    rw [if_neg (show ¬32 ≤ (c.withThreads st ff).copyq.length from Nat.not_le.2 h32), if_pos (by simp [hne, hfull'])] at he
    exact parks_of_wait he
  · have hfree' : o.checker = [] ∨ (c.withThreads st ff).checkerFull = false := hfree
    rw [if_neg (show ¬32 ≤ (c.withThreads st ff).copyq.length from Nat.not_le.2 h32),
      if_neg (by rcases hfree' with h | h <;> simp [h]), State.takeToken_cur] at he
    refine accepts_of_accept (o.queues c.nextSeq) h hc ?_ rfl rfl he
    split
    · exact State.openLaunch_eq _ _
    · exact ⟨_, rfl⟩

theorem goesToCopyQueue_of_copyGo (h : s.Issues cls i k) (hc : s.myCoach? = some c) (hi : o.ins = i)
    (he : exec i s = (copyGo (s.takeToken k) (c.withThreads st ff) k o pol).apply k 1 s.me.pc s.cur) :
    GoesToCopyQueue i s k c o pol := by
  rw [copyGo, copyCheck_takeToken] at he
  refine ⟨fun hr => ?_, fun hr code hk => ?_, fun hr hk => ?_⟩
  · rw [if_pos hr] at he
    exact traps_of_undefUse hi he
  · rw [if_neg hr, hk] at he
    exact traps_of_fault he
  · rw [if_neg hr, hk] at he
    exact entersCopyQueue_of_copyEnter h hc he

/-- A word with count and policy registers. -/
theorem copyForm_goes {fs : List Nat} {cnt : BitVec 4} {entry : State → Coach → CopyCmd}
    (h : s.Issues (lsWord fs true) i k) (hc : s.myCoach? = some c) (hex : exec i = copyForm fs i k cnt pol entry)
    (hen : ∀ st ff, entry (s.takeToken k) (c.withThreads st ff) = o) (hi : o.ins = i) :
    ((s.pois cnt || s.pois pol) = true → Traps i s k 0x0401 none none) ∧
      ((s.pois cnt || s.pois pol) = false → GoesToCopyQueue i s k c o pol) := by
  obtain ⟨st, ff, -, he⟩ := exec_of_withCoach h hc hex
  rw [consume, State.takeToken_pois, State.takeToken_pois, hen] at he
  refine ⟨fun hp => ?_, fun hp => ?_⟩
  · rw [hp] at he
    exact traps_of_fault he
  · rw [hp] at he
    exact goesToCopyQueue_of_copyGo h hc hi he

end Word

/-! ## The words -/

section Words

variable {s : State} {k : Tok} {c : Coach} (hc : s.myCoach? = some c)
include hc

/-- A word that moves bytes between two descriptors (R220-R222, R226). -/
theorem moveForm_goes {fs : List Nat} {i : Instr} {op : Nat} {d e : BitVec 6} {n p : BitVec 4}
    (h : s.Issues (lsWord fs true) i k) (hex : exec i = copyForm fs i k n p (moveCmd i op d e n p k)) :
    ((s.pois n || s.pois p) = true → Traps i s k 0x0401 none none) ∧
      ((s.pois n || s.pois p) = false → GoesToCopyQueue i s k c (moveCmd i op d e n p k s c) p) :=
  copyForm_goes h hc hex (fun st ff => moveCmd_takeToken s c st ff i op d e n p k k) rfl

/-- CPYH, with its destination or without (R223). -/
theorem cpyh_goes {d e : BitVec 6} {n p : BitVec 4} {v : BitVec 1} (h : s.Issues (lsWord [17] true) (.cpyh k d e n p v) k) :
    let hash := moveCmd (.cpyh k d e n p v) 0x45 d e n p k s c
    ((s.pois n || s.pois p) = true → Traps (.cpyh k d e n p v) s k 0x0401 none none) ∧
      ((s.pois n || s.pois p) = false → GoesToCopyQueue (.cpyh k d e n p v) s k c
        (if d = 0#6 then { hash with dst := hash.src, noDst := true } else hash) p) := by
  refine copyForm_goes h hc (show execCpyh k d e n p v = _ from rfl) (fun st ff => ?_) ?_
  · simp only [moveCmd_takeToken]
  · split <;> rfl

theorem hfin_goes {d : BitVec 6} (h : s.Issues (lsWord [17] true) (.hfin k d) k) :
    ((s.pois 0#4 || s.pois 0#4) = true → Traps (.hfin k d) s k 0x0401 none none) ∧
      ((s.pois 0#4 || s.pois 0#4) = false → GoesToCopyQueue (.hfin k d) s k c
        { newCopy (.hfin k d) 0x4A (c.desc d.toNat) Desc.zero s k with count := (c.desc d.toNat).count } 0#4) := by
  refine copyForm_goes h hc (show execHfin k d = _ from rfl) (fun st ff => ?_) rfl
  simp only [newCopy_takeToken]
  rfl

/-- CFILL: its pattern's poison is consumed where the destination is memory (R219, R225). -/
theorem cfill_goes {d : BitVec 6} {n p : BitVec 4} {v : BitVec 1} (h : s.Issues (lsWord [] true) (.cfill k d n p v) k) :
    let dst := c.desc d.toNat
    let o := { newCopy (.cfill k d n p v) 0x46 dst Desc.zero s k with
      pol := (s.reg p).setWidth 32
      cval := if v = 1#1 then (s.reg n).setWidth 32 ++ (s.reg n).setWidth 32 else s.reg n
      cpoison := s.pois n
      count := dst.count }
    let poisoned := s.pois p = true ∨ (s.pois n = true ∧ dst.space = spGlobal)
    (poisoned → Traps (.cfill k d n p v) s k 0x0401 none none) ∧
      (¬poisoned → GoesToCopyQueue (.cfill k d n p v) s k c o p) := by
  obtain ⟨st, ff, -, he⟩ := exec_of_withCoach h hc (show execCfill k d n p v = _ from rfl)
  simp only [newCopy_takeToken, desc_withThreads, State.takeToken_reg, State.takeToken_pois, consume,
    Bool.or_eq_true, Bool.and_eq_true, beq_iff_eq] at he
  refine ⟨fun hp => ?_, fun hp => ?_⟩
  · rw [if_pos hp] at he
    exact traps_of_fault he
  · rw [if_neg hp] at he
    exact goesToCopyQueue_of_copyGo h hc rfl he

/-- CPYC: the copy's own checks, then those of its follow-on (R220; log entry 140). -/
theorem cpyc_goes {d e : BitVec 6} {n p : BitVec 4} {fo : FollowOn}
    (h : s.Issues { lsWord (followFeatures fo) true with words := 2 } (.cpyc k d e n p fo) k)
    (hp : (s.pois n || s.pois p) = false) :
    let i := Instr.cpyc k d e n p fo
    let o := moveCmd i 0x41 d e n p k s c
    let m := followOp c fo s.me.pc (if threadStream s.cur = 1 then 1 else 2)
    let refused := badPolicy o.pol = true ∨ o.scopeBad = true
    (refused → Traps i s k 0x0201 (some s.me.pc) (some ((instrWord i).setWidth 64))) ∧
    (¬refused → ∀ code, copyCheck s c o p = some code → Traps i s k code none none) ∧
    (¬refused → copyCheck s c o p = none →
      (∀ q, c.kat = some q → Traps i s k 0x0403 (some 0#64) (some q)) ∧
      (c.kat = none → ∀ code, m.1 = some code → Traps i s k code none none) ∧
      (c.kat = none → m.1 = none → EntersCopyQueue i s k c 2
        { o with follow := some { m.2 with iword := (encode i).getD 1 0#32 } } (decide (o.endp < 8)))) := by
  obtain ⟨st, ff, -, he⟩ := exec_of_withCoach h hc (show execCpyc k d e n p fo = _ from rfl)
  simp only [moveCmd_takeToken, followOp_withThreads, copyCheck_takeToken, State.takeToken_pois, State.takeToken_pc,
    State.takeToken_cur, consume, hp, Bool.false_eq_true, if_false] at he
  refine ⟨fun hr => ?_, fun hr code hk => ?_, fun hr hk => ?_⟩
  · rw [if_pos hr] at he
    exact traps_of_undefUse rfl he
  · rw [if_neg hr, hk] at he
    exact traps_of_fault he
  rw [if_neg hr, hk] at he
  refine ⟨fun q hq => ?_, fun hq code hm => ?_, fun hq hm => ?_⟩
  · rw [afterKat, show (c.withThreads st ff).kat = some q from hq] at he
    exact traps_of_fault he
  · rw [afterKat, show (c.withThreads st ff).kat = none from hq, hm] at he
    exact traps_of_fault he
  · rw [afterKat, show (c.withThreads st ff).kat = none from hq, hm] at he
    exact entersCopyQueue_of_copyEnter h hc he

/-- CWAIT counts the commands of its own stream (R227). -/
theorem cwait_waits {w : BitVec 5} (h : s.Issues (lsWord [] false) (.cwait k w) k) :
    (c.copyCount (threadStream s.cur) ≤ w.toNat → Does (.cwait k w) s s) ∧
      (w.toNat < c.copyCount (threadStream s.cur) → Parks (.cwait k w) s k (.copyQueue w.toNat)) := by
  obtain ⟨st, ff, -, he⟩ := exec_of_withCoach h hc (show execCwait k w = _ from rfl)
  rw [State.takeToken_cur, show ∀ n, (c.withThreads st ff).copyCount n = c.copyCount n from fun _ => rfl] at he
  refine ⟨fun hw => ?_, fun hw => ?_⟩
  · rw [if_pos hw] at he
    exact does_self_of_done h he rfl
  · rw [if_neg (Nat.not_le.2 hw)] at he
    exact parks_of_wait he

end Words

end Sys2Proof.Machine

namespace Sys2Proof

open Machine

/-- Settles O39: each word goes to the copy queue by the law of its form. -/
theorem copyWords : Obligations.CopyWords := by
  intro s k c d e n p v w fo hc
  refine ⟨fun r hr h => ?_, fun h => cfill_goes hc h, fun h hp => cpyc_goes hc h hp, fun h => cwait_waits hc h⟩
  simp only [List.mem_cons, List.not_mem_nil, or_false] at hr
  rcases hr with rfl | rfl | rfl | rfl | rfl | rfl | rfl | rfl
  · exact moveForm_goes hc h (show execCpy k d e n p = _ from rfl)
  · exact moveForm_goes hc h (show execCpyg k d e n p = _ from rfl)
  · exact moveForm_goes hc h (show execCpys k d e n p = _ from rfl)
  · exact moveForm_goes hc h (show execCpyr k d e n p = _ from rfl)
  · exact cpyh_goes hc h
  · exact moveForm_goes hc h (show execCpfx k e n p = _ from rfl)
  · exact moveForm_goes hc h (show execCwb k e n = _ from rfl)
  · exact hfin_goes hc h

end Sys2Proof
end

section
/-! SUPPORT. LaneAtomics: the checks of a VATOM, its lanes and its end (R41, R178, R179). -/

namespace Sys2Proof.Machine

/-! ## The lanes that a VATOM performs -/

theorem mem_vatomLanes (m : BitVec 1024) (d : Desc) (t : BitVec 6) (start p : Nat) :
    p ∈ vatomLanes m d t start ↔
      p < 1024 ∧ start ≤ p ∧ maskAt m t (p / 32) (p % 32) = true ∧ p % 32 < d.dim0 ∧ p / 32 < d.rows := by
  simp only [vatomLanes, List.mem_filter, List.mem_range, Bool.and_eq_true, decide_eq_true_eq, and_assoc]

theorem vatomLanes_ascending (m : BitVec 1024) (d : Desc) (t : BitVec 6) (start : Nat) :
    (vatomLanes m d t start).Pairwise (· < ·) :=
  List.pairwise_lt_range.filter _

/-- A lane that does not go on does not end the VATOM as done. -/
theorem laneStop_eq_done {p : Nat} {r : Res} {x : State} (h : laneStop p r = .done x) : r = .done x := by
  cases r
  case done => exact h
  all_goals cases h

/-- What follows the lanes does not change how they go: where they are all done, it comes next. -/
theorem performLanes_of_done {a : LaneSpec} (fin : State → Res) {ps : List Nat} {s x : State}
    (h : performLanes a .done s ps = .done x) : performLanes a fin s ps = fin x := by
  induction ps generalizing s with
  | nil =>
    cases h
    rfl
  | cons p ps ih =>
    rw [performLanes] at h ⊢
    split at h
    · cases h
    · rename_i hq
      rw [if_neg hq]
      split at h
      · cases laneStop_eq_done h
      · rename_i hp
        rw [if_neg hp]
        split at h
        · exact ih h
        · rename_i r hr
          exact absurd (laneStop_eq_done h) (hr x)

/-! ## What the checks read of a coach -/

section Checks

variable (s : State) (c : Coach) (l : List Coach) (st : SMap Strand) (ff : SMap Nat)

theorem vatomCheck_withThreads (d : Desc) (t : BitVec 6) (y : BitVec 3) (shift : Word) :
    vatomCheck { s with coaches := l } (c.withThreads st ff) d t y shift = vatomCheck s c d t y shift := rfl

theorem vatomCheck_takeToken (k : Tok) (d : Desc) (t : BitVec 6) (y : BitVec 3) (shift : Word) :
    vatomCheck (s.takeToken k) (c.withThreads st ff) d t y shift = vatomCheck s c d t y shift := by
  rw [State.takeToken_eq, vatomCheck_withThreads]

end Checks

theorem Coach.entries_spmEnter (c : Coach) (part : Nat) (es : List Extent) :
    (c.spmEnter part es).entries = c.entries ++ (es.map (fun e => (c.nextSeq, [e]))).filter (fun e => !e.2.isEmpty) := by
  simp only [Coach.entries, Coach.spmEnter, List.map_append, List.filter_append, List.map_map, List.append_assoc,
    Function.comp_def]

/-- What enters the checker does not wait for itself. -/
theorem Coach.blocked_spmEnter {c : Coach} {part : Nat} {es : List Extent}
    (h : c.entries.any (fun x => extentsClash x.2 es) = false) : (c.spmEnter part es).blocked c.nextSeq es = false := by
  rw [Coach.blocked, Coach.entries_spmEnter, List.any_append, Bool.or_eq_false_iff]
  constructor
  · rw [List.any_eq_false] at h ⊢
    intro x hx
    simp [h x hx]
  · rw [List.any_eq_false]
    intro x hx
    obtain ⟨e, -, rfl⟩ := List.mem_map.1 (List.mem_filter.1 hx).1
    simp

/-- An access that enters the checker and clashes with nothing in it goes on at once. -/
theorem admitted_of_enter {s : State} {c : Coach} {es : List Extent} {f : State → Res} {part : Nat}
    (hp : threadPart s.cur = part) (hseq : c.spmSeq part = none) (hfull : c.checkerFull = false)
    (hclash : c.entries.any (fun x => extentsClash x.2 es) = false) :
    admitted s c es f = f (s.updCoach c.quad (fun _ => c.spmEnter part es)) := by
  simp only [admitted, hp, hseq, hfull, Coach.blocked_spmEnter hclash, Bool.false_eq_true, if_false]

/-- An access that has entered the checker waits for what it clashes with. -/
theorem admitted_of_entered {s : State} {c : Coach} {es : List Extent} {f : State → Res} {seq : Nat}
    (hseq : c.spmSeq (threadPart s.cur) = some seq) :
    admitted s c es f = if c.blocked seq es then .wait s .checker else f s := by
  simp only [admitted, hseq]

/-! ## Running the lanes (R41) -/

/-- The push of a VATOM whose lanes are done: the word completes, or waits for room in its FIFO. -/
def PushesVatom (i : Instr) (s : State) (k : Tok) (z : State) : Prop :=
  ∀ c', z.myCoach? = some c' →
    (c'.pushHeld 2 k.push.toNat = false → exec i s = .next (z.complete k 1)) ∧
    (c'.pushHeld 2 k.push.toNat = true →
      let g := z.updMe (fun st => { st with granted := true })
      exec i s = .next (g.updMe (fun st => { st.parkOn (.owed (selected 2 k.push.toNat)) g.tsc with begun := true })))

theorem pushes_of_vatomPush {i : Instr} {s z : State} {k : Tok} {pc : Word} {th : ThreadId}
    (he : exec i s = (vatomPush z k).apply k 1 pc th) : PushesVatom i s k z := by
  intro c' hc'
  rw [vatomPush, withCoach_of_some hc'] at he
  refine ⟨fun hp => ?_, fun hp => ?_⟩
  · rw [hp] at he
    exact he
  · rw [hp] at he
    exact he

/-- A VATOM whose lanes are all done is left with its push. -/
theorem vatomRun_of_done {u x : State} {c c' : Coach} {k : Tok} {t : BitVec 6} {op : AtomOp} {d : Desc} {shift : Word}
    (hu : u.myCoach? = some c)
    (hx : performLanes { t := t, op := op, desc := d, base := word d.base + shift } .done
      (u.updCoach c.quad (fun c => { c with vatom := some (d, shift) }))
      (vatomLanes ((u.quad c.quad).mask c.maskSel.toNat) d t c.resume.toNat) = .done x)
    (hcur : x.cur = u.cur) (hc' : x.myCoach? = some c') :
    vatomRun k t op d shift u = vatomPush ((x.endLanes c.quad).charge c'.slice .vectorTile 1) k := by
  obtain ⟨p, hp, hc⟩ := State.myCoach?_eq_some hu
  have hv : (u.updCoach c.quad (fun c => { c with vatom := some (d, shift) })).myCoach? =
      some { c with vatom := some (d, shift) } :=
    (State.myCoach?_of_cur (s := u.updCoach _ _) hp).trans (State.coach?_updCoach_self hc (fun _ => rfl))
  have hq : threadQuad u.cur = c.quad := by rw [hp, threadQuad]
  have hrun : vatomRun k t op d shift u = performLanes { t := t, op := op, desc := d, base := word d.base + shift }
      (vatomEnd k) (u.updCoach c.quad (fun c => { c with vatom := some (d, shift) }))
      (vatomLanes ((u.quad c.quad).mask c.maskSel.toNat) d t c.resume.toNat) := by
    unfold vatomRun
    rw [hq]
    exact withCoach_of_some hv _
  rw [hrun, performLanes_of_done _ hx, vatomEnd, hcur, hq, hc', Option.map_some, Option.getD_some]

/-- A VATOM that runs from state u with a descriptor and base: its lanes, and then its push. -/
def RunsVatom (i : Instr) (s : State) (k : Tok) (c : Coach) (t : BitVec 6) (op : AtomOp) (u : State) (d : Desc)
    (shift : Word) : Prop :=
  ∀ x c', performLanes { t := t, op := op, desc := d, base := word d.base + shift } .done
      (u.updCoach c.quad (fun c => { c with vatom := some (d, shift) }))
      (vatomLanes ((s.quad c.quad).mask c.maskSel.toNat) d t c.resume.toNat) = .done x →
    x.cur = s.cur → x.myCoach? = some c' → PushesVatom i s k ((x.endLanes c.quad).charge c'.slice .vectorTile 1)

theorem runs_of_vatomRun {i : Instr} {s u : State} {k : Tok} {c o : Coach} {t : BitVec 6} {op : AtomOp} {d : Desc}
    {shift : Word} {pc : Word} {th : ThreadId} (hu : u.myCoach? = some o)
    (ho : o.quad = c.quad ∧ o.maskSel = c.maskSel ∧ o.resume = c.resume) (hcur : u.cur = s.cur)
    (hquads : u.quads = s.quads) (he : exec i s = (vatomRun k t op d shift u).apply k 1 pc th) :
    RunsVatom i s k c t op u d shift := by
  intro x c' hx hxc hc'
  obtain ⟨hq, hm, hr⟩ := ho
  have hquad : u.quad c.quad = s.quad c.quad := by rw [State.quad, State.quad, hquads]
  rw [← hquad, ← hq, ← hm, ← hr] at hx
  rw [vatomRun_of_done hu hx (hxc.trans hcur.symm) hc', hq] at he
  exact pushes_of_vatomPush he

/-! ## The words -/

section Words

variable {i : Instr} {s : State} {k : Tok} {c : Coach} {t e : BitVec 6} {sr : BitVec 4} {y : BitVec 3} {op : Nat}
  (hc : s.myCoach? = some c) (h : s.Issues (xWord [10] true) i k) (hex : exec i = vatomForm i k t e sr y op)
include hc h hex

/-- A VATOM whose lanes are done and whose push waits. -/
theorem vatom_of_granted (hg : s.me.granted = true) : PushesVatom i s k (s.takeToken k) := by
  obtain ⟨st, ff, -, he⟩ := exec_of_withCoach h hc hex
  rw [if_pos (by rw [State.takeToken_me]; exact hg)] at he
  exact pushes_of_vatomPush he

/-- A VATOM at its issue, until the range checker admits it. -/
theorem vatom_checks (hg : s.me.granted = false) (hv : c.vatom = none) :
    let d := c.desc e.toNat
    let unscoped := d.space = spGlobal ∧ d.scopeBad = true
    let check := vatomCheck s c d t y (s.reg sr)
    (s.pois sr = true → Traps i s k 0x0401 none none) ∧
    (s.pois sr = false → unscoped → Traps i s k 0x0201 (some s.me.pc) (some ((instrWord i).setWidth 64))) ∧
    (s.pois sr = false → ¬unscoped → ∀ code, check = some code → Traps i s k code none none) ∧
    (s.pois sr = false → ¬unscoped → check = none → c.unit ≠ [] → Parks i s k .vectorUnit) ∧
    (s.pois sr = false → ¬unscoped → check = none → c.unit = [] → c.spmSeq 9 = none → c.checkerFull = false →
      s.cur = .coach c.quad 9 → c.entries.any (fun x => extentsClash x.2 [tileExtent t true true]) = false →
      ∀ o, (s.takeToken k).myCoach? = some o →
        RunsVatom i s k c t (vatomOp op y) ((s.takeToken k).updCoach c.quad (fun _ => o.spmEnter 9 [tileExtent t true true]))
          d (s.reg sr)) := by
  obtain ⟨st, ff, hc1, he⟩ := exec_of_withCoach h hc hex
  rw [if_neg (by rw [State.takeToken_me]; simp [hg]), show (c.withThreads st ff).vatom = none from hv] at he
  simp only [consume, State.takeToken_pois, State.takeToken_reg, desc_withThreads, vatomCheck_takeToken] at he
  refine ⟨fun hp => ?_, fun hp hu => ?_, fun hp hu code hk => ?_, fun hp hu hk hn => ?_,
    fun hp hu hk hn hseq hfull hcur hclash o ho => ?_⟩
  · rw [if_pos hp] at he
    exact traps_of_fault he
  all_goals rw [if_neg (by simp [hp])] at he
  · rw [if_pos hu] at he
    exact traps_of_undefUse rfl he
  all_goals rw [if_neg hu, hk] at he
  · exact traps_of_fault he
  · rw [if_pos (by simpa using (show (c.withThreads st ff).unit ≠ [] from hn))] at he
    exact parks_of_wait he
  · obtain rfl : c.withThreads st ff = o := Option.some.inj (hc1.symm.trans ho)
    have hcur1 : (s.takeToken k).cur = .coach c.quad 9 := (State.takeToken_cur s k).trans hcur
    dsimp only at he
    rw [if_neg (by simp [show (c.withThreads st ff).unit = [] from hn]),
      admitted_of_enter (c := c.withThreads st ff) (part := 9) (by rw [hcur1, threadPart]) hseq hfull hclash] at he
    refine runs_of_vatomRun (o := (c.withThreads st ff).spmEnter 9 [tileExtent t true true]) ?_ ⟨rfl, rfl, rfl⟩
      (State.takeToken_cur s k) ?_ he
    · exact (State.myCoach?_of_cur (s := (s.takeToken k).updCoach _ _) hcur1).trans
        (State.coach?_replaced ((State.myCoach?_of_cur hcur1).symm.trans hc1) rfl)
    · rw [State.takeToken_eq]
      rfl

/-- A VATOM that goes on with its copies, once nothing accepted before it clashes. -/
theorem vatom_resumes (hg : s.me.granted = false) (hcur : s.cur = .coach c.quad 9) {v : Desc × Word} {seq : Nat}
    (hv : c.vatom = some v) (hseq : c.spmSeq 9 = some seq) :
    (c.blocked seq [tileExtent t true true] = true → Parks i s k .checker) ∧
      (c.blocked seq [tileExtent t true true] = false → RunsVatom i s k c t (vatomOp op y) (s.takeToken k) v.1 v.2) := by
  obtain ⟨st, ff, hc1, he⟩ := exec_of_withCoach h hc hex
  rw [if_neg (by rw [State.takeToken_me]; simp [hg]), show (c.withThreads st ff).vatom = some v from hv] at he
  have hpart : threadPart (s.takeToken k).cur = 9 := by rw [State.takeToken_cur, hcur, threadPart]
  dsimp only at he
  rw [admitted_of_entered (seq := seq) (by rw [hpart]; exact hseq)] at he
  refine ⟨fun hb => ?_, fun hb => ?_⟩
  · rw [if_pos (show (c.withThreads st ff).blocked seq [tileExtent t true true] = true from hb)] at he
    exact parks_of_wait he
  · have hb' : (c.withThreads st ff).blocked seq [tileExtent t true true] = false := hb
    rw [if_neg (by simp [hb'])] at he
    refine runs_of_vatomRun hc1 ⟨rfl, rfl, rfl⟩ (State.takeToken_cur s k) ?_ he
    rw [State.takeToken_eq]

end Words

/-- Settles O36: the law of `vatomForm` for each of the four words. -/
theorem vectorAtomics : Obligations.VectorAtomics := by
  intro s k c t e sr y hc
  refine ⟨fun d p => mem_vatomLanes .., fun d => vatomLanes_ascending .., fun r hr h => ?_⟩
  have hex : exec r.1 = vatomForm r.1 k t e sr y r.2 := by
    simp only [List.mem_cons, List.not_mem_nil, or_false] at hr
    rcases hr with rfl | rfl | rfl | rfl
    · exact (rfl : execVatomAdd k t e sr y = _)
    · exact (rfl : execVatomMin k t e sr y = _)
    · exact (rfl : execVatomMax k t e sr y = _)
    · exact (rfl : execVatomSwp k t e sr y = _)
  exact ⟨vatom_of_granted hc h hex, vatom_checks hc h hex,
    fun hg hcur v seq hv hseq => vatom_resumes hc h hex hg hcur hv hseq⟩

end Sys2Proof.Machine
end

section
/-! SUPPORT. Completion: a word that completes while its thread follows other accesses than before, or has had its reply
cleared (R17, R106, R108, R109). -/

namespace Sys2Proof.Machine

/-! ## Threads that differ in their word's wait and in what they follow -/

/-- A thread and one that differs from it only in what its word holds while it waits, and in what its later accesses come
after. -/
def Strand.SameBut (a b : Strand) : Prop := a.clearWait = { b.clearWait with behind := a.behind, strict := a.strict }

theorem Strand.SameBut.eq {a b : Strand} (h : a.SameBut b) :
    a.clearWait = { b.clearWait with behind := a.behind, strict := a.strict } := h

theorem Strand.SameBut.refl (a : Strand) : a.SameBut a := rfl

theorem Strand.SameBut.of_order {a b : Strand} (h : a = { b with behind := a.behind, strict := a.strict }) : a.SameBut b := by
  rw [Strand.SameBut, h]; rfl

theorem Strand.SameBut.trans {a b c : Strand} (h : a.SameBut b) (g : b.SameBut c) : a.SameBut c := by
  unfold Strand.SameBut at *
  rw [h, g]

theorem Strand.SameBut.reg {a b : Strand} (h : a.SameBut b) (r : BitVec 4) : a.reg r = b.reg r :=
  (congrArg (fun st : Strand => st.reg r) h.eq :)

theorem Strand.SameBut.pois {a b : Strand} (h : a.SameBut b) (r : BitVec 4) : a.pois r = b.pois r :=
  (congrArg (fun st : Strand => st.pois r) h.eq :)

theorem Strand.SameBut.pc {a b : Strand} (h : a.SameBut b) : a.pc = b.pc := (congrArg Strand.pc h.eq :)

theorem Strand.SameBut.loops {a b : Strand} (h : a.SameBut b) : a.loops = b.loops := (congrArg Strand.loops h.eq :)

theorem Strand.SameBut.run {a b : Strand} (h : a.SameBut b) : a.run = b.run := (congrArg Strand.run h.eq :)

theorem State.takeToken_sameBut (s : State) (k : Tok) : (s.takeToken k).me.SameBut s.me := by
  rw [Strand.SameBut, State.takeToken_me]; rfl

/-- An acquire of the running thread. -/
theorem State.me_follows (s : State) (ids : List Nat) (h : (s.strand? s.cur).isSome = true) :
    (s.follows s.cur ids).me.SameBut s.me := by
  have hme : (s.follows s.cur ids).me = { s.me with behind := (s.follows s.cur ids).me.behind } := by
    rw [show s.follows s.cur ids = s.updMe _ from rfl, State.me_updMe s _ h]
  rw [Strand.SameBut, hme]
  rfl

theorem State.follows_only (s : State) (ids : List Nat) : OnlyThread s (s.follows s.cur ids) := State.updMe_only s _

theorem State.setReg_only (s : State) (d : BitVec 4) (v : Word) (p : Bool) : OnlyThread s (s.setReg d v p) :=
  State.updMe_only s _

/-! ## Completion -/

section Done

variable {i : Instr} {k : Tok} {s u : State} {n : Nat} {pc : Word} {th : ThreadId}

theorem Strand.SameBut.anyLoops {a b : Strand} (h : a.SameBut b) :
    a.clearWait = { b.clearWait with loops := a.loops, behind := a.behind, strict := a.strict } := by
  rw [h, h.loops]; rfl

/-- What a write of a register leaves of a thread. -/
theorem Strand.setReg_eq (st : Strand) (d : BitVec 4) (v : Word) (p : Bool) :
    st.setReg d v p = { st with regs := (st.setReg d v p).regs, poison := (st.setReg d v p).poison } := by
  unfold Strand.setReg
  split <;> rfl

/-- A word that completes without a register's write, where `f` is what becomes of its thread. -/
theorem exists_of_completeBy {f : Strand → Strand} {loops : List LoopEntry}
    (he : exec i s = .next (u.completeBy k f)) (hu : (u.strand? u.cur).isSome = true)
    (hme : u.me.clearWait = { s.me.clearWait with loops := u.me.loops, behind := u.me.behind, strict := u.me.strict })
    (hf : f u.me = { u.me.clearWait with pc := pc, loops := loops }) :
    ∃ t, exec i s = .next t ∧ SameRegs s t ∧ OnlyThread u t ∧ Leaves s t pc loops := by
  have hc : (u.completeBy k f).me = { u.me.clearWait with pc := pc, loops := loops } := by
    rw [State.completeBy_me u k f hu, hf]
  refine ⟨_, he, ⟨fun r => ?_, fun r => ?_⟩, State.completeBy_only u k f, ?_⟩
  · rw [State.reg, hc, hme]; rfl
  · rw [State.pois, hc, hme]; rfl
  · rw [Leaves, hc, hme]

/-- A word that completes with a register's write, where `f` is what becomes of its thread. -/
theorem exists_of_completeBy_setReg {f : Strand → Strand} {loops : List LoopEntry} {d : BitVec 4} {v : Word} {p : Bool}
    (he : exec i s = .next ((u.setReg d v p).completeBy k f)) (hu : (u.strand? u.cur).isSome = true)
    (hme : u.me.SameBut s.me)
    (hf : f (u.me.setReg d v p) = { (u.me.setReg d v p).clearWait with pc := pc, loops := loops }) :
    ∃ t, exec i s = .next t ∧ Wrote s t d v p ∧ OnlyThread u t ∧ Leaves s t pc loops := by
  have hu' : ((u.setReg d v p).strand? (u.setReg d v p).cur).isSome = true := by
    rw [(State.setReg_only u d v p).isSome, hu]
  have hc : ((u.setReg d v p).completeBy k f).me = { (u.me.setReg d v p).clearWait with pc := pc, loops := loops } := by
    rw [State.completeBy_me _ k f hu', ← hf]
    exact congrArg f (State.me_updMe u _ hu)
  refine ⟨_, he, ⟨fun r => ?_, fun r => ?_⟩, (State.setReg_only u d v p).trans (State.completeBy_only _ k f), ?_⟩
  · rw [State.reg, hc, State.reg, ← hme.reg r]
    exact Strand.reg_setReg u.me d r v p
  · rw [State.pois, hc, State.pois, ← hme.pois r]
    exact Strand.pois_setReg u.me d r v p
  · have hw : (u.me.setReg d v p).clearWait =
        { u.me.clearWait with regs := (u.me.setReg d v p).regs, poison := (u.me.setReg d v p).poison } := by
      rw [Strand.setReg_eq]; rfl
    rw [Leaves, hc, hw, hme]

theorem Strand.setReg_pc (st : Strand) (d : BitVec 4) (v : Word) (p : Bool) : (st.setReg d v p).pc = st.pc := by
  unfold Strand.setReg; split <;> rfl

theorem Strand.setReg_loops (st : Strand) (d : BitVec 4) (v : Word) (p : Bool) : (st.setReg d v p).loops = st.loops := by
  unfold Strand.setReg; split <;> rfl

/-- A word that is done in a state whose running thread follows other accesses than before. -/
theorem does_of_done' (he : exec i s = (Res.done u).apply k n pc th) (hn : n = 1) (hu : (u.strand? u.cur).isSome = true)
    (hme : u.me.SameBut s.me) : Does i s u := by
  subst hn
  obtain ⟨t, h1, h2, h3, h4⟩ := exists_of_completeBy (f := Strand.advance 1) he hu hme.anyLoops rfl
  exact ⟨t, h1, h2, by rwa [Moved, ← hme.loops, ← hme.pc], h3⟩

/-- The same for a word that writes a register in that state. -/
theorem acts_of_writeS {d : BitVec 4} {v : Word} {p : Bool} (he : exec i s = (writeS d v p u).apply k n pc th) (hn : n = 1)
    (hu : (u.strand? u.cur).isSome = true) (hme : u.me.SameBut s.me) : Acts i s u d v p := by
  subst hn
  obtain ⟨t, h1, h2, h3, h4⟩ := exists_of_completeBy_setReg (f := Strand.advance 1) he hu hme rfl
  rw [Strand.setReg_loops, Strand.setReg_pc] at h4
  exact ⟨t, h1, h2, by rwa [Moved, ← hme.loops, ← hme.pc], h3⟩

/-- What holds beside the running thread of a later state holds of an earlier one. -/
theorem Acts.of_only {x : State} {d : BitVec 4} {v : Word} {p : Bool} (h : Acts i s u d v p) (hx : OnlyThread x u) :
    Acts i s x d v p := by
  obtain ⟨t, h1, h2, h3, h4⟩ := h
  exact ⟨t, h1, h2, h3, hx.trans h4⟩

theorem Does.of_only {x : State} (h : Does i s u) (hx : OnlyThread x u) : Does i s x := by
  obtain ⟨t, h1, h2, h3, h4⟩ := h
  exact ⟨t, h1, h2, h3, hx.trans h4⟩

end Done

/-- A word that issues runs its body where it has taken its token. -/
theorem exec_of_issue {cls : WordClass} {i : Instr} {k : Tok} {s : State} {body : State → Res}
    (h : s.Issues cls i k) (he : exec i = issue cls i k body) :
    exec i s = (body (s.takeToken k)).apply k cls.words s.me.pc s.cur := by
  rw [he, issue_of_issues _ h]

/-- A word that ends its thread where it has taken its token. -/
theorem halts_of_halt {cls : WordClass} {i : Instr} {k : Tok} {s : State} {n : Nat} {pc : Word} {th : ThreadId}
    (h : s.Issues cls i k) (he : exec i s = (Res.halt (s.takeToken k)).apply k n pc th) : Halts i s := by
  have hme := State.completeBy_me (s.takeToken k) k Strand.finish h.isSome
  refine ⟨_, he, ⟨fun r => ?_, fun r => ?_⟩, ?_, (State.takeToken_only s k).trans (State.completeBy_only _ k _)⟩
  · rw [State.reg, hme, ← State.takeToken_reg s k r]; rfl
  · rw [State.pois, hme, ← State.takeToken_pois s k r]; rfl
  · rw [hme, State.takeToken_me]; rfl

end Sys2Proof.Machine
end

section
/-! SUPPORT. Arithmetic: the functions of the integer words as R86, R102, R103 and R104 state them, and the words that compute
them. -/

namespace Sys2Proof.Machine

/-! ## The functions -/

theorem slt_iff (x y : Word) : x.slt y = true ↔ x.toInt < y.toInt := BitVec.slt_iff_toInt_lt

theorem ult_iff (x y : Word) : x.ult y = true ↔ x.toNat < y.toNat := by simp [BitVec.ult]

theorem sltWord_eq (x y : Word) : sltWord x y = if x.toInt < y.toInt then 1#64 else 0#64 := by
  simp only [sltWord, flagWord, slt_iff]

theorem sltuWord_eq (x y : Word) : sltuWord x y = if x.toNat < y.toNat then 1#64 else 0#64 := by
  simp only [sltuWord, flagWord, ult_iff]

theorem minWord_eq (x y : Word) : minWord x y = if x.toInt < y.toInt then x else y := by
  simp only [minWord, slt_iff]

theorem maxWord_eq (x y : Word) : maxWord x y = if x.toInt < y.toInt then y else x := by
  simp only [maxWord, slt_iff]

theorem minuWord_eq (x y : Word) : minuWord x y = if x.toNat < y.toNat then x else y := by
  simp only [minuWord, ult_iff]

theorem maxuWord_eq (x y : Word) : maxuWord x y = if x.toNat < y.toNat then y else x := by
  simp only [maxuWord, ult_iff]

theorem shlWord_eq (x y : Word) : shlWord x y = x <<< (y.toNat % 64) := rfl

theorem shrWord_eq (x y : Word) : shrWord x y = x >>> (y.toNat % 64) := rfl

theorem sraWord_eq (x y : Word) : sraWord x y = x.sshiftRight (y.toNat % 64) := rfl

theorem leaWord_eq (n : Nat) (x y : Word) : leaWord n x y = x + BitVec.ofNat 64 (2 ^ n) * y := by
  rw [leaWord, BitVec.shiftLeft_eq_mul_twoPow, BitVec.mul_comm y]
  congr 2
  exact BitVec.eq_of_toNat_eq (by simp [BitVec.toNat_twoPow])

/-- The high half of the signed product: its 128 bits are those of the product of the integers. -/
theorem mulhWord_eq (x y : Word) : mulhWord x y = (x.signExtend 128 * y.signExtend 128).extractLsb' 64 64 := by
  have hz : x.signExtend 128 * y.signExtend 128 = BitVec.ofInt 128 (x.toInt * y.toInt) := (BitVec.ofInt_mul _ _).symm
  rw [hz, mulhWord]
  generalize x.toInt * y.toInt = p
  apply BitVec.eq_of_toNat_eq
  rw [BitVec.extractLsb'_toNat, BitVec.toNat_ofInt, BitVec.toNat_ofInt, Nat.shiftRight_eq_div_pow]
  omega

theorem mulhuWord_eq (x y : Word) : mulhuWord x y = (x.setWidth 128 * y.setWidth 128).extractLsb' 64 64 := by
  have hlt : x.toNat * y.toNat < 2 ^ 128 := (Nat.mul_lt_mul'' x.isLt y.isLt).trans_eq (by norm_num)
  apply BitVec.eq_of_toNat_eq
  rw [BitVec.extractLsb'_toNat, BitVec.toNat_mul, BitVec.toNat_setWidth, BitVec.toNat_setWidth, mulhuWord, word,
    BitVec.toNat_ofNat, Nat.shiftRight_eq_div_pow, Nat.mod_eq_of_lt (Nat.lt_trans x.isLt (by decide)),
    Nat.mod_eq_of_lt (Nat.lt_trans y.isLt (by decide)), Nat.mod_eq_of_lt hlt]

theorem divWord_eq {x y : Word} (hy : y ≠ 0#64) : divWord x y = BitVec.ofInt 64 (x.toInt.tdiv y.toInt) := by
  rw [divWord, if_neg hy]
  apply BitVec.eq_of_toInt_eq
  rw [BitVec.toInt_sdiv, BitVec.toInt_ofInt]

theorem remWord_eq {x y : Word} (hy : y ≠ 0#64) : remWord x y = BitVec.ofInt 64 (x.toInt.tmod y.toInt) := by
  rw [remWord, if_neg hy, ← BitVec.toInt_srem, BitVec.ofInt_toInt]

theorem divuWord_eq {x y : Word} (hy : y ≠ 0#64) : divuWord x y = BitVec.ofNat 64 (x.toNat / y.toNat) := by
  rw [divuWord, if_neg hy, ← BitVec.toNat_udiv, BitVec.ofNat_toNat, BitVec.setWidth_eq]

theorem remuWord_eq {x y : Word} (hy : y ≠ 0#64) : remuWord x y = BitVec.ofNat 64 (x.toNat % y.toNat) := by
  rw [remuWord, if_neg hy, ← BitVec.toNat_umod, BitVec.ofNat_toNat, BitVec.setWidth_eq]

/-- A number in [2^i, 2^(i+1)) has bit i set. -/
theorem testBit_of_bounds {m i : Nat} (hlo : 2 ^ i ≤ m) (hhi : m < 2 ^ (i + 1)) : m.testBit i = true := by
  have : m / 2 ^ i = 1 := Nat.div_eq_of_lt_le (by omega) (by rw [Nat.pow_succ] at hhi; omega)
  simp [Nat.testBit_eq_decide_div_mod_eq, this]

/-- The first of the numbers below 64 with a property. -/
theorem find?_range_getD {p : Nat → Bool} {n : Nat} (hn : n ≤ 64) (hlt : ∀ j, j < n → p j = false)
    (hp : n < 64 → p n = true) : ((List.range 64).find? p).getD 64 = n := by
  rcases Nat.lt_or_ge n 64 with h | h
  · have : (List.range 64).find? p = some n :=
      List.find?_range_eq_some.2 ⟨hp h, List.mem_range.2 h, fun j hj => by simp [hlt j hj]⟩
    rw [this]; rfl
  · have hn' : n = 64 := by omega
    subst hn'
    have : (List.range 64).find? p = none := List.find?_range_eq_none.2 (fun j hj => by simp [hlt j hj])
    rw [this]; rfl

theorem clzWord_eq {x : Word} {n : Nat} (hn : n ≤ 64) (hx : x.toNat < 2 ^ (64 - n)) (h1 : n < 64 → 2 ^ (63 - n) ≤ x.toNat) :
    clzWord x = BitVec.ofNat 64 n := by
  rw [clzWord, word, find?_range_getD hn]
  · intro j hj
    exact Nat.testBit_lt_two_pow (Nat.lt_of_lt_of_le hx (Nat.pow_le_pow_right (by decide) (by omega)))
  · intro h
    exact testBit_of_bounds (h1 h) (by rwa [show 63 - n + 1 = 64 - n by omega])

theorem ctzWord_eq {x : Word} {n : Nat} (hn : n ≤ 64) (hx : x.toNat % 2 ^ n = 0) (h1 : n < 64 → x.getLsbD n = true) :
    ctzWord x = BitVec.ofNat 64 n := by
  rw [ctzWord, word, find?_range_getD hn _ h1]
  intro j hj
  have h := Nat.testBit_mod_two_pow x.toNat n j
  rw [hx, Nat.zero_testBit] at h
  simpa [hj, BitVec.getLsbD] using h.symm

theorem popcWord_eq (x : Word) : popcWord x = BitVec.ofNat 64 ((List.finRange 64).countP (fun i => x.getLsb i)) := by
  rw [popcWord, word, ← List.countP_eq_length_filter, ← List.map_coe_finRange_eq_range, List.countP_map]
  rfl

theorem brevWord_eq {x v : Word} (h : ∀ i, i < 64 → v.getLsbD (63 - i) = x.getLsbD i) : brevWord x = v := by
  apply BitVec.eq_of_getLsbD_eq
  intro i hi
  rw [brevWord, BitVec.getLsbD_reverse, BitVec.getMsbD_eq_getLsbD, ← h (64 - 1 - i) (by omega)]
  simp [hi, show 63 - (64 - 1 - i) = i by omega]

theorem sextWord_eq (x : Word) (n : Nat) : sextWord x n = (x.setWidth n).signExtend 64 := by
  rw [sextWord, BitVec.ofNat_toNat]

theorem zextWord_eq (x : Word) (n : Nat) : zextWord x n = x &&& BitVec.ofNat 64 (2 ^ n - 1) := by
  apply BitVec.eq_of_getLsbD_eq
  intro i hi
  rw [zextWord, BitVec.getLsbD_setWidth, BitVec.getLsbD_ofNat, BitVec.getLsbD_and, BitVec.getLsbD_ofNat,
    Nat.testBit_two_pow_sub_one]
  by_cases h : i < n <;> simp [h, hi, BitVec.getLsbD]

/-- A bit of a word with a field replaced. -/
theorem getLsbD_setBits (w : Word) (hi lo v j : Nat) (hj : j < 64) :
    (setBits w hi lo v).getLsbD j = if lo ≤ j ∧ j ≤ hi then v.testBit (j - lo) else w.getLsbD j := by
  have hm : ((BitVec.ofNat 64 (2 ^ (hi + 1 - lo) - 1)) <<< lo).getLsbD j = decide (lo ≤ j ∧ j ≤ hi) := by
    rw [BitVec.getLsbD_shiftLeft, BitVec.getLsbD_ofNat, Nat.testBit_two_pow_sub_one]
    rw [Bool.eq_iff_iff]
    simp only [Bool.and_eq_true, Bool.not_eq_true', decide_eq_true_eq, decide_eq_false_iff_not]
    omega
  unfold setBits
  rw [BitVec.getLsbD_or, BitVec.getLsbD_and, BitVec.getLsbD_and, BitVec.getLsbD_not, hm]
  by_cases h : lo ≤ j ∧ j ≤ hi
  · rw [if_pos h, BitVec.getLsbD_shiftLeft, BitVec.getLsbD_ofNat]
    simp [h, hj, show ¬j < lo by omega, show j - lo < 64 by omega]
  · simp [h, hj]

theorem setBits_eq_of_bits {w v : Word} {n : Nat} {h : BitVec 16}
    (hv : ∀ j, j < 64 → v.getLsbD j =
      if 16 * (n + 1) ≤ j ∧ j < 16 * (n + 2) then h.getLsbD (j - 16 * (n + 1)) else w.getLsbD j) :
    setBits w (16 * (n + 1) + 15) (16 * (n + 1)) h.toNat = v := by
  apply BitVec.eq_of_getLsbD_eq
  intro j hj
  rw [getLsbD_setBits _ _ _ _ _ hj, hv j hj]
  have : (16 * (n + 1) ≤ j ∧ j ≤ 16 * (n + 1) + 15) ↔ (16 * (n + 1) ≤ j ∧ j < 16 * (n + 2)) := by omega
  simp only [this, BitVec.getLsbD]

theorem bselWord_eq {m x y v : Word}
    (hv : ∀ j, j < 64 → v.getLsbD j = if m.getLsbD j then y.getLsbD j else x.getLsbD j) : bselWord x m y = v := by
  apply BitVec.eq_of_getLsbD_eq
  intro j hj
  rw [hv j hj, bselWord, BitVec.getLsbD_or, BitVec.getLsbD_and, BitVec.getLsbD_and, BitVec.getLsbD_not]
  cases m.getLsbD j <;> simp [hj]

theorem toInt_sx {n : Nat} (i : BitVec n) (hn : n ≤ 64) : (sx i).toInt = i.toInt := BitVec.toInt_signExtend_of_le hn

theorem toNat_setWidth_count (n : BitVec 6) : (n.setWidth 64).toNat % 64 = n.toNat := by
  have := n.isLt
  rw [BitVec.toNat_setWidth]
  omega

/-! ## The forms -/

section Forms

variable {cls : WordClass} {i : Instr} {k : Tok} {s : State} {d a b : BitVec 4} {f : Word → Word → Word}
  {v : Word}

theorem gives_regForm (he : exec i = regForm cls i k d a b f) (hw : cls.words = 1)
    (hv : f (s.reg a) (s.reg b) = v) : Gives cls i k s d v (s.pois a || s.pois b) := by
  intro h
  refine computes_of_writeS h hw ?_
  rw [he, regForm, issue_of_issues _ h]
  simp only [State.takeToken_reg, State.takeToken_pois, hv]

theorem gives_bitsForm {f : Word → Word} (he : exec i = bitsForm i k d a f) (hv : f (s.reg a) = v) :
    Gives commonWord i k s d v (s.pois a) := by
  intro h
  refine computes_of_writeS h rfl ?_
  rw [he, bitsForm, issue_of_issues _ h]
  simp only [State.takeToken_reg, State.takeToken_pois, hv]

theorem gives_immForm {imm : Word} (he : exec i = immForm i k d a imm f) (hv : f (s.reg a) imm = v) :
    Gives commonWord i k s d v (s.pois a) := by
  intro h
  refine computes_of_writeS h rfl ?_
  rw [he, immForm, issue_of_issues _ h]
  simp only [State.takeToken_reg, State.takeToken_pois, hv]

theorem gives_likForm {n : Nat} {h : BitVec 16} (he : exec i = likForm i k d n h)
    (hv : setBits (s.reg d) (16 * n + 15) (16 * n) h.toNat = v) : Gives commonWord i k s d v (s.pois d) := by
  intro hi
  refine computes_of_writeS hi rfl ?_
  rw [he, likForm, issue_of_issues _ hi]
  simp only [State.takeToken_reg, State.takeToken_pois, hv]

/-- A divide with the divider's result. -/
theorem gives_divForm (he : exec i = divForm i k d a b f) (hg : s.me.granted = true)
    (hv : f (s.reg a) (s.reg b) = v) : Gives mulDivWord i k s d v (s.pois a || s.pois b) := by
  intro h
  have hg' : (s.takeToken k).me.granted = true := by rw [State.takeToken_me]; exact hg
  refine computes_of_writeS h rfl ?_
  rw [he, divForm, issue_of_issues _ h, if_pos hg']
  simp only [State.takeToken_reg, State.takeToken_pois, hv]

/-- A divide enters the stream's divider. -/
theorem exec_divForm_waits (he : exec i = divForm i k d a b f) (hg : s.me.granted = false) (h : s.Issues mulDivWord i k) :
    exec i s = .next (((s.takeToken k).updMyStream (fun t => { t with divider := t.divider ++ [threadPart s.cur] })).updMe
      (fun st => { st.parkOn .divide s.tsc with begun := true })) := by
  have hg' : (s.takeToken k).me.granted = false := by rw [State.takeToken_me]; exact hg
  have htsc : ∀ g : Stream → Stream, ((s.takeToken k).updMyStream g).tsc = s.tsc := fun g => by
    rw [State.takeToken_eq]; cases hc : s.cur <;> simp [State.updMyStream, State.updStream]
  rw [he, divForm, issue_of_issues _ h, if_neg (by simp [hg']), Res.apply, htsc, State.takeToken_cur]

end Forms

/-! ## The words -/

/-- Settles O1: each word is the REG form of its function (R102). -/
theorem registerWords : Obligations.RegisterWords := by
  intro s k d a b
  dsimp only
  have reg : ∀ {i : Instr} {f : Word → Word → Word} {v : Word}, exec i = regForm commonWord i k d a b f →
      f (s.reg a) (s.reg b) = v → Gives commonWord i k s d v (s.pois a || s.pois b) :=
    fun he hv => gives_regForm he rfl hv
  exact ⟨reg rfl rfl, reg rfl rfl, reg rfl rfl, reg rfl rfl, reg rfl rfl,
    reg (f := fun x y => x &&& ~~~ y) rfl rfl, reg rfl (shlWord_eq _ _),
    reg rfl (shrWord_eq _ _), reg rfl (sraWord_eq _ _), reg rfl (sltWord_eq _ _), reg rfl (sltuWord_eq _ _),
    reg rfl (minWord_eq _ _), reg rfl (maxWord_eq _ _), reg rfl (minuWord_eq _ _), reg rfl (maxuWord_eq _ _),
    reg rfl ((leaWord_eq 0 _ _).trans (by simp)), reg rfl (leaWord_eq 1 _ _), reg rfl (leaWord_eq 2 _ _),
    reg rfl (leaWord_eq 3 _ _)⟩

/-- Settles O2: products are REG forms, and a divide with the divider's result is one of its truncating function (R86). -/
theorem multiplyDivide : Obligations.MultiplyDivide := by
  intro s k d a b
  dsimp only
  refine ⟨gives_regForm rfl rfl rfl, gives_regForm rfl rfl (mulhWord_eq _ _), gives_regForm rfl rfl (mulhuWord_eq _ _),
    fun i hi h hg => ?_, fun hg => ⟨fun hy => ?_, fun hy => ?_, fun hx hy => ?_⟩⟩
  · simp only [List.mem_cons, List.not_mem_nil, or_false] at hi
    rcases hi with rfl | rfl | rfl | rfl <;> exact exec_divForm_waits rfl hg h
  · exact ⟨gives_divForm rfl hg (divWord_eq hy), gives_divForm rfl hg (remWord_eq hy),
      gives_divForm rfl hg (divuWord_eq hy), gives_divForm rfl hg (remuWord_eq hy)⟩
  · exact ⟨gives_divForm rfl hg (if_pos hy), gives_divForm rfl hg (if_pos hy), gives_divForm rfl hg (if_pos hy),
      gives_divForm rfl hg (if_pos hy)⟩
  · exact ⟨gives_divForm rfl hg (by rw [hx, hy]; rfl), gives_divForm rfl hg (by rw [hx, hy]; rfl)⟩

end Sys2Proof.Machine
end

section
/-! SUPPORT. OneSource: the words of one source, those with an immediate, and the words that the decoder refuses for a bit
that they have zero (R33, R102-R104). -/

namespace Sys2Proof

/-! ## Words with a bit that must be zero -/

/-- A word that no map of an engine assigns is no instruction. -/
theorem decode_ne_ok {e : Engine} {w : IWord} (hid : opOf w ≠ 0x2F) (ht : trailingWords e (opOf w) = 0)
    (hd : decodeLow e w = none) (i : Instr) : decode e [w] ≠ .ok i := by
  have h0 : idCode w = none := if_neg (fun h => hid h.1)
  have h1 : decode e [w] = .error .unassigned := by simp only [decode, h0, decodeMain, if_pos ht, hd]
  rw [h1]
  exact fun h => nomatch h

/-- No engine has trailing words or an own map below 0x40. -/
theorem decodeLow_of_noCommon {e : Engine} {w : IWord} (h : opOf w < 0x12)
    (hc : decodeCommon (tokOf w) (opOf w) (bodyOf w) = none) :
    trailingWords e (opOf w) = 0 ∧ decodeLow e w = none := by
  unfold decodeLow
  rw [hc]
  generalize opOf w = op at h
  interval_cases op <;> cases e <;> exact ⟨rfl, rfl⟩

theorem bodyOf_field (w : IWord) (lo n : Nat) (h : lo + n ≤ 21) :
    (bodyOf w).extractLsb' lo n = w.extractLsb' lo n := by
  apply BitVec.eq_of_getLsbD_eq
  intro i hi
  simp only [bodyOf, BitVec.getLsbD_extractLsb', hi, decide_true, Bool.true_and, Nat.zero_add]
  rw [decide_eq_true (show lo + i < 21 by omega), Bool.true_and]

theorem shiftImmediate_refused {e : Engine} {w : IWord} (hop : opOf w ∈ [0x0A, 0x0B, 0x0C])
    (hz : w.extractLsb' 6 7 ≠ 0#7) (i : Instr) : decode e [w] ≠ .ok i := by
  have hb : (bodyOf w).extractLsb' 6 7 ≠ 0#7 := by rwa [bodyOf_field w 6 7 (by decide)]
  simp only [List.mem_cons, List.not_mem_nil, or_false] at hop
  have hc : decodeCommon (tokOf w) (opOf w) (bodyOf w) = none := by
    rcases hop with h | h | h <;> rw [h] <;> exact if_neg hb
  obtain ⟨ht, hd⟩ := decodeLow_of_noCommon (e := e) (by omega) hc
  exact decode_ne_ok (by omega) ht hd i

theorem halfword_refused {e : Engine} {w : IWord} (hop : opOf w ∈ [0x0F, 0x10, 0x11]) (hz : w.getLsbD 16 = true)
    (i : Instr) : decode e [w] ≠ .ok i := by
  have hb : (bodyOf w).extractLsb' 16 1 ≠ 0#1 := by
    rw [bodyOf_field w 16 1 (by decide)]
    intro h
    have h0 : (w.extractLsb' 16 1).getLsbD 0 = true := (BitVec.getLsbD_extractLsb' ..).trans hz
    rw [h] at h0
    exact nomatch h0
  simp only [List.mem_cons, List.not_mem_nil, or_false] at hop
  have hc : decodeCommon (tokOf w) (opOf w) (bodyOf w) = none := by
    rcases hop with h | h | h <;> rw [h] <;> exact if_neg hb
  obtain ⟨ht, hd⟩ := decodeLow_of_noCommon (e := e) (by omega) hc
  exact decode_ne_ok (by omega) ht hd i

theorem bsel_refused {e : Engine} {w : IWord} (hop : opOf w = 0x51) (he : e ∈ [Engine.k, .dray])
    (hz : w.extractLsb' 0 9 ≠ 0#9) (i : Instr) : decode e [w] ≠ .ok i := by
  have hb : (bodyOf w).extractLsb' 0 9 ≠ 0#9 := by rwa [bodyOf_field w 0 9 (by decide)]
  have hk : decodeK (tokOf w) (opOf w) (bodyOf w) = none := by rw [hop]; exact if_neg hb
  have hc : decodeCommon (tokOf w) (opOf w) (bodyOf w) = none := by rw [hop]; rfl
  simp only [List.mem_cons, List.not_mem_nil, or_false] at he
  refine decode_ne_ok (by omega) ?_ ?_ i
  · rw [hop]; rcases he with rfl | rfl <;> rfl
  · rcases he with rfl | rfl <;> simp only [decodeLow, hc, hk]

end Sys2Proof
namespace Sys2Proof.Machine

/-! ## The words -/

/-- LI: the sign-extended immediate. -/
theorem gives_li (s : State) (k : Tok) (d : BitVec 4) (i : BitVec 17) :
    Gives commonWord (.li k d i) k s d (i.signExtend 64) false :=
  fun h => computes_of_writeS h rfl (issue_of_issues _ h)

theorem gives_bsel {s : State} {k : Tok} {d a b : BitVec 4} {v : Word}
    (hv : ∀ j, j < 64 → v.getLsbD j = if (s.reg a).getLsbD j then (s.reg b).getLsbD j else (s.reg d).getLsbD j) :
    Gives (kWord []) (.bsel k d a b) k s d v (s.pois a || s.pois b || s.pois d) := by
  intro h
  refine computes_of_writeS h rfl ((issue_of_issues _ h).trans ?_)
  simp only [State.takeToken_reg, State.takeToken_pois, bselWord_eq hv]

/-- Settles O3: the words of one source and with an immediate by their forms, and the refused words by their opcode's map. -/
theorem oneSourceWords : Obligations.OneSourceWords := by
  refine ⟨fun s k d a => ?_, fun s k d a b i h v => ?_, fun e w => ?_⟩
  · have count : ∀ {i : Instr} {f : Word → Word} {v : Word}, exec i = bitsForm i k d a f → f (s.reg a) = v →
        Gives commonWord i k s d v (s.pois a) := gives_bitsForm
    have imm : ∀ {i : Instr} {y : Word} {f : Word → Word → Word} {v : Word}, exec i = immForm i k d a y f →
        f (s.reg a) y = v → Gives commonWord i k s d v (s.pois a) := gives_immForm
    refine ⟨fun n hn hx h1 => count rfl (clzWord_eq hn hx h1), fun n hn hx h1 => count rfl (ctzWord_eq hn hx h1),
      count rfl (popcWord_eq _), count (f := fun x => sextWord x 8) rfl (sextWord_eq _ 8),
      count (f := fun x => sextWord x 16) rfl (sextWord_eq _ 16),
      count (f := fun x => sextWord x 32) rfl (sextWord_eq _ 32),
      count (f := fun x => zextWord x 8) rfl (zextWord_eq _ 8),
      count (f := fun x => zextWord x 16) rfl (zextWord_eq _ 16),
      count (f := fun x => zextWord x 32) rfl (zextWord_eq _ 32),
      fun v hv => count rfl (brevWord_eq hv), fun i n => ?_⟩
    refine ⟨imm rfl rfl, imm rfl rfl, imm rfl rfl, imm rfl rfl, imm rfl ?_, imm rfl (sltuWord_eq _ _), imm rfl ?_,
      imm rfl ?_, imm rfl ?_, imm rfl rfl⟩
    · rw [sltWord_eq, toInt_sx i (by decide)]
    · rw [shlWord, toNat_setWidth_count]
    · rw [shrWord, toNat_setWidth_count]
    · rw [sraWord, toNat_setWidth_count]
  · refine ⟨gives_li s k d i, fun n _ hv => ⟨fun hn => ?_, fun hn => ?_, fun hn => ?_⟩, gives_bsel,
      fun hi => does_self_of_done hi (issue_of_issues _ hi) rfl⟩
    · subst hn; exact gives_likForm rfl (setBits_eq_of_bits hv)
    · subst hn; exact gives_likForm rfl (setBits_eq_of_bits hv)
    · subst hn; exact gives_likForm rfl (setBits_eq_of_bits hv)
  · intro op h i
    rcases h with ⟨hop, hz⟩ | ⟨hop, hz⟩ | ⟨hop, he, hz⟩
    · exact shiftImmediate_refused hop hz i
    · exact halfword_refused hop hz i
    · exact bsel_refused hop he hz i

end Sys2Proof.Machine
end

section
/-! SUPPORT. Transfers: branches, jumps and hardware loops (R14, R95, R106-R108). -/

namespace Sys2Proof.Machine

/-! ## What a word's issue leaves of its code range -/

theorem OnlyThread.quad {s t : State} (h : OnlyThread s t) (q : Nat) : t.quad q = s.quad q := by rw [h.1]; rfl

theorem OnlyThread.pmByte {s t : State} (h : OnlyThread s t) (d a : Nat) : t.pmByte d a = s.pmByte d a := by
  rw [State.pmByte, h.2.1 d]; rfl

theorem OnlyThread.pmBytes {s t : State} (h : OnlyThread s t) (d a n : Nat) : t.pmBytes d a n = s.pmBytes d a n := by
  rw [State.pmBytes, h.2.1 d]; rfl

theorem OnlyThread.pmWord {s t : State} (h : OnlyThread s t) (d a : Nat) : t.pmWord d a = s.pmWord d a := by
  rw [State.pmWord, h.pmBytes]; rfl

theorem OnlyThread.strandLevel {s t : State} (h : OnlyThread s t) (d k : Nat) : t.strandLevel d k = s.strandLevel d k := by
  rw [State.strandLevel, h.pmWord]; rfl

theorem OnlyThread.strandServed {s t : State} (h : OnlyThread s t) (d k : Nat) :
    t.strandServed d k = s.strandServed d k := by
  rw [State.strandServed, h.pmWord]; rfl

theorem OnlyThread.codeRange {s t : State} (h : OnlyThread s t) (th : ThreadId) : t.codeRange th = s.codeRange th := by
  cases th with
  | coach q p => rw [State.codeRange, h.2.2.2.2]; rfl
  | dray d k => rw [State.codeRange, State.strandCbase, State.strandClimit, h.pmWord]; rfl

theorem OnlyThread.inRange {s t : State} (h : OnlyThread s t) (th : ThreadId) (a : Word) :
    t.inRange th a = s.inRange th a := by
  rw [State.inRange, h.codeRange]; rfl

theorem OnlyThread.codeWord {s t : State} (h : OnlyThread s t) (th : ThreadId) (a : Nat) :
    t.codeWord th a = s.codeWord th a := by
  cases th with
  | coach q p => rw [State.codeWord, h.quad, h.2.2.2.2]; rfl
  | dray d k => rw [State.codeWord, h.pmBytes]; rfl

section Issue

variable {cls : WordClass} {i : Instr} {k : Tok} {s : State} {n : Nat} {t : Word}

/-- A branch or J that is taken leaves the loops that its target lies outside. -/
theorem exists_of_goto (h : s.Issues cls i k)
    (he : exec i s = (Res.goto (s.takeToken k) t).apply k n s.me.pc s.cur) :
    ∃ u, exec i s = .next u ∧ SameRegs s u ∧ OnlyThread s u ∧ Leaves s u t (loopLeave s.me.loops t) := by
  have hme := State.takeToken_sameBut s k
  obtain ⟨u, h1, h2, h3, h4⟩ :=
    exists_of_completeBy (f := fun st => st.branchTo t) he h.isSome hme.anyLoops rfl
  exact ⟨u, h1, h2, (State.takeToken_only s k).trans h3, by rwa [← hme.loops]⟩

/-- A jump with a link keeps every loop. -/
theorem exists_of_call {d : BitVec 4} {v : Word} (h : s.Issues cls i k)
    (he : exec i s = (Res.call ((s.takeToken k).setReg d v false) t).apply k n s.me.pc s.cur) :
    ∃ u, exec i s = .next u ∧ Wrote s u d v false ∧ OnlyThread s u ∧ Leaves s u t s.me.loops := by
  have hme := State.takeToken_sameBut s k
  obtain ⟨u, h1, h2, h3, h4⟩ :=
    exists_of_completeBy_setReg (f := fun st => st.jumpKeep t) he h.isSome hme rfl
  have hl : ((s.takeToken k).me.setReg d v false).clearWait.loops = s.me.loops :=
    (Strand.setReg_loops _ d v false).trans hme.loops
  rw [hl] at h4
  exact ⟨u, h1, h2, (State.takeToken_only s k).trans h3, h4⟩

/-- A transfer whose target lies outside the code range. -/
theorem traps_of_jumpTo {r : Res} (ht : s.inRange s.cur t = false)
    (he : exec i s = (jumpTo (s.takeToken k) t r).apply k n s.me.pc s.cur) : Traps i s k 0x0203 (some t) none := by
  rw [jumpTo, (State.takeToken_only s k).inRange, State.takeToken_cur, ht] at he
  exact he

/-- A transfer whose target lies in the code range. -/
theorem jumpTo_of_inRange {r : Res} (ht : s.inRange s.cur t = true) : jumpTo (s.takeToken k) t r = r := by
  rw [jumpTo, (State.takeToken_only s k).inRange, State.takeToken_cur, if_pos ht]

end Issue

/-! ## Branches (R106) -/

theorem holds_eq (x y : Word) : Cond.eq.holds x y = decide (x = y) := rfl

theorem holds_ne (x y : Word) : Cond.ne.holds x y = decide (x ≠ y) := by
  rw [decide_not]; rfl

theorem holds_lt (x y : Word) : Cond.lt.holds x y = decide (x.toInt < y.toInt) := rfl

theorem holds_ge (x y : Word) : Cond.ge.holds x y = decide (y.toInt ≤ x.toInt) := by
  rw [← decide_eq_decide.2 (Int.not_lt (a := x.toInt) (b := y.toInt)), decide_not]; rfl

theorem holds_ltu (x y : Word) : Cond.ltu.holds x y = decide (x.toNat < y.toNat) := rfl

theorem holds_geu (x y : Word) : Cond.geu.holds x y = decide (y.toNat ≤ x.toNat) := by
  rw [← decide_eq_decide.2 (Nat.not_lt (a := x.toNat) (b := y.toNat)), decide_not]; rfl

section Branch

variable {i : Instr} {k : Tok} {s : State} {a b : BitVec 4} {o : BitVec 13} {c : Cond} {holds : Bool}

/-- A branch: a poisoned source, then the condition, then the target. -/
theorem exec_branch (he : exec i = branchForm i k a b o c) (hc : c.holds (s.reg a) (s.reg b) = holds)
    (h : s.Issues commonWord i k) :
    exec i s = (consume (s.pois a || s.pois b) (s.takeToken k)
      (if holds then jumpTo (s.takeToken k) (s.me.pc + sx o) (.goto (s.takeToken k) (s.me.pc + sx o))
      else .done (s.takeToken k))).apply k 1 s.me.pc s.cur := by
  rw [he, branchForm, issue_of_issues _ h]
  simp only [State.takeToken_reg, State.takeToken_pois, State.takeToken_pc, hc]
  rfl

theorem branch_outcomes (he : exec i = branchForm i k a b o c) (hc : c.holds (s.reg a) (s.reg b) = holds)
    (h : s.Issues commonWord i k) :
    ((s.pois a || s.pois b) = true → Traps i s k 0x0401 none none) ∧
      ((s.pois a || s.pois b) = false → (holds = true → s.inRange s.cur (s.me.pc + o.signExtend 64) = true) →
        ∃ u, exec i s = .next u ∧ SameRegs s u ∧ OnlyThread s u ∧
          Leaves s u (if holds then s.me.pc + o.signExtend 64 else (loopNext s.me.loops s.me.pc 1).2)
            (if holds then loopLeave s.me.loops (s.me.pc + o.signExtend 64) else (loopNext s.me.loops s.me.pc 1).1)) ∧
      ((s.pois a || s.pois b) = false → holds = true → s.inRange s.cur (s.me.pc + o.signExtend 64) = false →
        Traps i s k 0x0203 (some (s.me.pc + o.signExtend 64)) none) := by
  have hx := exec_branch he hc h
  refine ⟨fun hp => ?_, fun hp hr => ?_, fun hp hh hr => ?_⟩
  · rw [hp] at hx
    exact traps_of_fault hx
  · rw [hp] at hx
    cases holds with
    | true =>
      refine exists_of_goto h (n := 1) (hx.trans ?_)
      exact congrArg (fun r => Res.apply r k 1 s.me.pc s.cur) (jumpTo_of_inRange (hr rfl))
    | false =>
      obtain ⟨u, h1, h2, h3, h4⟩ := does_self_of_done h hx rfl
      exact ⟨u, h1, h2, h4, h3⟩
  · rw [hp, hh] at hx
    exact traps_of_jumpTo hr hx

end Branch

/-! ## Jumps (R106) -/

theorem exec_jr {k : Tok} {d a : BitVec 4} {i : BitVec 13} {s : State} (h : s.Issues commonWord (.jr k d a i) k) :
    exec (.jr k d a i) s =
      (consume (s.pois a) (s.takeToken k)
        (if ((s.reg a).toNat + 4 * i.toInt) % 4 ≠ 0 then
          .fault (s.takeToken k) codeFetchRange (some (BitVec.ofInt 64 ((s.reg a).toNat + 4 * i.toInt))) none
        else jumpTo (s.takeToken k) (BitVec.ofInt 64 (((s.reg a).toNat + 4 * i.toInt) / 4))
          (.call ((s.takeToken k).setReg d (linkOf s.me.pc) false)
            (BitVec.ofInt 64 (((s.reg a).toNat + 4 * i.toInt) / 4))))).apply k 1 s.me.pc s.cur := by
  refine (exec_of_issue h (show execJr k d a i = _ from rfl)).trans ?_
  simp only [State.takeToken_reg, State.takeToken_pois, State.takeToken_pc]
  rfl

/-- Settles O4: branches by their common form, and J, JAL and JR by the transfer that each one makes. -/
theorem transfers : Obligations.Transfers := by
  refine ⟨fun s k a b o => ?_, fun s k d a o i => ?_⟩
  · exact ⟨branch_outcomes rfl (holds_eq _ _), branch_outcomes rfl (holds_ne _ _), branch_outcomes rfl (holds_lt _ _),
      branch_outcomes rfl (holds_ge _ _), branch_outcomes rfl (holds_ltu _ _), branch_outcomes rfl (holds_geu _ _)⟩
  · dsimp only
    refine ⟨fun h => ?_, fun h => ?_, fun h => ?_⟩
    · have hx : exec (.j k o) s = (jumpTo (s.takeToken k) (s.me.pc + o.signExtend 64)
          (.goto (s.takeToken k) (s.me.pc + o.signExtend 64))).apply k 1 s.me.pc s.cur := by
        refine (exec_of_issue h (show execJ k o = _ from rfl)).trans ?_
        rw [State.takeToken_pc]; rfl
      refine ⟨fun hr => ?_, fun hr => traps_of_jumpTo hr hx⟩
      rw [jumpTo_of_inRange hr] at hx
      exact exists_of_goto h hx
    · have hx : exec (.jal k o) s = (jumpTo (s.takeToken k) (s.me.pc + o.signExtend 64)
          (.call ((s.takeToken k).setReg 15#4 (linkOf s.me.pc) false) (s.me.pc + o.signExtend 64))).apply k 1 s.me.pc
            s.cur := by
        refine (exec_of_issue h (show execJal k o = _ from rfl)).trans ?_
        rw [State.takeToken_pc]; rfl
      refine ⟨fun hr => ?_, fun hr => traps_of_jumpTo hr hx⟩
      rw [jumpTo_of_inRange hr] at hx
      exact exists_of_call h hx
    · have hx := exec_jr h
      refine ⟨fun hp => ?_, fun hp => ⟨fun hb => ?_, fun hb hr => ?_, fun hb hr => ?_⟩⟩
      · rw [hp] at hx
        exact traps_of_fault hx
      · rw [hp, if_pos hb] at hx
        exact traps_of_fault hx
      · rw [hp, if_neg (fun hn => hn hb), jumpTo_of_inRange hr] at hx
        exact exists_of_call h hx
      · rw [hp, if_neg (fun hn => hn hb)] at hx
        exact traps_of_jumpTo hr hx

/-! ## Hardware loops (R107, R108) -/

section Loop

variable {i : Instr} {k : Tok} {s : State} {count : Word} {len : Nat}

theorem openLoop_takeToken (s : State) (k : Tok) (w : IWord) (count : Word) (len : Nat) :
    openLoop (s.takeToken k) w count len =
      if 4 ≤ s.me.loops.length then .fault (s.takeToken k) codeUndef (some s.me.pc) (some (w.setWidth 64))
      else if s.inRange s.cur (s.me.pc + BitVec.ofNat 64 len) = false then
        .fault (s.takeToken k) codeFetchRange (some (s.me.pc + BitVec.ofNat 64 len)) none
      else if badLast (threadEngine s.cur) (s.codeWord s.cur (s.me.pc + BitVec.ofNat 64 len).toNat) then
        .fault (s.takeToken k) codeUndef (some s.me.pc) (some (w.setWidth 64))
      else if count = 0#64 then .call (s.takeToken k) (s.me.pc + BitVec.ofNat 64 len + 1#64)
      else .done ((s.takeToken k).updMe (fun st => { st with
        loops := { start := s.me.pc + 1#64, stop := s.me.pc + BitVec.ofNat 64 len, remaining := count } :: st.loops })) := by
  have ho := State.takeToken_only s k
  simp only [openLoop, State.takeToken_pc, State.takeToken_cur, ho.inRange, ho.codeWord,
    (State.takeToken_sameBut s k).loops, word]

/-- A thread with another loop stack. -/
def Strand.setLoops (l : List LoopEntry) (st : Strand) : Strand := { st with loops := l }

/-- A loop that opens: the word after LOOP comes next, since its body is not empty. -/
theorem exists_of_opened {last : Word} (h : s.Issues commonWord i k) (hl : last ≠ s.me.pc)
    (he : exec i s = (Res.done ((s.takeToken k).updMe (fun st => { st with
        loops := { start := s.me.pc + 1#64, stop := last, remaining := count } :: st.loops }))).apply k 1
          s.me.pc s.cur) :
    ∃ u, exec i s = .next u ∧ SameRegs s u ∧ OnlyThread s u ∧ Leaves s u (s.me.pc + 1#64)
      ({ start := s.me.pc + 1#64, stop := last, remaining := count } :: s.me.loops) := by
  have hs := State.takeToken_sameBut s k
  generalize hu : (s.takeToken k).updMe (fun st => { st with
    loops := { start := s.me.pc + 1#64, stop := last, remaining := count } :: st.loops }) = u at he
  have honly : OnlyThread (s.takeToken k) u := hu ▸ State.updMe_only _ _
  have hme : u.me = { (s.takeToken k).me with
      loops := { start := s.me.pc + 1#64, stop := last, remaining := count } :: s.me.loops } := by
    rw [← hu, State.me_updMe _ _ h.isSome, hs.loops]
  have hnext : loopNext u.me.loops u.me.pc 1 =
      ({ start := s.me.pc + 1#64, stop := last, remaining := count } :: s.me.loops, s.me.pc + 1#64) := by
    rw [hme]
    simp only [loopNext, State.takeToken_pc, if_neg hl]
    rfl
  obtain ⟨t, h1, h2, h3, h4⟩ := exists_of_completeBy (u := u) (f := Strand.advance 1) he (honly.isSome.trans h.isSome)
    (by rw [hme]; exact congrArg (Strand.setLoops _) hs.eq) rfl
  rw [hnext] at h4
  exact ⟨t, h1, h2, ((State.takeToken_only s k).trans honly).trans h3, h4⟩

/-- LOOP and LOOPI: the checks in their order, and the loop. -/
theorem opens_loop (h : s.Issues commonWord i k) (hlen : len < 2 ^ 13)
    (he : exec i s = (openLoop (s.takeToken k) (instrWord i) count len).apply k 1 s.me.pc s.cur) :
    let last := s.me.pc + BitVec.ofNat 64 len
    let w := (instrWord i).setWidth 64
    let bad := badLast (threadEngine s.cur) (s.codeWord s.cur last.toNat)
    (4 ≤ s.me.loops.length → Traps i s k 0x0201 (some s.me.pc) (some w)) ∧
      (s.me.loops.length < 4 → s.inRange s.cur last = false → Traps i s k 0x0203 (some last) none) ∧
      (s.me.loops.length < 4 → s.inRange s.cur last = true → bad = true →
        Traps i s k 0x0201 (some s.me.pc) (some w)) ∧
      (s.me.loops.length < 4 → s.inRange s.cur last = true → bad = false →
        (count = 0#64 → ∃ u, exec i s = .next u ∧ SameRegs s u ∧ OnlyThread s u ∧ Leaves s u (last + 1#64) s.me.loops) ∧
        (count ≠ 0#64 → len ≠ 0 → ∃ u, exec i s = .next u ∧ SameRegs s u ∧ OnlyThread s u ∧
          Leaves s u (s.me.pc + 1#64)
            ({ start := s.me.pc + 1#64, stop := last, remaining := count } :: s.me.loops))) := by
  intro last w bad
  rw [openLoop_takeToken] at he
  refine ⟨fun hd => ?_, fun hd hr => ?_, fun hd hr hb => ?_, fun hd hr hb => ⟨fun hc => ?_, fun hc hl => ?_⟩⟩
  · rw [if_pos hd] at he
    exact traps_of_fault he
  · rw [if_neg (Nat.not_le.2 hd), if_pos hr] at he
    exact traps_of_fault he
  · rw [if_neg (Nat.not_le.2 hd), if_neg (by rw [hr]; exact Bool.noConfusion), if_pos hb] at he
    exact traps_of_fault he
  · rw [if_neg (Nat.not_le.2 hd), if_neg (by rw [hr]; exact Bool.noConfusion),
      if_neg (Bool.eq_false_iff.1 hb), if_pos hc] at he
    have hs := State.takeToken_sameBut s k
    obtain ⟨u, h1, h2, h3, h4⟩ :=
      exists_of_completeBy (f := fun st => st.jumpKeep (last + 1#64)) he h.isSome hs.anyLoops rfl
    exact ⟨u, h1, h2, (State.takeToken_only s k).trans h3, by rwa [← hs.loops]⟩
  · rw [if_neg (Nat.not_le.2 hd), if_neg (by rw [hr]; exact Bool.noConfusion),
      if_neg (Bool.eq_false_iff.1 hb),
      if_neg hc] at he
    refine exists_of_opened h (fun hp => hl ?_) he
    have h0 := congrArg BitVec.toNat hp
    have hlt := s.me.pc.isLt
    rw [BitVec.toNat_add, BitVec.toNat_ofNat] at h0
    omega

end Loop

theorem loopNext_of_ne {e : LoopEntry} {pc : Word} (h : e.stop ≠ pc) (es : List LoopEntry) (n : Nat) :
    loopNext (e :: es) pc n = (e :: es, pc + BitVec.ofNat 64 n) := by
  rw [loopNext, if_neg h]; rfl

theorem loopNext_of_more {e : LoopEntry} {pc : Word} (h : e.stop = pc) (hr : e.remaining - 1#64 ≠ 0#64)
    (es : List LoopEntry) (n : Nat) :
    loopNext (e :: es) pc n = ({ e with remaining := e.remaining - 1#64 } :: es, e.start) := by
  rw [loopNext, if_pos h, if_pos hr]

theorem loopNext_of_last {e : LoopEntry} {pc : Word} (h : e.stop = pc) (hr : e.remaining - 1#64 = 0#64)
    (es : List LoopEntry) (n : Nat) : loopNext (e :: es) pc n = loopNext es pc n := by
  rw [loopNext, if_pos h, if_neg (fun hn => hn hr)]

/-- After j of its passes a loop has j passes fewer remaining. -/
theorem loops_after {e : LoopEntry} {pc : Word} (h : e.stop = pc) (es : List LoopEntry) (n : Nat) :
    ∀ j : Nat, j < e.remaining.toNat →
      (List.range j).foldl (fun l _ => (loopNext l pc n).1) (e :: es) =
        { e with remaining := e.remaining - BitVec.ofNat 64 j } :: es
  | 0, _ => by simp
  | j + 1, hj => by
    rw [List.range_succ, List.foldl_append, loops_after h es n j (by omega)]
    have hlt := e.remaining.isLt
    have hne : e.remaining - BitVec.ofNat 64 j - 1#64 ≠ 0#64 := by
      intro h0
      have := congrArg BitVec.toNat h0
      simp only [BitVec.toNat_sub, BitVec.toNat_ofNat] at this
      omega
    have hsub : e.remaining - BitVec.ofNat 64 (j + 1) = e.remaining - BitVec.ofNat 64 j - 1#64 := by
      rw [BitVec.ofNat_add, sub_add_eq_sub_sub]
    rw [hsub]
    exact congrArg Prod.fst (loopNext_of_more (e := { e with remaining := e.remaining - BitVec.ofNat 64 j }) h hne es n)

/-- Settles O5: the checks of a loop's opening, and an induction over its passes. -/
theorem loops : Obligations.Loops := by
  refine ⟨fun s k a o c l => ?_, fun e es pc n => ⟨rfl, fun h => loopNext_of_ne h es n, fun h j hj => ?_⟩⟩
  · have hc : c.toNat < 2 ^ 11 := c.isLt
    refine ⟨fun hp h => opens_loop h o.isLt ?_, fun hp h => traps_of_fault (n := 1) ?_,
      fun h => opens_loop h (Nat.lt_trans l.isLt (by decide)) (exec_of_issue h (show execLoopi k c l = _ from rfl))⟩
    · refine (exec_of_issue h (show execLoop k a o = _ from rfl)).trans ?_
      simp only [State.takeToken_pois, State.takeToken_reg, hp, consume]
      rfl
    · refine (exec_of_issue h (show execLoop k a o = _ from rfl)).trans ?_
      simp only [State.takeToken_pois, hp, consume]
      rfl
  · have hlt := e.remaining.isLt
    have hrem : (e.remaining - BitVec.ofNat 64 j - 1#64).toNat = e.remaining.toNat - j - 1 := by
      simp only [BitVec.toNat_sub, BitVec.toNat_ofNat]
      omega
    intro ls
    have hmore := @loopNext_of_more { e with remaining := e.remaining - BitVec.ofNat 64 j } pc h
    have hlast := @loopNext_of_last { e with remaining := e.remaining - BitVec.ofNat 64 j } pc h
    have hls : ls = { e with remaining := e.remaining - BitVec.ofNat 64 j } :: es := loops_after h es n j hj
    refine ⟨hls, fun hm => ?_, fun hm => ?_⟩
    · rw [hls, hmore]
      intro h0
      have := congrArg BitVec.toNat h0
      rw [hrem] at this
      simp at this
      omega
    · rw [hls, hlast]
      apply BitVec.eq_of_toNat_eq
      rw [hrem]
      simp
      omega

end Sys2Proof.Machine
end

section
/-! SUPPORT. StrandWords: the end of a stream, and FORK, JOIN, SYIELD and SEXIT (R109, R120, R121). -/

namespace Sys2Proof.Machine

/-! ## Run states once a word has taken its token -/

/-- Taking a token changes no thread's run state. -/
theorem State.takeToken_runs (s : State) (k : Tok) (th : ThreadId) :
    ((s.takeToken k).strand? th).map Strand.run = (s.strand? th).map Strand.run := by
  have ho := State.takeToken_only s k
  by_cases h : th = s.cur
  · subst h
    have hsome := ho.isSome
    have hrun := (State.takeToken_sameBut s k).run
    rw [State.takeToken_cur] at hsome
    rw [State.me, State.me, State.takeToken_cur] at hrun
    cases hu : (s.takeToken k).strand? s.cur <;> cases hs : s.strand? s.cur <;> rw [hu, hs] at hsome hrun
    · exact nomatch hsome
    · exact nomatch hsome
    · exact congrArg some hrun
  · have := congrArg (Option.map Strand.run) (ho.2.2.2.1 th h)
    rwa [Option.map_map, Option.map_map] at this

theorem State.takeToken_coach? (s : State) (k : Tok) (q : Nat) :
    ((s.takeToken k).coach? q = none ∧ s.coach? q = none) ∨
      ∃ c c', (s.takeToken k).coach? q = some c' ∧ s.coach? q = some c ∧ c'.rest = c.rest ∧
        ∀ p, (c'.strand p).run = (c.strand p).run := by
  have hc := (State.takeToken_only s k).coach q
  have hr := fun p => State.takeToken_runs s k (.coach q p)
  simp only [State.strand?] at hr
  cases hu : (s.takeToken k).coach? q <;> cases hs : s.coach? q <;> rw [hu, hs] at hc <;> simp only [hu, hs] at hr
  · exact .inl ⟨rfl, rfl⟩
  · exact nomatch hc
  · exact nomatch hc
  · exact .inr ⟨_, _, rfl, rfl, Option.some.inj hc, fun p => Option.some.inj (hr p)⟩

theorem State.takeToken_of_dray {s : State} {d n : Nat} (h : s.cur = .dray d n) (k : Tok) : s.takeToken k = s := by
  rw [State.takeToken, h]

theorem State.takeToken_freeStrand (s : State) (k : Tok) :
    (s.takeToken k).freeStrand s.cur = s.freeStrand s.cur := by
  cases hc : s.cur with
  | dray d n => rw [State.takeToken_of_dray hc]
  | coach q p =>
    unfold State.freeStrand
    rcases State.takeToken_coach? s k q with ⟨hu, hs⟩ | ⟨c, c', hu, hs, -, hr⟩
    · simp only [hu, hs]
    · simp only [hu, hs, hr]

theorem State.takeToken_sideIdle (s : State) (k : Tok) (w : Nat) :
    (s.takeToken k).sideIdle s.cur w = s.sideIdle s.cur w := by
  cases hc : s.cur with
  | dray d n => rw [State.takeToken_of_dray hc]
  | coach q p =>
    unfold State.sideIdle
    rcases State.takeToken_coach? s k q with ⟨hu, hs⟩ | ⟨c, c', hu, hs, -, hr⟩
    · simp only [hu, hs]
    · simp only [hu, hs, Option.map_some, hr]

theorem State.takeToken_othersIdle (s : State) (k : Tok) :
    (s.takeToken k).othersIdle s.cur = s.othersIdle s.cur := by
  cases hc : s.cur with
  | dray d n => rw [State.takeToken_of_dray hc]
  | coach q p =>
    unfold State.othersIdle
    rcases State.takeToken_coach? s k q with ⟨hu, hs⟩ | ⟨c, c', hu, hs, -, hr⟩
    · simp only [hu, hs]
    · simp only [hu, hs, hr]

theorem State.takeToken_args14 (s : State) (k : Tok) : (s.takeToken k).args14 s.cur = s.args14 s.cur := by
  cases hc : s.cur with
  | dray d n => rfl
  | coach q p =>
    unfold State.args14
    rcases State.takeToken_coach? s k q with ⟨hu, hs⟩ | ⟨c, c', hu, hs, hr, -⟩
    · simp only [hu, hs]
    · simp only [hu, hs, Option.map_some]
      exact (congrArg Coach.args hr :)

/-! ## The strand that a FORK takes -/

/-- A free strand is another strand than the one that runs. -/
theorem freeStrand_ne_cur {s : State} {th : ThreadId} (hrun : s.me.run = .ready) (h : s.freeStrand s.cur = some th) :
    th ≠ s.cur := by
  rintro rfl
  have hidle : s.me.run = .idle := by
    unfold State.me
    generalize hcur : s.cur = th at h
    cases th with
    | coach q p =>
      simp only [State.freeStrand] at h
      cases hc : s.coach? q with
      | none => rw [hc] at h; exact nomatch h
      | some c =>
        rw [hc] at h
        obtain ⟨i, hi, he⟩ := Option.map_eq_some_iff.1 h
        have := List.find?_some hi
        cases he
        simpa [State.strand?, hc] using this
    | dray d n =>
      simp only [State.freeStrand] at h
      obtain ⟨i, hi, he⟩ := Option.map_eq_some_iff.1 h
      have := List.find?_some hi
      cases he
      simp only [Bool.and_eq_true, beq_iff_eq] at this
      simpa [State.strand?] using this.1.1.1
  rw [hidle] at hrun
  exact nomatch hrun

theorem freeStrand_least {s : State} {q p i : Nat} {c : Coach} (h : s.freeStrand (.coach q p) = some (.coach q i))
    (hc : s.coach? q = some c) :
    i < 8 ∧ (c.strand i).run = .idle ∧ ∀ j, j < i → (c.strand j).run ≠ .idle := by
  simp only [State.freeStrand, hc] at h
  obtain ⟨j, hj, he⟩ := Option.map_eq_some_iff.1 h
  cases he
  obtain ⟨h1, h2, h3⟩ := List.find?_range_eq_some.1 hj
  refine ⟨List.mem_range.1 h2, by simpa using h1, fun j hj => ?_⟩
  simpa using h3 j hj

/-- A new strand: s1 and s14 are given, and everything else of it is fresh. -/
theorem Strand.forked_fields (st : Strand) (x y pc : Word) (r : BitVec 4) :
    (st.forked x y pc).reg r = (if r = 1#4 then x else if r = 14#4 then y else 0#64) ∧
      (st.forked x y pc).pois r = false ∧ (st.forked x y pc).pc = pc ∧ (st.forked x y pc).run = .ready ∧
      (st.forked x y pc).loops = [] ∧ (st.forked x y pc).latch = 0#4 ∧ (st.forked x y pc).fcode = 0#64 := by
  generalize hz : ({ st with regs := [], poison := 0#16, loops := [], latch := 0#4, epc := 0#64, fcode := 0#64 } : Strand) = z
  have hreg : (st.forked x y pc).reg r = ((z.setReg 1#4 x false).setReg 14#4 y false).reg r := by rw [← hz]; rfl
  have hpois : (st.forked x y pc).pois r = ((z.setReg 1#4 x false).setReg 14#4 y false).pois r := by rw [← hz]; rfl
  have hz0 : z.reg r = 0#64 := by
    rw [← hz]
    exact ite_self _
  have hzp : z.pois r = false := by
    rw [← hz]
    unfold Strand.pois
    split
    · rfl
    · exact BitVec.getLsbD_zero
  refine ⟨?_, ?_, rfl, rfl, rfl, rfl, rfl⟩
  · rw [hreg, Strand.reg_setReg, Strand.reg_setReg, hz0]
    by_cases h1 : r = 1#4
    · subst h1; rfl
    · by_cases h14 : r = 14#4
      · subst h14; rfl
      · simp [h1, h14]
  · rw [hpois, Strand.pois_setReg, Strand.pois_setReg, hzp]
    simp

/-! ## FORK -/

theorem State.freshStream_strand? (s : State) (th u : ThreadId) : (s.freshStream th).strand? u = s.strand? u := by
  cases th with
  | coach q p => rfl
  | dray d k => exact State.strand?_updStream s _ u _

theorem State.freshStream_cur (s : State) (th : ThreadId) : (s.freshStream th).cur = s.cur := by
  cases th <;> rfl

/-- The state in which a FORK has started its strand. -/
def State.forks (s : State) (th : ThreadId) (x y start : Word) (ids : List Nat) : State :=
  ((s.freshStream th).updStrand th (fun st => st.forked x y start)).follows th ids

theorem State.forks_cur (s : State) (th : ThreadId) (x y start : Word) (ids : List Nat) :
    (s.forks th x y start ids).cur = s.cur := by
  rw [State.forks, State.follows, State.updStrand_eq, State.updStrand_eq]
  exact State.freshStream_cur s th

theorem State.forks_strand? {s : State} {th : ThreadId} (h : th ≠ s.cur) (x y start : Word) (ids : List Nat) :
    (s.forks th x y start ids).strand? s.cur = s.strand? s.cur := by
  rw [State.forks, State.follows, State.strand?_updStrand, if_neg (Ne.symm h), State.strand?_updStrand,
    if_neg (Ne.symm h), State.freshStream_strand?]

section Fork

variable {s : State} {k : Tok} {d a : BitVec 4} {o : BitVec 13}

/-- FORK where no strand is free. -/
theorem exec_fork_none (h : s.Issues (kWord [3]) (.fork k d a o) k) (hp : s.pois a = false)
    (hf : s.freeStrand s.cur = none) :
    exec (.fork k d a o) s = (writeS d (-1#64) false (s.takeToken k)).apply k 1 s.me.pc s.cur := by
  refine (exec_of_issue h (show execFork k d a o = _ from rfl)).trans ?_
  simp only [State.takeToken_pois, hp, State.takeToken_cur, State.takeToken_freeStrand, hf, consume]
  rfl

/-- FORK where a strand is free: the start must lie in that strand's code range. -/
theorem exec_fork_some {th : ThreadId} (h : s.Issues (kWord [3]) (.fork k d a o) k) (hp : s.pois a = false)
    (hf : s.freeStrand s.cur = some th) :
    exec (.fork k d a o) s =
      (if s.inRange th (s.me.pc + o.signExtend 64) = false then
        Res.fault (s.takeToken k) codeFetchRange (some (s.me.pc + o.signExtend 64)) none
      else writeS d (word (threadPart th)) false
        ((s.takeToken k).forks th (s.reg a) (s.args14 s.cur) (s.me.pc + o.signExtend 64)
          ((s.takeToken k).released s.cur (fun _ => true)))).apply k 1 s.me.pc s.cur := by
  have ho := State.takeToken_only s k
  refine (exec_of_issue h (show execFork k d a o = _ from rfl)).trans ?_
  simp only [State.takeToken_pois, hp, State.takeToken_cur, State.takeToken_freeStrand, hf, State.takeToken_pc,
    ho.inRange, State.takeToken_reg, State.takeToken_args14, consume]
  rfl

theorem traps_fork_pois (h : s.Issues (kWord [3]) (.fork k d a o) k) (hp : s.pois a = true) :
    Traps (.fork k d a o) s k 0x0401 none none := by
  refine traps_of_fault (n := 1) ((exec_of_issue h (show execFork k d a o = _ from rfl)).trans ?_)
  simp only [State.takeToken_pois, hp, consume]
  rfl

theorem acts_fork {th : ThreadId} (h : s.Issues (kWord [3]) (.fork k d a o) k) (hp : s.pois a = false)
    (hf : s.freeStrand s.cur = some th) (hr : s.inRange th (s.me.pc + o.signExtend 64) = true) :
    Acts (.fork k d a o) s
      ((s.takeToken k).forks th (s.reg a) (s.args14 s.cur) (s.me.pc + o.signExtend 64)
        ((s.takeToken k).released s.cur (fun _ => true))) d (BitVec.ofNat 64 (threadPart th)) false := by
  have hx := exec_fork_some h hp hf
  rw [hr, if_neg Bool.noConfusion] at hx
  have hne : th ≠ (s.takeToken k).cur := by
    rw [State.takeToken_cur]
    exact freeStrand_ne_cur h.2.1 hf
  have hs := State.forks_strand? hne (s.reg a) (s.args14 s.cur) (s.me.pc + o.signExtend 64)
    ((s.takeToken k).released s.cur (fun _ => true))
  refine acts_of_writeS hx rfl ?_ ?_
  · rw [State.forks_cur, hs, h.isSome]
  · rw [State.me, State.forks_cur, hs]
    exact State.takeToken_sameBut s k

end Fork

/-! ## JOIN and END -/

theorem State.joined_only (s : State) (w : Nat) : OnlyThread s (s.joined w) := by
  unfold State.joined
  split
  · exact State.follows_only s _
  · exact OnlyThread.refl s

theorem State.joined_me (s : State) (w : Nat) (h : (s.strand? s.cur).isSome = true) : (s.joined w).me.SameBut s.me := by
  unfold State.joined
  split
  · exact State.me_follows s _ h
  · exact .refl _

theorem join_outcomes {s : State} {k : Tok} {a : BitVec 4} (h : s.Issues (kWord [3]) (.join k a) k) :
    let waits := (s.reg a).toNat < 8 ∧ (s.reg a).toNat ≠ threadPart s.cur ∧ s.sideIdle s.cur (s.reg a).toNat = false
    (waits → Parks (.join k a) s k (.join (s.reg a).toNat)) ∧ (¬waits → Does (.join k a) s s) := by
  intro waits
  have ho := State.takeToken_only s k
  have hx := exec_of_issue h (show execJoin k a = _ from rfl)
  simp only [State.takeToken_reg, State.takeToken_cur, State.takeToken_sideIdle] at hx
  refine ⟨fun hw => ?_, fun hw => ?_⟩
  · rw [if_pos hw] at hx
    exact parks_of_wait hx
  · rw [if_neg hw] at hx
    have hj := State.joined_only (s.takeToken k) (s.reg a).toNat
    refine (does_of_done' hx rfl (hj.isSome.trans h.isSome) ?_).of_only (ho.trans hj)
    exact (State.joined_me _ _ h.isSome).trans (State.takeToken_sameBut s k)

theorem endTask_outcomes {s : State} {k : Tok} (h : s.Issues commonWord (.endTask k) k) :
    let waits := threadEngine s.cur = .k ∧ s.othersIdle s.cur = false
    (waits → Parks (.endTask k) s k .others) ∧ (¬waits → Halts (.endTask k) s) := by
  intro waits
  have hx := exec_of_issue h (show execEndTask k = _ from rfl)
  simp only [State.takeToken_cur, State.takeToken_othersIdle] at hx
  refine ⟨fun hw => ?_, fun hw => ?_⟩
  · rw [if_pos hw] at hx
    exact parks_of_wait hx
  · rw [if_neg hw] at hx
    exact halts_of_halt h hx

/-- Settles O6: FORK by its cases, and the words that end or wait for a strand. -/
theorem strands : Obligations.Strands := by
  intro s k d a o start
  refine ⟨fun h => ⟨traps_fork_pois h, fun hp hn => ?_, fun th hp hf => ⟨fun hr => ?_, acts_fork h hp hf⟩⟩,
    fun q p i hf c hc => freeStrand_least hf hc, Strand.forked_fields, join_outcomes,
    fun h => does_self_of_done h (exec_of_issue h (show execSyield k = _ from rfl)) rfl, endTask_outcomes,
    fun h => halts_of_halt h (exec_of_issue h (show execSexit k = _ from rfl))⟩
  · exact computes_of_writeS h rfl (exec_fork_none h hp hn)
  · have hx := exec_fork_some h hp hf
    rw [if_pos hr] at hx
    exact traps_of_fault hx

end Sys2Proof.Machine
end

section
/-! SUPPORT. SemaphoreWords: the SEM words and the semaphore that each one names (R123, R149, R150). -/

namespace Sys2Proof.Machine

/-! ## The semaphore that a word names -/

theorem State.quad_updQuad (s : State) (q p : Nat) (f : Quadrant → Quadrant) :
    (s.updQuad q f).quad p = if p = q then f (s.quad q) else s.quad p :=
  SMap.get_put _ s.quads q _ p

theorem State.quad_updQuad_self (s : State) (q : Nat) (f : Quadrant → Quadrant) :
    (s.updQuad q f).quad q = f (s.quad q) := by
  rw [State.quad_updQuad, if_pos rfl]

/-- The semaphore with a virtual number in the view of the running coach. -/
def State.namedSem (s : State) (v : Nat) : Option Nat := s.myCoach?.bind (fun c => s.semaphore c v)

theorem State.takeToken_quad (s : State) (k : Tok) (q : Nat) : (s.takeToken k).quad q = s.quad q :=
  (State.takeToken_only s k).quad q

theorem State.takeToken_tsc (s : State) (k : Tok) : (s.takeToken k).tsc = s.tsc := by
  rw [State.takeToken_eq]

theorem State.takeToken_namedSem (s : State) (k : Tok) (v : Nat) : (s.takeToken k).namedSem v = s.namedSem v := by
  have hown : ∀ q, (s.takeToken k).quadOwner q = s.quadOwner q := fun q => by rw [State.takeToken_eq]; rfl
  cases hc : s.cur with
  | dray d n => rw [State.takeToken_of_dray hc]
  | coach q p =>
    unfold State.namedSem
    rw [State.myCoach?_of_cur hc, State.myCoach?_of_cur ((State.takeToken_cur s k).trans hc)]
    rcases State.takeToken_coach? s k q with ⟨hu, hs⟩ | ⟨c, c', hu, hs, hr, -⟩
    · rw [hu, hs]; rfl
    · have hq : c'.quad = c.quad := (congrArg Coach.quad hr :)
      have hv : c'.semView = c.semView := (congrArg Coach.semView hr :)
      have hl : c'.slice = c.slice := (congrArg Coach.slice hr :)
      rw [hu, hs]
      show State.semaphore _ c' v = State.semaphore s c v
      unfold State.semaphore
      rw [hq, hv, hl]
      simp only [hown]

theorem State.namedSem_eq_none {s : State} {v : Nat} (h : s.namedSem v = none) :
    s.myCoach? = none ∨ ∃ c, s.myCoach? = some c ∧ s.semaphore c v = none := by
  cases hc : s.myCoach? with
  | none => exact .inl rfl
  | some c =>
    rw [State.namedSem, hc] at h
    exact .inr ⟨c, rfl, h⟩

theorem State.namedSem_eq_some {s : State} {v sem : Nat} (h : s.namedSem v = some sem) :
    ∃ c, s.myCoach? = some c ∧ s.semaphore c v = some sem :=
  Option.bind_eq_some_iff.1 h

section Named

variable {i : Instr} {k : Tok} {s : State} {a : BitVec 4} {n : BitVec 5} {body : State → Word → Nat → Res}

/-- A SEM word whose number names no semaphore. -/
theorem traps_sem (h : s.Issues coachWord i k) (he : exec i s = semForm i k a n body s)
    (hn : s.namedSem ((s.reg a).toNat + n.toNat) = none) :
    Traps i s k 0x0603 (some (BitVec.ofNat 64 ((s.reg a).toNat + n.toNat))) (some 0#64) := by
  rw [← State.takeToken_namedSem s k] at hn
  refine traps_of_fault (n := 1) (he.trans ((issue_of_issues _ h).trans ?_))
  simp only [State.takeToken_reg]
  rcases State.namedSem_eq_none hn with hc | ⟨c, hc, hv⟩
  · rw [hc]; rfl
  · simp only [hc, hv]; rfl

/-- A SEM word whose number names a semaphore. -/
theorem exec_sem {sem : Nat} (h : s.Issues coachWord i k) (he : exec i s = semForm i k a n body s)
    (hn : s.namedSem ((s.reg a).toNat + n.toNat) = some sem) :
    exec i s = (body (s.takeToken k) (word ((s.reg a).toNat + n.toNat)) sem).apply k 1 s.me.pc s.cur := by
  rw [← State.takeToken_namedSem s k] at hn
  obtain ⟨c, hc, hv⟩ := State.namedSem_eq_some hn
  refine he.trans ((issue_of_issues _ h).trans ?_)
  simp only [State.takeToken_reg, hc, hv]
  rfl

end Named

/-! ## Counts, waiters and what a V releases -/

theorem State.takeToken_semCount (s : State) (k : Tok) (sem : Nat) : (s.takeToken k).semCount sem = s.semCount sem := by
  unfold State.semCount
  rw [State.takeToken_quad]

theorem State.takeToken_granted (s : State) (k : Tok) : (s.takeToken k).me.granted = s.me.granted := by
  rw [State.takeToken_me]

theorem State.semRelease_semCount (s : State) (sem : Nat) : ((s.semRelease sem).latchSem sem).semCount sem = s.semCount sem := by
  have hq : ((s.semRelease sem).latchSem sem).quad (sem / 32) = (s.semRelease sem).quad (sem / 32) := rfl
  unfold State.semCount
  rw [hq, State.semRelease, State.quad_updQuad_self]

theorem State.semRelease_semWaiter (s : State) (sem : Nat) :
    ((s.semRelease sem).latchSem sem).semWaiter sem = s.semWaiter sem := by
  have hq : ((s.semRelease sem).latchSem sem).quad (sem / 32) = (s.semRelease sem).quad (sem / 32) := rfl
  unfold State.semWaiter
  rw [hq, State.semRelease, State.quad_updQuad_self]

theorem State.takeToken_semWaiter (s : State) (k : Tok) (sem : Nat) :
    (s.takeToken k).semWaiter sem = s.semWaiter sem := by
  unfold State.semWaiter
  rw [State.takeToken_quad]

/-- A V that no P waits for. -/
theorem State.semV_of_none {s : State} {sem : Nat} (h : s.semWaiter sem = none) :
    (s.semRelease sem).semV sem = ((s.semRelease sem).latchSem sem).setSem sem (s.semCount sem + 1#16) := by
  rw [State.semV]
  simp only [State.semRelease_semWaiter, h, State.semRelease_semCount]

/-- A V that serves the oldest P. -/
theorem State.semV_of_some {s : State} {sem : Nat} {th : ThreadId} (h : s.semWaiter sem = some th) :
    (s.semRelease sem).semV sem =
      (((s.semRelease sem).latchSem sem).updQuad (sem / 32) (fun x => { x with semWait := x.semWait.erase (sem, th) })).updStrand
        th (fun st => { st with granted := true }) := by
  rw [State.semV]
  simp only [State.semRelease_semWaiter, h]

/-! ## P, TRYP and READ -/

section Counted

variable {i : Instr} {k : Tok} {s : State} {sem : Nat} {x : BitVec 16}

theorem State.updQuad_strand? (s : State) (q : Nat) (f : Quadrant → Quadrant) (th : ThreadId) :
    (s.updQuad q f).strand? th = s.strand? th := by
  cases th <;> rfl

theorem State.setSem_me (s : State) (sem : Nat) (x : BitVec 16) : (s.setSem sem x).me = s.me :=
  congrArg (fun o => Option.getD o Strand.start) (State.updQuad_strand? s _ _ s.cur)

theorem State.setSem_isSome (s : State) (sem : Nat) (x : BitVec 16) :
    ((s.setSem sem x).strand? (s.setSem sem x).cur).isSome = (s.strand? s.cur).isSome :=
  congrArg Option.isSome (State.updQuad_strand? s _ _ s.cur)

theorem State.semAcquire_only (s : State) (sem : Nat) : OnlyThread s (s.semAcquire sem) := State.follows_only s _

theorem State.semAcquire_me (s : State) (sem : Nat) (h : (s.strand? s.cur).isSome = true) :
    (s.semAcquire sem).me.SameBut s.me := State.me_follows s _ h

/-- A P that takes its count acquires what the Vs released. -/
theorem does_of_semAcquire {u : State} (he : exec i s = (Res.done (u.semAcquire sem)).apply k 1 s.me.pc s.cur)
    (hu : (u.strand? u.cur).isSome = true) (hme : u.me.SameBut s.me) : Does i s u :=
  (does_of_done' he rfl ((State.semAcquire_only u sem).isSome.trans hu) ((State.semAcquire_me u sem hu).trans hme)).of_only
    (State.semAcquire_only u sem)

theorem acts_of_semAcquire {u : State} {d : BitVec 4} {v : Word} {p : Bool}
    (he : exec i s = (writeS d v p (u.semAcquire sem)).apply k 1 s.me.pc s.cur)
    (hu : (u.strand? u.cur).isSome = true) (hme : u.me.SameBut s.me) : Acts i s u d v p :=
  (acts_of_writeS he rfl ((State.semAcquire_only u sem).isSome.trans hu) ((State.semAcquire_me u sem hu).trans hme)).of_only
    (State.semAcquire_only u sem)

/-- The state in which a word that issues has written a count. -/
theorem setSem_isSome_of_issues {cls : WordClass} (h : s.Issues cls i k) :
    (((s.takeToken k).setSem sem x).strand? ((s.takeToken k).setSem sem x).cur).isSome = true :=
  (State.setSem_isSome _ _ _).trans h.isSome

theorem setSem_sameBut : ((s.takeToken k).setSem sem x).me.SameBut s.me := by
  rw [State.setSem_me]
  exact State.takeToken_sameBut s k

end Counted

section Words

variable {s : State} {k : Tok} {d a : BitVec 4} {n : BitVec 5} {sem : Nat}

theorem semP_outcomes (hn : s.namedSem ((s.reg a).toNat + n.toNat) = some sem) (h : s.Issues coachWord (.semP k a n) k) :
    (s.me.granted = true → Does (.semP k a n) s s) ∧
      (s.me.granted = false → s.semCount sem ≠ 0#16 →
        Does (.semP k a n) s ((s.takeToken k).setSem sem (s.semCount sem - 1#16))) ∧
      (s.me.granted = false → s.semCount sem = 0#16 →
        exec (.semP k a n) s = .next ((((s.takeToken k).setSem sem 0#16).joinSem sem s.cur).updMe
          (fun st => { st.parkOn (.semaphore sem) s.tsc with begun := true }))) := by
  have hx := exec_sem h (show execSemP k a n s = _ from rfl) hn
  simp only [State.takeToken_granted, State.takeToken_semCount, State.takeToken_cur] at hx
  refine ⟨fun hg => ?_, fun hg hc => ?_, fun hg hc => ?_⟩
  · rw [if_pos hg] at hx
    exact (does_of_semAcquire hx h.isSome (State.takeToken_sameBut s k)).of_only (State.takeToken_only s k)
  · rw [if_neg (Bool.eq_false_iff.1 hg), if_pos hc] at hx
    exact does_of_semAcquire hx (setSem_isSome_of_issues h) setSem_sameBut
  · rw [if_neg (Bool.eq_false_iff.1 hg), if_neg (fun hne => hne hc)] at hx
    rw [hx, Res.apply]
    have htsc : (((s.takeToken k).setSem sem 0#16).joinSem sem s.cur).tsc = s.tsc := State.takeToken_tsc s k
    rw [htsc]

theorem semV_outcomes (hn : s.namedSem ((s.reg a).toNat + n.toNat) = some sem) (h : s.Issues coachWord (.semV k a n) k) :
    (s.semCount sem = 0xFFFF#16 →
        Traps (.semV k a n) s k 0x0603 (some (BitVec.ofNat 64 ((s.reg a).toNat + n.toNat))) (some 0#64)) ∧
      (s.semCount sem ≠ 0xFFFF#16 → s.semWaiter sem = none →
        Completes (.semV k a n) s k (fun u => ((u.semRelease sem).latchSem sem).setSem sem (s.semCount sem + 1#16))) ∧
      (∀ th, s.semCount sem ≠ 0xFFFF#16 → s.semWaiter sem = some th →
        Completes (.semV k a n) s k (fun u =>
          (((u.semRelease sem).latchSem sem).updQuad (sem / 32) (fun x => { x with semWait := x.semWait.erase (sem, th) })).updStrand th
            (fun st => { st with granted := true }))) := by
  have hx := exec_sem h (show execSemV k a n s = _ from rfl) hn
  simp only [State.takeToken_semCount] at hx
  refine ⟨fun hc => ?_, fun hc hw => ?_, fun th hc hw => ?_⟩
  · rw [if_pos hc] at hx
    exact traps_of_fault hx
  · rw [if_neg hc, State.semV_of_none (by rw [State.takeToken_semWaiter, hw]), State.takeToken_semCount] at hx
    exact hx
  · rw [if_neg hc, State.semV_of_some (by rw [State.takeToken_semWaiter, hw])] at hx
    exact hx

theorem semTryp_outcomes (hn : s.namedSem ((s.reg a).toNat + n.toNat) = some sem)
    (h : s.Issues coachWord (.semTryp k d a n) k) :
    (s.semCount sem ≠ 0#16 →
        Acts (.semTryp k d a n) s ((s.takeToken k).setSem sem (s.semCount sem - 1#16)) d 1#64 (s.pois a)) ∧
      (s.semCount sem = 0#16 → Acts (.semTryp k d a n) s ((s.takeToken k).setSem sem 0#16) d 0#64 (s.pois a)) := by
  have hx := exec_sem h (show execSemTryp k d a n s = _ from rfl) hn
  simp only [State.takeToken_semCount, State.takeToken_pois] at hx
  refine ⟨fun hc => ?_, fun hc => ?_⟩
  · rw [if_pos hc] at hx
    exact acts_of_semAcquire hx (setSem_isSome_of_issues h) setSem_sameBut
  · rw [if_neg (fun hne => hne hc)] at hx
    exact acts_of_writeS hx rfl (setSem_isSome_of_issues h) setSem_sameBut

theorem acts_semRead (hn : s.namedSem ((s.reg a).toNat + n.toNat) = some sem)
    (h : s.Issues coachWord (.semRead k d a n) k) :
    Acts (.semRead k d a n) s ((s.takeToken k).setSem sem (s.semCount sem)) d ((s.semCount sem).setWidth 64) (s.pois a) := by
  have hx := exec_sem h (show execSemRead k d a n s = _ from rfl) hn
  simp only [State.takeToken_semCount, State.takeToken_pois] at hx
  exact acts_of_writeS hx rfl (setSem_isSome_of_issues h) setSem_sameBut

end Words

/-- Settles O7: each SEM word by the semaphore that its number names. -/
theorem semaphores : Obligations.Semaphores := by
  intro s k d a n
  exact ⟨⟨fun h => traps_sem h (show execSemP k a n s = _ from rfl), fun h => traps_sem h (show execSemV k a n s = _ from rfl),
      fun h => traps_sem h (show execSemTryp k d a n s = _ from rfl),
      fun h => traps_sem h (show execSemRead k d a n s = _ from rfl)⟩,
    fun sem hn => ⟨semP_outcomes hn, semV_outcomes hn, semTryp_outcomes hn, acts_semRead hn⟩⟩

end Sys2Proof.Machine
end

section
/-! SUPPORT. Services: events, service calls and TFENCE, the feature leaves, time and the identifiers (R90, R124, R125,
R127-R129, R351). -/

namespace Sys2Proof.Machine

/-! ## WAITE, ECALL, EBREAK (R124, R125) -/

section Waite

variable {s : State} {k : Tok} {a m : BitVec 4}

theorem waite_outcomes (h : s.Issues commonWord (.waite k a m) k) :
    let ended := s.me.latch &&& m ≠ 0#4 ∨ s.me.granted = true ∨ (a ≠ 0#4 ∧ s.reg a = 0#64)
    (ended → Completes (.waite k a m) s k (fun u => u.updMe (fun st => { st with latch := st.latch &&& ~~~ m }))) ∧
      (¬ended → a = 0#4 → Parks (.waite k a m) s k (.event m none)) ∧
      (¬ended → a ≠ 0#4 → Parks (.waite k a m) s k (.event m (some (s.clocks, s.reg a)))) := by
  intro ended
  have hlatch : (s.takeToken k).me.latch = s.me.latch := by rw [State.takeToken_me]
  have hclocks : (s.takeToken k).clocks = s.clocks := by rw [State.takeToken_eq]
  have hx := exec_of_issue h (show execWaite k a m = _ from rfl)
  simp only [hlatch, State.takeToken_granted, State.takeToken_reg, hclocks] at hx
  refine ⟨fun he => ?_, fun he ha => ?_, fun he ha => ?_⟩
  · rw [if_pos he] at hx
    exact hx
  · rw [if_neg he, if_pos ha] at hx
    exact parks_of_wait hx
  · rw [if_neg he, if_neg ha] at hx
    exact parks_of_wait hx

end Waite

/-! ## TFENCE (R90) -/

theorem State.takeToken_enginesBusy (s : State) (k : Tok) :
    (s.takeToken k).enginesBusy s.cur = s.enginesBusy s.cur := by
  cases hc : s.cur with
  | dray d n => rfl
  | coach q p =>
    unfold State.enginesBusy
    rcases State.takeToken_coach? s k q with ⟨hu, hs⟩ | ⟨c, c', hu, hs, hr, -⟩
    · simp only [hu, hs]
    · simp only [hu, hs, Option.map_some]
      exact (congrArg (fun c : Coach => c.outstanding (streamOfPart p).index) hr :)

theorem State.takeToken_myStream (s : State) (k : Tok) : (s.takeToken k).myStream = s.myStream := by
  rw [State.myStream, State.takeToken_cur, (State.takeToken_only s k).2.2.2.2]
  rfl

theorem leastBelow_eq_some {n b : Nat} {p : Nat → Bool} (hb : b < n) (hp : p b = true) (hl : ∀ j, j < b → p j = false) :
    leastBelow n p = some b :=
  List.find?_range_eq_some.2 ⟨hp, List.mem_range.2 hb, fun j hj => by rw [hl j hj]; rfl⟩

theorem leastBelow_eq_none {n : Nat} {p : Nat → Bool} (hp : ∀ j, p j = false) : leastBelow n p = none :=
  List.find?_range_eq_none.2 (fun j _ => by rw [hp j]; rfl)

section Tfence

variable {s : State} {k : Tok}

theorem tfence_outcomes (h : s.Issues commonWord (.tfence k) k) :
    let hit := s.myStream.flags &&& s.myStream.trapen
    (s.enginesBusy s.cur = true → Parks (.tfence k) s k .tfence) ∧
      (s.enginesBusy s.cur = false → hit = 0#9 → Does (.tfence k) s s) ∧
      (s.enginesBusy s.cur = false → ∀ b, b < 9 → hit.getLsbD b = true → (∀ j, j < b → hit.getLsbD j = false) →
        exec (.tfence k) s = .next ((s.takeToken k).takeFault s.cur (trapCode b) 0#64 (hit.setWidth 64) s.me.pc)) := by
  intro hit
  have hx := exec_of_issue h (show execTfence k = _ from rfl)
  simp only [State.takeToken_cur, State.takeToken_enginesBusy, State.takeToken_myStream] at hx
  refine ⟨fun hb => ?_, fun hb hz => ?_, fun hb b hlt hbit hleast => ?_⟩
  · rw [if_pos hb] at hx
    exact parks_of_wait hx
  · have hnone : leastBelow 9 (fun b => hit.getLsbD b) = none :=
      leastBelow_eq_none (fun j => by rw [hz]; exact BitVec.getLsbD_zero)
    rw [if_neg (Bool.eq_false_iff.1 hb), hnone] at hx
    exact does_self_of_done h hx rfl
  · have hsome : leastBelow 9 (fun b => hit.getLsbD b) = some b := leastBelow_eq_some hlt hbit hleast
    rw [if_neg (Bool.eq_false_iff.1 hb), hsome] at hx
    exact hx

end Tfence

/-- Settles O9: each word by its outcome. -/
theorem eventsAndServices : Obligations.EventsAndServices := by
  intro s k a m c
  exact ⟨waite_outcomes, fun h => exec_of_issue h (show execEcall k c = _ from rfl),
    fun h => exec_of_issue h (show execEbreak k c = _ from rfl), fun h =>
      have ⟨hwait, hnone, hsome⟩ := tfence_outcomes h
      ⟨hwait, hnone, hsome, rfl⟩⟩

/-! ## Feature leaves (R127, R348) -/

theorem State.leaf_of_le (s : State) (th : ThreadId) {m : Word} (h : 3 ≤ m.toNat) : s.leaf th m = 0#64 := by
  obtain ⟨j, hj⟩ := Nat.exists_eq_add_of_le h
  rw [State.leaf.eq_def, hj, Nat.add_comm 3 j]
  rfl

/-- The fields of leaf 0. -/
theorem leaf0_fields (v : BitVec 8) :
    bits ((0x4128#64 <<< 48) ||| (v.setWidth 64 <<< 40) ||| 2#64) 63 48 = 0x4128 ∧
      bits ((0x4128#64 <<< 48) ||| (v.setWidth 64 <<< 40) ||| 2#64) 39 8 = 0 ∧
      bits ((0x4128#64 <<< 48) ||| (v.setWidth 64 <<< 40) ||| 2#64) 7 0 = 2 := by
  revert v
  decide

theorem gives_qfeat (s : State) (k : Tok) (d a : BitVec 4) (i : BitVec 13) :
    Gives commonWord (.qfeat k d a i) k s d
      ((s.takeToken k).leaf s.cur (BitVec.ofNat 64 ((s.reg a).toNat + i.toNat))) (s.pois a) := by
  intro h
  have hx := exec_of_issue h (show execQfeat k d a i = _ from rfl)
  have hn : s.reg a + i.setWidth 64 = BitVec.ofNat 64 ((s.reg a).toNat + i.toNat) := by
    apply BitVec.eq_of_toNat_eq
    have := i.isLt
    rw [BitVec.toNat_add, BitVec.toNat_setWidth, BitVec.toNat_ofNat, Nat.mod_eq_of_lt (a := i.toNat) (by omega)]
  simp only [State.takeToken_cur, State.takeToken_reg, State.takeToken_pois, hn] at hx
  exact computes_of_writeS h rfl hx

/-- Settles O11: the leaf that the sum names, and what the leaves hold. -/
theorem featureLeaves : Obligations.FeatureLeaves := by
  intro s k d a i n
  obtain ⟨h1, h2, h3⟩ := leaf0_fields Config.stepping
  refine ⟨gives_qfeat s k d a i, fun m hm => s.leaf_of_le _ hm, h1, h2, h3, rfl, fun q p c hcur hc => ?_⟩
  rw [hcur]
  show s.features (((s.coach? q).map (fun c => c.slice)).getD 0) = _
  rw [hc]
  rfl

/-! ## Time and identity (R128, R129, R351) -/

section Read

variable {cls : WordClass} {i : Instr} {k : Tok} {s : State} {d : BitVec 4} {f : State → Word}

/-- A word that reads a value of the state. -/
theorem gives_readForm (he : exec i s = readForm cls i k d f s) (hw : cls.words = 1) :
    Gives cls i k s d (f (s.takeToken k)) false :=
  fun h => computes_of_writeS h hw (he.trans (issue_of_issues _ h))

theorem gives_idForm {code : BitVec 13} {n : Nat} (he : exec i s = idForm k d code s) (hn : code.toNat = n) :
    Gives commonWord i k s d ((s.takeToken k).identifier s.cur n) false := by
  subst hn
  intro h
  refine computes_of_writeS h rfl (he.trans ((issueWord_of_issues _ _ h).trans ?_))
  rw [State.takeToken_cur]

end Read

theorem State.takeToken_sliceOf (s : State) (k : Tok) : (s.takeToken k).sliceOf s.cur = s.sliceOf s.cur := by
  cases hc : s.cur with
  | dray d n => rw [State.takeToken_of_dray hc]
  | coach q p =>
    unfold State.sliceOf
    rcases State.takeToken_coach? s k q with ⟨hu, hs⟩ | ⟨c, c', hu, hs, hr, -⟩
    · simp only [hu, hs]
    · simp only [hu, hs, Option.map_some]
      exact (congrArg (fun c : Coach => some c.slice) hr :)

theorem State.takeToken_timeOffset (s : State) (k : Tok) : (s.takeToken k).timeOffset s.cur = s.timeOffset s.cur := by
  have ho : (s.takeToken k).offsets = s.offsets := by rw [State.takeToken_eq]
  unfold State.timeOffset
  rw [State.takeToken_sliceOf, ho]

theorem completes_timeNs {s : State} {k : Tok} {d : BitVec 4} {v : Word}
    (hv : maxuWord (s.tsc + s.timeOffset s.cur) s.me.lastTime = v) (h : s.Issues commonWord (.timeNs k d) k) :
    Completes (.timeNs k d) s k (fun u => (u.updMe (fun st => { st with lastTime := v })).setReg d v false) := by
  have hlast : (s.takeToken k).me.lastTime = s.me.lastTime := by rw [State.takeToken_me]
  have hx := exec_of_issue h (show execTimeNs k d = _ from rfl)
  simp only [State.timeNs, hlast, State.takeToken_cur, State.takeToken_timeOffset, State.takeToken_tsc, hv] at hx
  exact hx

/-- The identifiers of a Dray strand. -/
theorem identifier_dray {s : State} {e t : Nat} (h : s.cur = .dray e t) :
    s.identifier s.cur 0 = -1#64 ∧ s.identifier s.cur 1 = -1#64 ∧ s.identifier s.cur 2 = -1#64 ∧
      s.identifier s.cur 3 = BitVec.ofNat 64 e ∧ s.identifier s.cur 5 = -1#64 ∧
      (s.strandLevel e t = 0 → s.identifier s.cur 4 = -1#64) ∧
      (s.strandLevel e t ≠ 0 → s.identifier s.cur 4 = BitVec.ofNat 64 (s.strandServed e t)) := by
  rw [h]
  exact ⟨rfl, rfl, rfl, rfl, rfl, fun h0 => if_pos h0, fun h0 => if_neg h0⟩

/-- Settles O12: the reads of time and identity, and the identifiers of a Dray strand. -/
theorem timeAndIdentity : Obligations.TimeAndIdentity := by
  intro s k d u now v
  refine ⟨completes_timeNs (maxuWord_eq _ _), ?_, ?_, gives_idForm (show execIdCoach k d s = _ from rfl) rfl,
    gives_idForm (show execIdCore k d s = _ from rfl) rfl, gives_idForm (show execIdCluster k d s = _ from rfl) rfl,
    gives_idForm (show execIdDie k d s = _ from rfl) rfl, gives_idForm (show execIdSlice k d s = _ from rfl) rfl,
    gives_idForm (show execIdShape k d s = _ from rfl) rfl, fun e t => identifier_dray⟩
  · have hg := gives_readForm (i := .timeClocks k d) (show execTimeClocks k d s = _ from rfl) rfl
    rwa [State.takeToken_cur] at hg
  · have hg := gives_readForm (i := .timeEnergy k d) (show execTimeEnergy k d s = _ from rfl) rfl
    rwa [State.takeToken_cur] at hg

end Sys2Proof.Machine
end

section
/-! SUPPORT. Registers: the state registers and the descriptors that words read and write (R22, R88, R98, R126, R130). -/

namespace Sys2Proof.Machine

/-! ## State registers (R126) -/

theorem State.csrWrite_strand? (s : State) (th u : ThreadId) (n : Nat) (v : Word) :
    (s.csrWrite th n v).strand? u = s.strand? u := by
  unfold State.csrWrite
  split
  · exact State.strand?_updStream ..
  · exact State.strand?_updStream ..
  · exact State.strand?_updStream ..
  · exact State.strand?_updStream ..
  · rfl

theorem State.updStream_cur' (s : State) (th : ThreadId) (f : Stream → Stream) : (s.updStream th f).cur = s.cur := by
  cases th <;> rfl

theorem State.csrWrite_cur (s : State) (th : ThreadId) (n : Nat) (v : Word) : (s.csrWrite th n v).cur = s.cur := by
  unfold State.csrWrite
  split
  · exact State.updStream_cur' ..
  · exact State.updStream_cur' ..
  · exact State.updStream_cur' ..
  · exact State.updStream_cur' ..
  · rfl

section Words

variable {i : Instr} {k : Tok} {s : State} {d a : BitVec 4} {n : BitVec 9} {op : CsrOp} {v : Word}

theorem csrForm_outcomes (h : s.Issues commonWord i k) (he : exec i s = csrForm i k d a n op s)
    (hv : op.new ((s.takeToken k).csr s.cur n.toNat) (s.reg a) = v) :
    (s.pois a = true → Traps i s k 0x0401 none none) ∧
      (s.pois a = false → Acts i s ((s.takeToken k).csrWrite s.cur n.toNat v) d ((s.takeToken k).csr s.cur n.toNat) false) := by
  have hx := he.trans (issue_of_issues _ h)
  simp only [State.takeToken_cur, State.takeToken_pois, State.takeToken_reg, hv] at hx
  refine ⟨fun hp => ?_, fun hp => ?_⟩
  · rw [hp] at hx
    exact traps_of_fault hx
  · rw [hp] at hx
    have hst := State.csrWrite_strand? (s.takeToken k) s.cur s.cur n.toNat v
    have hcur : ((s.takeToken k).csrWrite s.cur n.toNat v).cur = s.cur :=
      (State.csrWrite_cur ..).trans (State.takeToken_cur s k)
    have hsome := h.isSome
    rw [State.takeToken_cur] at hsome
    refine acts_of_writeS hx rfl (by rw [hcur, hst, hsome]) ?_
    have hme : ((s.takeToken k).csrWrite s.cur n.toNat v).me = (s.takeToken k).me := by
      rw [State.me, State.me, hcur, hst, State.takeToken_cur]
    rw [hme]
    exact State.takeToken_sameBut s k

end Words

/-! ### What a write of a state register leaves of the others -/

/-- What the state registers of a thread read beside its stream does not change with a stream. -/
theorem State.updStream_strandLevel (s : State) (th : ThreadId) (f : Stream → Stream) (d k : Nat) :
    (s.updStream th f).strandLevel d k = s.strandLevel d k := by
  have hpm : ((s.updStream th f).die d).pm = (s.die d).pm := by
    cases th with
    | coach q p => rfl
    | dray e j =>
      rw [State.updStream, State.die_updDray]
  unfold State.strandLevel State.pmWord State.pmBytes
  rw [hpm]

/-- Reading the coach of a thread after its stream has changed. -/
theorem State.updStream_coach? (s : State) (q p : Nat) (f : Stream → Stream) :
    (s.updStream (.coach q p) f).coach? q =
      (s.coach? q).map (fun c => c.setStream (streamOfPart p) (f (c.stream (streamOfPart p)))) := by
  rw [State.updStream, State.coach?_updCoach _ _ _ _ (fun c => Coach.setStream_quad ..), if_pos rfl]

theorem Coach.setStream_tag (c : Coach) (i : StreamId) (v : Stream) : (c.setStream i v).tag = c.tag := by
  cases i <;> rfl

theorem Coach.setStream_fifoCount (c : Coach) (i : StreamId) (v : Stream) (j : Nat) :
    (c.setStream i v).fifoCount j = c.fifoCount j := by
  cases i <;> rfl

theorem Coach.setStream_owedCount (c : Coach) (i : StreamId) (v : Stream) (j : Nat) :
    (c.setStream i v).owedCount j = c.owedCount j := by
  cases i <;> rfl

theorem State.updStream_csrStatus (s : State) (th : ThreadId) (f : Stream → Stream) (st : Strand) :
    (s.updStream th f).csrStatus th st = s.csrStatus th st := by
  have hl : (s.updStream th f).launchOf th = s.launchOf th := by
    cases th with
    | dray d k => rfl
    | coach q p =>
      unfold State.launchOf
      simp only [State.updStream_coach?]
      cases s.coach? q with
      | none => rfl
      | some c => simp only [Option.map_some, Coach.setStream_tag]; rfl
  have hv : (s.updStream th f).levelOf th = s.levelOf th := by
    cases th with
    | coach q p => rfl
    | dray d k => exact State.updStream_strandLevel s _ f d k
  unfold State.csrStatus
  rw [hl, hv]

theorem State.updStream_csrStrand (s : State) (th : ThreadId) (f : Stream → Stream) (st : Strand) :
    (s.updStream th f).csrStrand th st = s.csrStrand th st := by
  cases th with
  | dray d k => rfl
  | coach q p =>
    unfold State.csrStrand
    simp only [State.updStream_coach?]
    cases s.coach? q with
    | none => rfl
    | some c => simp only [Option.map_some, Coach.strand_setStream]

theorem State.updStream_csrTokcnt (s : State) (th : ThreadId) (f : Stream → Stream) :
    (s.updStream th f).csrTokcnt th = s.csrTokcnt th := by
  cases th with
  | dray d k => rfl
  | coach q p =>
    unfold State.csrTokcnt
    simp only [State.updStream_coach?]
    cases s.coach? q with
    | none => rfl
    | some c => simp only [Option.map_some, Coach.setStream_fifoCount, Coach.setStream_owedCount]

/-- A state register of a stream, read from the stream. -/
def Stream.csr (t : Stream) (n : Nat) : Option Word :=
  match n with
  | 0 => none
  | 1 => some (t.trapen.setWidth 64)
  | 2 => some (t.flags.setWidth 64)
  | 3 => none
  | 4 => none
  | 5 => none
  | 6 => none
  | 7 => some t.seed
  | 8 => none
  | 9 => some (word (flagNat t.en * 2 + flagNat t.lnr))
  | 10 => none
  | _ => some (SMap.get zeroWord t.idx (n - 16))

/-- Registers that a stream holds are read from it, and the others do not change with it. -/
theorem State.csr_updStream (s : State) {th : ThreadId} {t : Stream} (ht : s.stream? th = some t) (f : Stream → Stream)
    (n : Nat) : (s.updStream th f).csr th n = ((f t).csr n).getD (s.csr th n) := by
  have h1 : ((s.updStream th f).stream? th).getD Stream.start = f t := by
    rw [State.stream?_updStream_same, ht]; rfl
  unfold State.csr
  rw [h1, State.strand?_updStream]
  match n with
  | 0 => exact State.updStream_csrStatus ..
  | 1 => rfl
  | 2 => rfl
  | 3 => rfl
  | 4 => rfl
  | 5 => rfl
  | 6 => rfl
  | 7 => rfl
  | 8 => exact State.updStream_csrStrand ..
  | 9 => rfl
  | 10 => exact State.updStream_csrTokcnt ..
  | n + 11 => rfl

theorem State.csr_of_stream (s : State) {th : ThreadId} {t : Stream} (ht : s.stream? th = some t) (n : Nat) :
    s.csr th n = (t.csr n).getD (s.csr th n) := by
  have h1 : (s.stream? th).getD Stream.start = t := by rw [ht]; rfl
  unfold State.csr
  rw [h1]
  match n with
  | 0 | 1 | 2 | 3 | 4 | 5 | 6 | 7 | 8 | 9 | 10 => rfl
  | n + 11 => rfl

/-! ### The fields that take bits (R22, R88, R98) -/

/-- Two streams whose registers but number n agree. -/
def Stream.CsrBut (n : Nat) (t t' : Stream) : Prop := ∀ m, m ≠ n → t'.csr m = t.csr m

theorem Stream.csrBut_trapen (t : Stream) (x : BitVec 9) : Stream.CsrBut 1 t { t with trapen := x }
  | 1, h => absurd rfl h
  | 0, _ | 2, _ | 3, _ | 4, _ | 5, _ | 6, _ | 7, _ | 8, _ | 9, _ | 10, _ => rfl
  | _ + 11, _ => rfl

theorem Stream.csrBut_flags (t : Stream) (x : BitVec 9) : Stream.CsrBut 2 t { t with flags := x }
  | 2, h => absurd rfl h
  | 0, _ | 1, _ | 3, _ | 4, _ | 5, _ | 6, _ | 7, _ | 8, _ | 9, _ | 10, _ => rfl
  | _ + 11, _ => rfl

theorem Stream.csrBut_seed (t : Stream) (x : Word) : Stream.CsrBut 7 t { t with seed := x, calls := 0#32 }
  | 7, h => absurd rfl h
  | 0, _ | 1, _ | 2, _ | 3, _ | 4, _ | 5, _ | 6, _ | 8, _ | 9, _ | 10, _ => rfl
  | _ + 11, _ => rfl

theorem Stream.csrBut_en (t : Stream) (x : Bool) : Stream.CsrBut 9 t { t with en := x }
  | 9, h => absurd rfl h
  | 0, _ | 1, _ | 2, _ | 3, _ | 4, _ | 5, _ | 6, _ | 7, _ | 8, _ | 10, _ => rfl
  | _ + 11, _ => rfl

section Written

variable {s : State} {th : ThreadId} {t : Stream} {n m : Nat}

theorem csr_updStream_of_ne (ht : s.stream? th = some t) {f : Stream → Stream} (hf : Stream.CsrBut n t (f t)) (h : m ≠ n) :
    (s.updStream th f).csr th m = s.csr th m := by
  rw [State.csr_updStream s ht, hf m h, ← State.csr_of_stream s ht]

/-- A write of a state register leaves the others. -/
theorem csr_csrWrite_of_ne (ht : s.stream? th = some t) (v : Word) (h : m ≠ n) :
    (s.csrWrite th n v).csr th m = s.csr th m := by
  unfold State.csrWrite
  split
  · exact csr_updStream_of_ne ht (Stream.csrBut_trapen t _) h
  · exact csr_updStream_of_ne ht (Stream.csrBut_flags t _) h
  · exact csr_updStream_of_ne ht (Stream.csrBut_seed t _) h
  · exact csr_updStream_of_ne ht (Stream.csrBut_en t _) h
  · rfl

/-- The bits that a field of 9 bits takes from a word, under a mask. -/
theorem setWidth_mask (v : Word) (x : BitVec 9) : (v.setWidth 9 &&& x).setWidth 64 = v &&& x.setWidth 64 := by
  apply BitVec.eq_of_getLsbD_eq
  intro i hi
  by_cases h : i < 9
  · simp [hi, h]
  · simp [BitVec.getLsbD_setWidth, hi, h, BitVec.getLsbD_of_ge x i (Nat.le_of_not_lt h)]

/-- TRAPEN has no bit 4 (R88). -/
theorem csr_csrWrite_trapen (ht : s.stream? th = some t) (v : Word) : (s.csrWrite th 1 v).csr th 1 = v &&& 0x1EF#64 :=
  (State.csr_updStream s ht _ 1).trans (setWidth_mask v 0x1EF#9)

theorem csr_csrWrite_flags (ht : s.stream? th = some t) (v : Word) : (s.csrWrite th 2 v).csr th 2 = v &&& 0x1FF#64 := by
  refine (State.csr_updStream s ht _ 2).trans ((?_ : (v.setWidth 9).setWidth 64 = _).trans (setWidth_mask v 0x1FF#9))
  congr 1
  apply BitVec.eq_of_getLsbD_eq
  intro i hi
  interval_cases i <;> simp

theorem csr_csrWrite_seed (ht : s.stream? th = some t) (v : Word) : (s.csrWrite th 7 v).csr th 7 = v :=
  State.csr_updStream s ht _ 7

/-- Only EN of register 9 takes a bit (R98). -/
theorem csr_csrWrite_en (ht : s.stream? th = some t) (v : Word) :
    (s.csrWrite th 9 v).csr th 9 = (v &&& 2#64) ||| (s.csr th 9 &&& 1#64) := by
  rw [State.csr_of_stream s ht 9]
  refine (State.csr_updStream s ht _ 9).trans ?_
  show word (flagNat (bit v 1) * 2 + flagNat t.lnr) = (v &&& 2#64) ||| (word (flagNat t.en * 2 + flagNat t.lnr) &&& 1#64)
  have hv : v &&& 2#64 = if bit v 1 then 2#64 else 0#64 := by
    apply BitVec.eq_of_getLsbD_eq
    intro i hi
    rw [BitVec.getLsbD_and]
    by_cases h : i = 1
    · subst h
      cases hb : bit v 1 <;> simp [bit] at hb <;> simp [hb]
    · have h2 : (2#64).getLsbD i = false := by
        rw [show (2#64 : BitVec 64) = BitVec.twoPow 64 1 from rfl, BitVec.getLsbD_twoPow]
        simp [Ne.symm h]
      rw [h2, Bool.and_false]
      split
      · exact h2.symm
      · exact BitVec.getLsbD_zero.symm
  rw [hv]
  cases bit v 1 <;> cases t.lnr <;> cases t.en <;> rfl

end Written

/-- No other register takes bits (R126). -/
theorem csrWrite_of_other (s : State) (th : ThreadId) {n : Nat} (v : Word) (h1 : n ≠ 1) (h2 : n ≠ 2) (h7 : n ≠ 7)
    (h9 : n ≠ 9) : s.csrWrite th n v = s := by
  unfold State.csrWrite
  split
  · exact absurd rfl h1
  · exact absurd rfl h2
  · exact absurd rfl h7
  · exact absurd rfl h9
  · rfl

theorem State.stream?_of_strand? {s : State} {th : ThreadId} (h : (s.strand? th).isSome = true) :
    ∃ t, s.stream? th = some t := by
  cases th with
  | dray d k => exact ⟨_, rfl⟩
  | coach q p =>
    obtain ⟨c, hq⟩ := Option.isSome_iff_exists.1 ((Option.isSome_map ..).symm.trans h)
    exact ⟨_, congrArg (Option.map _) hq⟩

/-- What a state register holds once a value has been written to it: its fields that are RW take bits (R126). -/
def State.csrTaken (s : State) (th : ThreadId) (n : Nat) (v : Word) : Word :=
  match n with
  | 1 => v &&& 0x1EF#64
  | 2 => v &&& 0x1FF#64
  | 7 => v
  | 9 => (v &&& 2#64) ||| (s.csr th 9 &&& 1#64)
  | _ => s.csr th n

/-- Reading a state register after one has been written. -/
theorem csr_csrWrite {s : State} {th : ThreadId} (hs : (s.strand? th).isSome = true) (n : Nat) (v : Word) (m : Nat) :
    (s.csrWrite th n v).csr th m = if m = n then s.csrTaken th m v else s.csr th m := by
  obtain ⟨t, ht⟩ := State.stream?_of_strand? hs
  by_cases hm : m = n
  · subst hm
    rw [if_pos rfl]
    unfold State.csrTaken
    split
    · exact csr_csrWrite_trapen ht v
    · exact csr_csrWrite_flags ht v
    · exact csr_csrWrite_seed ht v
    · exact csr_csrWrite_en ht v
    · rename_i h1 h2 h7 h9
      rw [csrWrite_of_other s th v h1 h2 h7 h9]
  · rw [if_neg hm]
    exact csr_csrWrite_of_ne ht v hm

/-! ## Descriptors (R130) -/

theorem Coach.desc_setDesc (c : Coach) (e f : Nat) (v : Desc) :
    (c.setDesc e v).desc f = if f = e then v else c.desc f :=
  SMap.get_put _ c.descs e v f

/-- Reading a descriptor of the running coach after one has been written. -/
theorem State.desc_setDesc {s : State} {c : Coach} (hc : s.myCoach? = some c) (e f : Nat) (v : Desc) :
    (s.setDesc e v).desc f = if f = e then v else s.desc f := by
  obtain ⟨p, hcur, hq⟩ := State.myCoach?_eq_some hc
  have hc' : (s.setDesc e v).myCoach? = some (c.setDesc e v) := by
    rw [State.myCoach?_of_cur (show (s.setDesc e v).cur = .coach c.quad p from hcur), State.setDesc, hcur]
    exact State.coach?_updCoach_self hq (fun _ => rfl)
  simp only [State.desc, hc', hc, Option.map_some, Option.getD_some]
  exact Coach.desc_setDesc c e f v

theorem State.takeToken_desc {s : State} {c : Coach} (hc : s.myCoach? = some c) (k : Tok) (e : Nat) :
    (s.takeToken k).desc e = s.desc e := by
  obtain ⟨st, ff, h⟩ := State.takeToken_myCoach? k hc
  rw [State.desc, h, State.desc, hc]
  rfl

theorem State.setDesc_strand? (s : State) (e : Nat) (v : Desc) (th : ThreadId) :
    (s.setDesc e v).strand? th = s.strand? th :=
  State.strand?_updCoach s _ th (fun _ => rfl) (fun _ _ => rfl)

section Words

variable {i : Instr} {k : Tok} {s : State} {e : BitVec 6} {sr : BitVec 4}

/-- A word that writes a descriptor and no register. -/
theorem does_setDesc {cls : WordClass} {n : Nat} {v : Desc} (h : s.Issues cls i k)
    (he : exec i s = (Res.done ((s.takeToken k).setDesc n v)).apply k 1 s.me.pc s.cur) :
    Does i s ((s.takeToken k).setDesc n v) := by
  refine does_of_done he rfl ?_ ?_
  · exact (congrArg Option.isSome (State.setDesc_strand? ..)).trans h.isSome
  · exact congrArg (fun o => Option.getD o Strand.start) (State.setDesc_strand? (s.takeToken k) n v (s.takeToken k).cur)

theorem dset_outcomes (h : s.Issues coachWord (.dset k e sr) k) :
    let poisoned := (s.pois sr || s.pois (sr + 1#4) || s.pois (sr + 2#4) || s.pois (sr + 3#4)) = true
    (poisoned → Traps (.dset k e sr) s k 0x0401 none none) ∧
      (¬poisoned → Does (.dset k e sr) s ((s.takeToken k).setDesc e.toNat
        { w0 := s.reg sr, w1 := s.reg (sr + 1#4), w2 := s.reg (sr + 2#4), w3 := s.reg (sr + 3#4) })) := by
  intro poisoned
  have hx := exec_of_issue h (show execDset k e sr = _ from rfl)
  simp only [State.takeToken_pois, State.takeToken_reg] at hx
  refine ⟨fun hp => ?_, fun hp => ?_⟩
  · rw [consume, if_pos hp] at hx
    exact traps_of_fault hx
  · rw [consume, if_neg hp] at hx
    exact does_setDesc h hx

/-! ### DGET -/

/-- The state in which four registers from one on hold the words of a descriptor. -/
def State.getDesc (s : State) (sr : BitVec 4) (v : Desc) : State :=
  (((s.setReg sr v.w0 false).setReg (sr + 1#4) v.w1 false).setReg (sr + 2#4) v.w2 false).setReg (sr + 3#4) v.w3 false

theorem State.getDesc_only (s : State) (sr : BitVec 4) (v : Desc) : OnlyThread s (s.getDesc sr v) :=
  (((State.setReg_only s _ _ _).trans (State.setReg_only _ _ _ _)).trans (State.setReg_only _ _ _ _)).trans
    (State.setReg_only _ _ _ _)

/-- A thread in whose registers a descriptor stands. -/
def Strand.getDesc (st : Strand) (sr : BitVec 4) (v : Desc) : Strand :=
  (((st.setReg sr v.w0 false).setReg (sr + 1#4) v.w1 false).setReg (sr + 2#4) v.w2 false).setReg (sr + 3#4) v.w3 false

theorem State.getDesc_me (s : State) (sr : BitVec 4) (v : Desc) (h : (s.strand? s.cur).isSome = true) :
    (s.getDesc sr v).me = s.me.getDesc sr v := by
  have h1 := (State.setReg_only s sr v.w0 false).isSome.trans h
  have h2 := (State.setReg_only (s.setReg sr v.w0 false) (sr + 1#4) v.w1 false).isSome.trans h1
  have h3 := (State.setReg_only ((s.setReg sr v.w0 false).setReg (sr + 1#4) v.w1 false) (sr + 2#4) v.w2 false).isSome.trans h2
  unfold State.getDesc Strand.getDesc State.setReg at *
  rw [State.me_updMe _ _ h3, State.me_updMe _ _ h2, State.me_updMe _ _ h1, State.me_updMe _ _ h]

/-- The register at a distance from another one. -/
theorem reg_eq_add_iff (r sr c : BitVec 4) : r = sr + c ↔ r - sr = c :=
  ⟨fun h => by rw [h, BitVec.add_comm, BitVec.add_sub_cancel], fun h => by rw [← h, BitVec.add_comm, BitVec.sub_add_cancel]⟩

theorem reg_eq_iff (r sr : BitVec 4) : r = sr ↔ r - sr = 0#4 := by
  have := reg_eq_add_iff r sr 0#4
  rwa [BitVec.add_zero] at this

/-- Word j of a descriptor, for the four registers from the first that receives it; the registers past them keep what they have. -/
def Desc.wordOr (v : Desc) (j : Nat) (w : Word) : Word :=
  match j with
  | 0 => v.w0
  | 1 => v.w1
  | 2 => v.w2
  | 3 => v.w3
  | _ => w

theorem Desc.wordOr_of_le (v : Desc) (w : Word) {j : Nat} (h : 4 ≤ j) : v.wordOr j w = w :=
  match j, h with
  | _ + 4, _ => rfl

theorem Desc.wordOr_eq (v : Desc) (j : BitVec 4) (w : Word) :
    (if j = 3#4 then v.w3 else if j = 2#4 then v.w2 else if j = 1#4 then v.w1 else if j = 0#4 then v.w0 else w) =
      v.wordOr j.toNat w := by
  split
  · subst j; rfl
  split
  · subst j; rfl
  split
  · subst j; rfl
  split
  · subst j; rfl
  · rw [Desc.wordOr_of_le]
    bv_omega

theorem Strand.getDesc_reg (st : Strand) (sr : BitVec 4) (v : Desc) (r : BitVec 4) :
    (st.getDesc sr v).reg r = if r = 0#4 then 0#64 else v.wordOr (r - sr).toNat (st.reg r) := by
  split
  · subst r; rfl
  · rename_i h0
    have hd : ∀ c : BitVec 4, (r = c ∧ c ≠ 0#4) ↔ r = c := fun c => ⟨And.left, fun h => ⟨h, h ▸ h0⟩⟩
    rw [← Desc.wordOr_eq]
    unfold Strand.getDesc
    simp only [Strand.reg_setReg, hd]
    simp only [reg_eq_add_iff, reg_eq_iff r sr]

theorem Strand.getDesc_pois (st : Strand) (sr : BitVec 4) (v : Desc) (r : BitVec 4) :
    (st.getDesc sr v).pois r = if (r - sr).toNat < 4 then false else st.pois r := by
  have hj : (r - sr).toNat < 4 ↔ (r - sr = 3#4 ∨ r - sr = 2#4 ∨ r - sr = 1#4 ∨ r - sr = 0#4) := by
    generalize r - sr = j
    revert j; decide
  simp only [hj]
  by_cases h0 : r = 0#4
  · subst h0
    exact (ite_self false).symm
  · have hd : ∀ c : BitVec 4, (r = c ∧ c ≠ 0#4) ↔ r = c := fun c => ⟨And.left, fun h => ⟨h, h ▸ h0⟩⟩
    unfold Strand.getDesc
    simp only [Strand.pois_setReg, hd]
    simp only [reg_eq_add_iff, reg_eq_iff r sr, ite_or]

theorem Strand.getDesc_eq (st : Strand) (sr : BitVec 4) (v : Desc) :
    st.getDesc sr v = { st with regs := (st.getDesc sr v).regs, poison := (st.getDesc sr v).poison } := by
  unfold Strand.getDesc
  rw [Strand.setReg_eq _ (sr + 3#4), Strand.setReg_eq _ (sr + 2#4), Strand.setReg_eq _ (sr + 1#4), Strand.setReg_eq st]

/-- A word that is done in a state whose running thread differs in its registers. -/
theorem moved_of_done {u : State} (he : exec i s = (Res.done u).apply k 1 s.me.pc s.cur)
    (hu : (u.strand? u.cur).isSome = true)
    (hme : u.me.clearWait = { s.me.clearWait with
      regs := u.me.regs, poison := u.me.poison, behind := u.me.behind, strict := u.me.strict }) :
    ∃ t, exec i s = .next t ∧ Moved s t 1 ∧ OnlyThread u t ∧ ∀ r, t.reg r = u.reg r ∧ t.pois r = u.pois r := by
  have hc : (u.complete k 1).me = Strand.advance 1 u.me := State.completeBy_me u k (Strand.advance 1) hu
  have hpc : u.me.pc = s.me.pc := (congrArg Strand.pc hme :)
  have hl : u.me.loops = s.me.loops := (congrArg Strand.loops hme :)
  have hadv : Strand.advance 1 u.me = { u.me.clearWait with
      pc := (loopNext s.me.loops s.me.pc 1).2, loops := (loopNext s.me.loops s.me.pc 1).1 } := by
    rw [← hpc, ← hl]; rfl
  refine ⟨_, he, ?_, State.completeBy_only u k _, fun r => ⟨?_, ?_⟩⟩
  · rw [Moved, Leaves, hc, hadv, hme]
  · exact (congrArg (fun st : Strand => st.reg r) hc :)
  · exact (congrArg (fun st : Strand => st.pois r) hc :)

/-- DGET completes with the descriptor in four registers. -/
theorem dget_outcome {c : Coach} (hc : s.myCoach? = some c) (h : s.Issues coachWord (.dget k e sr) k) :
    ∃ t, exec (.dget k e sr) s = .next t ∧ Moved s t 1 ∧ OnlyThread s t ∧
      ∀ r, t.reg r = (if r = 0#4 then 0#64 else (s.desc e.toNat).wordOr (r - sr).toNat (s.reg r)) ∧
        t.pois r = (if (r - sr).toNat < 4 then false else s.pois r) := by
  have hx := exec_of_issue h (show execDget k e sr = _ from rfl)
  simp only [State.takeToken_desc hc] at hx
  have ho := State.getDesc_only (s.takeToken k) sr (s.desc e.toNat)
  have hg := State.getDesc_me (s.takeToken k) sr (s.desc e.toNat) h.isSome
  have hs := State.takeToken_sameBut s k
  obtain ⟨t, h1, h2, h3, h4⟩ := moved_of_done (u := (s.takeToken k).getDesc sr (s.desc e.toNat)) hx
    (ho.isSome.trans h.isSome) (by
      rw [hg, Strand.getDesc_eq]
      exact congrArg (fun st : Strand => { st with
        regs := ((s.takeToken k).me.getDesc sr (s.desc e.toNat)).regs
        poison := ((s.takeToken k).me.getDesc sr (s.desc e.toNat)).poison }) hs.eq)
  refine ⟨t, h1, h2, ((State.takeToken_only s k).trans ho).trans h3,
    fun r => ⟨(h4 r).1.trans ?_, (h4 r).2.trans ?_⟩⟩
  · rw [State.reg, hg, Strand.getDesc_reg, ← State.takeToken_reg s k r]; rfl
  · rw [State.pois, hg, Strand.getDesc_pois, ← State.takeToken_pois s k r]; rfl

/-! ### DADD -/

theorem toNat_setBits_low (w : Word) {v : Nat} (hv : v < 2 ^ 56) :
    (setBits w 55 0 v).toNat % 2 ^ 56 = v ∧ (setBits w 55 0 v).toNat / 2 ^ 56 = w.toNat / 2 ^ 56 := by
  have hbit : ∀ i, i < 64 → (setBits w 55 0 v).toNat.testBit i = if i ≤ 55 then v.testBit i else w.toNat.testBit i := by
    intro i hi
    have := getLsbD_setBits w 55 0 v i hi
    simpa [BitVec.getLsbD] using this
  have hhigh : ∀ (x : Word) i, 64 ≤ i → x.toNat.testBit i = false := fun x i hi =>
    Nat.testBit_lt_two_pow (Nat.lt_of_lt_of_le x.isLt (Nat.pow_le_pow_right (by decide) hi))
  constructor <;> apply Nat.eq_of_testBit_eq <;> intro i
  · rw [Nat.testBit_mod_two_pow]
    by_cases h : i < 56
    · rw [hbit i (by omega), if_pos (by omega), decide_eq_true h, Bool.true_and]
    · rw [decide_eq_false h, Bool.false_and]
      exact (Nat.testBit_lt_two_pow (Nat.lt_of_lt_of_le hv (Nat.pow_le_pow_right (by decide) (Nat.le_of_not_lt h)))).symm
  · rw [Nat.testBit_div_two_pow, Nat.testBit_div_two_pow]
    by_cases h : i + 56 < 64
    · rw [hbit _ h, if_neg (by omega)]
    · rw [hhigh _ _ (by omega), hhigh _ _ (by omega)]

theorem dadd_outcome {c : Coach} (hc : s.myCoach? = some c) (h : s.Issues coachWord (.dadd k e sr) k) :
    ∃ w : Word, Does (.dadd k e sr) s ((s.takeToken k).setDesc e.toNat { s.desc e.toNat with w0 := w }) ∧
      w.toNat % 2 ^ 56 = ((s.desc e.toNat).w0.toNat + (s.reg sr).toNat) % 2 ^ 56 ∧
      w.toNat / 2 ^ 56 = (s.desc e.toNat).w0.toNat / 2 ^ 56 := by
  have hx := exec_of_issue h (show execDadd k e sr = _ from rfl)
  simp only [State.takeToken_reg, State.takeToken_desc hc] at hx
  refine ⟨_, does_setDesc h hx, ?_⟩
  obtain ⟨h1, h2⟩ := toNat_setBits_low (s.desc e.toNat).w0
    (Nat.mod_lt ((s.desc e.toNat).w0 + s.reg sr).toNat (Nat.two_pow_pos 56))
  refine ⟨h1.trans ?_, h2⟩
  rw [BitVec.toNat_add]
  exact Nat.mod_mod_of_dvd _ ⟨2 ^ 8, rfl⟩

end Words

/-- Settles O10: a state register by the stream that holds it, and a descriptor by the coach's table. -/
theorem stateAndDescriptors : Obligations.StateAndDescriptors := by
  refine ⟨fun s k d a n => ⟨?_, fun h => ?_, fun h => ?_, fun h => ?_, fun hs v m => ?_⟩,
    fun s k e sr c hc => ⟨dset_outcomes, dget_outcome hc, dadd_outcome hc, fun f w => State.desc_setDesc hc e.toNat f w⟩⟩
  · have hg := gives_readForm (i := .csrr k d n) (show execCsrr k d n s = _ from rfl) rfl
    rwa [State.takeToken_cur] at hg
  · exact csrForm_outcomes h (show execCsrw k d a n s = _ from rfl) rfl
  · exact csrForm_outcomes h (show execCsrs k d a n s = _ from rfl) rfl
  · exact csrForm_outcomes h (show execCsrc k d a n s = _ from rfl) rfl
  · rw [csr_csrWrite hs]
    rfl

end Sys2Proof.Machine
end

section
/-! SUPPORT. Bytes: numbers and their bytes, consecutive keys of a map, and bytes of PM, a Dray's own memory (R6, R266). -/

namespace Sys2Proof.Machine

/-! ## Numbers and their bytes (R6) -/

theorem natOfBytes_testBit (bs : List Byte) (j : Nat) :
    (natOfBytes bs).testBit j = (bs.getD (j / 8) 0#8).getLsbD (j % 8) := by
  induction bs generalizing j with
  | nil => simp [natOfBytes]
  | cons b bs ih =>
    rw [natOfBytes, Nat.add_comm, Nat.testBit_two_pow_mul_add (i := 8) _ b.isLt]
    split <;> rename_i h
    · rw [Nat.div_eq_of_lt h, Nat.mod_eq_of_lt h]; rfl
    · rw [ih]
      obtain ⟨m, rfl⟩ := Nat.exists_eq_add_of_le (Nat.le_of_not_lt h)
      rw [Nat.add_sub_cancel_left, Nat.add_mod_left, Nat.add_comm 8 m, Nat.add_div_right m (by decide : 0 < 8)]
      rfl

theorem natOfBytes_lt (bs : List Byte) : natOfBytes bs < 2 ^ (8 * bs.length) := by
  induction bs with
  | nil => exact Nat.one_pos
  | cons b bs ih =>
    rw [natOfBytes, List.length_cons, Nat.mul_add, Nat.pow_add]
    have := b.isLt
    omega

theorem bytesOfNat_length (n v : Nat) : (bytesOfNat n v).length = n := by
  induction n generalizing v with
  | zero => rfl
  | succ n ih => rw [bytesOfNat, List.length_cons, ih]

theorem bytesOfNat_getElem? {n i : Nat} (h : i < n) (v : Nat) :
    (bytesOfNat n v)[i]? = some (BitVec.ofNat 8 (v / 256 ^ i)) := by
  induction n generalizing v i with
  | zero => exact absurd h (Nat.not_lt_zero _)
  | succ n ih =>
    cases i with
    | zero => simp [bytesOfNat]
    | succ i =>
      rw [bytesOfNat, List.getElem?_cons_succ, ih (Nat.lt_of_succ_lt_succ h), Nat.div_div_eq_div_mul, Nat.pow_succ',]

theorem bytesOfNat_getD {n i : Nat} (h : i < n) (v : Nat) (b : Byte) :
    (bytesOfNat n v).getD i b = BitVec.ofNat 8 (v / 256 ^ i) := by
  rw [List.getD_eq_getElem?_getD, bytesOfNat_getElem? h]; rfl

/-- A bit of a byte of a number. -/
theorem getLsbD_byte (v i : Nat) {m : Nat} (hm : m < 8) :
    (BitVec.ofNat 8 (v / 256 ^ i)).getLsbD m = v.testBit (8 * i + m) := by
  rw [BitVec.getLsbD_ofNat, decide_eq_true hm, Bool.true_and, show 256 ^ i = 2 ^ (8 * i) by rw [Nat.pow_mul],
    Nat.testBit_div_two_pow, Nat.add_comm]

theorem byte_ext {a b : Byte} (h : ∀ m, m < 8 → a.getLsbD m = b.getLsbD m) : a = b := BitVec.eq_of_getLsbD_eq h

/-! ## Consecutive keys of a map -/

theorem SMap.get_putAll {α : Type} [DecidableEq α] (d : Nat → α) (m : SMap α) (k : Nat) (vs : List α) (j : Nat) :
    SMap.get d (SMap.putAll d m k vs) j = if k ≤ j then (vs[j - k]?).getD (SMap.get d m j) else SMap.get d m j := by
  induction vs generalizing m k with
  | nil => simp [SMap.putAll]
  | cons v vs ih =>
    rw [SMap.putAll, ih, SMap.get_put]
    rcases Nat.lt_trichotomy j k with h | h | h
    · rw [if_neg (by omega), if_neg (by omega), if_neg (by omega)]
    · subst h
      rw [if_neg (by omega), if_pos rfl, if_pos (Nat.le_refl j), Nat.sub_self]
      rfl
    · rw [if_pos (by omega), if_neg (by omega), if_pos (by omega), show j - k = (j - (k + 1)) + 1 by omega,
        List.getElem?_cons_succ]

theorem SMap.getAll_getD {α : Type} (d : Nat → α) (m : SMap α) (k n i : Nat) (h : i < n) (b : α) :
    (SMap.getAll d m k n).getD i b = SMap.get d m (k + i) := by
  induction n generalizing k i with
  | zero => exact absurd h (Nat.not_lt_zero _)
  | succ n ih =>
    cases i with
    | zero => rfl
    | succ i =>
      rw [SMap.getAll, List.getD_cons_succ, ih (k + 1) i (Nat.lt_of_succ_lt_succ h)]
      congr 1
      omega

theorem SMap.getAll_length {α : Type} (d : Nat → α) (m : SMap α) (k n : Nat) : (SMap.getAll d m k n).length = n := by
  induction n generalizing k with
  | zero => rfl
  | succ n ih => rw [SMap.getAll, List.length_cons, ih]

/-! ## Doublewords of PM -/

/-- A bit of a doubleword is one of the byte that it lies in. -/
theorem State.pmWord_getLsbD (s : State) (die a : Nat) {j : Nat} (hj : j < 64) :
    (s.pmWord die a).getLsbD j = (s.pmByte die (a + j / 8)).getLsbD (j % 8) := by
  have hlen : (s.pmBytes die a 8).length = 8 := SMap.getAll_length ..
  rw [State.pmWord, wordOf8, word, BitVec.getLsbD_ofNat, decide_eq_true hj, Bool.true_and, natOfBytes_testBit,
    State.pmBytes, SMap.getAll_getD _ _ _ _ _ (by omega)]
  rfl

theorem State.pmPut_pmByte (s : State) (die a : Nat) (bs : List Byte) (x y : Nat) :
    (s.pmPut die a bs).pmByte x y =
      if x = die ∧ a ≤ y then (bs[y - a]?).getD (s.pmByte x y) else s.pmByte x y := by
  rw [State.pmByte, State.pmPut, State.die_updDie]
  by_cases h : x = die
  · subst h
    simp only [if_true, true_and]
    exact SMap.get_putAll ..
  · simp only [h, if_false, false_and]
    rfl

theorem State.pmSetWord_pmByte (s : State) (die a : Nat) (w : Word) (x y : Nat) :
    (s.pmSetWord die a w).pmByte x y =
      if x = die ∧ a ≤ y ∧ y < a + 8 then BitVec.ofNat 8 (w.toNat / 256 ^ (y - a)) else s.pmByte x y := by
  rw [State.pmSetWord, State.pmPut_pmByte, bytesOf8]
  by_cases h : x = die ∧ a ≤ y
  · rw [if_pos h]
    by_cases h8 : y < a + 8
    · rw [if_pos ⟨h.1, h.2, h8⟩, bytesOfNat_getElem? (by omega)]; rfl
    · rw [if_neg (fun hc => h8 hc.2.2), List.getElem?_eq_none (by rw [bytesOfNat_length]; omega)]; rfl
  · rw [if_neg h, if_neg (fun hc => h ⟨hc.1, hc.2.1⟩)]

theorem State.clearPmPois_pmByte (s : State) (die d x y : Nat) : (s.clearPmPois die d).pmByte x y = s.pmByte x y := by
  rw [State.pmByte, State.clearPmPois, State.die_updDie]
  split <;> rename_i h
  · rw [h]; rfl
  · rfl

/-! ## Stores below the control structures (R266) -/

/-- The bytes of a doubleword that a write covers, of its first m: their mask and their value. -/
def dwordFill (a : Nat) (bs : List Byte) (d m : Nat) : Word × Word :=
  (List.range m).foldl (fun m i =>
    if a ≤ d + i ∧ d + i < a + bs.length then
      (setBits m.1 (8 * i + 7) (8 * i) 255, setBits m.2 (8 * i + 7) (8 * i) (bs.getD (d + i - a) 0#8).toNat)
    else m) (0#64, 0#64)

theorem dwordPart_eq_fill (a : Nat) (bs : List Byte) (d : Nat) : dwordPart a bs d = dwordFill a bs d 8 := rfl

theorem dwordFill_succ (a : Nat) (bs : List Byte) (d m : Nat) : dwordFill a bs d (m + 1) =
    if a ≤ d + m ∧ d + m < a + bs.length then
      (setBits (dwordFill a bs d m).1 (8 * m + 7) (8 * m) 255,
        setBits (dwordFill a bs d m).2 (8 * m + 7) (8 * m) (bs.getD (d + m - a) 0#8).toNat)
    else dwordFill a bs d m := by
  rw [dwordFill, List.range_succ, List.foldl_append, List.foldl_cons, List.foldl_nil]
  rfl

theorem dwordFill_bits (a : Nat) (bs : List Byte) (d : Nat) {j : Nat} (hj : j < 64) (m : Nat) :
    (dwordFill a bs d m).1.getLsbD j = decide (j / 8 < m ∧ a ≤ d + j / 8 ∧ d + j / 8 < a + bs.length) ∧
      (dwordFill a bs d m).2.getLsbD j = (decide (j / 8 < m ∧ a ≤ d + j / 8 ∧ d + j / 8 < a + bs.length) &&
        (bs.getD (d + j / 8 - a) 0#8).getLsbD (j % 8)) := by
  induction m with
  | zero => simp [dwordFill]
  | succ m ih =>
    obtain ⟨h1, h2⟩ := ih
    rw [dwordFill_succ]
    by_cases hjm : j / 8 = m
    · subst hjm
      have h255 : (255 : Nat).testBit (j - 8 * (j / 8)) = true := by
        have : j - 8 * (j / 8) < 8 := by omega
        generalize j - 8 * (j / 8) = i at this
        interval_cases i <;> rfl
      have hsub : j - 8 * (j / 8) = j % 8 := by omega
      split <;> rename_i hin
      · simp only [getLsbD_setBits _ _ _ _ _ hj]
        rw [if_pos (by omega), if_pos (by omega), decide_eq_true ⟨Nat.lt_succ_self _, hin⟩]
        exact ⟨h255, by rw [hsub]; rfl⟩
      · simp only [h1, h2, hin, and_false, and_self]
    · have hm : j / 8 < m ↔ j / 8 < m + 1 := by omega
      simp only [hm] at h1 h2
      split
      · simp only [getLsbD_setBits _ _ _ _ _ hj]
        rw [if_neg (by omega), if_neg (by omega)]
        exact ⟨h1, h2⟩
      · exact ⟨h1, h2⟩

theorem dwordPart_bits (a : Nat) (bs : List Byte) (d : Nat) {j : Nat} (hj : j < 64) :
    (dwordPart a bs d).1.getLsbD j = decide (a ≤ d + j / 8 ∧ d + j / 8 < a + bs.length) ∧
      (dwordPart a bs d).2.getLsbD j =
        (decide (a ≤ d + j / 8 ∧ d + j / 8 < a + bs.length) && (bs.getD (d + j / 8 - a) 0#8).getLsbD (j % 8)) := by
  have h := dwordFill_bits a bs d hj 8
  simp only [show j / 8 < 8 by omega, true_and] at h
  exact h

/-- PM changes, and nothing else but its poison. -/
def PmOnly (s t : State) : Prop := t = { s with dies := t.dies } ∧ ∀ e, (t.die e).strands = (s.die e).strands

theorem PmOnly.refl (s : State) : PmOnly s s := ⟨rfl, fun _ => rfl⟩

theorem PmOnly.trans {s t u : State} (h : PmOnly s t) (g : PmOnly t u) : PmOnly s u :=
  ⟨g.1.trans (by rw [h.1]), fun e => (g.2 e).trans (h.2 e)⟩

theorem State.updDie_pmOnly (s : State) (d : Nat) (f : Die → Die) (hf : ∀ x, (f x).strands = x.strands) :
    PmOnly s (s.updDie d f) := by
  refine ⟨rfl, fun e => ?_⟩
  rw [State.die_updDie]
  split <;> rename_i h
  · rw [hf, h]
  · rfl

theorem State.pmSetWord_pmOnly (s : State) (die a : Nat) (w : Word) : PmOnly s (s.pmSetWord die a w) :=
  State.updDie_pmOnly s die (fun x => { x with pm := SMap.putAll pmReset x.pm a (bytesOf8 w) }) (fun _ => rfl)

/-- A write of one doubleword below the control structures. -/
theorem pmStoreWord_below (s : State) (die level served a : Nat) (bs : List Byte) {d : Nat} (hd : d < 0x39000) :
    ∃ t, s.pmStoreWord die level served a bs d = .ok t ∧ PmOnly s t ∧ ∀ x y, t.pmByte x y =
      if x = die ∧ (d ≤ y ∧ y < d + 8) ∧ a ≤ y ∧ y < a + bs.length then bs.getD (y - a) 0#8 else s.pmByte x y := by
  generalize hu : (if (dwordPart a bs d).1 = -1#64 then s.clearPmPois die d else s) = u
  have hu1 : PmOnly s u := by
    rw [← hu]
    split
    · exact State.updDie_pmOnly _ _ _ (fun _ => rfl)
    · exact .refl s
  have hub : ∀ x y, u.pmByte x y = s.pmByte x y := by
    intro x y
    rw [← hu]
    split
    · exact State.clearPmPois_pmByte ..
    · rfl
  refine ⟨u.pmSetWord die d ((u.pmWord die d &&& ~~~ (dwordPart a bs d).1) ||| (dwordPart a bs d).2), ?_,
    hu1.trans (State.pmSetWord_pmOnly ..), fun x y => ?_⟩
  · simp only [State.pmStoreWord, hu, if_pos hd]
  · rw [State.pmSetWord_pmByte, hub]
    by_cases h : x = die ∧ d ≤ y ∧ y < d + 8
    · obtain ⟨rfl, hlo, hhi⟩ := h
      have hbyte : ∀ m, m < 8 → (BitVec.ofNat 8 (((u.pmWord x d &&& ~~~ (dwordPart a bs d).1) |||
          (dwordPart a bs d).2).toNat / 256 ^ (y - d))).getLsbD m =
          if a ≤ y ∧ y < a + bs.length then (bs.getD (y - a) 0#8).getLsbD m else (s.pmByte x y).getLsbD m := by
        intro m hm
        have hj : 8 * (y - d) + m < 64 := by omega
        have hq : (8 * (y - d) + m) / 8 = y - d := by omega
        have hr : (8 * (y - d) + m) % 8 = m := by omega
        have hy : d + (y - d) = y := by omega
        obtain ⟨h1, h2⟩ := dwordPart_bits a bs d hj
        rw [getLsbD_byte _ _ hm]
        show BitVec.getLsbD _ (8 * (y - d) + m) = _
        rw [BitVec.getLsbD_or, BitVec.getLsbD_and, BitVec.getLsbD_not, h1, h2, State.pmWord_getLsbD _ _ _ hj, hq, hr, hy, hub]
        by_cases hin : a ≤ y ∧ y < a + bs.length
        · simp [hin, hj]
        · simp [hin, hj]
      rw [if_pos ⟨rfl, hlo, hhi⟩]
      by_cases hin : a ≤ y ∧ y < a + bs.length
      · rw [if_pos ⟨rfl, ⟨hlo, hhi⟩, hin⟩]
        exact byte_ext (fun m hm => (hbyte m hm).trans (if_pos hin))
      · rw [if_neg (fun hc => hin hc.2.2)]
        exact byte_ext (fun m hm => (hbyte m hm).trans (if_neg hin))
    · rw [if_neg h, if_neg (fun hc => h ⟨hc.1, hc.2.1⟩)]

/-- A write of bytes in the doublewords of a list, one after the other. -/
def State.pmStoreOver (s : State) (die level served a : Nat) (bs : List Byte) (ds : List Nat) : PmStored :=
  ds.foldl (fun r d =>
    match r with
    | .ok s => s.pmStoreWord die level served a bs d
    | .fault c fa fp => .fault c fa fp) (.ok s)

theorem State.pmStoreAt_eq_over (s : State) (die level served a : Nat) (bs : List Byte) :
    s.pmStoreAt die level served a bs = s.pmStoreOver die level served a bs (dwordsOf a bs.length) := rfl

theorem pmStoreOver_below (die level served a : Nat) (bs : List Byte) (ds : List Nat) (hds : ∀ d ∈ ds, d < 0x39000)
    (s : State) :
    ∃ t, s.pmStoreOver die level served a bs ds = .ok t ∧ PmOnly s t ∧ ∀ x y, t.pmByte x y =
      if x = die ∧ (∃ d ∈ ds, d ≤ y ∧ y < d + 8) ∧ a ≤ y ∧ y < a + bs.length then bs.getD (y - a) 0#8
      else s.pmByte x y := by
  induction ds generalizing s with
  | nil => exact ⟨s, rfl, .refl s, fun x y => by simp⟩
  | cons d ds ih =>
    obtain ⟨u, hu, huo, hub⟩ := pmStoreWord_below s die level served a bs (hds d (List.mem_cons_self ..))
    obtain ⟨t, ht, hto, htb⟩ := ih (fun e he => hds e (List.mem_cons_of_mem _ he)) u
    refine ⟨t, by rw [State.pmStoreOver, List.foldl_cons]; simp only [hu]; exact ht, huo.trans hto, fun x y => ?_⟩
    rw [htb, hub]
    by_cases hx : x = die ∧ a ≤ y ∧ y < a + bs.length
    · by_cases h1 : ∃ e ∈ ds, e ≤ y ∧ y < e + 8
      · obtain ⟨e, he, hy⟩ := h1
        rw [if_pos ⟨hx.1, ⟨e, he, hy⟩, hx.2⟩, if_pos ⟨hx.1, ⟨e, List.mem_cons_of_mem _ he, hy⟩, hx.2⟩]
      · rw [if_neg (fun hc => h1 hc.2.1)]
        by_cases h2 : d ≤ y ∧ y < d + 8
        · rw [if_pos ⟨hx.1, h2, hx.2⟩, if_pos ⟨hx.1, ⟨d, List.mem_cons_self .., h2⟩, hx.2⟩]
        · rw [if_neg (fun hc => h2 hc.2.1), if_neg]
          rintro ⟨-, ⟨e, he, hy⟩, -⟩
          rcases List.mem_cons.1 he with rfl | he
          · exact h2 hy
          · exact h1 ⟨e, he, hy⟩
    · rw [if_neg (fun hc => hx ⟨hc.1, hc.2.2⟩), if_neg (fun hc => hx ⟨hc.1, hc.2.2⟩),
        if_neg (fun hc => hx ⟨hc.1, hc.2.2⟩)]

/-- A write of PM below the control structures changes its own bytes and no other (R266). -/
theorem pmStoreAt_below (s : State) (die level served a : Nat) {bs : List Byte} (h : a + bs.length ≤ 0x39000) :
    ∃ t, s.pmStoreAt die level served a bs = .ok t ∧ PmOnly s t ∧ ∀ x y, t.pmByte x y =
      if x = die ∧ a ≤ y ∧ y < a + bs.length then bs.getD (y - a) 0#8 else s.pmByte x y := by
  have hmem : ∀ d, d ∈ dwordsOf a bs.length → d < 0x39000 := by
    intro d hd
    unfold dwordsOf at hd
    split at hd
    · exact nomatch hd
    · obtain ⟨i, hi, rfl⟩ := List.mem_map.1 hd
      have := List.mem_range.1 hi
      omega
  obtain ⟨t, ht, hto, htb⟩ := pmStoreOver_below die level served a bs _ hmem s
  refine ⟨t, (State.pmStoreAt_eq_over ..).trans ht, hto, fun x y => ?_⟩
  rw [htb]
  by_cases hx : x = die ∧ a ≤ y ∧ y < a + bs.length
  · refine (if_pos ⟨hx.1, ⟨8 * (y / 8), ?_, by omega⟩, hx.2⟩).trans (if_pos hx).symm
    unfold dwordsOf
    rw [if_neg (by omega)]
    exact List.mem_map.2 ⟨y / 8 - a / 8, List.mem_range.2 (by omega), by omega⟩
  · rw [if_neg hx, if_neg (fun hc => hx ⟨hc.1, hc.2.2⟩)]

end Sys2Proof.Machine
end

section
/-! SUPPORT. PrivateMemory: loads and stores of a Dray strand to PM, its own memory (R110, R113, R266, R267). -/

namespace Sys2Proof.Machine

/-! ## An access within one line -/

theorem linePieces_one {a n : Nat} (hn : 0 < n) (h : a % 64 + n ≤ 64) : linePieces a n = [(a, n)] := by
  have h0 : (a + n - 1) / 64 - a / 64 + 1 = 1 := by omega
  have hlo : Nat.max a (64 * (a / 64 + 0)) = a := Nat.max_eq_left (by omega)
  have hhi : Nat.min (a + n) (64 * (a / 64 + 0) + 64) = a + n := Nat.min_eq_left (by omega)
  rw [linePieces, if_neg (by omega), h0]
  show [(Nat.max a (64 * (a / 64 + 0)), Nat.min (a + n) (64 * (a / 64 + 0) + 64) - Nat.max a (64 * (a / 64 + 0)))] = _
  rw [hlo, hhi, Nat.add_sub_cancel_left]

theorem word_toNat (v : Word) : word v.toNat = v := by
  rw [word, BitVec.ofNat_toNat, BitVec.setWidth_eq]

theorem size_pos (sz : BitVec 2) : 0 < 2 ^ sz.toNat := Nat.two_pow_pos _

theorem size_le (sz : BitVec 2) : 8 * 2 ^ sz.toNat ≤ 64 := by
  revert sz; decide

/-- The bytes of a load, sign-extended (R113). -/
theorem sextWord_bytes {n : Nat} (hn : 8 * n ≤ 64) (v : Nat) :
    sextWord (word v) (8 * n) = (BitVec.ofNat (8 * n) v).signExtend 64 := by
  rw [sextWord, word]
  congr 1
  apply BitVec.eq_of_toNat_eq
  rw [BitVec.toNat_ofNat, BitVec.toNat_ofNat, BitVec.toNat_ofNat]
  exact Nat.mod_mod_of_dvd v (pow_dvd_pow 2 hn)

/-- The bytes of a load, zero-extended (R113). -/
theorem zextWord_bytes {n : Nat} (bs : List Byte) (hb : bs.length = n) :
    zextWord (word (natOfBytes bs)) (8 * n) = BitVec.ofNat 64 (natOfBytes bs) := by
  have hlt := natOfBytes_lt bs
  rw [hb] at hlt
  apply BitVec.eq_of_toNat_eq
  rw [zextWord, word, BitVec.toNat_setWidth, BitVec.toNat_ofNat, BitVec.toNat_ofNat,
    Nat.mod_eq_of_lt (a := natOfBytes bs % 2 ^ 64) (Nat.lt_of_le_of_lt (Nat.mod_le ..) hlt), Nat.mod_mod]

/-! ## The place of an access (R267) -/

section Dray

variable {s : State} {d th : Nat} {va : Word} {n : Nat}

theorem resolveAs_pm (w : Who) (ha : va.toNat < 0x40000) {kind : AccessKind} (hp : s.pmAllowed d th va.toNat n kind = true) :
    s.resolveAs w (.dray d th) va n kind = .ok (.pm d va.toNat) := by
  simp only [State.resolveAs, if_pos ha, if_pos hp]

theorem watchFault_dray (hcur : s.cur = .dray d th) (kind : AccessKind) (lane : Nat) :
    s.watchFault va n kind lane = none := by
  have hm : s.myCoach? = none := by rw [State.myCoach?, hcur]
  unfold State.watchFault
  split
  · rfl
  · rw [hm]; rfl

/-- The checks of an access to PM that the strand may make. -/
theorem clearTo_pm (hcur : s.cur = .dray d th) (hn : 0 < n) (hl : va.toNat % 64 + n ≤ 64) (ha : va.toNat < 0x40000)
    {kind : AccessKind} (hp : s.pmAllowed d th va.toNat n kind = true) (go : Res) : s.clearTo va n kind go = go := by
  have hprobe : s.probe kind (linePieces va.toNat n) = none := by
    rw [linePieces_one hn hl]
    simp only [State.probe, State.resolve, hcur, word_toNat, resolveAs_pm _ ha hp]
  simp only [State.clearTo, hprobe, watchFault_dray hcur]

theorem vaFault_dray (hcur : s.cur = .dray d th) (r : Res) : vaFault s va r = r := by
  rw [vaFault, if_neg]
  rw [hcur]
  exact fun h => nomatch h.1

/-! ## Loads -/

/-- The bytes of PM that a load reads. -/
def State.pmViews (s : State) (d a n : Nat) : List Byte := (List.range n).map (fun j => s.pmView d (a + j))

theorem State.pmViews_length (s : State) (d a n : Nat) : (s.pmViews d a n).length = n := by
  rw [State.pmViews, List.length_map, List.length_range]

theorem addReply_only (s : State) (bs : List Byte) (p : Bool) : OnlyThread s (s.addReply bs p) := State.updMe_only s _

/-- A load of PM has its bytes at once. -/
theorem loadBytes_pm (hcur : s.cur = .dray d th) (hrep : s.me.reply = []) (hrp : s.me.replyPoison = false) (hn : 0 < n)
    (hl : va.toNat % 64 + n ≤ 64) (ha : va.toNat < 0x40000) (hp : s.pmAllowed d th va.toNat n .read = true)
    (hs : (s.strand? s.cur).isSome = true) (cls scope : Nat) (fin : State → List Byte → Bool → Res) :
    loadBytes s va n cls scope fin =
      fin (s.addReply (s.pmViews d va.toNat n) (s.pmPois d va.toNat n)) (s.pmViews d va.toNat n)
        (s.pmPois d va.toNat n) := by
  have hme : (s.addReply (s.pmViews d va.toNat n) (s.pmPois d va.toNat n)).me =
      { s.me with reply := s.pmViews d va.toNat n, replyPoison := s.pmPois d va.toNat n } := by
    rw [State.addReply, State.me_updMe s _ hs, hrep, hrp, List.nil_append, Bool.false_or]
  have hload : ∀ strict, s.loadPieces strict cls [(va.toNat, n)] =
      .ok (s.addReply (s.pmViews d va.toNat n) (s.pmPois d va.toNat n)) := by
    intro strict
    simp only [State.loadPieces, State.resolve, hcur, word_toNat, resolveAs_pm _ ha hp]
    rfl
  simp only [loadBytes, linePieces_one hn hl, hrep, List.length_nil, Nat.add_zero, List.filter_cons, Nat.le_refl,
    decide_true, if_true, List.filter_nil, hload, hme, List.isEmpty_nil, clearTo_pm hcur hn hl ha hp]

/-- An acquire of PM meets no posted write, and leaves no L1. -/
theorem acquired_pm (hcur : s.cur = .dray d th) (hn : 0 < n) (hl : va.toNat % 64 + n ≤ 64) (ha : va.toNat < 0x40000)
    (hp : s.pmAllowed d th va.toNat n .read = true) (t : State) (scope : Nat) : t.acquired s va n scope = t := by
  simp only [State.acquired, linePieces_one hn hl, List.foldl_cons, List.foldl_nil, State.placeRead, hcur, word_toNat,
    resolveAs_pm _ ha hp]

theorem acquireL1_dray {t : State} (hcur : t.cur = .dray d th) (hs : (t.strand? t.cur).isSome = true) (scope : Nat) :
    OnlyThread t (t.acquireL1 scope) ∧ (t.acquireL1 scope).me.SameBut t.me := by
  have hm : t.myCoach? = none := by rw [State.myCoach?, hcur]
  unfold State.acquireL1
  simp only [hm]
  split
  · refine ⟨State.updMe_only _ _, ?_⟩
    rw [State.me_updMe _ _ hs]
    exact .of_order rfl
  · exact ⟨.refl t, .refl _⟩

section Load

variable {i : Instr} {k : Tok} {tr b : BitVec 4} {off : Word} {sz : BitVec 2} {cls scope : Nat}
  {ext : Word → Nat → Word} {after : State → State → Word → Nat → State}

/-- A load word to PM: what follows the reading changes only what the thread's later accesses come after. -/
theorem gives_loadForm_pm (he : exec i s = loadForm i k tr b off sz cls ext scope after s)
    (hn : n = 2 ^ sz.toNat) (hva : va = s.reg b + off * BitVec.ofNat 64 n) (hcur : s.cur = .dray d th)
    (hrep : s.me.reply = []) (hrp : s.me.replyPoison = false) (hb : s.pois b = false) (ha : va.toNat < 0x40000)
    (hl : va.toNat % 64 + n ≤ 64) (hp : s.pmAllowed d th va.toNat n .read = true)
    (hafter : ∀ t : State, t.cur = s.cur → (t.strand? t.cur).isSome = true →
      OnlyThread t (after t s va n) ∧ (after t s va n).me.SameBut t.me) {v : Word}
    (hv : ext (word (natOfBytes (s.pmViews d va.toNat n))) (8 * n) = v) :
    Gives commonWord i k s tr v (s.pmPois d va.toNat n) := by
  intro h
  have hs : (s.strand? s.cur).isSome = true := h.1
  have hx := he.trans (issue_of_issues _ h)
  rw [State.takeToken_of_dray hcur, hb] at hx
  simp only [consume, ← hn, memAddr, word] at hx
  subst hva
  have hpos : 0 < n := hn ▸ size_pos sz
  generalize hu : s.addReply (s.pmViews d (s.reg b + off * BitVec.ofNat 64 n).toNat n)
    (s.pmPois d (s.reg b + off * BitVec.ofNat 64 n).toNat n) = u at hx
  have hou : OnlyThread s u := hu ▸ addReply_only s _ _
  have hsu : (u.strand? u.cur).isSome = true := hou.isSome.trans hs
  have hmu : u.me.SameBut s.me := by
    rw [← hu, State.addReply, State.me_updMe s _ hs]; rfl
  obtain ⟨ho, hm⟩ := hafter u hou.cur hsu
  rw [if_neg Bool.noConfusion, vaFault_dray hcur, loadBytes_pm hcur hrep hrp hpos hl ha hp hs, hu] at hx
  have hv' : ext (BitVec.ofNat 64 (natOfBytes (s.pmViews d (s.reg b + off * BitVec.ofNat 64 n).toNat n))) (8 * n) = v := hv
  rw [hv'] at hx
  exact (acts_of_writeS hx rfl (ho.isSome.trans hsu) (hm.trans hmu)).of_only (hou.trans ho)

end Load

/-! ## Stores -/

theorem PmOnly.strand? {s t : State} (h : PmOnly s t) (hcur : s.cur = .dray d th) : t.strand? t.cur = s.strand? s.cur := by
  have hc : t.cur = s.cur := by rw [h.1]
  rw [hc, hcur]
  show some (t.drayStrand d th).th = some (s.drayStrand d th).th
  rw [State.drayStrand, h.2 d]
  rfl

/-- A Dray strand's word completes: no coach changes, and no token. -/
theorem completeBy_coaches {t : State} (hcur : t.cur = .dray d th) (k : Tok) (f : Strand → Strand) :
    (t.completeBy k f).coaches = t.coaches := by
  have h1 : (t.updMe f).cur = .dray d th := (State.updMe_cur t f).trans hcur
  have h2 : (t.updMe f).pushToken k = t.updMe f := by rw [State.pushToken, h1]
  have h3 : (t.updMe f).settled = t.updMe f := by rw [State.settled, h1]
  rw [State.completeBy, h2, h3, State.updMe, hcur]
  rfl

section Store

variable {i : Instr} {k : Tok} {tr b : BitVec 4} {off : Word} {sz : BitVec 2} {cls : Nat} {rel : Option Nat}

/-- A store's bytes reach PM at once. -/
theorem storeBytes_pm (hcur : s.cur = .dray d th) {bs : List Byte} (hb : bs.length = n) (hn : 0 < n)
    (hl : va.toNat % 64 + n ≤ 64) (ha : va.toNat + n ≤ 0x39000) (hp : s.pmAllowed d th va.toNat n .write = true) :
    ∃ t, storeBytes pmStore s k va bs cls rel = .done t ∧ PmOnly s t ∧ ∀ x y, t.pmByte x y =
      if x = d ∧ va.toNat ≤ y ∧ y < va.toNat + n then bs.getD (y - va.toNat) 0#8 else s.pmByte x y := by
  obtain ⟨t, ht, hto, htb⟩ := pmStoreAt_below s d (s.levelOf s.cur) (s.servedOf s.cur) va.toNat (bs := bs) (by omega)
  have hmine : (bs.drop (va.toNat - va.toNat)).take n = bs := by
    rw [Nat.sub_self, List.drop_zero, ← hb, List.take_length]
  have hpm : pmStore s (.dray d th) d va.toNat bs = .ok t := by rw [← hcur]; exact ht
  have hpieces : s.storePieces pmStore cls rel va.toNat bs [(va.toNat, n)] = .ok t := by
    simp only [State.storePieces, State.resolve, hcur, word_toNat, resolveAs_pm _ (by omega : va.toNat < 0x40000) hp, hmine,
      hpm]
  have hedge : ∀ first, t.pushEdge k first = t := fun first => by
    have : t.cur = .dray d th := by rw [hto.1]; exact hcur
    rw [State.pushEdge, this]
  refine ⟨t, ?_, hto, by rw [← hb]; exact htb⟩
  simp only [storeBytes, hb, clearTo_pm hcur hn hl (by omega) hp, linePieces_one hn hl, hpieces, hedge]

/-- A store word to PM. -/
theorem stores_storeForm_pm (he : exec i s = storeForm i k tr b off sz cls rel s) (hn : n = 2 ^ sz.toNat)
    (hva : va = s.reg b + off * BitVec.ofNat 64 n) (hcur : s.cur = .dray d th) (hb : s.pois b = false)
    (h : s.Issues commonWord i k) (ha : va.toNat + n ≤ 0x39000) (hl : va.toNat % 64 + n ≤ 64)
    (hp : s.pmAllowed d th va.toNat n .write = true) (ht : s.pois tr = false) :
    ∃ t, exec i s = .next t ∧ SameRegs s t ∧ Moved s t 1 ∧ t.mem = s.mem ∧ t.coaches = s.coaches ∧
      ∀ x y, t.pmByte x y =
        if x = d ∧ va.toNat ≤ y ∧ y < va.toNat + n then BitVec.ofNat 8 ((s.reg tr).toNat / 256 ^ (y - va.toNat))
        else s.pmByte x y := by
  have hx := he.trans (issue_of_issues _ h)
  rw [State.takeToken_of_dray hcur, hb, ht] at hx
  simp only [consume, ← hn, memAddr, word, Bool.or_false] at hx
  subst hva
  obtain ⟨t, hst, hto, htb⟩ := storeBytes_pm (k := k) (cls := cls) (rel := rel) hcur
    (bytesOfNat_length n (s.reg tr).toNat) (hn ▸ size_pos sz) hl ha hp
  rw [if_neg Bool.noConfusion, vaFault_dray hcur, hst] at hx
  have hcur' : t.cur = .dray d th := by rw [hto.1]; exact hcur
  have hstr := hto.strand? hcur
  have hsome : (t.strand? t.cur).isSome = true := by rw [hstr]; exact h.1
  have hme : t.me = (s.takeToken k).me := by
    rw [State.takeToken_of_dray hcur, State.me, hstr]; rfl
  obtain ⟨w, h1, h2, h3, h4⟩ := does_of_done hx rfl hsome hme
  have hw : w = t.completeBy k (Strand.advance 1) := by
    have := h1.symm.trans hx
    exact (Host.Outcome.next.inj this)
  refine ⟨w, h1, h2, h3, h4.mem.trans (by rw [hto.1]), ?_, fun x y => ?_⟩
  · rw [hw, completeBy_coaches hcur', hto.1]
  · rw [h4.pmByte, htb]
    by_cases hxy : x = d ∧ (s.reg b + off * BitVec.ofNat 64 n).toNat ≤ y ∧ y < (s.reg b + off * BitVec.ofNat 64 n).toNat + n
    · rw [if_pos hxy, if_pos hxy, bytesOfNat_getD (by omega)]
    · rw [if_neg hxy, if_neg hxy]

end Store

end Dray

/-- Settles O13: loads read PM's bytes at once, and stores write theirs. -/
theorem privateMemoryAccess : Obligations.PrivateMemoryAccess := by
  intro s k tr b c o p e sz d n th hn hcur hrep hrp hb near far bytes reads stores
  have hsz : 8 * n ≤ 64 := hn ▸ size_le sz
  have plain : ∀ t : State, OnlyThread t t ∧ t.me.SameBut t.me := fun t => ⟨.refl t, .refl _⟩
  refine ⟨fun ⟨ha, hl, hp⟩ => ⟨?_, ?_⟩, fun ⟨ha, hl, hp⟩ => ?_, ?_, ?_⟩
  · exact gives_loadForm_pm (i := .ld k tr b c o sz) (s := s) (show execLd k tr b c o sz s = _ from rfl)
      hn rfl hcur hrep hrp hb ha hl hp (fun t _ _ => plain t) (sextWord_bytes hsz _)
  · exact gives_loadForm_pm (i := .ldu k tr b c o sz) (s := s) (show execLdu k tr b c o sz s = _ from rfl)
      hn rfl hcur hrep hrp hb ha hl hp (fun t _ _ => plain t) (zextWord_bytes _ (State.pmViews_length ..))
  · refine gives_loadForm_pm (i := .lda k tr b c e p sz) (s := s) (show execLda k tr b c e p sz s = _ from rfl)
      hn rfl hcur hrep hrp hb ha hl hp (fun t ht hs => ?_) (sextWord_bytes hsz _)
    have hacq := acquired_pm hcur (hn ▸ size_pos sz) hl ha hp t e.toNat
    rw [hacq]
    exact acquireL1_dray (ht.trans hcur) hs _
  · exact stores_storeForm_pm (i := .st k tr b c o sz) (s := s) (show execSt k tr b c o sz s = _ from rfl) hn rfl hcur hb
  · exact stores_storeForm_pm (i := .stl k tr b c e p sz) (s := s) (show execStl k tr b c e p sz s = _ from rfl) hn rfl hcur hb

end Sys2Proof.Machine
end

section
/-! SUPPORT. BufferWords: the bytes of a coach's buffers, and the scalar accesses to them (R114, R135, R148). -/

namespace Sys2Proof.Machine

/-! ## The place of a byte (R135) -/

theorem shapeQuads_nodup (shape : BitVec 2) (lead : Nat) : (shapeQuads shape lead).Nodup := by
  unfold shapeQuads
  split <;> simp

theorem Buf.size_pos (b : Buf) : 0 < b.size := by cases b <;> decide

theorem Coach.bufSize_eq {c : Coach} {b : Buf} (hb : b ≠ .tile) : c.bufSize b = c.quads.length * b.size := by
  cases b with
  | tile => exact absurd rfl hb
  | abuf | wbuf | acc | glatch => rfl

/-- A byte of a buffer lies in a quadrant of its coach. -/
theorem Coach.locate_of_lt {c : Coach} {b : Buf} {i : Nat} (hb : b ≠ .tile) (hi : i < c.bufSize b) :
    ∃ h : i / b.size < c.quads.length, c.locate b i = (c.quads[i / b.size], i % b.size) := by
  have hlt : i < c.quads.length * b.size := by rwa [Coach.bufSize_eq hb] at hi
  have h : i / b.size < c.quads.length := Nat.div_lt_of_lt_mul (Nat.mul_comm .. ▸ hlt)
  exact ⟨h, by rw [Coach.locate, List.getD_eq_getElem _ _ h]⟩

/-- Two bytes of a buffer never share their place. -/
theorem Coach.locate_inj {c : Coach} {b : Buf} {i j : Nat} (hb : b ≠ .tile) (hi : i < c.bufSize b) (hj : j < c.bufSize b)
    (h : c.locate b i = c.locate b j) : i = j := by
  obtain ⟨li, ei⟩ := Coach.locate_of_lt hb hi
  obtain ⟨lj, ej⟩ := Coach.locate_of_lt hb hj
  obtain ⟨hq, hr⟩ := Prod.mk.inj (ei.symm.trans (h.trans ej))
  have hq := (shapeQuads_nodup c.shape c.quad).getElem_inj_iff.1 hq
  rw [← Nat.div_add_mod i b.size, ← Nat.div_add_mod j b.size, hq, hr]

theorem Coach.usedSize_le (c : Coach) (b : Buf) : c.usedSize b ≤ c.bufSize b := by
  cases b with
  | abuf | wbuf | acc => exact Nat.min_le_right ..
  | glatch | tile => exact Nat.le_refl _

/-! ## Writing bytes -/

/-- A written byte is read again; the other bytes of its buffer stay. -/
theorem Quadrant.byte_setByte_same (x : Quadrant) {b : Buf} (hb : b ≠ .tile) (o : Nat) (v : Byte) (i : Nat) :
    (x.setByte b o v).byte b i = if i = o then v else x.byte b i := by
  cases b with
  | tile => exact absurd rfl hb
  | abuf | wbuf | acc | glatch => exact SMap.get_put ..

/-- The bytes of the other buffers stay. -/
theorem Quadrant.byte_setByte_of_ne (x : Quadrant) {b b' : Buf} (h : b' ≠ b) (o : Nat) (v : Byte) (i : Nat) :
    (x.setByte b o v).byte b' i = x.byte b' i := by
  revert h
  cases b <;> cases b' <;> intro h <;> simp [Quadrant.setByte, Quadrant.byte, Quadrant.setTileByte, Quadrant.tileByte] at h ⊢

theorem Quadrant.byte_setByte (x : Quadrant) {b : Buf} (hb : b ≠ .tile) (o : Nat) (v : Byte) (b' : Buf) (i : Nat) :
    (x.setByte b o v).byte b' i = if b' = b ∧ i = o then v else x.byte b' i := by
  by_cases h : b' = b
  · subst h
    simp only [true_and, Quadrant.byte_setByte_same x hb]
  · rw [if_neg (fun hh => h hh.1), Quadrant.byte_setByte_of_ne x h]

theorem Quadrant.byte_setPois (x : Quadrant) (b : Buf) (g : Nat) (p : Bool) (b' : Buf) (o : Nat) :
    (x.setPois b g p).byte b' o = x.byte b' o := by
  cases b <;> cases b' <;> rfl

section Write

variable {c : Coach} {b : Buf} (hb : b ≠ .tile)
include hb

theorem State.bufByte_setBufByte (s : State) {o : Nat} (ho : o < c.bufSize b) (v : Byte) {b' : Buf} {i : Nat}
    (hi : i < c.bufSize b') : (s.setBufByte c b o v).bufByte c b' i = if b' = b ∧ i = o then v else s.bufByte c b' i := by
  rw [State.bufByte, State.setBufByte, State.quad_updQuad]
  split
  · rename_i hq
    rw [Quadrant.byte_setByte _ hb, ← hq]
    by_cases h : b' = b
    · subst h
      have heq : (c.locate b' i).2 = (c.locate b' o).2 ↔ i = o :=
        ⟨fun hr => Coach.locate_inj hb hi ho (Prod.ext hq hr), fun hr => by rw [hr]⟩
      simp only [heq]; rfl
    · simp only [h, false_and, if_false]; rfl
  · rename_i hq
    rw [if_neg (fun ⟨h1, h2⟩ => hq (by rw [h1, h2]))]; rfl

theorem State.bufByte_putBuf (bs : List Byte) (s : State) {o : Nat} (ho : o + bs.length ≤ c.bufSize b) {b' : Buf} {i : Nat}
    (hi : i < c.bufSize b') : (s.putBuf c b o bs).bufByte c b' i =
      if b' = b ∧ o ≤ i ∧ i < o + bs.length then bs.getD (i - o) 0#8 else s.bufByte c b' i := by
  induction bs generalizing s o with
  | nil => rw [State.putBuf, if_neg (by simp only [List.length_nil]; omega)]
  | cons v bs ih =>
    rw [List.length_cons] at ho ⊢
    rw [State.putBuf, ih _ (by omega), State.bufByte_setBufByte hb _ (by omega) v hi]
    by_cases h : b' = b
    · simp only [h, true_and]
      by_cases h0 : i = o
      · subst h0
        rw [if_neg (by omega), if_pos rfl, if_pos (by omega), Nat.sub_self, List.getD_cons_zero]
      · rw [if_neg h0]
        by_cases hlt : o + 1 ≤ i ∧ i < o + 1 + bs.length
        · rw [if_pos hlt, if_pos (by omega), show i - o = i - (o + 1) + 1 by omega, List.getD_cons_succ]
        · rw [if_neg hlt, if_neg (by omega)]
    · simp only [h, false_and, if_false]

end Write

theorem State.bufByte_markBuf (s : State) (c : Coach) (b : Buf) (o n : Nat) (p : Bool) (b' : Buf) (i : Nat) :
    (s.markBuf c b o n p).bufByte c b' i = s.bufByte c b' i := by
  unfold State.markBuf
  generalize granulesOf b o n = gs
  induction gs generalizing s with
  | nil => rfl
  | cons g gs ih =>
    rw [List.foldl_cons, ih, State.bufByte, State.quad_updQuad]
    split
    · rename_i hq
      rw [Quadrant.byte_setPois, ← hq]; rfl
    · rfl

theorem State.bufByte_writeBuf (s : State) {c : Coach} {b : Buf} (hb : b ≠ .tile) {o : Nat} {bs : List Byte}
    (ho : o + bs.length ≤ c.bufSize b) (p : Bool) {b' : Buf} {i : Nat} (hi : i < c.bufSize b') :
    (s.writeBuf c b o bs p).bufByte c b' i =
      if b' = b ∧ o ≤ i ∧ i < o + bs.length then bs.getD (i - o) 0#8 else s.bufByte c b' i := by
  rw [State.writeBuf, State.bufByte_markBuf, State.bufByte_putBuf hb bs s ho hi]

/-! ## What a write leaves unchanged -/

/-- States that differ only in quadrants. -/
def QuadsOnly (s t : State) : Prop := t = { s with quads := t.quads }

theorem QuadsOnly.trans {s t u : State} (h : QuadsOnly s t) (g : QuadsOnly t u) : QuadsOnly s u := by
  unfold QuadsOnly at *
  rw [g, h]

theorem QuadsOnly.strand? {s t : State} (h : QuadsOnly s t) (u : ThreadId) : t.strand? u = s.strand? u := by
  rw [h]; cases u <;> rfl

theorem State.putBuf_quadsOnly (bs : List Byte) (s : State) (c : Coach) (b : Buf) (o : Nat) :
    QuadsOnly s (s.putBuf c b o bs) := by
  induction bs generalizing s o with
  | nil => rfl
  | cons v bs ih => exact QuadsOnly.trans (t := s.setBufByte c b o v) rfl (ih _ _)

theorem State.markBuf_quadsOnly (s : State) (c : Coach) (b : Buf) (o n : Nat) (p : Bool) :
    QuadsOnly s (s.markBuf c b o n p) := by
  unfold State.markBuf
  generalize granulesOf b o n = gs
  induction gs generalizing s with
  | nil => rfl
  | cons g gs ih => exact QuadsOnly.trans (t := State.updQuad ..) rfl (ih _)

theorem State.writeBuf_quadsOnly (s : State) (c : Coach) (b : Buf) (o : Nat) (bs : List Byte) (p : Bool) :
    QuadsOnly s (s.writeBuf c b o bs p) := (s.putBuf_quadsOnly bs c b o).trans (State.markBuf_quadsOnly ..)

/-! ## Passing the range checker (R114, R148) -/

/-- What a buffer access waits for in the range checker. -/
def Coach.admits (c : Coach) (part : Nat) (es : List Extent) : Prop :=
  c.checkerFull = false ∧ c.spmSeq part = none ∧ c.entries.any (fun e => extentsClash e.2 es) = false

/-- The running coach replaced by one with the same strands. -/
theorem State.strand?_replaced {s : State} {c c' : Coach} (hc : s.myCoach? = some c) (hq : c'.quad = c.quad)
    (hs : ∀ p, c'.strand p = c.strand p) : (s.updCoach c.quad (fun _ => c')).strand? s.cur = s.strand? s.cur := by
  obtain ⟨p, hcur, hcoach⟩ := State.myCoach?_eq_some hc
  rw [hcur, State.strand?, State.strand?, State.coach?_replaced hcoach hq, hcoach, Option.map_some, Option.map_some, hs]

/-- An access that the checker admits goes on in a state with the same buffers, memory and thread. -/
theorem admitted_of_admits {s : State} {c : Coach} {es : List Extent} (f : State → Res) (hc : s.myCoach? = some c)
    (h : c.admits (threadPart s.cur) es) :
    ∃ x, admitted s c es f = f x ∧ x.quads = s.quads ∧ x.mem = s.mem ∧ x.cur = s.cur ∧
      x.strand? s.cur = s.strand? s.cur := by
  obtain ⟨hfull, hseq, hclash⟩ := h
  exact ⟨_, admitted_of_enter rfl hseq hfull hclash, rfl, rfl, rfl, State.strand?_replaced hc rfl (fun _ => rfl)⟩

theorem State.strand?_leaveChecker (s : State) (u : ThreadId) : s.leaveChecker.strand? u = s.strand? u :=
  State.strand?_updCoach s _ u (fun _ => rfl) (fun _ _ => rfl)

theorem State.leaveChecker_quads (s : State) : s.leaveChecker.quads = s.quads := State.updCoach_quads ..

theorem State.leaveChecker_mem (s : State) : s.leaveChecker.mem = s.mem := State.updCoach_mem ..

/-- The thread of an access that has left the checker. -/
theorem thread_left {s t : State} (hcur : t.cur = s.cur) (hs : t.strand? s.cur = s.strand? s.cur) :
    (t.leaveChecker.strand? t.leaveChecker.cur).isSome = (s.strand? s.cur).isSome ∧ t.leaveChecker.me = s.me := by
  have hc : t.leaveChecker.cur = s.cur := hcur
  have h : t.leaveChecker.strand? t.leaveChecker.cur = s.strand? s.cur := by rw [hc, State.strand?_leaveChecker, hs]
  exact ⟨congrArg _ h, by rw [State.me, State.me, h]⟩

theorem spmOk_iff {c : Coach} {b : Buf} {o n : Nat} : spmOk c b o n = true ↔ o % n = 0 ∧ o + n ≤ c.usedSize b := by
  rw [spmOk, Bool.and_eq_true, decide_eq_true_iff, decide_eq_true_iff]

theorem spmBuf_eq_wbuf {kk : BitVec 2} : spmBuf kk = .wbuf ↔ kk = 1#2 := by
  revert kk; decide

theorem spmBuf_ne_tile (kk : BitVec 2) : spmBuf kk ≠ .tile := by
  revert kk; decide

/-! ## The words -/

section Words

variable {s : State} {k : Tok} {tr b : BitVec 4} {kk sz : BitVec 2} {o : BitVec 9} {c : Coach} {n off : Nat}

section Load

variable (hc : s.myCoach? = some c) (hb : s.pois b = false) (hn : n = 2 ^ sz.toNat)
  (hoff : off = (s.reg b).toNat + o.toNat * n) (h : s.Issues coachWord (.ldsp k tr b kk o sz) k)
include hc hb hn hoff h

theorem ldsp_traps (hw : spmOk c (spmBuf kk) off n = false) : Traps (.ldsp k tr b kk o sz) s k 0x0205 none none := by
  obtain ⟨st, ff, -, he⟩ := exec_of_withCoach h hc (show execLdsp k tr b kk o sz = _ from rfl)
  have hw' : spmOk (c.withThreads st ff) (spmBuf kk) off n = false := hw
  simp only [consume, State.takeToken_pois, spmOff, State.takeToken_reg, hb, ← hn, ← hoff, hw', Bool.false_eq_true,
    if_false, if_true] at he
  exact traps_of_fault he

theorem ldsp_reads (hw : spmOk c (spmBuf kk) off n = true)
    (hf : c.admits (threadPart s.cur) [{ buf := spmBuf kk, lo := off, len := n, rd := true, wr := false }]) :
    ∃ t, exec (.ldsp k tr b kk o sz) s = .next t ∧
      Wrote s t tr (BitVec.ofNat 64 (natOfBytes (s.bufBytes c (spmBuf kk) off n))) (s.bufPois c (spmBuf kk) off n) ∧
      Moved s t 1 ∧ t.quads = s.quads ∧ t.mem = s.mem := by
  obtain ⟨st, ff, hc1, he⟩ := exec_of_withCoach h hc (show execLdsp k tr b kk o sz = _ from rfl)
  have hw' : spmOk (c.withThreads st ff) (spmBuf kk) off n = true := hw
  have hf' : (c.withThreads st ff).admits (threadPart (s.takeToken k).cur)
      [{ buf := spmBuf kk, lo := off, len := n, rd := true, wr := false }] := by rw [State.takeToken_cur]; exact hf
  simp only [consume, State.takeToken_pois, spmOff, State.takeToken_reg, hb, ← hn, ← hoff, hw', Bool.false_eq_true,
    Bool.true_eq_false, if_false] at he
  obtain ⟨x, hx, hxq, hxm, hxc, hxs⟩ := admitted_of_admits _ hc1 hf'
  rw [hx] at he
  have hxq : x.quads = s.quads := by rw [hxq, State.takeToken_eq]
  have hbytes : x.bufBytes (c.withThreads st ff) (spmBuf kk) off n = s.bufBytes c (spmBuf kk) off n := by
    simp only [State.bufBytes, State.bufByte, State.quad, hxq]; rfl
  have hpois : x.bufPois (c.withThreads st ff) (spmBuf kk) off n = s.bufPois c (spmBuf kk) off n := by
    simp only [State.bufPois, State.quad, hxq]; rfl
  rw [hbytes, hpois] at he
  obtain ⟨hs, hme⟩ := thread_left hxc hxs
  obtain ⟨t, h1, h2, h3, h4⟩ := acts_of_writeS he rfl (hs.trans h.isSome) (hme ▸ State.takeToken_sameBut s k)
  refine ⟨t, h1, h2, h3, ?_, ?_⟩
  · rw [h4.1]
    exact (State.leaveChecker_quads x).trans hxq
  · rw [h4.mem, State.leaveChecker_mem, hxm, State.takeToken_eq]

end Load

section Store

variable (hc : s.myCoach? = some c) (hb : s.pois b = false) (ht : s.pois tr = false) (hn : n = 2 ^ sz.toNat)
  (hoff : off = (s.reg b).toNat + o.toNat * n) (h : s.Issues coachWord (.stsp k tr b kk o sz) k)
include hc hb ht hn hoff h

theorem stsp_traps_range (hw : spmOk c (spmBuf kk) off n = false) :
    Traps (.stsp k tr b kk o sz) s k 0x0205 none none := by
  obtain ⟨st, ff, -, he⟩ := exec_of_withCoach h hc (show execStsp k tr b kk o sz = _ from rfl)
  have hw' : spmOk (c.withThreads st ff) (spmBuf kk) off n = false := hw
  simp only [consume, State.takeToken_pois, spmOff, State.takeToken_reg, hb, ht, ← hn, ← hoff, hw', Bool.false_eq_true,
    Bool.or_false, if_false, if_true] at he
  exact traps_of_fault he

theorem stsp_traps_wbuf (hw : spmOk c (spmBuf kk) off n = true) (hk : spmBuf kk = .wbuf) :
    Traps (.stsp k tr b kk o sz) s k 0x0206 none none := by
  obtain ⟨st, ff, -, he⟩ := exec_of_withCoach h hc (show execStsp k tr b kk o sz = _ from rfl)
  have hw' : spmOk (c.withThreads st ff) (spmBuf kk) off n = true := hw
  simp only [consume, State.takeToken_pois, spmOff, State.takeToken_reg, hb, ht, ← hn, ← hoff, hw', Bool.false_eq_true,
    Bool.true_eq_false, Bool.or_false, if_false, if_pos hk] at he
  exact traps_of_fault he

theorem stsp_writes (hw : spmOk c (spmBuf kk) off n = true) (hk : spmBuf kk ≠ .wbuf)
    (hf : c.admits (threadPart s.cur) [{ buf := spmBuf kk, lo := off, len := n, rd := false, wr := true }]) :
    ∃ t, exec (.stsp k tr b kk o sz) s = .next t ∧ SameRegs s t ∧ Moved s t 1 ∧ t.mem = s.mem ∧
      ∀ b' i, i < c.bufSize b' → t.bufByte c b' i =
        if b' = spmBuf kk ∧ off ≤ i ∧ i < off + n then BitVec.ofNat 8 ((s.reg tr).toNat / 256 ^ (i - off))
        else s.bufByte c b' i := by
  obtain ⟨st, ff, hc1, he⟩ := exec_of_withCoach h hc (show execStsp k tr b kk o sz = _ from rfl)
  have hw' : spmOk (c.withThreads st ff) (spmBuf kk) off n = true := hw
  have hf' : (c.withThreads st ff).admits (threadPart (s.takeToken k).cur)
      [{ buf := spmBuf kk, lo := off, len := n, rd := false, wr := true }] := by rw [State.takeToken_cur]; exact hf
  simp only [consume, State.takeToken_pois, spmOff, State.takeToken_reg, hb, ht, ← hn, ← hoff, hw', Bool.false_eq_true,
    Bool.true_eq_false, Bool.or_false, if_false, if_neg hk] at he
  obtain ⟨x, hx, hxq, hxm, hxc, hxs⟩ := admitted_of_admits _ hc1 hf'
  have hxr : x.reg tr = s.reg tr := by
    rw [← State.takeToken_reg s k tr, State.reg, State.reg, State.me, State.me, hxc, hxs]
  have hxq' : x.quads = s.quads := by rw [hxq, State.takeToken_eq]
  rw [hx, hxr] at he
  have hlen := bytesOfNat_length n (s.reg tr).toNat
  have hle : off + n ≤ (c.withThreads st ff).bufSize (spmBuf kk) := (spmOk_iff.1 hw).2.trans (Coach.usedSize_le c _)
  generalize hbs : bytesOfNat n (s.reg tr).toNat = bs at he hlen
  have hy := State.writeBuf_quadsOnly x (c.withThreads st ff) (spmBuf kk) off bs false
  have hbyte := fun b' i (hi : i < c.bufSize b') =>
    State.bufByte_writeBuf x (spmBuf_ne_tile kk) (hlen.symm ▸ hle) false (show i < (c.withThreads st ff).bufSize b' from hi)
  generalize x.writeBuf (c.withThreads st ff) (spmBuf kk) off bs false = y at he hy hbyte
  obtain ⟨hs, hme⟩ := thread_left (t := y) (by rw [hy, ← hxc]) ((hy.strand? _).trans hxs)
  obtain ⟨t, h1, h2, h3, h4⟩ := does_of_done' he rfl (hs.trans h.isSome) (hme ▸ State.takeToken_sameBut s k)
  refine ⟨t, h1, h2, h3, ?_, fun b' i hi => ?_⟩
  · rw [h4.mem, State.leaveChecker_mem, hy, hxm, State.takeToken_eq]
  · have htb : t.bufByte c b' i = y.bufByte (c.withThreads st ff) b' i := by
      rw [State.bufByte, h4.quad, State.quad, State.leaveChecker_quads]; rfl
    have hsb : x.bufByte (c.withThreads st ff) b' i = s.bufByte c b' i := by
      simp only [State.bufByte, State.quad, hxq']; rfl
    rw [htb, hbyte b' i hi, hlen, hsb]
    by_cases hin : b' = spmBuf kk ∧ off ≤ i ∧ i < off + n
    · rw [if_pos hin, if_pos hin, ← hbs, bytesOfNat_getD (by omega)]
    · rw [if_neg hin, if_neg hin]

end Store

end Words

/-- Settles O16: the checks of the two words in their order, and their access to the buffer's bytes. -/
theorem bufferAccess : Obligations.BufferAccess := by
  intro s k tr b kk sz o c hc hb _ n off buf within free
  have hout : ¬within → spmOk c (spmBuf kk) off n = false := fun hw => Bool.eq_false_iff.2 fun h => hw (spmOk_iff.1 h)
  refine ⟨fun h => ⟨fun hw => ?_, fun hw hf => ?_⟩, fun h ht => ⟨fun hw => ?_, fun hw hk => ?_, fun hw hk hf => ?_⟩⟩
  · exact ldsp_traps hc hb rfl rfl h (hout hw)
  · exact ldsp_reads hc hb rfl rfl h (spmOk_iff.2 hw) hf
  · exact stsp_traps_range hc hb ht rfl rfl h (hout hw)
  · exact stsp_traps_wbuf hc hb ht rfl rfl h (spmOk_iff.2 hw) (spmBuf_eq_wbuf.2 hk)
  · exact stsp_writes hc hb ht rfl rfl h (spmOk_iff.2 hw) (fun e => hk (spmBuf_eq_wbuf.1 e)) hf

end Sys2Proof.Machine
end

section
/-! SUPPORT. StaleBytes: a state whose record of the bytes that HBM holds gives one byte twice, and what becomes of it when its
line leaves the cache ways (R326). -/

namespace Sys2Proof.Tests

open Sys2Proof.Machine

/-- Strand 0 of die 0 about to access line 0x1000 while all cache ways of the die have another class and the set's one line in
them is 0x10000, which is clean. The byte 0x400000 of that line reads as 0; what HBM holds of it stands there twice, as 1 and,
behind that, as 2. -/
def twiceStale : State :=
  let s := State.with onDray0 1#4 0x40000#64
  { s.updDie 0 (fun d => { d with ways := (List.range 11).map (fun i => (i + 5, 1)) }) with
    cache := [{ line := 0x10000, way := 5, cls := 1, dirty := false }]
    stale := [(0x400000, 1#8), (0x400000, 2#8)] }

/-- The place of its access. -/
def ordinaryPlace : Xlate := { dpa := 0x40000, memSide := false, entry := none, setD := none }

/-- A byte of HBM after a step. -/
def byteAfter (o : Host.Outcome State Fault Refusal) (a : Nat) : Option Byte :=
  match o with
  | .next t => some (t.byteAt a)
  | _ => none

/-- The line that leaves the ways takes the last of the two bytes; the first is the one that HBM is said to hold. -/
theorem twiceStale_byte {o : Host.Outcome State Fault Refusal} {t : State} (ho : o = .next t)
    (h : byteAfter o 0x400000 = some 2#8) :
    ¬ (t.byteAt 0x400000 = twiceStale.byteAt 0x400000 ∨ t.byteAt 0x400000 = twiceStale.hbmAt 0x400000) := by
  have hread : twiceStale.byteAt 0x400000 = 0#8 := by decide +kernel
  have hheld : twiceStale.hbmAt 0x400000 = 1#8 := by decide +kernel
  have ht : t.byteAt 0x400000 = 2#8 := by
    rw [ho] at h
    exact Option.some.inj h
  rw [ht, hread, hheld]
  decide

/-- Refutes O14, by a state that no run reaches: its record of HBM's bytes, which is a list, gives one byte twice. The load's line
takes the way of the clean line of that byte, which then reads as neither of what the statement allows. -/
theorem not_globalAccesses : ¬ Obligations.GlobalAccesses := by
  intro h
  obtain ⟨loads, -⟩ := h
  obtain ⟨ld, -⟩ := loads twiceStale k0 3#4 1#4 0#4 0#7 0#4 0#3 3#2 8 ordinaryPlace rfl (by decide +kernel)
    (by decide +kernel) (by decide +kernel) (by decide) rfl rfl
  obtain ⟨-, dray⟩ := ld (issues_of (by decide +kernel)) (.inl (by decide +kernel)) (by decide +kernel) (by decide +kernel)
    (resolve_of (by decide +kernel)) (by decide +kernel)
  obtain ⟨t, ht, -, -, hbytes⟩ := dray (by decide +kernel) (by decide +kernel) (by decide +kernel)
  exact twiceStale_byte ht (by decide +kernel) (hbytes 0x400000)

/-- Refutes O15, by the same state: the atomic's line takes the way of the clean line of the byte that HBM's record gives twice. -/
theorem not_atomics : ¬ Obligations.Atomics := by
  intro h
  obtain ⟨aadd, -⟩ := h twiceStale k0 3#4 1#4 4#4 0#4 0#2 0#3
  obtain ⟨-, home⟩ := aadd (issues_of (by decide +kernel)) (by decide +kernel) (by decide +kernel) (by decide +kernel)
    (fun hc => nomatch hc) (by decide +kernel) (.inl (by decide))
  obtain ⟨t, ht, -, -, -, hbytes⟩ := home ordinaryPlace (resolve_of (by decide +kernel)) (.inl (by decide +kernel)) (by decide) rfl
    rfl (by decide +kernel) (by decide +kernel) (by decide +kernel) (by decide +kernel)
  exact twiceStale_byte ht (by decide +kernel) (hbytes 0x400000 (.inr (by decide)))

end Sys2Proof.Tests
end

section
/-! SUPPORT. VectorEntry: a vector word's tiles and its entry into the vector unit (R145, R159, R161-R163). -/

namespace Sys2Proof.Machine

theorem tilesDeclared_takeToken (s : State) (c : Coach) (k : Tok) (st : SMap Strand) (ff : SMap Nat)
    (ts : List (BitVec 6)) : tilesDeclared (s.takeToken k) (c.withThreads st ff) ts = tilesDeclared s c ts := by
  rw [State.takeToken_eq]
  rfl

/-- The extents of a vector word's tiles: those that it writes, and then those that it reads. -/
def tileExtents (wr rd : List (BitVec 6)) : List Extent :=
  wr.map (fun t => tileExtent t false true) ++ rd.map (fun t => tileExtent t true false)

/-- The operation of a vector word as it enters the unit, with its scalar operand. -/
def vectorOp (i : Instr) (s : State) (k : Tok) (c : Coach) (es : List Extent) (sr : BitVec 4) : VecOp :=
  { ins := i, desc := Desc.zero, sval := s.reg sr, spois := s.pois sr, pc := s.me.pc, push := k.push.toNat,
    seq := c.nextSeq, extents := es, started := false, loops := s.me.loops }

/-- The operation joins the unit's tail. -/
def VecOp.enter (o : VecOp) (c : Coach) : Coach := { c with unit := c.unit ++ [o] }

theorem VecOp.enter_queues (o : VecOp) : Coach.Queues o.enter :=
  ⟨fun _ => rfl, fun _ _ => rfl, fun _ i => by cases i <;> rfl⟩

/-- The word waits for a place in the unit and in the range checker, and is then accepted. -/
def EntersUnit (i : Instr) (s : State) (k : Tok) (c : Coach) (o : VecOp) : Prop :=
  (2 ≤ c.unit.length → Parks i s k .vectorUnit) ∧
  (c.unit.length < 2 → o.extents ≠ [] → c.checkerFull = true → Parks i s k .checker) ∧
  (c.unit.length < 2 → o.extents = [] ∨ c.checkerFull = false →
    Accepts i s (s.takeToken k) k 1 c.nextSeq false o.enter)

section Word

variable {fs : List Nat} {i : Instr} {k : Tok} {s : State} {c : Coach} {wr rd : List (BitVec 6)} {sr : BitVec 4}

theorem entersUnit_of_enterUnit {cls : WordClass} {es : List Extent} {st : SMap Strand} {ff : SMap Nat}
    (h : s.Issues cls i k) (hc : s.myCoach? = some c)
    (he : exec i s = (enterUnit (s.takeToken k) (c.withThreads st ff) i k Desc.zero (s.reg sr) (s.pois sr) es false).apply
      k 1 s.me.pc s.cur) :
    EntersUnit i s k c (vectorOp i s k c es sr) := by
  have hloops : (s.takeToken k).me.loops = s.me.loops := by rw [State.takeToken_me]
  have hunit : (c.withThreads st ff).unit = c.unit := rfl
  have hchecker : (c.withThreads st ff).checkerFull = c.checkerFull := rfl
  rw [enterUnit, hunit, hchecker, State.takeToken_pc, hloops] at he
  refine ⟨fun h2 => ?_, fun h2 hne hfull => ?_, fun h2 hfree => ?_⟩
  · rw [if_pos h2] at he
    exact parks_of_wait he
  all_goals rw [if_neg (Nat.not_le.2 h2)] at he
  · have hes : es ≠ [] := hne
    rw [if_pos (by simp [hes, hfull])] at he
    exact parks_of_wait he
  · have hes : es = [] ∨ c.checkerFull = false := hfree
    rw [if_neg (by rcases hes with h | h <;> simp [h])] at he
    exact accepts_of_accept (vectorOp i s k c es sr).enter_queues h hc ⟨_, by rw [State.takeToken_eq]⟩ rfl rfl he

/-- A vector word checks that its tiles are declared, and then enters the unit. -/
theorem vectorForm_enters (h : s.Issues (xWord fs true) i k) (hc : s.myCoach? = some c)
    (hex : exec i = vectorForm fs i k wr rd sr) :
    (¬tilesDeclared s c (wr ++ rd) = true → Traps i s k 0x0206 none none) ∧
    (tilesDeclared s c (wr ++ rd) = true → EntersUnit i s k c (vectorOp i s k c (tileExtents wr rd) sr)) := by
  obtain ⟨st, ff, -, he⟩ := exec_of_withCoach h hc hex
  rw [tilesDeclared_takeToken, State.takeToken_reg, State.takeToken_pois] at he
  refine ⟨fun hd => ?_, fun hd => ?_⟩
  · rw [if_pos (by simpa using hd)] at he
    exact traps_of_fault he
  · rw [if_neg (by simp [hd])] at he
    exact entersUnit_of_enterUnit h hc he

end Word

/-- A word without tiles and without a scalar operand is a vector word of none. -/
theorem vectorForm_without_operands (fs : List Nat) (i : Instr) (k : Tok) :
    vectorForm fs i k [] [] 0#4 = issue (xWord fs true) i k (fun s => withCoach s (fun c =>
      enterUnit s c i k Desc.zero 0#64 false [] false)) := rfl

end Sys2Proof.Machine

namespace Sys2Proof

open Machine

/-- Settles O33: each word is a vector word of the tiles that its row names, which `vectorForm_enters` speaks of. -/
theorem vectorWords : Obligations.VectorWords := by
  intro s k c d a b n t sr y m p q hc on2 on1 table r hr h es declared o
  have form2 : ∀ i ∈ on2, exec i = vectorForm [] i k [d] [a, b] 0#4 := by
    simp only [on2, List.forall_mem_cons]
    exact ⟨rfl, rfl, rfl, rfl, rfl, rfl, rfl, rfl, rfl, rfl, fun _ hi => nomatch hi⟩
  have form1 : ∀ i ∈ on1, exec i = vectorForm [] i k [d] [a] 0#4 := by
    simp only [on1, List.forall_mem_cons]
    exact ⟨rfl, rfl, rfl, rfl, rfl, rfl, rfl, rfl, rfl, rfl, fun _ hi => nomatch hi⟩
  have form : ∀ r ∈ table, exec r.1 = vectorForm r.2.1 r.1 k r.2.2.1 r.2.2.2.1 r.2.2.2.2 := by
    simp only [table, List.forall_mem_append, List.forall_mem_map, List.forall_mem_cons]
    exact ⟨⟨form2, form1⟩, rfl, rfl, rfl, rfl, rfl, rfl, rfl, rfl, rfl, rfl, rfl, rfl, rfl, rfl,
      (vectorForm_without_operands [11] (.vdrain k) k).symm, rfl, rfl, rfl, rfl, rfl, rfl, fun _ hi => nomatch hi⟩
  obtain ⟨traps, enters⟩ := vectorForm_enters h hc (form r hr)
  exact ⟨traps, fun hd => (enters hd).1, fun hd => (enters hd).2.1, fun hd => (enters hd).2.2⟩

end Sys2Proof
end

section
/-! SUPPORT. TaskLife: the entry of a launch in a die's walker, the planes of a quadrant, and the threads of a task that starts
(R143, R144, R253, R259). -/

namespace Sys2Proof.Machine

/-! ## The walker (R253, R259, R293) -/

/-- Reading an entry of a die's walker after it has changed (the change keeps what it is found by). -/
theorem State.walker_updWalker_self {s : State} {die tag : Nat} {v : WalkEntry} {f : WalkEntry → WalkEntry}
    (hv : s.walker die tag = some v) (hdie : ∀ w, (f w).die = w.die) (htag : ∀ w, (f w).tag = w.tag) :
    (s.updWalker die tag f).walker die tag = some (f v) := by
  have hp := List.find?_some hv
  unfold State.walker State.updWalker
  rw [find?_updateWhere _ _ f s.walkers (fun w => by rw [hdie, htag]), show s.walkers.find? _ = some v from hv,
    Option.map_some, if_pos hp]

/-- The entry of a launch in a die's walker, which is a new one before its first task there. -/
def State.entryOf (s : State) (l : Launch) (die : Nat) : WalkEntry :=
  (s.walker die l.tag).getD { die := die, tag := l.tag, next := 0, total := s.spatial l die, saved := 0, bound := 0 }

theorem State.openWalker_walker (s : State) (l : Launch) (die : Nat) :
    (s.openWalker l die).walker die l.tag = some (s.entryOf l die) := by
  unfold State.openWalker State.entryOf
  split <;> rename_i h
  · rw [h, Option.getD_some]
  · rw [h, Option.getD_none]
    unfold State.walker at h
    rw [State.walker, State.updLaunch_walkers, List.find?_append, h]
    simp

theorem State.openWalker_mem (s : State) (l : Launch) (die : Nat) : (s.openWalker l die).mem = s.mem := by
  unfold State.openWalker
  split <;> rfl

theorem State.openWalker_coaches (s : State) (l : Launch) (die : Nat) : (s.openWalker l die).coaches = s.coaches := by
  unfold State.openWalker
  split <;> rfl

theorem State.takeSliceTurn_walker (s : State) (die slice : Nat) (fresh : Bool) (d tag : Nat) :
    (s.takeSliceTurn die slice fresh).walker d tag = s.walker d tag := rfl

/-- One more of a launch's points is bound. -/
def WalkEntry.bind (w : WalkEntry) : WalkEntry := { w with next := w.next + 1, bound := w.bound + 1 }

/-- The part as a walker has taken a launch's next point: the slice's turn is taken, and the point counts as bound. -/
def State.takePoint (s : State) (l : Launch) (die : Nat) (fresh : Bool) : State :=
  ((s.openWalker l die).takeSliceTurn die l.slice fresh).updWalker die l.tag WalkEntry.bind

theorem State.takePoint_mem (s : State) (l : Launch) (die : Nat) (fresh : Bool) : (s.takePoint l die fresh).mem = s.mem :=
  (rfl : _ = (s.openWalker l die).mem).trans (s.openWalker_mem l die)

theorem State.takePoint_coaches (s : State) (l : Launch) (die : Nat) (fresh : Bool) :
    (s.takePoint l die fresh).coaches = s.coaches :=
  (rfl : _ = (s.openWalker l die).coaches).trans (s.openWalker_coaches l die)

theorem State.takePoint_walker (s : State) (l : Launch) (die : Nat) (fresh : Bool) :
    (s.takePoint l die fresh).walker die l.tag = some (s.entryOf l die).bind :=
  State.walker_updWalker_self ((State.takeSliceTurn_walker ..).trans (s.openWalker_walker l die)) (fun _ => rfl) (fun _ => rfl)

/-- The coach that is bound for a launch's point. -/
theorem State.bindCoach_coaches (s : State) (l : Launch) (lead point temporal : Nat) :
    ∃ c, (s.bindCoach l lead point temporal).coaches = s.coaches ++ [c] ∧ c.quad = lead ∧ c.shape = l.shape ∧
      c.slice = l.slice ∧ c.tag = l.tag ∧ c.point = point ∧ c.temporal = temporal ∧ c.phase = .loading ∧ c.args = l.args :=
  ⟨_, rfl, rfl, rfl, rfl, rfl, rfl, rfl, rfl, rfl⟩

theorem State.bindCoach_mem (s : State) (l : Launch) (lead point temporal : Nat) :
    (s.bindCoach l lead point temporal).mem = s.mem := rfl

theorem State.bindCoach_walker (s : State) (l : Launch) (lead point temporal die tag : Nat) :
    (s.bindCoach l lead point temporal).walker die tag = s.walker die tag := rfl

section Pick

variable {s : State} {die : Nat} {l : Launch} {fresh : Bool} (hp : s.pick die = some (l, fresh))
include hp

/-- A launch whose regions have all been claimed has its next point bound. -/
theorem exec_walkerPick_of_claimed {lead : Nat} (hl : s.leadFor l die = some lead)
    (hn : (lnrClaims l.hdr).length ≤ l.claims.length) :
    exec (.walkerPick die) s = .next ((s.takePoint l die fresh).bindCoach l lead (s.entryOf l die).next 0) := by
  show execWalkerPick die s = _
  simp only [execWalkerPick, hp, hl, List.drop_eq_nil_of_le hn, State.takeSliceTurn_walker, State.openWalker_walker,
    Option.map_some, Option.getD_some]
  rfl

/-- A launch that still has regions to claim has the next one claimed. -/
theorem exec_walkerPick_of_unclaimed {r : Nat × Nat} (hr : (lnrClaims l.hdr)[l.claims.length]? = some r) :
    exec (.walkerPick die) s = .next (s.claimNext l r.1 r.2) := by
  obtain ⟨hlt, rfl⟩ := List.getElem?_eq_some_iff.1 hr
  show execWalkerPick die s = _
  simp only [execWalkerPick, hp, List.drop_eq_getElem_cons hlt]

end Pick

/-! ## The planes (R143, R144) -/

/-- The plane that is not active takes a launch's code, and the swap token is posted. -/
def Quadrant.loadShadow (x : Quadrant) (tag : Nat) (code : List IWord) : Quadrant :=
  let p := SMap.putAll (fun _ => 0#32) [] 0 code
  if x.activeB then { x with planeA := p, ownerA := some tag, swap := true }
  else { x with planeB := p, ownerB := some tag, swap := true }

/-- The words of a plane that code has been loaded into. -/
theorem get_loadedPlane (code : List IWord) (i : Nat) :
    SMap.get (fun _ => 0#32) (SMap.putAll (fun _ => 0#32) [] 0 code) i = code.getD i 0#32 := by
  rw [SMap.get_putAll, if_pos (Nat.zero_le i), Nat.sub_zero, SMap.get_nil, List.getD_eq_getElem?_getD]

/-- What loading the shadow plane changes of a quadrant, and that it leaves the active one. -/
theorem Quadrant.loadShadow_spec (x : Quadrant) (tag : Nat) (code : List IWord) :
    let y := x.loadShadow tag code
    y.activeB = x.activeB ∧ y.swap = true ∧ y.owner (!x.activeB) = some tag ∧
      (∀ i, SMap.get (fun _ => 0#32) (if x.activeB then y.planeA else y.planeB) i = code.getD i 0#32) ∧
      (if x.activeB then y.planeB = x.planeB else y.planeA = x.planeA) := by
  cases hb : x.activeB <;> simp [Quadrant.loadShadow, Quadrant.owner, hb, get_loadedPlane]

theorem exec_loaderPlaneLoad {s : State} {q : Nat} {c : Coach} {l : Launch} (hc : s.coach? q = some c)
    (hl : s.launch? c.tag = some l) (hload : c.phase = .loading) (hswap : (s.quad q).swap = false)
    (howner : (s.quad q).owner (s.quad q).activeB ≠ some c.tag) :
    exec (.loaderPlaneLoad q c.tag) s = .next (s.updQuad q (fun x => x.loadShadow c.tag l.code)) := by
  have hstale : (s.quad q).staleSwap c.tag = s.quad q := by
    rw [Quadrant.staleSwap, hswap, Bool.false_and]
    rfl
  show execLoaderPlaneLoad q c.tag s = _
  simp only [execLoaderPlaneLoad, hc, hl, hstale, hload, hswap, howner, ne_eq, not_true_eq_false, Bool.false_eq_true,
    or_self, if_false]
  rfl

/-! ## The start of a task (R92, R138, R253) -/

/-- A thread of a task that starts: s14 holds the argument block, and a stream without code has stopped. -/
def startThread (l : Launch) (stream : Nat) : Strand :=
  { Strand.start with
    regs := SMap.put zeroWord [] 14 l.args
    run := if (hdrLens l.hdr).getD stream 0 = 0 then .idle else .ready }

theorem startThread_reg (l : Launch) (stream : Nat) (r : BitVec 4) :
    (startThread l stream).reg r = if r = 14#4 then l.args else 0#64 := by
  unfold Strand.reg startThread
  rw [SMap.get_put]
  by_cases hr : r = 14#4
  · subst hr
    rfl
  · have hn : r.toNat ≠ 14 := fun h => hr (BitVec.eq_of_toNat_eq h)
    rw [if_neg hr, if_neg hn]
    exact ite_self _

/-- The threads of a coach at the start of a task, by their streams. -/
theorem Coach.begin_strand (c : Coach) (s : State) (l : Launch) {p : Nat × Nat}
    (hp : p ∈ [(0, 0), (8, 1), (9, 2), (10, 3)]) :
    (c.begin s l).strand p.1 = startThread { l with args := c.args } p.2 := by
  show SMap.get _ (startThreads { l with args := c.args }) p.1 = _
  unfold startThreads
  simp only [List.foldl, SMap.get_put, List.mem_cons, List.not_mem_nil, or_false] at hp ⊢
  rcases hp with rfl | rfl | rfl | rfl
  all_goals rfl

/-- The part as a task starts on a coach: planes and buffers are ready, and the register clear has still to run. -/
theorem State.startTask_eq (s : State) (c : Coach) (l : Launch) :
    ∃ u : State, s.startTask c l = u.updCoach c.quad (fun _ => c.begin u l) ∧ u.mem = s.mem ∧ u.coaches = s.coaches := by
  refine ⟨_, rfl, ?_⟩
  refine List.foldlRecOn (motive := fun u : State => u.mem = s.mem ∧ u.coaches = s.coaches) _ _ ⟨rfl, rfl⟩ ?_
  intro u hu q _
  have hl1 : (u.l1Leave q c.slice).mem = u.mem ∧ (u.l1Leave q c.slice).coaches = u.coaches := by
    unfold State.l1Leave
    split <;> exact ⟨rfl, rfl⟩
  exact ⟨hl1.1.trans hu.1, hl1.2.trans hu.2⟩

/-- TASK_START where nothing holds the task back. -/
theorem exec_taskStart {s : State} {q : Nat} {c : Coach} {l : Launch} (hc : s.coach? q = some c)
    (hl : s.launch? c.tag = some l) (hphase : c.phase ≠ .running) (hheld : c.held = none) (hfrozen : c.frozen = false)
    (hmay : s.mayStart l (quadDie q) = true) (hready : s.codeReady c = true) :
    exec (.taskStart q) s = .next (s.startTask c l) := by
  show execTaskStart q s = _
  simp [execTaskStart, hc, hl, hphase, hheld, hfrozen, hmay, hready]

/-! ## The end of a task (R253) -/

theorem State.pump_walkers (s : State) (p : Nat) : (s.pump p).walkers = s.walkers := by
  unfold State.pump
  split <;> rfl

theorem State.sendFlit_walkers (s : State) (die : Nat) (fl : Flit) : (s.sendFlit die fl).walkers = s.walkers := by
  unfold State.sendFlit State.sendFlit?
  split
  · rfl
  · split
    · rw [Option.getD_some, State.pump_walkers, State.updPort_walkers]
    · rfl

theorem State.unbindAll_walkers (s : State) (c : Coach) : (s.unbindAll c).walkers = s.walkers := by
  refine List.foldlRecOn (motive := fun u : State => u.walkers = s.walkers) _ _ rfl ?_
  intro u hu q _
  split
  · exact (State.sendFlit_walkers _ _ _).trans hu
  · exact hu

theorem State.tally_walkers (s : State) (q : Nat) : (s.tally q).walkers = s.walkers := by
  unfold State.tally
  split <;> rfl

theorem State.dropWaiters_walkers (s : State) (q : Nat) : (s.dropWaiters q).walkers = s.walkers := by
  simp only [State.dropWaiters, List.foldl_cons, List.foldl_nil, State.updQuad_walkers]

/-- A coach that leaves takes no entry of a walker with it. -/
theorem State.dropCoach_walkers (s : State) (q : Nat) : (s.dropCoach q).walkers = s.walkers := by
  unfold State.dropCoach
  split
  · rfl
  · simp only [State.dropWaiters_walkers, State.unbindAll_walkers, State.tally_walkers]

theorem State.dropCoach_coach? (s : State) (q : Nat) : (s.dropCoach q).coach? q = none := by
  unfold State.dropCoach
  split <;> rename_i h
  · exact h
  · refine List.find?_eq_none.2 (fun c hc => ?_)
    simpa using (List.mem_filter.1 hc).2

section Drain

variable {s : State} {q : Nat} {c : Coach} {l : Launch} (hc : s.coach? q = some c) (hl : s.launch? c.tag = some l)
  (hd : s.drained c = true) (hfrozen : c.frozen = false) (hheld : c.held = none)
include hc hl hd hfrozen hheld

/-- A drained task that is not the last one of its point. -/
theorem exec_taskDrain_of_more (ht : c.temporal + 1 < kindCount l.hdr 0) :
    exec (.taskDrain q) s =
      .next (s.updCoach q (fun c => { c with phase := .between, temporal := c.temporal + 1 })) := by
  show execTaskDrain q s = _
  simp [execTaskDrain, hc, hl, hd, hfrozen, hheld, ht]

/-- The last task of a point. -/
theorem exec_taskDrain_of_last (ht : kindCount l.hdr 0 ≤ c.temporal + 1) :
    exec (.taskDrain q) s = .next (s.exitCoach c) := by
  show execTaskDrain q s = _
  simp [execTaskDrain, hc, hl, hd, hfrozen, hheld, Nat.not_lt.2 ht]

end Drain

/-! ## The share window (R260) -/

/-- The part as a die's next share window begins. -/
def State.openWindow (s : State) (die : Nat) : State :=
  { s with coaches := updateWhere (fun c => quadDie c.quad == die) (fun c => { c with tallied := s.tsc }) s.coaches }.updDie
    die (fun d => { d with winTime := [], winStart := s.tsc })

theorem exec_shareWindow (s : State) (die : Nat) :
    exec (.shareWindow die) s =
      .next (if (s.tsc - (s.die die).winStart).toNat < 1000000 then s else s.openWindow die) :=
  (apply_ite Host.Outcome.next _ s (s.openWindow die)).symm

/-- Each coach of the die is counted from now on. -/
theorem State.openWindow_coach? (s : State) (die q : Nat) :
    (s.openWindow die).coach? q =
      (s.coach? q).map (fun c => if quadDie q = die then { c with tallied := s.tsc } else c) := by
  show (updateWhere _ _ s.coaches).find? _ = _
  rw [find?_updateWhere (fun c => quadDie c.quad == die) (fun c => c.quad == q) (fun c => { c with tallied := s.tsc }) s.coaches
    (fun _ => rfl)]
  refine Option.map_congr (fun c hc => ?_)
  simp only [State.coach?_quad hc, beq_iff_eq]

end Sys2Proof.Machine

namespace Sys2Proof

open Machine

/-- Settles O42: the walker by `exec_walkerPick_of_claimed`, the loader by `Quadrant.loadShadow_spec`, a task's threads by
`Coach.begin_strand`, and its coach's exit by what `State.dropCoach` leaves. -/
theorem tasks : Obligations.Tasks := by
  refine ⟨?_, ?_, ?_, ?_, ?_⟩
  · intro s die l fresh lead hp hl hn
    obtain ⟨c, hcoaches, hquad, hshape, hslice, htag, hpoint, htemporal, hphase, hargs⟩ :=
      (s.takePoint l die fresh).bindCoach_coaches l lead (s.entryOf l die).next 0
    refine ⟨_, c, (s.entryOf l die).bind, exec_walkerPick_of_claimed hp hl hn, ?_, ?_, hquad, hshape, hslice, htag, htemporal,
      hphase, hargs, ?_, by rw [hpoint]; rfl, fun v hv => ?_, fun hv => ?_⟩
    · rw [State.bindCoach_mem, State.takePoint_mem]
    · rw [hcoaches, State.takePoint_coaches]
    · rw [State.bindCoach_walker, State.takePoint_walker]
    · rw [hpoint, State.entryOf, hv]
      exact ⟨rfl, rfl⟩
    · rw [hpoint, State.entryOf, hv]
      exact ⟨rfl, rfl, rfl⟩
  · intro s die l fresh r hp hr
    exact exec_walkerPick_of_unclaimed hp hr
  · rintro s q _ c l hc hl rfl hload hswap howner
    refine ⟨_, exec_loaderPlaneLoad hc hl hload hswap howner, rfl, fun p hne => ?_, ?_⟩
    · rw [State.quad_updQuad, if_neg hne]
    · rw [State.quad_updQuad_self]
      exact Quadrant.loadShadow_spec _ _ _
  · intro s q c l hc hl
    obtain rfl := State.coach?_quad hc
    refine ⟨fun hphase hheld hfrozen hmay hready => ?_, fun hd hfrozen hheld => ⟨fun ht => ?_, fun ht => ?_⟩⟩
    · obtain ⟨u, hu, hmem, hcoaches⟩ := s.startTask_eq c l
      have hcu : u.coach? c.quad = some c := by rw [State.coach?, hcoaches]; exact hc
      have strand : ∀ e ∈ [(0, 0), (8, 1), (9, 2), (10, 3)],
          (c.begin u l).strand e.1 = startThread { l with args := c.args } e.2 := fun e he => c.begin_strand u l he
      have runs := fun e he => congrArg Strand.run (strand e he)
      refine ⟨_, c.begin u l, (exec_taskStart hc hl hphase hheld hfrozen hmay hready).trans (congrArg _ hu), hmem,
        State.coach?_replaced hcu rfl, rfl, fun p hp => ?_, runs (0, 0) (by decide), runs (8, 1) (by decide),
        runs (9, 2) (by decide), runs (10, 3) (by decide), rfl, rfl, rfl, rfl, rfl, rfl⟩
      obtain ⟨e, he, rfl⟩ : ∃ e ∈ [(0, 0), (8, 1), (9, 2), (10, 3)], e.1 = p := List.mem_map.1 hp
      rw [strand e he]
      exact ⟨rfl, rfl, startThread_reg _ _⟩
    · exact exec_taskDrain_of_more hc hl hd hfrozen hheld ht
    · refine ⟨_, exec_taskDrain_of_last hc hl hd hfrozen hheld ht, State.dropCoach_coach? s c.quad, fun v hv => ?_⟩
      have hv' : (s.dropCoach c.quad).walker (quadDie c.quad) c.tag = some v := by
        rw [State.walker, State.dropCoach_walkers]
        exact hv
      exact State.walker_updWalker_self hv' (fun _ => rfl) (fun _ => rfl)
  · intro s die
    refine ⟨fun ht => ?_, fun ht => ⟨s.openWindow die, ?_, rfl, ?_, fun d hne => ?_, s.openWindow_coach? die⟩⟩
    · rw [exec_shareWindow, if_pos ht]
    · rw [exec_shareWindow, if_neg (Nat.not_lt.2 ht)]
    · exact (State.die_updDie _ _ _ _).trans (if_pos rfl)
    · exact (State.die_updDie _ _ _ _).trans (if_neg hne)

end Sys2Proof
end

section
/-! SUPPORT. VectorValues: the lanes of a cell, and the cells that a vector instruction writes (R154 to R158, R165 to R167). -/

namespace Sys2Proof.Machine

/-! ## The lanes of a cell (R156) -/

theorem laneWidth_mul_laneCount (y : BitVec 3) : laneWidth y * laneCount y = 32 := by
  unfold laneCount laneWidth
  split <;> rfl

/-- The number whose first n digits of w bits are those of f. -/
def packDigits (w : Nat) (f : Nat → Nat) (n : Nat) : Nat :=
  match n with
  | 0 => 0
  | n + 1 => packDigits w f n + f n % 2 ^ w * 2 ^ (w * n)

theorem packDigits_lt (w : Nat) (f : Nat → Nat) (n : Nat) : packDigits w f n < 2 ^ (w * n) := by
  induction n with
  | zero => exact Nat.zero_lt_one
  | succ n ih =>
    have hd : f n % 2 ^ w + 1 ≤ 2 ^ w := Nat.mod_lt _ (Nat.two_pow_pos w)
    calc packDigits w f n + f n % 2 ^ w * 2 ^ (w * n)
      _ < (f n % 2 ^ w + 1) * 2 ^ (w * n) := by rw [Nat.succ_mul]; omega
      _ ≤ 2 ^ w * 2 ^ (w * n) := Nat.mul_le_mul_right _ hd
      _ = 2 ^ (w * (n + 1)) := by rw [← pow_add, Nat.mul_succ, Nat.add_comm]

theorem packDigits_digit (w : Nat) (f : Nat → Nat) {n l : Nat} (hl : l < n) :
    packDigits w f n / 2 ^ (w * l) % 2 ^ w = f l % 2 ^ w := by
  induction n with
  | zero => exact absurd hl (Nat.not_lt_zero l)
  | succ n ih =>
    rw [packDigits]
    rcases Nat.lt_succ_iff_lt_or_eq.1 hl with hlt | rfl
    · obtain ⟨m, rfl⟩ := Nat.exists_eq_add_of_lt hlt
      have hp : f (l + m + 1) % 2 ^ w * 2 ^ (w * (l + m + 1)) =
          2 ^ (w * l) * (2 ^ w * (f (l + m + 1) % 2 ^ w * 2 ^ (w * m))) := by
        rw [show w * (l + m + 1) = w * l + (w + w * m) by ring, pow_add, pow_add]
        ring
      rw [hp, Nat.add_mul_div_left _ _ (Nat.two_pow_pos _), Nat.add_mul_mod_self_left, ih hlt]
    · rw [Nat.mul_comm, Nat.add_mul_div_left _ _ (Nat.two_pow_pos _), Nat.div_eq_of_lt (packDigits_lt w f l), Nat.zero_add,
        Nat.mod_mod]

theorem lanesOf_eq_packDigits (y : BitVec 3) (f : Nat → Nat × BitVec 9) :
    (lanesOf y f).1 = packDigits (laneWidth y) (fun l => (f l).1) (laneCount y) := by
  unfold lanesOf
  induction laneCount y with
  | zero => rfl
  | succ n ih => rw [List.range_succ, List.foldl_append, List.foldl_cons, List.foldl_nil, packDigits, ← ih]

theorem lanesOf_lt (y : BitVec 3) (f : Nat → Nat × BitVec 9) : (lanesOf y f).1 < 2 ^ 32 := by
  rw [lanesOf_eq_packDigits, ← laneWidth_mul_laneCount y]
  exact packDigits_lt ..

/-- A lane of a cell that has been put together from lanes. -/
theorem laneGet_lanesOf (y : BitVec 3) (f : Nat → Nat × BitVec 9) {l : Nat} (hl : l < laneCount y) :
    laneGet y (lanesOf y f).1 l = (f l).1 % 2 ^ laneWidth y := by
  rw [laneGet, lanesOf_eq_packDigits, packDigits_digit _ _ hl]

/-! ## Integer lanes (R165) -/

theorem wrapTo_natCast (w n : Nat) : wrapTo w n = n % 2 ^ w := by
  rw [wrapTo, BitVec.ofInt_natCast, BitVec.toNat_ofNat]

theorem Lane.int_add (w a b : Nat) (g : Bool) : ((Lane.int w g).add a b).1 = (a + b) % 2 ^ w := by
  rw [← wrapTo_natCast, Nat.cast_add]
  rfl

theorem Lane.int_mul (w a b : Nat) (g : Bool) : ((Lane.int w g).mul a b).1 = a * b % 2 ^ w := by
  rw [← wrapTo_natCast, Nat.cast_mul]
  rfl

theorem Lane.int_sub {w b : Nat} (a : Nat) (g : Bool) (hb : b ≤ 2 ^ w) :
    ((Lane.int w g).sub a b).1 = (a + (2 ^ w - b)) % 2 ^ w := by
  have hw : ((a + (2 ^ w - b) : Nat) : Int) = (a - b : Int) + (2 ^ w : Nat) := by
    rw [Nat.cast_add, Nat.cast_sub hb]
    ring
  rw [← wrapTo_natCast, hw]
  show (BitVec.ofInt w _).toNat = (BitVec.ofInt w _).toNat
  rw [BitVec.toNat_ofInt, BitVec.toNat_ofInt, Int.add_emod_right]

/-! ## Positions (R154) -/

theorem posOf_lt (dir : Nat) {j i : Nat} (hj : j < 32) (hi : i < 32) : (posOf dir j i).1 < 32 ∧ (posOf dir j i).2 < 32 := by
  unfold posOf
  split
  · exact ⟨hj, hi⟩
  · exact ⟨hi, hj⟩
  all_goals exact ⟨hi, Nat.mod_lt _ (by decide)⟩

/-- Two elements of an operand never share a cell. -/
theorem posOf_inj {dir j i j' i' : Nat} (hj : j < 32) (hj' : j' < 32) (hi' : i' < 32)
    (h : posOf dir j i = posOf dir j' i') : j = j' ∧ i = i' := by
  unfold posOf at h
  split at h <;> obtain ⟨h1, h2⟩ := Prod.mk.inj h <;> omega

theorem mem_positions {q : Nat × Nat} : q ∈ positions ↔ q.1 < 32 ∧ q.2 < 32 := by
  rw [positions, List.mem_map]
  constructor
  · rintro ⟨p, hp, rfl⟩
    have := List.mem_range.1 hp
    exact ⟨by omega, by omega⟩
  · rintro ⟨h1, h2⟩
    exact ⟨32 * q.1 + q.2, List.mem_range.2 (by omega), Prod.ext (by simp only; omega) (by simp only; omega)⟩

/-! ## Cells written one after the other (R160) -/

theorem Quadrant.cell_setCell (x : Quadrant) (t : Nat) {r c : Nat} (v : BitVec 32) (t' : Nat) {r' c' : Nat}
    (hr : r < 32) (hc : c < 32) (hr' : r' < 32) (hc' : c' < 32) :
    (x.setCell t r c v).cell t' r' c' = if t' = t ∧ r = r' ∧ c = c' then v else x.cell t' r' c' := by
  have hkey : t' * 1024 + r' * 32 + c' = t * 1024 + r * 32 + c ↔ t' = t ∧ r = r' ∧ c = c' := by omega
  simp only [← hkey]
  exact SMap.get_put ..

/-- The cells of some writes, their poison apart. -/
def Quadrant.setCells (x : Quadrant) (t : Nat) (ws : List CellWrite) : Quadrant :=
  ws.foldl (fun y w => y.setCell t w.row w.col (BitVec.ofNat 32 w.val)) x

/-- A cell that all the writes of it agree on. -/
theorem Quadrant.cell_setCells (t : Nat) (ws : List CellWrite) (x : Quadrant) (t' : Nat) {r c : Nat} {v : BitVec 32}
    (hb : ∀ w ∈ ws, w.row < 32 ∧ w.col < 32) (hr : r < 32) (hc : c < 32)
    (hv : t' = t → ∀ w ∈ ws, w.row = r → w.col = c → BitVec.ofNat 32 w.val = v) :
    (x.setCells t ws).cell t' r c =
      if t' = t ∧ ∃ w ∈ ws, w.row = r ∧ w.col = c then v else x.cell t' r c := by
  induction ws generalizing x with
  | nil => simp [Quadrant.setCells]
  | cons w ws ih =>
    obtain ⟨⟨hwr, hwc⟩, hb⟩ := List.forall_mem_cons.1 hb
    rw [Quadrant.setCells, List.foldl_cons]
    refine (ih _ hb (fun ht w hw => hv ht w (List.mem_cons_of_mem _ hw))).trans ?_
    rw [Quadrant.cell_setCell x t _ t' hwr hwc hr hc]
    simp only [List.exists_mem_cons_iff]
    by_cases hrest : t' = t ∧ ∃ w ∈ ws, w.row = r ∧ w.col = c
    · rw [if_pos hrest, if_pos ⟨hrest.1, .inr hrest.2⟩]
    · rw [if_neg hrest]
      by_cases hhere : t' = t ∧ w.row = r ∧ w.col = c
      · rw [if_pos hhere, if_pos ⟨hhere.1, .inl hhere.2⟩, hv hhere.1 w (List.mem_cons_self ..) hhere.2.1 hhere.2.2]
      · rw [if_neg hhere, if_neg (fun h => h.2.elim (fun e => hhere ⟨h.1, e⟩) (fun e => hrest ⟨h.1, e⟩))]

/-- Quadrants that differ only in tile registers and their poison. -/
def TilesOnly (x z : Quadrant) : Prop := z = { x with tiles := z.tiles, pTile := z.pTile }

theorem TilesOnly.trans {x y z : Quadrant} (h : TilesOnly x y) (g : TilesOnly y z) : TilesOnly x z := by
  unfold TilesOnly at *
  rw [g, h]

theorem TilesOnly.mask {x z : Quadrant} (h : TilesOnly x z) (j : Nat) : z.mask j = x.mask j := by
  rw [h]
  rfl

theorem Quadrant.setCells_tilesOnly (t : Nat) (ws : List CellWrite) (x : Quadrant) : TilesOnly x (x.setCells t ws) := by
  induction ws generalizing x with
  | nil => rfl
  | cons w ws ih => exact TilesOnly.trans (y := x.setCell ..) rfl (ih _)

theorem Quadrant.markRow_eq (x : Quadrant) (t : Nat) (ws : List CellWrite) (r : Nat) :
    x.markRow t ws r = { x with pTile := (x.markRow t ws r).pTile } := by
  unfold Quadrant.markRow
  dsimp only
  split <;> rfl

theorem Quadrant.foldl_markRow_eq (t : Nat) (ws : List CellWrite) (rs : List Nat) (x : Quadrant) :
    ∃ p, rs.foldl (fun y r => y.markRow t ws r) x = { x with pTile := p } := by
  induction rs generalizing x with
  | nil => exact ⟨_, rfl⟩
  | cons r rs ih =>
    obtain ⟨p, hp⟩ := ih (x.markRow t ws r)
    exact ⟨p, by rw [List.foldl_cons, hp, Quadrant.markRow_eq]⟩

theorem Quadrant.writeCells_eq (x : Quadrant) (t : Nat) (ws : List CellWrite) :
    ∃ p, x.writeCells t ws = { x.setCells t ws with pTile := p } := Quadrant.foldl_markRow_eq ..

theorem Quadrant.writeCells_tilesOnly (x : Quadrant) (t : Nat) (ws : List CellWrite) : TilesOnly x (x.writeCells t ws) := by
  obtain ⟨p, hp⟩ := x.writeCells_eq t ws
  exact (Quadrant.setCells_tilesOnly t ws x).trans (hp ▸ rfl)

theorem Quadrant.cell_writeCells (x : Quadrant) (t : Nat) {ws : List CellWrite} (t' : Nat) {r c : Nat} {v : BitVec 32}
    (hb : ∀ w ∈ ws, w.row < 32 ∧ w.col < 32) (hr : r < 32) (hc : c < 32)
    (hv : t' = t → ∀ w ∈ ws, w.row = r → w.col = c → BitVec.ofNat 32 w.val = v) :
    (x.writeCells t ws).cell t' r c = if t' = t ∧ ∃ w ∈ ws, w.row = r ∧ w.col = c then v else x.cell t' r c := by
  obtain ⟨p, hp⟩ := x.writeCells_eq t ws
  rw [← Quadrant.cell_setCells t ws x t' hb hr hc hv, hp]
  rfl

/-! ## The cells of an operand -/

theorem mem_tileOut_cells {d : BitVec 6} {f : Nat → Nat → Option (Nat × BitVec 9 × Bool)} {w : CellWrite} :
    w ∈ (tileOut d f).cells ↔ ∃ j i r, j < 32 ∧ i < 32 ∧ f j i = some r ∧
      w = { row := (posOf (opDir d) j i).1, col := (posOf (opDir d) j i).2, val := r.1, pois := r.2.2, full := true } := by
  simp only [tileOut, List.mem_map, List.mem_filterMap, Option.map_eq_some_iff]
  constructor
  · rintro ⟨_, ⟨⟨j, i⟩, hp, r, hr, rfl⟩, rfl⟩
    obtain ⟨hj, hi⟩ := mem_positions.1 hp
    exact ⟨j, i, r, hj, hi, hr, rfl⟩
  · rintro ⟨j, i, r, hj, hi, hr, rfl⟩
    exact ⟨_, ⟨(j, i), mem_positions.2 ⟨hj, hi⟩, r, hr, rfl⟩, rfl⟩

theorem tileOut_cells_lt (d : BitVec 6) (f : Nat → Nat → Option (Nat × BitVec 9 × Bool)) :
    ∀ w ∈ (tileOut d f).cells, w.row < 32 ∧ w.col < 32 := by
  intro w hw
  obtain ⟨j, i, r, hj, hi, -, rfl⟩ := mem_tileOut_cells.1 hw
  exact posOf_lt _ hj hi

/-- The cell of element (j, i), where the operand's cells are written from f. -/
theorem Quadrant.cell_writeCells_tileOut (x : Quadrant) (d : BitVec 6) (f : Nat → Nat → Option (Nat × BitVec 9 × Bool))
    {j i : Nat} (hj : j < 32) (hi : i < 32) :
    (x.writeCells (opTile d) (tileOut d f).cells).cell (opTile d) (posOf (opDir d) j i).1 (posOf (opDir d) j i).2 =
      ((f j i).map (fun r => BitVec.ofNat 32 r.1)).getD
        (x.cell (opTile d) (posOf (opDir d) j i).1 (posOf (opDir d) j i).2) := by
  obtain ⟨hr, hc⟩ := posOf_lt (opDir d) hj hi
  have own : ∀ w ∈ (tileOut d f).cells, w.row = (posOf (opDir d) j i).1 → w.col = (posOf (opDir d) j i).2 →
      ∃ r, f j i = some r ∧ w.val = r.1 := by
    intro w hw h1 h2
    obtain ⟨j', i', r, hj', hi', hf, rfl⟩ := mem_tileOut_cells.1 hw
    obtain ⟨rfl, rfl⟩ := posOf_inj hj' hj hi (Prod.ext h1 h2)
    exact ⟨r, hf, rfl⟩
  have agree : ∀ w ∈ (tileOut d f).cells, w.row = (posOf (opDir d) j i).1 → w.col = (posOf (opDir d) j i).2 →
      BitVec.ofNat 32 w.val = ((f j i).map (fun r => BitVec.ofNat 32 r.1)).getD
        (x.cell (opTile d) (posOf (opDir d) j i).1 (posOf (opDir d) j i).2) := by
    intro w hw h1 h2
    obtain ⟨r, hf, hval⟩ := own w hw h1 h2
    rw [hf, hval]
    rfl
  rw [Quadrant.cell_writeCells x _ _ (tileOut_cells_lt d f) hr hc (fun _ => agree)]
  split <;> rename_i hw
  · rfl
  · cases hf : f j i with
    | none => rfl
    | some r => exact absurd ⟨rfl, _, mem_tileOut_cells.2 ⟨j, i, r, hj, hi, hf, rfl⟩, rfl, rfl⟩ hw

/-- The other tile registers keep their cells. -/
theorem Quadrant.cell_writeCells_tileOut_of_ne (x : Quadrant) (d : BitVec 6)
    (f : Nat → Nat → Option (Nat × BitVec 9 × Bool)) {v r c : Nat} (hv : v ≠ opTile d) (hr : r < 32) (hc : c < 32) :
    (x.writeCells (opTile d) (tileOut d f).cells).cell v r c = x.cell v r c := by
  rw [Quadrant.cell_writeCells (v := 0#32) x _ _ (tileOut_cells_lt d f) hr hc (fun h => absurd h hv), if_neg (fun h => hv h.1)]

end Sys2Proof.Machine
end

section
/-! SUPPORT. VectorRetire: the start and the retirement of the vector unit's instructions, and what they leave (R154 to R158,
R161, R163, R165 to R176). -/

namespace Sys2Proof.Machine

/-! ## The start of an instruction (R163) -/

/-- The unit's first instruction has started. -/
def Coach.startHead (c : Coach) : Coach :=
  { c with unit := (c.unit.take 1).map (fun o => { o with started := true }) ++ c.unit.drop 1 }

theorem Coach.startHead_unit {c : Coach} {o : VecOp} {rest : List VecOp} (hu : c.unit = o :: rest) :
    c.startHead.unit = { o with started := true } :: rest := by
  rw [Coach.startHead, hu]
  rfl

theorem State.startHead_starts {s : State} {q : Nat} {c : Coach} {o : VecOp} {rest : List VecOp} (hc : s.coach? q = some c)
    (hu : c.unit = o :: rest) :
    ∃ c', (s.updCoach q Coach.startHead).coach? q = some c' ∧ c'.unit = { o with started := true } :: rest :=
  ⟨_, State.coach?_updCoach_self hc (fun _ => rfl), Coach.startHead_unit hu⟩

/-- An instruction other than VDEFER and VDRAIN starts as soon as the checker lets it. -/
theorem exec_vectorStart_of_ready {s : State} {q : Nat} {c : Coach} {o : VecOp} (hc : s.coach? q = some c)
    (hr : c.vecReady = some o) (hdefer : ∀ k d e sr y, o.ins ≠ .vdefer k d e sr y) (hdrain : ∀ k, o.ins ≠ .vdrain k) :
    exec (.vectorStart q) s = .next (s.updCoach q Coach.startHead) := by
  show execVectorStart q s = _
  simp only [execVectorStart, hc, hr]
  rfl

/-! ## What an instruction leaves in its coach and in the lead quadrant -/

/-- The lead quadrant with the cells and the mask that an instruction writes. -/
def Quadrant.takeVec (x : Quadrant) (r : VecOut) : Quadrant :=
  match r.mask with
  | some k => (x.writeCells r.tile r.cells).setMask k.1 k.2.1 k.2.2
  | none => x.writeCells r.tile r.cells

/-- The state with the cells, the mask and the bytes that an instruction writes. -/
def State.storeVec (s : State) (c : Coach) (r : VecOut) : State :=
  (s.updQuad c.quad (fun x => x.takeVec r)).scatter c r.buf r.bytes

/-- The coach with the register and the mask selection that an instruction writes. -/
def Coach.takeVec (c : Coach) (o : VecOp) (r : VecOut) : Coach :=
  let c := match r.scalar, o.result with
    | some v, some d => c.updStrand 9 (fun st => st.setReg d v.1 v.2)
    | _, _ => c
  match r.select with
  | some k => { c with maskSel := k }
  | none => c

theorem State.scatter_quadsOnly (s : State) (c : Coach) (b : Buf) (ws : List (Nat × Byte × Bool)) :
    QuadsOnly s (s.scatter c b ws) := by
  have bytes : ∀ (ws : List (Nat × Byte × Bool)) (s : State),
      QuadsOnly s (ws.foldl (fun s w => s.setBufByte c b w.1 w.2.1) s) := by
    intro ws
    induction ws with
    | nil => exact fun _ => rfl
    | cons w ws ih => exact fun s => QuadsOnly.trans (t := s.setBufByte c b w.1 w.2.1) rfl (ih _)
  have marks : ∀ (gs : List Nat) (s : State), QuadsOnly s (gs.foldl (fun s g => s.markScatter c b ws g) s) := by
    intro gs
    induction gs with
    | nil => exact fun _ => rfl
    | cons g gs ih => exact fun s => QuadsOnly.trans (t := s.markScatter c b ws g) rfl (ih _)
  exact (bytes ws s).trans (marks _ _)

theorem State.storeVec_quadsOnly (s : State) (c : Coach) (r : VecOut) : QuadsOnly s (s.storeVec c r) :=
  QuadsOnly.trans (t := s.updQuad c.quad (fun x => x.takeVec r)) rfl (State.scatter_quadsOnly ..)

theorem State.scatter_nil (s : State) (c : Coach) (b : Buf) : s.scatter c b [] = s := by
  rw [State.scatter, List.map_nil, List.eraseDups_nil]
  rfl

theorem State.storeVec_quad (s : State) (c : Coach) {r : VecOut} (hb : r.bytes = []) :
    (s.storeVec c r).quad c.quad = (s.quad c.quad).takeVec r := by
  rw [State.storeVec, hb, State.scatter_nil, State.quad_updQuad_self]

/-- Beside what it stores, an instruction changes coaches only. -/
theorem State.applyVec_eq (s : State) (c : Coach) (o : VecOp) (r : VecOut) :
    s.applyVec c o r = { s.storeVec c r with coaches := (s.applyVec c o r).coaches } := by
  unfold State.applyVec
  cases r.scalar <;> cases o.result <;> cases r.select <;> rfl

theorem State.applyVec_mem (s : State) (c : Coach) (o : VecOp) (r : VecOut) : (s.applyVec c o r).mem = s.mem := by
  have h : (s.applyVec c o r).mem = (s.storeVec c r).mem := by rw [State.applyVec_eq]
  rw [h, State.storeVec_quadsOnly]

theorem State.applyVec_quad (s : State) (c : Coach) (o : VecOp) {r : VecOut} (hb : r.bytes = []) :
    (s.applyVec c o r).quad c.quad = (s.quad c.quad).takeVec r := by
  rw [State.applyVec_eq, ← State.storeVec_quad s c hb]
  rfl

theorem State.applyVec_coach? {s : State} {c : Coach} (hc : s.coach? c.quad = some c) (o : VecOp) (r : VecOut) :
    (s.applyVec c o r).coach? c.quad = some (c.takeVec o r) := by
  have h0 : (s.storeVec c r).coach? c.quad = some c := by
    rw [State.storeVec_quadsOnly s c r]
    exact hc
  have hset := fun (d : BitVec 4) (v : Word × Bool) =>
    State.coach?_updCoach_self h0 (f := fun c => c.updStrand 9 (fun st => st.setReg d v.1 v.2)) (fun _ => rfl)
  unfold State.applyVec Coach.takeVec
  cases r.scalar <;> cases o.result <;> cases r.select
  case some.some.none v d => exact hset d v
  case some.some.some v d k => exact State.coach?_updCoach_self (hset d v) (fun _ => rfl)
  case none.none.some | none.some.some | some.none.some => exact State.coach?_updCoach_self h0 (fun _ => rfl)
  all_goals exact h0

/-! ## Retirement (R161) -/

/-- The unit goes on to the next instruction: the token that the retired one owes arrives, and its flags stick. -/
def Coach.retireHead (c : Coach) (push : Nat) (fl : BitVec 9) (rest : List VecOp) : Coach :=
  ({ c with unit := rest }.enginePush 2 push).stickyOf 2 fl

theorem Coach.enginePush_rest (c : Coach) (i push : Nat) :
    (c.enginePush i push).rest = { c.rest with owed := (c.enginePush i push).owed } := by
  unfold Coach.enginePush
  split
  · rfl
  · have hr := Coach.pushToken_rest
      (c.setOwed (fifoKey i (selected i push)) (c.owedCount (fifoKey i (selected i push)) - 1)) i (selected i push)
    exact hr.trans (congrArg (fun w => { c.rest with owed := w }) (congrArg Coach.owed hr).symm)

theorem Coach.enginePush_strand_rest (c : Coach) (i push p : Nat) :
    ((c.enginePush i push).strand p).rest = (c.strand p).rest := by
  unfold Coach.enginePush
  split
  · rfl
  · exact Coach.strand_latch_rest ..

section RetireHead

variable (c : Coach) (push : Nat) (fl : BitVec 9) (rest : List VecOp)

theorem Coach.retireHead_quad : (c.retireHead push fl rest).quad = c.quad :=
  (congrArg Coach.quad (Coach.enginePush_rest { c with unit := rest } 2 push) :)

theorem Coach.retireHead_unit : (c.retireHead push fl rest).unit = rest :=
  (congrArg Coach.unit (Coach.enginePush_rest { c with unit := rest } 2 push) :)

theorem Coach.retireHead_maskSel : (c.retireHead push fl rest).maskSel = c.maskSel :=
  (congrArg Coach.maskSel (Coach.enginePush_rest { c with unit := rest } 2 push) :)

theorem Coach.retireHead_reg (p : Nat) (r : BitVec 4) : ((c.retireHead push fl rest).strand p).reg r = (c.strand p).reg r :=
  (congrArg (fun st => st.reg r) (Coach.enginePush_strand_rest { c with unit := rest } 2 push p) :)

end RetireHead

/-- What the retirement of a coach's instruction leaves in the part, and in the coach, which is c' then. -/
structure VecRetired (s u : State) (c c' : Coach) (o : VecOp) (rest : List VecOp) : Prop where
  coach  : u.coach? c.quad = some c'
  unit   : c'.unit = rest
  mem    : u.mem = s.mem
  select : c'.maskSel = (vecOut s c o).select.getD c.maskSel
  scalar : ∀ v sr, (vecOut s c o).scalar = some v → o.result = some sr →
    (c'.strand 9).reg sr = if sr = 0#4 then 0#64 else v.1
  quad   : (vecOut s c o).bytes = [] → u.quad c.quad = (s.quad c.quad).takeVec (vecOut s c o)

theorem Coach.takeVec_maskSel (c : Coach) (o : VecOp) (r : VecOut) : (c.takeVec o r).maskSel = r.select.getD c.maskSel := by
  unfold Coach.takeVec
  cases r.scalar <;> cases o.result <;> cases r.select <;> rfl

theorem Coach.takeVec_reg (c : Coach) {o : VecOp} {r : VecOut} {v : Word × Bool} {sr : BitVec 4} (hv : r.scalar = some v)
    (hr : o.result = some sr) : ((c.takeVec o r).strand 9).reg sr = if sr = 0#4 then 0#64 else v.1 := by
  have hs : (c.takeVec o r).strand 9 = (c.strand 9).setReg sr v.1 v.2 := by
    have hset : (c.updStrand 9 (fun st => st.setReg sr v.1 v.2)).strand 9 = (c.strand 9).setReg sr v.1 v.2 :=
      (Coach.strand_updStrand ..).trans (if_pos rfl)
    unfold Coach.takeVec
    rw [hv, hr]
    cases r.select <;> exact hset
  rw [hs, Strand.reg_setReg]
  by_cases h0 : sr = 0#4
  · rw [if_neg (fun h => h.2 h0), if_pos h0, h0, Strand.reg_s0]
  · rw [if_pos ⟨rfl, h0⟩, if_neg h0]

/-- The state in which a coach's instruction has taken effect and retired, its charge apart. -/
def State.retireVec (s : State) (c : Coach) (o : VecOp) (rest : List VecOp) : State :=
  (s.applyVec c o (vecOut s c o)).updCoach c.quad (fun x => x.retireHead o.push (vecOut s c o).flags rest)

theorem State.retireVec_mem (s : State) (c : Coach) (o : VecOp) (rest : List VecOp) : (s.retireVec c o rest).mem = s.mem :=
  s.applyVec_mem c o _

theorem State.retireVec_quad (s : State) (c : Coach) {o : VecOp} (rest : List VecOp) (hb : (vecOut s c o).bytes = []) :
    (s.retireVec c o rest).quad c.quad = (s.quad c.quad).takeVec (vecOut s c o) := s.applyVec_quad c o hb

theorem State.retireVec_coach? {s : State} {c : Coach} (hc : s.coach? c.quad = some c) (o : VecOp) (rest : List VecOp) :
    (s.retireVec c o rest).coach? c.quad =
      some ((c.takeVec o (vecOut s c o)).retireHead o.push (vecOut s c o).flags rest) :=
  State.coach?_updCoach_self (State.applyVec_coach? hc o _) (fun _ => Coach.retireHead_quad ..)

/-- An instruction that has started, and whose push finds room, retires. -/
theorem exec_vectorRetire {s : State} {c : Coach} {o : VecOp} {rest : List VecOp} (hc : s.coach? c.quad = some c)
    (hu : c.unit = o :: rest) (hs : o.started = true) (hp : c.pushHeld 2 o.push = false) :
    ∃ u c', exec (.vectorRetire c.quad) s = .next u ∧ VecRetired s u c c' o rest := by
  have hx : exec (.vectorRetire c.quad) s = .next
      (if o.extents.isEmpty then s.retireVec c o rest else (s.retireVec c o rest).charge c.slice .vectorTile 1) := by
    show execVectorRetire c.quad s = _
    simp only [execVectorRetire, hc, hu]
    rw [if_neg (by simp [hs, hp])]
    rfl
  obtain ⟨acc, hacc⟩ : ∃ acc, (if o.extents.isEmpty then s.retireVec c o rest
      else (s.retireVec c o rest).charge c.slice .vectorTile 1) = { s.retireVec c o rest with accounts := acc } := by
    split
    · exact ⟨(s.retireVec c o rest).accounts, rfl⟩
    · exact ⟨_, rfl⟩
  refine ⟨_, _, hx.trans (congrArg _ hacc), State.retireVec_coach? hc o rest, Coach.retireHead_unit ..,
    s.retireVec_mem c o rest, ?_, fun v sr hv hr => ?_, s.retireVec_quad c rest⟩
  · rw [Coach.retireHead_maskSel, Coach.takeVec_maskSel]
  · rw [Coach.retireHead_reg, Coach.takeVec_reg c hv hr]

end Sys2Proof.Machine
end

section
/-! SUPPORT. VectorCells: the cells, masks and registers that each vector instruction leaves when it retires (R154 to R158,
R165 to R176). -/

namespace Sys2Proof.Machine

/-! ## Cells of an operand -/

theorem Quadrant.at_lt (x : Quadrant) (o : BitVec 6) (j i : Nat) : x.at_ o j i < 2 ^ 32 := BitVec.isLt _

section Written

variable (x : Quadrant) (d : BitVec 6) {f : Nat → Nat → Option (Nat × BitVec 9 × Bool)} {j i : Nat} (hj : j < 32)
  (hi : i < 32)
include hj hi

theorem Quadrant.at_writeCells_of_some {r : Nat × BitVec 9 × Bool} (hf : f j i = some r) :
    (x.writeCells (opTile d) (tileOut d f).cells).at_ d j i = r.1 % 2 ^ 32 := by
  rw [Quadrant.at_, Quadrant.cell_writeCells_tileOut x d f hj hi, hf]
  exact BitVec.toNat_ofNat ..

theorem Quadrant.at_writeCells_of_none (hf : f j i = none) :
    (x.writeCells (opTile d) (tileOut d f).cells).at_ d j i = x.at_ d j i := by
  rw [Quadrant.at_, Quadrant.cell_writeCells_tileOut x d f hj hi, hf]
  rfl

end Written

/-- Cells of d at its active positions: their values, flags and poison. -/
def activeOut (m : BitVec 1024) (d : BitVec 6) (f : Nat → Nat → Nat) (fl : Nat → Nat → BitVec 9)
    (p : Nat → Nat → Bool) : VecOut :=
  tileOut d (fun j i => if maskAt m d j i then some (f j i, fl j i, p j i) else none)

section Active

variable (x : Quadrant) (m : BitVec 1024) (p : Bool) (d a b : BitVec 6) (y : BitVec 3)

theorem binOut_eq (f : Nat → Nat → Nat × BitVec 9) : ∃ fl g, binOut x m p d a b y f =
    activeOut m d (fun j i => (lanesOf y (fun l => f (laneGet y (x.at_ a j i) l) (laneGet y (x.at_ b j i) l))).1) fl g :=
  ⟨fun j i => (lanesOf y (fun l => f (laneGet y (x.at_ a j i) l) (laneGet y (x.at_ b j i) l))).2,
    fun j i => p || x.poisAt a j i || x.poisAt b j i, rfl⟩

theorem unOut_eq (f : Nat → Nat × BitVec 9) : ∃ fl g, unOut x m p d a y f =
    activeOut m d (fun j i => (lanesOf y (fun l => f (laneGet y (x.at_ a j i) l))).1) fl g :=
  ⟨fun j i => (lanesOf y (fun l => f (laneGet y (x.at_ a j i) l))).2, fun j i => p || x.poisAt a j i, rfl⟩

end Active

/-! ## Masks -/

theorem Quadrant.mask_setMask (x : Quadrant) (m : Nat) (v : BitVec 1024) (p : Bool) (j : Nat) :
    (x.setMask m v p).mask j = if j = m ∧ m ≠ 0 then v else x.mask j := by
  unfold Quadrant.mask
  by_cases hj : j = 0
  · rw [if_pos hj, if_pos hj, if_neg (fun h => h.2 (h.1.symm.trans hj))]
  · rw [if_neg hj, if_neg hj]
    refine (SMap.get_put ..).trans ?_
    by_cases hm : j = m
    · rw [if_pos hm, if_pos ⟨hm, hm ▸ hj⟩]
    · rw [if_neg hm, if_neg (fun h => hm h.1)]

/-! ## What an instruction does depends on its operation by the word and what it captured -/

theorem vecOut_of_ins {s : State} {c : Coach} {o : VecOp} {i : Instr} {r : VecOut} (ho : o.ins = i)
    (hr : vecOut s c { o with ins := i } = r) : vecOut s c o = r := by
  rw [← hr, ← ho]

theorem VecOp.result_of_ins {o : VecOp} {i : Instr} (ho : o.ins = i) : o.result = VecOp.result { o with ins := i } := by
  rw [← ho]

section Whole

variable {s : State} {c : Coach} {o : VecOp} {k : Tok} {d a b n : BitVec 6} {y : BitVec 3}

theorem vecOut_vmov (ho : o.ins = .vmov k d a y) : vecOut s c o =
    activeOut ((s.quad c.quad).mask c.maskSel.toNat) d (fun j i => (s.quad c.quad).at_ a j i) (fun _ _ => 0#9)
      (fun j i => (s.quad c.quad).maskPois c.maskSel.toNat || (s.quad c.quad).poisAt a j i) :=
  vecOut_of_ins ho rfl

theorem vecOut_vrot (ho : o.ins = .vrot k d a n y) : vecOut s c o =
    activeOut ((s.quad c.quad).mask c.maskSel.toNat) d (fun j i => (s.quad c.quad).at_ a j ((i + n.toNat) % 32))
      (fun _ _ => 0#9)
      (fun j i => (s.quad c.quad).maskPois c.maskSel.toNat || (s.quad c.quad).poisAt a j ((i + n.toNat) % 32)) :=
  vecOut_of_ins ho rfl

/-- An index of VPERM beyond the vector gives zero (R176). -/
theorem vecOut_vperm (ho : o.ins = .vperm k d a b y) :
    let x := s.quad c.quad
    let p := x.maskPois c.maskSel.toNat
    vecOut s c o = activeOut (x.mask c.maskSel.toNat) d (fun j i => if x.at_ b j i < 32 then x.at_ a j (x.at_ b j i) else 0)
      (fun _ _ => 0#9)
      (fun j i => if x.at_ b j i < 32 then p || x.poisAt b j i || x.poisAt a j (x.at_ b j i) else p || x.poisAt b j i) := by
  refine vecOut_of_ins ho ?_
  rw [vecOut]
  refine congrArg (tileOut d) (funext fun j => funext fun i => ?_)
  dsimp only
  split
  · split <;> rfl
  · rfl

end Whole

/-! ## Retirement -/

/-- The active cells of d hold f; the other cells, the masks and the mask selection are as they were. -/
def WritesCells (x z : Quadrant) (c c' : Coach) (d : BitVec 6) (f : Nat → Nat → Nat) : Prop :=
  let act := fun (j i : Nat) => maskAt (x.mask c.maskSel.toNat) d j i = true
  (∀ j, z.mask j = x.mask j) ∧ c'.maskSel = c.maskSel ∧
    (∀ j i, j < 32 → i < 32 → (act j i → z.at_ d j i = f j i) ∧ (¬act j i → z.at_ d j i = x.at_ d j i)) ∧
    ∀ v j i, v < 16 → j < 32 → i < 32 → v ≠ opTile d → z.cell v j i = x.cell v j i

section Retired

variable {s u : State} {c c' : Coach} {o : VecOp} {rest : List VecOp} (h : VecRetired s u c c' o rest)
include h

theorem VecRetired.quad_of_tileOut {d : BitVec 6} {f : Nat → Nat → Option (Nat × BitVec 9 × Bool)}
    (ho : vecOut s c o = tileOut d f) :
    u.quad c.quad = (s.quad c.quad).writeCells (opTile d) (tileOut d f).cells := by
  rw [h.quad (ho ▸ rfl), ho]
  rfl

theorem VecRetired.writesCells {d : BitVec 6} {f : Nat → Nat → Nat} {fl : Nat → Nat → BitVec 9}
    {p : Nat → Nat → Bool} (ho : vecOut s c o = activeOut ((s.quad c.quad).mask c.maskSel.toNat) d f fl p)
    (hf : ∀ j i, f j i < 2 ^ 32) :
    WritesCells (s.quad c.quad) (u.quad c.quad) c c' d f := by
  rw [h.quad_of_tileOut ho]
  refine ⟨fun j => (Quadrant.writeCells_tilesOnly ..).mask j, ?_, fun j i hj hi => ⟨fun ha => ?_, fun ha => ?_⟩,
    fun v j i _ hj hi hv => Quadrant.cell_writeCells_tileOut_of_ne _ d _ hv hj hi⟩
  · rw [h.select, ho]
    rfl
  · rw [Quadrant.at_writeCells_of_some _ d hj hi (if_pos ha), Nat.mod_eq_of_lt (hf j i)]
  · exact Quadrant.at_writeCells_of_none _ d hj hi (if_neg ha)

theorem VecRetired.writesCells_of_binOut {d a b : BitVec 6} {y : BitVec 3} {p : Bool} {f : Nat → Nat → Nat × BitVec 9}
    (ho : vecOut s c o = binOut (s.quad c.quad) ((s.quad c.quad).mask c.maskSel.toNat) p d a b y f) :
    WritesCells (s.quad c.quad) (u.quad c.quad) c c' d (fun j i =>
      (lanesOf y (fun l => f (laneGet y ((s.quad c.quad).at_ a j i) l) (laneGet y ((s.quad c.quad).at_ b j i) l))).1) := by
  obtain ⟨fl, g, hb⟩ := binOut_eq (s.quad c.quad) ((s.quad c.quad).mask c.maskSel.toNat) p d a b y f
  exact h.writesCells (ho.trans hb) (fun _ _ => lanesOf_lt ..)

theorem VecRetired.writesCells_of_unOut {d a : BitVec 6} {y : BitVec 3} {p : Bool} {f : Nat → Nat × BitVec 9}
    (ho : vecOut s c o = unOut (s.quad c.quad) ((s.quad c.quad).mask c.maskSel.toNat) p d a y f) :
    WritesCells (s.quad c.quad) (u.quad c.quad) c c' d (fun j i =>
      (lanesOf y (fun l => f (laneGet y ((s.quad c.quad).at_ a j i) l))).1) := by
  obtain ⟨fl, g, hb⟩ := unOut_eq (s.quad c.quad) ((s.quad c.quad).mask c.maskSel.toNat) p d a y f
  exact h.writesCells (ho.trans hb) (fun _ _ => lanesOf_lt ..)

theorem VecRetired.writesCells_of_bitOut {d a b : BitVec 6} {p : Bool} {f : Nat → Nat → Nat}
    (ho : vecOut s c o = bitOut (s.quad c.quad) ((s.quad c.quad).mask c.maskSel.toNat) p d a b f)
    (hf : ∀ v w, v < 2 ^ 32 → w < 2 ^ 32 → f v w < 2 ^ 32) :
    WritesCells (s.quad c.quad) (u.quad c.quad) c c' d
      (fun j i => f ((s.quad c.quad).at_ a j i) ((s.quad c.quad).at_ b j i)) :=
  h.writesCells (fl := fun _ _ => 0#9)
    (p := fun j i => p || (s.quad c.quad).poisAt a j i || (s.quad c.quad).poisAt b j i) ho
    (fun _ _ => hf _ _ (Quadrant.at_lt ..) (Quadrant.at_lt ..))

/-- VSEL takes every cell of the destination from one source or the other (R169). -/
theorem VecRetired.vsel {k : Tok} {d a b : BitVec 6} {y : BitVec 3} (ho : o.ins = .vsel k d a b y) {j i : Nat} (hj : j < 32)
    (hi : i < 32) :
    let x := s.quad c.quad
    let active := maskAt (x.mask c.maskSel.toNat) d j i = true
    (active → (u.quad c.quad).at_ d j i = x.at_ a j i) ∧ (¬active → (u.quad c.quad).at_ d j i = x.at_ b j i) := by
  have hq := h.quad_of_tileOut (vecOut_of_ins ho (by rw [vecOut]))
  refine ⟨fun ha => ?_, fun ha => ?_⟩
  · rw [hq, Quadrant.at_writeCells_of_some _ d hj hi (if_pos ha), Nat.mod_eq_of_lt (Quadrant.at_lt ..)]
  · rw [hq, Quadrant.at_writeCells_of_some _ d hj hi (if_neg ha), Nat.mod_eq_of_lt (Quadrant.at_lt ..)]

/-- VCLR leaves zero in every cell (R171). -/
theorem VecRetired.vclr {k : Tok} {t : BitVec 4} (ho : o.ins = .vclr k t) {j i : Nat} (hj : j < 32) (hi : i < 32) :
    (u.quad c.quad).cell t.toNat j i = 0#32 := by
  have hd : (t ++ 0#2).toNat = 4 * t.toNat := by
    rw [BitVec.toNat_append, Nat.shiftLeft_eq, BitVec.toNat_ofNat, Nat.zero_mod, Nat.or_zero, Nat.mul_comm]
  have htile : opTile (t ++ 0#2) = t.toNat := by rw [opTile, hd, Nat.mul_div_cancel_left _ (by decide)]
  have hdir : opDir (t ++ 0#2) = 0 := by rw [opDir, hd, Nat.mul_mod_right]
  have hcell := Quadrant.cell_writeCells_tileOut (s.quad c.quad) (t ++ 0#2) (fun _ _ => some (0, 0#9, false)) hj hi
  rw [← h.quad_of_tileOut (vecOut_of_ins ho (by rw [vecOut])), htile, hdir] at hcell
  exact hcell

/-- A MOPS instruction writes one mask; m0 stays all-ones (R21, R172). -/
theorem VecRetired.writesMask {m : BitVec 3} {v : BitVec 1024} {srcs : List (BitVec 3)}
    (ho : vecOut s c o = mopsOut (s.quad c.quad) m srcs v) :
    let x := s.quad c.quad
    let z := u.quad c.quad
    (m ≠ 0#3 → z.mask m.toNat = v) ∧ (∀ j, j < 8 → j ≠ m.toNat → z.mask j = x.mask j) ∧
      ∀ t j i, t < 16 → j < 32 → i < 32 → z.cell t j i = x.cell t j i := by
  have hq : u.quad c.quad = ((s.quad c.quad).writeCells 0 []).setMask m.toNat v
      (srcs.any (fun m => (s.quad c.quad).maskPois m.toNat)) := by
    rw [h.quad (ho ▸ rfl), ho]
    rfl
  refine ⟨fun hm => ?_, fun j _ hj => ?_, fun t j i _ hj hi => ?_⟩
  · rw [hq, Quadrant.mask_setMask, if_pos ⟨rfl, fun h0 => hm (BitVec.eq_of_toNat_eq h0)⟩]
  · rw [hq, Quadrant.mask_setMask, if_neg (fun e => hj e.1)]
    exact (Quadrant.writeCells_tilesOnly ..).mask j
  · rw [hq]
    refine (Quadrant.cell_writeCells (v := 0#32) (s.quad c.quad) 0 t (by simp) hj hi (by simp)).trans ?_
    simp

/-- MPOPC counts the bits of a mask (R172). -/
theorem VecRetired.mpopc {k : Tok} {sr : BitVec 4} {m : BitVec 3} (ho : o.ins = .mpopc k sr m) :
    (c'.strand 9).reg sr = if sr = 0#4 then 0#64
      else word ((List.range 1024).filter (fun i => ((s.quad c.quad).mask m.toNat).getLsbD i)).length := by
  let count := word ((List.range 1024).filter (fun i => ((s.quad c.quad).mask m.toNat).getLsbD i)).length
  have hv : vecOut s c o = { scalar := some (count, (s.quad c.quad).maskPois m.toNat) } := vecOut_of_ins ho (by rw [vecOut])
  exact h.scalar (count, (s.quad c.quad).maskPois m.toNat) sr (congrArg VecOut.scalar hv) (VecOp.result_of_ins ho)

theorem VecRetired.setm {k : Tok} {m : BitVec 3} (ho : o.ins = .setm k m) : c'.maskSel = m := by
  rw [h.select, vecOut_of_ins (r := { select := some m }) ho rfl]
  rfl

end Retired

end Sys2Proof.Machine

namespace Sys2Proof

open Machine

/-- Settles O34: what each instruction writes by `VecRetired.writesCells` or `VecRetired.writesMask`, from the cells and
masks that `vecOut` gives for it. -/
theorem vectorResults : Obligations.VectorResults := by
  refine ⟨fun y f l hl => laneGet_lanesOf y f hl,
    fun w a b g _ => ⟨Lane.int_add w a b g, Lane.int_mul w a b g, Lane.int_sub a g⟩, ?_⟩
  intro s q c o rest k d a b n t sr y m p r hc hu
  obtain rfl := State.coach?_quad hc
  refine ⟨fun hs hp => ?_, fun hr hdefer hdrain => ?_⟩
  · obtain ⟨u, c', hx, h⟩ := exec_vectorRetire hc hu hs hp
    refine ⟨u, c', hx, h.coach, h.unit, h.mem, ?_⟩
    intro x z act keepsMasks cells two one shifts masks
    have ofTwo {f} {p} (ho : vecOut s c o = binOut x (x.mask c.maskSel.toNat) p d a b y f) : two f :=
      h.writesCells_of_binOut ho
    have ofOne {f} {p} (ho : vecOut s c o = unOut x (x.mask c.maskSel.toNat) p d a y f) : one f := h.writesCells_of_unOut ho
    exact ⟨fun ho => ofTwo (vecOut_of_ins ho rfl), fun ho => ofTwo (vecOut_of_ins ho rfl),
      fun ho => ofTwo (vecOut_of_ins ho rfl), fun ho => ofTwo (vecOut_of_ins ho rfl), fun ho => ofTwo (vecOut_of_ins ho rfl),
      fun ho => ofOne (vecOut_of_ins ho rfl), fun ho => ofOne (vecOut_of_ins ho rfl),
      fun ho => ofOne (f := fun v => (shiftLane .left (laneWidth y) v n.toNat, 0#9)) (vecOut_of_ins ho rfl),
      fun ho => ofOne (f := fun v => (shiftLane .right (laneWidth y) v n.toNat, 0#9)) (vecOut_of_ins ho rfl),
      fun ho => h.writesCells_of_bitOut (vecOut_of_ins ho rfl) (fun _ _ _ hw => Nat.and_lt_two_pow _ hw),
      fun ho => h.writesCells_of_bitOut (vecOut_of_ins ho rfl) (fun _ _ => Nat.or_lt_two_pow),
      fun ho => h.writesCells_of_bitOut (vecOut_of_ins ho rfl) (fun _ _ => Nat.xor_lt_two_pow),
      fun ho => h.writesCells (vecOut_vmov ho) (fun _ _ => x.at_lt ..),
      fun ho => h.writesCells (vecOut_vrot ho) (fun _ _ => x.at_lt ..),
      fun ho => h.writesCells (vecOut_vperm ho) (fun _ _ => by split; exacts [x.at_lt .., by decide]),
      fun ho j i hj hi => h.vsel ho hj hi, fun ho j i hj hi => h.vclr ho hj hi,
      fun ho => h.setm ho, fun ho => h.writesMask (vecOut_of_ins ho rfl), fun ho => h.writesMask (vecOut_of_ins ho rfl),
      fun ho => h.writesMask (vecOut_of_ins ho rfl), fun ho => h.writesMask (vecOut_of_ins ho rfl),
      fun ho => h.mpopc ho⟩
  · rw [exec_vectorStart_of_ready hc hr hdefer hdrain]
    obtain ⟨c', hc', hunit⟩ := State.startHead_starts hc hu
    exact ⟨_, c', rfl, hc', hunit⟩

end Sys2Proof
end

section
/-! SUPPORT. TileMoves: the entry of VLD, VST, VDEFER and VCVT into the vector unit, and the deferral queue (R42, R159, R173,
R177, R180, R181, R382). -/

namespace Sys2Proof.Machine

/-! ## The checks of a tile move (R42, R177) -/

theorem tileMoveCheck_takeToken (s : State) (c : Coach) (k : Tok) (st : SMap Strand) (ff : SMap Nat) (d : Desc) (t : BitVec 6)
    (y : BitVec 3) (spaces : List Nat) (shift : Word) :
    tileMoveCheck (s.takeToken k) (c.withThreads st ff) d t y spaces shift = tileMoveCheck s c d t y spaces shift := by
  rw [State.takeToken_eq]
  rfl

theorem firstFail_cons (b : Bool) (code : Nat) (l : List (Bool × Nat)) :
    firstFail ((b, code) :: l) = if b then firstFail l else some code := by
  cases b <;> rfl

theorem tileMoveCheck_of_check1 (s : State) (c : Coach) {d : Desc} (t : BitVec 6) (y : BitVec 3) (spaces : List Nat)
    (shift : Word) (h : d.check1 = false) : tileMoveCheck s c d t y spaces shift = some 0x0204 := by
  rw [tileMoveCheck, firstFail_cons, h]
  rfl

theorem tileMoveCheck_of_space (s : State) (c : Coach) {d : Desc} (t : BitVec 6) (y : BitVec 3) {spaces : List Nat}
    (shift : Word) (h : d.check1 = true) (hs : spaces.contains d.space = false) :
    tileMoveCheck s c d t y spaces shift = some 0x0206 := by
  rw [tileMoveCheck, firstFail_cons, if_pos h, firstFail_cons, hs, Bool.and_false, Bool.false_and]
  rfl

/-! ## Entry into the unit (R159, R177, R180) -/

section Word

variable {fs : List Nat} {i : Instr} {k : Tok} {s : State} {c : Coach}

/-- A word at the unit's door, where it has taken its token. -/
theorem enterUnit_takeToken (s : State) (c : Coach) (i : Instr) (k : Tok) (st : SMap Strand) (ff : SMap Nat) (d : Desc)
    (v : Word) (p : Bool) (es : List Extent) (precise : Bool) :
    enterUnit (s.takeToken k) (c.withThreads st ff) i k d v p es precise =
      if 2 ≤ c.unit.length then .wait (s.takeToken k) .vectorUnit
      else if (!es.isEmpty && c.checkerFull) = true then .wait (s.takeToken k) .checker
      else accept (s.takeToken k) (c.withThreads st ff) k precise (fun x seq => VecOp.enter
        { ins := i, desc := d, sval := v, spois := p, pc := s.me.pc, push := k.push.toNat, seq := seq, extents := es,
          started := false, loops := s.me.loops } x) := by
  rw [enterUnit, State.takeToken_pc, State.takeToken_me]
  rfl

variable {t e : BitVec 6} {sr : BitVec 4} {y : BitVec 3} {spaces : List Nat} {rd wr precise : Bool}

/-- A tile move consumes its register, refuses a descriptor out of scope, checks the rest of it, and enters the unit. -/
theorem tileMove_outcomes (h : s.Issues (xWord fs true) i k) (hc : s.myCoach? = some c)
    (hex : exec i = tileMove fs i k t e sr y spaces rd wr precise) :
    let desc := c.desc e.toNat
    let check := tileMoveCheck s c desc t y spaces (s.reg sr)
    let unscoped := spaces.contains desc.space = true ∧ desc.scopeBad = true
    let o : VecOp :=
      { ins := i, desc := desc, sval := s.reg sr, spois := false, pc := s.me.pc, push := k.push.toNat, seq := c.nextSeq,
        extents := tileExtent t rd wr :: desc.extentAt (word desc.base + s.reg sr).toNat wr rd, started := false,
        loops := s.me.loops }
    (s.pois sr = true → Traps i s k 0x0401 none none) ∧
    (s.pois sr = false → unscoped → Traps i s k 0x0201 (some s.me.pc) (some ((instrWord i).setWidth 64))) ∧
    (s.pois sr = false → ¬unscoped →
      (∀ code, check = some code → Traps i s k code none none) ∧
      (check = none → 2 ≤ c.unit.length → Parks i s k .vectorUnit) ∧
      (check = none → c.unit.length < 2 → c.checkerFull = true → Parks i s k .checker) ∧
      (check = none → c.unit.length < 2 → c.checkerFull = false →
        Accepts i s (s.takeToken k) k 1 c.nextSeq precise o.enter)) := by
  intro desc check unscoped o
  obtain ⟨st, ff, -, he⟩ := exec_of_withCoach h hc hex
  simp only [consume, State.takeToken_pois, State.takeToken_reg, desc_withThreads, tileMoveCheck_takeToken,
    enterUnit_takeToken, Bool.and_eq_true] at he
  refine ⟨fun hp => ?_, fun hp hu => ?_, fun hp hu => ⟨fun code hk => ?_, fun hk h2 => ?_, fun hk h2 hf => ?_,
    fun hk h2 hf => ?_⟩⟩
  · rw [if_pos hp] at he
    exact traps_of_fault he
  all_goals rw [if_neg (by simp [hp])] at he
  · rw [if_pos hu] at he
    exact traps_of_undefUse rfl he
  all_goals rw [if_neg hu, show tileMoveCheck s c (c.desc e.toNat) t y spaces (s.reg sr) = _ from hk] at he; dsimp only at he
  · exact traps_of_fault he
  · rw [if_pos h2] at he
    exact parks_of_wait he
  all_goals rw [if_neg (Nat.not_le.2 h2)] at he
  · rw [if_pos ⟨rfl, hf⟩] at he
    exact parks_of_wait he
  · rw [if_neg (by simp [hf])] at he
    exact accepts_of_accept o.enter_queues h hc ⟨_, by rw [State.takeToken_eq]⟩ rfl rfl he

end Word

/-! ## VCVT (R71, R173) -/

theorem State.updMyStream_me (s : State) (f : Stream → Stream) : (s.updMyStream f).me = s.me := by
  rw [State.me, State.updMyStream, State.updStream_cur, State.strand?_updStream]
  rfl

theorem State.updMyStream_isSome (s : State) (f : Stream → Stream) :
    ((s.updMyStream f).strand? (s.updMyStream f).cur).isSome = (s.strand? s.cur).isSome := by
  rw [State.updMyStream, State.updStream_cur, State.strand?_updStream]

/-- An accepted word's thread moves past it, whatever else its acceptance has changed. -/
theorem enters_of_queued_me {i : Instr} {s u : State} {k : Tok} {n : Nat} {pc : Word} {th : ThreadId}
    (hme : u.me = (s.takeToken k).me) (hsome : (u.strand? u.cur).isSome = true)
    (he : exec i s = (Res.queued u none).apply k n pc th) : Enters i s u n := by
  have hm : (u.updMe (Strand.advance n)).settled.me = Strand.advance n (s.takeToken k).me := by
    rw [State.settled_me, State.me_updMe _ _ hsome, hme]
  refine ⟨_, he, ⟨fun r => ?_, fun r => ?_⟩, ?_, (State.updMe_only _ _).trans (State.settled_only _)⟩
  · rw [State.reg, hm, ← State.takeToken_reg s k r]
    rfl
  · rw [State.pois, hm, ← State.takeToken_pois s k r]
    rfl
  · unfold Moved Leaves
    rw [hm, State.takeToken_me]
    rfl

/-- Acceptance out of precise mode. -/
theorem accept_of_not_precise {w : State} {c : Coach} (k : Tok) (enter : Coach → Nat → Coach)
    (hw : threadQuad w.cur = c.quad) :
    accept w c k false enter = .queued (w.accepts k c.nextSeq (fun x => enter x c.nextSeq)) none := by
  rw [State.accepts, hw]
  rfl

/-- A call of a stream's conversions. -/
def Stream.called (t : Stream) : Stream := { t with calls := t.calls + 1#32 }

/-- The conversion that an issued VCVT is, with SEED and the calls so far. -/
def convertOp (i : Instr) (s : State) (k : Tok) (c : Coach) (d a : BitVec 6) : VecOp :=
  { ins := i, desc := { Desc.zero with w0 := s.myStream.seed, w1 := s.myStream.calls.setWidth 64 }, sval := 0#64,
    spois := false, pc := s.me.pc, push := k.push.toNat, seq := c.nextSeq,
    extents := [tileExtent d false true, tileExtent a true false], started := false, loops := s.me.loops }

/-- A VCVT checks that its tiles are declared, and enters the unit; one that rounds stochastically is counted. -/
theorem vcvt_outcomes {s : State} {c : Coach} {k : Tok} {d a : BitVec 6} {rm : BitVec 3} {pol : BitVec 2} {f4 : BitVec 4}
    (h : s.Issues (xWord (if rm = 5#3 then [8] else []) true) (.vcvt k d a rm pol f4) k) (hc : s.myCoach? = some c) :
    let i := Instr.vcvt k d a rm pol f4
    let u := (s.takeToken k).accepts k c.nextSeq (convertOp i s k c d a).enter
    (tilesDeclared s c [d, a] = false → Traps i s k 0x0206 none none) ∧
    (tilesDeclared s c [d, a] = true → c.unit.length < 2 → c.checkerFull = false →
      Enters i s (if rm = 5#3 then u.updMyStream Stream.called else u) 1) := by
  intro i u
  obtain ⟨st, ff, -, he⟩ := exec_of_withCoach (i := i) h hc (body := fun s co =>
    if tilesDeclared s co [d, a] = false then descFault s codeEngineAccess
    else (enterUnit s co i k { Desc.zero with w0 := s.myStream.seed, w1 := s.myStream.calls.setWidth 64 } 0#64 false
      [tileExtent d false true, tileExtent a true false] false).onQueued (fun s =>
        if rm = 5#3 then s.updMyStream Stream.called else s)) rfl
  rw [tilesDeclared_takeToken, enterUnit_takeToken, State.takeToken_myStream] at he
  refine ⟨fun hd => ?_, fun hd h2 hf => ?_⟩
  · rw [if_pos hd] at he
    exact traps_of_fault he
  · have hq : threadQuad (s.takeToken k).cur = (c.withThreads st ff).quad := by
      obtain ⟨p, hcur, -⟩ := State.myCoach?_eq_some hc
      rw [State.takeToken_cur, hcur]
      rfl
    have hme : u.me = (s.takeToken k).me := (convertOp i s k c d a).enter_queues.accepts_me
    have hsome : (u.strand? u.cur).isSome = true := (convertOp i s k c d a).enter_queues.accepts_isSome.trans h.isSome
    rw [if_neg (by simp [hd]), if_neg (Nat.not_le.2 h2), if_neg (by simp [hf]), accept_of_not_precise k _ hq] at he
    refine enters_of_queued_me ?_ ?_ he
    · split
      · exact (State.updMyStream_me ..).trans hme
      · exact hme
    · split
      · exact (State.updMyStream_isSome ..).trans hsome
      · exact hsome

/-! ## The deferral queue (R180, R181) -/

theorem Coach.vecReady_eq_some {c : Coach} {o : VecOp} {rest : List VecOp} (hu : c.unit = o :: rest)
    (hs : o.started = false) (hb : c.blocked o.seq o.extents = false) : c.vecReady = some o := by
  simp only [Coach.vecReady, hu]
  exact if_pos ⟨hs, hb⟩

section Start

variable {s : State} {q : Nat} {c : Coach} {o : VecOp} (hc : s.coach? q = some c) (hr : c.vecReady = some o)
include hc hr

/-- A VDEFER that finds a deferral entry leaves the unit with its snapshot. -/
theorem exec_vectorStart_vdefer {k : Tok} {t e : BitVec 6} {sr : BitVec 4} {y : BitVec 3} (ho : o.ins = .vdefer k t e sr y)
    (hroom : c.defer.length < 4) (hp : (s.snapshot c o t y).poison = 0#32) :
    exec (.vectorStart q) s = .next (s.updCoach q (fun x =>
      { x with unit := x.unit.drop 1, defer := x.defer ++ [s.snapshot c o t y] })) := by
  show execVectorStart q s = _
  simp only [execVectorStart, hc, hr, ho]
  rw [if_neg (Nat.not_le.2 hroom), if_neg (fun hn => hn.1 hp)]

theorem exec_vectorStart_vdrain {k : Tok} (ho : o.ins = .vdrain k) :
    exec (.vectorStart q) s = .next (if c.defer.isEmpty then s.updCoach q Coach.startHead else s) := by
  show execVectorStart q s = _
  simp only [execVectorStart, hc, hr, ho]
  split <;> rfl

end Start

section Head

variable {s : State} {q : Nat} {c : Coach} {e : DeferEntry} {rest : List DeferEntry} (hc : s.coach? q = some c)
  (hd : c.defer = e :: rest) (hpark : c.deferPark = none) (hfrozen : c.deferFrozen = false) (hhalted : s.boot.halted = false)
  (hpois : e.poison = 0#32)
include hc hd hpark hfrozen hhalted hpois

/-- The head whose vectors are all acknowledged retires with its push. -/
theorem exec_deferWriteAck_retires (h32 : 32 ≤ e.progress) (hpend : s.deferPending q e.seq = false)
    (hpush : c.pushHeld 2 e.push = false) :
    exec (.deferWriteAck q) s = .next (s.updCoach q (fun x => { x with defer := rest }.enginePush 2 e.push)) := by
  show execDeferWriteAck q s = _
  simp only [execDeferWriteAck, hc, hd]
  rw [if_neg (by simp [hpark, hfrozen, hhalted]), if_neg (fun hn => hn hpois), if_pos h32, if_neg (by simp [hpend, hpush])]

/-- The head whose vector is acknowledged moves to the next one, or parks on the watchpoint that it has hit (R382). -/
theorem exec_deferWriteAck_vector (h32 : e.progress < 32) (hsent : (e.pieces e.progress).length ≤ e.sent)
    (hpend : s.deferPending q e.seq = false) :
    exec (.deferWriteAck q) s = .next (match e.hit with
      | some w => s.deferFault q e 0x0A02 w.1 w.2 (e.progress + 1)
      | none => s.updCoach q (fun x => x.updDefer (fun e => { e with progress := e.progress + 1, sent := 0 }))) := by
  show execDeferWriteAck q s = _
  simp only [execDeferWriteAck, hc, hd]
  rw [if_neg (by simp [hpark, hfrozen, hhalted]), if_neg (fun hn => hn hpois), if_neg (Nat.not_le.2 h32)]
  simp only [List.getElem?_eq_none hsent]
  rw [if_neg (by simp [hpend])]
  cases e.hit <;> rfl

end Head

end Sys2Proof.Machine

namespace Sys2Proof

open Machine

/-- Settles O35: the three tile moves by `tileMove_outcomes`, VCVT by `vcvt_outcomes`, and the start and the end of a VDEFER by
the steps of the unit and of the deferral queue. -/
theorem tileMoves : Obligations.TileMoves := by
  intro s k c d a e sr f4 y rm pol hc desc table
  obtain ⟨-, -, hq⟩ := State.myCoach?_eq_some hc
  have form : ∀ r ∈ table, exec r.1 = tileMove r.2.1 r.1 k d e sr y r.2.2.1 r.2.2.2.1 r.2.2.2.2.1 r.2.2.2.2.2 := by
    simp only [table, List.forall_mem_cons]
    exact ⟨rfl, rfl, rfl, fun _ hr => nomatch hr⟩
  refine ⟨fun r hr h => tileMove_outcomes h hc (form r hr), fun h1 spaces => tileMoveCheck_of_check1 s c d y spaces _ h1,
    fun h1 spaces hs => tileMoveCheck_of_space s c d y _ h1 hs, fun h => vcvt_outcomes h hc,
    fun o rest hu hs hb => ⟨fun ho hroom _ hp => ?_, fun ho hd => ?_, fun ho hd => ?_⟩,
    fun h rest hd hpark hfrozen hhalted hp => ⟨fun h32 hpend hpush => ?_, fun h32 hsent hpend => ⟨fun hhit => ?_,
      fun w hhit => ?_⟩⟩⟩
  · refine ⟨_, _, exec_vectorStart_vdefer hq (Coach.vecReady_eq_some hu hs hb) ho hroom hp,
      State.coach?_updCoach_self hq (fun _ => rfl), ?_, rfl⟩
    rw [hu]
    rfl
  · rw [exec_vectorStart_vdrain hq (Coach.vecReady_eq_some hu hs hb) ho, hd]
    obtain ⟨c', hc', hunit⟩ := State.startHead_starts hq hu
    exact ⟨_, c', rfl, hc', hunit⟩
  · rw [exec_vectorStart_vdrain hq (Coach.vecReady_eq_some hu hs hb) ho, if_neg (by simpa using hd)]
  · exact exec_deferWriteAck_retires hq hd hpark hfrozen hhalted hp h32 hpend hpush
  · rw [exec_deferWriteAck_vector hq hd hpark hfrozen hhalted hp h32 hsent hpend, hhit]
  · rw [exec_deferWriteAck_vector hq hd hpark hfrozen hhalted hp h32 hsent hpend, hhit]

end Sys2Proof
end

section
/-! SUPPORT. MatrixEngine: the start of the operations of the matrix queue, MZERO, and the retirement of a completed head (R153,
R188 to R190, R198, R202). -/

namespace Sys2Proof.Machine

/-! ## An operation of the queue changed -/

theorem Coach.mem_updMat {c : Coach} {seq : Nat} {f : MatOp → MatOp} {p : MatOp} (hp : p ∈ (c.updMat seq f).matq)
    (hs : p.seq = seq) : ∃ o, p = f o := by
  obtain ⟨o, -, rfl⟩ := List.mem_map.1 hp
  by_cases h : (o.seq == seq) = true
  · exact ⟨o, if_pos h⟩
  · rw [if_neg h] at hs
    exact absurd (by simpa using hs) h

theorem MatOp.isMma_iff {o : MatOp} : o.isMma = true ↔ o.op = opMma ∨ o.op = opMmas := by
  rw [MatOp.isMma, Bool.or_eq_true, beq_iff_eq, beq_iff_eq]

/-! ## The start of an operation (R153, R189, R190, R202) -/

/-- The active weight set is the shadow set from here on, when an MWLD has loaded one (R189). -/
def Coach.flipSet (c : Coach) : Coach := { c with activeB := c.activeB != c.flip, flip := false }

theorem Coach.flipSet_nextSet (c : Coach) : c.flipSet.nextSet = c.nextSet := by
  rw [Coach.nextSet, Coach.nextSet, Coach.flipSet, Bool.bne_false]

theorem setFault_of_family {o : MatOp} {w : WeightSet} (h : w.family ≠ o.family) :
    setFault o (some w) = some codeEngineAccess := if_pos h

section Fits

variable {o : MatOp} {w : WeightSet} (h : w.family = o.family)
include h

theorem setFault_of_size (hk : w.kw ≠ (if o.op = opMmas then o.a.dim0 / 2 else o.a.dim0) ∨ w.nw ≠ o.c.dim0) :
    setFault o (some w) = some codeDescRange := by
  rw [setFault, if_neg (not_not_intro h), if_pos hk]

theorem setFault_of_fits (hk : w.kw = if o.op = opMmas then o.a.dim0 / 2 else o.a.dim0) (hn : w.nw = o.c.dim0) :
    setFault o (some w) = none := by
  rw [setFault, if_neg (not_not_intro h), if_neg (by simp [← hk, hn])]

end Fits

section Start

variable {s : State} {q : Nat} {c : Coach} (hc : s.coach? q = some c)
include hc

theorem exec_matrixOpStart_of_none (hn : s.nextMat c = none) : exec (.matrixOpStart q) s = .next s := by
  show execMatrixOpStart q s = _
  simp only [execMatrixOpStart, hc, hn]

variable {o : MatOp} (hn : s.nextMat c = some o)
include hn

/-- An operation other than MMA and MMAS starts at once; an MWLD begins an empty weight set. -/
theorem exec_matrixOpStart_of_not_mma (hm : o.isMma = false) :
    ∃ w : MatOp → Option WeightSet, exec (.matrixOpStart q) s =
      .next (s.updCoach q (fun c => c.updMat o.seq (fun o => { o with started := true, set := w o }))) := by
  have hx : exec (.matrixOpStart q) s = execMatrixOpStart q s := rfl
  simp only [hx, execMatrixOpStart, hc, hn, hm, Bool.false_eq_true, if_false]
  split
  · exact ⟨_, rfl⟩
  · exact ⟨fun o => o.set, rfl⟩

variable (hm : o.isMma = true)
include hm

/-- An MMA or MMAS that finds no fitting weight set waits for the operations ahead of it, and then faults (R153). -/
theorem exec_matrixOpStart_of_fault {code : Nat} (hf : setFault o c.nextSet = some code) :
    ((∃ p ∈ c.matq, p.seq < o.seq ∧ p.done = false) → exec (.matrixOpStart q) s = .next s) ∧
    (¬(∃ p ∈ c.matq, p.seq < o.seq ∧ p.done = false) →
      exec (.matrixOpStart q) s = .next (s.matFault q o code 0#64 0)) := by
  have hahead : ((c.matq.filter (fun p => decide (p.seq < o.seq))).all (fun p => p.done) = true) ↔
      ¬∃ p ∈ c.matq, p.seq < o.seq ∧ p.done = false := by
    simp only [List.all_filter, List.all_eq_true, Bool.or_eq_true, Bool.not_eq_true', decide_eq_false_iff_not, not_exists,
      not_and, Bool.not_eq_false, ← imp_iff_not_or]
  have hx : exec (.matrixOpStart q) s =
      if (c.matq.filter (fun p => decide (p.seq < o.seq))).all (fun p => p.done) = true
      then .next (s.matFault q o code 0#64 0) else .next s := by
    show execMatrixOpStart q s = _
    simp only [execMatrixOpStart, hc, hn, hm, if_true, hf]
  exact ⟨fun h => by rw [hx, if_neg (fun ha => hahead.1 ha h)], fun h => by rw [hx, if_pos (hahead.2 h)]⟩

/-- An MMA or MMAS whose weight set fits flips to it. -/
theorem exec_matrixOpStart_of_fits (hf : setFault o c.nextSet = none) :
    exec (.matrixOpStart q) s = .next (s.updCoach q (fun x =>
      x.flipSet.updMat o.seq (fun o => { o with started := true, set := c.nextSet }))) := by
  show execMatrixOpStart q s = _
  simp only [execMatrixOpStart, hc, hn, hm, if_true, hf]
  rfl

end Start

/-! ## Progress and retirement (R188, R198) -/

theorem Coach.stickyOf_matq (c : Coach) (i : Nat) (fl : BitVec 9) : (c.stickyOf i fl).matq = c.matq := by
  unfold Coach.stickyOf
  split <;> rfl

theorem Coach.stickyOf_retired (c : Coach) (i : Nat) (fl : BitVec 9) : (c.stickyOf i fl).retired = c.retired := by
  unfold Coach.stickyOf
  split <;> rfl

theorem Coach.enginePush_matq (c : Coach) (i push : Nat) : (c.enginePush i push).matq = c.matq :=
  (congrArg Coach.matq (Coach.enginePush_rest c i push) :)

theorem Coach.enginePush_retired (c : Coach) (i push : Nat) : (c.enginePush i push).retired = c.retired :=
  (congrArg Coach.retired (Coach.enginePush_rest c i push) :)

theorem Coach.retireMat_matq (c : Coach) (o : MatOp) (rest : List MatOp) : (c.retireMat o rest).matq = rest :=
  (Coach.stickyOf_matq ..).trans (Coach.enginePush_matq ..)

theorem Coach.retireMat_retired (c : Coach) (o : MatOp) (rest : List MatOp) :
    (c.retireMat o rest).retired = c.retired + 1#64 :=
  (Coach.stickyOf_retired ..).trans (Coach.enginePush_retired ..)

theorem exec_matrixOpComplete_retires {s : State} {q : Nat} {c : Coach} {h : MatOp} {rest : List MatOp}
    (hc : s.coach? q = some c) (hq : c.matq = h :: rest) (hd : h.done = true) (hp : c.pushHeld h.stream h.push = false) :
    exec (.matrixOpComplete q) s = .next (s.updCoach q (fun x => x.retireMat h rest)) := by
  show execMatrixOpComplete q s = _
  simp only [execMatrixOpComplete, hc, hq, hd, hp, if_true, Bool.false_eq_true, if_false]

/-- A running MZERO that is the oldest running operation is done by the next step. -/
theorem exec_matrixOpComplete_mzero {s : State} {q : Nat} {c : Coach} {h o : MatOp} {rest : List MatOp}
    (hc : s.coach? q = some c) (hq : c.matq = h :: rest) (hd : h.done = false) (hpark : c.matPark = none)
    (hfrozen : c.matFrozen = false) (hfroze : c.froze = false) (hr : c.runningMat = some o) (ho : o.op = opMzero) :
    exec (.matrixOpComplete q) s = .next (s.mzeroAll c o) := by
  show execMatrixOpComplete q s = _
  simp only [execMatrixOpComplete, hc, hq, hd, hpark, hfrozen, hfroze, hr, ho, Option.isSome_none, Bool.false_eq_true,
    or_self, if_false]
  rfl

theorem State.bufByte_matAdvance (s : State) (q seq total : Nat) (f : MatOp → MatOp) (c : Coach) (b : Buf) (i : Nat) :
    (s.matAdvance q seq total f).bufByte c b i = s.bufByte c b i := rfl

/-- An MZERO within the accumulator clears the bytes of its operand, and no other. -/
theorem State.mzeroAll_bufByte (s : State) {c : Coach} {o : MatOp} (hfit : o.c.base + o.c.extentLen ≤ c.bufSize .acc)
    {i : Nat} (hi : i < c.bufSize .acc) : (s.mzeroAll c o).bufByte c .acc i =
      if o.c.base ≤ i ∧ i < o.c.base + o.c.extentLen then 0#8 else s.bufByte c .acc i := by
  have hlen : (List.replicate o.c.extentLen 0#8).length = o.c.extentLen := List.length_replicate
  rw [State.mzeroAll, State.bufByte_matAdvance, State.bufByte_writeBuf s (by decide) (by rwa [hlen]) _ hi, hlen]
  simp only [true_and]
  split
  · exact List.getD_replicate _ (by omega)
  · rfl

/-- What an MZERO leaves of its coach. -/
theorem State.mzeroAll_coach? {s : State} {c : Coach} (hc : s.coach? c.quad = some c) (o : MatOp) :
    ∃ c', (s.mzeroAll c o).coach? c.quad = some c' ∧ ∀ p ∈ c'.matq, p.seq = o.seq → p.done = true := by
  have hw : (s.writeBuf c .acc o.c.base (List.replicate o.c.extentLen 0#8) false).coach? c.quad = some c := by
    rw [State.writeBuf_quadsOnly s c .acc o.c.base _ false]
    exact hc
  refine ⟨_, State.coach?_updCoach_self hw (fun _ => rfl), fun p hp hs => ?_⟩
  obtain ⟨x, rfl⟩ := Coach.mem_updMat hp hs
  exact decide_eq_true (Nat.le_add_left 1 x.progress)

theorem State.mzeroAll_mem (s : State) (c : Coach) (o : MatOp) : (s.mzeroAll c o).mem = s.mem := by
  have h := s.writeBuf_quadsOnly c .acc o.c.base (List.replicate o.c.extentLen 0#8) false
  exact (congrArg State.mem h :)

end Sys2Proof.Machine

namespace Sys2Proof

open Machine

/-- Settles O38: an operation starts, waits or faults by the three `exec_matrixOpStart` lemmas, and goes on or retires by
`State.mzeroAll_bufByte` and `exec_matrixOpComplete_retires`. -/
theorem matrixQueue : Obligations.MatrixQueue := by
  intro s q c hc
  obtain rfl := State.coach?_quad hc
  refine ⟨fun o hn => ⟨fun h1 h2 => ?_, fun hm => ?_⟩, exec_matrixOpStart_of_none hc, fun h rest hq =>
    ⟨fun hd hp => ⟨exec_matrixOpComplete_retires hc hq hd hp, c.retireMat_matq h rest, c.retireMat_retired h rest⟩,
      fun hd hpark hfrozen hfroze o hr ho hfit => ?_⟩⟩
  · have hm : o.isMma = false := by rw [← Bool.not_eq_true, MatOp.isMma_iff, not_or]; exact ⟨h1, h2⟩
    obtain ⟨w, hx⟩ := exec_matrixOpStart_of_not_mma hc hn hm
    refine ⟨_, _, hx, State.coach?_updCoach_self hc (fun _ => rfl), fun p hp hs => ?_⟩
    obtain ⟨x, rfl⟩ := Coach.mem_updMat hp hs
    rfl
  · intro k ahead faults
    have hm := MatOp.isMma_iff.2 hm
    have stops : ∀ code, setFault o c.nextSet = some code → faults code := fun _ hf =>
      exec_matrixOpStart_of_fault hc hn hm hf
    refine ⟨fun hw => stops _ (by rw [hw]; rfl), fun w hw => ⟨fun hfam => stops _ (by rw [hw]; exact setFault_of_family hfam),
      fun hfam hs => stops _ (by rw [hw]; exact setFault_of_size hfam hs), fun hfam hk hnw => ?_⟩⟩
    have hf : setFault o c.nextSet = none := by rw [hw]; exact setFault_of_fits hfam hk hnw
    refine ⟨_, _, exec_matrixOpStart_of_fits hc hn hm hf, State.coach?_updCoach_self hc (fun _ => rfl), rfl,
      c.flipSet_nextSet.trans hw, fun p hp hs => ?_⟩
    obtain ⟨x, rfl⟩ := Coach.mem_updMat hp hs
    exact ⟨rfl, hw⟩
  · obtain ⟨c', hc', hdone⟩ := State.mzeroAll_coach? hc o
    exact ⟨_, c', exec_matrixOpComplete_mzero hc hq hd hpark hfrozen hfroze hr ho, s.mzeroAll_mem c o, hc', hdone,
      fun i hi => s.mzeroAll_bufByte hfit hi⟩

end Sys2Proof
end

section
/-! SUPPORT. MatrixEntry: the entry of a matrix word into the matrix queue, MSTAT, MWAIT, and the known-answer tile of MKAT (R153,
R184 to R191, R198 to R201). -/

namespace Sys2Proof.Machine

/-! ## Entry into the queue (R184, R188, R191) -/

theorem MatOp.enter_queues (o : MatOp) (seq : Nat) : Coach.Queues (fun c => c.enterMatrix o seq) :=
  ⟨fun _ => rfl, fun _ _ => rfl, fun _ i => by cases i <;> rfl⟩

/-- A word of the matrix queue: what its check answers in a coach, and the operation that enters the queue. -/
def MatrixWord (s : State) (c : Coach) (k : Tok) (i : Instr) (fs : List Nat) (precise : Bool) (check : Option Nat)
    (o : MatOp) : Prop :=
  ∃ ch en, exec i = matrixForm fs i k precise ch en ∧
    ∀ st ff, ch (c.withThreads st ff) = check ∧ en (c.withThreads st ff) s.me.pc = o

section Word

variable {cls : WordClass} {i : Instr} {k : Tok} {s : State} {c : Coach}

/-- A coach that has taken KAT_MISMATCH raises it again, with the same FPROG. -/
theorem traps_of_afterKat {m : Word} (h : s.Issues cls i k) (hc : s.myCoach? = some c) (hk : c.kat = some m)
    {body : State → Coach → Res} (hx : exec i = issue cls i k (fun s => withCoach s (fun c => afterKat s c (body s c)))) :
    Traps i s k 0x0403 (some 0#64) (some m) := by
  obtain ⟨st, ff, -, he⟩ := exec_of_withCoach h hc hx
  have hk' : (c.withThreads st ff).kat = some m := hk
  rw [afterKat, hk'] at he
  exact traps_of_fault he

/-- Any other coach runs the word where it has taken its token. -/
theorem exec_of_afterKat (h : s.Issues cls i k) (hc : s.myCoach? = some c) (hk : c.kat = none)
    {body : State → Coach → Res} (hx : exec i = issue cls i k (fun s => withCoach s (fun c => afterKat s c (body s c)))) :
    ∃ st ff, (s.takeToken k).myCoach? = some (c.withThreads st ff) ∧
      exec i s = (body (s.takeToken k) (c.withThreads st ff)).apply k cls.words s.me.pc s.cur := by
  obtain ⟨st, ff, hc', he⟩ := exec_of_withCoach h hc hx
  have hk' : (c.withThreads st ff).kat = none := hk
  rw [afterKat, hk'] at he
  exact ⟨st, ff, hc', he⟩

variable {fs : List Nat} {precise : Bool} {check : Option Nat} {o : MatOp}

/-- A matrix word faults as its check says, waits for a place in the queue and in the range checker, and is then accepted. -/
theorem matrixWord_outcomes (hw : MatrixWord s c k i fs precise check o) (h : s.Issues (xWord fs true) i k)
    (hc : s.myCoach? = some c) (hk : c.kat = none) :
    (∀ code, check = some code → Traps i s k code none none) ∧
    (check = none → 8 ≤ c.matq.length → Parks i s k (.matrixQueue 7)) ∧
    (check = none → c.matq.length < 8 → c.checkerFull = true → Parks i s k .checker) ∧
    (check = none → c.matq.length < 8 → c.checkerFull = false → Accepts i s (s.takeToken k) k 1 c.nextSeq precise
      (fun q => q.enterMatrix { o with iword := instrWord i } c.nextSeq)) := by
  obtain ⟨ch, en, hx, hsame⟩ := hw
  obtain ⟨st, ff, -, he⟩ := exec_of_afterKat h hc hk hx
  obtain ⟨hch, hen⟩ := hsame st ff
  have hmatq : (c.withThreads st ff).matq = c.matq := rfl
  have hchecker : (c.withThreads st ff).checkerFull = c.checkerFull := rfl
  rw [hch, State.takeToken_pc, hen] at he
  refine ⟨fun code hcode => ?_, fun hnone h8 => ?_, fun hnone h8 hfull => ?_, fun hnone h8 hfree => ?_⟩
  · rw [hcode] at he
    exact traps_of_fault he
  all_goals rw [hnone] at he; simp only [enterMatq, hmatq, hchecker] at he
  · rw [if_pos h8] at he
    exact parks_of_wait he
  all_goals rw [if_neg (Nat.not_le.2 h8)] at he
  · rw [if_pos hfull] at he
    exact parks_of_wait he
  · rw [if_neg (by rw [hfree]; decide)] at he
    exact accepts_of_accept (MatOp.enter_queues _ _) h hc ⟨_, by rw [State.takeToken_eq]⟩ rfl rfl he

theorem MatrixWord.traps_of_kat {m : Word} (hw : MatrixWord s c k i fs precise check o) (h : s.Issues (xWord fs true) i k)
    (hc : s.myCoach? = some c) (hk : c.kat = some m) : Traps i s k 0x0403 (some 0#64) (some m) := by
  obtain ⟨ch, en, hx, -⟩ := hw
  exact traps_of_afterKat h hc hk hx

/-! ## MSTAT and MWAIT (R200, R201) -/

/-- MSTAT reads its coach; what the read clears there is no thread. -/
theorem mstatForm_acts {d : BitVec 4} {v : Coach → Word} {f : Coach → Coach} (hx : exec i = mstatForm i k d v f)
    (hv : ∀ st ff, v (c.withThreads st ff) = v c) (hf : Coach.Queues f) (h : s.Issues (xWord [] false) i k)
    (hc : s.myCoach? = some c) (hk : c.kat = none) :
    Acts i s ((s.takeToken k).updCoach c.quad f) d (v c) false := by
  obtain ⟨st, ff, -, he⟩ := exec_of_afterKat h hc hk hx
  have hquad : (c.withThreads st ff).quad = c.quad := rfl
  rw [hv, hquad] at he
  have hs := State.strand?_updCoach (s.takeToken k) c.quad (s.takeToken k).cur hf.quad hf.strand
  refine acts_of_writeS he rfl ((congrArg Option.isSome hs).trans h.isSome) ?_
  have hme : ((s.takeToken k).updCoach c.quad f).me = (s.takeToken k).me := congrArg (Option.getD · Strand.start) hs
  rw [hme]
  exact s.takeToken_sameBut k

theorem exec_mwait (k : Tok) (n : BitVec 4) : exec (.mwait k n) = issue (xWord [] false) (.mwait k n) k
    (fun s => withCoach s (fun c => afterKat s c
      (if c.matq.length ≤ n.toNat then .done s else .wait s (.matrixQueue n.toNat)))) := rfl

theorem mwait_outcomes {n : BitVec 4} (h : s.Issues (xWord [] false) (.mwait k n) k) (hc : s.myCoach? = some c)
    (hk : c.kat = none) :
    (c.matq.length ≤ n.toNat → Does (.mwait k n) s s) ∧
    (n.toNat < c.matq.length → Parks (.mwait k n) s k (.matrixQueue n.toNat)) := by
  obtain ⟨st, ff, -, he⟩ := exec_of_afterKat h hc hk (exec_mwait k n)
  have hmatq : (c.withThreads st ff).matq = c.matq := rfl
  rw [hmatq] at he
  refine ⟨fun hn => ?_, fun hn => ?_⟩
  · rw [if_pos hn] at he
    exact does_self_of_done h he rfl
  · rw [if_neg (Nat.not_le.2 hn)] at he
    exact parks_of_wait he

end Word

/-! ## The known-answer tile of MKAT (R199) -/

theorem shapeQuads_mod_inj {shape : BitVec 2} {lead p q : Nat} (hp : p ∈ shapeQuads shape lead)
    (hq : q ∈ shapeQuads shape lead) (h : p % 4 = q % 4) : p = q := by
  have near : ∀ x ∈ shapeQuads shape lead, lead ≤ x ∧ x < lead + 4 := by
    unfold shapeQuads
    intro x hx
    split at hx <;> simp only [List.mem_cons, List.not_mem_nil, or_false] at hx <;> omega
  obtain ⟨hp1, hp2⟩ := near p hp
  obtain ⟨hq1, hq2⟩ := near q hq
  omega

/-- The marks of a list of quadrants. -/
theorem getLsbD_marks (l : List Nat) (m : BitVec 4) {i : Nat} (hi : i < 4) :
    (l.foldl (fun (m : BitVec 4) q => m ||| (1#4 <<< (q % 4))) m).getLsbD i =
      (m.getLsbD i || l.any (fun q => q % 4 == i)) := by
  induction l generalizing m with
  | nil => simp
  | cons q l ih =>
    have hone : ((1#4 : BitVec 4) <<< (q % 4)).getLsbD i = (q % 4 == i) := by
      have hq : q % 4 < 4 := Nat.mod_lt _ (by decide)
      generalize q % 4 = j at hq
      interval_cases i <;> interval_cases j <;> rfl
    rw [List.foldl_cons, ih, BitVec.getLsbD_or, hone, List.any_cons, Bool.or_assoc]

section Marks

variable {s : State} {c : Coach} {f : BitVec 3} {seed : Nat} {sum : Word}

/-- A quadrant is marked when its checksum is not the expected one. -/
theorem State.katMarked_getLsbD {q : Nat} (hq : q ∈ c.quads) :
    (s.katMarked c f seed sum).getLsbD (q % 4) = decide (katChecksum f seed ^^^ (s.quad q).defect ≠ sum) := by
  rw [State.katMarked, getLsbD_marks _ _ (Nat.mod_lt _ (by decide)), BitVec.getLsbD_zero, Bool.false_or, Bool.eq_iff_iff,
    List.any_eq_true, decide_eq_true_iff]
  constructor
  · rintro ⟨p, hp, hmod⟩
    obtain ⟨hmem, hne⟩ := List.mem_filter.1 hp
    obtain rfl := shapeQuads_mod_inj hmem hq (by simpa using hmod)
    simpa using hne
  · exact fun hne => ⟨q, List.mem_filter.2 ⟨hq, by simpa using hne⟩, by simp⟩

theorem State.katMarked_eq_zero_iff :
    s.katMarked c f seed sum = 0#4 ↔ ∀ q ∈ c.quads, katChecksum f seed ^^^ (s.quad q).defect = sum := by
  constructor
  · intro h q hq
    have hm := State.katMarked_getLsbD (s := s) (f := f) (seed := seed) (sum := sum) hq
    rw [h, BitVec.getLsbD_zero] at hm
    simpa using hm.symm
  · intro h
    rw [State.katMarked, List.filter_eq_nil_iff.2 (fun q hq => by simp [h q hq])]
    rfl

end Marks

/-- What the tile leaves in a quadrant. -/
def Quadrant.takeKat (x : Quadrant) (failed : Bool) (now : Word) : Quadrant :=
  if failed then { x with quarantined := true } else { x with lastKat := now, mustPass := false }

/-- The tile has run on some quadrants. -/
def State.katTile (s : State) (qs : List Nat) (marked : BitVec 4) : State :=
  qs.foldl (fun s q => s.updQuad q (fun x => x.takeKat (marked.getLsbD (q % 4)) s.tsc)) s

theorem State.katTile_quadsOnly (s : State) (qs : List Nat) (marked : BitVec 4) : QuadsOnly s (s.katTile qs marked) := by
  refine List.foldlRecOn (motive := QuadsOnly s) _ _ rfl (fun u hu q _ => hu.trans rfl)

theorem State.katTile_quad (s : State) {qs : List Nat} (marked : BitVec 4) (hn : qs.Nodup) {q : Nat} (hq : q ∈ qs) :
    (s.katTile qs marked).quad q = (s.quad q).takeKat (marked.getLsbD (q % 4)) s.tsc := by
  have h := foldl_read (fun (s : State) j => (j, s.tsc, s.quad j))
    (fun s q => s.updQuad q (fun x => x.takeKat (marked.getLsbD (q % 4)) s.tsc))
    (fun e => (e.1, e.2.1, e.2.2.takeKat (marked.getLsbD (e.1 % 4)) e.2.1))
    (fun s k j => by
      simp only [State.quad_updQuad, State.updQuad_tsc]
      split <;> rename_i hj
      · rw [hj]
      · rfl) qs hn s q
  rw [if_pos hq] at h
  exact congrArg (fun e => e.2.2) h

/-- The tile takes the coach's weight sets. -/
def Coach.dropSets (c : Coach) : Coach := { c with setA := none, setB := none, flip := false }

/-- The coach whose tile has passed, and the one whose tile has not. -/
def Coach.passKat (c : Coach) : Coach := { c with retired := c.retired + 1#64 }
def Coach.failKat (prog : Word) (c : Coach) : Coach := { c with kat := some prog }

/-- The state in which the tile has run on a coach's quadrants, with what f makes of the coach then. -/
def State.katRun (s : State) (c : Coach) (marked : BitVec 4) (f : Coach → Coach) : State :=
  ((s.katTile c.quads marked).updCoach c.quad Coach.dropSets).updCoach c.quad f

section Run

variable (s : State) {c : Coach} (marked : BitVec 4) (f : Coach → Coach)

theorem State.katRun_eq : s.katRun c marked f =
    { s with coaches := (s.katRun c marked f).coaches, quads := (s.katRun c marked f).quads } := by
  have h := s.katTile_quadsOnly c.quads marked
  rw [State.katRun, h]
  rfl

theorem State.katRun_quad {q : Nat} (hq : q ∈ c.quads) :
    (s.katRun c marked f).quad q = (s.quad q).takeKat (marked.getLsbD (q % 4)) s.tsc :=
  s.katTile_quad marked (shapeQuads_nodup _ _) hq

variable {f} (hf : Coach.Queues f)
include hf

theorem State.katRun_coach? {x : Coach} (hx : s.coach? c.quad = some x) :
    (s.katRun c marked f).coach? c.quad = some (f x.dropSets) := by
  have h : (s.katTile c.quads marked).coach? c.quad = some x := by
    rw [State.katTile_quadsOnly]
    exact hx
  exact State.coach?_updCoach_self (State.coach?_updCoach_self h (f := Coach.dropSets) (fun _ => rfl)) hf.quad

theorem State.katRun_strand? (th : ThreadId) : (s.katRun c marked f).strand? th = s.strand? th :=
  calc (s.katRun c marked f).strand? th
    _ = ((s.katTile c.quads marked).updCoach c.quad Coach.dropSets).strand? th :=
      State.strand?_updCoach _ _ _ hf.quad hf.strand
    _ = (s.katTile c.quads marked).strand? th := State.strand?_updCoach _ _ _ (fun _ => rfl) (fun _ _ => rfl)
    _ = s.strand? th := (s.katTile_quadsOnly c.quads marked).strand? th

theorem State.katRun_running :
    (s.katRun c marked f).strand? (s.katRun c marked f).cur = s.strand? s.cur ∧ (s.katRun c marked f).me = s.me := by
  have hcur : (s.katRun c marked f).cur = s.cur := by rw [State.katRun_eq]
  rw [State.me, State.me, hcur, s.katRun_strand? marked hf]
  exact ⟨rfl, rfl⟩

end Run

theorem Coach.passKat_queues : Coach.Queues Coach.passKat := ⟨fun _ => rfl, fun _ _ => rfl, fun _ i => by cases i <;> rfl⟩

theorem Coach.failKat_queues (prog : Word) : Coach.Queues (Coach.failKat prog) :=
  ⟨fun _ => rfl, fun _ _ => rfl, fun _ i => by cases i <;> rfl⟩

/-! ## What a precise fault leaves (R18, R97) -/

theorem OnlyThread.coach?_of {s t : State} (h : OnlyThread s t) {q : Nat} {c : Coach} (hc : s.coach? q = some c) :
    ∃ c', t.coach? q = some c' ∧ c'.rest = c.rest := by
  have hq := h.coach q
  rw [hc, Option.map_some, Option.map_eq_some_iff] at hq
  exact hq

theorem State.giveBack_only (s : State) (th : ThreadId) : OnlyThread s (s.giveBack th) := by
  unfold State.giveBack
  split
  · split
    · exact .refl s
    · exact State.updCoach_only _ _ _ (fun _ => rfl) (fun _ _ _ => rfl)
  · exact .refl s

/-- Beside the records that it sends, a precise fault that neither freezes nor aborts changes the running thread and tokens
only. -/
theorem State.takeFault_only (s : State) {code : Nat} (a p e : Word) (h1 : code ≠ codePoison) (h2 : code ≠ codeWindow) :
    ∃ n l, OnlyThread { s with nextReq := n, faults := l } (s.takeFault s.cur code a p e) := by
  obtain ⟨n, l, hp, -⟩ := State.postThread_postsRecord s s.cur code a p e
  refine ⟨n, s.faults ++ l, ?_⟩
  rw [State.takeFault_of_ne s s.cur a p e h1 h2, hp]
  have hg := State.giveBack_only { s with nextReq := n, faults := s.faults ++ l } s.cur
  have hu := State.updMe_only (State.giveBack { s with nextReq := n, faults := s.faults ++ l } s.cur)
    (fun st => st.stop code a p e)
  rw [State.updMe, hg.cur] at hu
  exact hg.trans hu

theorem State.takeFault_me {s : State} {code : Nat} (a p e : Word) (hs : (s.strand? s.cur).isSome = true)
    (h1 : code ≠ codePoison) (h2 : code ≠ codeWindow) : (s.takeFault s.cur code a p e).me = s.me.stop code a p e := by
  obtain ⟨st, hst⟩ := Option.isSome_iff_exists.1 hs
  obtain ⟨hstop, -⟩ := State.takeFault_saves a p e hst h1 h2
  obtain ⟨n, l, honly⟩ := s.takeFault_only a p e h1 h2
  have hcur : (s.takeFault s.cur code a p e).cur = s.cur := honly.cur
  rw [State.me, State.me, hcur, hstop, hst, Option.getD_some, Option.getD_some]

/-- The outcome of the tile: that of every quadrant together. -/
def katOutcome (s : State) (c : Coach) (marked : BitVec 4) (prog : Word) : Res :=
  if marked = 0#4 then .done (s.katRun c marked Coach.passKat)
  else .fault (s.katRun c marked (Coach.failKat prog)) codeKat (some 0#64) (some prog)

theorem exec_mkat (k : Tok) (seed : BitVec 18) (f : BitVec 3) (low high : BitVec 32) :
    exec (.mkat k seed f low high) = issue { xWord (familyFeature f) false with words := 3 } (.mkat k seed f low high) k
      (fun s => withCoach s (fun c => afterKat s c
        (if !c.matq.isEmpty then .wait s (.matrixQueue 0)
        else katOutcome s c (s.katMarked c f seed.toNat (high ++ low))
          (s.katProg c.quad (s.katMarked c f seed.toNat (high ++ low)))))) := rfl

section Mkat

variable {s : State} {k : Tok} {c : Coach} {f : BitVec 3} {seed : BitVec 18} {low high : BitVec 32}
  (h : s.Issues { xWord (familyFeature f) false with words := 3 } (.mkat k seed f low high) k) (hc : s.myCoach? = some c)
  (hk : c.kat = none)
include h hc hk

theorem parks_mkat (hq : c.matq ≠ []) : Parks (.mkat k seed f low high) s k (.matrixQueue 0) := by
  obtain ⟨st, ff, -, he⟩ := exec_of_afterKat h hc hk (exec_mkat ..)
  have hmatq : (c.withThreads st ff).matq = c.matq := rfl
  rw [hmatq, if_pos (by simpa using hq)] at he
  exact parks_of_wait he

/-- The tile runs once the queue is empty. -/
theorem exec_mkat_of_empty (hq : c.matq = []) {marked : BitVec 4}
    (hm : s.katMarked c f seed.toNat (high ++ low) = marked) :
    exec (.mkat k seed f low high) s =
      (katOutcome (s.takeToken k) c marked (s.katProg c.quad marked)).apply k 3 s.me.pc s.cur := by
  obtain ⟨st, ff, -, he⟩ := exec_of_afterKat h hc hk (exec_mkat ..)
  have hmatq : (c.withThreads st ff).matq = c.matq := rfl
  have hm' : (s.takeToken k).katMarked (c.withThreads st ff) f seed.toNat (high ++ low) = marked := by
    rw [← hm, State.takeToken_eq]
    rfl
  have hp : (s.takeToken k).katProg (c.withThreads st ff).quad marked = s.katProg c.quad marked := by
    rw [State.takeToken_eq]
    rfl
  rw [hmatq, if_neg (by simp [hq]), hm', hp] at he
  exact he

/-- A tile that passes on every quadrant. -/
theorem mkat_passes (hq : c.matq = []) (hpass : ∀ q ∈ c.quads, katChecksum f seed.toNat ^^^ (s.quad q).defect = high ++ low) :
    ∃ t c', exec (.mkat k seed f low high) s = .next t ∧ SameRegs s t ∧ Moved s t 3 ∧ t.mem = s.mem ∧
      t.coach? c.quad = some c' ∧ c'.setA = none ∧ c'.setB = none ∧ c'.flip = false ∧ c'.retired = c.retired + 1#64 ∧
      ∀ q ∈ c.quads, (t.quad q).lastKat = s.tsc ∧ (t.quad q).mustPass = false := by
  have he := exec_mkat_of_empty h hc hk hq (State.katMarked_eq_zero_iff.2 hpass)
  rw [katOutcome, if_pos rfl] at he
  obtain ⟨st, ff, hc'⟩ := State.takeToken_myCoach? k hc
  obtain ⟨-, -, hx⟩ := State.myCoach?_eq_some hc'
  have hrun := (s.takeToken k).katRun_coach? (c := c) 0#4 Coach.passKat_queues hx
  obtain ⟨hstrand, hme⟩ := (s.takeToken k).katRun_running (c := c) 0#4 Coach.passKat_queues
  have hsame : ((s.takeToken k).katRun c 0#4 Coach.passKat).me.SameBut s.me := by
    rw [hme]
    exact s.takeToken_sameBut k
  obtain ⟨t, h1, h2, h3, h4⟩ :=
    exists_of_completeBy (f := Strand.advance 3) he ((congrArg Option.isSome hstrand).trans h.isSome) hsame.anyLoops rfl
  obtain ⟨c', hct, hrest⟩ := h3.coach?_of hrun
  refine ⟨t, c', h1, h2, by rwa [Moved, ← hsame.loops, ← hsame.pc], ?_, hct, (congrArg Coach.setA hrest :),
    (congrArg Coach.setB hrest :), (congrArg Coach.flip hrest :), (congrArg Coach.retired hrest :), fun q hqc => ?_⟩
  · rw [h3.mem, State.katRun_eq, State.takeToken_eq]
  · rw [h3.quad, State.katRun_quad _ _ _ hqc, State.takeToken_quad, State.takeToken_tsc, BitVec.getLsbD_zero]
    exact ⟨rfl, rfl⟩

/-- A tile that fails on a quadrant: KAT_MISMATCH, and the quadrants that fail are quarantined. -/
theorem mkat_fails (hq : c.matq = [])
    (hfail : ∃ q ∈ c.quads, ¬katChecksum f seed.toNat ^^^ (s.quad q).defect = high ++ low) :
    ∃ t c', exec (.mkat k seed f low high) s = .next t ∧ t.me.pc = s.me.pc ∧ t.me.fcode = 0x0403#64 ∧
      t.me.faddr = 0#64 ∧ t.me.run = .stopped 3 ∧ t.coach? c.quad = some c' ∧ c'.kat = some t.me.fprog ∧
      (∀ q ∈ c.quads, ¬katChecksum f seed.toNat ^^^ (s.quad q).defect = high ++ low → (t.quad q).quarantined = true) ∧
      ∀ q ∈ c.quads, katChecksum f seed.toNat ^^^ (s.quad q).defect = high ++ low →
        (t.quad q).quarantined = (s.quad q).quarantined ∧ (t.quad q).lastKat = s.tsc := by
  generalize hm : s.katMarked c f seed.toNat (high ++ low) = marked
  have hne : marked ≠ 0#4 := by
    rw [← hm]
    intro h0
    obtain ⟨q, hqc, hf⟩ := hfail
    exact hf (State.katMarked_eq_zero_iff.1 h0 q hqc)
  have he := exec_mkat_of_empty h hc hk hq hm
  generalize s.katProg c.quad marked = prog at he
  rw [katOutcome, if_neg hne] at he
  obtain ⟨st, ff, hc'⟩ := State.takeToken_myCoach? k hc
  obtain ⟨-, -, hx⟩ := State.myCoach?_eq_some hc'
  have hrun := (s.takeToken k).katRun_coach? (c := c) marked (Coach.failKat_queues prog) hx
  obtain ⟨hstrand, hme⟩ := (s.takeToken k).katRun_running (c := c) marked (Coach.failKat_queues prog)
  have hquad := fun q hqc => (s.takeToken k).katRun_quad (c := c) marked (Coach.failKat prog) (q := q) hqc
  have hcur : ((s.takeToken k).katRun c marked (Coach.failKat prog)).cur = s.cur := by
    rw [State.katRun_eq]
    exact State.takeToken_cur s k
  generalize (s.takeToken k).katRun c marked (Coach.failKat prog) = v at he hrun hstrand hme hquad hcur
  have he : exec (.mkat k seed f low high) s = .next (v.takeFault v.cur codeKat 0#64 prog s.me.pc) := by
    rw [hcur]
    exact he
  have hvme := State.takeFault_me (code := codeKat) 0#64 prog s.me.pc ((congrArg Option.isSome hstrand).trans h.isSome)
    (by decide) (by decide)
  obtain ⟨n, l, honly⟩ := v.takeFault_only (code := codeKat) 0#64 prog s.me.pc (by decide) (by decide)
  generalize v.takeFault v.cur codeKat 0#64 prog s.me.pc = t at he hvme honly
  have hfailed : ∀ q ∈ c.quads, t.quad q = (s.quad q).takeKat
      (decide (katChecksum f seed.toNat ^^^ (s.quad q).defect ≠ high ++ low)) s.tsc := by
    intro q hqc
    rw [honly.quad, ← State.katMarked_getLsbD hqc, hm, ← State.takeToken_quad s k, ← State.takeToken_tsc s k]
    exact hquad q hqc
  obtain ⟨c', hct, hrest⟩ := honly.coach?_of hrun
  refine ⟨t, c', he, ?_, (congrArg Strand.fcode hvme :), (congrArg Strand.faddr hvme :), (congrArg Strand.run hvme :), hct,
    (congrArg Coach.kat hrest).trans (congrArg (fun st : Strand => some st.fprog) hvme).symm, fun q hqc hf => ?_, fun q hqc hp => ?_⟩
  · rw [hvme, ← State.takeToken_pc s k, ← hme]
    rfl
  · rw [hfailed q hqc, decide_eq_true hf]
    rfl
  · rw [hfailed q hqc, decide_eq_false (not_not_intro hp)]
    exact ⟨rfl, rfl⟩

end Mkat

end Sys2Proof.Machine

namespace Sys2Proof

open Machine

/-- Settles O37: each word of the table is a `MatrixWord`, of which `matrixWord_outcomes` speaks; the others by
`mstatForm_acts`, `mwait_outcomes`, and for MKAT `mkat_passes` and `mkat_fails`. -/
theorem matrixWords : Obligations.MatrixWords := by
  intro s k c a b d f sr n seed low high hc x y z table reads mkat kat passes
  have form : ∀ r ∈ table, MatrixWord s c k r.1 r.2.1 r.2.2.1 r.2.2.2.1 r.2.2.2.2 := by
    simp only [table, List.forall_mem_cons]
    exact ⟨⟨fun c => mwldCheck c (c.desc a.toNat) f, fun c pc => mwldOp c a f pc k.push.toNat 0, rfl, fun _ _ => ⟨rfl, rfl⟩⟩,
      ⟨fun c => mmaCheck c (c.desc a.toNat) (c.desc d.toNat) (c.optDesc b) f,
        fun c pc => mmaOp c opMma a b d f pc k.push.toNat 0, rfl, fun _ _ => ⟨rfl, rfl⟩⟩,
      ⟨fun c => mmasCheck c (c.desc a.toNat) (c.desc b.toNat) (c.desc d.toNat) f,
        fun c pc => mmaOp c opMmas a b d f pc k.push.toNat 0, rfl, fun _ _ => ⟨rfl, rfl⟩⟩,
      ⟨fun c => mgathCheck c (c.desc a.toNat) (c.desc b.toNat) b.toNat, fun c pc => newMatOp opMgath 0#3 (c.desc a.toNat)
        (c.desc b.toNat) Desc.zero Desc.zero true pc k.push.toNat 0, rfl, fun _ _ => ⟨rfl, rfl⟩⟩,
      ⟨fun c => mzeroCheck c (c.desc d.toNat), fun c pc => newMatOp opMzero 0#3 Desc.zero Desc.zero (c.desc d.toNat)
        Desc.zero false pc k.push.toNat 0, rfl, fun _ _ => ⟨rfl, rfl⟩⟩, fun _ hr => nomatch hr⟩
  have stats : ∀ r ∈ reads, ∃ v, exec r.1 = mstatForm r.1 k sr v r.2.2 ∧ (∀ st ff, v (c.withThreads st ff) = v c) ∧
      v c = r.2.1 ∧ Coach.Queues r.2.2 := by
    simp only [reads, List.forall_mem_cons]
    exact ⟨⟨fun c => word c.matq.length, rfl, fun _ _ => rfl, rfl, fun _ => rfl, fun _ _ => rfl, fun _ _ => rfl⟩,
      ⟨fun c => word (flagNat c.spx + 2 * flagNat c.iov), rfl, fun _ _ => rfl, rfl, fun _ => rfl, fun _ _ => rfl,
        fun _ i => by cases i <;> rfl⟩,
      ⟨fun c => c.retired, rfl, fun _ _ => rfl, rfl, fun _ => rfl, fun _ _ => rfl, fun _ _ => rfl⟩, fun _ hr => nomatch hr⟩
  refine ⟨fun r hr h hk => matrixWord_outcomes (form r hr) h hc hk, fun r hr h hk => ?_, fun h hk => mwait_outcomes h hc hk,
    fun h hk => ⟨parks_mkat h hc hk, mkat_passes h hc hk, mkat_fails h hc hk⟩,
    fun m hm => ⟨fun r hr h => (form r hr).traps_of_kat h hc hm, fun h => traps_of_afterKat h hc hm (exec_mwait k n)⟩⟩
  obtain ⟨v, hx, hv, hr, hf⟩ := stats r hr
  rw [← hr]
  exact mstatForm_acts hx hv hf h hc hk

end Sys2Proof
end

section
/-! SUPPORT. Aborts: fields of doublewords of PM, and what the abort of a launch leaves of memory, PM, records and quadrants (R266,
R305, R306, R335, R355). -/

namespace Sys2Proof.Machine

/-! ## Fields of a doubleword (R6) -/

theorem testBit_bits (w : Word) (hi lo i : Nat) :
    (bits w hi lo).testBit i = (decide (i < hi + 1 - lo) && w.getLsbD (lo + i)) := by
  rw [bits, BitVec.testBit_toNat, BitVec.getLsbD_extractLsb']

theorem bits_setBits_self (w : Word) {hi lo v : Nat} (hhi : hi < 64) (hv : v < 2 ^ (hi + 1 - lo)) :
    bits (setBits w hi lo v) hi lo = v := by
  refine Nat.eq_of_testBit_eq (fun i => ?_)
  rw [testBit_bits]
  by_cases hi' : i < hi + 1 - lo
  · rw [decide_eq_true hi', Bool.true_and, getLsbD_setBits _ _ _ _ _ (by omega), if_pos (by omega), Nat.add_sub_cancel_left]
  · rw [decide_eq_false hi', Bool.false_and, Nat.testBit_lt_two_pow]
    exact lt_of_lt_of_le hv (Nat.pow_le_pow_right (by decide) (Nat.le_of_not_lt hi'))

/-- Another field stays. -/
theorem bits_setBits_of_disjoint (w : Word) {hi lo hi' lo' : Nat} (v : Nat) (hhi : hi' < 64) (h : hi < lo' ∨ hi' < lo) :
    bits (setBits w hi lo v) hi' lo' = bits w hi' lo' := by
  refine Nat.eq_of_testBit_eq (fun i => ?_)
  rw [testBit_bits, testBit_bits]
  by_cases hi : i < hi' + 1 - lo'
  · rw [getLsbD_setBits _ _ _ _ _ (by omega), if_neg (by omega)]
  · rw [decide_eq_false hi, Bool.false_and, Bool.false_and]

theorem State.pmWord_pmSetWord_self (s : State) (d a : Nat) (w : Word) : (s.pmSetWord d a w).pmWord d a = w := by
  refine BitVec.eq_of_getLsbD_eq (fun j hj => ?_)
  rw [State.pmWord_getLsbD _ _ _ hj, State.pmSetWord_pmByte, if_pos ⟨rfl, by omega, by omega⟩, Nat.add_sub_cancel_left,
    getLsbD_byte _ _ (by omega), show 8 * (j / 8) + j % 8 = j by omega, BitVec.testBit_toNat]

theorem State.pmWord_pmSetBits_self (s : State) (d a hi lo v : Nat) :
    (s.pmSetBits d a hi lo v).pmWord d a = setBits (s.pmWord d a) hi lo v :=
  s.pmWord_pmSetWord_self d a _

theorem State.pmWord_of_pm {s t : State} {d : Nat} (h : (t.die d).pm = (s.die d).pm) (a : Nat) : t.pmWord d a = s.pmWord d a := by
  rw [State.pmWord, State.pmWord, State.pmBytes, State.pmBytes, h]

/-! ## What an abort leaves (R305, R306) -/

/-- Memory, PM, the records on their way, and of each quadrant all but the threads that wait for its semaphores. -/
structure AbortLeaves (s t : State) : Prop where
  mem    : t.mem = s.mem
  faults : t.faults = s.faults
  pm     : ∀ d, (t.die d).pm = (s.die d).pm
  quad   : ∀ q, t.quad q = { s.quad q with semWait := (t.quad q).semWait }

namespace AbortLeaves

theorem trans {s t u : State} (h : AbortLeaves s t) (g : AbortLeaves t u) : AbortLeaves s u :=
  ⟨g.mem.trans h.mem, g.faults.trans h.faults, fun d => (g.pm d).trans (h.pm d), fun q => (g.quad q).trans (by rw [h.quad q])⟩

/-- Beside what it speaks of, the part may differ in any way. -/
theorem of_same {s t : State} (hm : t.mem = s.mem) (hf : t.faults = s.faults) (hd : t.dies = s.dies) (hq : t.quads = s.quads) :
    AbortLeaves s t := by
  refine ⟨hm, hf, fun d => ?_, fun q => ?_⟩
  · rw [State.die, State.die, hd]
  · rw [State.quad, State.quad, hq]

theorem refl (s : State) : AbortLeaves s s := of_same rfl rfl rfl rfl

theorem foldl {α : Type} {f : State → α → State} (hf : ∀ s x, AbortLeaves s (f s x)) (l : List α) (s : State) :
    AbortLeaves s (l.foldl f s) :=
  List.foldlRecOn (motive := AbortLeaves s) _ _ (refl s) (fun u hu x _ => hu.trans (hf u x))

theorem updDie (s : State) (d : Nat) (f : Die → Die) (hf : ∀ x, (f x).pm = x.pm) : AbortLeaves s (s.updDie d f) := by
  refine ⟨rfl, rfl, fun e => ?_, fun _ => rfl⟩
  rw [State.die_updDie]
  split <;> rename_i h
  · rw [hf, h]
  · rfl

theorem updCoach (s : State) (q : Nat) (f : Coach → Coach) : AbortLeaves s (s.updCoach q f) := of_same rfl rfl rfl rfl

theorem sendFlit (s : State) (die : Nat) (fl : Flit) : AbortLeaves s (s.sendFlit die fl) := by
  have pump : ∀ (s : State) (p : Nat), AbortLeaves s (s.pump p) := by
    intro s p
    unfold State.pump
    split
    · exact of_same rfl rfl rfl rfl
    · exact refl s
  unfold State.sendFlit State.sendFlit?
  split
  · exact of_same rfl rfl rfl rfl
  · split
    · rw [Option.getD_some]
      refine trans ?_ (pump _ _)
      exact of_same rfl rfl rfl rfl
    · exact refl s

theorem unbindAll (s : State) (c : Coach) : AbortLeaves s (s.unbindAll c) := by
  unfold State.unbindAll
  refine foldl ?_ _ s
  intro s q
  split
  · refine trans ?_ (sendFlit _ _ _)
    exact of_same rfl rfl rfl rfl
  · exact refl s

theorem tally (s : State) (q : Nat) : AbortLeaves s (s.tally q) := by
  unfold State.tally
  split
  · exact refl s
  · refine trans ?_ (updCoach _ _ _)
    exact updDie _ _ _ (fun _ => rfl)

theorem dropWaiters (s : State) (q : Nat) : AbortLeaves s (s.dropWaiters q) := by
  unfold State.dropWaiters
  refine foldl ?_ _ s
  refine fun s k => ⟨rfl, rfl, fun _ => rfl, fun p => ?_⟩
  rw [State.quad_updQuad]
  split <;> rename_i h
  · rw [h]
  · rfl

theorem dropCoach (s : State) (q : Nat) : AbortLeaves s (s.dropCoach q) := by
  unfold State.dropCoach
  split
  · exact refl s
  · rename_i c _
    have h := ((tally s q).trans (unbindAll _ c)).trans (dropWaiters _ q)
    exact ⟨h.mem, h.faults, h.pm, h.quad⟩

theorem abortLaunch (s : State) (tag cause : Nat) (other : BitVec 16) (user : BitVec 13) :
    AbortLeaves s (s.abortLaunch tag cause other user) := by
  have stop : AbortLeaves s (s.stopCoaches tag) := by
    unfold State.stopCoaches
    refine foldl ?_ _ s
    exact fun s c => dropCoach s c.quad
  unfold State.abortLaunch
  split
  · exact refl s
  · split
    · exact refl s
    · split
      · exact stop.trans (of_same rfl rfl rfl rfl)
      · exact stop.trans (of_same rfl rfl rfl rfl)
      · exact refl s

theorem killCoach (s : State) (q : Nat) : AbortLeaves s (s.killCoach q) := by
  unfold State.killCoach
  split
  · exact refl s
  · exact abortLaunch ..

end AbortLeaves

/-! ## Reports (R335) -/

/-- Only the counter of free values differs. -/
def FreeOnly (s t : State) : Prop := t = { s with free := t.free }

theorem FreeOnly.refl (s : State) : FreeOnly s s := rfl

/-- A value that the manual leaves open is drawn. -/
theorem FreeOnly.orFree {s t : State} (h : FreeOnly s t) (v : Option Word) : FreeOnly s (t.orFree v).1 := by
  cases v with
  | none => exact (congrArg (fun x : State => { x with free := t.free + 1 }) h :)
  | some v => exact h

theorem FreeOnly.post {s t : State} (h : FreeOnly s t) {r : FaultRec} {code : BitVec 16} (level die : Nat)
    (hr : r.code = code) :
    ∃ n m x, t.post r level die = { s with free := n, nextReq := m, faults := s.faults ++ [x] } ∧ x.level = level ∧
      x.die = die ∧ x.body.code = code := by
  refine ⟨t.free, s.nextReq + 1, { id := s.nextReq, body := r, level := level, die := die, waiting := false }, ?_, rfl, rfl, hr⟩
  rw [h]
  rfl

/-- The record of a unit that is no master sets out for its level. -/
theorem State.postUnit_eq (s : State) (code : Nat) (eng : Bool) (handle : Option (BitVec 24)) (epc faddr fprog : Option Word)
    (vtag : BitVec 16) (place : Option (Nat × Nat)) (level die : Nat) :
    ∃ n m x, s.postUnit code eng handle epc faddr fprog vtag place level die =
      { s with free := n, nextReq := m, faults := s.faults ++ [x] } ∧ x.level = level ∧ x.die = die ∧
        x.body.code = BitVec.ofNat 16 code := by
  unfold State.postUnit
  refine FreeOnly.post ?_ level die rfl
  exact .orFree (.orFree (.orFree (.orFree (.orFree (.refl s) _) _) _) _) _

theorem FreeOnly.postSlice {s t : State} (h : FreeOnly s t) (r : FaultRec) (die : Nat) :
    ∃ n m l, t.postSlice r die = { s with free := n, nextReq := m, faults := l } := by
  obtain ⟨m, l, hp, -⟩ := State.postSlice_postsRecord t r die
  exact ⟨t.free, m, t.faults ++ l, hp.trans (by rw [h])⟩

/-- The record of killed coaches. -/
theorem State.reportKill_eq (s : State) (die slice n : Nat) :
    ∃ f m l, s.reportKill die slice n = { s with free := f, nextReq := m, faults := l } := by
  unfold State.reportKill State.reportSlice
  refine FreeOnly.postSlice ?_ _ die
  exact .orFree (.orFree (.orFree (.refl s) none) _) _

end Sys2Proof.Machine
end

section
/-! SUPPORT. StopTimers: stop points of coaches, the timers of a pre-emption request, the freeze of an array, and the known-answer
floor (R101, R207, R353 to R355, R376, R377). -/

namespace Sys2Proof.Machine

/-! ## The stop of a coach (R101, R164, R353) -/

theorem Coach.untoken_quad (c : Coach) (o : VecOp) : (c.untoken o).quad = c.quad := by
  unfold Coach.untoken
  simp only []
  split <;> split <;> rfl

theorem Coach.withdrawUnit_quad (c : Coach) : (c.withdrawUnit).quad = c.quad := by
  have fold : ∀ (l : List VecOp) (c : Coach), (l.foldl Coach.untoken c).quad = c.quad := by
    intro l c
    exact List.foldlRecOn (motive := fun x : Coach => x.quad = c.quad) _ _ rfl
      (fun x hx o _ => (Coach.untoken_quad x o).trans hx)
  unfold Coach.withdrawUnit
  split
  · rfl
  · exact fold ..

/-- A stopped coach is the one that its threads leave at their boundaries, without an instruction that cannot begin. -/
theorem State.stopCoach_coach? {s : State} {q : Nat} {d : Coach} (hd : (s.abandonAll q).coach? q = some d) :
    (s.stopCoach q).coach? q = some (if d.unitBlocked then d.withdrawUnit else d) := by
  refine State.coach?_updCoach_self hd (fun c => ?_)
  split
  · exact c.withdrawUnit_quad
  · rfl

/-! ## Dies that stop (R353, R358) -/

/-- What differs when a die enters STOPPED and the strands of its PRE are told: control blocks, Dray strands, and the list of
waits. -/
def DiesOnly (s t : State) : Prop := t = { s with dies := t.dies, preWaits := t.preWaits }

theorem DiesOnly.trans {s t u : State} (h : DiesOnly s t) (g : DiesOnly t u) : DiesOnly s u := by
  unfold DiesOnly at *
  rw [g, h]

theorem State.tellPre_leaves (s : State) : DiesOnly s s.tellPre ∧ ∀ d, (s.tellPre.die d).pm = (s.die d).pm := by
  unfold State.tellPre
  refine List.foldlRecOn (motive := fun u : State => DiesOnly s u ∧ ∀ d, (u.die d).pm = (s.die d).pm) _ _ ⟨rfl, fun _ => rfl⟩ ?_
  rintro u ⟨hu, hpm⟩ w -
  refine ⟨hu.trans rfl, fun d => ?_⟩
  rw [State.die_updDray]
  exact hpm d

section Request

variable (s : State) (die slice : Nat)

theorem State.settlePre_diesOnly : DiesOnly s (s.settlePre die slice) := by
  unfold State.settlePre
  split
  · exact DiesOnly.trans (t := s.pmSetBits ..) rfl (State.tellPre_leaves _).1
  · rfl

theorem State.settleDie_diesOnly : DiesOnly s (s.settleDie die) :=
  List.foldlRecOn (motive := DiesOnly s) _ _ rfl (fun u hu i _ => hu.trans (u.settlePre_diesOnly die i))

theorem State.settleDie_coach? (q : Nat) : (s.settleDie die).coach? q = s.coach? q := by
  rw [s.settleDie_diesOnly die]
  rfl

theorem State.preRung_of_pm {s t : State} (h : (t.die die).pm = (s.die die).pm) : t.preRung die slice = s.preRung die slice := by
  rw [State.preRung, State.preRung, State.pmWord_of_pm h]

/-- A die that enters STOPPED keeps its rung. -/
theorem State.settlePre_preRung : (s.settlePre die slice).preRung die slice = s.preRung die slice := by
  unfold State.settlePre
  split
  · rw [State.preRung_of_pm die slice ((State.tellPre_leaves _).2 die), State.preRung, preBlock, State.pmWord_pmSetBits_self,
      bits_setBits_of_disjoint _ _ (by decide) (by decide)]
    rfl
  · rfl

theorem State.pmSetBits_preRung {rung : Nat} (h : rung < 8) :
    (s.pmSetBits die (preBlock slice) 6 4 rung).preRung die slice = rung := by
  rw [State.preRung, preBlock, State.pmWord_pmSetBits_self, bits_setBits_self _ (by decide) h]

/-- Rung 3 takes coaches away, and neither memory nor PM. -/
theorem State.killSlice_leaves : (s.killSlice die slice).mem = s.mem ∧ ∀ d, ((s.killSlice die slice).die d).pm = (s.die d).pm := by
  have hk : ∀ cs : List Coach, AbortLeaves s (cs.foldl (fun s c => s.killCoach c.quad) s) := fun cs => by
    refine AbortLeaves.foldl ?_ cs s
    exact fun s c => AbortLeaves.killCoach s c.quad
  unfold State.killSlice
  simp only []
  split
  · exact ⟨(hk _).mem, (hk _).pm⟩
  · obtain ⟨f, m, l, hr⟩ := State.reportKill_eq (List.foldl (fun s c => s.killCoach c.quad) s
      ((s.coachesOn die slice).filter (fun c => c.held.isNone && !c.frozen))) die slice
      ((s.coachesOn die slice).filter (fun c => c.held.isNone && !c.frozen)).length
    rw [hr]
    exact ⟨(hk _).mem, (hk _).pm⟩

theorem State.raiseRung_two : s.raiseRung die slice 2 = s.pmSetBits die (preBlock slice) 6 4 2 := rfl

theorem State.raiseRung_three_leaves :
    (s.raiseRung die slice 3).mem = s.mem ∧ (s.raiseRung die slice 3).preRung die slice = 3 := by
  obtain ⟨hmem, hpm⟩ := (s.pmSetBits die (preBlock slice) 6 4 3).killSlice_leaves die slice
  exact ⟨hmem, (State.preRung_of_pm die slice (hpm die)).trans (s.pmSetBits_preRung die slice (by decide))⟩

end Request

/-! ## The timers (R355) -/

section Timers

variable {s : State} {die slice : Nat} {r : PreReq} (hr : s.preReq die slice = some r)
include hr

theorem exec_preT1Expiry : exec (.preT1Expiry die slice) s =
    if s.preState die slice = 1 ∧ s.preRung die slice < 2 ∧ r.t1 < r.t2 ∧ r.t1 ≤ (s.tsc - r.began).toNat / 1000 then
      .next ((s.raiseRung die slice 2).settlePre die slice)
    else .next s := by
  show execPreT1Expiry die slice s = _
  simp only [execPreT1Expiry, hr]
  rfl

theorem exec_preT2Expiry : exec (.preT2Expiry die slice) s =
    if s.preState die slice = 1 ∧ s.preRung die slice < 3 ∧ r.t2 ≤ (s.tsc - r.began).toNat / 1000 then
      .next ((s.raiseRung die slice 3).settlePre die slice)
    else .next s := by
  show execPreT2Expiry die slice s = _
  simp only [execPreT2Expiry, hr]
  rfl

theorem preT1Expiry_raises (hs : s.preState die slice = 1) (hlow : s.preRung die slice < 2) (ht : r.t1 < r.t2)
    (hage : r.t1 ≤ (s.tsc - r.began).toNat / 1000) :
    ∃ t, exec (.preT1Expiry die slice) s = .next t ∧ t.mem = s.mem ∧ t.coaches = s.coaches ∧ t.preRung die slice = 2 := by
  refine ⟨_, (exec_preT1Expiry hr).trans (if_pos ⟨hs, hlow, ht, hage⟩), ?_, ?_, ?_⟩
  · rw [State.settlePre_diesOnly]
    rfl
  · rw [State.settlePre_diesOnly]
    rfl
  · rw [State.settlePre_preRung, State.raiseRung_two, State.pmSetBits_preRung _ _ _ (by decide)]

theorem preT2Expiry_raises (hs : s.preState die slice = 1) (hlow : s.preRung die slice < 3)
    (hage : r.t2 ≤ (s.tsc - r.began).toNat / 1000) :
    ∃ t, exec (.preT2Expiry die slice) s = .next t ∧ t.mem = s.mem ∧ t.preRung die slice = 3 := by
  obtain ⟨hmem, hrung⟩ := s.raiseRung_three_leaves die slice
  refine ⟨_, (exec_preT2Expiry hr).trans (if_pos ⟨hs, hlow, hage⟩), ?_, ?_⟩
  · rw [State.settlePre_diesOnly]
    exact hmem
  · rw [State.settlePre_preRung, hrung]

end Timers

/-! ## Stop points and the freeze of an array (R207, R353) -/

section Held

variable {s : State} {q : Nat} {c : Coach} (hc : s.coach? q = some c)
include hc

theorem exec_coachHeld_of_frozen (hf : c.frozen = true) :
    exec (.coachHeld q) s = .next ((s.stopCoach q).settleDie (quadDie q)) := by
  show execCoachHeld q s = _
  simp only [execCoachHeld, hc, hf, if_true]

theorem exec_coachHeld_of_idle (hf : c.frozen = false)
    (hi : s.preState (quadDie q) c.slice = 0 ∨ s.preRung (quadDie q) c.slice = 0 ∨ c.held.isSome = true) :
    exec (.coachHeld q) s = .next (s.settleDie (quadDie q)) := by
  show execCoachHeld q s = _
  simp only [execCoachHeld, hc, hf, hi, Bool.false_eq_true, if_false, if_true]

/-- The state in which a coach under a request has been brought towards its stop point: at rung 2 and above its streams stop. -/
def State.toStop (s : State) (q rung : Nat) (c : Coach) : State :=
  if 2 ≤ rung ∧ c.phase = .running then
    (s.stopCoach q).updCoach q (fun c => { c with stopAt := c.stopAt.or (some s.tsc) })
  else s

theorem exec_coachHeld_of_request (hf : c.frozen = false) (hs : s.preState (quadDie q) c.slice ≠ 0)
    (hr : s.preRung (quadDie q) c.slice ≠ 0) (hh : c.held = none) {rung : Nat} (hrung : s.preRung (quadDie q) c.slice = rung)
    {u : State} {c' : Coach} (hu : s.toStop q rung c = u) (hc' : u.coach? q = some c') :
    exec (.coachHeld q) s = if u.atStop c' = true then
      .next ((u.updCoach q (fun x => x.hold rung u.tsc u.clocks)).settleDie (quadDie q)) else .next u := by
  subst hrung hu
  have hrun : ¬(s.preState (quadDie q) c.slice = 0 ∨ s.preRung (quadDie q) c.slice = 0 ∨ c.held.isSome = true) := by
    simp [hs, hr, hh]
  show execCoachHeld q s = _
  unfold State.toStop at hc' ⊢
  simp only [execCoachHeld, hc, hf, hrun, Bool.false_eq_true, if_false, hc']

theorem exec_mmaBoundaryTimeout {stop : Word} (hs : c.stopAt = some stop) :
    exec (.mmaBoundaryTimeout q) s =
      if (s.halting c = false ∧ c.frozen = false) ∨ c.matStill = true ∨ (s.tsc - stop).toNat < 4000 then .next s
      else .next (if s.halting c = true
        then (s.updCoach q (fun c => { c with froze := true })).pmSetBits (quadDie q) (preBlock c.slice) 8 8 1
        else s.updCoach q (fun c => { c with froze := true })) := by
  show execMmaBoundaryTimeout q s = _
  simp only [execMmaBoundaryTimeout, hc, hs]
  rfl

/-- An array whose coach is under a request freezes, and the request's block says so; one that a kill has frozen only freezes. -/
theorem mmaBoundaryTimeout_freezes {stop : Word} (hs : c.stopAt = some stop) (hsel : s.halting c = true ∨ c.frozen = true)
    (hst : c.matStill = false) (hage : 4000 ≤ (s.tsc - stop).toNat) :
    ∃ t, exec (.mmaBoundaryTimeout q) s = .next t ∧ t.coach? q = some { c with froze := true } ∧
      (s.halting c = true → bit (t.pmWord (quadDie q) (preBlock c.slice)) 8 = true) ∧
      (s.halting c = false → t = { s with coaches := t.coaches }) := by
  have hfroze : (s.updCoach q (fun c => { c with froze := true })).coach? q = some { c with froze := true } :=
    State.coach?_updCoach_self hc (fun _ => rfl)
  refine ⟨_, (exec_mmaBoundaryTimeout hc hs).trans (if_neg ?_), ?_⟩
  · rintro (⟨hh, hf⟩ | hm | hlt)
    · simp [hh, hf] at hsel
    · simp [hst] at hm
    · exact Nat.not_lt.2 hage hlt
  · by_cases hh : s.halting c = true
    · rw [if_pos hh]
      refine ⟨hfroze, fun _ => ?_, fun h => absurd (hh.symm.trans h) (by decide)⟩
      rw [State.pmWord_pmSetBits_self, bit, getLsbD_setBits _ _ _ _ _ (by decide), if_pos (by decide)]
      rfl
    · rw [if_neg hh]
      exact ⟨hfroze, fun h => absurd h hh, fun _ => rfl⟩

theorem mmaBoundaryTimeout_waits {stop : Word} (hs : c.stopAt = some stop)
    (hdue : ¬((s.halting c = true ∨ c.frozen = true) ∧ c.matStill = false ∧ 4000 ≤ (s.tsc - stop).toNat)) :
    exec (.mmaBoundaryTimeout q) s = .next s := by
  refine (exec_mmaBoundaryTimeout hc hs).trans (if_pos ?_)
  by_contra hgo
  simp only [not_or, not_and, Bool.not_eq_false, Bool.not_eq_true, Nat.not_lt] at hgo
  obtain ⟨hsel, hst, hage⟩ := hgo
  refine hdue ⟨?_, hst, hage⟩
  rw [or_iff_not_imp_left, Bool.not_eq_true]
  exact hsel

end Held

/-! ## The known-answer floor (R376, R377) -/

section Kat

variable {s : State} {q late : Nat} {defect : Bool} {i : Instr}

theorem exec_katFloor (hl : s.katLate q = some late) (hh : s.boot.halted = false)
    (hi : (i = .katFloorTest q defect ∧ s.matrixBusy q = false) ∨ (i = .katFloorFreeze q defect ∧ 1000000 ≤ late)) :
    exec i s = .next (s.katTest q defect) := by
  rcases hi with ⟨rfl, hbusy⟩ | ⟨rfl, hlate⟩
  · show execKatFloorTest q defect s = _
    rw [execKatFloorTest, if_neg (by simp [hl, hbusy, hh])]
  · show execKatFloorFreeze q defect s = _
    simp only [execKatFloorFreeze, hl]
    rw [if_neg (by simp [hh, Nat.not_lt.2 hlate])]

/-- A mismatch quarantines the quadrant and sends a record to level O. -/
theorem State.katMismatch_reports (s : State) (q : Nat) :
    ((s.katMismatch q).quad q).quarantined = true ∧
      ∃ p ∈ (s.katMismatch q).faults, p.level = 80 ∧ p.die = quadDie q ∧ p.body.code = 0x0403#16 := by
  unfold State.katMismatch
  simp only []
  obtain ⟨n, m, x, hp, hlevel, hdie, hcode⟩ := (s.updQuad q (fun x => { x with quarantined := true })).postUnit_eq codeKat false
    none none none (some (s.katProg q (1#4 <<< (q % 4)))) 0#16
    (((s.updQuad q (fun x => { x with quarantined := true })).coachHolding q).map
      (fun c => (c.slice, (s.updQuad q (fun x => { x with quarantined := true })).sliceDomain (quadDie q) c.slice)))
    80 (quadDie q)
  rw [hp]
  have hq : (s.updQuad q (fun x => { x with quarantined := true })).quad q = { s.quad q with quarantined := true } :=
    s.quad_updQuad_self q _
  split
  · have leaves := AbortLeaves.abortLaunch
      { s.updQuad q (fun x => { x with quarantined := true }) with
        free := n, nextReq := m, faults := (s.updQuad q (fun x => { x with quarantined := true })).faults ++ [x] }
    exact ⟨(congrArg Quadrant.quarantined ((leaves ..).quad q)).trans (congrArg Quadrant.quarantined hq), x,
      (leaves ..).faults.symm ▸ List.mem_append_right _ (List.mem_singleton.2 rfl), hlevel, hdie, hcode⟩
  · exact ⟨congrArg Quadrant.quarantined hq, x, List.mem_append_right _ (List.mem_singleton.2 rfl), hlevel, hdie, hcode⟩

/-- The outcome of the due test: the array's tile is right, and so is the checksum of the entry's. -/
def State.katPasses (s : State) (q : Nat) (defect : Bool) : Bool :=
  let e := s.katEntry (quadDie q) (s.die (quadDie q)).katNext
  !defect && (s.quad q).defect == 0#64 && katChecksum (s.die (quadDie q)).katFamily e.1 == e.2

theorem State.katTest_eq (s : State) (q : Nat) (defect : Bool) : s.katTest q defect =
    if s.katPasses q defect = true then
      (s.updDie (quadDie q) (fun x => { x with katNext := (x.katNext + 1) % 16 })).updQuad q
        (fun x => { x with lastKat := s.tsc, mustPass := false })
    else (s.updDie (quadDie q) (fun x => { x with katNext := (x.katNext + 1) % 16 })).katMismatch q := rfl

theorem State.katTest_of_pass (s : State) (q : Nat) (defect : Bool) (hp : s.katPasses q defect = true) :
    ∃ t, s.katTest q defect = t ∧ t = { s with dies := t.dies, quads := t.quads } ∧
      t.quad q = { s.quad q with lastKat := s.tsc, mustPass := false } ∧ (∀ p, p ≠ q → t.quad p = s.quad p) ∧
      (t.die (quadDie q)).katNext = ((s.die (quadDie q)).katNext + 1) % 16 := by
  refine ⟨_, (s.katTest_eq q defect).trans (if_pos hp), rfl, State.quad_updQuad_self .., fun p hpq => ?_, ?_⟩
  · exact (State.quad_updQuad ..).trans (if_neg hpq)
  · have hdie := s.die_updDie (quadDie q) (quadDie q) (fun x => { x with katNext := (x.katNext + 1) % 16 })
    exact congrArg Die.katNext (hdie.trans (if_pos rfl))

end Kat

end Sys2Proof.Machine

namespace Sys2Proof

open Machine

/-- Settles O47, part by part: the stop of a coach, the timers of a request, the freeze of an array, and the known-answer floor. -/
theorem stopPoints : Obligations.StopPoints := by
  refine ⟨fun s q c hc => ?_, fun s die slice r hr => ?_, fun s q c stop hc hs => ?_, fun s q late defect i hl hh hi => ?_⟩
  · intro die rung u
    refine ⟨fun d hd => State.stopCoach_coach? hd, exec_coachHeld_of_frozen hc, exec_coachHeld_of_idle hc,
      fun hf hs hr hh c' hc' => ⟨fun hstop => ⟨_, ?_, rfl, ?_, rfl⟩, fun hstop => ?_⟩⟩
    · exact (exec_coachHeld_of_request hc hf hs hr hh rfl rfl hc').trans (if_pos hstop)
    · rw [State.settleDie_coach?]
      exact State.coach?_updCoach_self hc' (fun _ => rfl)
    · exact (exec_coachHeld_of_request hc hf hs hr hh rfl rfl hc').trans (if_neg (Bool.eq_false_iff.1 hstop))
  · intro age
    refine ⟨preT1Expiry_raises hr, fun h => ?_, preT2Expiry_raises hr, fun h => ?_⟩
    · rw [exec_preT1Expiry hr, if_neg (by omega)]
    · rw [exec_preT2Expiry hr, if_neg (by omega)]
  · intro due
    refine ⟨fun h => ?_, mmaBoundaryTimeout_waits hc hs⟩
    obtain ⟨hsel, hst, hage⟩ := h
    exact mmaBoundaryTimeout_freezes hc hs hsel hst hage
  · intro die e pass
    have hexec := exec_katFloor hl hh hi
    refine ⟨fun hp => ?_, fun hp => ?_⟩
    · obtain ⟨t, ht, rest⟩ := s.katTest_of_pass q defect hp
      exact ⟨t, hexec.trans (congrArg _ ht), rest⟩
    · obtain ⟨hquar, p, hmem, rest⟩ :=
        (s.updDie die (fun x => { x with katNext := (x.katNext + 1) % 16 })).katMismatch_reports q
      exact ⟨_, p, hexec.trans (congrArg _ ((s.katTest_eq q defect).trans (if_neg (Bool.eq_false_iff.1 hp)))), hquar, hmem, rest⟩

end Sys2Proof
end

section
/-! SUPPORT. BarrierWords: the CBAR words, what an arrival leaves of its strand and of the barrier, and the wait (R239, R241,
R242). -/

namespace Sys2Proof.Machine

/-! ## Two changes of one thread -/

theorem SMap.erase_insert {α : Type} (m : SMap α) (k : Nat) (v : α) :
    SMap.erase (SMap.insert m k v) k = SMap.erase m k := by
  induction m with
  | nil => exact if_pos rfl
  | cons e m ih =>
    rw [SMap.insert]
    split
    · rw [SMap.erase, if_pos rfl]
    · rw [SMap.erase, SMap.erase, ih]

theorem SMap.erase_erase {α : Type} (m : SMap α) (k : Nat) : SMap.erase (SMap.erase m k) k = SMap.erase m k := by
  induction m with
  | nil => rfl
  | cons e m ih =>
    by_cases h : e.1 = k
    · rwa [SMap.erase, if_pos h]
    · rw [SMap.erase, if_neg h, SMap.erase, if_neg h, ih]

theorem SMap.erase_put {α : Type} [DecidableEq α] (d : Nat → α) (m : SMap α) (k : Nat) (v : α) :
    SMap.erase (SMap.put d m k v) k = SMap.erase m k := by
  rw [SMap.put]
  split
  · exact SMap.erase_erase m k
  · rw [SMap.erase_insert, SMap.erase_erase]

/-- The later of two writes of a key is what stays. -/
theorem SMap.put_put {α : Type} [DecidableEq α] (d : Nat → α) (m : SMap α) (k : Nat) (v w : α) :
    SMap.put d (SMap.put d m k v) k w = SMap.put d m k w := by
  rw [SMap.put, SMap.erase_put, ← SMap.put]

theorem updateWhere_updateWhere {α : Type} (p : α → Bool) (f g : α → α) (l : List α) (hf : ∀ x, p (f x) = p x) :
    updateWhere p g (updateWhere p f l) = updateWhere p (fun x => g (f x)) l := by
  rw [updateWhere, updateWhere, List.map_map]
  refine List.map_congr_left (fun x _ => ?_)
  by_cases h : p x = true
  · have hfx : p (f x) = true := (hf x).trans h
    simp only [Function.comp_apply, h, hfx, if_true]
  · simp only [Function.comp_apply, if_neg h]

theorem Coach.updStrand_updStrand (c : Coach) (p : Nat) (f g : Strand → Strand) :
    (c.updStrand p f).updStrand p g = c.updStrand p (fun st => g (f st)) := by
  have hst : (c.updStrand p f).strand p = f (c.strand p) := (c.strand_updStrand p p f).trans (if_pos rfl)
  rw [Coach.updStrand, hst, Coach.updStrand, Coach.setStrand, Coach.setStrand, SMap.put_put]
  rfl

theorem State.updDie_updDie (s : State) (d : Nat) (f g : Die → Die) :
    (s.updDie d f).updDie d g = s.updDie d (fun x => g (f x)) := by
  have hd : (s.updDie d f).die d = f (s.die d) := (s.die_updDie d d f).trans (if_pos rfl)
  rw [State.updDie, hd, State.updDie, State.setDie, State.setDie, SMap.put_put]
  rfl

theorem State.updCoach_updCoach (s : State) (q : Nat) (f g : Coach → Coach) (hf : ∀ c, (f c).quad = c.quad) :
    (s.updCoach q f).updCoach q g = s.updCoach q (fun c => g (f c)) := by
  have hl := updateWhere_updateWhere (fun c : Coach => c.quad == q) f g s.coaches (fun c => by rw [hf])
  rw [State.updCoach, State.updCoach, hl]
  rfl

theorem State.updDray_updDray (s : State) (d k : Nat) (f g : DrayStrand → DrayStrand) :
    (s.updDray d k f).updDray d k g = s.updDray d k (fun x => g (f x)) := by
  rw [State.updDray, State.updDray, State.updDie_updDie]
  simp only [SMap.get_put_self, SMap.put_put]
  rfl

theorem State.updStrand_updStrand (s : State) (th : ThreadId) (f g : Strand → Strand) :
    (s.updStrand th f).updStrand th g = s.updStrand th (fun st => g (f st)) := by
  cases th with
  | coach q p =>
    simp only [State.updStrand, State.updCoach_updCoach s q (Coach.updStrand · p f) (Coach.updStrand · p g) (fun c => rfl),
      Coach.updStrand_updStrand]
  | dray d k => simp only [State.updStrand, State.updDray_updDray]

theorem State.updMe_updMe (s : State) (f g : Strand → Strand) :
    (s.updMe f).updMe g = s.updMe (fun st => g (f st)) := by
  rw [State.updMe, State.updMe_cur]
  exact s.updStrand_updStrand s.cur f g

/-! ## The barrier that a word names (R238) -/

/-- The barrier with a handle in the view of the running coach. -/
def State.namedBar (s : State) (h : Nat) : Option Nat := s.myCoach?.bind (fun c => s.barrier c h)

theorem State.takeToken_myCoach?_none {s : State} (k : Tok) (hc : s.myCoach? = none) : (s.takeToken k).myCoach? = none := by
  cases hcur : s.cur with
  | dray d n => rwa [State.takeToken_of_dray hcur]
  | coach q p =>
    rw [State.myCoach?_of_cur hcur] at hc
    rw [State.myCoach?_of_cur ((State.takeToken_cur s k).trans hcur)]
    rcases State.takeToken_coach? s k q with ⟨hu, -⟩ | ⟨c, c', -, hs, -⟩
    · exact hu
    · exact absurd (hc.symm.trans hs) (Option.some_ne_none c).symm

theorem State.takeToken_namedBar (s : State) (k : Tok) (h : Nat) : (s.takeToken k).namedBar h = s.namedBar h := by
  unfold State.namedBar
  cases hc : s.myCoach? with
  | none => rw [State.takeToken_myCoach?_none k hc]; rfl
  | some c =>
    obtain ⟨st, ff, hu⟩ := State.takeToken_myCoach? k hc
    rw [hu, State.takeToken_eq]
    rfl

theorem State.takeToken_bar (s : State) (k : Tok) (b : Nat) : (s.takeToken k).bar b = s.bar b := by
  rw [State.takeToken_eq]; rfl

theorem State.takeToken_barError (s : State) (k : Tok) : (s.takeToken k).barError = s.barError := by
  rw [State.takeToken_eq]

theorem State.takeToken_arrived (s : State) (k : Tok) : (s.takeToken k).me.arrived = s.me.arrived := by
  rw [State.takeToken_me]

theorem State.takeToken_snaps (s : State) (k : Tok) : (s.takeToken k).me.snaps = s.me.snaps := by
  rw [State.takeToken_me]

section Named

variable {i : Instr} {k : Tok} {s : State} {h : BitVec 4} {body : State → Nat → Res}

/-- A CBAR word whose handle names no barrier. -/
theorem traps_bar (hi : s.Issues coachWord i k) (he : exec i = barForm i k h body) (hn : s.namedBar h.toNat = none) :
    Traps i s k 0x0603 (some (h.setWidth 64)) (some 1#64) := by
  have hx := exec_of_issue hi he
  rw [show (s.takeToken k).myCoach?.bind _ = none from (s.takeToken_namedBar k h.toNat).trans hn] at hx
  exact traps_of_fault hx

/-- A CBAR word whose handle names a barrier without a parity error. -/
theorem exec_bar {b : Nat} (hi : s.Issues coachWord i k) (he : exec i = barForm i k h body)
    (hn : s.namedBar h.toNat = some b) (hb : SMap.get noFlag s.barError b = false) :
    exec i s = (body (s.takeToken k) b).apply k 1 s.me.pc s.cur := by
  have hx := exec_of_issue hi he
  rw [show (s.takeToken k).myCoach?.bind _ = some b from (s.takeToken_namedBar k h.toNat).trans hn] at hx
  simp only [State.takeToken_barError, hb] at hx
  exact hx

end Named

/-! ## What an arrival leaves (R239) -/

/-- The threads of a coach that wait at a barrier are granted its advance. -/
def State.grantsAt (s : State) (b : Nat) (c : Coach) : Coach :=
  (List.range 11).foldl (fun c p =>
    if s.waitsAt c b (c.strand p) then c.updStrand p (fun st => { st with granted := true }) else c) c

theorem State.releaseBar_eq (s : State) (b : Nat) : s.releaseBar b =
    { s with coaches := updateWhere (fun c => quadCluster c.quad == b / 16) (s.grantsAt b) s.coaches } := rfl

theorem State.grantsAt_keeps (s : State) (b : Nat) (c : Coach) (p : Nat) :
    (s.grantsAt b c).quad = c.quad ∧ ((s.grantsAt b c).strand p).snaps = (c.strand p).snaps := by
  refine List.foldlRecOn (motive := fun x : Coach => x.quad = c.quad ∧ (x.strand p).snaps = (c.strand p).snaps)
    _ _ ⟨rfl, rfl⟩ (fun x hx j _ => ?_)
  obtain ⟨hquad, hsnaps⟩ := hx
  split
  · refine ⟨hquad, ?_⟩
    rw [Coach.strand_updStrand]
    split <;> rename_i hj
    · rw [← hsnaps, hj]
    · exact hsnaps
  · exact ⟨hquad, hsnaps⟩

/-- A release changes no strand's snapshots. -/
theorem State.releaseBar_snaps (s : State) (b : Nat) (th : ThreadId) :
    ((s.releaseBar b).strand? th).map Strand.snaps = (s.strand? th).map Strand.snaps := by
  cases th with
  | dray d n => rfl
  | coach q p =>
    have hfind : (s.releaseBar b).coach? q =
        (s.coach? q).map (fun c => if quadCluster c.quad == b / 16 then s.grantsAt b c else c) := by
      rw [State.releaseBar_eq]
      exact find?_updateWhere _ _ _ s.coaches (fun c => by rw [(s.grantsAt_keeps b c p).1])
    simp only [State.strand?, hfind, Option.map_map]
    congr 1
    funext c
    simp only [Function.comp_apply]
    split
    · exact (s.grantsAt_keeps b c p).2
    · rfl

/-- The running strand takes its snapshot of the generation. -/
def State.takesSnap (s : State) (b h : Nat) : State :=
  s.updMe (fun st => { st with
    snaps := SMap.put (fun _ => none) st.snaps h (some (BitVec.ofNat 16 (barGen (s.bar b)))) })

theorem State.arrive_of_last {s : State} {b : Nat} (hl : barCount (s.bar b) + 1 = barExpect (s.bar b)) (h : Nat) :
    s.arrive b h = ((s.takesSnap b h).setBar b
      (setBits (setBits (s.bar b) 37 28 0) 63 48 (barGen (s.bar b) + 1))).releaseBar b :=
  if_pos hl

theorem State.arrive_of_more {s : State} {b : Nat} (hl : barCount (s.bar b) + 1 ≠ barExpect (s.bar b)) (h : Nat) :
    s.arrive b h = (s.takesSnap b h).setBar b (setBits (s.bar b) 37 28 (barCount (s.bar b) + 1)) :=
  if_neg hl

theorem State.arrive_cur (s : State) (b h : Nat) : (s.arrive b h).cur = s.cur := by
  unfold State.arrive
  dsimp only
  split <;> exact s.updMe_cur _

theorem State.arrive_tsc (s : State) (b h : Nat) : (s.arrive b h).tsc = s.tsc := by
  unfold State.arrive
  dsimp only
  split <;> exact s.updMe_tsc _

theorem State.setBar_strand? (s : State) (b : Nat) (w : Word) (th : ThreadId) : (s.setBar b w).strand? th = s.strand? th := by
  cases th <;> rfl

theorem State.arrive_strand?_snaps (s : State) (b h : Nat) (th : ThreadId) :
    ((s.arrive b h).strand? th).map Strand.snaps = ((s.takesSnap b h).strand? th).map Strand.snaps := by
  by_cases hl : barCount (s.bar b) + 1 = barExpect (s.bar b)
  · rw [State.arrive_of_last hl, State.releaseBar_snaps, State.setBar_strand?]
  · rw [State.arrive_of_more hl, State.setBar_strand?]

section Arrived

variable {s : State} {b : Nat} (h : Nat) (hs : (s.strand? s.cur).isSome = true)
include hs

theorem State.arrive_isSome : ((s.arrive b h).strand? (s.arrive b h).cur).isSome = true := by
  have hmap := congrArg Option.isSome (s.arrive_strand?_snaps b h s.cur)
  rw [Option.isSome_map, Option.isSome_map, State.takesSnap, State.strand?_updMe, Option.isSome_map, hs] at hmap
  rwa [State.arrive_cur]

/-- The snapshot is of the generation before the arrival. -/
theorem State.arrive_snap :
    SMap.get (fun _ => none) (s.arrive b h).me.snaps h = some (BitVec.ofNat 16 (barGen (s.bar b))) := by
  have hmap : (s.arrive b h).me.snaps = (s.takesSnap b h).me.snaps := by
    have := congrArg (Option.getD · Strand.start.snaps) (s.arrive_strand?_snaps b h s.cur)
    rw [Option.getD_map, Option.getD_map] at this
    rwa [State.me, State.arrive_cur, State.me, State.takesSnap, State.updMe_cur]
  rw [hmap, State.takesSnap, State.me_updMe s _ hs, SMap.get_put_self]

/-- No release, so no grant, before the last arrival. -/
theorem State.arrive_granted (hl : barCount (s.bar b) + 1 ≠ barExpect (s.bar b)) :
    (s.arrive b h).me.granted = s.me.granted := by
  have hme : (s.arrive b h).me = (s.takesSnap b h).me := by
    rw [State.arrive_of_more hl]
    exact congrArg (Option.getD · Strand.start) (State.setBar_strand? ..)
  rw [hme, State.takesSnap, State.me_updMe s _ hs]

end Arrived

theorem bits_setBits_mod (w : Word) {hi lo : Nat} (v : Nat) (hhi : hi < 64) :
    bits (setBits w hi lo v) hi lo = v % 2 ^ (hi + 1 - lo) := by
  refine Nat.eq_of_testBit_eq (fun i => ?_)
  rw [testBit_bits, Nat.testBit_mod_two_pow]
  by_cases hi' : i < hi + 1 - lo
  · rw [getLsbD_setBits _ _ _ _ _ (by omega), if_pos (by omega), Nat.add_sub_cancel_left]
  · rw [decide_eq_false hi', Bool.false_and, Bool.false_and]

theorem barGen_lt (w : Word) : barGen w < 65536 := (w.extractLsb' 48 16).isLt

/-- The last arrival leaves the next generation. -/
theorem State.arrive_barGen_of_last {s : State} {b : Nat} (hl : barCount (s.bar b) + 1 = barExpect (s.bar b)) (h : Nat) :
    barGen ((s.arrive b h).bar b) = (barGen (s.bar b) + 1) % 65536 := by
  have hbar : (s.arrive b h).bar b = setBits (setBits (s.bar b) 37 28 0) 63 48 (barGen (s.bar b) + 1) := by
    rw [State.arrive_of_last hl]
    exact SMap.get_put_self zeroWord ..
  rw [hbar]
  exact bits_setBits_mod _ _ (by decide)

/-- Every other arrival leaves the generation as it was. -/
theorem State.arrive_barGen_of_more {s : State} {b : Nat} (hl : barCount (s.bar b) + 1 ≠ barExpect (s.bar b)) (h : Nat) :
    barGen ((s.arrive b h).bar b) = barGen (s.bar b) := by
  have hbar : (s.arrive b h).bar b = setBits (s.bar b) 37 28 (barCount (s.bar b) + 1) := by
    rw [State.arrive_of_more hl]
    exact SMap.get_put_self zeroWord ..
  rw [hbar]
  exact bits_setBits_of_disjoint _ _ (by decide) (by decide)

/-! ## The arrival and the wait of a word (R241, R242) -/

/-- The running strand has arrived in a CBAR.AW that has not ended. -/
def State.stays (s : State) : State := s.updMe (fun st => { st with arrived := true })

/-- The running strand is past its barrier. -/
def State.leavesBar (s : State) : State := s.updMe (fun st => { st with arrived := false, strict := true })

theorem State.stays_leavesBar (s : State) : s.stays.leavesBar = s.leavesBar := s.updMe_updMe _ _

theorem State.stays_me {s : State} (hs : (s.strand? s.cur).isSome = true) : s.stays.me = { s.me with arrived := true } :=
  State.me_updMe s _ hs

theorem State.stays_bar (s : State) (b : Nat) : s.stays.bar b = s.bar b :=
  congrArg (fun m => SMap.get zeroWord m b) (s.updMe_bars _)

section Wait

variable {s : State} {b : Nat} {h : BitVec 4} {f : State → Res}

theorem barWait_of_none (hg : SMap.get (fun _ => none) s.me.snaps h.toNat = none) : barWait s b h = .done s.leavesBar := by
  rw [barWait, hg]; rfl

theorem barWait_of_some {g : BitVec 16} (hg : SMap.get (fun _ => none) s.me.snaps h.toNat = some g) :
    barWait s b h =
      if s.me.granted = true ∨ barGen (s.bar b) ≠ g.toNat then .done s.leavesBar else .wait s (.barrier h.toNat) := by
  rw [barWait, hg]; rfl

theorem arriving_of_arrived (ha : s.me.arrived = true) : arriving s b h f = f s := if_pos ha

theorem arriving_of_waits (ha : s.me.arrived = false) (hw : s.arrivalWaits = true) : arriving s b h f = .wait s .fence := by
  rw [arriving, if_neg (Bool.eq_false_iff.1 ha), if_pos hw]

theorem arriving_of_arrives (ha : s.me.arrived = false) (hw : s.arrivalWaits = false) :
    arriving s b h f = f (s.arrive b h.toNat) := by
  rw [arriving, if_neg (Bool.eq_false_iff.1 ha), if_neg (Bool.eq_false_iff.1 hw)]

/-- The wait after an arrival of the same word is over once the generation has moved from the arrival's snapshot. -/
theorem barWait_of_arrive (hs : (s.strand? s.cur).isSome = true) :
    barWait (s.arrive b h.toNat).stays b h =
      if (s.arrive b h.toNat).me.granted = true ∨ barGen ((s.arrive b h.toNat).bar b) ≠ barGen (s.bar b) then
        .done (s.arrive b h.toNat).stays.leavesBar
      else .wait (s.arrive b h.toNat).stays (.barrier h.toNat) := by
  have hme := State.stays_me (State.arrive_isSome (b := b) h.toNat hs)
  have hsnap : SMap.get (fun _ => none) (s.arrive b h.toNat).stays.me.snaps h.toNat = _ :=
    (congrArg (fun st => SMap.get (fun _ => none) st.snaps h.toNat) hme).trans (State.arrive_snap h.toNat hs)
  rw [barWait_of_some hsnap, hme, State.stays_bar, BitVec.toNat_ofNat, Nat.mod_eq_of_lt (barGen_lt _)]

theorem barWait_of_last (hs : (s.strand? s.cur).isSome = true) (hl : barCount (s.bar b) + 1 = barExpect (s.bar b)) :
    barWait (s.arrive b h.toNat).stays b h = .done (s.arrive b h.toNat).stays.leavesBar := by
  have hlt := barGen_lt (s.bar b)
  have hmoved : barGen ((s.arrive b h.toNat).bar b) ≠ barGen (s.bar b) := by
    rw [State.arrive_barGen_of_last hl]
    omega
  rw [barWait_of_arrive hs, if_pos (.inr hmoved)]

theorem barWait_of_more (hs : (s.strand? s.cur).isSome = true) (hl : barCount (s.bar b) + 1 ≠ barExpect (s.bar b))
    (hg : s.me.granted = false) :
    barWait (s.arrive b h.toNat).stays b h = .wait (s.arrive b h.toNat).stays (.barrier h.toNat) := by
  have hgranted := (State.arrive_granted h.toNat hs hl).trans hg
  have hgen := State.arrive_barGen_of_more hl h.toNat
  rw [barWait_of_arrive hs, if_neg (not_or.2 ⟨Bool.eq_false_iff.1 hgranted, not_not_intro hgen⟩)]

end Wait

/-! ## The words -/

section Words

variable {s : State} {k : Tok} {h : BitVec 4} {b : Nat} (hn : s.namedBar h.toNat = some b)
  (hb : SMap.get noFlag s.barError b = false)
include hn hb

theorem cbarA_outcomes (hi : s.Issues coachWord (.cbarA k h) k) :
    (s.me.arrived = true → Does (.cbarA k h) s s) ∧
      (s.me.arrived = false → (s.takeToken k).arrivalWaits = true → Parks (.cbarA k h) s k .fence) ∧
      (s.me.arrived = false → (s.takeToken k).arrivalWaits = false →
        Completes (.cbarA k h) s k (fun u => u.arrive b h.toNat)) := by
  have hx := exec_bar hi (show execCbarA k h = _ from rfl) hn hb
  rw [← State.takeToken_arrived s k]
  refine ⟨fun ha => ?_, fun ha hw => ?_, fun ha hw => ?_⟩
  · rw [arriving_of_arrived ha] at hx
    exact does_self_of_done hi hx rfl
  · rw [arriving_of_waits ha hw] at hx
    exact parks_of_wait hx
  · rw [arriving_of_arrives ha hw] at hx
    exact hx

theorem cbarW_outcomes (hi : s.Issues coachWord (.cbarW k h) k) :
    (SMap.get (fun _ => none) s.me.snaps h.toNat = none → Completes (.cbarW k h) s k State.leavesBar) ∧
      (∀ g, SMap.get (fun _ => none) s.me.snaps h.toNat = some g →
        (s.me.granted = true ∨ barGen (s.bar b) ≠ g.toNat → Completes (.cbarW k h) s k State.leavesBar) ∧
        (s.me.granted = false → barGen (s.bar b) = g.toNat → Parks (.cbarW k h) s k (.barrier h.toNat))) := by
  have hx := exec_bar hi (show execCbarW k h = _ from rfl) hn hb
  rw [← State.takeToken_snaps s k, ← State.takeToken_granted s k, ← State.takeToken_bar s k]
  refine ⟨fun hs => ?_, fun g hs => ⟨fun hover => ?_, fun hg heq => ?_⟩⟩
  · rw [barWait_of_none hs] at hx
    exact hx
  · rw [barWait_of_some hs, if_pos hover] at hx
    exact hx
  · rw [barWait_of_some hs, if_neg (not_or.2 ⟨Bool.eq_false_iff.1 hg, not_not_intro heq⟩)] at hx
    exact parks_of_wait hx

theorem cbarAw_outcomes (hi : s.Issues coachWord (.cbarAw k h) k) :
    (s.me.arrived = false → (s.takeToken k).arrivalWaits = true → Parks (.cbarAw k h) s k .fence) ∧
      (s.me.arrived = false → (s.takeToken k).arrivalWaits = false → barCount (s.bar b) + 1 = barExpect (s.bar b) →
        Completes (.cbarAw k h) s k (fun u => (u.arrive b h.toNat).stays.leavesBar)) ∧
      (s.me.arrived = false → (s.takeToken k).arrivalWaits = false → s.me.granted = false →
        barCount (s.bar b) + 1 ≠ barExpect (s.bar b) →
        exec (.cbarAw k h) s = .next (((s.takeToken k).arrive b h.toNat).stays.updMe
          (fun st => { st.parkOn (.barrier h.toNat) s.tsc with begun := true }))) ∧
      (s.me.arrived = true → ∀ g, SMap.get (fun _ => none) s.me.snaps h.toNat = some g →
        (s.me.granted = true ∨ barGen (s.bar b) ≠ g.toNat → Completes (.cbarAw k h) s k State.leavesBar)) := by
  have hx : exec (.cbarAw k h) s = (arriving (s.takeToken k) b h (fun u => barWait u.stays b h)).apply k 1 s.me.pc s.cur :=
    exec_bar hi (show execCbarAw k h = _ from rfl) hn hb
  rw [← State.takeToken_arrived s k, ← State.takeToken_snaps s k, ← State.takeToken_granted s k, ← State.takeToken_bar s k]
  refine ⟨fun ha hw => ?_, fun ha hw hl => ?_, fun ha hw hg hl => ?_, fun ha g hs hover => ?_⟩
  · rw [arriving_of_waits ha hw] at hx
    exact parks_of_wait hx
  · rw [arriving_of_arrives ha hw, barWait_of_last hi.isSome hl] at hx
    exact hx
  · have htsc : ((s.takeToken k).arrive b h.toNat).stays.tsc = s.tsc :=
      (State.updMe_tsc _ _).trans ((State.arrive_tsc _ b h.toNat).trans (State.takeToken_tsc s k))
    rw [arriving_of_arrives ha hw, barWait_of_more hi.isSome hl hg, Res.apply, htsc] at hx
    exact hx
  · have hme := State.stays_me hi.isSome
    have hs' : SMap.get (fun _ => none) (s.takeToken k).stays.me.snaps h.toNat = some g :=
      (congrArg (fun st => SMap.get (fun _ => none) st.snaps h.toNat) hme).trans hs
    have hover' : (s.takeToken k).stays.me.granted = true ∨ barGen ((s.takeToken k).stays.bar b) ≠ g.toNat := by
      rwa [hme, State.stays_bar]
    rw [arriving_of_arrived ha, barWait_of_some hs', if_pos hover', State.stays_leavesBar] at hx
    exact hx

end Words

end Sys2Proof.Machine

namespace Sys2Proof

open Machine

/-- Settles O8: each CBAR word by the barrier that its handle names. -/
theorem barriers : Obligations.Barriers := by
  intro s k h
  exact ⟨⟨fun hi => traps_bar hi (show execCbarA k h = _ from rfl), fun hi => traps_bar hi (show execCbarW k h = _ from rfl),
      fun hi => traps_bar hi (show execCbarAw k h = _ from rfl)⟩,
    fun b hn hb => ⟨cbarA_outcomes hn hb, cbarW_outcomes hn hb, cbarAw_outcomes hn hb⟩⟩

end Sys2Proof
end

section
/-! SUPPORT. HomeLines: what a write at the home of a line leaves (R274, R275, R281, R326). -/

namespace Sys2Proof.Machine

/-! ## Frames -/

/-- Only what homes keep of lines differs: bytes and poison of memory, copies in the caches, and release records. -/
def HomeOnly (s t : State) : Prop :=
  t = { s with mem := t.mem, stale := t.stale, poison := t.poison, stalePois := t.stalePois, cache := t.cache, l1 := t.l1,
               releases := t.releases }

theorem HomeOnly.trans {s t u : State} (h : HomeOnly s t) (g : HomeOnly t u) : HomeOnly s u := by
  unfold HomeOnly at *
  rw [g, h]

theorem HomeOnly.foldl {α : Type} {f : State → α → State} (hf : ∀ s x, HomeOnly s (f s x)) (l : List α) (s : State) :
    HomeOnly s (l.foldl f s) :=
  List.foldlRecOn (motive := HomeOnly s) _ _ rfl (fun u hu x _ => hu.trans (hf u x))

/-! ## Lines that leave the cache ways, and victims (R275) -/

@[simp] theorem State.dropLine_cache (s : State) (c : CacheLine) :
    (s.dropLine c).cache = s.cache.filter (fun x => x.line != c.line) := by
  unfold State.dropLine
  simp only []
  split
  · rfl
  · split <;> rfl

theorem State.dropLine_homeOnly (s : State) (c : CacheLine) : HomeOnly s (s.dropLine c) := by
  unfold State.dropLine
  simp only []
  split
  · rfl
  · split <;> rfl

theorem Memory.get_foldl_put_of_ne (es : List (Nat × Byte)) (m : Memory) (a : Nat) (h : ∀ e ∈ es, e.1 ≠ a) :
    (es.foldl (fun m e => m.put e.1 e.2) m).get a = m.get a := by
  refine List.foldlRecOn (motive := fun x : Memory => x.get a = m.get a) _ _ rfl (fun x hx e he => ?_)
  rw [Memory.get_put, if_neg (h e he).symm, hx]

/-- Bytes of other lines stay. -/
theorem State.dropLine_byteAt (s : State) (c : CacheLine) {a : Nat} (ha : a / 64 ≠ c.line) :
    (s.dropLine c).byteAt a = s.byteAt a := by
  unfold State.dropLine
  simp only []
  split
  · rfl
  · split
    · rfl
    · refine Memory.get_foldl_put_of_ne _ _ _ (fun e he hea => ha ?_)
      have := (List.mem_filter.1 he).2
      rwa [beq_iff_eq, hea] at this

theorem victimOf_mem {l : List CacheLine} {line : Nat} {v : CacheLine} (h : victimOf l line = some v) :
    v ∈ l ∧ v.line ≠ line := by
  have hv : v ∈ (l.filter (fun c => sameSet c.line line && c.line != line)).reverse := by
    unfold victimOf at h
    simp only [] at h
    split at h
    · rename_i hf
      exact Option.some.inj h ▸ List.mem_of_find?_eq_some hf
    · split at h
      · rename_i hf
        exact Option.some.inj h ▸ List.mem_of_find?_eq_some hf
      · exact List.mem_of_mem_head? h
  obtain ⟨hl, hset⟩ := List.mem_filter.1 (List.mem_reverse.1 hv)
  simp only [Bool.and_eq_true, bne_iff_ne] at hset
  exact ⟨hl, hset.2⟩

/-- What an access of a line can do to the cache ways: the line is there, it is not filled, or it is filled, in place of a victim where
its set is full. -/
theorem State.touch_cases (s : State) (line cls : Nat) (write : Bool) :
    (∃ c ∈ s.cache, c.line = line ∧ s.touch line cls write =
        { s with cache := { c with dirty := c.dirty || write } :: s.cache.filter (fun x => x.line != line) }) ∨
      s.touch line cls write = s ∨
      ∃ u way, (u = s ∨ ∃ v ∈ s.cache, v.line ≠ line ∧ u = s.dropLine v) ∧ s.touch line cls write =
        { u with cache := { line := line, way := way, cls := cls, dirty := write } :: u.cache } := by
  unfold State.touch
  split
  · rename_i c hc
    exact .inl ⟨c, List.mem_of_find?_eq_some hc, by simpa using List.find?_some hc, rfl⟩
  · split
    · exact .inr (.inl rfl)
    · simp only []
      split
      · rename_i w _
        exact .inr (.inr ⟨s, w, .inl rfl, rfl⟩)
      · split
        · exact .inr (.inl rfl)
        · rename_i v hv
          obtain ⟨hmem, hne⟩ := victimOf_mem hv
          exact .inr (.inr ⟨_, v.way, .inr ⟨v, hmem, hne, rfl⟩, rfl⟩)

theorem State.touch_homeOnly (s : State) (line cls : Nat) (write : Bool) : HomeOnly s (s.touch line cls write) := by
  obtain ⟨c, -, -, h⟩ | h | ⟨u, way, rfl | ⟨v, -, -, rfl⟩, h⟩ := s.touch_cases line cls write
  · rw [h]; rfl
  · rw [h]; rfl
  · rw [h]; rfl
  · rw [h]; exact (s.dropLine_homeOnly v).trans rfl

/-- An access leaves the bytes of its line as they were. -/
theorem State.touch_byteAt (s : State) (cls : Nat) (write : Bool) (a : Nat) :
    (s.touch (a / 64) cls write).byteAt a = s.byteAt a := by
  obtain ⟨c, -, -, h⟩ | h | ⟨u, way, rfl | ⟨v, -, hne, rfl⟩, h⟩ := s.touch_cases (a / 64) cls write
  · rw [h]; rfl
  · rw [h]
  · rw [h]; rfl
  · rw [h]; exact s.dropLine_byteAt v hne.symm

/-! ## Direct writes at a home (R275, R291, R312) -/

theorem State.putLine_homeOnly (s : State) (line : Nat) (data : BitVec 512) (mask : BitVec 64) :
    HomeOnly s (s.putLine line data mask) := by
  have bytes := HomeOnly.foldl (f := fun s i => s.putByte (64 * line + i) (lineByte data i)) (fun _ _ => rfl) (maskBytes mask) s
  unfold State.putLine
  simp only []
  split
  · exact bytes.trans rfl
  · exact bytes

theorem State.settleLine_homeOnly (s : State) (line : Nat) : HomeOnly s (s.settleLine line) := by
  unfold State.settleLine
  split <;> rfl

theorem State.writeDirect_homeOnly (s : State) (line : Nat) (data : BitVec 512) (mask : BitVec 64) (evict : Nat)
    (keep : L1Line → Bool) (rel : Option (ThreadId × Nat)) : HomeOnly s (s.writeDirect line data mask evict keep rel) := by
  have dropped : HomeOnly s (s.l1Drop line keep) := rfl
  exact (((dropped.trans (State.touch_homeOnly ..)).trans (State.putLine_homeOnly ..)).trans
    (State.settleLine_homeOnly ..)).trans rfl

theorem mem_maskBytes (m : BitVec 64) {i : Nat} (hi : i < 64) : i ∈ maskBytes m ↔ m.getLsbD i = true := by
  rw [maskBytes, setPositions, List.mem_filter, List.mem_range, BitVec.testBit_toNat]
  exact and_iff_right hi

theorem State.putByte_byteAt (s : State) (a : Nat) (v : Byte) (b : Nat) :
    (s.putByte a v).byteAt b = if b = a then v else s.byteAt b := Memory.get_put s.mem a v b

theorem State.putBytes_byteAt (l : List Nat) (s : State) (line : Nat) (data : BitVec 512) (j : Nat) :
    (l.foldl (fun s i => s.putByte (64 * line + i) (lineByte data i)) s).byteAt (64 * line + j) =
      if j ∈ l then lineByte data j else s.byteAt (64 * line + j) := by
  induction l generalizing s with
  | nil => rfl
  | cons i l ih =>
    rw [List.foldl_cons, ih, State.putByte_byteAt]
    by_cases hl : j ∈ l
    · rw [if_pos hl, if_pos (List.mem_cons_of_mem _ hl)]
    · rw [if_neg hl]
      by_cases hj : j = i
      · rw [if_pos (by rw [hj]), hj, if_pos (List.mem_cons_self ..)]
      · rw [if_neg (by omega), if_neg (by simp [hj, hl])]

theorem State.putLine_byteAt (s : State) (data : BitVec 512) (mask : BitVec 64) (a : Nat) :
    (s.putLine (a / 64) data mask).byteAt a =
      if mask.getLsbD (a % 64) = true then lineByte data (a % 64) else s.byteAt a := by
  have bytes := State.putBytes_byteAt (maskBytes mask) s (a / 64) data (a % 64)
  simp only [Nat.div_add_mod, mem_maskBytes mask (Nat.mod_lt a (by decide : 64 > 0))] at bytes
  unfold State.putLine
  simp only []
  split <;> exact bytes

/-- A direct write puts its masked bytes into its line, and leaves the line's other bytes. -/
theorem State.writeDirect_byteAt (s : State) (data : BitVec 512) (mask : BitVec 64) (evict : Nat) (keep : L1Line → Bool)
    (rel : Option (ThreadId × Nat)) (a : Nat) :
    (s.writeDirect (a / 64) data mask evict keep rel).byteAt a =
      if mask.getLsbD (a % 64) = true then lineByte data (a % 64) else s.byteAt a := by
  have settled : ∀ u : State, (u.settleLine (a / 64)).byteAt a = u.byteAt a := fun u =>
    congrArg (Memory.get · a) (u.settleLine_mem (a / 64))
  have put := State.putLine_byteAt ((s.l1Drop (a / 64) keep).touch (a / 64) evict true) data mask a
  rw [State.touch_byteAt] at put
  exact (settled _).trans put

/-! ## Poison of a line under writes of other bytes (R280, R371) -/

/-- No copy of a line in the cache ways is clean, so none takes the line's bytes and poison with it when it leaves (R326). -/
def State.DirtyAbove (s : State) (line : Nat) : Prop := ∀ c ∈ s.cache, c.line = line → c.dirty = true

/-- What leaves the poison of a line that has no clean copy, and leaves it without one. -/
def KeepsPois (line : Nat) (s t : State) : Prop :=
  s.DirtyAbove line → t.DirtyAbove line ∧ SMap.get noFlag t.poison line = SMap.get noFlag s.poison line

theorem KeepsPois.of_same {line : Nat} {s t : State} (hc : t.cache = s.cache) (hp : t.poison = s.poison) :
    KeepsPois line s t := by
  intro h
  rw [State.DirtyAbove, hc, hp]
  exact ⟨h, rfl⟩

theorem KeepsPois.trans {line : Nat} {s t u : State} (h : KeepsPois line s t) (g : KeepsPois line t u) : KeepsPois line s u :=
  fun hs => ⟨(g (h hs).1).1, (g (h hs).1).2.trans (h hs).2⟩

theorem KeepsPois.foldl {line : Nat} {α : Type} {f : State → α → State} (l : List α) (s : State)
    (hf : ∀ x ∈ l, ∀ s, KeepsPois line s (f s x)) : KeepsPois line s (l.foldl f s) :=
  List.foldlRecOn (motive := KeepsPois line s) _ _ (.of_same rfl rfl) (fun u hu x hx => hu.trans (hf x hx u))

theorem State.dropLine_keepsPois (line : Nat) (s : State) {c : CacheLine} (hc : c ∈ s.cache) :
    KeepsPois line s (s.dropLine c) := by
  intro h
  refine ⟨fun x hx hl => h x ?_ hl, ?_⟩
  · rw [State.dropLine_cache] at hx
    exact (List.mem_filter.1 hx).1
  · unfold State.dropLine
    simp only []
    split
    · rfl
    · rename_i hclean
      split
      · rfl
      · exact SMap.get_put_of_ne noFlag s.poison _ (fun hl => hclean (h c hc hl.symm))

theorem State.touch_keepsPois (line : Nat) (s : State) (l cls : Nat) : KeepsPois line s (s.touch l cls true) := by
  have filled : ∀ (u : State) (c : CacheLine), c.dirty = true → KeepsPois line u { u with cache := c :: u.cache } :=
    fun u c hc h => ⟨List.forall_mem_cons.2 ⟨fun _ => hc, h⟩, rfl⟩
  obtain ⟨c, -, -, h⟩ | h | ⟨u, way, rfl | ⟨v, hv, -, rfl⟩, h⟩ := s.touch_cases l cls true
  · rw [h]
    exact fun hs => ⟨List.forall_mem_cons.2 ⟨fun _ => Bool.or_true _, fun x hx => hs x (List.mem_filter.1 hx).1⟩, rfl⟩
  · rw [h]
    exact .of_same rfl rfl
  · rw [h]
    exact filled _ _ rfl
  · rw [h]
    exact (s.dropLine_keepsPois line hv).trans (filled _ _ rfl)

theorem State.putLine_keepsPois (line : Nat) (s : State) (l : Nat) (data : BitVec 512) {mask : BitVec 64}
    (hm : mask ≠ -1#64) : KeepsPois line s (s.putLine l data mask) := by
  unfold State.putLine
  simp only [if_neg hm]
  refine KeepsPois.foldl _ s ?_
  exact fun _ _ _ => .of_same rfl rfl

/-- A direct write of less than a line. -/
theorem State.writeDirect_keepsPois (line : Nat) (s : State) (l : Nat) (data : BitVec 512) {mask : BitVec 64} (evict : Nat)
    (keep : L1Line → Bool) (rel : Option (ThreadId × Nat)) (hm : mask ≠ -1#64) :
    KeepsPois line s (s.writeDirect l data mask evict keep rel) := by
  have settled : ∀ u : State, KeepsPois line u (u.settleLine l) := fun u => by
    unfold State.settleLine
    split <;> exact .of_same rfl rfl
  have dropped : KeepsPois line s (s.l1Drop l keep) := .of_same rfl rfl
  refine (((dropped.trans (State.touch_keepsPois line _ l evict)).trans (State.putLine_keepsPois line _ l data hm)).trans
    (settled _)).trans ?_
  exact .of_same rfl rfl

/-- A mask of fewer than 64 bytes is not full. -/
theorem lineMask_ne_full {off n : Nat} (hn : n < 64) : lineMask off n ≠ -1#64 := by
  intro h
  have hnat := congrArg BitVec.toNat h
  rw [lineMask, BitVec.toNat_ofNat] at hnat
  change _ = 2 ^ 64 - 1 at hnat
  cases off with
  | zero =>
    have : 2 ^ n ≤ 2 ^ 63 := Nat.pow_le_pow_right (by decide) (by omega)
    omega
  | succ off =>
    rw [Nat.pow_succ, ← Nat.mul_assoc] at hnat
    omega

theorem linePieces_length_le {lo n : Nat} {p : Nat × Nat} (hp : p ∈ linePieces lo n) : p.2 ≤ n := by
  unfold linePieces at hp
  split at hp
  · cases hp
  · obtain ⟨i, -, rfl⟩ := List.mem_map.1 hp
    simp only [Nat.max_def, Nat.min_def]
    split <;> split <;> omega

theorem State.hwWrite_homeOnly (s : State) (dpa : Nat) (bs : List Byte) : HomeOnly s (s.hwWrite dpa bs) := by
  refine HomeOnly.foldl ?_ _ s
  exact fun s p => s.writeDirect_homeOnly ..

theorem State.hwWrite_keepsPois (line : Nat) (s : State) (dpa : Nat) {bs : List Byte} (hb : bs.length < 64) :
    KeepsPois line s (s.hwWrite dpa bs) :=
  KeepsPois.foldl _ s fun _ hp s => s.writeDirect_keepsPois _ _ _ _ _ _
    (lineMask_ne_full (lt_of_le_of_lt (linePieces_length_le hp) hb))

end Sys2Proof.Machine
end

section
/-! SUPPORT. HomeRequests: requests at a home and at a memory-side unit, and way changes (R271, R274, R278). -/

namespace Sys2Proof.Machine

/-! ## Requests (R274, R278) -/

section Request

variable {s : State} {id : Nat} {r : HomeReq} (hr : s.homeq.find? (fun r => r.id == id) = some r) (ho : s.inOrder r = true)
include hr ho

/-- A plain write outside launches whose turn has come. -/
theorem exec_homeAccess_of_plain (ha : r.atom = none) (ht : r.tag = none) (hm : r.memSide = false) (hrel : r.release ≠ some 6)
    (hap : apertureOf (64 * r.line) = .hbm) :
    exec (.homeAccess id) s =
      .next ((s.dropReq id).writeDirect r.line r.data r.mask r.evict (s.keepOf r) r.rel) := by
  have hid : r.id = id := by simpa using List.find?_some hr
  have happly : s.applyReq r = (s.dropReq id).writeDirect r.line r.data r.mask r.evict (s.keepOf r) r.rel := by
    simp [State.applyReq, State.applyDirect, ht, hm, hid]
  show execHomeAccess id s = _
  simp [execHomeAccess, State.takeTurn, HomeReq.staging, hr, ho, ha, ht, hrel, hap, happly]

/-- A plain write puts its bytes into its line, and takes nothing but its request away. -/
theorem homeAccess_applies (ha : r.atom = none) (ht : r.tag = none) (hm : r.memSide = false) (hrel : r.release ≠ some 6)
    (hap : apertureOf (64 * r.line) = .hbm) :
    ∃ t, exec (.homeAccess id) s = .next t ∧ t.coaches = s.coaches ∧ t.dies = s.dies ∧
      t.homeq = s.homeq.filter (fun x => x.id != id) ∧
      ∀ a, a / 64 = r.line → t.byteAt a = if r.mask.getLsbD (a % 64) then lineByte r.data (a % 64) else s.byteAt a := by
  have hleft := (s.dropReq id).writeDirect_homeOnly r.line r.data r.mask r.evict (s.keepOf r) r.rel
  refine ⟨_, exec_homeAccess_of_plain hr ho ha ht hm hrel hap, by rw [hleft]; rfl, by rw [hleft]; rfl, by rw [hleft]; rfl,
    fun a hline => ?_⟩
  rw [← hline]
  exact (s.dropReq id).writeDirect_byteAt r.data r.mask r.evict (s.keepOf r) r.rel a

variable {a : HomeAtom} (ha : r.atom = some a)
include ha

theorem exec_memorySideAtomic_of_gone {tg : Nat × BitVec 4} (ht : r.tag = some tg) (hc : s.currentAttempt tg = none) :
    exec (.memorySideAtomic id) s = .next (s.dropReq id) := by
  show execMemorySideAtomic id s = _
  simp [execMemorySideAtomic, hr, ho, ha, ht, hc]

theorem exec_memorySideAtomic_of_current (hc : ∀ tg, r.tag = some tg → s.currentAttempt tg ≠ none) :
    exec (.memorySideAtomic id) s =
      .next ((s.sideAtomic r a).1.giveReply r.by_ (bytesOfNat a.bytes (s.sideAtomic r a).2.1) (s.sideAtomic r a).2.2) := by
  have hcur : ¬((r.tag.map (fun t => (s.currentAttempt t).isNone)).getD false = true) := by
    cases ht : r.tag with
    | none => exact Bool.false_ne_true
    | some tg => simpa using hc tg ht
  show execMemorySideAtomic id s = _
  simp only [execMemorySideAtomic, hr, ho, ha, Bool.true_eq_false, if_false, if_neg hcur]

end Request

/-! ## Way changes (R271) -/

theorem State.emptyWay_homeOnly (s : State) (die w : Nat) : HomeOnly s (s.emptyWay die w) := by
  refine HomeOnly.foldl ?_ _ s
  exact State.dropLine_homeOnly

theorem State.dropLines_cache (l : List CacheLine) (s : State) {x : CacheLine} (hx : x ∈ (l.foldl State.dropLine s).cache) :
    x ∈ s.cache ∧ ∀ c ∈ l, c.line ≠ x.line := by
  induction l generalizing s with
  | nil => exact ⟨hx, fun c hc => by cases hc⟩
  | cons c l ih =>
    obtain ⟨hmem, hl⟩ := ih _ hx
    rw [State.dropLine_cache] at hmem
    obtain ⟨hs, hne⟩ := List.mem_filter.1 hmem
    rw [bne_iff_ne] at hne
    exact ⟨hs, List.forall_mem_cons.2 ⟨hne.symm, hl⟩⟩

/-- No line is left in a way that has been emptied. -/
theorem State.emptyWay_cache (s : State) (die w : Nat) {c : CacheLine} (hc : c ∈ (s.emptyWay die w).cache)
    (hd : homeDie (64 * c.line) = die) : c.way ≠ w := by
  intro hw
  obtain ⟨hs, hl⟩ := State.dropLines_cache _ s hc
  exact hl c (List.mem_filter.2 ⟨hs, by simp [hd, hw]⟩) rfl

/-- The part after the way at the head of a die's list has changed class: a cache way leaves its lines first. -/
def State.nextMove (s : State) (die : Nat) (m : Nat × Nat) (ms : List (Nat × Nat)) : State :=
  ((if m.2 / 4 = 0 then s.emptyWay die m.1 else s).moveWay die m.1 (m.2 % 4)).updDie die (fun d => { d with moves := ms })

/-- The part after the last change of class: the staging ways are cut to their number, and PEND clears. -/
def State.endMoves (s : State) (die : Nat) : State :=
  (s.cutStaging die (bits (s.pmWord die 0x3F100) 7 4)).pmSetBits die 0x3F100 8 8 0

section Moved

variable (s : State) (die : Nat) (m : Nat × Nat) (ms : List (Nat × Nat))

theorem State.emptied_homeOnly : HomeOnly s (if m.2 / 4 = 0 then s.emptyWay die m.1 else s) := by
  split
  · exact s.emptyWay_homeOnly die m.1
  · rfl

theorem State.nextMove_coaches : (s.nextMove die m ms).coaches = s.coaches := by
  show (if m.2 / 4 = 0 then s.emptyWay die m.1 else s).coaches = _
  rw [s.emptied_homeOnly die m]

theorem State.nextMove_die : (s.nextMove die m ms).die die =
    { s.die die with ways := SMap.put wayReset (s.die die).ways m.1 (m.2 % 4), moves := ms } := by
  have hdie : (if m.2 / 4 = 0 then s.emptyWay die m.1 else s).die die = s.die die := by
    rw [s.emptied_homeOnly die m]
    rfl
  rw [State.nextMove, State.moveWay, State.updDie_updDie, State.die_updDie, if_pos rfl, hdie]

theorem State.nextMove_cache (hm : m.2 / 4 = 0) :
    ∀ c ∈ (s.nextMove die m ms).cache, homeDie (64 * c.line) = die → c.way ≠ m.1 := by
  intro c hc
  change c ∈ (if m.2 / 4 = 0 then s.emptyWay die m.1 else s).cache at hc
  rw [if_pos hm] at hc
  exact s.emptyWay_cache die m.1 hc

theorem State.endMoves_die : (s.endMoves die).die die = { s.die die with pm := ((s.endMoves die).die die).pm } := by
  have hdie := State.die_updDie (s.cutStaging die (bits (s.pmWord die 0x3F100) 7 4)) die die
  rw [State.endMoves, State.pmSetBits, State.pmSetWord, State.pmPut, hdie, if_pos rfl]
  rfl

theorem State.endMoves_pend : bit ((s.endMoves die).pmWord die 0x3F100) 8 = false := by
  rw [State.endMoves, State.pmWord_pmSetBits_self, bit, getLsbD_setBits _ _ _ _ _ (by decide), if_pos (by decide)]
  rfl

end Moved

section Way

variable {s : State} {die : Nat}

theorem exec_wayMove_of_none (h : (s.die die).moves = []) : exec (.wayMove die) s = .next s := by
  show execWayMove die s = _
  simp only [execWayMove, h]

variable {m : Nat × Nat} {ms : List (Nat × Nat)} (h : (s.die die).moves = m :: ms)
include h

theorem exec_wayMove_of_staged (hm : m.2 / 4 = 1) (he : s.cocoonEmpty die m.1 = false) : exec (.wayMove die) s = .next s := by
  show execWayMove die s = _
  simp only [execWayMove, h, hm, he, and_self, if_true]

theorem exec_wayMove_of_free (hgo : m.2 / 4 ≠ 1 ∨ s.cocoonEmpty die m.1 = true) :
    exec (.wayMove die) s =
      .next (if ms = [] then (s.nextMove die m ms).endMoves die else s.nextMove die m ms) := by
  have hfree : ¬(m.2 / 4 = 1 ∧ s.cocoonEmpty die m.1 = false) := by
    rintro ⟨hm, he⟩
    exact hgo.elim (· hm) (fun hc => Bool.false_ne_true (he.symm.trans hc))
  show execWayMove die s = _
  simp only [execWayMove, h, if_neg hfree, List.isEmpty_iff]
  split <;> rfl

/-- A way that can change class changes it: a cache way leaves no line behind, and PEND clears after the last. -/
theorem wayMove_moves (hgo : m.2 / 4 ≠ 1 ∨ s.cocoonEmpty die m.1 = true) :
    ∃ t, exec (.wayMove die) s = .next t ∧ t.coaches = s.coaches ∧ (t.die die).moves = ms ∧
      (∀ w, t.wayNow die w = if w = m.1 then m.2 % 4 else s.wayNow die w) ∧
      (m.2 / 4 = 0 → ∀ c ∈ t.cache, homeDie (64 * c.line) = die → c.way ≠ m.1) ∧
      (ms = [] → bit (t.pmWord die 0x3F100) 8 = false) := by
  have hcoaches := s.nextMove_coaches die m ms
  have hcache := s.nextMove_cache die m ms
  have hmoves : ((s.nextMove die m ms).die die).moves = ms := by rw [State.nextMove_die]
  have hways : ∀ w, (s.nextMove die m ms).wayNow die w = if w = m.1 then m.2 % 4 else s.wayNow die w := fun w => by
    rw [State.wayNow, State.nextMove_die]
    exact SMap.get_put wayReset ..
  refine ⟨_, exec_wayMove_of_free h hgo, ?_⟩
  by_cases hms : ms = []
  · rw [if_pos hms]
    generalize s.nextMove die m ms = u at hcoaches hcache hmoves hways
    refine ⟨hcoaches, ?_, fun w => ?_, hcache, fun _ => u.endMoves_pend die⟩
    · rw [State.endMoves_die]
      exact hmoves
    · rw [State.wayNow, State.endMoves_die]
      exact hways w
  · rw [if_neg hms]
    exact ⟨hcoaches, hmoves, hways, hcache, fun hnil => absurd hnil hms⟩

end Way

end Sys2Proof.Machine
end

section
/-! SUPPORT. Repairs: the repair log, and what a scrub does with the lines that it finds in error (R280 to R283). -/

namespace Sys2Proof.Machine

/-! ## The repair log (R281, R282) -/

/-- The part with an entry of the repair log written, where the log stands in HBM. -/
def State.logEntry (s : State) (die sector cause : Nat) : State :=
  let n := bits (s.pmWord die 0x3F118) 31 0
  let base := bits (s.pmWord die 0x3F110) 51 0
  if base ≠ 0 ∧ apertureOf base = .hbm then
    s.hwWrite (base + 16 * (n % 65536)) (bytesOfNat 8 (sector + cause) ++ bytesOf8 s.tsc)
  else s

section Log

variable (s : State) (die sector cause : Nat)

theorem State.latchOperators_diesOnly (m : BitVec 4) : DiesOnly s (s.latchOperators m) := by
  unfold State.latchOperators
  refine List.foldlRecOn (motive := DiesOnly s) _ _ rfl (fun u hu d _ => ?_)
  refine List.foldlRecOn (motive := DiesOnly s) _ _ hu (fun v hv k _ => ?_)
  split
  · exact hv.trans rfl
  · exact hv

theorem State.pmSetBits_diesOnly (a hi lo v : Nat) : DiesOnly s (s.pmSetBits die a hi lo v) := rfl

theorem State.logRepair_eq : s.logRepair die sector cause =
    ((s.logEntry die sector cause).pmSetBits die 0x3F118 31 0 (bits (s.pmWord die 0x3F118) 31 0 + 1)).latchOperators 4#4 := by
  simp only [State.logRepair, State.logEntry]

/-- The log changes lines at their homes, and beside them control blocks. -/
theorem State.logRepair_diesOnly : DiesOnly (s.logEntry die sector cause) (s.logRepair die sector cause) := by
  rw [State.logRepair_eq]
  exact (State.pmSetBits_diesOnly ..).trans (State.latchOperators_diesOnly ..)

theorem State.logEntry_homeOnly : HomeOnly s (s.logEntry die sector cause) := by
  unfold State.logEntry
  simp only []
  split
  · exact s.hwWrite_homeOnly _ _
  · rfl

theorem logEntry_length_lt (sector cause : Nat) (time : Word) :
    (bytesOfNat 8 (sector + cause) ++ bytesOf8 time).length < 64 := by
  rw [List.length_append, bytesOf8, bytesOfNat_length, bytesOfNat_length]
  decide

theorem State.logEntry_keepsPois (line : Nat) : KeepsPois line s (s.logEntry die sector cause) := by
  unfold State.logEntry
  simp only []
  split
  · exact s.hwWrite_keepsPois line _ (logEntry_length_lt sector cause s.tsc)
  · exact .of_same rfl rfl

/-- With no log nothing is written. -/
theorem State.logEntry_of_none (h : bits (s.pmWord die 0x3F110) 51 0 = 0) : s.logEntry die sector cause = s := by
  rw [State.logEntry, if_neg (fun hc => hc.1 h)]

end Log

/-- The repair entries that the home slice of an address uses. -/
def State.repairsUsed (s : State) (dpa : Nat) : Nat :=
  (s.repair.filter (fun r => homeDie r.1 == homeDie dpa && homeSlice r.1 == homeSlice dpa)).length

/-- The part after a sector without a repair entry asks for one of its home slice's 4096. -/
def State.withRepair (s : State) (dpa cause : Nat) : State :=
  if s.repairsUsed dpa < 4096 then { s with repair := s.repair ++ [(dpa, cause)] } else s

theorem State.withRepair_eq (s : State) (dpa cause : Nat) :
    s.withRepair dpa cause = { s with repair := (s.withRepair dpa cause).repair } := by
  unfold State.withRepair
  split <;> rfl

theorem State.withRepair_of_room {s : State} {dpa : Nat} (cause : Nat) (h : s.repairsUsed dpa < 4096) :
    (s.withRepair dpa cause).repair = s.repair ++ [(dpa, cause)] := by
  rw [State.withRepair, if_pos h]

/-- A sector of HBM without an entry gets one, or is refused; the log holds which. -/
theorem State.repairSector_eq {s : State} {line : Nat} (cause : Nat) (hap : apertureOf (64 * line) = .hbm)
    (hr : s.repaired line = false) :
    ∃ c, s.repairSector (64 * line) cause =
      (s.withRepair (64 * line) cause).logRepair (homeDie (64 * line)) (64 * line) c := by
  have hsector : 64 * line / 64 * 64 = 64 * line := by omega
  have hnone : ¬(apertureOf (64 * line) ≠ .hbm ∨ s.repair.any (fun r => r.1 == 64 * line) = true) := by
    rintro (h | h)
    · exact h hap
    · exact Bool.false_ne_true (hr.symm.trans h)
  have hask : s.repairSector (64 * line) cause = if 4096 ≤ s.repairsUsed (64 * line)
      then s.logRepair (homeDie (64 * line)) (64 * line) 3
      else { s with repair := s.repair ++ [(64 * line, cause)] }.logRepair (homeDie (64 * line)) (64 * line) cause := by
    unfold State.repairSector State.repairsUsed
    simp only [hsector, if_neg hnone]
  rw [hask, State.withRepair]
  by_cases hfull : s.repairsUsed (64 * line) < 4096
  · rw [if_pos hfull, if_neg (Nat.not_le.2 hfull)]
    exact ⟨cause, rfl⟩
  · rw [if_neg hfull, if_pos (Nat.not_lt.1 hfull)]
    exact ⟨3, rfl⟩

/-- What the repair of a sector of HBM without an entry leaves: beside the repair entries and control blocks, what the log's
bytes change at their homes. -/
theorem State.repairSector_leaves {s : State} {line : Nat} (cause : Nat) (hap : apertureOf (64 * line) = .hbm)
    (hr : s.repaired line = false) :
    ∃ u d p, s.repairSector (64 * line) cause = { u with dies := d, preWaits := p } ∧
      HomeOnly (s.withRepair (64 * line) cause) u ∧ KeepsPois line (s.withRepair (64 * line) cause) u ∧
      (bits (s.pmWord (homeDie (64 * line)) 0x3F110) 51 0 = 0 → u = s.withRepair (64 * line) cause) := by
  obtain ⟨c, hc⟩ := State.repairSector_eq cause hap hr
  have hlog := (s.withRepair (64 * line) cause).logRepair_diesOnly (homeDie (64 * line)) (64 * line) c
  refine ⟨_, _, _, hc.trans hlog, State.logEntry_homeOnly .., State.logEntry_keepsPois _ _ _ _ _, fun hnone => ?_⟩
  have hpm : ((s.withRepair (64 * line) cause).die (homeDie (64 * line))).pm = (s.die (homeDie (64 * line))).pm := by
    rw [State.withRepair_eq]
    rfl
  refine State.logEntry_of_none _ _ _ _ ?_
  rw [State.pmWord_of_pm hpm, hnone]

/-! ## Scrubbing (R280, R281, R283) -/

/-- A line that a scrub of its channel reads: one of HBM, on a die that scrubs, and not in the repair way. -/
def State.scrubs (s : State) (line : Nat) : Prop :=
  apertureOf (64 * line) = .hbm ∧ bit (s.pmWord (homeDie (64 * line)) 0x3F108) 0 = true ∧ s.repaired line = false

/-- The error of a line is remembered. -/
def State.noteError (s : State) (line : Nat) : State :=
  { s with eccSeen := (line, s.tsc) :: s.eccSeen.filter (fun e => e.1 != line) }

/-- A line had an error within the last 24 hours. -/
def State.erredLately (s : State) (line : Nat) : Bool :=
  s.eccSeen.any (fun e => e.1 == line && decide ((s.tsc - e.2).toNat < 86400 * 10 ^ 9))

section Scrub

variable {s : State} {line : Nat}

theorem exec_scrubLine_of_idle {f : EccOutcome} (h : ¬s.scrubs line ∨ f = .clean) : exec (.scrubLine line f) s = .next s := by
  show execScrubLine line f s = _
  unfold execScrubLine
  simp only []
  split
  · rfl
  · rename_i hgo
    simp only [not_or, not_not, Bool.not_eq_false, Bool.not_eq_true] at hgo
    rw [h.resolve_left (not_not_intro hgo)]

variable (h : s.scrubs line)
include h

theorem State.scrubs.not_skipped :
    ¬(apertureOf (64 * line) ≠ .hbm ∨ bit (s.pmWord (homeDie (64 * line)) 0x3F108) 0 = false ∨ s.repaired line = true) := by
  obtain ⟨hap, hen, hrep⟩ := h
  simp [hap, hen, hrep]

theorem exec_scrubLine_corrected : exec (.scrubLine line .corrected) s =
    .next (if s.erredLately line = true then (s.noteError line).repairSector (64 * line) 1 else s.noteError line) := by
  show execScrubLine line .corrected s = _
  simp only [execScrubLine, if_neg h.not_skipped]
  rfl

theorem exec_scrubLine_uncorrectable : exec (.scrubLine line .uncorrectable) s = .next (s.lineUe line) := by
  show execScrubLine line .uncorrectable s = _
  simp only [execScrubLine, if_neg h.not_skipped]

/-- A corrected error is remembered; the second within 24 hours asks for a repair. -/
theorem scrubLine_corrects : ∃ t, exec (.scrubLine line .corrected) s = .next t ∧ t.coaches = s.coaches ∧
    t.eccSeen.head? = some (line, s.tsc) ∧ (s.erredLately line = false → t.repair = s.repair) ∧
    (s.erredLately line = true → s.repairsUsed (64 * line) < 4096 → t.repair = s.repair ++ [(64 * line, 1)]) := by
  refine ⟨_, exec_scrubLine_corrected h, ?_⟩
  by_cases hl : s.erredLately line = true
  · obtain ⟨hap, -, hrep⟩ := h
    obtain ⟨u, d, p, hu, hhome, -, -⟩ := State.repairSector_leaves (s := s.noteError line) 1 hap hrep
    rw [if_pos hl, hu, hhome, State.withRepair_eq]
    exact ⟨rfl, rfl, fun hn => absurd (hl.symm.trans hn) (by decide),
      fun _ hroom => State.withRepair_of_room (s := s.noteError line) 1 hroom⟩
  · rw [if_neg hl]
    exact ⟨rfl, rfl, fun _ => rfl, fun hp => absurd hp hl⟩

end Scrub

/-! ## Uncorrectable lines (R280, R281) -/

/-- A record that names its address carries it. -/
theorem State.postUnit_faddr (s : State) (code : Nat) (eng : Bool) (handle : Option (BitVec 24)) (epc : Option Word) (faddr : Word)
    (fprog : Option Word) (vtag : BitVec 16) (place : Option (Nat × Nat)) (level die : Nat) :
    (s.postUnit code eng handle epc (some faddr) fprog vtag place level die).faults.getLast?.map (fun x => x.body.faddr) =
      some faddr := by
  unfold State.postUnit State.post
  simp only [List.getLast?_concat]
  rfl

/-- HBM holds a line poisoned, and its sector has asked for a repair. -/
def State.withUe (s : State) (line : Nat) : State := (s.putHbmPois line true).withRepair (64 * line) 0

theorem State.withUe_eq (s : State) (line : Nat) : s.withUe line =
    { s with poison := (s.withUe line).poison, stalePois := (s.withUe line).stalePois, repair := (s.withUe line).repair } := by
  unfold State.withUe State.withRepair State.putHbmPois
  split <;> split <;> rfl

section Ue

variable {s : State} {line : Nat}

/-- With no copy above it the line itself is poisoned. -/
theorem State.withUe_poison_of_not_held (h : s.held line = false) : SMap.get noFlag (s.withUe line).poison line = true := by
  rw [State.withUe, State.withRepair_eq, State.putHbmPois, if_neg (Bool.eq_false_iff.1 h)]
  exact SMap.get_put_self noFlag s.poison line true

/-- The copy above HBM keeps its poison. -/
theorem State.withUe_poison_of_held (h : s.held line = true) : (s.withUe line).poison = s.poison := by
  rw [State.withUe, State.withRepair_eq, State.putHbmPois, if_pos h]

theorem State.withUe_hbmPois_of_held (h : s.held line = true) : (s.withUe line).hbmPois (64 * line) = true := by
  have hline : 64 * line / 64 = line := by omega
  rw [State.withUe, State.withRepair_eq, State.putHbmPois, if_pos h, State.hbmPois, hline]
  exact SMap.get_put_self ..

theorem State.withUe_repair_of_room (h : s.repairsUsed (64 * line) < 4096) :
    (s.withUe line).repair = s.repair ++ [(64 * line, 0)] := by
  have hrep : (s.putHbmPois line true).repair = s.repair := by
    unfold State.putHbmPois
    split <;> rfl
  rw [State.withUe, State.withRepair_of_room 0 (by rwa [State.repairsUsed, hrep]), hrep]

theorem State.dirtyAbove_of_not_held (h : s.held line = false) : s.DirtyAbove line := by
  intro c hc hl
  obtain ⟨hcache, -⟩ := Bool.or_eq_false_iff.1 h
  exact absurd hl (by simpa using List.any_eq_false.1 hcache c hc)

/-- What an uncorrectable line leaves: its mark, the entry of the repair log, and the record to level O. -/
theorem State.lineUe_leaves (h : s.scrubs line) :
    ∃ u d w n m x, s.lineUe line =
        { u with dies := d, preWaits := w, free := n, nextReq := m, faults := u.faults ++ [x] } ∧
      HomeOnly (s.withUe line) u ∧ KeepsPois line (s.withUe line) u ∧
      (bits (s.pmWord (homeDie (64 * line)) 0x3F110) 51 0 = 0 → u = s.withUe line) ∧
      x.level = 80 ∧ x.die = homeDie (64 * line) ∧ x.body.code = 0x0402#16 ∧ x.body.faddr = word (64 * line) := by
  obtain ⟨hap, -, hrep⟩ := h
  have hmarked : (s.putHbmPois line true).repaired line = false ∧ (s.putHbmPois line true).dies = s.dies := by
    unfold State.putHbmPois
    split <;> exact ⟨hrep, rfl⟩
  obtain ⟨hvrep, hvdies⟩ := hmarked
  obtain ⟨u, d, w, hu, hleft, hkeep, hnolog⟩ := State.repairSector_leaves 0 hap hvrep
  obtain ⟨n, m, x, hpost, hlevel, hdie, hcode⟩ := { u with dies := d, preWaits := w }.postUnit_eq codeUe false none none
    (some (word (64 * line))) none 0#16 none 80 (homeDie (64 * line))
  have hfaddr := { u with dies := d, preWaits := w }.postUnit_faddr codeUe false none none
    (word (64 * line)) none 0#16 none 80 (homeDie (64 * line))
  rw [hpost, List.getLast?_concat] at hfaddr
  refine ⟨u, d, w, n, m, x, ?_, hleft, hkeep, fun hbase => hnolog ?_, hlevel, hdie, hcode, Option.some.inj hfaddr⟩
  · rw [State.lineUe, hu]
    exact hpost
  · rw [State.pmWord_of_pm (s := s) (by rw [State.die, hvdies]; rfl), hbase]

/-- An uncorrectable line: HBM holds it poisoned, its sector asks for a repair, and level O has a record of its address. -/
theorem scrubLine_poisons (h : s.scrubs line) :
    ∃ t p, exec (.scrubLine line .uncorrectable) s = .next t ∧ t.coaches = s.coaches ∧
      (s.held line = false → t.linePois (64 * line) = true) ∧
      (bits (s.pmWord (homeDie (64 * line)) 0x3F110) 51 0 = 0 → s.held line = true → t.hbmPois (64 * line) = true ∧
        (∀ l, t.linePois l = s.linePois l) ∧ t.cache = s.cache) ∧
      p ∈ t.faults ∧ p.level = 80 ∧ p.die = homeDie (64 * line) ∧ p.body.code = 0x0402#16 ∧
      p.body.faddr = word (64 * line) ∧
      (s.repairsUsed (64 * line) < 4096 → t.repair = s.repair ++ [(64 * line, 0)]) := by
  obtain ⟨u, d, w, n, m, x, hue, hleft, hkeep, hnolog, hlevel, hdie, hcode, hfaddr⟩ := State.lineUe_leaves h
  refine ⟨_, x, (exec_scrubLine_uncorrectable h).trans (congrArg _ hue), ?_, fun hs => ?_, fun hbase hs => ?_,
    List.mem_append_right _ (List.mem_singleton.2 rfl), hlevel, hdie, hcode, hfaddr, fun hr => ?_⟩
  · show u.coaches = s.coaches
    rw [hleft, State.withUe_eq]
  · have hdirty : (s.withUe line).DirtyAbove line := by
      rw [State.withUe_eq]
      exact State.dirtyAbove_of_not_held hs
    have hline : 64 * line / 64 = line := by omega
    show SMap.get noFlag u.poison (64 * line / 64) = true
    rw [hline, (hkeep hdirty).2, State.withUe_poison_of_not_held hs]
  · obtain rfl := hnolog hbase
    refine ⟨State.withUe_hbmPois_of_held hs, fun l => ?_, ?_⟩
    · exact congrArg (SMap.get noFlag · (l / 64)) (State.withUe_poison_of_held hs)
    · show (s.withUe line).cache = s.cache
      rw [State.withUe_eq]
  · show u.repair = _
    rw [hleft, ← State.withUe_repair_of_room hr]

end Ue

end Sys2Proof.Machine
end

section
/-! SUPPORT. HomeUnits: watchdogs, the rate of scrubbing, and walks (R247, R284, R305, R328, R375). -/

namespace Sys2Proof.Machine

/-! ## Watchdogs (R305, R375) -/

/-- Every coach is one of an earlier state, by its lead quadrant and its launch. -/
def CoachesFrom (s t : State) : Prop := ∀ x ∈ t.coaches, ∃ y ∈ s.coaches, y.quad = x.quad ∧ y.tag = x.tag

theorem CoachesFrom.of_subset {s t : State} (h : ∀ x ∈ t.coaches, x ∈ s.coaches) : CoachesFrom s t :=
  fun x hx => ⟨x, h x hx, rfl, rfl⟩

theorem CoachesFrom.trans {s t u : State} (h : CoachesFrom s t) (g : CoachesFrom t u) : CoachesFrom s u := by
  intro x hx
  obtain ⟨y, hy, hyq, hyt⟩ := g x hx
  obtain ⟨z, hz, hzq, hzt⟩ := h y hy
  exact ⟨z, hz, hzq.trans hyq, hzt.trans hyt⟩

theorem State.tally_coachesFrom (s : State) (q : Nat) : CoachesFrom s (s.tally q) := by
  unfold State.tally
  split
  · exact .of_subset fun x hx => hx
  · intro x hx
    obtain ⟨y, hy, rfl⟩ := List.mem_map.1 hx
    refine ⟨y, hy, ?_⟩
    split <;> exact ⟨rfl, rfl⟩

theorem State.sendFlit_coaches (s : State) (die : Nat) (fl : Flit) : (s.sendFlit die fl).coaches = s.coaches := by
  have pump : ∀ (s : State) (p : Nat), (s.pump p).coaches = s.coaches := by
    intro s p
    unfold State.pump
    split <;> rfl
  unfold State.sendFlit State.sendFlit?
  split
  · rfl
  · split
    · rw [Option.getD_some, pump]
      rfl
    · rfl

theorem State.unbindAll_coaches (s : State) (c : Coach) : (s.unbindAll c).coaches = s.coaches := by
  unfold State.unbindAll
  refine List.foldlRecOn (motive := fun u : State => u.coaches = s.coaches) _ _ rfl (fun u hu q _ => ?_)
  split
  · exact (State.sendFlit_coaches _ _ _).trans hu
  · exact hu

theorem State.dropWaiters_coaches (s : State) (q : Nat) : (s.dropWaiters q).coaches = s.coaches := by
  unfold State.dropWaiters
  refine List.foldlRecOn (motive := fun u : State => u.coaches = s.coaches) _ _ rfl (fun u hu k _ => ?_)
  exact hu

theorem State.dropCoach_coachesFrom (s : State) (q : Nat) : CoachesFrom s (s.dropCoach q) := by
  unfold State.dropCoach
  split
  · exact .of_subset fun x hx => hx
  · rename_i c _
    refine (s.tally_coachesFrom q).trans (.of_subset fun x hx => ?_)
    have hx' := (List.mem_filter.1 hx).1
    rwa [State.dropWaiters_coaches, State.unbindAll_coaches] at hx'

/-- Of coaches that leave none stays. -/
theorem State.dropCoaches_coaches (l : List Coach) (s : State) :
    CoachesFrom s (l.foldl (fun s c => s.dropCoach c.quad) s) ∧
      ∀ x ∈ (l.foldl (fun s c => s.dropCoach c.quad) s).coaches, ∀ c ∈ l, c.quad ≠ x.quad := by
  induction l generalizing s with
  | nil => exact ⟨.of_subset fun x hx => hx, fun x _ c hc => by cases hc⟩
  | cons c l ih =>
    obtain ⟨hfrom, hgone⟩ := ih (s.dropCoach c.quad)
    refine ⟨(s.dropCoach_coachesFrom c.quad).trans hfrom, fun x hx => List.forall_mem_cons.2 ⟨fun hq => ?_, hgone x hx⟩⟩
    obtain ⟨y, hy, hyq, -⟩ := hfrom x hx
    have hnone := List.find?_eq_none.1 (s.dropCoach_coach? c.quad) y hy
    exact hnone (by simp [hyq, hq])

theorem State.stopCoaches_coaches (s : State) (tag : Nat) : ∀ x ∈ (s.stopCoaches tag).coaches, x.tag ≠ tag := by
  obtain ⟨hfrom, hgone⟩ := State.dropCoaches_coaches (s.coaches.filter (fun c => c.tag == tag)) s
  intro x hx ht
  obtain ⟨y, hy, hyq, hyt⟩ := hfrom x hx
  exact hgone x hx y (List.mem_filter.2 ⟨hy, by simp [hyt, ht]⟩) hyq

theorem State.tag_setTag_self (s : State) (tag : Nat) (e : TagEntry) : (s.setTag tag e).tag tag = e :=
  SMap.get_put_self (fun _ => TagEntry.reset) s.tags tag e

/-- The first cause that strikes a running launch makes it ABORTING and takes its coaches. -/
theorem State.abortLaunch_of_running {s : State} {tag : Nat} {l : Launch} (cause : Nat) (other : BitVec 16) (user : BitVec 13)
    (hl : s.launch? tag = some l) (hc : l.cause = 0#16) (hst : (s.tag tag).st = .running) :
    ((s.abortLaunch tag cause other user).tag tag).st = .aborting ∧
      ∀ x ∈ (s.abortLaunch tag cause other user).coaches, x.tag ≠ tag := by
  unfold State.abortLaunch
  simp only [hl, hc, hst, ne_eq, not_true_eq_false, if_false]
  refine ⟨?_, s.stopCoaches_coaches tag⟩
  rw [State.tag_setTag_self]

/-- The part with the record of a unit that hangs on its way to level O. -/
def State.reportHang (s : State) (handle : Option (BitVec 24)) (die : Nat) : State :=
  s.postUnit codeUe false handle none none none 0#16 none 80 die

theorem State.reportHang_eq (s : State) (handle : Option (BitVec 24)) (die : Nat) :
    ∃ n m x, s.reportHang handle die = { s with free := n, nextReq := m, faults := s.faults ++ [x] } ∧ x.level = 80 ∧
      x.die = die ∧ x.body.code = 0x0402#16 := s.postUnit_eq ..

theorem State.reportHang_reports (s : State) (handle : Option (BitVec 24)) (die : Nat) :
    (s.reportHang handle die).mem = s.mem ∧
      ∃ p ∈ (s.reportHang handle die).faults, p.level = 80 ∧ p.die = die ∧ p.body.code = 0x0402#16 := by
  obtain ⟨n, m, x, hu, hx⟩ := s.reportHang_eq handle die
  rw [hu]
  exact ⟨rfl, x, List.mem_append_right _ (List.mem_singleton.2 rfl), hx⟩

theorem exec_watchdogExpiry_sequencer (s : State) (q : Nat) :
    exec (.watchdogExpiry (.sequencer q)) s = .next (((s.coachHolding q).map (fun c =>
      (s.reportHang none (quadDie q)).abortLaunch c.tag codeUe 0#16 0#13)).getD (s.reportHang none (quadDie q))) := by
  obtain ⟨n, m, x, hu, -⟩ := s.reportHang_eq none (quadDie q)
  have hheld : (s.reportHang none (quadDie q)).coachHolding q = s.coachHolding q := by
    rw [hu]
    rfl
  change (match (s.reportHang none (quadDie q)).coachHolding q with
    | some c => Host.Outcome.next ((s.reportHang none (quadDie q)).abortLaunch c.tag codeUe 0#16 0#13)
    | none => .next (s.reportHang none (quadDie q))) = _
  rw [hheld]
  cases s.coachHolding q <;> rfl

/-- A sequencer that hangs is reported, and the running launch of the coach on it aborts. -/
theorem watchdogExpiry_sequencer (s : State) (q : Nat) :
    ∃ t p, exec (.watchdogExpiry (.sequencer q)) s = .next t ∧ t.mem = s.mem ∧ p ∈ t.faults ∧ p.level = 80 ∧
      p.die = quadDie q ∧ p.body.code = 0x0402#16 ∧
      ∀ c l, s.coachHolding q = some c → s.launch? c.tag = some l → l.cause = 0#16 → (s.tag c.tag).st = .running →
        (t.tag c.tag).st = .aborting ∧ ∀ x ∈ t.coaches, x.tag ≠ c.tag := by
  obtain ⟨n, m, x, hu, -⟩ := s.reportHang_eq none (quadDie q)
  obtain ⟨hmem, p, hp, hlevel, hdie, hcode⟩ := s.reportHang_reports none (quadDie q)
  have hexec := exec_watchdogExpiry_sequencer s q
  cases hc : s.coachHolding q with
  | none =>
    rw [hc] at hexec
    exact ⟨_, p, hexec, hmem, hp, hlevel, hdie, hcode, fun c l h => by cases h⟩
  | some c =>
    rw [hc] at hexec
    have leaves := AbortLeaves.abortLaunch (s.reportHang none (quadDie q)) c.tag codeUe 0#16 0#13
    refine ⟨_, p, hexec, leaves.mem.trans hmem, leaves.faults ▸ hp, hlevel, hdie, hcode, ?_⟩
    rintro _ l ⟨⟩ hl hcause hst
    refine State.abortLaunch_of_running codeUe 0#16 0#13 (l := l) ?_ hcause ?_
    · rw [hu]
      exact hl
    · rw [hu]
      exact hst

/-- A unit that runs no coach's sequencer is only reported. -/
theorem watchdogExpiry_of_report {s : State} {unit : WatchUnit} {handle : Option (BitVec 24)} {die : Nat}
    (hx : exec (.watchdogExpiry unit) s = .next (s.reportHang handle die)) (hu : ∀ q, unit ≠ .sequencer q) :
    ∃ t p, exec (.watchdogExpiry unit) s = .next t ∧ t.mem = s.mem ∧ p ∈ t.faults ∧ p.level = 80 ∧ p.die = die ∧
      p.body.code = 0x0402#16 ∧
      ∀ q c l, unit = .sequencer q → s.coachHolding q = some c → s.launch? c.tag = some l → l.cause = 0#16 →
        (s.tag c.tag).st = .running → (t.tag c.tag).st = .aborting ∧ ∀ x ∈ t.coaches, x.tag ≠ c.tag := by
  obtain ⟨hmem, p, hp, hlevel, hdie, hcode⟩ := s.reportHang_reports handle die
  exact ⟨_, p, hx, hmem, hp, hlevel, hdie, hcode, fun q c l h => absurd h (hu q)⟩

/-! ## The rate of scrubbing (R284) -/

theorem scrubRateEval_sets (s : State) {stack tempC corrected mt me : Nat} (ht1 : tempC < 75 → mt = 1)
    (ht2 : 75 ≤ tempC → tempC < 85 → mt = 2) (ht3 : 85 ≤ tempC → tempC < 95 → mt = 4) (ht4 : 95 ≤ tempC → mt = 6)
    (he1 : corrected = 0 → me = 1) (he2 : 1 ≤ corrected → corrected < 16 → me = 2) (he3 : 16 ≤ corrected → me = 4) :
    ∃ t, exec (.scrubRateEval stack tempC corrected) s = .next t ∧ t = { s with dies := t.dies } ∧
      SMap.get (fun _ => 1) (t.die (stack / 2 % 4)).scrubBoost (stack % 2) = Nat.min 12 (mt * me) := by
  have hmt : (if tempC < 75 then 1 else if tempC < 85 then 2 else if tempC < 95 then 4 else 6) = mt := by
    split_ifs <;> omega
  have hme : (if corrected = 0 then 1 else if corrected < 16 then 2 else 4) = me := by
    split_ifs <;> omega
  refine ⟨s.updDie (stack / 2 % 4) (fun d => { d with
    scrubBoost := SMap.put (fun _ => 1) d.scrubBoost (stack % 2) (Nat.min 12 (mt * me)) }), ?_, rfl, ?_⟩
  · rw [← hmt, ← hme]
    rfl
  · rw [State.die_updDie, if_pos rfl]
    exact SMap.get_put_self ..

/-! ## Walks (R247, R328) -/

section Walk

variable {s : State} {cluster slice : Nat} {tva : Word} (kind : AccessKind)

theorem exec_pageWalk_of_none (h : s.walks.find? (fun x => x.running && x.isFor cluster slice (tva.toNat / 4096)) = none) :
    exec (.pageWalk cluster slice tva kind) s = .next s := by
  show execPageWalk cluster slice tva kind s = _
  simp only [execPageWalk, h]

variable {x : Walk} (h : s.walks.find? (fun x => x.running && x.isFor cluster slice (tva.toNat / 4096)) = some x)
include h

theorem exec_pageWalk_of_ue (hu : x.ue = true) : exec (.pageWalk cluster slice tva kind) s = .next (s.endWalk x true) := by
  show execPageWalk cluster slice tva kind s = _
  simp only [execPageWalk, h, hu, if_true]

theorem exec_pageWalk_of_ok (hu : x.ue = false) {y : Xlate}
    (hw : s.walkNow (s.walkWho cluster slice) tva.toNat 1 kind = .ok y) :
    (∀ e, y.entry = some e → exec (.pageWalk cluster slice tva kind) s = .next
      (((s.fillWalkCache (s.walkWho cluster slice) tva.toNat (e.spa * 4096)).settleXlate
        { y with near := some x.quad, setD := none }).endWalk x false)) ∧
    (y.entry = none → exec (.pageWalk cluster slice tva kind) s = .next (s.endWalk x false)) := by
  show (∀ e, y.entry = some e → execPageWalk cluster slice tva kind s = _) ∧
    (y.entry = none → execPageWalk cluster slice tva kind s = _)
  simp only [execPageWalk, h, hu, hw, Bool.false_eq_true, if_false]
  exact ⟨fun e he => by rw [he], fun he => by rw [he]⟩

/-- The outcome of a walk that stops. -/
def State.stopWalk (s : State) (w : Who) (slice : Nat) (x : Walk) (e : Stop) : State :=
  match e with
  | .line _ => s
  | .pull page => (s.endWalk x true).startPull w.die w.domain slice page
  | _ => s.endWalk x true

theorem exec_pageWalk_of_error (hu : x.ue = false) {e : Stop}
    (hw : s.walkNow (s.walkWho cluster slice) tva.toNat 1 kind = .error e) :
    exec (.pageWalk cluster slice tva kind) s = .next (s.stopWalk (s.walkWho cluster slice) slice x e) := by
  show execPageWalk cluster slice tva kind s = _
  simp only [execPageWalk, h, hu, hw, Bool.false_eq_true, if_false]
  cases e <;> rfl

end Walk

end Sys2Proof.Machine

namespace Sys2Proof

open Machine

/-- Settles O45, part by part: requests at homes and memory-side units, way changes, scrubs, their rate, walks, and watchdogs. -/
theorem homeUnits : Obligations.HomeUnits := by
  refine ⟨fun s id r hr ho => ⟨homeAccess_applies hr ho, fun a tg ha => exec_memorySideAtomic_of_gone hr ho ha,
      fun a ha hc => ?_⟩,
    fun s die => ⟨exec_wayMove_of_none, fun m ms h => ⟨exec_wayMove_of_staged h, wayMove_moves h⟩⟩,
    fun s line => ⟨fun f h => exec_scrubLine_of_idle h, fun h => scrubLine_corrects h, fun h => scrubLine_poisons h⟩,
    fun s stack tempC corrected mt me => scrubRateEval_sets s,
    fun s cluster slice tva kind => ⟨exec_pageWalk_of_none kind, fun x h => ⟨exec_pageWalk_of_ue kind h, fun hu => ?_⟩⟩,
    fun s unit => ?_⟩
  · obtain rfl : r.id = id := by simpa using List.find?_some hr
    exact exec_memorySideAtomic_of_current hr ho ha hc
  · exact ⟨fun y e hw => (exec_pageWalk_of_ok kind h hu hw).1 e, fun y hw => (exec_pageWalk_of_ok kind h hu hw).2,
      fun _ hw => exec_pageWalk_of_error kind h hu hw, fun _ hw => exec_pageWalk_of_error kind h hu hw,
      fun _ _ _ hw => exec_pageWalk_of_error kind h hu hw⟩
  · cases unit with
    | sequencer q =>
      obtain ⟨t, p, hx, hmem, hp, hlevel, hdie, hcode, habort⟩ := watchdogExpiry_sequencer s q
      refine ⟨t, p, hx, hmem, hp, hlevel, hdie, hcode, ?_⟩
      rintro _ c l ⟨⟩
      exact habort c l
    | drayStrand d k => exact watchdogExpiry_of_report rfl (by simp)
    | walker d => exact watchdogExpiry_of_report rfl (by simp)
    | linkEngine p => exact watchdogExpiry_of_report rfl (by simp)

end Sys2Proof
end

section
/-! SUPPORT. TransactionWords: TXCLAIM, TXSTAT and TXABORT (R293, R298, R299, R305). -/

namespace Sys2Proof.Machine

theorem State.takeToken_launchOf (s : State) (k : Tok) : (s.takeToken k).launchOf s.cur = s.launchOf s.cur := by
  cases hc : s.cur with
  | dray d n => rw [State.takeToken_of_dray hc]
  | coach q p =>
    unfold State.launchOf
    rcases State.takeToken_coach? s k q with ⟨hu, hs⟩ | ⟨c, c', hu, hs, hr, -⟩
    · simp only [hu, hs]
    · have htag : c'.tag = c.tag := (congrArg Coach.tag hr :)
      simp only [hu, hs, htag]
      rw [State.takeToken_eq]
      rfl

theorem State.launch?_of_launchOf {s : State} {th : ThreadId} {l : Launch} (h : s.launchOf th = some l) :
    s.launch? l.tag = some l := by
  unfold State.launchOf at h
  split at h
  · split at h
    · rename_i c _
      have htag : l.tag = c.tag := by simpa using List.find?_some h
      rwa [htag]
    · cases h
  · cases h

theorem State.launch?_updLaunch (s : State) (tag : Nat) {f : Launch → Launch} (hf : ∀ l, (f l).tag = l.tag) :
    (s.updLaunch tag f).launch? tag = (s.launch? tag).map f := by
  unfold State.launch? State.updLaunch
  rw [find?_updateWhere _ _ _ _ (fun l => by rw [hf])]
  cases hl : s.launches.find? (fun l => l.tag == tag) with
  | none => rfl
  | some l => rw [Option.map_some, Option.map_some, if_pos (List.find?_some hl)]

/-! ## TXCLAIM (R293, R298) -/

theorem claimOk_eq_true {base len : Word} : claimOk base len = true ↔ base.toNat % 64 = 0 ∧ len.toNat % 64 = 0 ∧
    len.toNat ≠ 0 ∧ len.toNat < 2 ^ 40 ∧ base.toNat + len.toNat ≤ 2 ^ 56 := by
  have hne : len ≠ 0#64 ↔ len.toNat ≠ 0 := not_congr BitVec.toNat_inj.symm
  simp only [claimOk, Bool.and_eq_true, decide_eq_true_eq, bne_iff_ne, hne, and_assoc]

/-- A claim that meets no owner enters the claim filter. -/
theorem State.claimRegion_of_free {s : State} {l : Launch} {runs : List (Nat × Nat)} (base len : Nat)
    (h : s.runOwners l.tag runs = []) : s.claimRegion l base len runs = s.enterRuns l base len runs := by
  rw [State.claimRegion, h, State.meet]

section Claim

variable {s : State} {k : Tok} {a b : BitVec 4} {l : Launch} (hl : s.launchOf s.cur = some l)
  (h : s.Issues { kWord [6] with coachOnly := true } (.txclaim k a b) k)

include h in
theorem traps_txclaim_of_pois (hp : (s.pois a || s.pois b) = true) : Traps (.txclaim k a b) s k 0x0401 none none := by
  have he := exec_of_issue h (show execTxclaim k a b = _ from rfl)
  simp only [State.takeToken_pois, hp, consume, if_true] at he
  exact traps_of_fault he

variable (hp : (s.pois a || s.pois b) = false)
include hl h hp

theorem traps_txclaim_of_operands (hok : claimOk (s.reg a) (s.reg b) = false) :
    Traps (.txclaim k a b) s k 0x0205 (some (s.reg a)) none := by
  have he := exec_of_issue h (show execTxclaim k a b = _ from rfl)
  simp only [State.takeToken_pois, State.takeToken_reg, State.takeToken_cur, State.takeToken_launchOf, hp, hl, hok, consume,
    Bool.false_eq_true, if_false, if_true] at he
  exact traps_of_fault he

variable (hok : claimOk (s.reg a) (s.reg b) = true)
include hok

theorem traps_txclaim_of_full (hfull : 16 ≤ l.claims.length) :
    Traps (.txclaim k a b) s k 0x0205 (some (s.reg a)) (some 16#64) := by
  have he := exec_of_issue h (show execTxclaim k a b = _ from rfl)
  simp only [State.takeToken_pois, State.takeToken_reg, State.takeToken_cur, State.takeToken_launchOf, hp, hl, hok, hfull,
    consume, Bool.false_eq_true, Bool.true_eq_false, if_false, if_true] at he
  exact traps_of_fault he

variable (hroom : l.claims.length < 16)
include hroom

theorem does_txclaim_of_irrev (hi : l.irrev = true) : Does (.txclaim k a b) s s := by
  have he := exec_of_issue h (show execTxclaim k a b = _ from rfl)
  simp only [State.takeToken_pois, State.takeToken_reg, State.takeToken_cur, State.takeToken_launchOf, hp, hl, hok,
    Nat.not_le.2 hroom, hi, consume, Bool.false_eq_true, Bool.true_eq_false, if_false, if_true] at he
  exact does_self_of_done h he rfl

section Free

variable (hi : l.irrev = false) {v : State} {runs : List (Nat × Nat)}
  (hruns : ((s.takeToken k).unpark s.cur 0).claimRuns ((s.takeToken k).whoOf s.cur true) (s.reg a).toNat (s.reg b).toNat =
    .ok v runs) (hown : v.runOwners l.tag runs = [])
include hi hruns hown

/-- A claim that meets no owner enters the claim filter, where there is room for its runs. -/
theorem exec_txclaim_of_free :
    exec (.txclaim k a b) s = (match v.enterRuns l (s.reg a).toNat (s.reg b).toNat runs with
      | .go x => Res.done x
      | .wait x owners => .wait (x.parkAt (parkedReq x x.cur l.slice ((runs.headD (0, 0)).1 / 64) 0 0 .thread) owners)
          (.home x.nextReq)
      | .gone x => .gone x).apply k 1 s.me.pc s.cur := by
  have he := exec_of_issue h (show execTxclaim k a b = _ from rfl)
  simp only [State.takeToken_pois, State.takeToken_reg, State.takeToken_cur, State.takeToken_launchOf, hp, hl, hok,
    Nat.not_le.2 hroom, hi, hruns, State.claimRegion_of_free _ _ hown, consume, Bool.false_eq_true, Bool.true_eq_false,
    if_false] at he
  exact he

theorem exec_txclaim_of_fits (hfits : ¬4096 < v.launches.foldl (fun n x => n + x.runs.length) runs.length) :
    exec (.txclaim k a b) s = .next (((v.dropStaged l.tag runs).updLaunch l.tag (fun l =>
      { l with claims := l.claims ++ [((s.reg a).toNat, (s.reg b).toNat)], runs := l.runs ++ runs })).complete k 1) := by
  rw [exec_txclaim_of_free hl h hp hok hroom hi hruns hown, State.enterRuns, if_neg hfits]
  rfl

theorem exec_txclaim_of_overfull (hover : 4096 < v.launches.foldl (fun n x => n + x.runs.length) runs.length) :
    exec (.txclaim k a b) s = .next (v.abortLaunch l.tag 0x0502 0#16 0#13) := by
  rw [exec_txclaim_of_free hl h hp hok hroom hi hruns hown, State.enterRuns, if_pos hover]
  rfl

end Free

end Claim

/-! ## TXSTAT (R299) -/

theorem State.takeToken_txStatus (s : State) (k : Tok) (l : Launch) : (s.takeToken k).txStatus l = s.txStatus l := by
  rw [State.takeToken_eq]
  rfl

theorem gives_txstat {s : State} {k : Tok} {d : BitVec 4} {l : Launch} (hl : s.launchOf s.cur = some l) :
    Gives { kWord [] with coachOnly := true } (.txstat k d) k s d (s.txStatus l) false := by
  intro h
  have he := exec_of_issue h (show execTxstat k d = _ from rfl)
  simp only [State.takeToken_cur, State.takeToken_launchOf, hl, State.takeToken_txStatus] at he
  exact computes_of_writeS h rfl he

theorem bits_word (n : Nat) {hi lo : Nat} (hhi : hi < 64) : bits (word n) hi lo = n / 2 ^ lo % 2 ^ (hi + 1 - lo) := by
  refine Nat.eq_of_testBit_eq (fun i => ?_)
  rw [testBit_bits, word, Nat.testBit_mod_two_pow, Nat.testBit_div_two_pow, BitVec.getLsbD_ofNat, Nat.add_comm lo i]
  by_cases hi' : i < hi + 1 - lo
  · rw [decide_eq_true (show i + lo < 64 by omega), Bool.true_and]
  · rw [decide_eq_false hi', Bool.false_and, Bool.false_and]

theorem flagNat_le (b : Bool) : flagNat b ≤ 1 := by cases b <;> decide

/-- A flag at its place in a word. -/
theorem bit_word {n i : Nat} {b : Bool} (hi : i < 64) (h : n / 2 ^ i % 2 = flagNat b) : bit (word n) i = b := by
  rw [bit, word, BitVec.getLsbD_ofNat, decide_eq_true hi, Bool.true_and, Nat.testBit_eq_decide_div_mod_eq, h]
  cases b <;> rfl

/-- The fields of the launch status word. -/
theorem State.txStatus_fields (s : State) {l : Launch} (ha : l.attempt < 16) (hr : s.sliceRetry l.die l.slice < 16)
    (hh : l.held.length ≤ 64) (hc : l.claims.length ≤ 16) :
    let w := s.txStatus l
    bits w 63 48 = (s.vtag l.tag).toNat ∧ bits w 47 44 = l.attempt ∧ bits w 43 40 = s.sliceRetry l.die l.slice ∧
      bits w 39 24 = 0 ∧ bits w 23 16 = l.held.length ∧ bits w 15 10 = 0 ∧ bit w 9 = bit (l.h 1) 31 ∧ bit w 8 = l.mode ∧
      bit w 7 = l.policyAbort ∧ bit w 6 = l.irrev ∧ bit w 5 = l.opened ∧ bits w 4 0 = l.claims.length := by
  have hv := (s.vtag l.tag).isLt
  have h9 := flagNat_le (bit (l.h 1) 31)
  have h8 := flagNat_le l.mode
  have h7 := flagNat_le l.policyAbort
  have h6 := flagNat_le l.irrev
  have h5 := flagNat_le l.opened
  intro w
  refine ⟨(bits_word _ (by decide)).trans ?_, (bits_word _ (by decide)).trans ?_, (bits_word _ (by decide)).trans ?_,
    (bits_word _ (by decide)).trans ?_, (bits_word _ (by decide)).trans ?_, (bits_word _ (by decide)).trans ?_,
    bit_word (by decide) ?_, bit_word (by decide) ?_, bit_word (by decide) ?_, bit_word (by decide) ?_, bit_word (by decide) ?_,
    (bits_word _ (by decide)).trans ?_⟩ <;> omega

/-! ## TXABORT (R299, R305) -/

theorem exec_txabort {s : State} {k : Tok} {c : BitVec 13} {l : Launch} (hl : s.launchOf s.cur = some l)
    (h : s.Issues { kWord [] with coachOnly := true } (.txabort k c) k) :
    exec (.txabort k c) s = .next ((s.takeToken k).abortLaunch l.tag 0x0503 0#16 c) := by
  have he := exec_of_issue h (show execTxabort k c = _ from rfl)
  simp only [State.takeToken_cur, State.takeToken_launchOf, hl] at he
  exact he

/-- The first cause that strikes a running launch stands in its entry, and its held records are gone. -/
theorem State.abortLaunch_launch? {s : State} {tag : Nat} {l : Launch} (cause : Nat) (other : BitVec 16) (user : BitVec 13)
    (hl : s.launch? tag = some l) (hc : l.cause = 0#16) (hst : (s.tag tag).st = .running) {m : Launch}
    (hm : (s.abortLaunch tag cause other user).launch? tag = some m) :
    m.cause = BitVec.ofNat 16 cause ∧ m.user = user ∧ m.held = [] := by
  unfold State.abortLaunch at hm
  simp only [hl, hc, hst, ne_eq, not_true_eq_false, if_false] at hm
  change ((s.stopCoaches tag).updLaunch tag _).launch? tag = some m at hm
  rw [State.launch?_updLaunch, Option.map_eq_some_iff] at hm
  · obtain ⟨x, -, rfl⟩ := hm
    exact ⟨rfl, rfl, rfl⟩
  · exact fun _ => rfl

end Sys2Proof.Machine

namespace Sys2Proof

open Machine

/-- Settles O20: TXCLAIM by the checks that its operands and its launch pass, TXSTAT by the fields of its word, and TXABORT by
what the first cause does to a running launch. -/
theorem transactions : Obligations.Transactions := by
  intro s k d a b c l hl
  refine ⟨fun h => ⟨traps_txclaim_of_pois h, fun hp => ?_⟩, gives_txstat hl, s.txStatus_fields,
    fun h => ⟨exec_txabort hl h, fun hst hc => ?_⟩⟩
  · simp only [← claimOk_eq_true, Bool.not_eq_true]
    exact ⟨traps_txclaim_of_operands hl h hp, traps_txclaim_of_full hl h hp, does_txclaim_of_irrev hl h hp,
      fun hok hroom hi v runs hruns hown => ⟨exec_txclaim_of_fits hl h hp hok hroom hi hruns hown,
        exec_txclaim_of_overfull hl h hp hok hroom hi hruns hown⟩⟩
  · have hlu : (s.takeToken k).launch? l.tag = some l := by
      rw [State.takeToken_eq]
      exact (State.launch?_of_launchOf hl :)
    have hstu : ((s.takeToken k).tag l.tag).st = .running := by
      rw [State.takeToken_eq]
      exact hst
    obtain ⟨htag, hcoaches⟩ := State.abortLaunch_of_running 0x0503 0#16 c hlu hc hstu
    exact ⟨_, exec_txabort hl h, htag, fun x hx => hcoaches x (List.contains_iff_mem.1 hx),
      fun m => State.abortLaunch_launch? 0x0503 0#16 c hlu hc hstu⟩

end Sys2Proof
end

section
/-! SUPPORT. Staging: what a staged write leaves of its own launch's view of memory, and of everyone else's (R288, R289). -/

namespace Sys2Proof.Machine

/-! ## Masked bytes of a line -/

theorem expandMask_getLsbD (m : BitVec 64) {j : Nat} (hj : j < 512) : (expandMask m).getLsbD j = m.getLsbD (j / 8) := by
  have hbyte : ∀ b : Bool, (if b then 255#8 else 0#8 : Byte).getLsbD (j % 8) = b := by
    have hj8 : j % 8 < 8 := Nat.mod_lt _ (by decide)
    intro b
    cases b
    · exact BitVec.getLsbD_zero
    · interval_cases j % 8 <;> rfl
  rw [expandMask, BitVec.getLsbD_ofNat, decide_eq_true hj, Bool.true_and, natOfBytes_testBit, List.getD_eq_getElem?_getD,
    List.getElem?_map, List.getElem?_range (by omega), Option.map_some, Option.getD_some, hbyte]

theorem lineByte_getLsbD (d : BitVec 512) (i : Nat) {k : Nat} (hk : k < 8) :
    (lineByte d i).getLsbD k = d.getLsbD (8 * i + k) := by
  rw [lineByte, BitVec.getLsbD_extractLsb', decide_eq_true hk, Bool.true_and]

/-- Bytes of a line that a mask selects. -/
theorem lineByte_and_expandMask (d : BitVec 512) {m : BitVec 64} {i : Nat} (hi : i < 64) (hm : m.getLsbD i = true) :
    lineByte (d &&& expandMask m) i = lineByte d i := by
  refine byte_ext (fun k hk => ?_)
  rw [lineByte_getLsbD _ _ hk, lineByte_getLsbD _ _ hk, BitVec.getLsbD_and, expandMask_getLsbD m (by omega),
    show (8 * i + k) / 8 = i by omega, hm, Bool.and_true]

theorem lineByte_overlay (old new : BitVec 512) (m : BitVec 64) {i : Nat} (hi : i < 64) :
    lineByte (overlay old new m) i = if m.getLsbD i = true then lineByte new i else lineByte old i := by
  refine byte_ext (fun k hk => ?_)
  have hbit : (lineByte (overlay old new m) i).getLsbD k =
      if m.getLsbD i = true then new.getLsbD (8 * i + k) else old.getLsbD (8 * i + k) := by
    rw [lineByte_getLsbD _ _ hk, overlay, BitVec.getLsbD_or, BitVec.getLsbD_and, BitVec.getLsbD_and, BitVec.getLsbD_not,
      expandMask_getLsbD m (by omega), show (8 * i + k) / 8 = i by omega, decide_eq_true (show 8 * i + k < 512 by omega)]
    cases m.getLsbD i <;> simp
  rw [hbit]
  split <;> exact (lineByte_getLsbD _ _ hk).symm

/-! ## Staged bytes (R288, R289) -/

theorem State.stagedOf_eq_find? (s : State) (tag line : Nat) :
    s.stagedOf (some tag) line = s.staged.find? (fun e => e.line == line && e.tag == tag && !e.committed) := rfl

/-- A view of memory depends on the staged entries of its launch and on committed bytes. -/
theorem State.viewByte_congr {s t : State} {tag : Option Nat} {a : Nat} (he : t.stagedOf tag (a / 64) = s.stagedOf tag (a / 64))
    (hm : t.mem = s.mem) : t.viewByte tag a = s.viewByte tag a := by
  rw [State.viewByte, State.viewByte, he, State.byteAt, hm, ← State.byteAt]

section Stage

variable (s : State) (l : Launch) (line : Nat) (data : BitVec 512) (mask : BitVec 64) (evict : Nat) (leaf : Option Nat)
  (rel : Option (ThreadId × Nat))

/-- What becomes of a staged entry that takes further bytes. -/
def Staged.take (data : BitVec 512) (mask : BitVec 64) (evict : Nat) (e : Staged) : Staged :=
  { e with data := overlay e.data data mask, mask := e.mask ||| mask, evict := evict }

theorem State.stageBytes_of_some {e : Staged} (he : s.stagedOf (some l.tag) line = some e) :
    s.stageBytes l line data mask evict leaf rel = { s.markRelease (some l.tag) line mask rel with
      staged := updateWhere (fun e => e.line == line && e.tag == l.tag && !e.committed) (Staged.take data mask evict) s.staged } := by
  have he' : (s.markRelease (some l.tag) line mask rel).stagedOf (some l.tag) line = some e := he
  rw [State.stageBytes]
  simp only [he']
  rfl

theorem State.stageBytes_of_none (he : s.stagedOf (some l.tag) line = none) :
    ∃ e : Staged, s.stageBytes l line data mask evict leaf rel =
        { s.markRelease (some l.tag) line mask rel with staged := s.staged ++ [e] } ∧
      e.line = line ∧ e.tag = l.tag ∧ e.committed = false ∧ e.data = data &&& expandMask mask ∧ e.mask = mask := by
  have he' : (s.markRelease (some l.tag) line mask rel).stagedOf (some l.tag) line = none := he
  rw [State.stageBytes]
  simp only [he']
  exact ⟨_, rfl, rfl, rfl, rfl, rfl, rfl⟩

/-- Staging touches staged entries and release records alone. -/
theorem State.stageBytes_eq : s.stageBytes l line data mask evict leaf rel = { s with
    staged := (s.stageBytes l line data mask evict leaf rel).staged
    releases := (s.stageBytes l line data mask evict leaf rel).releases } := by
  cases he : s.stagedOf (some l.tag) line with
  | some e => rw [State.stageBytes_of_some _ _ _ _ _ _ _ _ he]; rfl
  | none =>
    obtain ⟨e, ht, -⟩ := State.stageBytes_of_none s l line data mask evict leaf rel he
    rw [ht]; rfl

/-- Entries of other launches, and of other lines, stay. -/
theorem State.stageBytes_stagedOf_of_ne {u n : Nat} (h : u ≠ l.tag ∨ n ≠ line) :
    (s.stageBytes l line data mask evict leaf rel).stagedOf (some u) n = s.stagedOf (some u) n := by
  cases he : s.stagedOf (some l.tag) line with
  | some e =>
    rw [State.stageBytes_of_some _ _ _ _ _ _ _ _ he, State.stagedOf_eq_find?, find?_updateWhere]
    · rw [State.stagedOf_eq_find?]
      cases hx : s.staged.find? (fun e => e.line == n && e.tag == u && !e.committed) with
      | none => rfl
      | some x =>
        have hp := List.find?_some hx
        simp only [Bool.and_eq_true, beq_iff_eq] at hp
        obtain ⟨⟨hline, htag⟩, -⟩ := hp
        rw [Option.map_some, if_neg]
        rw [hline, htag]
        rcases h with h | h <;> simp [h]
    · exact fun _ => rfl
  | none =>
    obtain ⟨e, ht, hline, htag, -⟩ := State.stageBytes_of_none s l line data mask evict leaf rel he
    have hnot : (e.line == n && e.tag == u && !e.committed) = false := by
      rw [hline, htag]
      rcases h with h | h <;> simp [h.symm]
    rw [ht, State.stagedOf_eq_find?, State.stagedOf_eq_find?, List.find?_append, List.find?_singleton, hnot]
    exact Option.or_none

/-- The launch sees its staged bytes, and under them what it saw before. -/
theorem State.stageBytes_viewByte {a : Nat} (ha : a / 64 = line) :
    (s.stageBytes l line data mask evict leaf rel).viewByte (some l.tag) a =
      if mask.getLsbD (a % 64) = true then lineByte data (a % 64) else s.viewByte (some l.tag) a := by
  have hlt : a % 64 < 64 := Nat.mod_lt _ (by decide)
  have hbyte : (s.stageBytes l line data mask evict leaf rel).byteAt a = s.byteAt a := by rw [State.stageBytes_eq]; rfl
  rw [State.viewByte, State.viewByte, hbyte, ha]
  cases he : s.stagedOf (some l.tag) line with
  | some e =>
    have hput : (s.stageBytes l line data mask evict leaf rel).stagedOf (some l.tag) line = some (e.take data mask evict) := by
      rw [State.stageBytes_of_some _ _ _ _ _ _ _ _ he, State.stagedOf_eq_find?, find?_updateWhere]
      · rw [← State.stagedOf_eq_find?, he, Option.map_some, if_pos (List.find?_some he)]
      · exact fun _ => rfl
    rw [hput]
    simp only [Staged.take, BitVec.getLsbD_or, Bool.or_eq_true, lineByte_overlay _ _ _ hlt]
    by_cases hm : mask.getLsbD (a % 64) = true <;> simp [hm]
  | none =>
    obtain ⟨e, ht, hline, htag, hc, hdata, hmask⟩ := State.stageBytes_of_none s l line data mask evict leaf rel he
    have hput : (s.stageBytes l line data mask evict leaf rel).stagedOf (some l.tag) line = some e := by
      rw [State.stagedOf_eq_find?] at he
      rw [ht, State.stagedOf_eq_find?, List.find?_append, he, List.find?_singleton, hline, htag, hc]
      simp
    rw [hput]
    simp only [hdata, hmask]
    refine ite_congr rfl (fun hm => ?_) (fun _ => rfl)
    exact lineByte_and_expandMask data hlt hm

end Stage

/-! ## STAGE_REQUEST (R288) -/

theorem State.launch?_of_currentAttempt {s : State} {t : Nat × BitVec 4} {l : Launch} (h : s.currentAttempt t = some l) :
    s.launch? l.tag = some l := by
  unfold State.currentAttempt at h
  split at h
  · have htag : l.tag = t.1 := by simpa using List.find?_some h
    rwa [htag]
  · cases h

/-- A launch's write of bytes that it neither claims nor writes directly is staged. -/
theorem State.writeLaunch_of_unclaimed {s : State} {l : Launch} (line : Nat) (data : BitVec 512) {mask : BitVec 64} (evict : Nat)
    (leaf : Option Nat) (keep : L1Line → Bool) (rel : Option (ThreadId × Nat)) (hl : s.launch? l.tag = some l)
    (hi : l.irrev = false) (hc : mask &&& l.claimMask line = 0#64) :
    s.writeLaunch l line data mask evict leaf keep rel =
      if mask = 0#64 then s else (s.l1Drop line keep).stageBytes l line data mask evict leaf rel := by
  have hrest : mask &&& ~~~ 0#64 = mask := by rw [BitVec.not_zero, BitVec.and_allOnes]
  unfold State.writeLaunch
  simp only [hl, Option.getD_some, hi, hc, Bool.false_eq_true, if_false, if_true, hrest]

/-- A launch's write that meets no owner, and for whose line there is room. -/
theorem State.admitWrite_of_free {s : State} {l : Launch} {line : Nat} {mask : BitVec 64}
    (ho : s.stagers l.tag line mask ++ s.claimers (some l.tag) line mask = []) (hp : l.promoting = false)
    (hr : s.hasRoom l line = true) : s.admitWrite l line mask = .go s := by
  rw [State.admitWrite, ho, State.meet]
  simp only [State.capacity, hp, hr, Bool.false_eq_true, if_false, if_true, ite_self]

section Request

variable {s : State} {id : Nat} {r : HomeReq} {l : Launch} {tg : Nat × BitVec 4}
  (hr : s.homeq.find? (fun x => x.id == id) = some r) (hs : r.staging = true) (ho : s.inOrder r = true) (ht : r.tag = some tg)
  (hl : s.currentAttempt tg = some l) (hi : l.irrev = false) (hp : l.promoting = false) (hrel : r.release ≠ some 6)
  (hap : apertureOf (64 * r.line) = .hbm)
  (hfree : s.stagers l.tag r.line r.mask ++ s.claimers (some l.tag) r.line r.mask = [])
  (hc : r.mask &&& l.claimMask r.line = 0#64) (hroom : s.hasRoom l r.line = true)
include hr hs ho ht hl hi hp hrel hap hfree hc hroom

theorem exec_stageRequest_of_free : exec (.stageRequest id) s = .next (if r.mask = 0#64 then s.dropReq id
    else ((s.dropReq id).l1Drop r.line (s.keepOf r)).stageBytes l r.line r.data r.mask r.evict r.leaf r.rel) := by
  have hid : r.id = id := by simpa using List.find?_some hr
  have hdirect : r.direct = false := by
    simp only [HomeReq.staging, Bool.and_eq_true, Bool.not_eq_true'] at hs
    exact hs.2
  have hwrite := State.writeLaunch_of_unclaimed (s := s.dropReq id) r.line r.data r.evict r.leaf (s.keepOf r) r.rel
    (State.launch?_of_currentAttempt hl :) hi hc
  have happly : s.applyReq r = (s.dropReq id).writeLaunch l r.line r.data r.mask r.evict r.leaf (s.keepOf r) r.rel := by
    simp only [State.applyReq, ht, hl, hdirect, State.admitWrite_of_free hfree hp hroom, hid, Bool.false_eq_true, if_false]
  rw [← hwrite, ← happly]
  show execStageRequest id s = _
  simp [execStageRequest, State.takeTurn, hr, hs, ho, hrel, hap]

/-- A staged write is its own launch's to see, and nobody else's. -/
theorem stageRequest_stages : ∃ t, exec (.stageRequest id) s = .next t ∧ t.mem = s.mem ∧ t.coaches = s.coaches ∧
    t.homeq = s.homeq.filter (fun x => x.id != id) ∧
    (∀ i, i < 64 → r.mask.getLsbD i = true → t.viewByte (some l.tag) (64 * r.line + i) = lineByte r.data i) ∧
    (∀ a, a / 64 ≠ r.line ∨ r.mask.getLsbD (a % 64) = false → t.viewByte (some l.tag) a = s.viewByte (some l.tag) a) ∧
    (∀ u a, u ≠ l.tag → t.viewByte (some u) a = s.viewByte (some u) a) ∧
    ∀ a, t.viewByte none a = s.viewByte none a := by
  have he := exec_stageRequest_of_free hr hs ho ht hl hi hp hrel hap hfree hc hroom
  by_cases hm : r.mask = 0#64
  · rw [if_pos hm] at he
    refine ⟨_, he, rfl, rfl, rfl, fun i _ hbit => ?_, fun a _ => rfl, fun u a _ => rfl, fun a => rfl⟩
    rw [hm, BitVec.getLsbD_zero] at hbit
    cases hbit
  · rw [if_neg hm] at he
    have hleft := ((s.dropReq id).l1Drop r.line (s.keepOf r)).stageBytes_eq l r.line r.data r.mask r.evict r.leaf r.rel
    have hown : ∀ a, a / 64 = r.line → _ := fun a =>
      ((s.dropReq id).l1Drop r.line (s.keepOf r)).stageBytes_viewByte l r.line r.data r.mask r.evict r.leaf r.rel (a := a)
    have hmem : (((s.dropReq id).l1Drop r.line (s.keepOf r)).stageBytes l r.line r.data r.mask r.evict r.leaf r.rel).mem = s.mem := by
      rw [hleft]; rfl
    refine ⟨_, he, hmem, by rw [hleft]; rfl, by rw [hleft]; rfl, fun i hlt hbit => ?_, fun a hout => ?_, fun u a hu => ?_,
      fun a => State.viewByte_congr rfl hmem⟩
    · have hmod : (64 * r.line + i) % 64 = i := by omega
      rw [hown _ (by omega), hmod, if_pos hbit]
    · by_cases hline : a / 64 = r.line
      · rw [hown a hline, if_neg (by rw [hout.resolve_left (not_not.2 hline)]; exact Bool.false_ne_true)]
        rfl
      · exact State.viewByte_congr (State.stageBytes_stagedOf_of_ne _ _ _ _ _ _ _ _ (.inr hline)) hmem
    · exact State.viewByte_congr (State.stageBytes_stagedOf_of_ne _ _ _ _ _ _ _ _ (.inl hu)) hmem

end Request

end Sys2Proof.Machine
end

section
/-! SUPPORT. Conflicts: requests that wait for other launches, and cycles of waiting launches (R286, R294 to R296). -/

namespace Sys2Proof.Machine

/-! ## Requests that wait (R294, R296) -/

section Wait

variable {s : State} {id : Nat} {w : WaitReq} (hw : s.waiting.find? (fun w => w.req.id == id) = some w)
include hw

theorem exec_conflictWaitApply_of_waits (h : s.mayRetry w = false ∨ s.behind w = true) :
    exec (.conflictWaitApply id) s = .next s := by
  show execConflictWaitApply id s = _
  simp only [execConflictWaitApply, hw, if_pos h]

variable (hm : s.mayRetry w = true) (hb : s.behind w = false)
include hm hb

/-- A request whose turn to be tried again has come. -/
theorem exec_conflictWaitApply_of_goes : exec (.conflictWaitApply id) s = .next (match w.req.atom with
    | some a => s.retryAtom w.req a
    | none => if w.req.mask = 0#64 then s.dropReq id else s.applyReq w.req) := by
  show execConflictWaitApply id s = _
  simp only [execConflictWaitApply, hw, hm, hb, Bool.true_eq_false, Bool.false_eq_true, or_self, if_false]
  cases w.req.atom <;> rfl

theorem conflictWaitApply_goes :
    (∀ a, w.req.atom = some a → exec (.conflictWaitApply id) s = .next (s.retryAtom w.req a)) ∧
      (w.req.atom = none → w.req.mask = 0#64 → ∃ t, exec (.conflictWaitApply id) s = .next t ∧
        t = { s with homeq := t.homeq, waiting := t.waiting } ∧ ∀ x ∈ t.waiting, x.req.id ≠ id) ∧
      (w.req.atom = none → w.req.mask ≠ 0#64 → exec (.conflictWaitApply id) s = .next (s.applyReq w.req)) := by
  have he := exec_conflictWaitApply_of_goes hw hm hb
  refine ⟨fun a ha => ?_, fun ha h0 => ⟨s.dropReq id, ?_, rfl, fun x hx => ?_⟩, fun ha h0 => ?_⟩
  · rw [he, ha]
  · rw [he, ha]
    exact congrArg Host.Outcome.next (if_pos h0)
  · simpa using (List.mem_filter.1 hx).2
  · rw [he, ha]
    exact congrArg Host.Outcome.next (if_neg h0)

end Wait

/-! ## Cycles (R286, R295) -/

theorem Launch.older_irrefl (l : Launch) : l.older l = false := by simp [Launch.older]

theorem Launch.older_trans {a b c : Launch} (h : a.older b = true) (g : b.older c = true) : a.older c = true := by
  simp only [Launch.older, Bool.or_eq_true, Bool.and_eq_true, decide_eq_true_eq, beq_iff_eq, ← BitVec.toNat_inj] at *
  omega

theorem youngest_concat (ls : List Launch) (x : Launch) :
    youngest (ls ++ [x]) = some ((youngest ls).elim x (fun y => if y.older x then x else y)) := by
  rw [youngest, List.foldl_append, ← youngest]
  cases youngest ls with
  | none => rfl
  | some y => exact (apply_ite some _ _ _).symm

/-- The youngest of some launches is one of them, and not older than any. -/
theorem youngest_spec {ls : List Launch} (h : ls ≠ []) :
    ∃ l ∈ ls, youngest ls = some l ∧ ∀ x ∈ ls, l.older x = false := by
  induction ls using List.reverseRecOn with
  | nil => exact absurd rfl h
  | append_singleton ls x ih =>
    rw [youngest_concat]
    by_cases hls : ls = []
    · subst hls
      exact ⟨x, List.mem_singleton.2 rfl, rfl, by simpa using x.older_irrefl⟩
    · obtain ⟨y, hy, he, hold⟩ := ih hls
      rw [he]
      by_cases hyx : y.older x = true
      · refine ⟨x, by simp, by simp [hyx], fun z hz => ?_⟩
        rcases List.mem_append.1 hz with hz | hz
        · refine Bool.eq_false_iff.2 (fun hxz => ?_)
          exact Bool.false_ne_true ((hold z hz).symm.trans (Launch.older_trans hyx hxz))
        · rw [List.mem_singleton.1 hz, x.older_irrefl]
      · refine ⟨y, by simp [hy], by simp [hyx], fun z hz => ?_⟩
        rcases List.mem_append.1 hz with hz | hz
        · exact hold z hz
        · rw [List.mem_singleton.1 hz, Bool.eq_false_iff.2 hyx]

/-- Launches of which each waits for the other in a chain. -/
def State.cycleOf (s : State) (tag : Nat) : List Launch :=
  let reach := fun t => s.waitReach s.launches.length (s.waitOwners t)
  s.launches.filter (fun l => (reach tag).contains l.tag && (reach l.tag).contains tag)

/-- A launch has a request that has waited for 100 us. -/
def State.waitsLong (s : State) (tag : Nat) : Bool :=
  s.waiting.any (fun w => (w.req.tag.map (fun t => t.1)) == some tag && decide (100000 ≤ (s.tsc - w.since).toNat))

theorem exec_waitCycleCheck_of_none {s : State} {tag : Nat}
    (h : s.waitsLong tag = false ∨ (s.waitReach s.launches.length (s.waitOwners tag)).contains tag = false) :
    exec (.waitCycleCheck tag) s = .next s := by
  change (if s.waitsLong tag = false then Host.Outcome.next s else _) = _
  split
  · rfl
  · rename_i hl
    exact if_pos (h.resolve_left hl)

theorem waitCycleCheck_aborts {s : State} {tag : Nat} (hl : s.waitsLong tag = true)
    (hr : (s.waitReach s.launches.length (s.waitOwners tag)).contains tag = true) (hc : s.cycleOf tag ≠ []) :
    ∃ l ∈ s.cycleOf tag, (∀ x ∈ s.cycleOf tag, l.older x = false) ∧ exec (.waitCycleCheck tag) s =
      .next (s.abortLaunch l.tag 0x0501 (((s.waitOwners l.tag).head?.map s.vtag).getD 0#16) 0#13) := by
  obtain ⟨l, hmem, hy, hold⟩ := youngest_spec hc
  refine ⟨l, hmem, hold, ?_⟩
  have hx : exec (.waitCycleCheck tag) s = match youngest (s.cycleOf tag) with
      | none => .next s
      | some l => .next (s.abortLaunch l.tag 0x0501 (((s.waitOwners l.tag).head?.map s.vtag).getD 0#16) 0#13) := by
    change (if s.waitsLong tag = false then Host.Outcome.next s else _) = _
    rw [if_neg (by rw [hl]; decide)]
    exact if_neg (by rw [hr]; decide)
  rw [hx, hy]

end Sys2Proof.Machine
end

section
/-! SUPPORT. CommitPoint: PENDING, its acknowledgements, and what the commit point makes of the staged bytes (R300, R303, R312). -/

namespace Sys2Proof.Machine

theorem mem_updateWhere {α : Type} {p : α → Bool} {f : α → α} {l : List α} {x : α} (h : x ∈ updateWhere p f l) :
    ∃ y ∈ l, x = if p y = true then f y else y := by
  obtain ⟨y, hy, rfl⟩ := List.mem_map.1 h
  exact ⟨y, hy, rfl⟩

theorem filter_updateWhere {α : Type} (p q : α → Bool) (f : α → α) (l : List α) (hq : ∀ x, q (f x) = q x) :
    (updateWhere p f l).filter q = updateWhere p f (l.filter q) := by
  have hg : (q ∘ fun x => if p x then f x else x) = q := by
    funext x
    exact (apply_ite q _ _ _).trans (by rw [hq, ite_self])
  rw [updateWhere, List.filter_map, hg, updateWhere]

/-! ## COMMIT_PENDING (R303) -/

section Pending

variable {s : State} {tag : Nat} {l : Launch} (hl : s.launch? tag = some l)
include hl

theorem exec_commitPending_of_not (h : s.mayCommit l = false) : exec (.commitPending tag) s = .next s := by
  show execCommitPending tag s = _
  simp only [execCommitPending, hl, h, Bool.false_eq_true, if_false]

theorem commitPending_pends (h : s.mayCommit l = true) : ∃ t, exec (.commitPending tag) s = .next t ∧
    t = { s with tags := t.tags, launches := t.launches } ∧ t.tag tag = { s.tag tag with st := .pending } ∧
    t.launch? tag = some { l with acks := 0#4 } := by
  refine ⟨(s.setTag tag { s.tag tag with st := .pending }).updLaunch tag (fun l => { l with acks := 0#4 }), ?_, rfl,
    s.tag_setTag_self tag { s.tag tag with st := .pending }, ?_⟩
  · show execCommitPending tag s = _
    simp only [execCommitPending, hl, h, if_true]
  · rw [State.launch?_updLaunch _ _ (by exact fun _ => rfl)]
    exact congrArg (Option.map _) hl

theorem State.launch?_ack (die : Nat) : (s.ack tag die).launch? tag = some { l with acks := l.acks ||| (1#4 <<< die) } := by
  rw [State.ack, State.launch?_updLaunch, hl]
  · rfl
  · exact fun _ => rfl

theorem State.allAcked_of_launch? : s.allAcked tag = (l.acks == 15#4) := by rw [State.allAcked, hl]; rfl

end Pending

/-! ## The commit point (R303, R312) -/

/-- A staged entry as the commit point leaves it. -/
def Staged.land (e : Staged) : Staged := { e with pending := false, committed := true }

/-- The bytes of a staged entry become data. -/
def State.landEntry (s : State) (keep : Bool) (e : Staged) : State :=
  let s := match e.leaf with
    | some a => s.setDirty a
    | none => s
  let s := ((s.l1Drop e.line noCopy).putLine e.line e.data e.mask).markRelease none e.line e.mask none
  if keep then s.moveReleases e else s

theorem State.landEntry_homeOnly (s : State) (keep : Bool) (e : Staged) : HomeOnly s (s.landEntry keep e) := by
  have put : ∀ u : State, HomeOnly u (((u.l1Drop e.line noCopy).putLine e.line e.data e.mask).markRelease none e.line e.mask none) :=
    fun u => (HomeOnly.trans (t := u.l1Drop e.line noCopy) rfl (State.putLine_homeOnly ..)).trans rfl
  have dirty : HomeOnly s (match e.leaf with
      | some a => s.setDirty a
      | none => s) := by
    split
    · exact State.writeDirect_homeOnly ..
    · rfl
  unfold State.landEntry
  simp only []
  split
  · exact (dirty.trans (put _)).trans rfl
  · exact dirty.trans (put _)

/-- The staged bytes of a launch become data. -/
def State.landAll (s : State) (tag : Nat) (keep : Bool) : State :=
  (s.staged.filter (fun e => e.tag == tag && !e.committed)).foldl (fun s e => s.landEntry keep e) s

theorem State.landAll_homeOnly (s : State) (tag : Nat) (keep : Bool) : HomeOnly s (s.landAll tag keep) :=
  HomeOnly.foldl (fun s e => s.landEntry_homeOnly keep e) _ s

theorem State.commitStaged_eq_landAll (s : State) (tag : Nat) (keep : Bool) : s.commitStaged tag keep =
    ({ s.landAll tag keep with
        staged := updateWhere (fun e => e.tag == tag) Staged.land (s.landAll tag keep).staged }.dropReleases tag).l1DropTag tag :=
  rfl

/-- What homes keep of lines differs, and the staged entries of the tag are committed. -/
theorem State.commitStaged_homeOnly (s : State) (tag : Nat) (keep : Bool) :
    HomeOnly { s with staged := updateWhere (fun e => e.tag == tag) Staged.land s.staged } (s.commitStaged tag keep) := by
  have landed := s.landAll_homeOnly tag keep
  unfold HomeOnly at *
  rw [State.commitStaged_eq_landAll, landed]
  rfl

theorem State.commitStaged_committed (s : State) (tag : Nat) (keep : Bool) {e : Staged} (he : e ∈ (s.commitStaged tag keep).staged)
    (ht : e.tag = tag) : e.committed = true := by
  rw [s.commitStaged_homeOnly tag keep] at he
  obtain ⟨x, -, rfl⟩ := mem_updateWhere he
  split at ht <;> rename_i h
  · rw [if_pos h]
    rfl
  · exact absurd (beq_iff_eq.2 ht) h

theorem State.commitStaged_launches (s : State) (tag : Nat) (keep : Bool) : (s.commitStaged tag keep).launches = s.launches := by
  rw [s.commitStaged_homeOnly tag keep]

theorem State.commitStaged_tags (s : State) (tag : Nat) (keep : Bool) : (s.commitStaged tag keep).tags = s.tags := by
  rw [s.commitStaged_homeOnly tag keep]

/-- A line's bytes go into their line alone. -/
theorem State.putLine_byteAt_of_ne (s : State) {line : Nat} (data : BitVec 512) (mask : BitVec 64) {a : Nat}
    (ha : a / 64 ≠ line) : (s.putLine line data mask).byteAt a = s.byteAt a := by
  have bytes : ((maskBytes mask).foldl (fun s i => s.putByte (64 * line + i) (lineByte data i)) s).byteAt a = s.byteAt a := by
    refine List.foldlRecOn (motive := fun u : State => u.byteAt a = s.byteAt a) _ _ rfl (fun u hu i hi => ?_)
    have hlt : i < 64 := List.mem_range.1 (List.mem_filter.1 hi).1
    rw [State.putByte_byteAt, if_neg (by omega), hu]
  unfold State.putLine
  simp only []
  split <;> exact bytes

/-- The bytes of a launch with one staged entry are its entry's, where the entry has them. -/
theorem State.commitStaged_byteAt {s : State} {tag : Nat} {e : Staged} (keep : Bool)
    (hs : s.staged.filter (fun e => e.tag == tag && !e.committed) = [e]) (hleaf : e.leaf = none) (a : Nat) :
    (s.commitStaged tag keep).byteAt a =
      if a / 64 = e.line ∧ e.mask.getLsbD (a % 64) = true then lineByte e.data (a % 64) else s.byteAt a := by
  have hput : (s.commitStaged tag keep).byteAt a = ((s.l1Drop e.line noCopy).putLine e.line e.data e.mask).byteAt a := by
    rw [State.commitStaged_eq_landAll, State.landAll, hs]
    show (s.landEntry keep e).byteAt a = _
    unfold State.landEntry
    simp only [hleaf]
    split <;> rfl
  rw [hput]
  by_cases hline : a / 64 = e.line
  · simp only [← hline, true_and]
    exact State.putLine_byteAt ..
  · rw [State.putLine_byteAt_of_ne _ _ _ hline, if_neg (fun h => hline h.1)]
    rfl

section Point

variable (s : State)

theorem State.commitPoint_tag (l : Launch) : (s.commitPoint l).tag l.tag = { s.tag l.tag with st := .committed } := by
  unfold State.commitPoint
  generalize s.commitStaged l.tag false = u
  exact u.tag_setTag_self l.tag { s.tag l.tag with st := .committed }

theorem State.commitPoint_launch? {l m : Launch} (hm : s.launch? l.tag = some m) :
    (s.commitPoint l).launch? l.tag = some { m with claims := [], runs := [] } := by
  have hu : (s.commitStaged l.tag false).launch? l.tag = some m := by rw [State.launch?, State.commitStaged_launches, ← hm]; rfl
  unfold State.commitPoint
  generalize s.commitStaged l.tag false = u at hu
  refine (State.launch?_updLaunch _ _ ?_).trans (congrArg (Option.map _) hu)
  exact fun _ => rfl

theorem State.commitPoint_byteAt (l : Launch) (a : Nat) : (s.commitPoint l).byteAt a = (s.commitStaged l.tag false).byteAt a := by
  unfold State.commitPoint
  generalize s.commitStaged l.tag false = u
  rfl

theorem State.promote_tag (tag : Nat) : (s.promote tag).tag tag = { s.tag tag with st := .irrev } := by
  have hu : (s.commitStaged tag true).tag tag = s.tag tag := by rw [State.tag, State.commitStaged_tags]; rfl
  unfold State.promote
  generalize s.commitStaged tag true = u at hu
  rw [← hu]
  exact u.tag_setTag_self tag { u.tag tag with st := .irrev }

theorem State.promote_launch? {tag : Nat} {m : Launch} (hm : s.launch? tag = some m) :
    (s.promote tag).launch? tag = some { m with irrev := true, promoting := false } := by
  have hu : (s.commitStaged tag true).launch? tag = some m := by rw [State.launch?, State.commitStaged_launches, ← hm]; rfl
  unfold State.promote
  generalize s.commitStaged tag true = u at hu
  refine (State.launch?_updLaunch _ _ ?_).trans (congrArg (Option.map _) hu)
  exact fun _ => rfl

end Point

/-! ## PENDING_ACK (R300, R303) -/

/-- A staged entry that is marked PENDING. -/
def Staged.mark (e : Staged) : Staged := { e with pending := true }

/-- The entries that a die marks PENDING: those of the tag at home there. -/
def Staged.isOf (tag die : Nat) (e : Staged) : Bool := e.tag == tag && !e.committed && homeDie (64 * e.line) == die

/-- The part when a die has marked a tag's entries and acknowledged. -/
def State.markPending (s : State) (tag die : Nat) : State :=
  ({ s with staged := updateWhere (Staged.isOf tag die) Staged.mark s.staged }.l1DropStaged tag die).ack tag die

theorem State.l1DropStaged_eq (s : State) (tag die : Nat) :
    s.l1DropStaged tag die = { s with l1 := (s.l1DropStaged tag die).l1 } := by
  unfold State.l1DropStaged
  refine List.foldlRecOn (motive := fun u : State => u = { s with l1 := u.l1 }) _ _ rfl (fun u hu n _ => ?_)
  exact (congrArg (State.l1Drop · n _) hu :)

theorem State.markPending_eq (s : State) (tag die : Nat) : s.markPending tag die = { s with
    staged := updateWhere (Staged.isOf tag die) Staged.mark s.staged
    launches := (s.ack tag die).launches
    l1 := (s.markPending tag die).l1 } := by
  have h := State.l1DropStaged_eq { s with staged := updateWhere (Staged.isOf tag die) Staged.mark s.staged } tag die
  unfold State.markPending
  rw [h]
  rfl

theorem State.markPending_tag (s : State) (tag die u : Nat) : (s.markPending tag die).tag u = s.tag u := by
  rw [State.markPending_eq]
  rfl

theorem State.markPending_byteAt (s : State) (tag die a : Nat) : (s.markPending tag die).byteAt a = s.byteAt a := by
  rw [State.markPending_eq]
  rfl

/-- An entry is marked where it is, or left as it is. -/
theorem State.markPending_uncommitted {s : State} {tag : Nat} (die : Nat) {e : Staged}
    (h : s.staged.filter (fun e => e.tag == tag && !e.committed) = [e]) :
    (s.markPending tag die).staged.filter (fun e => e.tag == tag && !e.committed) =
      [if e.isOf tag die = true then e.mark else e] := by
  have hs : (s.markPending tag die).staged = updateWhere (Staged.isOf tag die) Staged.mark s.staged := by
    rw [State.markPending_eq]
  rw [hs, filter_updateWhere, h]
  · rfl
  · exact fun _ => rfl

section Ack

variable {s : State} {tag : Nat} {l : Launch} (hl : s.launch? tag = some l)
include hl

theorem State.launch?_markPending (die : Nat) :
    (s.markPending tag die).launch? tag = some { l with acks := l.acks ||| (1#4 <<< die) } := by
  rw [State.markPending_eq]
  exact State.launch?_ack hl die

variable {die : Nat} (hst : (s.tag tag).st = .pending ∨ l.promoting = true) (hd : l.acks.getLsbD die = false)
include hst hd

/-- A die's acknowledgement, and with the last one the commit point. -/
theorem exec_pendingAck_of_due : exec (.pendingAck tag die) s = .next (if l.acks ||| (1#4 <<< die) = 15#4 then
    (if l.promoting then (s.markPending tag die).promote tag else (s.markPending tag die).commitPoint l).retryHeld
    else s.markPending tag die) := by
  have hdue : ¬(((s.tag tag).st ≠ .pending ∧ l.promoting = false) ∨ l.acks.getLsbD die = true) := by
    rw [hd]
    rintro (⟨h1, h2⟩ | h)
    · exact hst.elim h1 (fun hp => Bool.false_ne_true (h2.symm.trans hp))
    · cases h
  have hacked := State.allAcked_of_launch? (State.launch?_markPending hl die)
  show execPendingAck tag die s = _
  simp only [execPendingAck, hl, if_neg hdue]
  change (if (s.markPending tag die).allAcked tag = true then _ else Host.Outcome.next (s.markPending tag die)) = _
  rw [hacked]
  by_cases h : l.acks ||| (1#4 <<< die) = 15#4
  · rw [if_pos h, if_pos (beq_iff_eq.2 h)]
    rfl
  · rw [if_neg h, if_neg (fun hb => h (beq_iff_eq.1 hb))]

theorem pendingAck_marks (h : l.acks ||| (1#4 <<< die) ≠ 15#4) : ∃ t, exec (.pendingAck tag die) s = .next t ∧
    t = { s with staged := t.staged, launches := t.launches, l1 := t.l1 } ∧
    t.launch? tag = some { l with acks := l.acks ||| (1#4 <<< die) } ∧
    ∀ e ∈ t.staged, e.tag = tag → e.committed = false → homeDie (64 * e.line) = die → e.pending = true := by
  refine ⟨s.markPending tag die, ?_, ?_, State.launch?_markPending hl die, fun e he htag hc hhome => ?_⟩
  · rw [exec_pendingAck_of_due hl hst hd, if_neg h]
  · conv_lhs => rw [State.markPending_eq]
    rw [State.markPending_eq]
  · rw [State.markPending_eq] at he
    obtain ⟨x, -, rfl⟩ := mem_updateWhere he
    split <;> rename_i hx
    · rfl
    · rw [if_neg hx] at htag hc hhome
      exact absurd (by simp [Staged.isOf, htag, hc, hhome]) hx

variable (h : l.acks ||| (1#4 <<< die) = 15#4)
include h

/-- The last acknowledgement of a launch: its staged bytes are data. -/
theorem pendingAck_commits (hp : l.promoting = false) : ∃ t, exec (.pendingAck tag die) s = .next t ∧
    t.tag tag = { s.tag tag with st := .committed } ∧
    t.launch? tag = some { l with acks := l.acks ||| (1#4 <<< die), claims := [], runs := [] } ∧
    (∀ e ∈ t.staged, e.tag = tag → e.committed = true) ∧
    ∀ e, s.staged.filter (fun x => x.tag == tag && !x.committed) = [e] → e.leaf = none → ∀ a,
      t.byteAt a = if a / 64 = e.line ∧ e.mask.getLsbD (a % 64) = true then lineByte e.data (a % 64) else s.byteAt a := by
  obtain rfl : l.tag = tag := by simpa using List.find?_some hl
  have hx := exec_pendingAck_of_due hl hst hd
  rw [if_pos h, hp] at hx
  refine ⟨_, hx, ?_, ((s.markPending l.tag die).commitPoint_launch? (State.launch?_markPending hl die) :),
    fun e => State.commitStaged_committed (s.markPending l.tag die) l.tag false, fun e he hleaf a => ?_⟩
  · rw [← s.markPending_tag l.tag die]
    exact (s.markPending l.tag die).commitPoint_tag l
  · have hb := State.commitStaged_byteAt (s := s.markPending l.tag die) false (State.markPending_uncommitted die he)
      (by split <;> exact hleaf) a
    rw [State.markPending_byteAt] at hb
    refine ((s.markPending l.tag die).commitPoint_byteAt l a).trans (hb.trans ?_)
    split <;> rfl

/-- The last acknowledgement of a promotion: the launch is irrevocable. -/
theorem pendingAck_promotes (hp : l.promoting = true) : ∃ t, exec (.pendingAck tag die) s = .next t ∧
    t.tag tag = { s.tag tag with st := .irrev } ∧
    t.launch? tag = some { l with acks := 15#4, irrev := true, promoting := false } ∧
    ∀ e ∈ t.staged, e.tag = tag → e.committed = true := by
  have hx := exec_pendingAck_of_due hl hst hd
  rw [if_pos h, hp] at hx
  have hm := (s.markPending tag die).promote_launch? (State.launch?_markPending hl die)
  rw [h] at hm
  refine ⟨_, hx, ?_, hm, fun e => State.commitStaged_committed (s.markPending tag die) tag true⟩
  rw [← s.markPending_tag tag die tag]
  exact (s.markPending tag die).promote_tag tag

end Ack

end Sys2Proof.Machine
end

section
/-! SUPPORT. AbortEnds: what the end of an abort leaves, the launch tried again or reported, and the merging of committed lines (R275,
R285, R301, R303, R306, R307). -/

namespace Sys2Proof.Machine

/-! ## What leaves the launches and the records on their way -/

/-- The taken launches, and the records on their way. -/
structure KeepsLaunches (s t : State) : Prop where
  launches : t.launches = s.launches
  faults   : t.faults = s.faults

namespace KeepsLaunches

theorem refl (s : State) : KeepsLaunches s s := ⟨rfl, rfl⟩

theorem trans {s t u : State} (h : KeepsLaunches s t) (g : KeepsLaunches t u) : KeepsLaunches s u :=
  ⟨g.launches.trans h.launches, g.faults.trans h.faults⟩

theorem foldl {α : Type} {f : State → α → State} (hf : ∀ s x, KeepsLaunches s (f s x)) (l : List α) (s : State) :
    KeepsLaunches s (l.foldl f s) :=
  List.foldlRecOn (motive := KeepsLaunches s) _ _ (refl s) (fun u hu x _ => hu.trans (hf u x))

theorem of_homeOnly {s t : State} (h : HomeOnly s t) : KeepsLaunches s t := by
  rw [h]
  exact ⟨rfl, rfl⟩

theorem writeSide (s : State) (line : Nat) (data : BitVec 512) (mask : BitVec 64) (rel : Option (ThreadId × Nat)) :
    KeepsLaunches s (s.writeSide line data mask rel) := by
  have byte : ∀ (u : State) (i : Nat), KeepsLaunches u (u.putHbm (64 * line + i) (lineByte data i)) := by
    intro u i
    unfold State.putHbm
    split <;> exact ⟨rfl, rfl⟩
  have put : ∀ u : State, KeepsLaunches u (u.putLineHbm line data mask) := by
    intro u
    have bytes := foldl byte (maskBytes mask) u
    unfold State.putLineHbm
    simp only []
    split
    · unfold State.putHbmPois
      split <;> exact bytes.trans ⟨rfl, rfl⟩
    · exact bytes
  have dropped : KeepsLaunches s (s.l1Drop line noCopy) := ⟨rfl, rfl⟩
  exact (dropped.trans (put _)).trans ⟨rfl, rfl⟩

theorem settleXlate (s : State) (x : Xlate) : KeepsLaunches s (s.settleXlate x) := by
  have dirty : KeepsLaunches s (match x.setD with
      | some leaf => s.setDirty leaf
      | none => s) := by
    split
    · exact of_homeOnly (State.writeDirect_homeOnly ..)
    · exact refl s
  unfold State.settleXlate
  simp only []
  split
  · exact dirty.trans ⟨rfl, rfl⟩
  · exact dirty

theorem hwAt {s t : State} {w : Who} {a n : Nat} {kind : AccessKind} {p : Nat × Bool} (h : s.hwAt w true a n kind = .ok t p) :
    KeepsLaunches s t := by
  unfold State.hwAt State.through2 at h
  cases hx : s.translate2 w a n kind with
  | error e => cases e <;> simp [hx, State.stopped] at h
  | ok x =>
    simp only [hx, if_true] at h
    split at h
    · cases h
    · cases h
      exact settleXlate s x

/-- A write by the hardware through stage 2. -/
theorem hwPut {s t : State} {w : Who} {a : Nat} {bs : List Byte} (h : s.hwPut w true a bs = .ok t ()) : KeepsLaunches s t := by
  unfold State.hwPut at h
  split at h
  · cases h
  · cases h
  · rename_i u p hu
    split at h <;> cases h
    · refine (hwAt hu).trans (foldl ?_ _ u)
      exact fun _ _ => writeSide ..
    · exact (hwAt hu).trans (of_homeOnly (u.hwWrite_homeOnly p.1 bs))

theorem queueHead (s : State) (die slice q : Nat) (head : BitVec 32) : KeepsLaunches s (s.queueHead die slice q head) := by
  unfold State.queueHead Hw.orElse
  split
  · rename_i h
    exact hwPut h
  · exact refl s

theorem advanceHead (s : State) (die k : Nat) : KeepsLaunches s (s.advanceHead die k) := by
  unfold State.advanceHead
  simp only []
  split
  · exact refl s
  · split
    · exact trans (t := s.updSlot die k _) ⟨rfl, rfl⟩ (queueHead ..)
    · exact ⟨rfl, rfl⟩

theorem releaseLatches (s : State) (slice : Nat) (args : Word) : KeepsLaunches s (s.releaseLatches slice args) := by
  unfold State.releaseLatches State.dropLatches
  refine trans ?_ (foldl ?_ _ _)
  · exact ⟨rfl, rfl⟩
  · exact fun _ _ => ⟨rfl, rfl⟩

theorem disown (s : State) (tag : Nat) : KeepsLaunches s (s.disown tag) := by
  refine foldl ?_ _ s
  exact fun _ _ => ⟨rfl, rfl⟩

theorem freeTag (s : State) (tag : Nat) : KeepsLaunches s (s.freeTag tag) := by
  unfold State.freeTag
  split <;> exact ⟨rfl, rfl⟩

theorem mergeEntry (s : State) (e : Staged) : KeepsLaunches s (s.mergeEntry e) := by
  unfold State.mergeEntry
  refine trans (trans (trans ?_ (of_homeOnly (State.touch_homeOnly ..))) (of_homeOnly (State.settleLine_homeOnly ..))) (freeTag _ _)
  exact ⟨rfl, rfl⟩

end KeepsLaunches

/-! ## A launch leaves (R285) -/

theorem State.retire_keepsLaunches (s : State) (l : Launch) :
    KeepsLaunches { s with launches := s.launches.filter (fun x => x.tag != l.tag) } (s.retire l) := by
  unfold State.retire
  refine ((KeepsLaunches.trans ?_ (.advanceHead ..)).trans (.releaseLatches ..)).trans (.disown ..)
  exact ⟨rfl, rfl⟩

theorem State.retire_launch? (s : State) (l : Launch) : (s.retire l).launch? l.tag = none := by
  rw [State.launch?, (s.retire_keepsLaunches l).launches]
  refine List.find?_eq_none.2 (fun x hx => ?_)
  simpa using (List.mem_filter.1 hx).2

/-! ## The end of an abort (R285, R287, R301, R306, R307) -/

/-- What is left of an aborted attempt but its launch: no release record of its bytes, no request of its that waits, and no wait for
the room that it gives up. -/
def State.clearAttempt (s : State) (l : Launch) : State :=
  ({ s.dropReleases l.tag with
    waiting := s.waiting.filter (fun w => (w.req.tag.map (fun (t : Nat × BitVec 4) => t.1)) != some l.tag) } : State).freeWaits l.slice

/-- A sealed launch after a cause that lets it be tried again, with attempts left. -/
def State.triesAgain (s : State) (l : Launch) : Bool :=
  !l.irrev && !l.opened && retried l.cause.toNat && decide (l.attempt < s.sliceRetry l.die l.slice)

/-- A launch as its next attempt begins. -/
def Launch.again (l : Launch) : Launch :=
  { l with attempt := l.attempt + 1, started := 0#4, claims := [], runs := [], acks := 0#4, cause := 0#16, other := 0#16,
           user := 0#13 }

/-- The part when a launch that is not tried again has been reported and has left its slot. -/
def State.reportRetire (s : State) (l : Launch) : State := ((s.clearAttempt l).reportAbort l).retire l

theorem PostsRecord.faults_lt {s t : State} {r : FaultRec} (h : PostsRecord s t r) : s.faults.length < t.faults.length := by
  obtain ⟨n, rs, rfl, x, hx, -⟩ := h
  have hpos := List.length_pos_of_mem hx
  show s.faults.length < (s.faults ++ rs).length
  rw [List.length_append]
  omega

theorem State.reportSlice_faults (s : State) (die slice code : Nat) (faddr fprog : Option Word) (vtag : BitVec 16) :
    s.faults.length < (s.reportSlice die slice code faddr fprog vtag).faults.length := by
  have hfree : FreeOnly s ((s.drawWord.1.orFree faddr).1.orFree fprog).1 := .orFree (.orFree (.orFree (.refl s) none) _) _
  have hfaults : ((s.drawWord.1.orFree faddr).1.orFree fprog).1.faults = s.faults := by rw [hfree]
  rw [← hfaults]
  exact (State.postSlice_postsRecord ..).faults_lt

section End

variable (s : State) (l : Launch)

theorem State.endAbort_eq : s.endAbort l =
    if s.triesAgain l then
      ((s.clearAttempt l).setTag l.tag { st := .running, gen := (s.tag l.tag).gen + 1#4 }).updLaunch l.tag Launch.again
    else (((s.reportRetire l).staged.filter (fun e => e.tag == l.tag)).foldl State.mergeEntry (s.reportRetire l)).setTag l.tag
      { st := .free, gen := (s.tag l.tag).gen + 1#4 } := rfl

theorem State.clearAttempt_launch? (tag : Nat) : (s.clearAttempt l).launch? tag = s.launch? tag := rfl

variable {l}

theorem State.endAbort_retries {m : Launch} (hm : s.launch? l.tag = some m) (h : s.triesAgain l = true) :
    (s.endAbort l).mem = s.mem ∧ (s.endAbort l).tag l.tag = { st := .running, gen := (s.tag l.tag).gen + 1#4 } ∧
      (s.endAbort l).launch? l.tag = some m.again := by
  have hmem : (s.clearAttempt l).mem = s.mem := rfl
  rw [← s.clearAttempt_launch? l] at hm
  rw [State.endAbort_eq, if_pos h]
  generalize s.clearAttempt l = u at hm hmem
  refine ⟨hmem, u.tag_setTag_self l.tag { st := .running, gen := (s.tag l.tag).gen + 1#4 }, ?_⟩
  rw [State.launch?_updLaunch _ _ (fun l => by rfl)]
  exact congrArg (Option.map Launch.again) hm

/-- The report of a final abort is on its way. -/
theorem State.reportAbort_faults : s.faults.length < (s.reportAbort l).faults.length :=
  State.reportSlice_faults ..

theorem State.endAbort_reports (h : s.triesAgain l = false) :
    (s.endAbort l).tag l.tag = { st := .free, gen := (s.tag l.tag).gen + 1#4 } ∧ (s.endAbort l).launch? l.tag = none ∧
      s.faults.length < (s.endAbort l).faults.length := by
  have hreport := (s.clearAttempt l).reportAbort_faults (l := l)
  have hretire := ((s.clearAttempt l).reportAbort l).retire_keepsLaunches l
  have hgone : (s.reportRetire l).launch? l.tag = none := State.retire_launch? ..
  have hmerge := KeepsLaunches.foldl KeepsLaunches.mergeEntry ((s.reportRetire l).staged.filter (fun e => e.tag == l.tag))
    (s.reportRetire l)
  have hfaults : (s.reportRetire l).faults = ((s.clearAttempt l).reportAbort l).faults := hretire.faults
  rw [State.endAbort_eq, if_neg (by rw [h]; decide)]
  generalize ((s.reportRetire l).staged.filter (fun e => e.tag == l.tag)).foldl State.mergeEntry (s.reportRetire l) = u at hmerge
  refine ⟨u.tag_setTag_self l.tag { st := .free, gen := (s.tag l.tag).gen + 1#4 }, ?_, ?_⟩
  · show u.launch? l.tag = none
    rw [State.launch?, hmerge.launches]
    exact hgone
  · show s.faults.length < u.faults.length
    rw [hmerge.faults, hfaults]
    exact hreport

end End

section Discard

variable {s : State} {tag : Nat} {l : Launch} (hl : s.launch? tag = some l)

/-- The part when a die has discarded a tag's entries and acknowledged. -/
def State.discards (s : State) (tag die : Nat) : State :=
  { s with
    staged := s.staged.filter (fun e => !(e.isOf tag die))
    l1 := s.l1.filter (fun e => e.tag != some tag || quadDie e.quad != die) }.ack tag die

include hl

theorem State.launch?_discards (die : Nat) :
    (s.discards tag die).launch? tag = some { l with acks := l.acks ||| (1#4 <<< die) } :=
  State.launch?_ack (s := { s with
    staged := s.staged.filter (fun e => !(e.isOf tag die))
    l1 := s.l1.filter (fun e => e.tag != some tag || quadDie e.quad != die) }) hl die

variable {die : Nat} (ha : s.aborting l = true) (hd : l.acks.getLsbD die = false)
include ha hd

/-- A die's acknowledgement, and with the last one the end of the abort. -/
theorem exec_discardAck_of_due : exec (.discardAck tag die) s = .next (if l.acks ||| (1#4 <<< die) = 15#4 then
    (s.discards tag die).endAbort l else s.discards tag die) := by
  have hacked := State.allAcked_of_launch? (State.launch?_discards hl die)
  show execDiscardAck tag die s = _
  simp only [execDiscardAck, hl, ha, hd, Bool.true_eq_false, Bool.false_eq_true, or_self, if_false]
  change (if (s.discards tag die).allAcked tag = true then _ else Host.Outcome.next (s.discards tag die)) = _
  rw [hacked]
  by_cases h : l.acks ||| (1#4 <<< die) = 15#4
  · rw [if_pos h, if_pos (beq_iff_eq.2 h)]
    rfl
  · rw [if_neg h, if_neg (fun hb => h (beq_iff_eq.1 hb))]

theorem discardAck_discards (h : l.acks ||| (1#4 <<< die) ≠ 15#4) : ∃ t, exec (.discardAck tag die) s = .next t ∧ t.mem = s.mem ∧
    t.launch? tag = some { l with acks := l.acks ||| (1#4 <<< die) } ∧
    (∀ e ∈ t.staged, e.tag = tag → homeDie (64 * e.line) = die → e.committed = true) ∧
    ∀ e ∈ s.staged, e.tag ≠ tag → e ∈ t.staged := by
  refine ⟨s.discards tag die, ?_, rfl, State.launch?_discards hl die, fun e he htag hhome => ?_, fun e he htag => ?_⟩
  · rw [exec_discardAck_of_due hl ha hd, if_neg h]
  · simpa [Staged.isOf, htag, hhome] using (List.mem_filter.1 he).2
  · exact List.mem_filter.2 ⟨he, by simp [Staged.isOf, htag]⟩

variable (h : l.acks ||| (1#4 <<< die) = 15#4)
include h

theorem discardAck_retries (ht : s.triesAgain l = true) : ∃ t m, exec (.discardAck tag die) s = .next t ∧ t.mem = s.mem ∧
    t.tag tag = { st := .running, gen := (s.tag tag).gen + 1#4 } ∧ t.launch? tag = some m ∧
    m.attempt = l.attempt + 1 ∧ m.cause = 0#16 ∧ m.ready = l.ready ∧ m.claims = [] ∧ m.age = l.age := by
  obtain rfl : l.tag = tag := by simpa using List.find?_some hl
  have hx := exec_discardAck_of_due hl ha hd
  rw [if_pos h] at hx
  obtain ⟨hmem, htag, hm⟩ := (s.discards l.tag die).endAbort_retries (State.launch?_discards hl die) ht
  exact ⟨_, _, hx, hmem, htag, hm, rfl, rfl, rfl, rfl, rfl⟩

theorem discardAck_reports (ht : s.triesAgain l = false) : ∃ t, exec (.discardAck tag die) s = .next t ∧
    t.tag tag = { st := .free, gen := (s.tag tag).gen + 1#4 } ∧ t.launch? tag = none ∧ s.faults.length < t.faults.length := by
  obtain rfl : l.tag = tag := by simpa using List.find?_some hl
  have hx := exec_discardAck_of_due hl ha hd
  rw [if_pos h] at hx
  exact ⟨_, hx, (s.discards l.tag die).endAbort_reports ht⟩

end Discard

/-! ## STAGED_MERGE (R275, R303) -/

theorem State.freeTag_only (s : State) (tag : Nat) : s.freeTag tag = { s with tags := (s.freeTag tag).tags } := by
  unfold State.freeTag
  split <;> rfl

/-- The part when a committed entry has left the cocoon, and has not entered the cache ways. -/
def State.unstage (s : State) (e : Staged) : State :=
  { s with staged := s.staged.filter (fun x => !(x.line == e.line && x.tag == e.tag && x.committed)) }

/-- What homes keep of lines differs, and tags. -/
theorem State.mergeEntry_eq (s : State) (e : Staged) :
    ∃ u, HomeOnly (s.unstage e) u ∧ s.mergeEntry e = { u with tags := (s.mergeEntry e).tags } ∧
      ∀ a, a / 64 = e.line → u.byteAt a = s.byteAt a := by
  refine ⟨((s.unstage e).touch e.line e.evict true).settleLine e.line,
    (State.touch_homeOnly ..).trans (State.settleLine_homeOnly ..), State.freeTag_only _ _, fun a ha => ?_⟩
  rw [← ha]
  exact (congrArg (Memory.get · a) (State.settleLine_mem _ _)).trans (State.touch_byteAt _ _ _ _)

/-- A committed line leaves the cocoon, with its bytes as they were. -/
theorem stagedMerge_merges {s : State} {tag : Nat} {e : Staged} (he : s.staged.find? (fun e => e.tag == tag && e.committed) = some e)
    (hw : s.tagWanted tag = true ∨ s.staged.any (fun e => e.committed && s.tagWanted e.tag) = false) :
    ∃ t, exec (.stagedMerge tag) s = .next t ∧ t.coaches = s.coaches ∧ t.staged.length < s.staged.length ∧
      (∀ x ∈ t.staged, x.line = e.line → x.tag = tag → x.committed = false) ∧ ∀ a, a / 64 = e.line → t.byteAt a = s.byteAt a := by
  have hnow : ¬(s.tagWanted tag = false ∧ s.staged.any (fun e => e.committed && s.tagWanted e.tag) = true) := by
    rintro ⟨h1, h2⟩
    exact hw.elim (fun h => Bool.false_ne_true (h1.symm.trans h)) (fun h => Bool.false_ne_true (h.symm.trans h2))
  have hx : exec (.stagedMerge tag) s = .next (s.mergeEntry e) := by
    show execStagedMerge tag s = _
    simp only [execStagedMerge, if_neg hnow, he]
  have hmem := List.mem_of_find?_eq_some he
  have hsome := List.find?_some he
  simp only [Bool.and_eq_true, beq_iff_eq] at hsome
  obtain ⟨htag, hc⟩ := hsome
  obtain ⟨u, hu, ht, hbyte⟩ := s.mergeEntry_eq e
  have hstaged : (s.mergeEntry e).staged = (s.unstage e).staged := by rw [ht, hu]
  refine ⟨_, hx, ?_, ?_, fun x hin hline hxt => ?_, fun a ha => ?_⟩
  · rw [ht, hu]
    rfl
  · rw [hstaged]
    exact List.length_filter_lt_length_iff_exists.2 ⟨e, hmem, by simp [hc]⟩
  · rw [hstaged] at hin
    simpa [hline, hxt, htag] using (List.mem_filter.1 hin).2
  · rw [ht]
    exact hbyte a ha

end Sys2Proof.Machine

namespace Sys2Proof

open Machine

/-- Settles O44, part by part: staging, requests that wait and cycles of them; then PENDING, acknowledgements of the commit, of a
promotion and of an abort, and merging. -/
theorem commits : Obligations.Commits := by
  refine ⟨⟨fun s id r l tg hr hs ho ht hl hi hp hrel hap hfree hc hroom =>
      stageRequest_stages hr hs ho ht hl hi hp hrel hap hfree hc hroom,
    fun s id w hw => ⟨exec_conflictWaitApply_of_waits hw, conflictWaitApply_goes hw⟩,
    fun s tag => ⟨exec_waitCycleCheck_of_none, waitCycleCheck_aborts⟩⟩,
    fun s tag l hl => ⟨exec_commitPending_of_not hl, commitPending_pends hl,
      fun die hst hd => ⟨pendingAck_marks hl (.inl hst) hd, pendingAck_commits hl (.inl hst) hd⟩,
      fun die hp hd h => pendingAck_promotes hl (.inr hp) hd h hp,
      fun die ha hd => ⟨discardAck_discards hl ha hd, fun h hi ho hr hn => discardAck_retries hl ha hd h ?_,
        fun h hn => discardAck_reports hl ha hd h ?_⟩⟩,
    fun s tag e he hw => stagedMerge_merges he hw⟩
  · simp [State.triesAgain, hi, ho, hr, hn]
  · rw [State.triesAgain]
    rcases hn with h | h | h | h <;> simp [h]

end Sys2Proof
end

section
/-! SUPPORT. RemoteRequests: requests of other parts, and the replies, resends and losses of the part's own (R291, R425 to R430). -/

namespace Sys2Proof.Machine

/-! ## Arrival (R409, R413) -/

/-- A flit of the node's own is served where it has been accepted. -/
theorem State.Receives.bestEffort {s u : State} {p : Nat} {fl : Flit} (h : s.Receives p fl u)
    (here : State → Host.Outcome State Fault Refusal) : Machine.bestEffort p fl s here = here u := by
  obtain ⟨hp, -, rfl⟩ | ⟨hp, hup, hseq, rfl, hdst⟩ := h
  · exact if_pos hp
  · rw [Machine.bestEffort, if_neg (by omega), sequenced, if_neg (not_not.2 hup), if_neg (not_not.2 hseq), if_pos hdst]

theorem State.Receives.asked {s u : State} {p : Nat} {fl : Flit} (h : s.Receives p fl u)
    (serve : Nat → State → Host.Outcome State Fault Refusal) : Machine.asked p fl s serve = serve p u := by
  have hport : p / 16 % 2 ≠ 1 := by
    obtain ⟨-, hp, -⟩ | ⟨hp, -⟩ := h
    · omega
    · omega
  rw [Machine.asked, if_neg hport, h.bestEffort]

/-! ## The checks of a request (R427, R436) -/

/-- Who asks, behind a grant. -/
def Grant.who (g : Grant) (die : Nat) : Who :=
  { die := die, cluster := 32 + die, slice := g.slice, domain := g.domain, plain := false }

/-- Of lines that all lie in HBM, those on pages with bytes that are PENDING. -/
theorem any_pending_of_hbm {xs : List (Nat × Xlate)} (hbm : ∀ x ∈ xs, apertureOf x.2.dpa = .hbm) (v : State) :
    xs.any (fun x => apertureOf x.2.dpa == .hbm && !x.2.memSide && v.pendingLine none (x.2.dpa / 64)) =
      xs.any (fun x => !x.2.memSide && v.pendingLine none (x.2.dpa / 64)) := by
  refine Bool.eq_iff_iff.2 ?_
  simp only [List.any_eq_true]
  refine exists_congr (fun x => and_congr_right (fun hx => ?_))
  rw [hbm x hx, beq_self_eq_true, Bool.true_and]

section Grant

variable {u : State} {p : Nat} {fl : Flit} {kind : AccessKind} {n : Nat} {is : List Nat}
  (go : State → Grant → List (Nat × Xlate) → Host.Outcome State Fault Refusal)

theorem withGrant_of_refused {st : Nat} {i : Option Nat} (h : u.grantOf (portDie p) fl kind = .error (st, i)) :
    withGrant u p fl kind n is go = .next (((i.map u.countDrop).getD u).nackAsk p fl st) := by
  simp only [withGrant, h]

variable {g : Grant} (h : u.grantOf (portDie p) fl kind = .ok g)
include h

theorem withGrant_of_fault (hx : u.linesThrough (g.who (portDie p)) g.spa n kind is = .fault) :
    withGrant u p fl kind n is go = .next (u.nackAsk p fl 5) := by
  rw [Grant.who] at hx
  simp only [withGrant, h, hx]

theorem withGrant_of_page {v : State} (hx : u.linesThrough (g.who (portDie p)) g.spa n kind is = .page v) :
    withGrant u p fl kind n is go = .next (v.holdAsk p fl) := by
  rw [Grant.who] at hx
  simp only [withGrant, h, hx]

variable {v : State} {xs : List (Nat × Xlate)} (hx : u.linesThrough (g.who (portDie p)) g.spa n kind is = .ok v xs)
  (hbm : ∀ x ∈ xs, apertureOf x.2.dpa = .hbm)
include hx hbm

theorem withGrant_of_pending (hk : kind ≠ .write)
    (hp : xs.any (fun x => !x.2.memSide && v.pendingLine none (x.2.dpa / 64)) = true) :
    withGrant u p fl kind n is go = .next (v.holdAsk p fl) := by
  rw [Grant.who] at hx
  rw [← any_pending_of_hbm hbm] at hp
  simp only [withGrant, h, hx]
  exact if_pos ⟨hk, hp⟩

theorem withGrant_of_hbm
    (hp : kind = .write ∨ xs.any (fun x => !x.2.memSide && v.pendingLine none (x.2.dpa / 64)) = false) :
    withGrant u p fl kind n is go = go v g xs := by
  have hmmio : ¬xs.any (fun x => apertureOf x.2.dpa == .mmio) = true := by
    rw [List.any_eq_true]
    rintro ⟨x, hin, hm⟩
    rw [hbm x hin] at hm
    cases hm
  rw [Grant.who] at hx
  rw [← any_pending_of_hbm hbm] at hp
  simp only [withGrant, h, hx]
  rw [if_neg (fun hn => hp.elim hn.1 (fun hp => Bool.false_ne_true (hp.symm.trans hn.2))), if_neg hmmio]

end Grant

/-! ## READ, WRITE and WRITEP (R291, R427, R436) -/

/-- A request whose lines all lie in HBM, with nothing of it out, is answered. -/
theorem State.settleAsk_of_hbm {v : State} {p : Nat} {orig fl : Flit} {xs : List (Nat × Xlate)}
    (send : State → Nat × Xlate → Option State) (hbm : ∀ x ∈ xs, apertureOf x.2.dpa = .hbm) (ho : v.askOut p fl = false) :
    v.settleAsk p orig fl xs send = v.finishAsk p fl := by
  have hnone : xs.filter (fun x => apertureOf x.2.dpa != .hbm) = [] :=
    List.filter_eq_nil_iff.2 (fun x hx => by simp [hbm x hx])
  simp only [State.settleAsk, hnone, State.partsOut, ho, Bool.false_eq_true, if_false]

theorem filter_hbm {xs : List (Nat × Xlate)} (hbm : ∀ x ∈ xs, apertureOf x.2.dpa = .hbm) :
    xs.filter (fun x => apertureOf x.2.dpa == .hbm) = xs :=
  List.filter_eq_self.2 (fun x hx => beq_iff_eq.2 (hbm x hx))

/-- An access of another part, by its flit: its kind, the lines that it asks for, and how it is served. -/
inductive AsksLines (p : Nat) (fl : Flit) : Instr → AccessKind → List Nat → Prop where
  | read : AsksLines p fl (.readFlit p fl) .read (askLines fl)
  | write : AsksLines p fl (.writeFlit p fl) .write (askLines fl)
  | writep : AsksLines p fl (.writepFlit p fl) .write [0]

section Ask

variable {s u : State} {p : Nat} {fl : Flit}

/-- A write of lines of HBM, of whole lines or of the masked bytes of one. -/
theorem exec_serveWrite_of_hbm {i : Instr} {is : List Nat} {mask : BitVec 64} {g : Grant} {v : State}
    {xs : List (Nat × Xlate)} (hi : exec i s = serveWrite fl is mask p u) (hg : u.grantOf (portDie p) fl .write = .ok g)
    (hx : u.linesThrough (g.who (portDie p)) g.spa 64 .write is = .ok v xs)
    (hbm : ∀ x ∈ xs, apertureOf x.2.dpa = .hbm) (ho : (xs.foldl (writePart fl mask) v).askOut p (begunFlit fl) = false) :
    exec i s = .next (((xs.foldl (writePart fl mask) v).finishAsk p (begunFlit fl)).watchAsk g.slice fl .write
      (xs.map (fun x => (x.2.dpa / 64, mask)))) := by
  refine hi.trans ((withGrant_of_hbm _ hg hx hbm (.inl rfl)).trans ?_)
  simp only [State.settleAsk_of_hbm _ hbm ho, filter_hbm hbm]

variable (hr : s.Receives p fl u)
include hr

/-- A request for lines is served behind its grant. -/
theorem AsksLines.exec_eq {i : Instr} {kind : AccessKind} {is : List Nat} (hi : AsksLines p fl i kind is) :
    ∃ go, exec i s = withGrant u p fl kind 64 is go := by
  cases hi
  · exact ⟨_, hr.asked (serveRead fl)⟩
  · exact ⟨_, hr.asked (serveWrite fl (askLines fl) (-1#64))⟩
  · exact ⟨_, hr.asked (serveWrite fl [0] (askMask fl))⟩

/-- What a request that does not pass comes to. -/
theorem AsksLines.refused {i : Instr} {kind : AccessKind} {is : List Nat} (hi : AsksLines p fl i kind is) :
    (∀ st, u.grantOf (portDie p) fl kind = .error (st, none) → exec i s = .next (u.nackAsk p fl st)) ∧
      (∀ st j, u.grantOf (portDie p) fl kind = .error (st, some j) → exec i s = .next ((u.countDrop j).nackAsk p fl st)) ∧
      ∀ g, u.grantOf (portDie p) fl kind = .ok g →
        (u.linesThrough (g.who (portDie p)) g.spa 64 kind is = .fault → exec i s = .next (u.nackAsk p fl 5)) ∧
        ∀ v, u.linesThrough (g.who (portDie p)) g.spa 64 kind is = .page v → exec i s = .next (v.holdAsk p fl) := by
  obtain ⟨go, he⟩ := hi.exec_eq hr
  rw [he]
  refine ⟨fun st h => ?_, fun st j h => ?_, fun g hg => ⟨withGrant_of_fault go hg, fun v => withGrant_of_page go hg⟩⟩
  · rw [withGrant_of_refused go h, Option.map_none, Option.getD_none]
  · rw [withGrant_of_refused go h, Option.map_some, Option.getD_some]

section Read

variable {g : Grant} {v : State} {xs : List (Nat × Xlate)} (hg : u.grantOf (portDie p) fl .read = .ok g)
  (hx : u.linesThrough (g.who (portDie p)) g.spa 64 .read (askLines fl) = .ok v xs)
  (hbm : ∀ x ∈ xs, apertureOf x.2.dpa = .hbm)
include hg hx hbm

theorem exec_readFlit_of_pending (hp : xs.any (fun x => !x.2.memSide && v.pendingLine none (x.2.dpa / 64)) = true) :
    exec (.readFlit p fl) s = .next (v.holdAsk p fl) :=
  (hr.asked (serveRead fl)).trans (withGrant_of_pending _ hg hx hbm (by decide) hp)

theorem exec_readFlit_of_hbm (hp : xs.any (fun x => !x.2.memSide && v.pendingLine none (x.2.dpa / 64)) = false)
    (ho : (xs.foldl readPart (v, begunFlit fl)).1.askOut p (xs.foldl readPart (v, begunFlit fl)).2 = false) :
    exec (.readFlit p fl) s = .next
      (((xs.foldl readPart (v, begunFlit fl)).1.finishAsk p (xs.foldl readPart (v, begunFlit fl)).2).watchAsk g.slice fl .read
        (xs.map (fun x => (x.2.dpa / 64, -1#64)))) := by
  refine (hr.asked (serveRead fl)).trans ((withGrant_of_hbm _ hg hx hbm (.inr hp)).trans ?_)
  simp only [State.settleAsk_of_hbm _ hbm ho, filter_hbm hbm]

end Read

end Ask

/-! ### The bytes that a write leaves (R291) -/

theorem State.consumed_mem (s : State) (p : Nat) (fl : Flit) : (s.consumed p fl).mem = s.mem := by
  unfold State.consumed
  split <;> rfl

theorem State.finishAsk_mem (s : State) (p : Nat) (fl : Flit) : (s.finishAsk p fl).mem = s.mem := by
  unfold State.finishAsk
  rw [State.consumed_mem]
  split
  · exact (AbortLeaves.sendFlit ..).mem
  · exact (AbortLeaves.sendFlit ..).mem
  · exact (AbortLeaves.sendFlit ..).mem

theorem State.watchAsk_mem (s : State) (slice : Nat) (fl : Flit) (kind : AccessKind) (touched : List (Nat × BitVec 64)) :
    (s.watchAsk slice fl kind touched).mem = s.mem := by
  unfold State.watchAsk
  simp only []
  split
  · rfl
  · split
    · rfl
    · obtain ⟨n, m, x, h, -⟩ := State.postUnit_eq s codeWatchRemote false (some 0#24) (some 0#64) _ _ 0#16 _ _ _
      rw [h]

/-- One line of HBM that a write of another part touches, past the answer to it. -/
theorem State.writePart_byteAt (v : State) (fl : Flit) (mask : BitVec 64) (n : Nat) {x : Xlate} (hbm : apertureOf x.dpa = .hbm)
    (hm : x.memSide = false) {a : Nat} (ha : a / 64 = x.dpa / 64) :
    (writePart fl mask v (n, x)).byteAt a =
      if mask.getLsbD (a % 64) then lineByte (askData fl n) (a % 64) else v.byteAt a := by
  simp only [writePart, hbm, hm, ne_eq, not_true_eq_false, if_false, Bool.false_eq_true, ← ha]
  exact State.writeDirect_byteAt ..

/-! ## ATOMIC (R427, R429) -/

section Atomic

variable {s u : State} {p : Nat} {fl : Flit} (hr : s.Receives p fl u)
include hr

theorem exec_atomicFlit_of_answered {e : DupEntry}
    (h : (u.dupsOf fl.src.toNat).find? (fun e => e.tag == askTag fl) = some e) :
    exec (.atomicFlit p fl) s = .next ((u.sendFlit (portDie p) e.reply).consumed p fl) := by
  refine (hr.asked (serveAtom fl)).trans ?_
  simp only [serveAtom, h]

variable (hn : (u.dupsOf fl.src.toNat).find? (fun e => e.tag == askTag fl) = none)
include hn

theorem exec_atomicFlit_of_epoch (h : flitField fl 18 2 ≠ u.epoch.toNat) :
    exec (.atomicFlit p fl) s = .next (u.nackAsk p fl 6) := by
  refine (hr.asked (serveAtom fl)).trans ?_
  simp only [serveAtom, hn, if_pos h]

variable (he : flitField fl 18 2 = u.epoch.toNat)
include he

theorem exec_atomicFlit_of_inside (h : u.atomInside fl = true) : exec (.atomicFlit p fl) s = .next (u.consumed p fl) := by
  refine (hr.asked (serveAtom fl)).trans ?_
  simp only [serveAtom, hn, he, h, ne_eq, not_true_eq_false, if_false, if_true]

variable (hi : u.atomInside fl = false)
include hi

theorem exec_atomicFlit_of_unknown (h : askAtom fl = none) : exec (.atomicFlit p fl) s = .next (u.nackAsk p fl 8) := by
  refine (hr.asked (serveAtom fl)).trans ?_
  simp only [serveAtom, hn, he, hi, h, ne_eq, not_true_eq_false, Bool.false_eq_true, if_false]

variable {a : HomeAtom} (ha : askAtom fl = some a)
include ha

theorem exec_atomicFlit_of_full (h : 1024 ≤ (u.dupsOf fl.src.toNat).length) :
    exec (.atomicFlit p fl) s = .next (u.nackAsk p fl 7) := by
  refine (hr.asked (serveAtom fl)).trans ?_
  simp only [serveAtom, hn, he, hi, ha, h, ne_eq, not_true_eq_false, Bool.false_eq_true, if_false, if_true]

theorem exec_atomicFlit_of_hbm (h : (u.dupsOf fl.src.toNat).length < 1024) {g : Grant} {v : State} {n : Nat} {x : Xlate}
    (hg : u.grantOf (portDie p) fl .atomic = .ok g)
    (hx : u.linesThrough (g.who (portDie p)) g.spa a.bytes .atomic [0] = .ok v [(n, x)]) (hbm : apertureOf x.dpa = .hbm)
    (hp : [(n, x)].any (fun x => !x.2.memSide && v.pendingLine none (x.2.dpa / 64)) = false) :
    exec (.atomicFlit p fl) s = .next ((atomPart v p fl a x).watchAsk g.slice fl .atomic
      [(x.dpa / 64, lineMask (x.dpa % 64) a.bytes)]) := by
  refine (hr.asked (serveAtom fl)).trans ?_
  simp only [serveAtom, hn, he, hi, ha, Nat.not_le.2 h, ne_eq, not_true_eq_false, Bool.false_eq_true, if_false]
  refine (withGrant_of_hbm _ hg hx (by simpa using hbm) (.inr hp)).trans ?_
  simp only [hbm]

end Atomic

/-! ## Replies (R408, R428 to R430) -/

/-- The part when a reply has come: its node's epoch is noted, and its buffer is free again. -/
def State.noted (u : State) (p : Nat) (fl : Flit) : State :=
  { u with known := SMap.put (fun _ => 0#16) u.known fl.src.toNat (BitVec.ofNat 16 (bits fl.h1 31 16)) }.consumed p fl

/-- The request that a reply meets, by its tag and its node. -/
def State.repliedTo (w : State) (fl : Flit) (fits : RemoteReq → Bool) : Option RemoteReq :=
  w.remote.find? (fun r => r.tag == askTag fl && r.fl.dst == fl.src && fits r)

section Reply

variable {s u : State} {p : Nat} {fl : Flit} (hr : s.Receives p fl u) {fits : RemoteReq → Bool}
  (go : State → RemoteReq → State)
include hr

theorem replied_of_none (h : (u.noted p fl).repliedTo fl fits = none) : replied p fl fits s go = .next (u.noted p fl) := by
  rw [replied, hr.bestEffort]
  rw [State.repliedTo, State.noted] at h
  simp only [h]
  rfl

theorem replied_of_some {r : RemoteReq} (h : (u.noted p fl).repliedTo fl fits = some r) :
    replied p fl fits s go = .next (go (u.noted p fl) r) := by
  rw [replied, hr.bestEffort]
  rw [State.repliedTo, State.noted] at h
  simp only [h]
  rfl

omit hr go

/-- The part when a request has met a full table: it is sent again after 1 us. -/
def State.metFull (w : State) (r : RemoteReq) : State :=
  { w with remote := updateWhere (fun x => x.tag == r.tag) (fun x => { x with full := true, last := w.tsc }) w.remote }

/-- The part after a NACK to one of its requests. -/
def State.nacked (w : State) (fl : Flit) (r : RemoteReq) : State :=
  let status := bits fl.h1 47 40
  if status = 7 then w.metFull r
  else if status = 6 ∧ r.fl.ty = 6#6 then
    if r.resent then (w.dropRemote r.tag).failAsker r.who codeIndeterminate r.tva 0#64 else w.sendAfresh r
  else (w.dropRemote r.tag).failAsker r.who codeRemoteNack r.tva (word (status * 2 ^ 40))

theorem exec_readrspFlit_eq : exec (.readrspFlit p fl) s = replied p fl (fun r => r.fl.ty == 3#6) s (fun w r =>
    (w.dropRemote r.tag).giveAsker r.who r.tva (flitBytes fl r.off r.len) ((List.range 4).any (fun i =>
      bit fl.h1 (32 + i) && decide (r.off < 64 * i + 64) && decide (64 * i < r.off + r.len)))) := rfl

theorem exec_wrackFlit_eq : exec (.wrackFlit p fl) s = replied p fl (fun r => r.fl.ty == 4#6 || r.fl.ty == 5#6) s
    (fun w r => (w.dropRemote r.tag).giveAsker r.who r.tva [] false) := rfl

theorem exec_atomrspFlit_eq : exec (.atomrspFlit p fl) s = replied p fl (fun r => r.fl.ty == 6#6) s
    (fun w r => (w.dropRemote r.tag).giveAsker r.who r.tva (flitBytes fl 0 r.len) (bit fl.h1 32)) := rfl

theorem exec_nackFlit_eq : exec (.nackFlit p fl) s = replied p fl (fun _ => true) s (fun w r => w.nacked fl r) := rfl

theorem State.metFull_remote {w : State} {r x : RemoteReq} (hx : x ∈ (w.metFull r).remote) (ht : x.tag = r.tag) :
    x.full = true ∧ x.last = w.tsc := by
  obtain ⟨y, -, rfl⟩ := mem_updateWhere hx
  split at ht <;> rename_i hy
  · rw [if_pos hy]
    exact ⟨rfl, rfl⟩
  · exact absurd (beq_iff_eq.2 ht) hy

include hr

/-- READRSP ends its request with the bytes asked for, poisoned where a line of theirs is. -/
theorem exec_readrspFlit_of_some {r : RemoteReq} (h : (u.noted p fl).repliedTo fl (fun r => r.fl.ty == 3#6) = some r) :
    exec (.readrspFlit p fl) s = .next (((u.noted p fl).dropRemote r.tag).giveAsker r.who r.tva (flitBytes fl r.off r.len)
      ((List.range 4).any (fun i =>
        bit fl.h1 (32 + i) && decide (r.off < 64 * i + 64) && decide (64 * i < r.off + r.len)))) := by
  rw [exec_readrspFlit_eq, replied_of_some hr _ h]

theorem exec_wrackFlit_of_some {r : RemoteReq}
    (h : (u.noted p fl).repliedTo fl (fun r => r.fl.ty == 4#6 || r.fl.ty == 5#6) = some r) :
    exec (.wrackFlit p fl) s = .next (((u.noted p fl).dropRemote r.tag).giveAsker r.who r.tva [] false) := by
  rw [exec_wrackFlit_eq, replied_of_some hr _ h]

theorem exec_atomrspFlit_of_some {r : RemoteReq} (h : (u.noted p fl).repliedTo fl (fun r => r.fl.ty == 6#6) = some r) :
    exec (.atomrspFlit p fl) s = .next
      (((u.noted p fl).dropRemote r.tag).giveAsker r.who r.tva (flitBytes fl 0 r.len) (bit fl.h1 32)) := by
  rw [exec_atomrspFlit_eq, replied_of_some hr _ h]

/-- What a NACK does to its request, by its status (R427, R429, R430). -/
theorem exec_nackFlit_of_some {r : RemoteReq} (h : (u.noted p fl).repliedTo fl (fun _ => true) = some r) :
    let w := u.noted p fl
    let status := bits fl.h1 47 40
    (status = 7 → ∃ t, exec (.nackFlit p fl) s = .next t ∧ t = { w with remote := t.remote } ∧
      ∀ x ∈ t.remote, x.tag = r.tag → x.full = true ∧ x.last = w.tsc) ∧
    (status = 6 → r.fl.ty = 6#6 → r.resent = true →
      exec (.nackFlit p fl) s = .next ((w.dropRemote r.tag).failAsker r.who 0x0704 r.tva 0#64)) ∧
    (status = 6 → r.fl.ty = 6#6 → r.resent = false → exec (.nackFlit p fl) s = .next (w.sendAfresh r)) ∧
    (status ≠ 7 → status ≠ 6 ∨ r.fl.ty ≠ 6#6 → exec (.nackFlit p fl) s =
      .next ((w.dropRemote r.tag).failAsker r.who 0x0703 r.tva (word (status * 2 ^ 40)))) := by
  intro w status
  have hx : exec (.nackFlit p fl) s = .next (w.nacked fl r) := exec_nackFlit_eq.trans (replied_of_some hr _ h)
  rw [hx]
  refine ⟨fun h7 => ⟨w.metFull r, ?_, rfl, fun x => State.metFull_remote⟩, fun h6 hty hre => ?_, fun h6 hty hre => ?_,
    fun h7 h6 => ?_⟩
  · rw [State.nacked, if_pos h7]
  · rw [State.nacked, if_neg (by omega), if_pos ⟨h6, hty⟩, if_pos hre]
    rfl
  · rw [State.nacked, if_neg (by omega), if_pos ⟨h6, hty⟩, if_neg (by rw [hre]; decide)]
  · rw [State.nacked, if_neg h7, if_neg (fun hn => h6.elim (· hn.1) (· hn.2))]
    rfl

end Reply

/-! ## Resends and losses (R425, R428, R429) -/

section Resend

variable {s : State} {tag : Nat} {r : RemoteReq} (hr : s.remote.find? (fun r => r.tag == tag) = some r)
include hr

theorem exec_requestResend_of_late (hl : 20000 ≤ (s.tsc - r.last).toNat) (ho : (s.tsc - r.first).toNat ≤ 100000) :
    exec (.requestResend tag) s = .next (s.resend r) := by
  show execRequestResend tag s = _
  simp only [execRequestResend, State.remoteReq, hr, State.mayResend, hl, ho, decide_true, and_self, if_true]

theorem exec_requestResend_of_early (h : (s.tsc - r.last).toNat < 20000 ∨ 100000 < (s.tsc - r.first).toNat) :
    exec (.requestResend tag) s = .next s := by
  show execRequestResend tag s = _
  simp only [execRequestResend, State.remoteReq, hr, State.mayResend, decide_eq_true_eq]
  exact if_neg (by omega)

theorem exec_duplicateFullResend_of_late (hf : r.full = true) (hl : 1000 ≤ (s.tsc - r.last).toNat)
    (ho : (s.tsc - r.first).toNat ≤ 100000) : exec (.duplicateFullResend tag) s = .next (s.resend r) := by
  show execDuplicateFullResend tag s = _
  simp only [execDuplicateFullResend, State.remoteReq, hr, State.mayResend, hf, hl, ho, decide_true, and_self, if_true]

theorem exec_duplicateFullResend_of_early
    (h : r.full = false ∨ (s.tsc - r.last).toNat < 1000 ∨ 100000 < (s.tsc - r.first).toNat) :
    exec (.duplicateFullResend tag) s = .next s := by
  show execDuplicateFullResend tag s = _
  simp only [execDuplicateFullResend, State.remoteReq, hr, State.mayResend, decide_eq_true_eq]
  refine if_neg ?_
  rintro ⟨hf, hl, ho⟩
  rcases h with h | h | h
  · exact Bool.false_ne_true (h.symm.trans hf)
  · omega
  · omega

theorem exec_remoteGiveUp_of_old (h : 260000 ≤ (s.tsc - r.first).toNat) : exec (.remoteGiveUp tag) s =
    .next ((s.dropRemote tag).failAsker r.who (if r.fl.ty = 6#6 then 0x0704 else 0x0701) r.tva 0#64) := by
  show execRemoteGiveUp tag s = _
  simp only [execRemoteGiveUp, State.remoteReq, hr, h, if_true]
  rfl

theorem exec_remoteGiveUp_of_young (h : (s.tsc - r.first).toNat < 260000) : exec (.remoteGiveUp tag) s = .next s := by
  show execRemoteGiveUp tag s = _
  simp only [execRemoteGiveUp, State.remoteReq, hr, Nat.not_le.2 h, if_false]

end Resend

theorem duplicateEntryExpiry_drops (s : State) (node tag : Nat) :
    ∃ t, exec (.duplicateEntryExpiry node tag) s = .next t ∧ t = { s with dups := t.dups } ∧
      ∀ e, e ∈ t.dups ↔ e ∈ s.dups ∧ ¬(e.node = node ∧ e.tag = tag ∧ 200000 ≤ (s.tsc - e.at_).toNat) := by
  refine ⟨_, rfl, rfl, fun e => List.mem_filter.trans (and_congr_right (fun _ => ?_))⟩
  rw [Bool.not_eq_true', ← Bool.not_eq_true]
  simp only [Bool.and_eq_true, beq_iff_eq, decide_eq_true_eq, and_assoc]

section Endpoint

variable {s : State} {quad q : Nat} {c : Coach} {start : Word} (hc : s.coach? quad = some c)
  (hw : (c.endp q).waitFrom = some start)
include hc hw

theorem exec_cqTimeout_of_early
    (h : ((c.endp q).waited + (s.tsc - start)).toNat < s.cqTimeoutMs (quadDie quad) c.slice * 1000000) :
    exec (.cqTimeout quad q) s = .next s := by
  show execCqTimeout quad q s = _
  simp only [execCqTimeout, hc, hw, if_pos h]

omit hw in
/-- A whole endpoint breaks: it closes towards its partner. -/
theorem State.breakEndp_of_whole (hb : (c.endp q).bound = true) (hk : (c.endp q).broken = false) :
    s.breakEndp quad q false = (s.sendClose c (c.endp q) true).updEndp quad q (fun e =>
      { e.endWait with broken := true, downOp := none }) := by
  simp only [State.breakEndp, hc, hb, hk, Bool.true_eq_false, Bool.false_eq_true, or_self, if_false]

theorem cqTimeout_breaks
    (h : s.cqTimeoutMs (quadDie quad) c.slice * 1000000 ≤ ((c.endp q).waited + (s.tsc - start)).toNat)
    (hb : (c.endp q).bound = true) (hk : (c.endp q).broken = false) : ∃ t, exec (.cqTimeout quad q) s = .next t ∧
      t.mem = s.mem ∧ t.coach? quad =
        some (c.setEndp q { c.endp q with broken := true, downOp := none, waitFrom := none, waited := 0#64 }) := by
  have hx : exec (.cqTimeout quad q) s = .next (s.breakEndp quad q false) := by
    show execCqTimeout quad q s = _
    simp only [execCqTimeout, hc, hw, if_neg (Nat.not_lt.2 h)]
  have hclose : (s.sendClose c (c.endp q) true).coach? quad = some c := by
    rw [State.coach?, State.sendClose, State.sendReport, State.sendFlit_coaches]
    exact hc
  rw [State.breakEndp_of_whole hc hb hk] at hx
  refine ⟨_, hx, (AbortLeaves.sendFlit ..).mem, ?_⟩
  rw [State.updEndp, State.coach?_updCoach_self hclose (fun _ => by rfl)]
  rfl

end Endpoint

end Sys2Proof.Machine

namespace Sys2Proof

open Machine

/-- Settles O50: requests for lines by `AsksLines`, atomics in the order of their checks, then replies, resends and losses. -/
theorem remoteRequests : Obligations.RemoteRequests := by
  refine ⟨fun s u p fl hr => ⟨fun r hmem => ?_, fun g v xs hg hx hbm => ⟨?_, ?_⟩, fun r hmem g v xs hg hx hbm => ?_,
      ⟨fun e => exec_atomicFlit_of_answered hr, fun hn => ⟨exec_atomicFlit_of_epoch hr hn, exec_atomicFlit_of_inside hr hn,
        fun he hi => ⟨exec_atomicFlit_of_unknown hr hn he hi, fun a ha => ⟨exec_atomicFlit_of_full hr hn he hi ha,
          fun g v n x h hg hx hbm hp => exec_atomicFlit_of_hbm hr hn he hi ha h hg hx hbm hp⟩⟩⟩⟩⟩,
    fun s u p fl hr => ⟨fun i ok hmem hnone => ?_, fun r h => ?_, fun r h => ?_, fun r h => ?_, fun r h => ?_⟩,
    fun s tag r hr => ⟨exec_requestResend_of_late hr, exec_requestResend_of_early hr, exec_duplicateFullResend_of_late hr,
      exec_duplicateFullResend_of_early hr, exec_remoteGiveUp_of_old hr, exec_remoteGiveUp_of_young hr⟩,
    duplicateEntryExpiry_drops,
    fun s quad q c start hc hw => ⟨exec_cqTimeout_of_early hc hw, cqTimeout_breaks hc hw⟩⟩
  · have hasks : AsksLines p fl r.1 r.2.1 r.2.2 := by
      simp only [List.mem_cons, List.not_mem_nil, or_false] at hmem
      rcases hmem with rfl | rfl | rfl
      · exact .read
      · exact .write
      · exact .writep
    exact hasks.refused hr
  · exact exec_readFlit_of_pending hr hg hx hbm
  · exact exec_readFlit_of_hbm hr hg hx hbm
  · have hserve : exec r.1 s = serveWrite fl r.2.1 r.2.2 p u := by
      simp only [List.mem_cons, List.not_mem_nil, or_false] at hmem
      rcases hmem with rfl | rfl
      · exact hr.asked (serveWrite fl (askLines fl) (-1#64))
      · exact hr.asked (serveWrite fl [0] (askMask fl))
    intro w ho
    refine ⟨_, exec_serveWrite_of_hbm hserve hg hx hbm ho, rfl, ?_⟩
    rintro n x rfl hm a ha
    rw [State.byteAt, State.watchAsk_mem, State.finishAsk_mem]
    exact State.writePart_byteAt v fl r.2.2 n (hbm (n, x) (List.mem_singleton_self _)) hm ha
  · have hw : (u.noted p fl).repliedTo fl ok = none := hnone
    simp only [List.mem_cons, List.not_mem_nil, or_false, Prod.mk.injEq] at hmem
    rcases hmem with ⟨rfl, rfl⟩ | ⟨rfl, rfl⟩ | ⟨rfl, rfl⟩ | ⟨rfl, rfl⟩
    · exact exec_readrspFlit_eq.trans (replied_of_none hr _ hw)
    · exact exec_wrackFlit_eq.trans (replied_of_none hr _ hw)
    · exact exec_atomrspFlit_eq.trans (replied_of_none hr _ hw)
    · exact exec_nackFlit_eq.trans (replied_of_none hr _ hw)
  · exact exec_readrspFlit_of_some hr h
  · exact exec_wrackFlit_of_some hr h
  · exact exec_atomrspFlit_of_some hr h
  · exact exec_nackFlit_of_some hr h

end Sys2Proof
end

section
/-! SUPPORT. FenceWords: the FENCE words (R95, R151, R315, R317, R320). -/

namespace Sys2Proof.Machine

/-! ## What an acquire leaves (R151, R320) -/

/-- What an acquire at a scope makes of the reads that follow it: at CLUSTER scope or wider they are strict. -/
def State.orders (s : State) (scope : Nat) : State :=
  if 2 ≤ scope then s.updMe (fun st => { st with strict := true }) else s

theorem State.acquireL1_of_none {s : State} (scope : Nat) (hc : s.myCoach? = none) : s.acquireL1 scope = s.orders scope := by
  simp only [State.acquireL1, State.orders, hc]

theorem State.acquireL1_of_some {s : State} {c : Coach} (scope : Nat) (hc : s.myCoach? = some c) :
    s.acquireL1 scope = (if 1 ≤ scope then s.l1Acquire c else s).orders scope := by
  simp only [State.acquireL1, State.orders, hc]

theorem State.orders_only (s : State) (scope : Nat) : OnlyThread s (s.orders scope) := by
  unfold State.orders
  split
  · exact State.updMe_only s _
  · exact .refl s

section Orders

variable {s : State} {scope : Nat} (h : (s.strand? s.cur).isSome = true)
include h

theorem State.orders_me : (s.orders scope).me = { s.me with strict := s.me.strict || decide (2 ≤ scope) } := by
  unfold State.orders
  split <;> rename_i hscope
  · rw [State.me_updMe s _ h, decide_eq_true hscope, Bool.or_true]
  · rw [decide_eq_false hscope, Bool.or_false]

theorem State.orders_sameBut : (s.orders scope).me.SameBut s.me := by
  rw [State.orders_me h]
  exact .of_order rfl

theorem State.orders_strict (hscope : 2 ≤ scope) : (s.orders scope).me.strict = true := by
  rw [State.orders_me h, decide_eq_true hscope, Bool.or_true]

end Orders

/-! ## Completion of an acquire -/

/-- The word completes as an acquire at a scope; beside the running thread and tokens, what follows is as in v. -/
def Acquires (i : Instr) (s v : State) (scope : Nat) : Prop :=
  ∃ t, exec i s = .next t ∧ SameRegs s t ∧ Moved s t 1 ∧ OnlyThread v t ∧ (2 ≤ scope → t.me.strict = true)

section Acquires

variable {i : Instr} {k : Tok} {s : State} {scope : Nat} {pc : Word} {th : ThreadId}

theorem acquires_of_orders {v : State} (he : exec i s = (Res.done (v.orders scope)).apply k 1 pc th)
    (hv : (v.strand? v.cur).isSome = true) (hme : v.me.SameBut s.me) : Acquires i s v scope := by
  have hsome := (State.orders_only v scope).isSome.trans hv
  obtain ⟨t, hx, hregs, hmoved, honly⟩ := does_of_done' he rfl hsome ((State.orders_sameBut hv).trans hme)
  refine ⟨t, hx, hregs, hmoved, (State.orders_only v scope).trans honly, fun hscope => ?_⟩
  have ht : t = (v.orders scope).completeBy k (Strand.advance 1) := Host.Outcome.next.inj (hx.symm.trans he)
  rw [ht, State.completeBy_me _ k _ hsome]
  exact State.orders_strict hv hscope

variable (hi : ((s.takeToken k).strand? (s.takeToken k).cur).isSome = true)
  (he : exec i s = (Res.done ((s.takeToken k).acquireL1 scope)).apply k 1 pc th)
include hi he

theorem acquires_of_none (hc : s.myCoach? = none) : Acquires i s (s.takeToken k) scope := by
  rw [State.acquireL1_of_none scope (State.takeToken_myCoach?_none k hc)] at he
  exact acquires_of_orders he hi (State.takeToken_sameBut s k)

/-- On a coach's stream: the untagged lines in the coach's ways are dropped at CORE scope or wider. -/
theorem acquires_of_some {c : Coach} (hc : s.myCoach? = some c) :
    Acquires i s (if 1 ≤ scope then
      { s.takeToken k with l1 := s.l1.filter (fun x => x.tag.isSome || !c.quads.contains x.quad) }
      else s.takeToken k) scope := by
  have hl1 : (s.takeToken k).l1 = s.l1 := by rw [State.takeToken_eq]
  obtain ⟨st, ff, hc'⟩ := State.takeToken_myCoach? k hc
  rw [State.acquireL1_of_some scope hc', State.l1Acquire, hl1] at he
  refine acquires_of_orders he ?_ ?_
  · split <;> exact hi
  · split <;> exact State.takeToken_sameBut s k

end Acquires

/-! ## The FENCE words (R317) -/

section Fence

variable {s : State} {k : Tok} {a : BitVec 4} {h : BitVec 5}

/-- The classes that a FENCE names. -/
def State.fenceClasses (s : State) (a : BitVec 4) : BitVec 16 := if a = 0#4 then 0xFFFF#16 else (s.reg a).setWidth 16

/-- The paths that a FENCE names and its agent has. -/
def State.fencePaths (s : State) (h : BitVec 5) : BitVec 5 := if onDray s.cur then h &&& 1#5 else h

section Form

variable {i : Instr} {body : State → BitVec 16 → BitVec 5 → Res} (hi : s.Issues commonWord i k)
  (he : exec i s = fenceForm i k a h body s)
include hi he

theorem traps_fence_of_pois (hp : s.pois a = true) : Traps i s k 0x0401 none none := by
  have hx := he.trans (issue_of_issues _ hi)
  simp only [State.takeToken_pois, hp, consume, if_true] at hx
  exact traps_of_fault hx

theorem exec_fence (hp : s.pois a = false) :
    exec i s = (body (s.takeToken k) (s.fenceClasses a) (s.fencePaths h)).apply k 1 s.me.pc s.cur := by
  have hx := he.trans (issue_of_issues _ hi)
  simp only [State.takeToken_pois, State.takeToken_reg, State.takeToken_cur, hp, consume, Bool.false_eq_true, if_false] at hx
  exact hx

end Form

variable {e : BitVec 3} (hp : s.pois a = false)
include hp

theorem exec_fenceAcq (hi : s.Issues commonWord (.fenceAcq k a e h) k) :
    exec (.fenceAcq k a e h) s = (Res.done ((s.takeToken k).acquireL1 e.toNat)).apply k 1 s.me.pc s.cur :=
  exec_fence hi (show _ = execFenceAcq k a e h s from rfl) hp

section Wait

variable {r : State × Wait}
  (hr : (s.takeToken k).fenceWait s.cur (s.fenceClasses a) (s.fencePaths h) e.toNat = some r)
include hr

theorem exec_fenceRel_of_some (hi : s.Issues commonWord (.fenceRel k a e h) k) :
    exec (.fenceRel k a e h) s = .next (r.1.updMe (fun st => { st.parkOn r.2 r.1.tsc with begun := true })) := by
  have hx := exec_fence hi (show _ = execFenceRel k a e h s from rfl) hp
  simp only [State.takeToken_cur, hr] at hx
  exact hx

theorem exec_fenceFull_of_some (hi : s.Issues commonWord (.fenceFull k a e h) k) :
    exec (.fenceFull k a e h) s = .next (r.1.updMe (fun st => { st.parkOn r.2 r.1.tsc with begun := true })) := by
  have hx := exec_fence hi (show _ = execFenceFull k a e h s from rfl) hp
  simp only [State.takeToken_cur, hr] at hx
  exact hx

end Wait

section NoWait

variable (hn : (s.takeToken k).fenceWait s.cur (s.fenceClasses a) (s.fencePaths h) e.toNat = none)
include hn

theorem does_fenceRel_of_none (hi : s.Issues commonWord (.fenceRel k a e h) k) : Does (.fenceRel k a e h) s s := by
  have hx := exec_fence hi (show _ = execFenceRel k a e h s from rfl) hp
  simp only [State.takeToken_cur, hn] at hx
  exact does_self_of_done hi hx rfl

theorem exec_fenceFull_of_none (hi : s.Issues commonWord (.fenceFull k a e h) k) :
    exec (.fenceFull k a e h) s = (Res.done ((s.takeToken k).acquireL1 e.toNat)).apply k 1 s.me.pc s.cur := by
  have hx := exec_fence hi (show _ = execFenceFull k a e h s from rfl) hp
  simp only [State.takeToken_cur, hn] at hx
  exact hx

end NoWait

end Fence

end Sys2Proof.Machine

namespace Sys2Proof

open Machine

/-- Settles O17: each FENCE by its poison, by what is left to wait for, and by whether its thread has a coach. -/
theorem fences : Obligations.Fences := by
  intro s k a e h cls paths left acquire u acquires
  have hacq : ∀ {i : Instr}, s.Issues commonWord i k →
      exec i s = (Res.done (u.acquireL1 e.toNat)).apply k 1 s.me.pc s.cur → acquires i := by
    intro i hi hx
    show Acquires i s (acquire u) e.toNat
    simp only [acquire]
    cases hc : s.myCoach? with
    | none => exact acquires_of_none hi.isSome hx hc
    | some c => exact acquires_of_some hi.isSome hx hc
  refine ⟨fun hp => ⟨fun hi => ?_, fun hi => ?_, fun hi => ?_⟩, fun hp => ⟨fun hi => hacq hi (exec_fenceAcq hp hi),
    fun hi hn => does_fenceRel_of_none hp hn hi, fun hi hn => hacq hi (exec_fenceFull_of_none hp hn hi),
    fun r hr => ⟨exec_fenceRel_of_some hp hr, exec_fenceFull_of_some hp hr⟩⟩⟩
  · exact traps_fence_of_pois hi (show _ = execFenceAcq k a e h s from rfl) hp
  · exact traps_fence_of_pois hi (show _ = execFenceRel k a e h s from rfl) hp
  · exact traps_fence_of_pois hi (show _ = execFenceFull k a e h s from rfl) hp

end Sys2Proof
end

section
/-! SUPPORT. CallerWords: system words on a Dray strand, and the checks of their operands (R44, R339, R340, R344); the words that
reach another thread's registers (R352). -/

namespace Sys2Proof.Machine

/-! ## Fields of a number (R6) -/

theorem bits_eq (w : Word) (hi lo : Nat) : bits w hi lo = w.toNat / 2 ^ lo % 2 ^ (hi + 1 - lo) := by
  rw [bits, BitVec.extractLsb'_toNat, Nat.shiftRight_eq_div_pow]

theorem bit_eq (w : Word) (i : Nat) : bit w i = decide (w.toNat / 2 ^ i % 2 = 1) := by
  rw [bit, BitVec.getLsbD, Nat.testBit_eq_decide_div_mod_eq]

theorem bit_eq_true_iff (w : Word) (i : Nat) : bit w i = true ↔ w.toNat / 2 ^ i % 2 = 1 := by
  rw [bit_eq, decide_eq_true_iff]

/-! ## The body of a system word (R37) -/

/-- The word runs, once its checks have passed, as a result says. -/
def RunsAs (i : Instr) (s : State) (k : Tok) (r : Res) : Prop := exec i s = r.apply k 1 s.me.pc s.cur

section Body

variable {i : Instr} {k : Tok} {s x : State} {die n : Nat}

/-- A system word of a Dray strand runs its body for its strand as the caller. -/
theorem runsAs_of_sysForm {level : Nat} {right : Option Nat} {a b : BitVec 4} {f : State → Caller → Res}
    (hcur : s.cur = .dray die n) (ha : s.pois a = false) (hb : s.pois b = false) (hi : s.Issues (sysWord level right) i k)
    (he : exec i s = sysForm level right i k a b f s) : RunsAs i s k (f s (s.caller die n)) := by
  have hx := he.trans (issue_of_issues _ hi)
  simp only [State.takeToken_of_dray hcur, ha, hb, Bool.or_self, consume, Bool.false_eq_true, if_false, withCaller, hcur] at hx
  rw [RunsAs, hx, hcur]
  rfl

theorem RunsAs.returns {d : BitVec 4} {v : Word} (h : RunsAs i s k (writeS d v false x)) : Returns i s x k d v := h

theorem RunsAs.next_of_done (h : RunsAs i s k (.done x)) : exec i s = .next (x.complete k 1) := h

theorem RunsAs.next_of_wait {w : Wait} (h : RunsAs i s k (.wait x w)) :
    exec i s = .next (x.updMe (fun st => { st.parkOn w x.tsc with begun := true })) := h

variable (hcur : s.cur = .dray die n)
include hcur

theorem RunsAs.traps_of_badOperand {v : Word} (h : RunsAs i s k (badOperand s v)) : Traps i s k 0x0205 (some v) none := by
  rw [Traps, State.takeToken_of_dray hcur]
  exact h

theorem RunsAs.denies_of_rightsRes (h : RunsAs i s k (rightsRes s i)) : Denies i s k := by
  rw [Denies, Traps, State.takeToken_of_dray hcur]
  exact h

end Body

/-! ## Handle, slice and domain operands (R339, R340, R344) -/

section Operand

variable {s : State} {i : Instr} {c : Caller}

theorem withMaster_of_authority {h : Word} {fits : Master → Bool} {f : Master → Res} {m : Master} (hm : masterOf h = some m)
    (hne : m ≠ .dray c.die c.k) (hf : fits m = true) (hok : s.masterOk c m = true) : withMaster s i c h fits f = f m := by
  simp [withMaster, hm, hne, hf, hok]

variable {v : Word} {f : Nat → Res}

theorem withSlice_of_large (h : 64 ≤ v.toNat) : withSlice s i c v f = badOperand s v := if_pos h

theorem withSlice_of_foreign (h : v.toNat < 64) (ho : c.has s v.toNat = false) : withSlice s i c v f = rightsRes s i := by
  rw [withSlice, if_neg (Nat.not_le.2 h), if_neg (Bool.eq_false_iff.1 ho)]

theorem withSlice_of_own (h : v.toNat < 64) (ho : c.has s v.toNat = true) : withSlice s i c v f = f v.toNat := by
  rw [withSlice, if_neg (Nat.not_le.2 h), if_pos ho]

theorem withDomain_of_large (h : 16 ≤ v.toNat) : withDomain s i c v f = badOperand s v := if_pos h

theorem withDomain_of_foreign (h : v.toNat < 16) (ho : ownsDomain c.level c.served v.toNat = false) :
    withDomain s i c v f = rightsRes s i := by
  rw [withDomain, if_neg (Nat.not_le.2 h), if_neg (Bool.eq_false_iff.1 ho)]

theorem withDomain_of_own (h : v.toNat < 16) (ho : ownsDomain c.level c.served v.toNat = true) :
    withDomain s i c v f = f v.toNat := by
  rw [withDomain, if_neg (Nat.not_le.2 h), if_pos ho]

end Operand

/-! ## Registers of another thread (R352) -/

theorem State.reachable_iff (s : State) (th : ThreadId) : s.reachable th = true ↔
    (∃ st, s.strand? th = some st ∧ ∃ l, st.run = .stopped l) ∨ (∃ st, s.strand? th = some st ∧ st.frozen = true) ∨
      ∃ q p c, th = .coach q p ∧ s.coach? q = some c ∧ (c.frozen = true ∨ c.held.isSome = true) := by
  cases th with
  | dray d k =>
    cases hr : (s.drayStrand d k).th.run <;> simp [State.reachable, State.strand?, State.threadFrozen, hr]
  | coach q p =>
    cases hc : s.coach? q with
    | none => simp [State.reachable, State.strand?, hc]
    | some c =>
      cases hr : (c.strand p).run <;> simp [State.reachable, State.strand?, State.threadFrozen, hc, hr, or_assoc]

section Csrx

variable {i : Instr} {k : Tok} {s : State} {d a b : BitVec 4} {n7 : BitVec 7} {op : CsrOp} {die n : Nat} {m : Master}
  (hcur : s.cur = .dray die n) (ha : s.pois a = false) (hb : s.pois b = false) (hm : masterOf (s.reg a) = some m)
  (hne : m ≠ .dray die n) (ht : m.isThread = true) (hok : s.masterOk (s.caller die n) m = true)
  (hi : s.Issues (sysWord 2 (some rightDebug)) i k) (he : exec i s = csrxForm i k d a b n7 op s)
include hcur ha hb hm hne ht hok hi he

theorem csrxForm_runsAs : RunsAs i s k
    (if s.reachable m.thread = false then badOperand s (s.reg a)
    else writeS d (s.csr m.thread n7.toNat) false
      (if op = .read then s else s.csrWriteX m.thread n7.toNat (op.new (s.csr m.thread n7.toNat) (s.reg b)))) := by
  have hx := runsAs_of_sysForm hcur ha hb hi he
  rwa [withMaster_of_authority hm hne ht hok] at hx

/-- A thread that runs keeps its registers to itself. -/
theorem csrxForm_outcomes :
    (s.reachable m.thread = false → Traps i s k 0x0205 (some (s.reg a)) none) ∧
      (s.reachable m.thread = true → Returns i s
        (if op = .read then s else s.csrWriteX m.thread n7.toNat (op.new (s.csr m.thread n7.toNat) (s.reg b))) k d
        (s.csr m.thread n7.toNat)) := by
  have hx := csrxForm_runsAs hcur ha hb hm hne ht hok hi he
  refine ⟨fun hr => ?_, fun hr => ?_⟩
  · rw [if_pos hr] at hx
    exact hx.traps_of_badOperand hcur
  · rw [if_neg (by simp [hr])] at hx
    exact hx.returns

end Csrx

end Sys2Proof.Machine
end

section
/-! SUPPORT. RefrozenHandle: a FREEZE that has begun and whose handle has changed since (R339, R341). -/

namespace Sys2Proof.Tests

open Sys2Proof.Machine

/-- Strand 0 of die 0 comes back to a FREEZE that has begun, with a handle in s1 that breaks the map. -/
def refrozen : State := (State.with onDray0 1#4 0xB#64).updMe (fun st => { st with reply := [0#8] })

/-- Refutes O21, by a state that no run reaches, since no other agent writes s1 while the strand waits: a FREEZE makes the checks of
its handle when it begins, and one that is executed again completes, where the statement has it raise DESC_RANGE. -/
theorem not_masterHandles : ¬ Obligations.MasterHandles := by
  intro h
  obtain ⟨-, -, -, -, words⟩ := h
  obtain ⟨-, -, -, freeze, -⟩ := words refrozen k0 3#4 1#4 0#4 0#7 0 0 (by decide +kernel) (by decide +kernel) (by decide +kernel)
  obtain ⟨trap, -⟩ := freeze (issues_of (by decide +kernel))
  have hstop := congrArg stopAfter (trap (by decide +kernel))
  exact absurd hstop (by decide +kernel)

end Sys2Proof.Tests
end

section
/-! SUPPORT. OtherThreads: the registers of a thread after a write of one of them by another (R97, R126, R352). -/

namespace Sys2Proof.Machine

/-! ## What a state register reads of its thread -/

/-- A state register that a thread holds itself: the fault registers. -/
def Strand.csr (st : Strand) (n : Nat) : Option Word :=
  match n with
  | 3 => some st.epc
  | 4 => some st.fcode
  | 5 => some st.faddr
  | 6 => some st.fprog
  | _ => none

/-- A thread's fault registers change, and neither its run state nor its loops. -/
structure KeepsRun (f : Strand → Strand) : Prop where
  run   : ∀ st, (f st).run = st.run
  loops : ∀ st, (f st).loops = st.loops

/-- A coach changes, and nothing that the state registers of its threads read beside the threads themselves. -/
structure KeepsCsr (f : Coach → Coach) : Prop where
  quad   : ∀ c, (f c).quad = c.quad
  tag    : ∀ c, (f c).tag = c.tag
  stream : ∀ c i, (f c).stream i = c.stream i
  run    : ∀ c p, ((f c).strand p).run = (c.strand p).run
  fifo   : ∀ c, (f c).fifo = c.fifo
  owed   : ∀ c, (f c).owed = c.owed

theorem KeepsRun.coach {f : Strand → Strand} (h : KeepsRun f) (p : Nat) : KeepsCsr (fun c => c.updStrand p f) where
  quad _ := rfl
  tag _ := rfl
  stream _ i := by cases i <;> rfl
  run c j := by
    rw [Coach.strand_updStrand]
    split <;> rename_i hj
    · rw [h.run, hj]
    · rfl
  fifo _ := rfl
  owed _ := rfl

theorem State.csrStatus_of_loops (s : State) (th : ThreadId) {a b : Strand} (h : a.loops = b.loops) :
    s.csrStatus th a = s.csrStatus th b := by
  rw [State.csrStatus, State.csrStatus, h]

theorem Strand.isParked_of_run {a b : Strand} (h : a.run = b.run) : a.isParked = b.isParked := by
  rw [Strand.isParked, h]
  rfl

theorem Strand.isLive_of_run {a b : Strand} (h : a.run = b.run) : a.isLive = b.isLive := by
  rw [Strand.isLive, h]
  rfl

theorem State.csrStrand_dray (s t : State) (d k : Nat) {a b : Strand} (h : a.run = b.run) :
    s.csrStrand (.dray d k) a = t.csrStrand (.dray d k) b := by
  simp only [State.csrStrand, Strand.isParked_of_run h, Strand.isLive_of_run h]

section Coach

variable (s : State) (q p : Nat) {f : Coach → Coach} (h : KeepsCsr f)
include h

theorem State.coach?_updCoach_keeps : (s.updCoach q f).coach? q = (s.coach? q).map f := by
  rw [State.coach?_updCoach s q q f h.quad, if_pos rfl]

theorem State.csrStatus_updCoach (st : Strand) :
    (s.updCoach q f).csrStatus (.coach q p) st = s.csrStatus (.coach q p) st := by
  have hl : (s.updCoach q f).launchOf (.coach q p) = s.launchOf (.coach q p) := by
    simp only [State.launchOf, State.coach?_updCoach_keeps s q h]
    cases s.coach? q with
    | none => rfl
    | some c => simp only [Option.map_some, h.tag]; rfl
  rw [State.csrStatus, State.csrStatus, hl]
  rfl

theorem State.csrStrand_updCoach {a b : Strand} (hr : a.run = b.run) :
    (s.updCoach q f).csrStrand (.coach q p) a = s.csrStrand (.coach q p) b := by
  unfold State.csrStrand
  simp only [State.coach?_updCoach_keeps s q h, Strand.isParked_of_run hr, Strand.isLive_of_run hr]
  cases s.coach? q with
  | none => rfl
  | some c =>
    simp only [Option.map_some, fun j => Strand.isParked_of_run (h.run c j), fun j => Strand.isLive_of_run (h.run c j)]

theorem State.csrTokcnt_updCoach : (s.updCoach q f).csrTokcnt (.coach q p) = s.csrTokcnt (.coach q p) := by
  simp only [State.csrTokcnt, State.coach?_updCoach_keeps s q h]
  cases s.coach? q with
  | none => rfl
  | some c => simp only [Option.map_some, Coach.fifoCount, Coach.owedCount, h.fifo, h.owed]

/-- The state registers of a coach's thread after such a change. -/
theorem State.csr_updCoach {a b : Strand} (ha : (s.updCoach q f).strand? (.coach q p) = some a)
    (hb : s.strand? (.coach q p) = some b) (hr : a.run = b.run) (hl : a.loops = b.loops) (n : Nat) :
    (s.updCoach q f).csr (.coach q p) n = (a.csr n).getD (s.csr (.coach q p) n) := by
  have hst := State.stream?_updCoach s q (.coach q p) h.quad h.stream
  unfold State.csr
  rw [ha, hb, hst]
  match n with
  | 0 => exact (State.csrStatus_updCoach s q p h a).trans (s.csrStatus_of_loops _ hl)
  | 1 | 2 | 3 | 4 | 5 | 6 | 7 => rfl
  | 8 => exact State.csrStrand_updCoach s q p h hr
  | 9 => rfl
  | 10 => exact State.csrTokcnt_updCoach s q p h
  | n + 11 => rfl

end Coach

theorem State.csr_of_strand (s : State) {th : ThreadId} {st : Strand} (hs : s.strand? th = some st) (n : Nat) :
    s.csr th n = (st.csr n).getD (s.csr th n) := by
  unfold State.csr
  rw [hs]
  match n with
  | 0 | 1 | 2 | 3 | 4 | 5 | 6 | 7 | 8 | 9 | 10 => rfl
  | n + 11 => rfl

/-- The state registers of a thread after its fault registers have changed. -/
theorem State.csr_updStrand (s : State) {th : ThreadId} {st : Strand} (hs : s.strand? th = some st) {f : Strand → Strand}
    (hf : KeepsRun f) (n : Nat) : (s.updStrand th f).csr th n = ((f st).csr n).getD (s.csr th n) := by
  have hnew : (s.updStrand th f).strand? th = some (f st) := by
    rw [State.strand?_updStrand, if_pos rfl, hs]
    rfl
  cases th with
  | coach q p => exact State.csr_updCoach s q p (hf.coach p) hnew hs (hf.run st) (hf.loops st) n
  | dray d k =>
    have hlevel : (s.updStrand (.dray d k) f).levelOf (.dray d k) = s.levelOf (.dray d k) := by
      rw [State.levelOf, State.levelOf, State.strandLevel, State.strandLevel, State.pmWord_of_pm]
      rw [State.updStrand, State.die_updDray]
    unfold State.csr
    rw [hnew, hs, State.stream?_updStrand]
    match n with
    | 0 =>
      show State.csrStatus _ _ (f st) = State.csrStatus _ _ st
      rw [State.csrStatus, State.csrStatus, hlevel, hf.loops]
      rfl
    | 1 | 2 | 3 | 4 | 5 | 6 | 7 => rfl
    | 8 => exact State.csrStrand_dray _ s d k (hf.run st)
    | 9 | 10 => rfl
    | n + 11 => rfl

/-- A VATOM's resume lane is no state register (R179). -/
theorem State.csr_setResume (s : State) {q p : Nat} (hs : (s.strand? (.coach q p)).isSome = true) (x : BitVec 10) (n : Nat) :
    (s.updCoach q (fun c => { c with resume := x })).csr (.coach q p) n = s.csr (.coach q p) n := by
  obtain ⟨st, hst⟩ := Option.isSome_iff_exists.1 hs
  have hkeeps : KeepsCsr (fun c => { c with resume := x }) :=
    ⟨fun _ => rfl, fun _ => rfl, fun _ i => by cases i <;> rfl, fun _ _ => rfl, fun _ => rfl, fun _ => rfl⟩
  rw [State.csr_updCoach s q p hkeeps ((State.strand?_updCoach s q (f := fun c => { c with resume := x }) _
    (fun _ => rfl) (fun _ _ => rfl)).trans hst) hst rfl rfl n,
    ← State.csr_of_strand s hst]

/-! ## CSRX's write (R352) -/

/-- What a state register holds once CSRX has written a value to it: the fault registers take it too. -/
def State.csrTakenX (s : State) (th : ThreadId) (n : Nat) (v : Word) : Word :=
  match n with
  | 3 => v &&& 0x1FFFF#64
  | 4 => v &&& 0x1FFFF#64
  | 5 => v
  | 6 => v
  | _ => s.csrTaken th n v

section Written

variable {s : State} {th : ThreadId} {st : Strand} {f : Strand → Strand} {r : Nat} {w : Word}

/-- One fault register changes. -/
theorem csr_updStrand_fault (hs : s.strand? th = some st) (hf : KeepsRun f) (hself : (f st).csr r = some w)
    (hother : ∀ j, j ≠ r → (f st).csr j = st.csr j) (m : Nat) :
    (s.updStrand th f).csr th m = if m = r then w else s.csr th m := by
  rw [State.csr_updStrand s hs hf m]
  split <;> rename_i hm
  · rw [hm, hself]
    rfl
  · rw [hother m hm, ← State.csr_of_strand s hs]

theorem Strand.csr_epc (st : Strand) (x : Word) : ∀ j, j ≠ 3 → ({ st with epc := x } : Strand).csr j = st.csr j
  | 3, h => absurd rfl h
  | 0, _ | 1, _ | 2, _ | 4, _ | 5, _ | 6, _ => rfl
  | _ + 7, _ => rfl

theorem Strand.csr_fcode (st : Strand) (x : Word) : ∀ j, j ≠ 4 → ({ st with fcode := x } : Strand).csr j = st.csr j
  | 4, h => absurd rfl h
  | 0, _ | 1, _ | 2, _ | 3, _ | 5, _ | 6, _ => rfl
  | _ + 7, _ => rfl

theorem Strand.csr_faddr (st : Strand) (x : Word) : ∀ j, j ≠ 5 → ({ st with faddr := x } : Strand).csr j = st.csr j
  | 5, h => absurd rfl h
  | 0, _ | 1, _ | 2, _ | 3, _ | 4, _ | 6, _ => rfl
  | _ + 7, _ => rfl

theorem Strand.csr_fprog (st : Strand) (x : Word) : ∀ j, j ≠ 6 → ({ st with fprog := x } : Strand).csr j = st.csr j
  | 6, h => absurd rfl h
  | 0, _ | 1, _ | 2, _ | 3, _ | 4, _ | 5, _ => rfl
  | _ + 7, _ => rfl

/-- FPROG, which on an X stream takes the resume lane with it (R179). -/
theorem csr_csrWriteX_fprog (hs : s.strand? th = some st) (v : Word) (m : Nat) :
    (s.csrWriteX th 6 v).csr th m = if m = 6 then v else s.csr th m := by
  have hset := csr_updStrand_fault (f := fun st => { st with fprog := v }) hs ⟨fun _ => rfl, fun _ => rfl⟩ rfl
    (Strand.csr_fprog st v) m
  unfold State.csrWriteX
  simp only []
  split
  · rw [State.csr_setResume _ (by rw [State.strand?_updStrand, if_pos rfl, hs]; rfl)]
    exact hset
  · exact hset

end Written

/-- Reading a state register after CSRX has written one. -/
theorem csr_csrWriteX {s : State} {th : ThreadId} (hs : (s.strand? th).isSome = true) (n : Nat) (v : Word) (m : Nat) :
    (s.csrWriteX th n v).csr th m = if m = n then s.csrTakenX th m v else s.csr th m := by
  obtain ⟨st, hst⟩ := Option.isSome_iff_exists.1 hs
  match n with
  | 3 =>
    refine (csr_updStrand_fault (f := fun st => { st with epc := v &&& 0x1FFFF#64 }) hst ⟨fun _ => rfl, fun _ => rfl⟩ rfl
      (Strand.csr_epc st _) m).trans (ite_congr rfl ?_ fun _ => rfl)
    rintro rfl
    rfl
  | 4 =>
    refine (csr_updStrand_fault (f := fun st => { st with fcode := v &&& 0x1FFFF#64 }) hst ⟨fun _ => rfl, fun _ => rfl⟩ rfl
      (Strand.csr_fcode st _) m).trans (ite_congr rfl ?_ fun _ => rfl)
    rintro rfl
    rfl
  | 5 =>
    refine (csr_updStrand_fault (f := fun st => { st with faddr := v }) hst ⟨fun _ => rfl, fun _ => rfl⟩ rfl
      (Strand.csr_faddr st _) m).trans (ite_congr rfl ?_ fun _ => rfl)
    rintro rfl
    rfl
  | 6 =>
    refine (csr_csrWriteX_fprog hst v m).trans (ite_congr rfl ?_ fun _ => rfl)
    rintro rfl
    rfl
  | 0 | 1 | 2 | _ + 7 =>
    refine (csr_csrWrite hs _ v m).trans (ite_congr rfl ?_ fun _ => rfl)
    rintro rfl
    rfl

end Sys2Proof.Machine

namespace Sys2Proof

open Machine

/-- Settles O23: the four forms of CSRX by `csrxForm_outcomes`, and the register that each one leaves by `csr_csrWriteX`. -/
theorem otherRegisters : Obligations.OtherRegisters := by
  intro s k d a b n7 die n m hcur ha hb hm hne ht hok th still old all
  refine ⟨fun x hx hi => ?_, fun hs v j => ?_⟩
  · have hstill : still ↔ s.reachable th = true := (s.reachable_iff th).symm
    have outcomes : ∀ {i : Instr} {b' : BitVec 4} {op : CsrOp} {v : State}, s.Issues (sysWord 2 (some rightDebug)) i k →
        s.pois b' = false → exec i s = csrxForm i k d a b' n7 op s →
        (if op = .read then s else s.csrWriteX th n7.toNat (op.new old (s.reg b'))) = v →
        (¬still → Traps i s k 0x0205 (some (s.reg a)) none) ∧ (still → Returns i s v k d old) := by
      rintro i b' op v hi hb' he rfl
      obtain ⟨htrap, hret⟩ := csrxForm_outcomes hcur ha hb' hm hne ht hok hi he
      exact ⟨fun h => htrap (by rwa [hstill, Bool.not_eq_true] at h), fun h => hret (hstill.1 h)⟩
    simp only [all, List.mem_cons, List.not_mem_nil, or_false] at hx
    rcases hx with rfl | rfl | rfl | rfl
    · exact outcomes hi (b' := 0#4) rfl (show _ = execCsrx k d a b n7 s from rfl) rfl
    · exact outcomes hi hb (show _ = execCsrxW k d a b n7 s from rfl) rfl
    · exact outcomes hi hb (show _ = execCsrxS k d a b n7 s from rfl) rfl
    · exact outcomes hi hb (show _ = execCsrxC k d a b n7 s from rfl) rfl
  · rw [csr_csrWriteX hs]
    split <;> rename_i hj
    · subst hj
      generalize n7.toNat = r
      match r with
      | 0 | 1 | 2 | 3 | 4 | 5 | 6 | 7 | 8 | 9 => rfl
      | r + 10 => rfl
    · rfl

end Sys2Proof
end

section
/-! SUPPORT. InvalidationWords: S1INV, S2INV and WINSET, what they remove and what they wait for (R330, R333, R344, R345). -/

namespace Sys2Proof.Machine

/-! ## An invalidation -/

/-- The request number from which an invalidation counts: that of its first execution. -/
def State.invSince (s : State) : Nat := if s.me.reply.isEmpty then s.nextReq else natOfBytes (s.me.reply.take 8)

/-- The time of its first execution. -/
def State.invClock (s : State) : Word := if s.me.reply.isEmpty then s.tsc else wordOf8 (s.me.reply.drop 8)

/-- The state once the entries are removed, which the first execution does. -/
def State.invNow (s : State) (go : State → State) : State := if s.me.reply.isEmpty then go s else s

/-- From s, with the entries removed in x, an invalidation waits until nothing that passed them is in flight, and completes in y. -/
def InvEnds (i : Instr) (k : Tok) (s x y : State) (hit : Option Nat × Option Nat → Bool) (later : Bool) : Prop :=
  let busy := x.inFlight hit s.invSince s.invClock || (later && x.inFlight hit x.nextReq x.tsc)
  (busy = false → exec i s = .next (y.complete k 1)) ∧
    (busy = true → s.me.reply = [] → exec i s =
      .next ((x.addReply (bytesOfNat 8 s.invSince ++ bytesOf8 s.invClock) false).updMe (fun st =>
        { st.parkOn .fence x.tsc with begun := true }))) ∧
    (busy = true → ¬s.me.reply = [] → exec i s = .next (x.updMe (fun st => { st.parkOn .fence x.tsc with begun := true })))

section Invalidate

variable {i : Instr} {k : Tok} {s : State} {hit : Option Nat × Option Nat → Bool} {go : State → State}

theorem State.invNow_of_first (h : s.me.reply = []) : s.invNow go = go s := by rw [State.invNow, h]; rfl

theorem State.invNow_of_later (h : ¬s.me.reply = []) : s.invNow go = s := by
  rw [State.invNow, if_neg (by rwa [List.isEmpty_iff])]

theorem State.addReply_tsc (s : State) (bs : List Byte) (p : Bool) : (s.addReply bs p).tsc = s.tsc := State.updMe_tsc ..

theorem RunsAs.invEnds {roots : Option (State → State)} (h : RunsAs i s k (invalidate s hit go roots))
    (hgo : (go s).me = s.me) :
    InvEnds i k s (s.invNow go) (roots.elim (s.invNow go) (fun f => go (f (s.invNow go)))) hit roots.isSome := by
  have hreply : (s.invNow go).me.reply = s.me.reply := by
    unfold State.invNow
    split
    · rw [hgo]
    · rfl
  have hinv : invalidate s hit go roots =
      if (s.invNow go).inFlight hit s.invSince s.invClock ||
        (roots.isSome && (s.invNow go).inFlight hit (s.invNow go).nextReq (s.invNow go).tsc) then
        .wait (if s.me.reply.isEmpty then
            (s.invNow go).addReply (bytesOfNat 8 s.invSince ++ bytesOf8 s.invClock) false
          else s.invNow go) .fence
      else .done (roots.elim (s.invNow go) (fun f => go (f (s.invNow go)))) := by
    rw [← hreply]
    cases roots <;> rfl
  rw [hinv] at h
  refine ⟨fun hb => ?_, fun hb hf => ?_, fun hb hf => ?_⟩
  · rw [if_neg (Bool.eq_false_iff.1 hb)] at h
    exact h.next_of_done
  · rw [if_pos hb, if_pos (List.isEmpty_iff.2 hf)] at h
    have hwait := h.next_of_wait
    rwa [State.addReply_tsc] at hwait
  · rw [if_pos hb, if_neg (by rwa [List.isEmpty_iff])] at h
    exact h.next_of_wait

/-- An invalidation with no root that changes. -/
theorem RunsAs.invEnds_none (h : RunsAs i s k (invalidate s hit go none)) (hgo : (go s).me = s.me) :
    InvEnds i k s (s.invNow go) (s.invNow go) hit false := h.invEnds hgo

/-- One that brings new roots into force when it ends. -/
theorem RunsAs.invEnds_some {f : State → State} (h : RunsAs i s k (invalidate s hit go (some f))) (hgo : (go s).me = s.me) :
    InvEnds i k s (s.invNow go) (go (f (s.invNow go))) hit true := h.invEnds hgo

end Invalidate

/-! ## Kept translations that go -/

/-- Two states of which the second keeps those translations and table entries of the first that are not named. -/
def Drops (e : TlbEntry → Bool) (g : WalkCached → Bool) (x y : State) : Prop :=
  y.tlb = x.tlb.filter (fun z => !e z) ∧ y.walkCache = x.walkCache.filter (fun z => !g z)

/-- The state without some translations and table entries. -/
def State.drop (s : State) (e : TlbEntry → Bool) (g : WalkCached → Bool) : State := (s.dropTlb e).dropCached g

theorem State.drop_drops (s : State) (e : TlbEntry → Bool) (g : WalkCached → Bool) : Drops e g s (s.drop e g) := ⟨rfl, rfl⟩

theorem State.drop_me (s : State) (e : TlbEntry → Bool) (g : WalkCached → Bool) : (s.drop e g).me = s.me := rfl

theorem State.drop_leaves (s : State) (e : TlbEntry → Bool) (g : WalkCached → Bool) :
    (s.drop e g).mem = s.mem ∧ (s.drop e g).coaches = s.coaches ∧ (s.drop e g).windows = s.windows := ⟨rfl, rfl, rfl⟩

/-- Only the translations and table entries that are named go, and only at the first execution. -/
theorem State.invNow_drop (s : State) (e : TlbEntry → Bool) (g : WalkCached → Bool) :
    s.invNow (fun x => x.drop e g) =
        { s with tlb := (s.invNow (fun x => x.drop e g)).tlb, walkCache := (s.invNow (fun x => x.drop e g)).walkCache } ∧
      (s.me.reply = [] → Drops e g s (s.invNow (fun x => x.drop e g))) ∧
      (¬s.me.reply = [] → s.invNow (fun x => x.drop e g) = s) := by
  refine ⟨?_, fun h => ?_, State.invNow_of_later⟩
  · unfold State.invNow
    split <;> rfl
  · rw [State.invNow_of_first h]
    exact s.drop_drops e g

/-! ## Roots (R330) -/

theorem SMap.get_foldl_put {α : Type} [DecidableEq α] (d : Nat → α) (g : Nat → α) (l : List Nat) (m : SMap α) (j : Nat) :
    SMap.get d (l.foldl (fun m k => SMap.put d m k (g k)) m) j = if j ∈ l then g j else SMap.get d m j := by
  induction l generalizing m with
  | nil => rfl
  | cons k l ih =>
    rw [List.foldl_cons, ih, SMap.get_put]
    by_cases hj : j = k <;> by_cases hl : j ∈ l <;> simp [hj, hl]

/-- Roots come into force, below a number of them. -/
theorem SMap.get_loadRoots (n m : Nat) (p : Nat → Bool) (g : Nat → Word) (r : SMap Word) {j : Nat} (hj : j < n) :
    SMap.get zeroWord (((List.range n).filter (fun k => p (k % m))).foldl (fun r k => SMap.put zeroWord r k (g k)) r) j =
      if p (j % m) = true then g j else SMap.get zeroWord r j := by
  rw [SMap.get_foldl_put]
  simp [hj]

/-- A root that is in force needs no loading. -/
theorem eq_root_of_not_new {n m : Nat} {p : Nat → Bool} {g r : Nat → Word}
    (h : (List.range n).any (fun k => p (k % m) && r k != g k) = false) {j : Nat} (hj : j < n) (hp : p (j % m) = true) :
    r j = g j := by
  have := List.any_eq_false.1 h j (List.mem_range.2 hj)
  simpa [hp] using this

/-! ## S1INV and S2INV (R330, R344) -/

/-- What the roots of slices in force come to: those of the slices named, when they are new. -/
def State.withRoots1 (s : State) (p : Nat → Bool) (mine : TlbEntry → Bool) (led : WalkCached → Bool) (later : Bool) : State :=
  if later then (s.loadRoots1 p).drop mine led else s

/-- The same of domains. -/
def State.withRoots2 (s : State) (p : Nat → Bool) (mine : TlbEntry → Bool) (led : WalkCached → Bool) (later : Bool) : State :=
  if later then (s.loadRoots2 p).drop mine led else s

section

variable (x : State) (p : Nat → Bool) (mine : TlbEntry → Bool) (led : WalkCached → Bool) (later : Bool)

/-- With new roots the entries that walks have kept by the old ones go too. -/
theorem State.withRoots1_leaves :
    (later = false → x.withRoots1 p mine led later = x) ∧ (later = true → Drops mine led x (x.withRoots1 p mine led later) ∧
      x.withRoots1 p mine led later = { x with
        tlb := (x.withRoots1 p mine led later).tlb, walkCache := (x.withRoots1 p mine led later).walkCache,
        root1 := (x.withRoots1 p mine led later).root1 }) := by
  refine ⟨?_, ?_⟩
  · rintro rfl
    rfl
  · rintro rfl
    rw [State.withRoots1, if_pos rfl]
    exact ⟨⟨rfl, rfl⟩, rfl⟩

theorem State.withRoots2_leaves :
    (later = false → x.withRoots2 p mine led later = x) ∧ (later = true → Drops mine led x (x.withRoots2 p mine led later) ∧
      x.withRoots2 p mine led later = { x with
        tlb := (x.withRoots2 p mine led later).tlb, walkCache := (x.withRoots2 p mine led later).walkCache,
        root2 := (x.withRoots2 p mine led later).root2 }) := by
  refine ⟨?_, ?_⟩
  · rintro rfl
    rfl
  · rintro rfl
    rw [State.withRoots2, if_pos rfl]
    exact ⟨⟨rfl, rfl⟩, rfl⟩

end

section Sets

variable {i : Instr} {k : Tok} {s : State} {p : Nat → Bool} {at_ : Option Nat}

/-- The translations and the table entries that S1INV over a set of slices removes. -/
def s1Mine (p : Nat → Bool) (at_ : Option Nat) (z : TlbEntry) : Bool :=
  p z.slice && at_.all (fun a => a / z.size1 == z.tva * 4096 / z.size1)

def s1Led (p : Nat → Bool) (at_ : Option Nat) (z : WalkCached) : Bool := !z.stage2 && p z.slice && at_.all z.covers

/-- Those that S2INV over a set of domains removes. -/
def s2Mine (p : Nat → Bool) (at_ : Option Nat) (z : TlbEntry) : Bool :=
  p z.domain && at_.all (fun a => a / z.size2 == z.spa * 4096 / z.size2)

def s2Led (p : Nat → Bool) (at_ : Option Nat) (z : WalkCached) : Bool := p z.domain && (!z.stage2 || at_.all z.covers)

theorem RunsAs.s1invSet (h : RunsAs i s k (s1invSet s p at_)) :
    let x := s.invNow (fun x => x.drop (s1Mine p at_) (s1Led p at_))
    let later := at_.isNone && s.rootsNew1 p
    InvEnds i k s x (x.withRoots1 p (s1Mine p at_) (s1Led p at_) later) (fun z => (z.1.map p).getD false) later := by
  intro x later
  have hinv : RunsAs i s k (invalidate s (fun z => (z.1.map p).getD false) (fun x => x.drop (s1Mine p at_) (s1Led p at_))
      (if later then some (fun s => s.loadRoots1 p) else none)) := h
  cases hl : later with
  | false =>
    rw [hl] at hinv
    exact hinv.invEnds_none (State.drop_me ..)
  | true =>
    rw [hl] at hinv
    exact hinv.invEnds_some (State.drop_me ..)

theorem RunsAs.s2invSet (h : RunsAs i s k (s2invSet s p at_)) :
    let x := s.invNow (fun x => x.drop (s2Mine p at_) (s2Led p at_))
    let later := at_.isNone && s.rootsNew2 p
    InvEnds i k s x (x.withRoots2 p (s2Mine p at_) (s2Led p at_) later) (fun z => (z.2.map p).getD false) later := by
  intro x later
  have hinv : RunsAs i s k (invalidate s (fun z => (z.2.map p).getD false) (fun x => x.drop (s2Mine p at_) (s2Led p at_))
      (if later then some (fun s => s.loadRoots2 p) else none)) := h
  cases hl : later with
  | false =>
    rw [hl] at hinv
    exact hinv.invEnds_none (State.drop_me ..)
  | true =>
    rw [hl] at hinv
    exact hinv.invEnds_some (State.drop_me ..)

end Sets

section Roots

variable (s : State) (p : Nat → Bool) (mine : TlbEntry → Bool) (led : WalkCached → Bool) (whole : Bool)

/-- The roots that are in force at the end of S1INV. -/
theorem State.withRoots1_root1 {j : Nat} (hj : j < 256) :
    SMap.get zeroWord ((s.invNow (fun x => x.drop mine led)).withRoots1 p mine led (whole && s.rootsNew1 p)).root1 j =
      if whole = true ∧ p (j % 64) = true then s.sliceRoot (j / 64) (j % 64) else SMap.get zeroWord s.root1 j := by
  have hx : ∀ b, SMap.get zeroWord ((s.invNow (fun x => x.drop mine led)).withRoots1 p mine led b).root1 j =
      SMap.get zeroWord (if b then (s.loadRoots1 p).root1 else s.root1) j := by
    intro b
    rw [(s.invNow_drop mine led).1]
    cases b <;> rfl
  rw [hx]
  cases hw : whole with
  | false => simp
  | true =>
    cases hn : s.rootsNew1 p with
    | true =>
      simp only [Bool.and_self, if_true, true_and]
      exact SMap.get_loadRoots 256 64 p (fun k => s.sliceRoot (k / 64) (k % 64)) s.root1 hj
    | false =>
      simp only [Bool.and_false, Bool.false_eq_true, if_false, true_and]
      split <;> rename_i hp
      · exact eq_root_of_not_new hn hj hp
      · rfl

theorem State.withRoots2_root2 {j : Nat} (hj : j < 64) :
    SMap.get zeroWord ((s.invNow (fun x => x.drop mine led)).withRoots2 p mine led (whole && s.rootsNew2 p)).root2 j =
      if whole = true ∧ p (j % 16) = true then s.domainRoot (j / 16) (j % 16) else SMap.get zeroWord s.root2 j := by
  have hx : ∀ b, SMap.get zeroWord ((s.invNow (fun x => x.drop mine led)).withRoots2 p mine led b).root2 j =
      SMap.get zeroWord (if b then (s.loadRoots2 p).root2 else s.root2) j := by
    intro b
    rw [(s.invNow_drop mine led).1]
    cases b <;> rfl
  rw [hx]
  cases hw : whole with
  | false => simp
  | true =>
    cases hn : s.rootsNew2 p with
    | true =>
      simp only [Bool.and_self, if_true, true_and]
      exact SMap.get_loadRoots 64 16 p (fun k => s.domainRoot (k / 16) (k % 16)) s.root2 hj
    | false =>
      simp only [Bool.and_false, Bool.false_eq_true, if_false, true_and]
      split <;> rename_i hp
      · exact eq_root_of_not_new hn hj hp
      · rfl

end Roots

/-! ## WINSET (R333, R345) -/

/-- A domain's window with its words from PM, and its valid bit in the domain's control block. -/
def State.setWindow (s : State) (dom j : Nat) (w : Word × Word) : State :=
  { s with windows := SMap.put (fun _ => (0#64, 0#64)) s.windows (dom * 64 + j) w }.pmSetBitsAll (domainBlock dom + 32) j j
    (flagNat (bit w.1 63))

theorem State.pmSetBitsAll_pmOnly (s : State) (a hi lo v : Nat) : PmOnly s (s.pmSetBitsAll a hi lo v) :=
  List.foldlRecOn (motive := PmOnly s) _ _ (.refl s) (fun u hu d _ => hu.trans (u.pmSetWord_pmOnly d a _))

theorem PmOnly.me {s t : State} (h : PmOnly s t) : t.me = s.me := by
  have hcur : t.cur = s.cur := by rw [h.1]
  have hcoaches : t.coaches = s.coaches := by rw [h.1]
  rw [State.me, State.me, hcur]
  cases s.cur with
  | coach q p => rw [State.strand?, State.strand?, State.coach?, State.coach?, hcoaches]
  | dray d k => rw [State.strand?, State.strand?, State.drayStrand, State.drayStrand, h.2]

section Window

variable (s : State) (dom j : Nat) (w : Word × Word)

/-- Beside the windows, PM alone differs. -/
theorem State.setWindow_pmOnly :
    PmOnly { s with windows := SMap.put (fun _ => (0#64, 0#64)) s.windows (dom * 64 + j) w } (s.setWindow dom j w) :=
  State.pmSetBitsAll_pmOnly ..

theorem State.setWindow_me : (s.setWindow dom j w).me = s.me := (s.setWindow_pmOnly dom j w).me

theorem State.setWindow_leaves : (s.setWindow dom j w).mem = s.mem ∧ (s.setWindow dom j w).coaches = s.coaches ∧
    (s.setWindow dom j w).tlb = s.tlb ∧ (s.setWindow dom j w).walkCache = s.walkCache := by
  rw [(s.setWindow_pmOnly dom j w).1]
  exact ⟨rfl, rfl, rfl, rfl⟩

theorem State.setWindow_windows (y : Nat) : SMap.get (fun _ => (0#64, 0#64)) (s.setWindow dom j w).windows y =
    if y = 64 * dom + j then w else SMap.get (fun _ => (0#64, 0#64)) s.windows y := by
  rw [(s.setWindow_pmOnly dom j w).1, Nat.mul_comm 64]
  exact SMap.get_put ..

variable {i : Instr} {k : Tok} {s dom j w} {hit : Option Nat × Option Nat → Bool} {e : TlbEntry → Bool} {g : WalkCached → Bool}

/-- WINSET waits for what passed the domain's windows, and its window stands in its domain's table from the first execution on. -/
theorem RunsAs.winset (h : RunsAs i s k (invalidate s hit (fun x => (x.setWindow dom j w).drop e g) none)) :
    ∃ x, InvEnds i k s x x hit false ∧ (¬s.me.reply = [] → x = s) ∧
      (s.me.reply = [] → Drops e g s x ∧ x.mem = s.mem ∧ x.coaches = s.coaches ∧
        ∀ y, SMap.get (fun _ => (0#64, 0#64)) x.windows y =
          if y = 64 * dom + j then w else SMap.get (fun _ => (0#64, 0#64)) s.windows y) := by
  have hme : ((s.setWindow dom j w).drop e g).me = s.me := (State.drop_me _ e g).trans (s.setWindow_me dom j w)
  obtain ⟨hmem, hcoaches, htlb, hcache⟩ := s.setWindow_leaves dom j w
  have hends := h.invEnds_none hme
  refine ⟨_, hends, fun hf => State.invNow_of_later hf, fun hf => ?_⟩
  rw [State.invNow_of_first hf]
  have hdrops := (s.setWindow dom j w).drop_drops e g
  rw [Drops, htlb, hcache] at hdrops
  obtain ⟨dmem, dcoaches, dwindows⟩ := (s.setWindow dom j w).drop_leaves e g
  have hwindows := s.setWindow_windows dom j w
  rw [← dwindows] at hwindows
  exact ⟨hdrops, dmem.trans hmem, dcoaches.trans hcoaches, hwindows⟩

end Window

/-- The body of WINSET. -/
theorem winset_runsAs {k : Tok} {s : State} {a b : BitVec 4} {die n : Nat} (hcur : s.cur = .dray die n)
    (ha : s.pois a = false) (hb : s.pois b = false) (hi : s.Issues (sysWord 0 none) (.winset k a b) k) :
    RunsAs (.winset k a b) s k
      (if bits (s.reg a) 63 12 ≠ 0 ∨ bits (s.reg a) 7 6 ≠ 0 then badOperand s (s.reg a)
      else if (s.reg b).toNat % 16 ≠ 0 ∨ 0x40000 ≤ (s.reg b).toNat then badOperand s (s.reg b)
      else if windowWf (s.pmWord die (s.reg b).toNat) (s.pmWord die ((s.reg b).toNat + 8)) = false then badOperand s (s.reg b)
      else invalidate s (fun x => x.2 == some (bits (s.reg a) 11 8))
        (fun x => (x.setWindow (bits (s.reg a) 11 8) (bits (s.reg a) 5 0)
          (s.pmWord die (s.reg b).toNat, s.pmWord die ((s.reg b).toNat + 8))).drop
            (fun e => e.domain == bits (s.reg a) 11 8) (fun e => e.domain == bits (s.reg a) 11 8)) none) :=
  runsAs_of_sysForm hcur ha hb hi (show _ = execWinset k a b s from rfl)

end Sys2Proof.Machine

namespace Sys2Proof

open Machine

/-- Settles O28: S1INV by `RunsAs.s1invSet`, S2INV by `RunsAs.s2invSet`, and WINSET by `winset_runsAs`. -/
theorem invalidations : Obligations.Invalidations := by
  intro s k a b die n hcur ha hb c va vb first since clock ends drops removed slices domains bySlice byDomain all every leads
  have hslices : ∀ {i : Instr} {p : Nat → Bool} {at_ : Option Nat}, RunsAs i s k (s1invSet s p at_) →
      slices i p at_.isNone (fun z => at_.all (fun a => a / z.size1 == z.tva * 4096 / z.size1)) (fun z => at_.all z.covers) := by
    intro i p at_ h
    obtain ⟨hold, hnew⟩ := (s.invNow (fun x => x.drop (s1Mine p at_) (s1Led p at_))).withRoots1_leaves p (s1Mine p at_)
      (s1Led p at_) (at_.isNone && s.rootsNew1 p)
    exact ⟨_, _, h.s1invSet, s.invNow_drop _ _, hold, hnew, fun j hj => s.withRoots1_root1 p _ _ _ hj⟩
  have hdomains : ∀ {i : Instr} {p : Nat → Bool} {at_ : Option Nat}, RunsAs i s k (s2invSet s p at_) →
      domains i p at_.isNone (fun z => at_.all (fun a => a / z.size2 == z.spa * 4096 / z.size2)) (fun z => at_.all z.covers) := by
    intro i p at_ h
    obtain ⟨hold, hnew⟩ := (s.invNow (fun x => x.drop (s2Mine p at_) (s2Led p at_))).withRoots2_leaves p (s2Mine p at_)
      (s2Led p at_) (at_.isNone && s.rootsNew2 p)
    exact ⟨_, _, h.s2invSet, s.invNow_drop _ _, hold, hnew, fun j hj => s.withRoots2_root2 p _ _ _ hj⟩
  have hbySlice : ∀ {i : Instr} {v : Word} {f : Nat → Res} {does : Prop}, RunsAs i s k (withSlice s i c v f) →
      (RunsAs i s k (f v.toNat) → does) → bySlice i v does := by
    intro i v f does h hdoes
    refine ⟨fun hv => ?_, fun hv ho => ?_, fun hv ho => ?_⟩
    · rw [withSlice_of_large hv] at h
      exact h.traps_of_badOperand hcur
    · rw [withSlice_of_foreign hv ho] at h
      exact h.denies_of_rightsRes hcur
    · rw [withSlice_of_own hv ho] at h
      exact hdoes h
  have hbyDomain : ∀ {i : Instr} {v : Word} {f : Nat → Res} {does : Prop}, RunsAs i s k (withDomain s i c v f) →
      (RunsAs i s k (f v.toNat) → does) → byDomain i v does := by
    intro i v f does h hdoes
    refine ⟨fun hv => ?_, fun hv ho => ?_, fun hv ho => ?_⟩
    · rw [withDomain_of_large hv] at h
      exact h.traps_of_badOperand hcur
    · rw [withDomain_of_foreign hv ho] at h
      exact h.denies_of_rightsRes hcur
    · rw [withDomain_of_own hv ho] at h
      exact hdoes h
  refine ⟨fun hi => ?_, fun hi => ?_, fun hi => ?_, fun hi => ?_, fun hi => ?_, fun hi => ?_, fun hi => ?_⟩
  · exact hslices (runsAs_of_sysForm hcur rfl rfl hi (show _ = execS1inv k s from rfl))
  · exact hbySlice (runsAs_of_sysForm hcur ha hb hi (show _ = execS1invPage k a b s from rfl)) hslices
  · exact hbySlice (runsAs_of_sysForm hcur hb rfl hi (show _ = execS1invSlice k b s from rfl)) hslices
  · exact hdomains (runsAs_of_sysForm hcur rfl rfl hi (show _ = execS2inv k s from rfl))
  · exact hbyDomain (runsAs_of_sysForm hcur ha hb hi (show _ = execS2invPage k a b s from rfl)) hdomains
  · exact hbyDomain (runsAs_of_sysForm hcur hb rfl hi (show _ = execS2invDomain k b s from rfl)) hdomains
  · have hx := winset_runsAs hcur ha hb hi
    refine ⟨fun hA => ?_, fun hA hB => ?_, fun hA hB => ?_⟩
    · rw [if_pos hA] at hx
      exact hx.traps_of_badOperand hcur
    · rw [if_neg hA] at hx
      refine RunsAs.traps_of_badOperand hcur ?_
      by_cases hplace : vb.toNat % 16 ≠ 0 ∨ 0x40000 ≤ vb.toNat
      · rwa [if_pos hplace] at hx
      · rw [if_neg hplace, if_pos (by tauto)] at hx
        exact hx
    · rw [if_neg hA, if_neg (by tauto), if_neg (by tauto)] at hx
      exact hx.winset

end Sys2Proof
end

section
/-! SUPPORT. DeliveryRecords: the delivery of a fault record into an agent's ring, records that wait for room, and the first fault of
a strand 0 (R338, R341, R452). -/

namespace Sys2Proof.Machine

/-! ## Bytes of PM (R266) -/

theorem State.pmBytes_length (s : State) (d a n : Nat) : (s.pmBytes d a n).length = n := SMap.getAll_length ..

theorem State.pmBytes_getElem (s : State) (d a : Nat) {n i : Nat} (h : i < (s.pmBytes d a n).length) :
    (s.pmBytes d a n)[i] = s.pmByte d (a + i) := by
  rw [← List.getD_eq_getElem _ 0#8 h]
  exact SMap.getAll_getD _ _ _ _ _ (by rwa [State.pmBytes_length] at h) _

theorem State.pmBytes_pmPut_self (s : State) (d a : Nat) (bs : List Byte) : (s.pmPut d a bs).pmBytes d a bs.length = bs := by
  refine List.ext_getElem (State.pmBytes_length ..) (fun i h1 h2 => ?_)
  rw [State.pmBytes_getElem, State.pmPut_pmByte, if_pos ⟨rfl, Nat.le_add_right a i⟩, Nat.add_sub_cancel_left,
    List.getElem?_eq_getElem h2]
  rfl

theorem State.pmBytes_congr {s t : State} {d a n : Nat} (h : ∀ i, i < n → t.pmByte d (a + i) = s.pmByte d (a + i)) :
    t.pmBytes d a n = s.pmBytes d a n := by
  refine List.ext_getElem ((State.pmBytes_length ..).trans (State.pmBytes_length ..).symm) (fun i h1 h2 => ?_)
  rw [State.pmBytes_getElem, State.pmBytes_getElem]
  exact h i (by rwa [State.pmBytes_length] at h1)

/-- A doubleword behind some bytes leaves them. -/
theorem State.pmBytes_pmSetWord_of_le (s : State) (d : Nat) {a n b : Nat} (w : Word) (h : a + n ≤ b) :
    (s.pmSetWord d b w).pmBytes d a n = s.pmBytes d a n :=
  State.pmBytes_congr (fun i hi => by rw [State.pmSetWord_pmByte, if_neg (by omega)])

theorem FaultRec.bytes_length (r : FaultRec) : r.bytes.length = 32 := rfl

/-! ## What a delivered record leaves (R338, R341) -/

/-- Marking the handling level of a record's thread or queue changes coaches and Dray strands only, and of these no latch. -/
theorem State.setHandled_leaves (s : State) (r : FaultRec) (level : Nat) :
    s.setHandled r level = { s with coaches := (s.setHandled r level).coaches, dies := (s.setHandled r level).dies } ∧
      (∀ d, ((s.setHandled r level).die d).pm = (s.die d).pm) ∧
      ∀ d k, ((s.setHandled r level).drayStrand d k).th.latch = (s.drayStrand d k).th.latch := by
  unfold State.setHandled
  split
  · split
    · exact ⟨rfl, fun _ => rfl, fun _ _ => rfl⟩
    · exact ⟨rfl, fun _ => rfl, fun _ _ => rfl⟩
  · refine ⟨rfl, fun e => ?_, fun e j => ?_⟩
    · rw [State.updStrand, State.die_updDray]
    · rw [State.updStrand, State.drayStrand_updDray]
      split <;> rename_i h
      · rw [h.1, h.2]
        split <;> rfl
      · rfl
  · exact ⟨rfl, fun _ => rfl, fun _ _ => rfl⟩

/-- A thread of a coach that a record has stopped may be resumed from the record's level. -/
theorem State.setHandled_strand? {s : State} {r : FaultRec} {q n : Nat} {st : Strand} (level : Nat)
    (hm : masterOf (r.handle.setWidth 64) = some (.coach q n)) (hq : queueOf n = none)
    (hs : s.strand? (.coach q n) = some st) (hrun : st.run = .stopped 3) :
    (s.setHandled r level).strand? (.coach q n) = some { st with run := .stopped level } := by
  simp only [State.setHandled, hm, hq]
  rw [State.strand?_updStrand, if_pos rfl, hs, Option.map_some, if_pos hrun]

/-! ## The ring of an agent strand (R338) -/

/-- A record in the ring of a strand: its bytes, the new count, and event 2. -/
structure InRing (s t : State) (d k : Nat) (r : FaultRec) : Prop where
  mem    : t.mem = s.mem
  faults : t.faults = s.faults
  bytes  : t.pmBytes d (s.strandDbase d k + 32 * ((s.pmWord d (s.strandDbase d k + 0x800)).toNat % 64)) 32 = r.bytes
  prod   : t.pmWord d (s.strandDbase d k + 0x800) = s.pmWord d (s.strandDbase d k + 0x800) + 1#64
  latch  : (t.drayStrand d k).th.latch.getLsbD 2 = true
  thread : ∀ q n, t.strand? (.coach q n) = s.strand? (.coach q n)

theorem State.pmBytes_of_pm {s t : State} {d : Nat} (h : (t.die d).pm = (s.die d).pm) (a n : Nat) :
    t.pmBytes d a n = s.pmBytes d a n := by
  rw [State.pmBytes, State.pmBytes, h]

/-- A strand's latch is no byte of PM. -/
theorem State.latchStrand_pm (s : State) (d k e : Nat) : ((s.latchStrand d k).die e).pm = (s.die e).pm := by
  rw [State.latchStrand, State.die_updDray]

theorem State.latchStrand_latch (s : State) (d k : Nat) : ((s.latchStrand d k).drayStrand d k).th.latch.getLsbD 2 = true := by
  rw [State.latchStrand, State.drayStrand_updDray, if_pos ⟨rfl, rfl⟩]
  simp

section Ring

variable {s : State} {d k : Nat} (r : FaultRec)

theorem State.toStrand_of_full (h : s.ringFits d k = false ∨
    s.pmWord d (s.strandDbase d k + 0x800) - s.pmWord d (s.strandDbase d k + 0x808) = 64#64) : s.toStrand d k r = .wait := by
  unfold State.toStrand
  by_cases hfit : s.ringFits d k = false
  · rw [if_pos hfit]
  · rw [if_neg hfit]
    exact if_pos (h.resolve_left hfit)

/-- A strand's ring with one record more. -/
def State.ringPut (s : State) (d k : Nat) (r : FaultRec) : State :=
  let base := s.strandDbase d k
  let prod := s.pmWord d (base + 0x800)
  ((s.pmPut d (base + 32 * (prod.toNat % 64)) r.bytes).pmSetWord d (base + 0x800) (prod + 1#64)).latchStrand d k

theorem State.toStrand_of_room (hfit : s.ringFits d k = true)
    (hroom : s.pmWord d (s.strandDbase d k + 0x800) - s.pmWord d (s.strandDbase d k + 0x808) ≠ 64#64) :
    s.toStrand d k r = .done (s.ringPut d k r) := by
  unfold State.toStrand
  rw [if_neg (Bool.eq_false_iff.not.2 (not_not.2 hfit))]
  exact if_neg hroom

theorem State.ringPut_pmBytes (s : State) (d k : Nat) (r : FaultRec) : (s.ringPut d k r).pmBytes d
    (s.strandDbase d k + 32 * ((s.pmWord d (s.strandDbase d k + 0x800)).toNat % 64)) 32 = r.bytes := by
  have hself := s.pmBytes_pmPut_self d
    (s.strandDbase d k + 32 * ((s.pmWord d (s.strandDbase d k + 0x800)).toNat % 64)) r.bytes
  rw [r.bytes_length] at hself
  rw [State.ringPut, State.pmBytes_of_pm (State.latchStrand_pm ..), State.pmBytes_pmSetWord_of_le _ _ _ (by omega)]
  exact hself

theorem State.ringPut_prod (s : State) (d k : Nat) (r : FaultRec) :
    (s.ringPut d k r).pmWord d (s.strandDbase d k + 0x800) = s.pmWord d (s.strandDbase d k + 0x800) + 1#64 := by
  rw [State.ringPut, State.pmWord_of_pm (State.latchStrand_pm ..), State.pmWord_pmSetWord_self]

theorem State.ringPut_latch (s : State) (d k : Nat) (r : FaultRec) :
    ((s.ringPut d k r).drayStrand d k).th.latch.getLsbD 2 = true := by
  rw [State.ringPut]
  exact State.latchStrand_latch ..

theorem DiesOnly.leaves {s t : State} (h : DiesOnly s t) :
    t.mem = s.mem ∧ t.faults = s.faults ∧ ∀ q n, t.strand? (.coach q n) = s.strand? (.coach q n) := by
  have hcoaches : t.coaches = s.coaches := by rw [h]
  refine ⟨by rw [h], by rw [h], fun q n => ?_⟩
  rw [State.strand?, State.strand?, State.coach?, State.coach?, hcoaches]

theorem State.pmPut_diesOnly (s : State) (d a : Nat) (bs : List Byte) : DiesOnly s (s.pmPut d a bs) := rfl

theorem State.latchStrand_diesOnly (s : State) (d k : Nat) : DiesOnly s (s.latchStrand d k) := rfl

theorem State.ringPut_diesOnly (s : State) (d k : Nat) (r : FaultRec) : DiesOnly s (s.ringPut d k r) := by
  rw [State.ringPut]
  exact ((State.pmPut_diesOnly ..).trans (State.pmPut_diesOnly ..)).trans (State.latchStrand_diesOnly ..)

theorem State.ringPut_inRing (s : State) (d k : Nat) (r : FaultRec) : InRing s (s.ringPut d k r) d k r := by
  obtain ⟨hmem, hfaults, hthread⟩ := (s.ringPut_diesOnly d k r).leaves
  exact ⟨hmem, hfaults, s.ringPut_pmBytes d k r, s.ringPut_prod d k r, s.ringPut_latch d k r, hthread⟩

end Ring

/-! ## The delivery (R337, R338) -/

section Deliver

variable {s : State} {p : PendingRec}

/-- Where a record for a level goes: the key of the entry that delivers it, 81 for strand 0 of its die. -/
def State.ringOf (s : State) (p : PendingRec) : Nat :=
  if s.routeFrom p.die p.body p.level = 81 then p.die * 16
  else s.routeEntry p.die (s.routeFrom p.die p.body p.level) p.body.cls

/-- The die of the ring that a record goes into. -/
def State.ringDie (s : State) (p : PendingRec) : Nat :=
  if s.routeFrom p.die p.body p.level = 81 then p.die else s.ringOf p / 16 % 4

/-- The level of the strand that a record goes to. -/
def State.ringLevel (s : State) (p : PendingRec) : Nat :=
  if s.routeFrom p.die p.body p.level = 81 then 0 else keyLevel (s.routeFrom p.die p.body p.level)

variable (hlevel : p.level ≤ 80) (hinfo : p.body.info = false) (hcode : p.body.code ≠ 0x0A03#16)
include hlevel hinfo hcode

/-- A record of a fault whose route names a strand goes into its ring, or waits for room there. -/
theorem State.deliver_eq (he : (s.ringOf p).testBit 14 = false) : s.deliver p =
    match s.toStrand (s.ringDie p) (s.ringOf p % 8) p.body with
    | .done t => t.delivered p (s.ringLevel p)
    | .wait => s.holdPending p.id := by
  have hover : s.withOverrun p = p.body := by
    rw [State.withOverrun, if_neg]
    simp only [Bool.and_eq_true, beq_iff_eq, not_and]
    exact fun _ => hcode
  unfold State.deliver
  simp only [hover, hinfo, show p.level ≠ 82 by omega, show p.level ≠ 83 by omega, show p.level ≠ 81 by omega, if_false,
    Bool.false_eq_true]
  unfold State.ringDie State.ringLevel State.ringOf at *
  by_cases hkey : s.routeFrom p.die p.body p.level = 81
  · simp only [hkey, if_true, show p.die * 16 % 8 = 0 by omega] <;> rfl
  · simp only [hkey, if_false] at he ⊢
    rw [State.toEntry, if_neg (Bool.eq_false_iff.1 he)] <;> rfl

/-- A record of a fault whose route names a strand with room goes into its ring. -/
theorem State.deliver_of_room (he : (s.ringOf p).testBit 14 = false)
    (hfit : s.ringFits (s.ringDie p) (s.ringOf p % 8) = true)
    (hroom : s.pmWord (s.ringDie p) (s.strandDbase (s.ringDie p) (s.ringOf p % 8) + 0x800) -
      s.pmWord (s.ringDie p) (s.strandDbase (s.ringDie p) (s.ringOf p % 8) + 0x808) ≠ 64#64) :
    s.deliver p = (s.ringPut (s.ringDie p) (s.ringOf p % 8) p.body).delivered p (s.ringLevel p) := by
  rw [State.deliver_eq hlevel hinfo hcode he, State.toStrand_of_room p.body hfit hroom]

/-- One whose route names a strand without room waits. -/
theorem State.deliver_of_full (he : (s.ringOf p).testBit 14 = false)
    (h : s.ringFits (s.ringDie p) (s.ringOf p % 8) = false ∨
      s.pmWord (s.ringDie p) (s.strandDbase (s.ringDie p) (s.ringOf p % 8) + 0x800) -
        s.pmWord (s.ringDie p) (s.strandDbase (s.ringDie p) (s.ringOf p % 8) + 0x808) = 64#64) :
    s.deliver p = s.holdPending p.id := by
  rw [State.deliver_eq hlevel hinfo hcode he, State.toStrand_of_full p.body h]

end Deliver

/-- A delivered record that is no watchpoint's: it is gone, and its thread has its handling level. -/
theorem State.delivered_eq {p : PendingRec} (hinfo : p.body.info = false) (t : State) (level : Nat)
    (hcode : p.body.code ≠ 0x0A03#16) :
    t.delivered p level = ((t.dropRec p.id).updDie p.die (fun d => d)).setHandled p.body level := by
  have hne : ¬p.body.code = BitVec.ofNat 16 codeWatchRemote := hcode
  simp only [State.delivered, hne, hinfo, if_false, Bool.false_eq_true]

theorem State.updDie_self_die (s : State) (d e : Nat) : (s.updDie d (fun x => x)).die e = s.die e := by
  rw [State.die_updDie]
  split <;> rename_i h
  · rw [h]
  · rfl

/-- What a record leaves that went into a ring and has been delivered. -/
theorem InRing.delivered {s t : State} {d k level : Nat} {p : PendingRec} (h : InRing s t d k p.body)
    (hinfo : p.body.info = false) (hcode : p.body.code ≠ 0x0A03#16) :
    let u := t.delivered p level
    u.mem = s.mem ∧ (∀ x ∈ u.faults, x.id ≠ p.id) ∧
      u.pmBytes d (s.strandDbase d k + 32 * ((s.pmWord d (s.strandDbase d k + 0x800)).toNat % 64)) 32 = p.body.bytes ∧
      u.pmWord d (s.strandDbase d k + 0x800) = s.pmWord d (s.strandDbase d k + 0x800) + 1#64 ∧
      (u.drayStrand d k).th.latch.getLsbD 2 = true ∧
      ∀ q n st, masterOf (p.body.handle.setWidth 64) = some (.coach q n) → queueOf n = none →
        s.strand? (.coach q n) = some st → st.run = .stopped 3 →
        u.strand? (.coach q n) = some { st with run := .stopped level } := by
  intro u
  obtain ⟨hu, hpm, hlatch⟩ := ((t.dropRec p.id).updDie p.die (fun d => d)).setHandled_leaves p.body level
  rw [← State.delivered_eq hinfo t level hcode] at hu hpm hlatch
  have hpm' : (u.die d).pm = (t.die d).pm := by
    rw [hpm, State.updDie_self_die]
    rfl
  refine ⟨?_, ?_, ?_, ?_, ?_, fun q n st hm hq hs hrun => ?_⟩
  · rw [show u = _ from hu]
    exact h.mem
  · rw [show u = _ from hu]
    simp [State.dropRec]
  · rw [State.pmBytes_of_pm hpm']
    exact h.bytes
  · rw [State.pmWord_of_pm hpm']
    exact h.prod
  · rw [hlatch, State.drayStrand, State.updDie_self_die]
    exact h.latch
  · rw [show u = _ from State.delivered_eq hinfo t level hcode]
    exact State.setHandled_strand? level hm hq ((h.thread q n).trans hs) hrun

/-! ## Records that wait, and the first fault of a strand 0 (R338, R452) -/

theorem State.holdPending_leaves (s : State) (id : Nat) :
    s.holdPending id = { s with faults := (s.holdPending id).faults } ∧
      (s.holdPending id).faults.length = s.faults.length ∧ ∀ x ∈ (s.holdPending id).faults, x.id = id → x.waiting = true := by
  refine ⟨rfl, List.length_map .., fun x hx hid => ?_⟩
  obtain ⟨y, -, rfl⟩ := List.mem_map.1 hx
  by_cases hy : y.id = id
  · simp [hy]
  · simp [hy] at hid

theorem State.strand0Fault_leaves {s : State} {p : PendingRec} (h : s.boot.state ≠ 5#4) :
    s.strand0Fault p = { s with boot := (s.strand0Fault p).boot, faults := (s.strand0Fault p).faults } ∧
      (s.strand0Fault p).boot = { s.boot with state := 5#4, fdie := BitVec.ofNat 2 p.die, fcode := p.body.code } ∧
      ∀ x ∈ (s.strand0Fault p).faults, x.id = p.id → x.level = 83 := by
  rw [State.strand0Fault, if_neg h]
  refine ⟨rfl, rfl, fun x hx hid => ?_⟩
  obtain ⟨y, -, rfl⟩ := List.mem_map.1 hx
  by_cases hy : y.id = p.id
  · simp [hy]
  · simp [hy] at hid

/-- Both events deliver the record that they name. -/
theorem exec_delivery {s : State} {id : Nat} {p : PendingRec} {i : Instr}
    (h : (i = .faultDelivery id ∧ s.faults.find? (fun f => f.id == id && !f.waiting) = some p) ∨
      (i = .pendingRecordDelivery id ∧ s.faults.find? (fun f => f.id == id && f.waiting) = some p)) :
    p.id = id ∧ exec i s = .next (s.deliver p) := by
  rcases h with ⟨rfl, hp⟩ | ⟨rfl, hp⟩
  · refine ⟨by have := List.find?_some hp; simp_all, ?_⟩
    show execFaultDelivery id s = _
    rw [execFaultDelivery, hp]
  · refine ⟨by have := List.find?_some hp; simp_all, ?_⟩
    show execPendingRecordDelivery id s = _
    rw [execPendingRecordDelivery, hp]

end Sys2Proof.Machine

namespace Sys2Proof

open Machine

/-- Settles O46: the delivery by `State.deliver_eq`, a record in its ring by `InRing.delivered`, and the others by what they leave. -/
theorem deliveries : Obligations.Deliveries := by
  intro s id p i hi
  obtain ⟨rfl, hexec⟩ := exec_delivery hi
  refine ⟨?_, fun hlevel hboot => ?_⟩
  · intro hlevel hinfo hcode key e d k base prod level he hdie
    refine ⟨fun hfit hroom => ?_, fun hfull => ?_⟩
    · refine ⟨_, hexec.trans (congrArg _ (State.deliver_of_room hlevel hinfo hcode he hfit hroom)), ?_⟩
      exact (s.ringPut_inRing d k p.body).delivered hinfo hcode
    · exact ⟨_, hexec.trans (congrArg _ (State.deliver_of_full hlevel hinfo hcode he hfull)), s.holdPending_leaves p.id⟩
  · refine ⟨s.strand0Fault p, hexec.trans (congrArg _ ?_), State.strand0Fault_leaves hboot⟩
    rw [State.deliver, if_pos hlevel]

end Sys2Proof
end

section
/-! SUPPORT. RightsWords: RIGHTS, its target and the masks that it writes (R346, R347). -/

namespace Sys2Proof.Machine

/-! ## The target of RIGHTS (R347) -/

theorem rightsTarget_eq_some_iff (v : Word) (t : Bool × Nat) : rightsTarget v = some t ↔
    v.toNat = (if t.1 then 256 else 0) + t.2 ∧ t.2 < (if t.1 then 64 else 16) := by
  have hv := v.isLt
  have hhigh : bits v 63 9 = v.toNat / 512 := (bits_eq ..).trans (Nat.mod_eq_of_lt (by omega))
  have hmid : bits v 7 6 = v.toNat / 64 % 4 := bits_eq ..
  have hlow : bits v 5 0 = v.toNat % 64 := by simpa using bits_eq v 5 0
  have hkind : bit v 8 = decide (v.toNat / 256 % 2 = 1) := bit_eq ..
  obtain ⟨slice, n⟩ := t
  rw [rightsTarget, hhigh, hmid, hlow, hkind]
  cases slice <;> simp only [decide_eq_true_eq, if_true, Bool.false_eq_true, if_false] <;> split_ifs <;>
    simp only [Option.some.injEq, Prod.mk.injEq, false_iff, true_and, false_and, Bool.true_eq_false,
      Bool.false_eq_true] <;> omega

/-! ## Masks (R346) -/

theorem State.pmSetBitsAll_rightsMask (s : State) (a hi lo v j : Nat) :
    (s.pmSetBitsAll a hi lo v).rightsMask j = s.rightsMask j := by
  rw [State.rightsMask, (s.pmSetBitsAll_pmOnly a hi lo v).1]
  rfl

/-- A mask is one for all dies, and the others keep theirs. -/
theorem State.rightsMask_setRights (s : State) (t : Bool × Nat) (m : BitVec 16) (j : Nat) :
    (s.setRights t m).rightsMask j = if j = (if t.1 then t.2 else 64 + t.2) then m else s.rightsMask j := by
  have hput : ({ s with rights := SMap.put (fun _ => 0#16) s.rights (rightsKey t) m } : State).rightsMask j =
      if j = (if t.1 then t.2 else 64 + t.2) then m else s.rightsMask j := SMap.get_put ..
  unfold State.setRights
  by_cases ht : t.1 = true
  · rw [if_pos ht]
    exact hput
  · rw [if_neg ht, State.pmSetBitsAll_rightsMask]
    exact hput

/-- Two masks side by side in a word. -/
theorem word_masks (x y : BitVec 16) : word (x.toNat + y.toNat * 2 ^ 16) = x.setWidth 64 ||| (y.setWidth 64 <<< 16) := by
  have hdisjoint : x.setWidth 64 &&& (y.setWidth 64 <<< 16) = 0#64 := by
    refine BitVec.eq_of_getLsbD_eq (fun j hj => ?_)
    by_cases h : j < 16
    · simp [h]
    · simp [BitVec.getLsbD_of_ge x j (Nat.le_of_not_lt h)]
  rw [← BitVec.add_eq_or_of_and_eq_zero _ _ hdisjoint]
  refine BitVec.eq_of_toNat_eq ?_
  have hx := x.isLt
  have hy := y.isLt
  rw [word, BitVec.toNat_ofNat, BitVec.toNat_add, BitVec.toNat_shiftLeft, BitVec.toNat_setWidth, BitVec.toNat_setWidth,
    Nat.shiftLeft_eq]
  omega

theorem mayGrant_iff (s : State) (c : Caller) (t : Bool × Nat) :
    mayGrant s c t = true ↔ c.level = 0 ∨ (t.1 = true ∧ c.has s t.2 = true) := by
  simp [mayGrant]

theorem mayReadRights_iff (s : State) (c : Caller) (t : Bool × Nat) : mayReadRights s c t = true ↔
    (c.level = 0 ∨ (t.1 = true ∧ c.has s t.2 = true)) ∨ (t.1 = false ∧ ownsDomain c.level c.served t.2 = true) := by
  simp [mayReadRights, mayGrant_iff]

/-- The effective rights of a target. -/
theorem State.effRights_target (s : State) (die : Nat) (t : Bool × Nat) : s.effRights die (if t.1 then 2 else 1) t.2 =
    if t.1 then s.rightsMask t.2 &&& s.rightsMask (64 + s.sliceDomain die t.2)
    else s.rightsMask (if t.1 then t.2 else 64 + t.2) := by
  obtain ⟨slice, n⟩ := t
  cases slice <;> rfl

/-- What RIGHTS.READ gives: the mask, and over it the effective rights. -/
theorem State.readRights_word (s : State) (die : Nat) (t : Bool × Nat) :
    word ((s.rightsMask (rightsKey t)).toNat + (s.effRights die (if t.1 then 2 else 1) t.2).toNat * 2 ^ 16) =
      (s.rightsMask (if t.1 then t.2 else 64 + t.2)).setWidth 64 |||
        ((if t.1 then s.rightsMask t.2 &&& s.rightsMask (64 + s.sliceDomain die t.2)
          else s.rightsMask (if t.1 then t.2 else 64 + t.2)).setWidth 64 <<< 16) := by
  rw [word_masks, State.effRights_target, rightsKey]

/-! ## The words -/

section Words

variable {s : State} {i : Instr} {k : Tok} {a b : BitVec 4} {bOk : Word → Bool} {f : State → Caller → Bool × Nat → Res}
  {die n : Nat} (hcur : s.cur = .dray die n) (ha : s.pois a = false) (hb : s.pois b = false)
  (hi : s.Issues (sysWord 1 (some rightDelegate)) i k) (he : exec i s = rightsForm i k a b bOk f s)
include hcur ha hb hi he

/-- A target that is none of a slice or a domain. -/
theorem traps_rightsForm_of_none (ht : rightsTarget (s.reg a) = none) : Traps i s k 0x0205 (some (s.reg a)) none := by
  have hx := runsAs_of_sysForm hcur ha hb hi he
  simp only [ht] at hx
  exact hx.traps_of_badOperand hcur

variable {t : Bool × Nat} (ht : rightsTarget (s.reg a) = some t)
include ht

theorem traps_rightsForm_of_bad (h : bOk (s.reg b) = false) : Traps i s k 0x0205 (some (s.reg b)) none := by
  have hx := runsAs_of_sysForm hcur ha hb hi he
  simp only [ht, h, Bool.false_eq_true, if_false] at hx
  exact hx.traps_of_badOperand hcur

theorem rightsForm_runsAs (h : bOk (s.reg b) = true) : RunsAs i s k (f s (s.caller die n) t) := by
  have hx := runsAs_of_sysForm hcur ha hb hi he
  simp only [ht, h, if_true] at hx
  exact hx

end Words

/-- A mask operand has no bit above the sixteen rights. -/
theorem rightsOperand_iff (v : Word) : (bits v 63 16 == 0) = true ↔ v.toNat < 2 ^ 16 := by
  have hv := v.isLt
  rw [beq_iff_eq, bits_eq]
  omega

section Forms

variable {s : State} {k : Tok} {d a b : BitVec 4} {die n : Nat} {t : Bool × Nat} (hcur : s.cur = .dray die n)
  (ha : s.pois a = false) (ht : rightsTarget (s.reg a) = some t)
include hcur ha ht

theorem rights_runsAs (hb : s.pois b = false) (hsmall : (s.reg b).toNat < 2 ^ 16)
    (hi : s.Issues (sysWord 1 (some rightDelegate)) (.rights k d a b) k) : RunsAs (.rights k d a b) s k
    (if mayGrant s (s.caller die n) t = false ∨ (s.reg b).setWidth 16 &&&
        ~~~ (s.effRights die (s.caller die n).level (s.caller die n).served) ≠ 0#16 then rightsRes s (.rights k d a b)
    else writeS d ((s.rightsMask (rightsKey t)).setWidth 64) false
      (s.setRights t (s.rightsMask (rightsKey t) ||| (s.reg b).setWidth 16))) :=
  rightsForm_runsAs hcur ha hb hi (show _ = execRights k d a b s from rfl) ht ((rightsOperand_iff _).2 hsmall)

theorem rightsRevoke_runsAs (hb : s.pois b = false) (hsmall : (s.reg b).toNat < 2 ^ 16)
    (hi : s.Issues (sysWord 1 (some rightDelegate)) (.rightsRevoke k d a b) k) : RunsAs (.rightsRevoke k d a b) s k
    (if mayGrant s (s.caller die n) t = false then rightsRes s (.rightsRevoke k d a b)
    else writeS d ((s.rightsMask (rightsKey t)).setWidth 64) false
      (s.setRights t (s.rightsMask (rightsKey t) &&& ~~~ ((s.reg b).setWidth 16)))) :=
  rightsForm_runsAs hcur ha hb hi (show _ = execRightsRevoke k d a b s from rfl) ht ((rightsOperand_iff _).2 hsmall)

theorem rightsRead_runsAs (hi : s.Issues (sysWord 1 (some rightDelegate)) (.rightsRead k d a) k) :
    RunsAs (.rightsRead k d a) s k
    (if mayReadRights s (s.caller die n) t = false then rightsRes s (.rightsRead k d a)
    else writeS d (word ((s.rightsMask (rightsKey t)).toNat +
      (s.effRights die (if t.1 then 2 else 1) t.2).toNat * 2 ^ 16)) false s) :=
  rightsForm_runsAs hcur ha rfl hi (show _ = execRightsRead k d a s from rfl) ht rfl

end Forms

end Sys2Proof.Machine

namespace Sys2Proof

open Machine

/-- Settles O29: the target by `rightsTarget_eq_some_iff`, the masks by `State.rightsMask_setRights`, and the words by their common
form. -/
theorem rightsMasks : Obligations.RightsMasks := by
  refine ⟨rightsTarget_eq_some_iff, fun s t m j _ _ => s.rightsMask_setRights t m j, ?_⟩
  intro s k d a b die n hcur ha hb c add grant revoke read cls
  have hgrant : exec grant s = execRights k d a b s := rfl
  have hrevoke : exec revoke s = execRightsRevoke k d a b s := rfl
  have hread : exec read s = execRightsRead k d a s := rfl
  refine ⟨fun ht i hi his => ?_, fun t ht => ?_⟩
  · simp only [List.mem_cons, List.not_mem_nil, or_false] at hi
    rcases hi with rfl | rfl | rfl
    · exact traps_rightsForm_of_none hcur ha hb his hgrant ht
    · exact traps_rightsForm_of_none hcur ha hb his hrevoke ht
    · exact traps_rightsForm_of_none hcur ha rfl his hread ht
  intro key old mayChange
  have hmay : mayGrant s c t = true ↔ mayChange := mayGrant_iff s c t
  refine ⟨fun hlarge i hi his => ?_, fun hsmall => ⟨fun hno i hi his => ?_, fun hyes his => ?_, fun hyes his => ?_⟩,
    fun his => ?_⟩
  · have hbad : (bits (s.reg b) 63 16 == 0) = false := by
      rw [← Bool.not_eq_true, rightsOperand_iff]
      exact Nat.not_lt.2 hlarge
    simp only [List.mem_cons, List.not_mem_nil, or_false] at hi
    rcases hi with rfl | rfl
    · exact traps_rightsForm_of_bad hcur ha hb his hgrant ht hbad
    · exact traps_rightsForm_of_bad hcur ha hb his hrevoke ht hbad
  · have hno' : mayGrant s c t = false := by rwa [← Bool.not_eq_true, hmay]
    simp only [List.mem_cons, List.not_mem_nil, or_false] at hi
    rcases hi with rfl | rfl
    · have hx := rights_runsAs hcur ha ht hb hsmall his
      rw [if_pos (.inl hno')] at hx
      exact hx.denies_of_rightsRes hcur
    · have hx := rightsRevoke_runsAs hcur ha ht hb hsmall his
      rw [if_pos hno'] at hx
      exact hx.denies_of_rightsRes hcur
  · have hx := rights_runsAs hcur ha ht hb hsmall his
    refine ⟨fun hover => ?_, fun hfit => ?_⟩
    · rw [if_pos (.inr hover)] at hx
      exact hx.denies_of_rightsRes hcur
    · rw [if_neg (not_or.2 ⟨ne_false_of_eq_true (hmay.2 hyes), not_not.2 hfit⟩)] at hx
      exact hx.returns
  · have hx := rightsRevoke_runsAs hcur ha ht hb hsmall his
    rw [if_neg (ne_false_of_eq_true (hmay.2 hyes))] at hx
    exact hx.returns
  · have hx := rightsRead_runsAs hcur ha ht his
    intro mayRead eff
    have hmayRead : mayReadRights s c t = true ↔ mayRead := mayReadRights_iff s c t
    refine ⟨fun hno => ?_, fun hyes => ?_⟩
    · rw [if_pos (by rwa [← Bool.not_eq_true, hmayRead])] at hx
      exact hx.denies_of_rightsRes hcur
    · rw [if_neg (ne_false_of_eq_true (hmayRead.2 hyes)), State.readRights_word] at hx
      exact hx.returns

end Sys2Proof
end

section
/-! SUPPORT. SliceTableWords: FMASK, TIMEOFS and IDMAP, and the images that IDMAP reads (R349, R350, R351). -/

namespace Sys2Proof.Machine

/-! ## Operands -/

/-- A function's operand has kind 1 in its second byte and nothing above. -/
theorem fmaskOperand_iff (v : Word) : (bits v 63 16 ≠ 0 ∨ bits v 15 8 ≠ 1) ↔ v.toNat / 256 ≠ 1 := by
  have hv := v.isLt
  rw [bits_eq, bits_eq]
  omega

theorem RunsAs.next_of_badOperand {i : Instr} {s x : State} {k : Tok} {v : Word} (h : RunsAs i s k (badOperand x v)) :
    exec i s = .next (x.takeOpen s.cur 0x0205 (some v) none s.me.pc) := h

/-! ## Images -/

/-- The pieces of an image that have not come yet, and the state once they have, with no poison in them. -/
def State.ImageCome (s : State) (w : Who) (spa n : Nat) (x : State) : Prop :=
  s.spaPieces w ((linePieces spa n).filter (fun p => decide (spa + s.me.reply.length ≤ p.1))) = .ok x ∧
    x.me.replyPoison = false

theorem withImage_of_come {s x : State} {w : Who} {spa n : Nat} {f : State → List Byte → Res} (h : s.ImageCome w spa n x) :
    withImage s w spa n f = f x x.me.reply := by
  obtain ⟨hok, hpoison⟩ := h
  simp only [withImage, hok, hpoison, consume, Bool.false_eq_true, if_false]

theorem halfWords_getElem? {bs : List Byte} {off n e : Nat} (he : e < n) :
    (halfWords bs off n)[e]? = some (natOfBytes ((bs.drop (off + 2 * e)).take 2)) := by
  simp [halfWords, he]

/-- Each entry of a domain's table is its half word of the image. -/
theorem State.withDomainTable_domTab (s : State) (d : Nat) (bs : List Byte) {e : Nat} (he : e < 128) :
    SMap.get (fun _ => 0#16) (s.withDomainTable d bs).domTab (d * 128 + e) =
      BitVec.ofNat 16 (natOfBytes ((bs.drop (2 * e)).take 2)) := by
  rw [State.withDomainTable, SMap.get_putAll, if_pos (Nat.le_add_right _ _), Nat.add_sub_cancel_left, List.getElem?_map,
    halfWords_getElem? he, Nat.zero_add]
  rfl

/-! ## The words -/

section Words

variable {s : State} {k : Tok} {d a b : BitVec 4} {die n : Nat} (hcur : s.cur = .dray die n) (ha : s.pois a = false)
  (hb : s.pois b = false)
include hcur ha hb

/-- An operand that names no function. -/
theorem fmask_traps (hi : s.Issues (sysWord 1 (some rightFeat)) (.fmask k d a b) k) (hbad : (s.reg a).toNat / 256 ≠ 1) :
    Traps (.fmask k d a b) s k 0x0205 (some (s.reg a)) none := by
  have hx := runsAs_of_sysForm hcur ha hb hi (show _ = execFmask k d a b s from rfl)
  rw [if_pos ((fmaskOperand_iff _).2 hbad)] at hx
  exact hx.traps_of_badOperand hcur

/-- FMASK on a function, by the level of the caller. -/
theorem fmask_runsAs (hi : s.Issues (sysWord 1 (some rightFeat)) (.fmask k d a b) k) (hgood : (s.reg a).toNat / 256 = 1) :
    RunsAs (.fmask k d a b) s k
      (if (s.caller die n).level = 0 then
        writeS d (SMap.get (fun _ => -1#64) s.featO (bits (s.reg a) 7 0)) false
          { s with featO := SMap.put (fun _ => -1#64) s.featO (bits (s.reg a) 7 0) (s.reg b) }
      else
        match s.fnAttach (bits (s.reg a) 7 0) with
        | some (2, i) =>
          if (s.caller die n).has s i then
            writeS d (SMap.get (fun _ => -1#64) s.featD (bits (s.reg a) 7 0)) false
              { s with featD := SMap.put (fun _ => -1#64) s.featD (bits (s.reg a) 7 0) (s.reg b) }
          else rightsRes s (.fmask k d a b)
        | _ => rightsRes s (.fmask k d a b)) := by
  have hx := runsAs_of_sysForm hcur ha hb hi (show _ = execFmask k d a b s from rfl)
  rw [if_neg (mt (fmaskOperand_iff _).1 (not_not.2 hgood))] at hx
  exact hx

theorem timeofs_runsAs (hi : s.Issues (sysWord 1 (some rightTimeofs)) (.timeofs k d a b) k) :
    RunsAs (.timeofs k d a b) s k (withSlice s (.timeofs k d a b) (s.caller die n) (s.reg a) (fun i =>
      writeS d (SMap.get zeroWord s.offsets i) false { s with offsets := SMap.put zeroWord s.offsets i (s.reg b) })) :=
  runsAs_of_sysForm hcur ha hb hi (show _ = execTimeofs k d a b s from rfl)

/-- A target of IDMAP that is no slice and no domain. -/
abbrev idmapBad (v : Word) : Prop := bits v 63 9 ≠ 0 ∨ bits v 7 6 ≠ 0 ∨ (bit v 8 = true ∧ 16 ≤ bits v 5 0)

variable (hi : s.Issues (sysWord 1 (some rightIdmap)) (.idmap k a b) k)
include hi

theorem idmap_traps_of_target (hbad : idmapBad (s.reg a)) : Traps (.idmap k a b) s k 0x0205 (some (s.reg a)) none := by
  have hx := runsAs_of_sysForm hcur ha hb hi (show _ = execIdmap k a b s from rfl)
  rw [if_pos hbad] at hx
  exact hx.traps_of_badOperand hcur

variable (hgood : ¬ idmapBad (s.reg a))
include hgood

theorem idmap_traps_of_misaligned (hal : (s.reg b).toNat % 8 ≠ 0) :
    Traps (.idmap k a b) s k 0x0205 (some (s.reg b)) none := by
  have hx := runsAs_of_sysForm hcur ha hb hi (show _ = execIdmap k a b s from rfl)
  rw [if_neg hgood, if_pos hal] at hx
  exact hx.traps_of_badOperand hcur

variable (hal : (s.reg b).toNat % 8 = 0)
include hal

theorem idmap_runsAs_of_domain (hdom : bit (s.reg a) 8 = true) : RunsAs (.idmap k a b) s k
    (if (s.caller die n).level ≠ 0 then rightsRes s (.idmap k a b)
    else withImage s { s.hwWho die 0 with domain := bits (s.reg a) 3 0 } (s.reg b).toNat 256 (fun x bs =>
      if (halfWords bs 0 128).all (fun e => decide (e < 16)) &&
          x.domainTableOk (x.withDomainTable (bits (s.reg a) 3 0) bs) die (bits (s.reg a) 3 0) then
        .done (x.withDomainTable (bits (s.reg a) 3 0) bs)
      else badOperand x (s.reg b))) := by
  have hx := runsAs_of_sysForm hcur ha hb hi (show _ = execIdmap k a b s from rfl)
  rw [if_neg hgood, if_neg (not_not.2 hal), if_pos hdom] at hx
  exact hx

theorem idmap_runsAs_of_slice (hdom : bit (s.reg a) 8 = false) : RunsAs (.idmap k a b) s k
    (if (s.caller die n).has s (bits (s.reg a) 5 0) = false then rightsRes s (.idmap k a b)
    else withImage s (s.hwWho die (bits (s.reg a) 5 0)) (s.reg b).toNat 264 (fun x bs =>
      if sliceImageOk bs && x.sliceTablesOk (x.withSliceTables (bits (s.reg a) 5 0) bs) (bits (s.reg a) 5 0)
          (x.sliceDomain die (bits (s.reg a) 5 0)) then
        .done (((x.withSliceTables (bits (s.reg a) 5 0) bs).passQuads (bits (s.reg a) 5 0)).pmSetBitsAll
          (sliceBlock (bits (s.reg a) 5 0) + 24) 51 0 (s.reg b).toNat)
      else badOperand x (s.reg b))) := by
  have hx := runsAs_of_sysForm hcur ha hb hi (show _ = execIdmap k a b s from rfl)
  rw [if_neg hgood, if_neg (not_not.2 hal), if_neg (Bool.eq_false_iff.1 hdom)] at hx
  exact hx

end Words

end Sys2Proof.Machine

namespace Sys2Proof

open Machine

/-- Settles O30: each word runs its body by `runsAs_of_sysForm`, and an image that has come is read by `withImage_of_come`. -/
theorem sliceTables : Obligations.SliceTables := by
  intro s k d a b die n hcur ha hb c va vb ones fmask timeofs idmap image
  refine ⟨fun hi => ?_, fun hi => ?_, fun hi => ?_⟩
  · intro f
    refine ⟨fmask_traps hcur ha hb hi, fun hgood hl => ?_, fun hgood hl => ?_⟩
    · have hx := fmask_runsAs hcur ha hb hi hgood
      rw [if_pos hl] at hx
      exact hx.returns
    · have hx := fmask_runsAs hcur ha hb hi hgood
      rw [if_neg hl] at hx
      refine ⟨fun j hat hown => ?_, fun hforeign => ?_⟩
      · rw [show s.fnAttach (bits (s.reg a) 7 0) = some (2, j) from hat] at hx
        exact RunsAs.returns (by simpa only [show (s.caller die n).has s j = true from hown, if_true] using hx)
      · refine RunsAs.denies_of_rightsRes hcur ?_
        split at hx
        next j hat => simpa only [show (s.caller die n).has s j = false from hforeign j hat, Bool.false_eq_true, if_false] using hx
        next => exact hx
  · have hx := timeofs_runsAs hcur ha hb hi
    refine ⟨fun hlarge => ?_, fun hsmall hforeign => ?_, fun hsmall hown => ?_⟩
    · rw [withSlice_of_large hlarge] at hx
      exact hx.traps_of_badOperand hcur
    · rw [withSlice_of_foreign hsmall hforeign] at hx
      exact hx.denies_of_rightsRes hcur
    · rw [withSlice_of_own hsmall hown] at hx
      exact hx.returns
  · intro bad
    refine ⟨idmap_traps_of_target hcur ha hb hi, idmap_traps_of_misaligned hcur ha hb hi, fun hgood hal hdom => ?_,
      fun hgood hal hdom => ?_⟩
    · have hx := idmap_runsAs_of_domain hcur ha hb hi hgood hal hdom
      refine ⟨fun hl => ?_, fun hl x hcome => ?_⟩
      · rw [if_pos hl] at hx
        exact hx.denies_of_rightsRes hcur
      · intro bs t good
        rw [if_neg (not_not.2 hl), withImage_of_come hcome] at hx
        have hcheck : ((halfWords bs 0 128).all (fun e => decide (e < 16)) && x.domainTableOk t die (bits va 3 0)) = true ↔
            good := by
          simp [good]
        refine ⟨fun hgoodImage => ?_, fun hbadImage => ?_, fun e he => x.withDomainTable_domTab _ _ he⟩
        · rw [if_pos (hcheck.2 hgoodImage)] at hx
          exact hx.next_of_done
        · rw [if_neg (mt hcheck.1 hbadImage)] at hx
          exact hx.next_of_badOperand
    · intro i
      have hx := idmap_runsAs_of_slice hcur ha hb hi hgood hal hdom
      refine ⟨fun hforeign => ?_, fun hown x hcome => ?_⟩
      · rw [if_pos hforeign] at hx
        exact hx.denies_of_rightsRes hcur
      · intro bs t good
        rw [if_neg (ne_false_of_eq_true hown), withImage_of_come hcome] at hx
        have hcheck : (sliceImageOk bs && x.sliceTablesOk t i (x.sliceDomain die i)) = true ↔ good := Bool.and_eq_true_iff
        refine ⟨fun hgoodImage => ?_, fun hbadImage => ?_⟩
        · rw [if_pos (hcheck.2 hgoodImage)] at hx
          exact hx.next_of_done
        · rw [if_neg (mt hcheck.1 hbadImage)] at hx
          exact hx.next_of_badOperand

end Sys2Proof
end

section
/-! SUPPORT. MasterWords: ERET, FRES, FKILL, FREEZE and THAW, and the status that each one gives (R341, R342). -/

namespace Sys2Proof.Machine

/-- A word with a status in d runs as its effect and that status. -/
theorem RunsAs.next_of_status {i : Instr} {k : Tok} {s x : State} {d : BitVec 4} {r : State × Nat} {v : Nat}
    (h : RunsAs i s k (writeS d (word r.2) false r.1)) (hr : r = (x, v)) :
    exec i s = .next ((x.setReg d (word v) false).complete k 1) := by
  rw [h, hr]
  rfl

/-! ## ERET (R341) -/

theorem mayHandle_iff (c : Caller) (level : Nat) : mayHandle c level = true ↔ c.level = 0 ∨ c.level = level := by
  simp [mayHandle]

section Eret

variable {s : State} {c : Caller} {th : ThreadId}

theorem State.eret_of_none (h : s.strand? th = none) : s.eret c th = (s, 1) := by
  simp only [State.eret, h]

variable {st : Strand} (h : s.strand? th = some st)
include h

theorem State.eret_of_frozen (hf : s.threadFrozen th = true) : s.eret c th = (s, 2) := by
  simp only [State.eret, h, hf, if_true]

variable (hf : s.threadFrozen th = false)
include hf

theorem State.eret_of_stopped {l : Nat} (hr : st.run = .stopped l) :
    s.eret c th = if mayHandle c l = false then (s, 3) else (s.updStrand th Strand.resume, 0) := by
  simp only [State.eret, h, hf, hr, Bool.false_eq_true, if_false]

theorem State.eret_of_not_stopped (hr : ∀ l, st.run ≠ .stopped l) : s.eret c th = (s, 1) := by
  simp only [State.eret, h, hf, Bool.false_eq_true, if_false]

end Eret

/-! ## FRES (R341) -/

/-- The queues that a part names and that are parked. -/
def Coach.parkedOf (c : Coach) (p : Nat) : List QueueId := (partQueues p).filter (fun x => (c.parked x).isSome)

/-- A frozen coach, or a frozen queue that is named or would go on. -/
def Coach.fresFrozen (c : Coach) (p : Nat) : Prop :=
  c.frozen = true ∨ (∃ x ∈ c.parkedOf p, c.queueFrozen x = true) ∨ ∃ x, queueOf p = some x ∧ c.queueFrozen x = true

/-- Every queue that would go on parked at the caller's level, or the caller is the operator. -/
def Coach.fresMine (c : Coach) (p level : Nat) : Prop :=
  level = 0 ∨ ∀ x ∈ c.parkedOf p, ∀ r, c.parked x = some r → r.level = level

theorem Coach.fresFrozen_iff (c : Coach) (p : Nat) : (c.frozen = true ∨ (c.parkedOf p).any c.queueFrozen = true ∨
    (queueOf p).any c.queueFrozen = true) ↔ c.fresFrozen p := by
  simp only [Coach.fresFrozen, List.any_eq_true, Option.any_eq_true]

theorem Coach.fresMine_iff (c : Coach) (p : Nat) (o : Caller) :
    (c.parkedOf p).any (fun x => ((c.parked x).map (fun r => !mayHandle o r.level)).getD false) = true ↔
      ¬ c.fresMine p o.level := by
  have hqueue : ∀ x, ((c.parked x).map (fun r => !mayHandle o r.level)).getD false = true ↔
      ∃ r, c.parked x = some r ∧ ¬ (o.level = 0 ∨ o.level = r.level) := by
    intro x
    cases c.parked x <;> simp [← mayHandle_iff]
  simp only [List.any_eq_true, hqueue, Coach.fresMine]
  push Not
  constructor
  · rintro ⟨x, hx, r, hr, hzero, hother⟩
    exact ⟨hzero, x, hx, r, hr, hother.symm⟩
  · rintro ⟨hzero, x, hx, r, hr, hother⟩
    exact ⟨x, hx, r, hr, hzero, hother.symm⟩

section Fres

variable {s : State} {o : Caller} {q p : Nat}

theorem State.fres_of_none (h : s.coach? q = none) : s.fres o q p = (s, 1) := by
  simp only [State.fres, h]

variable {c : Coach} (h : s.coach? q = some c)
include h

theorem State.fres_of_frozen (hf : c.fresFrozen p) : s.fres o q p = (s, 2) := by
  simp only [State.fres, h]
  exact if_pos ((c.fresFrozen_iff p).2 hf)

variable (hf : ¬ c.fresFrozen p)
include hf

theorem State.fres_of_not_frozen : s.fres o q p =
    if (c.parkedOf p).isEmpty = true then (s, 1)
    else if (c.parkedOf p).any (fun x => ((c.parked x).map (fun r => !mayHandle o r.level)).getD false) = true then (s, 3)
    else (s.updCoach q (fun d => (c.parkedOf p).foldl (fun d x => d.park x none) d), 0) := by
  simp only [State.fres, h]
  exact if_neg (mt (c.fresFrozen_iff p).1 hf)

theorem State.fres_of_nothing_parked (hp : c.parkedOf p = []) : s.fres o q p = (s, 1) := by
  rw [State.fres_of_not_frozen h hf, if_pos (List.isEmpty_iff.2 hp)]

variable (hp : c.parkedOf p ≠ [])
include hp

theorem State.fres_of_foreign (hm : ¬ c.fresMine p o.level) : s.fres o q p = (s, 3) := by
  rw [State.fres_of_not_frozen h hf, if_neg (mt List.isEmpty_iff.1 hp), if_pos ((c.fresMine_iff p o).2 hm)]

theorem State.fres_of_mine (hm : c.fresMine p o.level) :
    s.fres o q p = (s.updCoach q (fun d => (c.parkedOf p).foldl (fun d x => d.park x none) d), 0) := by
  rw [State.fres_of_not_frozen h hf, if_neg (mt List.isEmpty_iff.1 hp), if_neg (mt (c.fresMine_iff p o).1 (not_not.2 hm))]

end Fres

/-! ## FKILL (R342) -/

theorem State.fkill_of_coach_none {s : State} {q p : Nat} (h : s.coach? q = none) : s.fkill (.coach q p) = (s, 1) := by
  simp [State.fkill, h]

theorem State.killCoach_of_some {s : State} {q : Nat} {c : Coach} (h : s.coach? q = some c) :
    s.killCoach q = s.abortLaunch c.tag 0x0504 0#16 0#13 := by
  simp only [State.killCoach, h, codeTxKilled]

theorem State.fkill_of_coach {s : State} {q p : Nat} {c : Coach} (h : s.coach? q = some c) :
    s.fkill (.coach q p) = (s.abortLaunch c.tag 0x0504 0#16 0#13, 0) := by
  simp [State.fkill, h, State.killCoach_of_some h]

/-! A killed strand loses what it waited for, and memory keeps its bytes. -/

theorem State.semV_mem (s : State) (sem : Nat) : (s.semV sem).mem = s.mem := by
  have hlatch : (s.latchSem sem).mem = s.mem := rfl
  cases hw : (s.latchSem sem).semWaiter sem with
  | none => simp only [State.semV, hw, State.setSem, State.updQuad_mem, hlatch]
  | some th => simp only [State.semV, hw, State.updStrand_mem, State.updQuad_mem, hlatch]

theorem State.withdraw_mem_of_dray (s : State) (d n : Nat) (st : Strand) (w : Wait) :
    (s.withdraw (.dray d n) st w).mem = s.mem := by
  cases w with
  | semaphore sem =>
    unfold State.withdraw
    by_cases hg : st.granted = true
    · simp only [hg, if_true]
      exact State.semV_mem ..
    · simp only [hg]
      rfl
  | _ => rfl

theorem State.abandon_mem_of_dray (s : State) (d n : Nat) : (s.abandon (.dray d n)).mem = s.mem := by
  unfold State.abandon
  split
  · rfl
  · split
    · split
      · rfl
      · rw [State.updStrand_mem, State.withdraw_mem_of_dray]
        exact State.giveBack_mem ..
    · split
      · rfl
      · rw [State.updStrand_mem, State.giveBack_mem]
    · rfl

/-- The state in which a Dray strand is idle and its entry of the strand table is not enabled. -/
def State.strandOff (s : State) (d n : Nat) : State :=
  (s.updDray d n (fun x => { x with th := { x.th with run := .idle, frozen := false, reply := [] } })).pmSetBits d
    (strandEntry n) 63 63 0

theorem State.strandOff_mem (s : State) (d n : Nat) : (s.strandOff d n).mem = s.mem := rfl

theorem State.strandOff_run (s : State) (d n : Nat) : ((s.strandOff d n).drayStrand d n).th.run = .idle := by
  rw [State.drayStrand, State.strandOff, State.pmSetBits, (State.pmSetWord_pmOnly ..).2 d, ← State.drayStrand,
    State.drayStrand_updDray, if_pos ⟨rfl, rfl⟩]

theorem State.strandOff_enable (s : State) (d n : Nat) : bit ((s.strandOff d n).pmWord d (strandEntry n)) 63 = false := by
  rw [State.strandOff, State.pmWord_pmSetBits_self, bit, getLsbD_setBits _ _ _ _ _ (by decide), if_pos (by decide)]
  rfl

/-- What a kill drops once the strand is off: its records, and its requests that are not out. -/
def State.dropOwed (s : State) (d n : Nat) : State :=
  { s with
    faults := s.faults.filter (fun f => f.body.handle != threadHandle (.dray d n))
    remote := s.remote.filter (fun r => r.who != .thread (.dray d n))
    hostReqs := s.hostReqs.filter (fun r => r.who != .thread (.dray d n))
    proxies := s.proxies.filter (fun r => r.written || r.who != .thread (.dray d n)) }

theorem State.killStrand_eq (s : State) (d n : Nat) :
    s.killStrand d n = ((s.abandon (.dray d n)).strandOff d n).dropOwed d n := rfl

theorem State.drayStrand_dropOwed (s : State) (d n e j : Nat) : (s.dropOwed d n).drayStrand e j = s.drayStrand e j := rfl

theorem State.pmWord_dropOwed (s : State) (d n e j : Nat) : (s.dropOwed d n).pmWord e j = s.pmWord e j := rfl

theorem State.dropOwed_mem (s : State) (d n : Nat) : (s.dropOwed d n).mem = s.mem := rfl

theorem State.killStrand_effect (s : State) (d n : Nat) : ((s.killStrand d n).drayStrand d n).th.run = .idle ∧
    bit ((s.killStrand d n).pmWord d (strandEntry n)) 63 = false ∧
    (∀ f ∈ (s.killStrand d n).faults, f.body.handle ≠ threadHandle (.dray d n)) ∧ (s.killStrand d n).mem = s.mem := by
  rw [State.killStrand_eq, State.drayStrand_dropOwed, State.pmWord_dropOwed, State.dropOwed_mem, State.strandOff_mem]
  exact ⟨State.strandOff_run .., State.strandOff_enable .., fun f hf => bne_iff_ne.1 (List.mem_filter.1 hf).2,
    State.abandon_mem_of_dray ..⟩

/-! ## FREEZE (R342) -/

/-- A part that is a strand is no queue, and not the whole coach. -/
theorem queueOf_of_strand {p : Nat} (h : p ≤ 10) : queueOf p = none := by
  interval_cases p <;> rfl

theorem ne_whole_of_queueOf {p : Nat} {x : QueueId} (h : queueOf p = some x) : p ≠ 31 := by
  rintro rfl
  exact absurd h nofun

section Freeze

variable {s : State} {q p : Nat}

theorem State.freeze_of_coach_none (h : s.coach? q = none) : s.freeze (.coach q p) = (s, 1) := by
  simp only [State.freeze, h]

variable {c : Coach} (h : s.coach? q = some c)
include h

theorem State.freeze_of_coach_frozen (hf : c.frozen = true) : s.freeze (.coach q p) = (s, 1) := by
  simp only [State.freeze, h, hf, if_true]

variable (hf : c.frozen = false)
include hf

theorem State.freeze_of_whole : s.freeze (.coach q 31) = ((s.stopCoach q).updCoach q (fun c => c.freeze s.tsc), 0) := by
  simp only [State.freeze, h, hf, Bool.false_eq_true, if_false, if_true]

theorem State.freeze_of_queue {x : QueueId} (hx : queueOf p = some x) : s.freeze (.coach q p) =
    if c.queueFrozen x = true then (s, 1) else (s.updCoach q (fun c => c.freezeQueue x true), 0) := by
  simp only [State.freeze, h, hf, hx, ne_whole_of_queueOf hx, Bool.false_eq_true, if_false]

theorem State.freeze_of_strand (hp : p ≤ 10) : s.freeze (.coach q p) =
    if (c.strand p).frozen = true then (s, 1)
    else ((s.abandon (.coach q p)).updStrand (.coach q p) (fun t => { t with frozen := true }), 0) := by
  simp only [State.freeze, h, hf, queueOf_of_strand hp, show p ≠ 31 by omega, Bool.false_eq_true, if_false]

end Freeze

section FreezeWord

variable {s x : State} {k : Tok} {d a : BitVec 4} {die n : Nat} {m : Master} (hcur : s.cur = .dray die n)
  (ha : s.pois a = false) (hm : masterOf (s.reg a) = some m) (hi : s.Issues (sysWord 2 (some rightPreempt)) (.freeze k d a) k)
include hcur ha hm hi

section First

variable (hne : m ≠ .dray die n) (hok : s.masterOk (s.caller die n) m = true) (hreply : s.me.reply = [])
include hne hok hreply

/-- A FREEZE that has not begun. -/
theorem freeze_runsAs_of_first : RunsAs (.freeze k d a) s k
    (if (s.freeze m).2 = 0 ∧ (s.freeze m).1.frozenStill m = false then .wait ((s.freeze m).1.addReply [0#8] false) .fence
    else writeS d (word (s.freeze m).2) false (s.freeze m).1) := by
  have hx := runsAs_of_sysForm hcur ha rfl hi (show _ = execFreeze k d a s from rfl)
  rw [hreply, List.isEmpty_nil, if_pos rfl, withMaster_of_authority hm hne rfl hok] at hx
  exact hx

theorem freeze_next_of_refused (hf : s.freeze m = (s, 1)) :
    exec (.freeze k d a) s = .next ((s.setReg d 1#64 false).complete k 1) := by
  have hx := freeze_runsAs_of_first hcur ha hm hi hne hok hreply
  rw [if_neg (by simp [hf])] at hx
  exact hx.next_of_status hf

theorem freeze_next_of_frozen (hf : s.freeze m = (x, 0)) :
    (x.frozenStill m = true → exec (.freeze k d a) s = .next ((x.setReg d 0#64 false).complete k 1)) ∧
      (x.frozenStill m = false → exec (.freeze k d a) s =
        .next ((x.addReply [0#8] false).updMe (fun st => { st.parkOn .fence x.tsc with begun := true }))) := by
  have hx := freeze_runsAs_of_first hcur ha hm hi hne hok hreply
  rw [hf] at hx
  refine ⟨fun hstill => ?_, fun hstill => ?_⟩
  · rw [if_neg (by simp [hstill])] at hx
    exact hx.next_of_status (r := (x, 0)) rfl
  · rw [if_pos ⟨rfl, hstill⟩] at hx
    rw [hx.next_of_wait, State.addReply_tsc]

theorem freeze_next_of_flag {already : Bool} (hf : s.freeze m = if already = true then (s, 1) else (x, 0)) :
    (already = true → exec (.freeze k d a) s = .next ((s.setReg d 1#64 false).complete k 1)) ∧ (already = false →
      (x.frozenStill m = true → exec (.freeze k d a) s = .next ((x.setReg d 0#64 false).complete k 1)) ∧
      (x.frozenStill m = false → exec (.freeze k d a) s =
        .next ((x.addReply [0#8] false).updMe (fun st => { st.parkOn .fence x.tsc with begun := true })))) :=
  ⟨fun h => freeze_next_of_refused hcur ha hm hi hne hok hreply (hf.trans (if_pos h)),
    fun h => freeze_next_of_frozen hcur ha hm hi hne hok hreply (hf.trans (if_neg (by simp [h])))⟩

end First

/-- A FREEZE that has begun goes on until its master is still. -/
theorem freeze_next_of_begun (hreply : s.me.reply ≠ []) :
    ((s.bringStill m).frozenStill m = true →
      exec (.freeze k d a) s = .next (((s.bringStill m).setReg d 0#64 false).complete k 1)) ∧
    ((s.bringStill m).frozenStill m = false → exec (.freeze k d a) s =
      .next ((s.bringStill m).updMe (fun st => { st.parkOn .fence (s.bringStill m).tsc with begun := true }))) := by
  have hx := runsAs_of_sysForm hcur ha rfl hi (show _ = execFreeze k d a s from rfl)
  rw [if_neg (mt List.isEmpty_iff.1 hreply)] at hx
  simp only [hm] at hx
  refine ⟨fun hstill => ?_, fun hstill => ?_⟩
  · rw [if_pos hstill] at hx
    exact hx.next_of_done
  · rw [if_neg (by simp [hstill])] at hx
    exact hx.next_of_wait

end FreezeWord

/-! ## THAW (R342, R357) -/

section Thaw

variable {s : State} {q p : Nat}

theorem State.thaw_of_coach_none (h : s.coach? q = none) : s.thaw (.coach q p) = (s, 1) := by
  simp only [State.thaw, h]

variable {c : Coach} (h : s.coach? q = some c)
include h

theorem State.thaw_of_whole : s.thaw (.coach q 31) = if c.frozen = true then
    ((s.updCoach q (fun c => { c with frozen := false, stopAt := none, froze := false })).thawUnder q, 0) else (s, 1) := by
  simp only [State.thaw, h, if_true]

theorem State.thaw_of_queue {x : QueueId} (hx : queueOf p = some x) : s.thaw (.coach q p) =
    if c.queueFrozen x = true then (s.updCoach q (fun c => c.freezeQueue x false), 0) else (s, 1) := by
  simp only [State.thaw, h, hx, ne_whole_of_queueOf hx, if_false]

theorem State.thaw_of_strand (hp : p ≤ 10) : s.thaw (.coach q p) =
    if (c.strand p).frozen = true then (s.updStrand (.coach q p) (fun t => { t with frozen := false }), 0) else (s, 1) := by
  simp only [State.thaw, h, queueOf_of_strand hp, show p ≠ 31 by omega, if_false]

end Thaw

/-! A thawed coach under a pre-emption request (R357). -/

section ThawUnder

variable {s : State} {q : Nat} {c : Coach} (h : s.coach? q = some c)
include h

theorem State.thawUnder_of_no_request (hs : s.preState (quadDie q) c.slice = 0) : s.thawUnder q = s := by
  simp only [State.thawUnder, h, hs, if_true]

variable (hs : s.preState (quadDie q) c.slice ≠ 0)
include hs

theorem State.thawUnder_of_kill (hr : s.preRung (quadDie q) c.slice = 3) :
    s.thawUnder q = (s.abortLaunch c.tag 0x0504 0#16 0#13).reportKill (quadDie q) c.slice 1 := by
  simp only [State.thawUnder, h, hs, hr, if_false, if_true, State.killCoach_of_some h]

/-- The request of a slice begins anew, and its block says so. -/
def State.renewRequest (s : State) (die slice : Nat) : State :=
  { s with pres := updateWhere (fun r => r.die == die && r.slice == slice) (fun r => { r with began := s.tsc }) s.pres }.pmSetBits
    die (0x3FC00 + 16 * slice) 1 0 1

theorem State.thawUnder_of_request (hr : s.preRung (quadDie q) c.slice ≠ 3) :
    s.thawUnder q = s.renewRequest (quadDie q) c.slice := by
  simp only [State.thawUnder, h, hs, hr, if_false]
  rfl

end ThawUnder

theorem State.pmWord_renewRequest (s : State) (die slice : Nat) :
    (s.renewRequest die slice).pmWord die (0x3FC00 + 16 * slice) = setBits (s.pmWord die (0x3FC00 + 16 * slice)) 1 0 1 :=
  State.pmWord_pmSetBits_self ..

theorem State.preState_renewRequest (s : State) (die slice : Nat) : (s.renewRequest die slice).preState die slice = 1 := by
  rw [State.preState, State.pmWord_renewRequest]
  exact bits_setBits_self _ (by decide) (by decide)

theorem State.preRung_renewRequest (s : State) (die slice : Nat) :
    (s.renewRequest die slice).preRung die slice = s.preRung die slice := by
  rw [State.preRung, State.pmWord_renewRequest]
  exact bits_setBits_of_disjoint _ _ (by decide) (.inl (by decide))

theorem State.coach?_renewRequest (s : State) (die slice q : Nat) : (s.renewRequest die slice).coach? q = s.coach? q := rfl

theorem State.began_of_mem_renewRequest {s : State} {die slice : Nat} {r : PreReq} (hr : r ∈ (s.renewRequest die slice).pres)
    (hd : r.die = die) (hs : r.slice = slice) : r.began = s.tsc := by
  obtain ⟨o, -, ho⟩ := List.mem_map.1 (show r ∈ updateWhere _ _ s.pres from hr)
  by_cases hsame : (o.die == die && o.slice == slice) = true
  · rw [if_pos hsame] at ho
    rw [← ho]
  · rw [if_neg hsame] at ho
    subst ho
    exact absurd (by simp [hd, hs]) hsame

/-! ## The words -/

section Words

variable {s x : State} {k : Tok} {d a : BitVec 4} {die n : Nat} {m : Master} (hcur : s.cur = .dray die n)
  (ha : s.pois a = false) (hm : masterOf (s.reg a) = some m) (hne : m ≠ .dray die n)
  (hok : s.masterOk (s.caller die n) m = true)
include hcur ha hm hne hok

theorem eret_runsAs (hi : s.Issues (sysWord 2 none) (.eret k d a) k) (ht : m.isThread = true) : RunsAs (.eret k d a) s k
    (writeS d (word (s.eret (s.caller die n) m.thread).2) false (s.eret (s.caller die n) m.thread).1) := by
  have hx := runsAs_of_sysForm hcur ha rfl hi (show _ = execEret k d a s from rfl)
  rwa [withMaster_of_authority hm hne ht hok] at hx

theorem fkill_runsAs (hi : s.Issues (sysWord 2 (some rightKill)) (.fkill k d a) k) : RunsAs (.fkill k d a) s k
    (writeS d (word (s.fkill m).2) false (s.fkill m).1) := by
  have hx := runsAs_of_sysForm hcur ha rfl hi (show _ = execFkill k d a s from rfl)
  rwa [withMaster_of_authority hm hne rfl hok] at hx

theorem thaw_runsAs (hi : s.Issues (sysWord 2 (some rightPreempt)) (.thaw k d a) k) : RunsAs (.thaw k d a) s k
    (writeS d (word (s.thaw m).2) false (s.thaw m).1) := by
  have hx := runsAs_of_sysForm hcur ha rfl hi (show _ = execThaw k d a s from rfl)
  rwa [withMaster_of_authority hm hne rfl hok] at hx

theorem thaw_next_of_flag (hi : s.Issues (sysWord 2 (some rightPreempt)) (.thaw k d a) k) {was : Bool}
    (hf : s.thaw m = if was = true then (x, 0) else (s, 1)) :
    (was = false → exec (.thaw k d a) s = .next ((s.setReg d 1#64 false).complete k 1)) ∧
      (was = true → exec (.thaw k d a) s = .next ((x.setReg d 0#64 false).complete k 1)) := by
  have hx := thaw_runsAs hcur ha hm hne hok hi
  exact ⟨fun h => hx.next_of_status (hf.trans (if_neg (by simp [h]))), fun h => hx.next_of_status (hf.trans (if_pos h))⟩

end Words

theorem fres_runsAs {s : State} {k : Tok} {d a : BitVec 4} {die n q p : Nat} (hcur : s.cur = .dray die n)
    (ha : s.pois a = false) (hm : masterOf (s.reg a) = some (.coach q p))
    (hok : s.masterOk (s.caller die n) (.coach q p) = true) (hp : 11 ≤ p)
    (hi : s.Issues (sysWord 2 (some rightSched)) (.fres k d a) k) : RunsAs (.fres k d a) s k
    (writeS d (word (s.fres (s.caller die n) q p).2) false (s.fres (s.caller die n) q p).1) := by
  have hx := runsAs_of_sysForm hcur ha rfl hi (show _ = execFres k d a s from rfl)
  rwa [withMaster_of_authority hm (by simp) (decide_eq_true hp) hok] at hx

end Sys2Proof.Machine

namespace Sys2Proof

open Machine

/-- Settles O22: each word runs as its effect and its status, which follow the master and its state case by case. -/
theorem masterWords : Obligations.MasterWords := by
  intro s k d a die n m hcur ha hm hne hok level ends
  refine ⟨fun hi ht => ?_, fun hi q p hcoach hp => ?_, fun hi => ?_, fun hi => ?_, fun hi => ?_⟩
  · have hx := eret_runsAs hcur ha hm hne hok hi ht
    refine ⟨⟨_, _, hx.next_of_status Prod.mk.eta.symm⟩, fun hf hsome => ?_, fun hnone => ?_, fun st hst hf =>
      ⟨fun l hl => ?_, fun hl => ?_⟩⟩
    · obtain ⟨st, hst⟩ := Option.isSome_iff_exists.1 hsome
      exact hx.next_of_status (State.eret_of_frozen hst hf)
    · exact hx.next_of_status (State.eret_of_none hnone)
    · have heret := State.eret_of_stopped (c := s.caller die n) hst hf hl
      have hmay : mayHandle (s.caller die n) l = true ↔ level = 0 ∨ level = l := mayHandle_iff ..
      refine ⟨fun hzero hother => ?_, fun hmine => ?_⟩
      · have hno : mayHandle (s.caller die n) l = false := by
          rw [← Bool.not_eq_true, hmay]
          exact not_or.2 ⟨hzero, hother⟩
        exact hx.next_of_status (heret.trans (if_pos hno))
      · exact hx.next_of_status (heret.trans (if_neg (ne_false_of_eq_true (hmay.2 hmine))))
    · exact hx.next_of_status (State.eret_of_not_stopped hst hf hl)
  · subst hcoach
    have hx := fres_runsAs hcur ha hm hok hp hi
    refine ⟨⟨_, _, hx.next_of_status Prod.mk.eta.symm⟩, fun hnone => hx.next_of_status (State.fres_of_none hnone),
      fun c hc => ?_⟩
    intro named parked frozen mine
    exact ⟨fun hf => hx.next_of_status (State.fres_of_frozen hc hf),
      fun hf hp => hx.next_of_status (State.fres_of_nothing_parked hc hf hp),
      fun hf hp hforeign => hx.next_of_status (State.fres_of_foreign hc hf hp hforeign),
      fun hf hp hmine => hx.next_of_status (State.fres_of_mine hc hf hp hmine)⟩
  · have hx := fkill_runsAs hcur ha hm hne hok hi
    refine ⟨⟨_, _, hx.next_of_status Prod.mk.eta.symm⟩, fun q p hq => ?_, fun e j hj _ _ => ?_, fun f hf => ?_⟩
    · subst hq
      exact ⟨fun hnone => hx.next_of_status (State.fkill_of_coach_none hnone),
        fun c hc => hx.next_of_status (State.fkill_of_coach hc)⟩
    · subst hj
      exact ⟨s.killStrand e j, hx.next_of_status rfl, s.killStrand_effect e j⟩
    · subst hf
      exact hx.next_of_status rfl
  · intro stops frozen
    refine ⟨fun hreply => ?_, freeze_next_of_begun hcur ha hm hi⟩
    have hrefused := freeze_next_of_refused hcur ha hm hi hne hok hreply
    refine ⟨fun q p hq => ?_, fun e j hj => ?_, fun f hf => ?_⟩
    · subst hq
      refine ⟨fun hnone => hrefused (State.freeze_of_coach_none hnone), fun c hc =>
        ⟨fun hf => hrefused (State.freeze_of_coach_frozen hc hf), fun hf =>
          ⟨fun hp => ?_, fun x hx => ?_, fun hp => ?_⟩⟩⟩
      · subst hp
        exact freeze_next_of_frozen hcur ha hm hi hne hok hreply (State.freeze_of_whole hc hf)
      · exact freeze_next_of_flag hcur ha hm hi hne hok hreply (State.freeze_of_queue hc hf hx)
      · exact freeze_next_of_flag hcur ha hm hi hne hok hreply (State.freeze_of_strand hc hf hp)
    · subst hj
      exact freeze_next_of_flag hcur ha hm hi hne hok hreply rfl
    · subst hf
      obtain ⟨hfrozen, hrun⟩ := freeze_next_of_flag hcur ha hm hi hne hok hreply (already := (s.fn f).frozen) rfl
      exact ⟨hfrozen, fun h => (hrun h).1 rfl⟩
  · intro thaws
    have hx := thaw_runsAs hcur ha hm hne hok hi
    refine ⟨⟨_, _, hx.next_of_status Prod.mk.eta.symm⟩, fun q p hq => ?_, fun e j hj => ?_, fun f hf => ?_⟩
    · subst hq
      refine ⟨fun hnone => hx.next_of_status (State.thaw_of_coach_none hnone), fun c hc => ?_⟩
      intro x dq
      refine ⟨fun hp hf => ?_, fun hp hf => ?_, fun y hy => thaw_next_of_flag hcur ha hm hne hok hi (State.thaw_of_queue hc hy),
        fun hp => thaw_next_of_flag hcur ha hm hne hok hi (State.thaw_of_strand hc hp)⟩
      · subst hp
        exact hx.next_of_status ((State.thaw_of_whole hc).trans (if_neg (by simp [hf])))
      · subst hp
        have hthaw : s.thaw (.coach q 31) = (x.thawUnder q, 0) := (State.thaw_of_whole hc).trans (if_pos hf)
        have hcx : x.coach? q = some { c with frozen := false, stopAt := none, froze := false } :=
          State.coach?_updCoach_self hc (fun _ => rfl)
        refine ⟨fun hs => ?_, fun hs hr => ?_, fun hs hr => ?_⟩
        · rw [State.thawUnder_of_no_request hcx hs] at hthaw
          exact hx.next_of_status hthaw
        · rw [State.thawUnder_of_kill hcx hs hr] at hthaw
          exact hx.next_of_status hthaw
        · rw [State.thawUnder_of_request hcx hs hr] at hthaw
          exact ⟨_, hx.next_of_status hthaw, State.preState_renewRequest .., State.preRung_renewRequest ..,
            by rw [State.coach?_renewRequest, hcx]; rfl, fun r hr hd hsl => State.began_of_mem_renewRequest hr hd hsl⟩
    · subst hj
      exact thaw_next_of_flag hcur ha hm hne hok hi rfl
    · subst hf
      exact thaw_next_of_flag hcur ha hm hne hok hi rfl

end Sys2Proof
end
